-- ==== Sys2Proof/Word.lean ====
section
/-! DEFINITION. Words and the numbers of the device's units (spec/00_scope.md R11, R15). -/

namespace Sys2Proof

/-- One byte of a memory, a cell or a datagram. -/
abbrev Byte := BitVec 8

/-- A 32-bit register, flag or FP32 bit pattern. -/
abbrev Word32 := BitVec 32

/-- A 64-bit register, or the 8 bytes that a register-window access carries (R428). -/
abbrev Word64 := BitVec 64

/-- Physical core 0 to 255, cluster-major (R15). -/
abbrev CoreId := Fin 256

/-- Physical cluster 0 to 15 (R15). -/
abbrev ClusterId := Fin 16

/-- Job context 0 to 15 (R249). -/
abbrev CtxId := Fin 16

/-- LPDDR controller group 0 to 15 (R15). -/
abbrev GroupId := Fin 16

/-- LPDDR channel 0 to 127 (R15). -/
abbrev ChanId := Fin 128

/-- Cuff port 0 to 23 (R15). -/
abbrev PortId := Fin 24

end Sys2Proof
end

