-- ==== Sys2Proof/Syntax.lean ====
section
/-! DEFINITION. The commands of the device: one constructor of `Instr` for each row of spec/opcode_table.json,
with the operands that the chapter of its rule gives it. A field that a check of the spec ranges over holds the raw
value, so that the check can refuse it; a number of a physical unit is a `Fin`, because no other unit exists (R15, R17).
Where the spec lists the values of a field without codes, the last constructor `unlisted` stands for every other value. -/

namespace Sys2Proof

/-! ### Fields shared by operations -/

/-- Rounding mode of a conversion (R42). -/
inductive Round | nearestEven | towardZero | stochastic | unlisted
  deriving DecidableEq, Repr

/-- The four engine queues of a core (Table 3-2), in the code order of R65. -/
inductive QueueId | matrix | vector | dma | sync
  deriving DecidableEq, Repr

/-- The wait of an operation (R64). -/
structure FlagWait where
  flag : BitVec 16
  target : Word32
  deriving DecidableEq, Repr

/-- The signal of an operation (R64). -/
structure FlagSignal where
  flag : BitVec 16
  inc : Nat
  deriving DecidableEq, Repr

/-- Where a scale comes from (R49): none, a code in the descriptor, or one byte at a location of the
operand's memory. -/
inductive Supplied | absent | code (x : Byte) | location (off : Nat)
  deriving DecidableEq, Repr

/-- Memory that an address field names. -/
inductive MemKind | oc | cm | dm | va | unlisted
  deriving DecidableEq, Repr

/-- An address in one of the memories that an operation reaches. -/
structure Loc where
  kind : MemKind
  addr : Nat
  deriving DecidableEq, Repr

/-! ### Matrix queue (chapters 4, 6, 7) -/

/-- Tile modes (Table 4-1). -/
inductive TileMode | c | u | i | unlisted
  deriving DecidableEq, Repr

/-- Orientation of a matrix operand (Table 6-1). -/
inductive Orient | rowAlong | rowAcross | mirrorAlong | mirrorAcross | unlisted
  deriving DecidableEq, Repr

/-- Block axis of an MX or LF operand: along K or across it (R35, R40, R97). -/
inductive BlockAxis | alongK | acrossK
  deriving DecidableEq, Repr

/-- Operand descriptor of a matrix operation (Table 4-2). `rowLen` is the row length of the full logical tensor, from
which the logical index of R46 is formed. -/
structure MatDesc where
  offset : Nat
  stored : Byte
  compute : Byte
  orient : Orient
  axis : BlockAxis
  pitch : Nat
  scaleOff : Nat
  supplied : Supplied
  tensorId : Word32
  origin : Nat
  rowLen : Nat
  codebook : Nat
  deriving DecidableEq, Repr

inductive SpForm | spRow | spT | dense24 | unlisted
  deriving DecidableEq, Repr

inductive SpPolicy | prune | fault | unlisted
  deriving DecidableEq, Repr

/-- Sparse fields of operand A (Table 7-1). -/
structure SparseF where
  form : SpForm
  policy : SpPolicy
  metaOff : Nat
  metaPitch : Nat
  deriving DecidableEq, Repr

/-- MMUL (Table 4-2). -/
structure MmulF where
  tile : Nat
  mode : TileMode
  accumulate : Bool
  m : Nat
  n : Nat
  k : Nat
  a : MatDesc
  b : MatDesc
  round : Round
  sparseA : Option SparseF
  glint : Option Nat
  deriving DecidableEq, Repr

inductive PreKind | zero | biasRow | biasCol | tile | unlisted
  deriving DecidableEq, Repr

/-- MPRELOAD (R105, Table 4-5). -/
structure MpreloadF where
  tile : Nat
  mode : TileMode
  kind : PreKind
  src : Loc
  format : Byte
  pitch : Nat
  deriving DecidableEq, Repr

inductive Compress | none | row | t | unlisted
  deriving DecidableEq, Repr

inductive MaskSrc | select | supplied | unlisted
  deriving DecidableEq, Repr

/-- MREAD (R106 to R109, R150, R176). `axis` is the block axis of an MX output: along the rows as written, or down them
(R35). -/
structure MreadF where
  tile : Nat
  mode : TileMode
  m : Nat
  n : Nat
  out : Loc
  format : Byte
  pitch : Nat
  mirror : Bool
  scaleOff : Nat
  supplied : Supplied
  tensorId : Word32
  origin : Nat
  rowLen : Nat
  axis : BlockAxis
  round : Round
  saturate : Option Bool
  transpose : Bool
  clear : Bool
  compress : Compress
  maskSrc : MaskSrc
  metaOff : Nat
  metaPitch : Nat
  glint : Option Nat
  deriving DecidableEq, Repr

/-- NPRED (Table 7-5). -/
structure NpredF where
  tile : Nat
  x : MatDesc
  v : MatDesc
  u : MatDesc
  t : Nat
  rank : Nat
  f : Nat
  tLit : Word32
  tPen : Word32
  auditLog2 : Nat
  tensorId : Word32
  out : Nat
  deriving DecidableEq, Repr

/-! ### Vector queue (chapters 5, 7, 12) -/

inductive VLoc | oc | cm | sreg | acc | none
  deriving DecidableEq, Repr

/-- Operand descriptor of a vector operation (Table 5-1). -/
structure VDesc where
  loc : VLoc
  offset : Nat
  format : Byte
  elemStride : Nat
  rowStride : Int
  scaleOff : Nat
  supplied : Supplied
  reg : Nat
  tensorId : Word32
  codebook : Nat
  deriving DecidableEq, Repr

inductive MaskMode | keep | zero | unlisted
  deriving DecidableEq, Repr

/-- Fields that every row operation carries (R117, R120, R126): shape, logical index origin, mask, rounding, the
saturate override of R43 and the flag destination. -/
structure VCom where
  n : Nat
  r : Nat
  g : Nat
  origin : Nat
  mask : Option Nat
  maskMode : MaskMode
  round : Round
  saturate : Option Bool
  flagDest : Option Nat
  deriving DecidableEq, Repr

structure VUn where
  com : VCom
  a : VDesc
  dst : VDesc
  deriving DecidableEq, Repr

structure VBin where
  com : VCom
  a : VDesc
  b : VDesc
  dst : VDesc
  deriving DecidableEq, Repr

structure VTern where
  com : VCom
  a : VDesc
  b : VDesc
  c : VDesc
  dst : VDesc
  deriving DecidableEq, Repr

/-- SEL: the condition bitmap is laid out as a mask (R124). -/
structure VSel where
  com : VCom
  cond : Nat
  a : VDesc
  b : VDesc
  dst : VDesc
  deriving DecidableEq, Repr

/-- Compares write a mask bitmap at `dst` of the operand cache (Table 5-2). -/
structure VCmp where
  com : VCom
  a : VDesc
  b : VDesc
  dst : Nat
  deriving DecidableEq, Repr

structure CvtF where
  com : VCom
  a : VDesc
  dst : VDesc
  glint : Option Nat
  deriving DecidableEq, Repr

structure CurveF where
  com : VCom
  slot : Nat
  a : VDesc
  dst : VDesc
  deriving DecidableEq, Repr

structure CurveLoadF where
  slot : Nat
  offset : Nat
  deriving DecidableEq, Repr

/-- Reduction kinds (Table 5-8). -/
inductive RedKind | sum | mean | prod | max | min | argmax | argmin | lse | sumsq | amax | unlisted
  deriving DecidableEq, Repr

inductive RedAxis | lane | row | all | unlisted
  deriving DecidableEq, Repr

structure RedF where
  com : VCom
  kind : RedKind
  axis : RedAxis
  a : VDesc
  dst : VDesc
  deriving DecidableEq, Repr

/-- SOFTMAX (R135): `lse` is the operand-cache offset of the optional log-sum-exp output, 4 bytes a logical row. -/
structure SoftmaxF where
  com : VCom
  scale : Word32
  a : VDesc
  dst : VDesc
  lse : Option Nat
  deriving DecidableEq, Repr

inductive Granule | row | element | unlisted
  deriving DecidableEq, Repr

/-- GATHER, SCATTER, SCATTER_ADD (R136, R137): `table` is the source of a gather and the destination of a scatter. -/
structure GatherF where
  com : VCom
  granule : Granule
  table : VDesc
  extent : Nat
  idx : VDesc
  other : VDesc
  deriving DecidableEq, Repr

inductive AccForm | value | raw | unlisted
  deriving DecidableEq, Repr

/-- ACC_RD and ACC_WR (R138, R139): in form RAW the second operand holds h. -/
structure AccF where
  com : VCom
  tile : Nat
  mode : TileMode
  rows : Nat
  cols : Nat
  form : AccForm
  op1 : VDesc
  op2 : VDesc
  deriving DecidableEq, Repr

/-- NORM_PARTIAL (R140): records of 16 bytes are written at `out` of the operand cache. -/
structure NormF where
  com : VCom
  axis : RedAxis
  a : VDesc
  b : Option VDesc
  out : Nat
  deriving DecidableEq, Repr

/-- GRAD_QUANT (R289): with `tile` set the source is that accumulator tile, otherwise operand `a`. -/
structure GradQuantF where
  com : VCom
  tile : Option (Nat × TileMode)
  a : VDesc
  err : VDesc
  dst : VDesc
  glint : Option Nat
  deriving DecidableEq, Repr

/-- AUDIT (R187): t rows of n_audit outputs and the miss tolerance. -/
structure AuditF where
  t : Nat
  nAudit : Nat
  src : VDesc
  tau : Word32
  deriving DecidableEq, Repr

/-- Element-wise operations of two floating-point sources (Table 5-2). -/
inductive BinOp | add | sub | mul | min | max | copysign | div
  deriving DecidableEq, Repr

inductive UnOp | abs | neg | sqrt
  deriving DecidableEq, Repr

inductive CmpOp | eq | lt | le | unord
  deriving DecidableEq, Repr

inductive IntOp | iadd | isub | imul | and | or | xor | shl | shr | sar | imin | imax
  deriving DecidableEq, Repr

/-- One vector-queue operation. -/
inductive VecOp
  | bin (k : BinOp) (f : VBin)
  | un (k : UnOp) (f : VUn)
  | fma (f : VTern)
  | sel (f : VSel)
  | cmp (k : CmpOp) (f : VCmp)
  | int (k : IntOp) (f : VBin)
  | cvt (f : CvtF)
  | curve (f : CurveF)
  | curveLoad (f : CurveLoadF)
  | red (f : RedF)
  | softmax (f : SoftmaxF)
  | gather (f : GatherF)
  | scatter (f : GatherF)
  | scatterAdd (f : GatherF)
  | accRd (f : AccF)
  | accWr (f : AccF)
  | norm (f : NormF)
  | gradQuant (f : GradQuantF)
  | audit (f : AuditF)
  deriving DecidableEq, Repr

/-! ### DMA queue (chapters 6, 8, 10, 11, 12, 14, 15) -/

/-- A core DMA copy (R259, R523): `rows` pieces of `rowLen` bytes. Piece i starts at src.addr + i × srcStride, or at
src.addr + gather[i] where a gather list is given, and lands at dst.addr + i × dstStride. One piece is a plain copy. -/
structure DmaF where
  src : Loc
  dst : Loc
  rows : Nat
  rowLen : Nat
  srcStride : Nat
  dstStride : Nat
  gather : List Nat
  deriving DecidableEq, Repr

/-- Classes a core may name for a remote operation (R365). -/
inductive ReqClass | req | blk
  deriving DecidableEq, Repr

/-- PUT and REDUCE_PUT (Table 14-8); `fmt` is used by REDUCE_PUT alone: 0 FP32, 1 BF16, 2 INT32. -/
structure PutF where
  cls : ReqClass
  dest : BitVec 16
  rtag : Nat
  src : Loc
  len : Nat
  va : Nat
  fmt : Nat
  deriving DecidableEq, Repr

structure GetF where
  cls : ReqClass
  dest : BitVec 16
  rtag : Nat
  va : Nat
  len : Nat
  dst : Loc
  deriving DecidableEq, Repr

/-- ATOMIC: op 0 ADD, 1 OR, 2 CAS. -/
structure AtomicF where
  dest : BitVec 16
  rtag : Nat
  va : Nat
  op : Nat
  operand : Word64
  compare : Word64
  dst : Loc
  deriving DecidableEq, Repr

/-- Remote FLAG_SET: mode 0 SET, 1 ADD. -/
structure RemoteFlagF where
  dest : BitVec 16
  rtag : Nat
  cluster : Nat
  flag : BitVec 16
  mode : Nat
  value : Word32
  deriving DecidableEq, Repr

structure StashPutF where
  key : Word32
  src : Loc
  size : Nat
  deriving DecidableEq, Repr

structure StashGetF where
  key : Word32
  dst : Loc
  release : Bool
  deriving DecidableEq, Repr

/-- ROUTE (R193). -/
structure RouteF where
  layerId : Word32
  srcIndex : Nat
  round : Nat
  logits : Loc
  format : Byte
  pitch : Nat
  t : Nat
  tokenBase : Nat
  act : Nat
  ledger : Nat
  combine : Nat
  xrec : Nat
  deriving DecidableEq, Repr

/-- ROUTE_GRAD (R217). -/
structure RouteGradF where
  layerId : Word32
  logits : Loc
  format : Byte
  pitch : Nat
  t : Nat
  tokenBase : Nat
  ledger : Nat
  dg : Nat
  dlogits : Nat
  deriving DecidableEq, Repr

/-- Exchange phases (Table 13 of chapter 8), in the code order of Table 14-3. -/
inductive Phase | fd | fc | bd | bc
  deriving DecidableEq, Repr

/-- XSEND (R216). -/
structure XsendF where
  layerId : Word32
  phase : Phase
  round : Nat
  mb : Nat
  srcIndex : Nat
  record : Nat
  region : Nat
  expert : Option Nat
  deriving DecidableEq, Repr

/-- XRECV_ARM (R213). `srcIndex` is the armed source for FC and BC, whose record is an exchange record. -/
structure XrecvF where
  layerId : Word32
  phase : Phase
  round : Nat
  mb : Nat
  srcIndex : Nat
  record : Nat
  flag : BitVec 16
  readyList : Nat
  deadlineMs : Nat
  deriving DecidableEq, Repr

/-- BUF_GET (R276). -/
structure BufGetF where
  pool : Nat
  size : Nat
  requester : Nat
  result : Loc
  deriving DecidableEq, Repr

/-- BUF_REF and BUF_PUT (R279). -/
structure BufCountF where
  handle : Word32
  n : Nat
  deriving DecidableEq, Repr

/-- UPDATE (R291). -/
structure UpdateF where
  shard : Nat
  engine : Nat
  hyper : Nat
  beacon : Nat
  spare : Nat
  result : Nat
  deriving DecidableEq, Repr

inductive StageDir | toNear | toFar
  deriving DecidableEq, Repr

structure ShardStageF where
  shard : Nat
  dir : StageDir
  deriving DecidableEq, Repr

/-- COLL_START (R379) and BEACON (R304, no source and no shard). -/
structure CollF where
  desc : Nat
  src : Nat
  dst : Nat
  shard : Nat
  result : Nat
  deriving DecidableEq, Repr

structure FenceF where
  limitMs : Nat
  cancel : Bool
  deriving DecidableEq, Repr

/-- One DMA-queue operation. -/
inductive DmaOp
  | copy (f : DmaF)
  | put (f : PutF)
  | get (f : GetF)
  | atomic (f : AtomicF)
  | flagSet (f : RemoteFlagF)
  | reducePut (f : PutF)
  | stashPut (f : StashPutF)
  | stashGet (f : StashGetF)
  | stashDrop (key : Word32)
  | route (f : RouteF)
  | routeGrad (f : RouteGradF)
  | xsend (f : XsendF)
  | xrecvArm (f : XrecvF)
  | visitClear (layerId : Word32)
  | bufGet (f : BufGetF)
  | bufRef (f : BufCountF)
  | bufPut (f : BufCountF)
  | update (f : UpdateF)
  | shardStage (f : ShardStageF)
  | collStart (f : CollF)
  | beacon (f : CollF)
  | epochFence (f : FenceF)
  | epochSwitch (table : Nat)
  deriving DecidableEq, Repr

/-! ### Sync queue (chapters 2, 3, 12) -/

/-- GLINT_ARM (R51). -/
structure GlintArmF where
  slot : Nat
  tensorId : Word32
  tap : Nat
  format : Byte
  hist : Nat
  margin : Nat
  record : Nat
  deriving DecidableEq, Repr

/-- One sync-queue operation (R70, R51, R53, R55, R290). GLINT_SCALE returns its code into a scalar register. -/
inductive SyncOp
  | flagWait (flag : BitVec 16) (target : Word32)
  | flagAdd (flag : BitVec 16) (inc : Nat)
  | flagSet (flag : BitVec 16) (value : Word32)
  | flagRead (flag : BitVec 16) (addr : Nat)
  | seedSet (seed : Word64)
  | stepSet (step : Word32)
  | glintArm (f : GlintArmF)
  | glintClose (slot : Nat)
  | glintScale (slot : Nat) (format : Byte) (reg : Nat)
  | beaconMark
  deriving DecidableEq, Repr

inductive MatOp
  | mmul (f : MmulF)
  | mpreload (f : MpreloadF)
  | mread (f : MreadF)
  | npred (f : NpredF)
  deriving DecidableEq, Repr

/-- An operation of any queue. -/
inductive Op
  | mat (o : MatOp)
  | vec (o : VecOp)
  | dma (o : DmaOp)
  | sync (o : SyncOp)
  deriving DecidableEq, Repr

/-! ### Bundles and scalar slots (chapter 3) -/

/-- Count source of LOOP_BEGIN (R71). -/
inductive LoopCount | imm (n : Nat) | reg (r : Nat) | dm (addr : Nat) | cm (addr : Nat)
  deriving DecidableEq, Repr

/-- LOOP_BEGIN (R71). `last` names the last bundle of the body by the byte offset at which it ends. -/
structure LoopF where
  count : LoopCount
  last : Nat
  deriving DecidableEq, Repr

/-- Integer and FP32 arithmetic of the scalar processor, whose encoding R4 keeps private: the result of the slot is
given by the class of the operation. -/
inductive ScalarAlu | add | sub | mul | and | or | xor | shl | shr | sltu | slt | fadd | fsub | fmul
  deriving DecidableEq, Repr

/-- A scalar load or store (R260): register, space and byte address. -/
structure ScalarMemF where
  store : Bool
  reg : Nat
  loc : Loc
  deriving DecidableEq, Repr

/-- The scalar slots of a bundle (The scalar processor; R61, R68, R71, R73). `branch` names the byte offset of the target
bundle and the register that must be non-zero for the branch to be taken. -/
inductive ScalarSlot
  | setImm (rd : Nat) (v : Word64)
  | alu (k : ScalarAlu) (rd ra rb : Nat)
  | mem (f : ScalarMemF)
  | branch (target : Nat) (cond : Nat)
  | swait (w : FlagWait)
  | loopBegin (f : LoopF)
  | readLoop (rd : Nat) (level : Nat)
  deriving DecidableEq, Repr

/-- An operation slot with its wait and signal (R64). -/
structure OpSlot where
  op : Op
  wait : Option FlagWait
  signal : Option FlagSignal
  deriving DecidableEq, Repr

/-- A bundle (R60, R61): at most two scalar slots and one slot for each queue. -/
structure Bundle where
  scalar : List ScalarSlot
  matrix : Option OpSlot
  vector : Option OpSlot
  dma : Option OpSlot
  sync : Option OpSlot
  deriving DecidableEq, Repr

/-- The outcome of an operation in flight (R6), recorded by the command that carries out its effect. -/
inductive Outc | done | refused (status : BitVec 16) | faulted (cause : BitVec 16)
  deriving DecidableEq, Repr

/-! ### Network, links and memory (chapters 9, 10, 13, 14) -/

/-- A cell (R349): class of its virtual channel (Table 13-3), 96-bit header, 48 payload bytes, CRC-32C. -/
structure Cell where
  cls : Nat
  hdr : BitVec 96
  payload : List Byte
  crc : Word32
  deriving DecidableEq, Repr

/-- The capability block that EXCHANGE receives (R335); the six adaptive allotments in units of 8 cells (Table 13-4). -/
structure CapBlock where
  node : BitVec 16
  port : Nat
  genMask : BitVec 3
  allot : List Nat
  seeds : List Word64
  deriving DecidableEq, Repr

/-- The five traffic kinds of a channel (R24) and the scrub slot (R233). -/
inductive Traffic | dma | xch | coll | update | host | scrub
  deriving DecidableEq, Repr

/-- The agents that translate (Table 10-6). -/
inductive Agent
  | scalar | fetch | coreDma | bulkDma | remoteOp | routeOp | exchange | pocket | stash | collective | update
  | inbound | inboundPinned | hostDma
  deriving DecidableEq, Repr

inductive Access | read | write | fetch | atomic
  deriving DecidableEq, Repr

/-- The SRAMs that a patrol scrubs (R226). -/
inductive PatrolMem | cluster (k : ClusterId) | lantern | wardrobe
  deriving DecidableEq, Repr

/-- What the array returns of a word of SRAM (R223): as written, one bit wrong, or two bits wrong. -/
inductive WordErr | single | double
  deriving DecidableEq, Repr

/-- The SRAMs of a core (Table 9-1, kinds 1 to 4). -/
inductive CoreMem | dataMemory | programBuffer | operandCache | accumulator
  deriving DecidableEq, Repr

/-- An upset that has struck a 64-bit word of an SRAM of a core (R223). Words of the program buffer are numbered by the code
that they hold, from the start of the code segment; those of accumulator memory run on from slot to slot. -/
structure Upset where
  mem : CoreMem
  word : Nat
  err : WordErr
  deriving DecidableEq, Repr

/-! ### Host port and mailbox (chapters 16, 17) -/

/-- What the port sees of a RoCE packet for one of its queue pairs (R400, R401): the queue pair's number, the packet's
ECN mark, and whether Table 16-6 serves its opcode. -/
structure RoceHead where
  qp : Nat
  ecn : Bool
  served : Bool
  deriving DecidableEq, Repr

/-- An Ethernet frame as the MAC sees it (R394 to R396): length, FCS result, 802.1Q priority, PAUSE, for a MACsec frame
its secure channel identifier, association number and the result of the integrity check, and for a RoCE packet its head. -/
structure EthFrame where
  len : Nat
  fcsOk : Bool
  pause : Bool
  pcp : Option Nat
  sec : Option (Word64 × Nat × Bool)
  roce : Option RoceHead := none
  deriving DecidableEq, Repr

/-- Requests that the port itself answers (R398). -/
inductive NetQuery | arp (ip : Word32) | neighbour (ip : BitVec 128) | echo4 (ip : Word32) | echo6 (ip : BitVec 128) | udp (port : Nat)
  deriving DecidableEq, Repr

/-- What every mailbox request carries beside its fields: session, payload length in bytes, and the OR of the payload's
reserved fields (Table 17-2 checks 1, 3 and 6). -/
structure Req where
  session : Nat
  length : Nat
  reserved : Nat
  deriving DecidableEq, Repr

/-- The host's side of a transfer by host DMA: the bytes its memory delivers to the transfer's reads before a failure, and the
bytes it accepts of the transfer's writes before a failure (R403). -/
structure FarIO where
  bytes : List Byte
  accepted : Nat
  deriving DecidableEq, Repr

/-- One entry of the training table (Table 13-5). -/
structure TrainEntry where
  action : Nat
  gen : Nat
  retries : Nat
  timeoutUs : Nat
  nextOk : Nat
  nextFail : Nat
  param0 : Word32
  param1 : Word32
  deriving DecidableEq, Repr

/-- LINK_TEST (Table 17-7). -/
structure LinkTestF where
  side : Nat
  port : Nat
  pattern : Nat
  laneMask : Nat
  invert : Nat
  dwellUs : Nat
  targetBer : Word32
  deriving DecidableEq, Repr

/-- An eye as a scan of a lane meets it (R344): the error ratios, as FP32, of the points outward from the data sampler's position, in
phase to the left and to the right and in voltage up and down. -/
structure Eye where
  left : List Word32
  right : List Word32
  up : List Word32
  down : List Word32
  deriving DecidableEq, Repr

/-- What happens to a start-up after the boot ROM's choice (Table 19-6): LPDDR training, the SRAM self-test, and
whether Lantern reaches step 9 within 10 s of its release. -/
structure StartF where
  lpddrOk : Bool
  selfTestFail : Option (Nat × Nat)
  reachesNine : Bool
  deriving DecidableEq, Repr

inductive RefClk | serdes | sys
  deriving DecidableEq, Repr

/-- Rails whose regulation PWR_OK watches (Table 22-5). -/
inductive Rail | vsoc | vcore (q : Fin 4) | lpddr
  deriving DecidableEq, Repr

/-! ### Operands of single rows -/

/-- A bundle, and the upsets that have struck words of its core's SRAMs before it (R61, R223). -/
structure Issue where
  bundle : Bundle
  upsets : List Upset
  deriving DecidableEq, Repr

/-- An UPDATE, and how many of its pieces the row carries out; none: all that are left (R293). -/
structure UpdateRow where
  f : UpdateF
  pieces : Option Nat
  deriving DecidableEq, Repr

/-- The bytes that four lanes bring, and the places in the input buffer of cells on words that upsets have struck (R319, R223). -/
structure LaneBytes where
  wire : List Byte
  struck : List Nat
  deriving DecidableEq, Repr

/-- What DESKEW finds: the skew in UI, whether the lanes are reversed, and which are inverted (R334). -/
structure Alignment where
  skewUi : Nat
  reversed : Bool
  inverted : BitVec 4
  deriving DecidableEq, Repr

/-- How a transaction reaches its line: under which traffic kind (R24), and what the array has changed of the line (R243). -/
structure LineVia where
  kind : Traffic
  upset : List (Nat × BitVec 16)
  deriving DecidableEq, Repr

/-- A lane, and the bits that it has received, latest first (R342). -/
structure LaneBits where
  lane : Nat
  stream : List Bool
  deriving DecidableEq, Repr

/-- Errors that a checker counted while it had its lock, and the span of bits that holds the latest 64 (R342). -/
structure LockLoss where
  errors : Nat
  span : Nat
  deriving DecidableEq, Repr

/-! ### The commands -/

/-- The commands: the rows of spec/opcode_table.json in its order. -/
inductive Instr
  /-- BUNDLE_ISSUE (R61): The scalar processor issues one whole bundle once every queue it names has room; its scalar slots take effect and its operations enter their queues. -/
  | bundleIssue (c : CoreId) (b : Issue)
  /-- FETCH_MISS (R59): A program-buffer line that missed arrives from LPDDR and issue resumes. -/
  | fetchMiss (c : CoreId) (line : Nat)
  /-- LOOP_BEGIN (R71): The scalar slot reads and latches a loop count and repeats the body that many times, or skips it for a count of 0. -/
  | loopBegin (c : CoreId) (f : LoopF)
  /-- SWAIT (R68): The scalar flag wait stalls issue until the named flag reaches its target. -/
  | swait (c : CoreId) (w : FlagWait)
  /-- SCALAR_LOAD_STORE (R260): A scalar load or store reaches data memory, cluster memory or a VA and faults the bundle on a translation failure. -/
  | scalarLoadStore (c : CoreId) (f : ScalarMemF)
  /-- OPERATION_START (R64): A queued operation whose wait is satisfied starts and leaves its queue for an in-flight place of its engine. -/
  | operationStart (c : CoreId) (q : QueueId)
  /-- OPERATION_END (R64): An operation reaches its outcome; when it ends done its signal increments its flag. -/
  | operationEnd (c : CoreId) (q : QueueId) (index : Nat)
  /-- WAIT_CYCLE_SUSPECTED (R78): The stall limit expires while every queue of the core waits with no agent able to set its flags, and the monitor writes a record and notifies Lantern. -/
  | waitCycleSuspected (c : CoreId)
  /-- STOP_REACHED (R82): A context halted by its bundle stop count becomes quiescent and Lantern reports stop reached. -/
  | stopReached (x : CtxId)
  /-- FLAG_WAIT (R70): The sync operation completes once the flag reaches its target. -/
  | flagWait (c : CoreId) (flag : BitVec 16) (target : Word32)
  /-- FLAG_ADD (R70): The sync operation atomically adds an increment to a flag, saturating and setting CLU_FLAG_OVF on overflow. -/
  | flagAdd (c : CoreId) (flag : BitVec 16) (inc : Nat)
  /-- FLAG_SET (R70): The sync operation sets a flag to a value. -/
  | flagSet (c : CoreId) (flag : BitVec 16) (value : Word32)
  /-- FLAG_READ (R70): The sync operation writes a flag's value to data memory. -/
  | flagRead (c : CoreId) (flag : BitVec 16) (addr : Nat)
  /-- SEED_SET (R70): The context rounding seed takes a new value when the bundle issues. -/
  | seedSet (c : CoreId) (seed : Word64)
  /-- STEP_SET (R70): The context step number takes a new value when the bundle issues. -/
  | stepSet (c : CoreId) (stepNo : Word32)
  /-- GLINT_ARM (R51): Arms a Glint slot for a tensor, tap, format, history and margin. -/
  | glintArm (c : CoreId) (f : GlintArmF)
  /-- GLINT_CLOSE (R53): Writes the slot's record, pushes amax into the history and disarms the slot. -/
  | glintClose (c : CoreId) (slot : Nat)
  /-- GLINT_SCALE (R55): Returns a scale code computed from the slot's amax history and margin. -/
  | glintScale (c : CoreId) (slot : Nat) (format : Byte) (reg : Nat)
  /-- BEACON_MARK (R290): Sets the context's non-finite bit for the step. -/
  | beaconMark (c : CoreId)
  /-- MMUL (R92): Multiplies operands A and B from the operand cache into an accumulator tile by the summation rules. -/
  | mmul (c : CoreId) (f : MmulF)
  /-- MPRELOAD (R105): Writes a zero, bias or tile starting value into an accumulator tile. -/
  | mpreload (c : CoreId) (f : MpreloadF)
  /-- MREAD (R106): Reads a tile, rounds each element once to the output format and writes it, optionally transposed, cleared or compressed. -/
  | mread (c : CoreId) (f : MreadF)
  /-- NPRED (R183): Scores every neuron with a low-rank predictor, classes them lit, penumbra or umbra, draws the audit set and writes the lists. -/
  | npred (c : CoreId) (f : NpredF)
  /-- ADD (R124): Element-wise floating-point addition, rounded once to the destination. -/
  | add (c : CoreId) (f : VBin)
  /-- SUB (R124): Element-wise floating-point subtraction. -/
  | sub (c : CoreId) (f : VBin)
  /-- MUL (R124): Element-wise floating-point multiplication. -/
  | mul (c : CoreId) (f : VBin)
  /-- FMA (R124): Element-wise fused multiply-add with one rounding. -/
  | fma (c : CoreId) (f : VTern)
  /-- MIN (R124): Element-wise minimum, with -0 ordered below +0 and NaN canonical. -/
  | min (c : CoreId) (f : VBin)
  /-- MAX (R124): Element-wise maximum, with -0 ordered below +0 and NaN canonical. -/
  | max (c : CoreId) (f : VBin)
  /-- ABS (R124): Element-wise absolute value. -/
  | abs (c : CoreId) (f : VUn)
  /-- NEG (R124): Element-wise negation. -/
  | neg (c : CoreId) (f : VUn)
  /-- COPYSIGN (R124): Element-wise copy of sign. -/
  | copysign (c : CoreId) (f : VBin)
  /-- SEL (R124): Each lane takes source a or b by its condition bit. -/
  | sel (c : CoreId) (f : VSel)
  /-- CMP_EQ (R124): Compares for equality and writes a mask bitmap. -/
  | cmpEq (c : CoreId) (f : VCmp)
  /-- CMP_LT (R124): Compares less-than and writes a mask bitmap. -/
  | cmpLt (c : CoreId) (f : VCmp)
  /-- CMP_LE (R124): Compares less-or-equal and writes a mask bitmap. -/
  | cmpLe (c : CoreId) (f : VCmp)
  /-- CMP_UNORD (R124): Compares for unordered and writes a mask bitmap. -/
  | cmpUnord (c : CoreId) (f : VCmp)
  /-- DIV (R124): Correctly rounded element-wise division. -/
  | div (c : CoreId) (f : VBin)
  /-- SQRT (R124): Correctly rounded element-wise square root. -/
  | sqrt (c : CoreId) (f : VUn)
  /-- IADD (R124): INT32 addition keeping the low 32 bits. -/
  | iadd (c : CoreId) (f : VBin)
  /-- ISUB (R124): INT32 subtraction keeping the low 32 bits. -/
  | isub (c : CoreId) (f : VBin)
  /-- IMUL (R124): INT32 multiplication keeping the low 32 bits. -/
  | imul (c : CoreId) (f : VBin)
  /-- AND (R124): Bitwise AND on INT32 lanes. -/
  | and (c : CoreId) (f : VBin)
  /-- OR (R124): Bitwise OR on INT32 lanes. -/
  | or (c : CoreId) (f : VBin)
  /-- XOR (R124): Bitwise XOR on INT32 lanes. -/
  | xor (c : CoreId) (f : VBin)
  /-- SHL (R124): Shift left with the count taken modulo 32. -/
  | shl (c : CoreId) (f : VBin)
  /-- SHR (R124): Logical shift right with the count taken modulo 32. -/
  | shr (c : CoreId) (f : VBin)
  /-- SAR (R124): Arithmetic shift right with the count taken modulo 32. -/
  | sar (c : CoreId) (f : VBin)
  /-- IMIN (R124): INT32 minimum. -/
  | imin (c : CoreId) (f : VBin)
  /-- IMAX (R124): INT32 maximum. -/
  | imax (c : CoreId) (f : VBin)
  /-- CVT (R125): Converts between any two formats, forming groups, blocks and scales for scaled destinations. -/
  | cvt (c : CoreId) (f : CvtF)
  /-- CURVE (R131): Evaluates a built-in or loaded curve table on each element. -/
  | curve (c : CoreId) (f : CurveF)
  /-- CURVE_LOAD (R129): Copies a validated curve table from the operand cache into slot 8 to 15. -/
  | curveLoad (c : CoreId) (f : CurveLoadF)
  /-- RED (R133): Reduces along a lane, row or all axis by the named kind in a fixed order. -/
  | red (c : CoreId) (f : RedF)
  /-- SOFTMAX (R135): Computes softmax over logical rows by the case table, optionally writing log-sum-exp and flags. -/
  | softmax (c : CoreId) (f : SoftmaxF)
  /-- GATHER (R136): Gathers rows or elements of a table by index, masking out-of-range or poisoned indices. -/
  | gather (c : CoreId) (f : GatherF)
  /-- SCATTER (R137): Writes source rows or elements to indexed positions in ascending logical index. -/
  | scatter (c : CoreId) (f : GatherF)
  /-- SCATTER_ADD (R137): Adds source values into indexed positions with one rounding per addition. -/
  | scatterAdd (c : CoreId) (f : GatherF)
  /-- ACC_RD (R138): Reads an accumulator tile as rounded values or raw sum and Hem. -/
  | accRd (c : CoreId) (f : AccF)
  /-- ACC_WR (R139): Writes an accumulator tile from values or raw sum and Hem. -/
  | accWr (c : CoreId) (f : AccF)
  /-- NORM_PARTIAL (R140): Forms compensated sum-of-squares, amax and non-finite counts of a + b as 16-byte records. -/
  | normPartial (c : CoreId) (f : NormF)
  /-- GRAD_QUANT (R289): Quantizes gradient plus error term to MS8 and writes the new error term. -/
  | gradQuant (c : CoreId) (f : GradQuantF)
  /-- AUDIT (R187): Counts audited umbra neurons and misses above a tolerance. -/
  | audit (c : CoreId) (f : AuditF)
  /-- DMA_COPY (R259): Copies bytes between memories in 64 KiB chunks, faulting at a chunk start with its progress recorded. -/
  | dmaCopy (c : CoreId) (f : DmaF)
  /-- PUT (R365): Sends a remote write message whose target writes the bytes and returns a completion. -/
  | put (c : CoreId) (f : PutF)
  /-- GET (R365): Sends a remote read whose target returns GET_DATA cells. -/
  | get (c : CoreId) (f : GetF)
  /-- ATOMIC (R365): Sends a remote 64-bit add, or or compare-swap that returns the old value. -/
  | atomic (c : CoreId) (f : AtomicF)
  /-- REMOTE_FLAG_SET (R365): Sends a remote set or add of a flag of another cluster or device. -/
  | remoteFlagSet (c : CoreId) (f : RemoteFlagF)
  /-- REDUCE_PUT (R365): Sends data that the target stages and adds into its destination at completion. -/
  | reducePut (c : CoreId) (f : PutF)
  /-- MESSAGE_SEND (R359): Takes an outbound context and injects a message's cells, waiting if no context is free. -/
  | messageSend (index : Nat)
  /-- STASH_PUT (R156): Copies a source into a new Pocket entry under a key, spilling older entries if needed. -/
  | stashPut (c : CoreId) (f : StashPutF)
  /-- STASH_PUT_CONTINUE (R159): A STASH_PUT that waited for every resident entry's read continues when a read ends. -/
  | stashPutContinue (k : ClusterId)
  /-- STASH_GET (R156): Copies a whole entry to a destination and optionally frees it. -/
  | stashGet (c : CoreId) (f : StashGetF)
  /-- STASH_DROP (R156): Frees a Pocket entry and its granules. -/
  | stashDrop (c : CoreId) (key : Word32)
  /-- ROUTE (R198): Scores logits, selects top-k, applies capacity and writes the ledger, combine map, exchange record and run lists. -/
  | route (c : CoreId) (f : RouteF)
  /-- ROUTE_GRAD (R217): Computes the gradient of the logits from the gate-weight gradients. -/
  | routeGrad (c : CoreId) (f : RouteGradF)
  /-- XSEND (R216): Sends one exchange phase of a layer as XCH messages and ends when all complete. -/
  | xsend (c : CoreId) (f : XsendF)
  /-- XRECV_ARM (R213): Arms the receiving side of one exchange phase and tracks its experts to readiness. -/
  | xrecvArm (c : CoreId) (f : XrecvF)
  /-- VISIT_CLEAR (R219): Sets the layer's visit_array to 0. -/
  | visitClear (c : CoreId) (layerId : Word32)
  /-- EXCHANGE_DEADLINE (R215): An armed receive's deadline passes before every expert is ready and the receive ends faulted. -/
  | exchangeDeadline (k : ClusterId) (layerId : Word32) (phase : Phase) (round : Nat)
  /-- BUF_GET (R274): Requests an aligned block of buffers from a pool under quota and reserve checks and writes a result record. -/
  | bufGet (c : CoreId) (f : BufGetF)
  /-- BUF_REF (R279): Adds to an allocation's reference count. -/
  | bufRef (c : CoreId) (f : BufCountF)
  /-- BUF_PUT (R279): Subtracts from an allocation's reference count. -/
  | bufPut (c : CoreId) (f : BufCountF)
  /-- UPDATE (R293): The update engine decides, and runs or recovers, the journalled three-phase optimizer update of a shard. -/
  | update (c : CoreId) (u : UpdateRow)
  /-- SHARD_STAGE (R308): Copies a FAR shard's state into the near resident copy or back to the far tier. -/
  | shardStage (c : CoreId) (f : ShardStageF)
  /-- BEACON (R304): Reads and clears the non-finite bit and all-reduces it with a present mask across the job. -/
  | beacon (c : CoreId) (f : CollF)
  /-- EPOCH_FENCE (R313): Sets the epoch record FENCED and waits for drains, or with cancel returns it to STABLE. -/
  | epochFence (c : CoreId) (f : FenceF)
  /-- EPOCH_FENCE_DRAINED (R313): No update is pending and every started stage has drained, so old-epoch cells are refused from then on and carries are discarded. -/
  | epochFenceDrained (x : CtxId)
  /-- EPOCH_FENCE_TIMEOUT (R313): The fence limit passes before drain and the fence ends faulted. -/
  | epochFenceTimeout (x : CtxId)
  /-- EPOCH_SWITCH (R314): Writes the epoch record with epoch + 1 and the new table in one line. -/
  | epochSwitch (c : CoreId) (table : Nat)
  /-- COLL_START (R379): Checks and arms all stages of a collective of a descriptor. -/
  | collStart (c : CoreId) (f : CollF)
  /-- STAGE_DEADLINE (R381): A reduction or Beacon stage's deadline passes and the stage closes with the contributions present. -/
  | stageDeadline (k : ClusterId) (desc : Nat) (stage : Nat)
  /-- COLL_WAIT_TIMEOUT (R379): A stage without a deadline waits longer than wait_ms and the collective ends faulted. -/
  | collWaitTimeout (k : ClusterId) (desc : Nat) (stage : Nat)
  /-- RING_STAGE_ARM (R388): A ring receiver arms stage s once flag_b and its previous send allow, and sends a RING_CREDIT. -/
  | ringStageArm (k : ClusterId) (desc : Nat) (stage : Nat)
  /-- RING_STAGE_SEND (R388): A ring member sends a stage's block once it holds the credit and the block is ready. -/
  | ringStageSend (k : ClusterId) (desc : Nat) (stage : Nat)
  /-- CELL_FORWARD (R356): A cell not addressed to this node takes an adaptive or escape channel on a candidate port, or waits for credit. -/
  | cellForward (src : Option (PortId × Nat)) (cell : Cell)
  /-- CELL_ARRIVAL (R360): A format-A cell addressed to this node is checked and placed in its inbound context, completing the message at full count. -/
  | cellArrival (cell : Cell)
  /-- XCH_CELL (R367): A format-X data cell is placed by the armed receive at its run position, or NAKed. -/
  | xchCell (cell : Cell)
  /-- XCH_REPLY (R351): A format-X reply cell brings a completion, retry or refusal of an exchange message. -/
  | xchReply (cell : Cell)
  /-- COMPLETION (R359): A COMPLETION reply ends an outbound message done. -/
  | completion (cell : Cell)
  /-- NAK_RETRY (R362): A retry-later NAK starts the back-off before a resend with a new generation. -/
  | nakRetry (cell : Cell)
  /-- NAK_REFUSE (R359): A refusal NAK ends the outbound message refused. -/
  | nakRefuse (cell : Cell)
  /-- GET_DATA (R365): A GET_DATA cell is placed at the GET's destination. -/
  | getData (cell : Cell)
  /-- ATOMIC_RESULT (R365): An ATOMIC_RESULT reply returns the old value and ends the ATOMIC. -/
  | atomicResult (cell : Cell)
  /-- RESEND_TIMEOUT (R361): resend_us passes with no reply, so every cell is resent with gen + 1, or the message faults after resend_limit. -/
  | resendTimeout (msg : Nat)
  /-- NAK_BACKOFF_EXPIRY (R362): The NAK back-off ends and the message is resent with the next generation. -/
  | nakBackoffExpiry (msg : Nat)
  /-- NAK_LIMIT_EXPIRY (R362): A message has received only NAK_RETRY for nak_ms and ends faulted. -/
  | nakLimitExpiry (msg : Nat)
  /-- INBOUND_CONTEXT_TIMEOUT (R360): An inbound context with no cell for 2 x resend_us is freed. -/
  | inboundContextTimeout (index : Nat)
  /-- RETIRE_EXPIRY (R363): A format-A retire record's retire_us lapses and the record is removed. -/
  | retireExpiry (index : Nat)
  /-- OUTBOUND_CONTEXT_REUSE (R359): retire_us after an outbound message's outcome, its context becomes reusable. -/
  | outboundContextReuse (msg : Nat)
  /-- FRAME_TRANSMIT (R331): The link transmitter forms and sends the next frame with the cells and credit returns ready. -/
  | frameTransmit (p : PortId)
  /-- FRAME_RECEIVE (R325): A received frame is decoded and, if good and in sequence, its cells and credits are accepted and its ack, nak and pm are used. -/
  | frameReceive (p : PortId) (w : LaneBytes)
  /-- REPLAY_TIMEOUT (R326): ack has not advanced for replay_us, so the transmitter replays from the oldest body, or resets the link after 8 replays. -/
  | replayTimeout (p : PortId)
  /-- RECEIVER_NAK_TIMEOUT (R325): replay_us passes without E advancing and the receiver sets nak again. -/
  | receiverNakTimeout (p : PortId)
  /-- LOSS_OF_LOCK (R338): A lane loses lock or the partner starts training, and the port performs a link reset. -/
  | lossOfLock (p : PortId) (lanes : BitVec 4)
  /-- TRAINING_TIMEOUT (R333): A training entry's timeout expires and counts as a failure of its action. -/
  | trainingTimeout (p : PortId)
  /-- DETECT (R334): The training action sends a pattern and succeeds when the partner's pattern locks on all lanes. -/
  | detect (p : PortId) (locked : Bool)
  /-- DESKEW (R334): The training action aligns lanes and corrects lane reversal and polarity. -/
  | deskew (p : PortId) (found : Alignment)
  /-- EXCHANGE (R335): The training action exchanges capability blocks and negotiates the generation. -/
  | exchange (p : PortId) (block : Option CapBlock)
  /-- SET_GEN (R334): The training action switches both ends to a generation. -/
  | setGen (p : PortId) (relocked : Bool)
  /-- EQ_PRESET (R334): The training action sets a transmit FIR preset. -/
  | eqPreset (p : PortId)
  /-- EQ_ADAPT (R334): The training action adapts receive equalisation and requests transmit coefficients. -/
  | eqAdapt (p : PortId) (iterations : Option Nat)
  /-- BER_CHECK (R334): The training action checks each lane's pre-FEC error ratio over PRBS31. -/
  | berCheck (p : PortId) (ber : List Word32)
  /-- DELAY (R334): The training action waits a number of microseconds. -/
  | delay (p : PortId)
  /-- FALLBACK (R334): The training action lowers the port's target generation by 1. -/
  | fallback (p : PortId)
  /-- LINK_UP (R334): The training action starts frames and makes the port ACTIVE when a good frame arrives. -/
  | linkUp (p : PortId) (goodFrame : Bool)
  /-- QUIET_IDLE_EXPIRY (R339): An idle link meets the Quiet conditions for quiet_idle_us and sends QUIET_REQ. -/
  | quietIdleExpiry (p : PortId)
  /-- QUIET_REQ_TIMEOUT (R339): The partner does not answer within 8 frame times, so the entry is refused. -/
  | quietReqTimeout (p : PortId)
  /-- WAKE_BURST (R339): Either end wakes a Quiet link and frames resume within 1 us. -/
  | wakeBurst (p : PortId)
  /-- LINE_READ (R243): The memory controller reads a line and classifies it as clean, corrected, poisoned or uncorrectable. -/
  | lineRead (pa : Nat) (kind : Traffic) (upset : List (Nat × BitVec 16))
  /-- LINE_WRITE (R235): The memory controller writes a whole line, or merges a partial write by read-modify-write. -/
  | lineWrite (pa : Nat) (bytes : List Byte) (poison : Bool) (via : LineVia)
  /-- LINE_ATOMIC (R234): The controller performs a 64-bit atomic as one indivisible read-modify-write, refusing it on a poisoned line. -/
  | lineAtomic (pa : Nat) (op : Nat) (operand : Word64) (compare : Word64) (via : LineVia)
  /-- SELF_REFRESH_ENTRY (R236): A channel group's idle timer reaches idle_us and the group enters self-refresh unless refused. -/
  | selfRefreshEntry (g : GroupId)
  /-- SELF_REFRESH_EXIT (R236): A transaction arriving in self-refresh waits for the exit and then proceeds. -/
  | selfRefreshExit (g : GroupId)
  /-- PATROL_SCRUB (R245): The controller group reads, decodes and corrects the next line of its scrub pass. -/
  | patrolScrub (g : GroupId) (upset : List (Nat × BitVec 16))
  /-- SRAM_PATROL_SCRUB (R226): The scrubber reads and corrects the next word of cluster memory, Lantern SRAM or Wardrobe in an idle bank turn. -/
  | sramPatrolScrub (m : PatrolMem) (word : Nat) (err : Option WordErr)
  /-- WALK (R254): A page-table walker reads the three levels for a translation miss and checks the entry. -/
  | walk (x : CtxId) (agent : Agent) (unit : Nat) (access : Access) (va : Word64)
  /-- HOST_DMA_CHUNK (R403): A host DMA engine issues one chunk as an RDMA READ or WRITE on the region's queue pair. -/
  | hostDmaChunk (engine : Fin 8) (index : Nat)
  /-- RDMA_ACK (R403): An acknowledgement or last read response completes a host DMA chunk. -/
  | rdmaAck (qp : Nat)
  /-- RDMA_ACK_TIMEOUT (R400): The ACK timeout expires and the queue pair retries, entering error after its retries. -/
  | rdmaAckTimeout (qp : Nat)
  /-- RDMA_WRITE_RECEIVE (R404): A host RDMA WRITE into a responder window is checked, translated and placed, or NAKed. -/
  | rdmaWriteReceive (qp : Nat) (rkey : Word32) (va : Nat) (data : List Byte)
  /-- RDMA_READ_RECEIVE (R404): A host RDMA READ of a responder window is served, or NAKed. -/
  | rdmaReadReceive (qp : Nat) (rkey : Word32) (va : Nat) (len : Nat)
  /-- CNP (R401): A received CNP halves the queue pair's send rate down to 1 Gbit/s. -/
  | cnp (qp : Nat)
  /-- RATE_INCREASE (R401): 55 us without a CNP raises a queue pair's rate by 5 % of the port rate. -/
  | rateIncrease (qp : Nat)
  /-- ETHERNET_FRAME (R394): The MAC receives a frame, checks length, FCS and MACsec, and passes it up or discards it. -/
  | ethernetFrame (f : EthFrame)
  /-- PFC_FRAME (R395): A received PFC frame holds transmission of the named priority for the quanta given. -/
  | pfcFrame (quanta : List (Option Nat))
  /-- ARP_ND_ICMP (R398): The port answers ARP, neighbour discovery and echo, and sends unreachable for unserved UDP ports. -/
  | arpNdIcmp (query : NetQuery)
  /-- LMP_DATAGRAM (R405): An LMP datagram is checked, sequenced and its request queued, its ack applied or its response resent. -/
  | lmpDatagram (addr : Nat) (port : Nat) (bytes : List Byte)
  /-- ANNOUNCE (R399): The ANNOUNCE timer expires and Lantern sends the device-information record. -/
  | announce
  /-- NOTICE_RESEND (R408): An unacknowledged NOTICE is resent every 200 ms. -/
  | noticeResend (session : Nat)
  /-- SESSION_TIMEOUT (R412): No datagram has arrived for timeout_s and the session closes. -/
  | sessionTimeout (session : Nat)
  /-- SESSION_OPEN (R411): Opens a session, optionally admin, with a nonce for duplicate detection. -/
  | sessionOpen (q : Req) (addr : Nat) (port : Nat) (version : Nat) (flags : BitVec 16) (timeoutS : Nat) (nonce : Word64)
  /-- SESSION_CLOSE (R412): Closes the session and releases its kept responses and notices. -/
  | sessionClose (q : Req)
  /-- DEVICE_INFO (R418): Returns the device-information record. -/
  | deviceInfo (q : Req)
  /-- DEVICE_RESET (R466): Responds and starts a warm device reset 10 ms later. -/
  | deviceReset (q : Req) (kind : Nat)
  /-- CTX_CREATE (R249): Creates a LOADED context with clusters, a remote tag and optional save area. -/
  | ctxCreate (q : Req) (nClusters : Nat) (rtag : Nat) (flags : BitVec 16)
  /-- CTX_FREE (R466): Resets the context with release 1, removes its pools and windows and frees its clusters. -/
  | ctxFree (q : Req) (ctx : Nat)
  /-- CTX_RESET (R466): Stops every agent of the context, clears its on-die state and program, and leaves it LOADED. -/
  | ctxReset (q : Req) (ctx : Nat) (release : Nat)
  /-- CTX_ATTACH (R413): Attaches or detaches a session to a context by its handle. -/
  | ctxAttach (q : Req) (ctx : Nat) (detach : Nat) (handle : Word64)
  /-- CTX_STATUS (R250): Returns the context's state, clusters, step and fault register. -/
  | ctxStatus (q : Req) (ctx : Nat)
  /-- POCKET_CFG (R154): Sets the context's pinned Pocket overflow region. -/
  | pocketCfg (q : Req) (ctx : Nat) (ovfVa : Nat) (ovfLen : Nat)
  /-- MAP (R420): Maps a near or far VA range with given rights after checking it. -/
  | map (q : Req) (ctx : Nat) (rights : BitVec 16) (va : Nat) (len : Nat) (target : Nat)
  /-- UNMAP (R255): Removes unpinned mappings after buffers, walks and accesses have dropped them. -/
  | unmap (q : Req) (ctx : Nat) (va : Nat) (len : Nat)
  /-- PROTECT (R255): Changes the rights of a mapped range. -/
  | protect (q : Req) (ctx : Nat) (rights : BitVec 16) (va : Nat) (len : Nat)
  /-- MEM_READ (R421): Reads context memory by VA with a poison mask. -/
  | memRead (q : Req) (ctx : Nat) (len : Nat) (va : Nat)
  /-- MEM_WRITE (R421): Writes context memory by VA. -/
  | memWrite (q : Req) (ctx : Nat) (va : Nat) (len : Nat) (data : List Byte)
  /-- MEM_XFER (R403): Copies between context VA and a far region by host DMA. -/
  | memXfer (q : Req) (ctx : Nat) (dir : Nat) (region : Nat) (va : Nat) (offset : Nat) (len : Nat) (io : FarIO)
  /-- POOL_CFG_SET (R270): Sets and enables a buffer pool after its checks. -/
  | poolCfgSet (q : Req) (pool : Nat) (ctx : Nat) (bufferLog2 : Nat) (count : Nat) (base : Nat)
  /-- POOL_CFG_REMOVE (R270): Removes a buffer pool and resets its quotas. -/
  | poolCfgRemove (q : Req) (pool : Nat) (ctx : Nat)
  /-- POOL_QUOTA (R277): Writes a requester's limit and reserve for a pool. -/
  | poolQuota (q : Req) (pool : Nat) (requester : Nat) (limit : Nat) (reserve : Nat)
  /-- REGION_BIND (R402): Binds a far region to a queue pair, remote address, length and rkey. -/
  | regionBind (q : Req) (region : Nat) (qp : Nat) (rkey : Word32) (remote : Word64) (len : Nat)
  /-- REGION_UNBIND (R402): Unbinds a far region into which no far page maps. -/
  | regionUnbind (q : Req) (region : Nat)
  /-- MEM_POLICY (R25): Writes controller groups' arbitration weights and self-refresh hold. -/
  | memPolicy (q : Req) (groupMask : BitVec 16) (hold : Nat) (arbWeight : Word32)
  /-- PROG_LOAD (R87): Reads a program container by host DMA, checks it, places buffers and prepares the program. -/
  | progLoad (q : Req) (ctx : Nat) (region : Nat) (offset : Nat) (len : Nat) (io : FarIO)
  /-- RUN_START (R66): Initialises flags and makes a loaded context RUNNING. -/
  | runStart (q : Req) (ctx : Nat)
  /-- RUN_RESUME_FAULT (R258): Restarts faulted operations of a context stopped by resumable faults. -/
  | runResumeFault (q : Req) (ctx : Nat)
  /-- PREEMPT_SUSPEND (R267): Stops a context in place and drains its engines to SUSPENDED. -/
  | preemptSuspend (q : Req) (ctx : Nat) (drainMs : Nat)
  /-- PREEMPT_EVICT (R267): Stops a context, drains it and starts saving its on-die state to the save area. -/
  | preemptEvict (q : Req) (ctx : Nat) (drainMs : Nat)
  /-- PREEMPT_DRAINED (R267): Every engine of the pre-empted context is at rest, so SUSPEND ends or the EVICT save begins. -/
  | preemptDrained (x : CtxId)
  /-- PREEMPT_DRAIN_TIMEOUT (R267): The drain limit passes and the pre-emption ends faulted with the context STOPPED. -/
  | preemptDrainTimeout (x : CtxId)
  /-- EVICT_SAVE_DONE (R267): The save-area write ends and Lantern frees the clusters and marks the context EVICTED. -/
  | evictSaveDone (x : CtxId)
  /-- RESUME (R267): Restores a suspended or evicted context, applies recorded completions and restarts its engines. -/
  | resume (q : Req) (ctx : Nat)
  /-- BISECT_STOP (R81): Sets the bundle stop count of a context or core. -/
  | bisectStop (q : Req) (ctx : Nat) (core : Nat) (count : Nat)
  /-- DEBUG_READ (R422): Reads the state of a quiescent stopped context in debug mode. -/
  | debugRead (q : Req) (ctx : Nat) (kind : Nat) (cluster : Nat) (core : Nat) (offset : Nat) (len : Nat)
  /-- TOPOLOGY_LOAD (R348): Loads the topology record after its checks. -/
  | topologyLoad (q : Req) (record : List Byte)
  /-- LINK_CFG_TRAINING_TABLE (R333): Replaces the training table. -/
  | linkCfgTrainingTable (q : Req) (entries : List TrainEntry)
  /-- LINK_CFG_PORT_CFG (R337): Writes CUF_PORT_CFG of the ports in the mask. -/
  | linkCfgPortCfg (q : Req) (mask : Word32) (value : Word64)
  /-- LINK_CFG_CREDIT_CFG (R332): Writes CUF_CREDIT_CFG of the ports in the mask. -/
  | linkCfgCreditCfg (q : Req) (mask : Word32) (value : Word64)
  /-- LINK_CFG_LINK_EXCL (R369): Writes XPT_LINK_EXCL. -/
  | linkCfgLinkExcl (q : Req) (value : Word64)
  /-- LINK_CFG_TIMER_CFG (R364): Writes XPT_TIMER_CFG. -/
  | linkCfgTimerCfg (q : Req) (value : Word64)
  /-- LINK_TEST_ENTER (R424): Moves a Cuff or Ethernet port to TEST. -/
  | linkTestEnter (q : Req) (f : LinkTestF)
  /-- LINK_TEST_SET (R424): Programs the lanes' PRBS generators and checkers. -/
  | linkTestSet (q : Req) (f : LinkTestF)
  /-- LINK_TEST_READ (R424): Returns the lanes' PRBS counts. -/
  | linkTestRead (q : Req) (f : LinkTestF)
  /-- LINK_TEST_SCAN (R344): Runs an eye-margin scan and returns one record per lane. -/
  | linkTestScan (q : Req) (f : LinkTestF) (eyes : List (List Eye))
  /-- LINK_TEST_LEAVE (R424): Retrains the port from entry 0. -/
  | linkTestLeave (q : Req) (f : LinkTestF)
  /-- HOST_PORT_TEST_RETURN (R424): The host port returns to service by itself dwell_us after LINK_TEST ENTER. -/
  | hostPortTestReturn
  /-- HP_PORT (R397): Writes HP_PORT_CFG, retraining the port on a mode change. -/
  | hpPort (q : Req) (value : Word32)
  /-- HP_ADDR (R398): Sets or removes the port's IPv4 and global IPv6 addresses. -/
  | hpAddr (q : Req) (ipv4 : Word32) (v4Prefix : Byte) (v6Prefix : Byte) (ipv6 : BitVec 128)
  /-- HP_MACSEC_INSTALL (R396): Installs a MACsec key on a secure channel and association. -/
  | hpMacsecInstall (q : Req) (dir : Nat) (sc : Nat) (an : Nat) (ssci : Word32) (sci : Word64) (pn : Word64) (key : BitVec 256) (salt : BitVec 96)
  /-- HP_MACSEC_REMOVE (R396): Removes a MACsec key. -/
  | hpMacsecRemove (q : Req) (dir : Nat) (sc : Nat) (an : Nat)
  /-- HP_QP_CREATE (R400): Creates a RoCEv2 queue pair. -/
  | hpQpCreate (q : Req) (qp : Nat) (mtu : Nat) (t : Nat) (retry : Nat)
  /-- HP_QP_CONNECT (R400): Connects a queue pair to a remote one. -/
  | hpQpConnect (q : Req) (qp : Nat) (mtu : Nat) (t : Nat) (retry : Nat) (remoteQpn : Word32) (psn : Word32) (remoteIp : BitVec 128)
  /-- HP_QP_RESET (R400): Resets a queue pair, clearing its error state. -/
  | hpQpReset (q : Req) (qp : Nat)
  /-- HP_QP_DESTROY (R400): Destroys a queue pair with no far region bound. -/
  | hpQpDestroy (q : Req) (qp : Nat)
  /-- HP_WINDOW_CREATE (R404): Creates a pinned responder window under an rkey. -/
  | hpWindowCreate (q : Req) (window : Nat) (ctx : Nat) (va : Nat) (len : Nat)
  /-- HP_WINDOW_DESTROY (R404): Destroys a responder window after accesses in progress. -/
  | hpWindowDestroy (q : Req) (window : Nat) (ctx : Nat)
  /-- CFG_RECORD (R377): Replaces one collective descriptor or router record of a loaded, not running context. -/
  | cfgRecord (q : Req) (ctx : Nat) (sect : Nat) (index : Nat) (record : List Byte)
  /-- SHARD_TABLE_LOAD (R314): Loads a new shard table of epoch + 1 and holds it for EPOCH_SWITCH. -/
  | shardTableLoad (q : Req) (ctx : Nat) (region : Nat) (offset : Nat) (len : Nat) (io : FarIO)
  /-- SHARD_RELEASE (R314): Releases the previous shard table by writing prev_table_addr := 0. -/
  | shardRelease (q : Req) (ctx : Nat)
  /-- SHARD_EXPORT (R310): Writes a shard header and payload to a far region. -/
  | shardExport (q : Req) (ctx : Nat) (region : Nat) (components : BitVec 16) (shard : Nat) (offset : Nat) (io : FarIO)
  /-- SHARD_IMPORT (R311): Checks and writes an exported region into the owned shards of a tensor. -/
  | shardImport (q : Req) (ctx : Nat) (region : Nat) (offset : Nat) (len : Nat) (io : FarIO)
  /-- COUNTER_READ (R426): Returns the counter registers of a block instance. -/
  | counterRead (q : Req) (block : Nat) (inst : Nat)
  /-- COUNTER_CLEAR (R227): Clears the registers cleared by the counter-clear command. -/
  | counterClear (q : Req) (block : Nat) (inst : Nat)
  /-- POWER_POLICY (R447): Writes the power cap, rate ceiling and low-power timers. -/
  | powerPolicy (q : Req) (capW : Nat) (ceiling : Nat) (coreDozeUs : Nat) (clusterOffMs : Nat)
  /-- POWER_STATUS (R450): Returns input power, temperature, rails, cap and lowest rate. -/
  | powerStatus (q : Req)
  /-- LOG_READ (R490): Returns error log records from a sequence number. -/
  | logRead (q : Req) (fromSeq : Nat) (max : Nat)
  /-- LOG_CLEAR (R490): Frees error log records up to a sequence number. -/
  | logClear (q : Req) (upToSeq : Nat)
  /-- FW_STAGE (R427): Verifies an image and writes it to the inactive slot or the configuration record. -/
  | fwStage (q : Req) (cls : Nat) (region : Nat) (offset : Nat) (len : Nat) (io : FarIO) (flashOk : Bool)
  /-- FW_ACTIVATE (R457): Writes the boot control record to select a tested slot, optionally resetting. -/
  | fwActivate (q : Req) (slot : Nat) (reset : Nat)
  /-- FW_STATUS (R462): Returns image versions and validity of both slots and the limited reason. -/
  | fwStatus (q : Req)
  /-- ATTEST (R481): Signs and writes an attestation report to a far region. -/
  | attest (q : Req) (region : Nat) (offset : Nat) (nonce : BitVec 256) (io : FarIO)
  /-- DEBUG_UNLOCK (R484): Verifies a debug token and enters debug mode. -/
  | debugUnlock (q : Req) (region : Nat) (offset : Nat) (len : Nat) (io : FarIO)
  /-- PERMIT (R485): Verifies and stores a permit, enrol or revoke token for the next warm reset. -/
  | permit (q : Req) (region : Nat) (offset : Nat) (len : Nat) (io : FarIO)
  /-- REG_READ (R428): Reads consecutive registers through the register window. -/
  | regRead (q : Req) (addr : Word32) (count : Nat)
  /-- REG_WRITE (R428): Writes one register through the register window under its rules. -/
  | regWrite (q : Req) (addr : Word32) (value : Word64)
  /-- REGISTER_WRITE (R12): A write to a register with no row of its own sets its fields by access code after the reserved and range checks. -/
  | registerWrite (addr : Word32) (value : Word64)
  /-- BPM_POOL_CFG_WRITE (R270): A write of BPM_POOL_CFG sets up, changes or removes a pool after the pool checks. -/
  | bpmPoolCfgWrite (pool : Fin 64) (value : Word64)
  /-- BPM_POOL_BASE_WRITE (R270): A write of BPM_POOL_BASE changes a pool's base under the pool checks. -/
  | bpmPoolBaseWrite (pool : Fin 64) (value : Word64)
  /-- BPM_QUOTA_WRITE (R277): A write of BPM_QUOTA sets limit and reserve after the reserve checks. -/
  | bpmQuotaWrite (pool : Fin 64) (requester : Fin 32) (value : Word64)
  /-- CUF_PORT_CFG_WRITE (R337): A write of CUF_PORT_CFG turns the port Off or starts training at once on enable, and sets other fields for the next training. -/
  | cufPortCfgWrite (p : PortId) (value : Word64)
  /-- CUF_LANE_PRBS_CTL_WRITE (R343): A write of CUF_LANE_PRBS_CTL starts or stops a lane's generator and checker, clearing counts when chk_en is set. -/
  | cufLanePrbsCtlWrite (p : PortId) (lane : Fin 4) (value : Word64)
  /-- HP_PORT_CFG_WRITE (R397): A write of HP_PORT_CFG retrains the port on a mode change and applies other fields to later frames. -/
  | hpPortCfgWrite (value : Word64)
  /-- BIST_CTL_WRITE (R498): Writing busy in BIST_CTL starts a field self-test of a cluster. -/
  | bistCtlWrite (value : Word64)
  /-- BIST_COMPLETE (R499): A cluster self-test ends with a result, withholding a failed cluster. -/
  | bistComplete (failUnit : Nat) (failCount : Nat)
  /-- MEM_TEST_CTL_WRITE (R500): Writing busy in MEM_TEST_CTL starts an in-service pattern test of controller groups. -/
  | memTestCtlWrite (value : Word64)
  /-- MEM_TEST_TRANSACTION (R500): The controller reads a line, drives and checks the pattern raw, and writes the line back as one transaction. -/
  | memTestTransaction (pa : Nat) (pinFail : BitVec 24) (upset : List (Nat × BitVec 16))
  /-- MEM_TEST_COMPLETE (R500): The pattern test over the selected groups ends. -/
  | memTestComplete
  /-- THRESHOLD_POLL (R494): Lantern reads and re-arms MEM_ECC_LAST every 100 ms and samples counters every 1 s against RAS_THRESH_CFG. -/
  | thresholdPoll (second : Bool)
  /-- CORE_DOZE (R435): A core idle for core_doze_us enters Doze unless a refuser holds. -/
  | coreDoze (c : CoreId)
  /-- CORE_WAKE (R436): A wake event brings a dozing core back to running 2 us later. -/
  | coreWake (c : CoreId)
  /-- CLUSTER_DOZE (R438): A cluster whose cores all doze and agents are idle for core_doze_us enters Doze. -/
  | clusterDoze (k : ClusterId)
  /-- CLUSTER_WAKE (R438): A wake event ends cluster Doze in 2 us. -/
  | clusterWake (k : ClusterId)
  /-- CLUSTER_OFF_ENTRY (R440): An unheld cluster in Doze for cluster_off_ms saves its record, is veiled and powered off. -/
  | clusterOffEntry (k : ClusterId)
  /-- CLUSTER_OFF_EXIT (R440): A woken Off cluster powers up, initialises SRAM, restores its save list and returns to Doze. -/
  | clusterOffExit (k : ClusterId)
  /-- RAIL_UPDATE (R449): Every 10 us the power microcontroller moves each core rail toward its goal voltage. -/
  | railUpdate
  /-- TRIM_ADJUST (R449): Every 1 ms a rail's trim rises or falls by 5 mV from its measured rate. -/
  | trimAdjust (rates : List Nat)
  /-- POWER_SAMPLE (R450): Every 10 us input power and temperature are sampled and v_limit and pacing are adjusted. -/
  | powerSample (milliwatts : Nat) (tempsDc : List Int)
  /-- STANDBY_APPLIED (R465): 3.3 V standby is applied and the power microcontroller starts a cold start. -/
  | standbyApplied (moduleId : Fin 8)
  /-- START_UP (R465): With 48 V in range and RESET_N high the device ramps rails, chooses and verifies images, starts Lantern and announces. -/
  | startUp (f : StartF)
  /-- BOOT_FAILURE (R460): Lantern does not reach step 9 within 10 s of release and Clasp performs a warm reset. -/
  | bootFailure
  /-- WATCHDOG (R467): Lantern has not refreshed Clasp's watchdog for 2 s and Clasp performs a warm reset. -/
  | watchdog
  /-- WARM_RESET (R467): A warm device reset stops issue, puts memory in self-refresh, saves records and restarts from step 2. -/
  | warmReset (cause : Fin 16)
  /-- RESET_N (R513): RESET_N held low for 1 us or more triggers a warm device reset. -/
  | resetN (lowNs : Nat) (held : Bool)
  /-- INPUT_48V_LOSS (R510): 48 V outside 38 V to 62 V for over 1 ms takes every rail but VAON down as a loss of 48 V. -/
  | input48vLoss (millivolts : Nat) (us : Nat)
  /-- THERMAL_TRIP (R515): A junction sensor reads 110 C or more, THERM_TRIP_N goes low and the core rails and VSERDES go down. -/
  | thermalTrip (sensor : ClusterId) (tempDc : Int)
  /-- REFCLK_LOSS (R512): A reference clock stops or drifts beyond 500 ppm, making ports lose lock or raising a fatal error. -/
  | refclkLoss (r : RefClk)
  /-- RAIL_OUT_OF_REGULATION (R513): A rail stays out of regulation for 100 us while running, a fatal error. -/
  | railOutOfRegulation (r : Rail)
  /-- PRBS_CHECKER_LOCK (R342): A lane's PRBS checker locks after 128 consecutive correctly predicted bits and starts counting, setting the lock bit. -/
  | prbsCheckerLock (host : Bool) (port : PortId) (l : LaneBits)
  /-- PRBS_CHECKER_LOSS_OF_LOCK (R342): A lane's PRBS checker loses lock after 64 errors within 1,024 bits and stops counting. -/
  | prbsCheckerLossOfLock (host : Bool) (port : PortId) (lane : Nat) (bits : Nat) (loss : LockLoss)
  /-- HOST_PORT_LINK_DOWN (R409): The Ethernet host port loses its link, and pending host DMA chunks wait on their queue pairs' retries. -/
  | hostPortLinkDown
  /-- HOST_PORT_LINK_UP (R393): The host port completes 802.3 link training in its mode and carries frames again. -/
  | hostPortLinkUp
  /-- PFC_PAUSE_EXPIRY (R395): The pause quanta of a received PFC frame run out and transmission of that priority resumes. -/
  | pfcPauseExpiry (priority : Fin 8)
  /-- RDMA_NAK (R403): A NAK of class Remote Access Error or Remote Operational Error puts the queue pair in error and faults its pending chunks with FAR_REMOTE. -/
  | rdmaNak (qp : Nat) (operational : Bool)
  /-- RDMA_READ_RESPONSE (R403): A READ response packet other than the last is placed at its position in the chunk's destination. -/
  | rdmaReadResponse (qp : Nat) (offset : Nat) (data : List Byte) (last : Bool)
  /-- STANDBY_LOSS (R510): Loss of the 3.3 V standby input takes every rail down, VAON included, as a cold reset whatever the state of 48 V. -/
  | standbyLoss
  /-- REFCLK_RETURN (R512): A stopped reference clock runs within its limits again, so ALERT_N is released and the ports can lock and retrain. -/
  | refclkReturn (r : RefClk)
  /-- HARDWARE_CONSISTENCY_CHECK (R491): A block's hardware consistency check fails and raises a fatal error with cause INTERNAL. -/
  | hardwareConsistencyCheck (block : Byte) (inst : BitVec 16) (code : BitVec 16) (fabric : Bool)
  /-- RAIL_LEAVES_REGULATION (R513): A rail leaves regulation and PWR_OK is pulled low within 10 us. -/
  | railLeavesRegulation (r : Rail)
  /-- RAIL_REGAINS_REGULATION (R513): Every monitored rail is back in regulation and PWR_OK is released. -/
  | railRegainsRegulation (r : Rail)
  /-- INPUT_48V_OUTSIDE_RANGE (R514): The 48 V input leaves or returns to 40 V to 60 V without a 48 V loss, driving or releasing ALERT_N. -/
  | input48vOutsideRange (millivolts : Nat)
  /-- EVICT_RESTORE_DONE (R267): The restore of an evicted context's save area into its new clusters ends; recorded completions are applied, NAKs stop and engines restart. -/
  | evictRestoreDone (x : CtxId)
  deriving DecidableEq, Repr

end Sys2Proof
end

