-- ==== Sys2Proof/Config.lean ====
section
/-! DEFINITION. What one device or one published standard fixes and the spec leaves open: constants without a body, so
that no proof can use a value of them (log entry 2). -/

namespace Sys2Proof.Config

/-! ### Free values: the step applies them to the counter `freeCtr` of the state and advances it -/

/-- A value the spec leaves open, as a natural number. -/
opaque freeNat : Nat → Nat

/-- A 32-bit value the spec leaves open. -/
opaque freeWord32 : Nat → Word32

/-- A 64-bit value the spec leaves open. -/
opaque freeWord64 : Nat → Word64

/-- A 256-bit value the spec leaves open: the nonce of a boot (R480, R484). -/
opaque freeWord256 : Nat → BitVec 256

/-- Byte `i` of a sequence the spec leaves open. -/
opaque freeByte : Nat → Nat → Byte

/-- The address that names the shard table of the container with this digest in an epoch record (R312): section 9 gives none
(log entry 22). -/
opaque tableAddr (digest : List Byte) : BitVec 64

/-- The 2-byte code of a status that an UPDATE writes into its result record, in the order in which R293 names them:
0 COMMITTED, 1 SKIPPED, 2 NOT_VISITED, 3 DEFERRED, 4 ABANDONED. The spec gives the names and no codes. -/
opaque updateStatus : Nat → BitVec 16

/-- Entry `i` of the codebook by which a collective writes a result in an LF format of `bits` bits, a BF16 value: a
collective names no codebook. -/
opaque collBook (bits i : Nat) : BitVec 16

/-! ### The layout of state that DEBUG_READ gives and the spec does not (R83, R422): byte `i` of what is held -/

/-- Of the special registers of a scalar processor, over their values. -/
opaque debugSpecial : List Word64 → Nat → Byte

/-- Of the loop state, over remaining count, first and last place of each level. -/
opaque debugLoops : List (Word32 × Nat × Nat) → Nat → Byte

/-- Of the queue contents, over operation, wait, signal, place in issue order and progress of each entry of each queue. -/
opaque debugQueues : List (List (Op × Option FlagWait × Option FlagSignal × Nat × Nat)) → Nat → Byte

/-- The line, within the save area of one cluster, that holds line `l` of a core's operand cache (memories 0 to 15) or of the
cluster memory (memory 16): R265 gives the sizes and no layout. -/
opaque savePlace : Nat → Nat → Nat

/-! ### The device as it is built and fused -/

/-- The set of a translation buffer of `sets` sets in which a page of a context lies (Table 10-4). -/
opaque tlbSet : Nat → Nat → Nat → Nat

/-- The bank of cluster memory that holds a byte (R28). -/
opaque cmBank : Nat → Fin 32

/-- The value that a built-in curve gives for an FP32 bit pattern, by firmware set (the versions of Clasp, Lantern and
SerDes), where R132 states only a bound. -/
opaque builtinCurve : List Word32 → Nat → Word32 → Word32

/-- Nanoseconds from the end of the idle time to the self-refresh command: within the 0.5 µs of entry (R236). -/
opaque srIssueNs : Fin 501

/-- Nanoseconds of steps 1 to 4 of the entry into cluster Off, whose step 2 takes at most 5 µs (Table 18-3). -/
opaque offEntryNs : Fin 8001

/-- The 128-bit unique identifier (R475). -/
opaque uid : BitVec 128

/-- The ZCI major and minor version that the device reports (R88, Table 17-4). -/
opaque zciMajor : BitVec 16
opaque zciMinor : BitVec 16

/-- The vendor's public key, which the boot ROM holds (R477). -/
opaque vendorKey : List Byte

/-- Version of a shipped image by slot and class (R521). -/
opaque shippedVersion : Nat → Nat → Word32

/-- Security version of a shipped image by slot and class. -/
opaque shippedSvn : Nat → Nat → Fin 65

/-- Body digest of a shipped image by slot and class. -/
opaque shippedDigest : Nat → Nat → List Byte

/-- The fixed digest of the boot ROM (Table 20-3). -/
opaque romDigest : BitVec 512

/-- The secret fused at manufacture (R475). -/
opaque uniqueSecret : BitVec 512

/-- The public key that the internal key generation of FIPS 205 makes of SK.seed, SK.prf and PK.seed (R479). -/
opaque slhPublicKey : List Byte → List Byte → List Byte → List Byte

/-- SLH-DSA (FIPS 205): byte `i` of the signature that the holder of a public key makes of a message. -/
opaque slhByte : List Byte → List Byte → Nat → Byte

/-- Whether bytes that the holder of a public key did not make pass as a signature of a message. -/
opaque slhForged : List Byte → List Byte → List Byte → Bool

/-- Fused curve of a rail (R448, R454), before the bounds that R448 states: rail, temperature bin, voltage step; M waves/s. -/
opaque railCurve : Nat → Nat → Nat → BitVec 16

end Sys2Proof.Config
end

