-- ==== Sys2Proof/Machine/State.lean ====
section
/-! DEFINITION. The state of the device: every register, memory, queue, table, counter and pin that the spec names
(INVENTORY.md, '## State'), as plain data. A field with a default value holds that value after a cold reset (R13). -/

namespace Sys2Proof.Machine

/-- A table of values by number in one canonical form: numbers rising, and no entry equal to the table's default. -/
abbrev Sparse (α : Type) := List (Nat × α)

/-! ### On-die memories -/

/-- An SRAM of Table 9-1: bytes (0 where not listed), poisoned 64-byte lines (R225), and 64-bit words whose stored
check bits disagree with the word (R223). -/
structure Sram where
  bytes : Sparse Byte := []
  poison : Sparse Bool := []
  bad : Sparse (Option WordErr) := []
  deriving DecidableEq, Repr

/-- One 64 KiB accumulator slot (R90, R91): element (i, j) is number 128 i + j; word w of its SRAM holds elements 2w and
2w + 1. -/
structure AccSlot where
  mode : TileMode := .u
  poison : Bool := false
  elems : Sparse Word32 := []
  bad : Sparse (Option WordErr) := []
  deriving DecidableEq, Repr

/-! ### Cores -/

/-- An operation in a queue or in flight (R63, R64): its place in issue order, the seed and step number in force when
its bundle issued (R70), the scalar registers latched then (R119), its progress (R259) and its recorded outcome. -/
structure QEntry where
  op : Op
  wait : Option FlagWait
  signal : Option FlagSignal
  pos : Nat
  seed : Word64
  stepNo : Word32
  regs : Sparse Word64
  progress : Nat
  result : Option Outc
  deriving DecidableEq, Repr

/-- An active loop level (R71, R72): the body runs from the bundle at offset `first` to the bundle that ends at `last`. -/
structure LoopLevel where
  remaining : Word32
  first : Nat
  last : Nat
  deriving DecidableEq, Repr

/-- What the scalar processor is doing (R61, R68, R78, R81). -/
inductive ScalarState
  | running | ended | halted | stopped
  | fetchStall (line : Nat)
  | swait (w : FlagWait)
  | stalledFull
  deriving DecidableEq, Repr

/-- A loaded curve table of slots 8 to 15 (Table 5-7) and its w (R131). -/
structure CurveTab where
  raw : List Byte
  w : Word32
  deriving DecidableEq, Repr

/-- Low-power state of a core (R434 to R436). -/
inductive CorePower | idle | doze
  deriving DecidableEq, Repr

/-- What R74 records of an accumulator slot: the queue of the last operation that named it and the flag it signals. -/
structure Hazard where
  queue : QueueId
  flag : Option (BitVec 16)
  deriving DecidableEq, Repr

/-- A core. `offset` is the byte offset of the next bundle in the code segment (R60); `fetched` lists the 256-byte lines
that the program buffer holds (R59), latest first, and `prog` the words of them whose check bits disagree (R223); `stallDue` and `dozeDue` are the local times at which the stall limit and
the idle time that run reach their ends, as they were in force when they started (R78, R435, R522); `opCount` counts the operations issued to each queue, by the codes of
R65. -/
structure Core where
  sregs : Sparse Word64 := []
  dm : Sram := {}
  oc : Sram := {}
  acc : Sparse AccSlot := []
  scalar : ScalarState := .ended
  offset : Nat := 0
  fetched : List Nat := []
  prog : Sram := {}
  loops : List LoopLevel := []
  matrixQ : List QEntry := []
  vectorQ : List QEntry := []
  dmaQ : List QEntry := []
  syncQ : List QEntry := []
  matrixF : List QEntry := []
  vectorF : List QEntry := []
  dmaF : List QEntry := []
  syncF : List QEntry := []
  opCount : Sparse Nat := []
  flags : Sparse Word32 := []
  hazard : Sparse (Option Hazard) := []
  bundleCount : Word64 := 0
  stopCount : Nat := 0
  stallCfg : Word32 := 0x80000032#32
  stallReported : Bool := false
  stallDue : Option Nat := none
  mtxFlags : Word32 := 0
  mtxQuant : Word64 := 0
  vecFlags : Word32 := 0
  vecEvent : Word64 := 0
  sprStat : Word64 := 0
  nprClass : Word64 := 0
  nprAudit : Word64 := 0
  sramEcc : Word64 := 0
  curves : Sparse (Option CurveTab) := []
  tlb : List (Nat × Nat × Word64) := []
  power : CorePower := .idle
  dozeDue : Option Nat := none
  pwrStat : Word64 := 0
  deriving DecidableEq, Repr

/-! ### Clusters -/

/-- A Glint slot (R50 to R54). -/
structure GlintSlot where
  armed : Bool := false
  tensorId : Word32 := 0
  tap : Nat := 0
  format : Byte := 0
  hist : Nat := 0
  margin : Nat := 0
  record : Nat := 0
  bins : Sparse Word32 := []
  clampLow : Word32 := 0
  clampHigh : Word32 := 0
  zero : Word32 := 0
  subnormal : Word32 := 0
  infinity : Word32 := 0
  nan : Word32 := 0
  amax : Word32 := 0
  retries : BitVec 16 := 0
  satEvents : BitVec 16 := 0
  counterSat : Bool := false
  nonfinite : Bool := false
  history : List Word32 := []
  deriving DecidableEq, Repr

/-- A STASH_GET or STASH_DROP that has reached a Pocket directory and has not ended. -/
structure PocketUser where
  core : Nat
  pos : Nat
  gets : Bool
  deriving DecidableEq, Repr

/-- A Pocket entry (R155): the granules it holds in the Pocket or, once spilled, in the overflow share; the operations that
have reached it, first come first (R162); and whether a STASH_GET has released it while others still read it. -/
structure PocketEntry where
  key : Word32
  size : Nat
  spilled : Bool
  granules : List Nat
  users : List PocketUser := []
  released : Bool := false
  deriving DecidableEq, Repr

/-- The Pocket of a cluster (R153 to R163). `size` is in granules of 4 KiB. -/
structure Pocket where
  entries : List PocketEntry := []
  waiting : List (Nat × StashPutF) := []
  stat : Word64 := 0
  level : Word64 := 0
  ovfLevel : Word64 := 0
  deriving DecidableEq, Repr

/-- An active XSEND (R216): the messages still to complete, as (run, message number), and the last run whose messages all
completed. -/
structure XSend where
  core : Nat
  ctx : Nat
  pos : Nat
  f : XsendF
  left : List (Nat × Nat)
  lastRun : Option Nat
  refused : Option (BitVec 16)
  deriving DecidableEq, Repr

/-- An armed receive (R213 to R215). Counts and rows are keyed by run number: l × S + s at an owner, expert at a
source. `buffers` holds the base VA of each local expert's rows under NONE. -/
structure XRecv where
  core : Nat
  ctx : Nat
  layer : Nat
  f : XrecvF
  deadline : Option Nat
  paused : Option Nat
  counted : List Nat
  counts : Sparse Nat
  rows : Sparse Nat
  ready : List Nat
  buffers : Sparse Nat
  failed : List Nat
  deriving DecidableEq, Repr

/-- One contribution to a collective stage (R381, R382), by line position: its represented count, non-finite bit, bytes
arrived, and a Beacon's data. Other data lie in the stage's staging slots. -/
structure Contribution where
  pos : Nat
  count : Nat
  nonfinite : Bool
  arrived : Nat
  bytes : List Byte
  deriving DecidableEq, Repr

/-- A stage of a collective (R379, R381, R385 to R388). `dim` is the group dimension it runs along, `outstanding` its
outbound messages without an outcome, `parts` a PERMUTE's messages left by member, `errTerms` the error terms held back
until the stage has drained (R383). -/
structure Stage where
  index : Nat
  code : Nat
  dim : Nat
  armed : Bool
  got : List Contribution
  deadline : Option Nat
  waitUntil : Option Nat
  closed : Bool
  sent : Bool
  credit : Bool
  outstanding : Nat
  parts : List (Nat × Nat)
  errTerms : List (Nat × List Byte)
  drained : Bool
  deriving DecidableEq, Repr

/-- A collective in progress on a cluster (R374, R379). `record` is the Beacon record once it is known, `paused` the local
time since which its deadlines stand (Table 15-7). -/
structure Coll where
  core : Nat
  ctx : Nat
  f : CollF
  stepNo : Word32
  beacon : Bool
  stages : List Stage
  count : Nat
  nonfinite : Bool
  present : List Byte
  record : List Byte
  lateAdded : Nat
  lateDiscarded : Nat
  lateFolded : Nat
  paused : Option Nat := none
  deriving DecidableEq, Repr

/-- A contribution held for the next step (R306, R387), by the step it belongs to modulo 4; its data lie in the carry buffer,
a Beacon's in `c`. -/
structure Carry where
  ctx : Nat
  desc : Nat
  stage : Nat
  step4 : Nat
  need : Nat
  c : Contribution
  deriving DecidableEq, Repr

/-- Low-power state of a cluster (R438 to R441, Table 18-3). -/
inductive ClusterPower | on | doze | off
  deriving DecidableEq, Repr

/-- A cluster. `banks` holds, by bank of its memory, the requester served last (R28); `dozeDue` is the local time at which its idle time ends (R438), `offAt` that at which it has stayed in Doze for
cluster_off_ms; `routes` holds, by context, the last ROUTE of each exchange record, layer and round: the router finds the
ledger and the combine map of a refused run by it (R212); `rtrPending` holds, by core and in order of arrival, the identities
of the ROUTE and ROUTE_GRAD operations that wait for the router (R193). -/
structure Cluster where
  flags : Sparse Word32 := []
  flagOvf : Sparse Word64 := []
  cm : Sram := {}
  banks : Sparse Nat := []
  glint : Sparse GlintSlot := []
  gltLate : Word64 := 0
  pocket : Pocket := {}
  routes : List (Nat × RouteF) := []
  rtrPending : List (Nat × Nat) := []
  xsends : List XSend := []
  xrecvs : List XRecv := []
  rtrChoice : Word64 := 0
  rtrLoss : Word64 := 0
  rtrAux : Word64 := 0
  rtrToken : Word64 := 0
  sramEcc : Word64 := 0
  walkStat : Word64 := 0
  trnLate : Word64 := 0
  colStat : Word64 := 0
  colls : List Coll := []
  carries : List Carry := []
  tlb : List (Nat × Nat × Word64) := []
  power : ClusterPower := .on
  veil : Bool := false
  dozeDue : Option Nat := none
  offAt : Nat := 0
  dozeStat : Word64 := 0
  offStat : Word64 := 0
  withheld : Bool := false
  deriving DecidableEq, Repr

/-! ### Update engines (R291, R299) -/

/-- Progress word (Table 12-5); phase 0 IDLE, 1 MOMENTS, 2 WEIGHTS. -/
structure ProgressWord where
  phase : Nat
  shadowed : Bool
  chunk : Nat
  target : Nat
  spare : Nat
  ctxStep : Nat
  t : Nat
  lr : Word32
  wd : Word32
  eps : Word32
  c1 : Word32
  c2 : Word32
  deriving DecidableEq, Repr

/-- Hyperparameters (R291). -/
structure Hyper where
  lr : Word32
  b1 : Word32
  b2 : Word32
  eps : Word32
  wd : Word32
  eps1 : Word32
  gradMult : Word32
  deriving DecidableEq, Repr

/-- What an update engine does next: one chunk of a deferral (R309), of phase 1 or of phase 2 (to its shadow, or from its
shadow; `logged` where the shadow's poison has its record), the commit word, or IDLE (Table 12-4). -/
inductive UpdPoint
  | defer (chunk : Nat)
  | moments (chunk : Nat)
  | weights (chunk : Nat) (shadowed logged : Bool)
  | commit
  | idle
  deriving DecidableEq, Repr

/-- The UPDATE that an engine runs: the operation, its hyperparameters, the point it stands at, the word of its journal, the
moment slot it frees, and whether it completes an interrupted one. -/
structure UpdHold where
  core : Nat
  pos : Nat
  hyper : Hyper
  point : UpdPoint
  word : ProgressWord
  old : Nat
  recovered : Bool
  deriving DecidableEq, Repr

/-! ### Memory controllers -/

/-- A controller group (R25, R236 to R238, R245) and its update engine: the UPDATE operations it holds in arrival order
and the one it runs (R291). `srDue` is the local time at which the idle timer that runs reaches the idle time it
started with (R236, R522). -/
structure Group where
  arbWeight : Word32 := 0x00013468#32
  srCfg : Word32 := 0x80000064#32
  srStat : Word64 := 0
  scrubCfg : Word32 := 0x80000018#32
  updCount : Word64 := 0
  selfRefresh : Bool := false
  srDue : Option Nat := none
  hold : Bool := false
  tempChange : Bool := false
  scrubNext : Nat := 0
  scrubDue : Nat := 0
  updPending : List (Nat × Nat) := []
  updating : Option UpdHold := none
  updTlb : List (Nat × Nat × Word64) := []
  deriving DecidableEq, Repr

/-- What a transaction does to its line (R234, R235, R243): offset in the line, bytes, poison, what the array changed. -/
inductive LineAct
  | read (upset : List (Nat × BitVec 16))
  | write (off : Nat) (bytes : List Byte) (poison : Bool) (upset : List (Nat × BitVec 16))
  | atomic (off op : Nat) (operand compare : Word64) (upset : List (Nat × BitVec 16))
  deriving DecidableEq, Repr

/-- A transaction of a channel: its traffic kind (R24, in the order of Table 1-7), its line and what it does. -/
structure Txn where
  kind : Nat
  line : Nat
  act : LineAct
  deriving DecidableEq, Repr

/-- A channel (R24, R233, R246, R501). `slots` holds its outstanding transactions in the order in which they reached the
controller, `credit` what each kind has left over from the turns of the smooth weighted round-robin. A transaction is
outstanding between steps only while its group is in self-refresh (log entry 96). -/
structure Channel where
  slots : List Txn := []
  credit : Sparse Int := []
  eccCount : Word64 := 0
  eccLast : Word64 := 0x3FFC000000000000#64
  testResult : Word64 := 0
  deriving DecidableEq, Repr

/-- Main memory (R240): the stored data bytes, and for each 64-byte line (by its number) the stored check symbols XORed
with the check symbols that the code gives its data, symbol 32 in bits [15:0]. Zero is a valid codeword. -/
structure MainMem where
  bytes : Sparse Byte := []
  delta : Sparse Word64 := []
  deriving DecidableEq, Repr

/-- The die mesh (R26). `memReq` is what waits on the memory-request network for a slot (R233), `replySpace` the space reserved
on the memory-reply network for the replies of what is outstanding. The cell network holds `Xpt.injected`; what the sync and
management network carries takes effect in the step that sends it (log entry 96). -/
structure Mesh where
  memReq : List Txn := []
  replySpace : Nat := 0
  deriving DecidableEq, Repr

/-! ### Programs and contexts -/

/-- A buffer declaration (Table 3-10) and where it is placed: a VA, or an offset in cluster memory. -/
structure BufferRec where
  id : Word32
  placement : Nat
  cluster : Nat
  size : Nat
  place : Nat
  deriving DecidableEq, Repr

/-- A router configuration record (Table 8-1). -/
structure RouterRec where
  layerId : Word32
  nExperts : Nat
  topK : Nat
  scoreFn : Nat
  policy : Nat
  renorm : Bool
  spillDepth : Nat
  nShawl : Nat
  hidden : Nat
  fwdFormat : Byte
  bwdFormat : Byte
  capacity : Nat
  nSources : Nat
  nLocal : Nat
  routeScale : Word32
  shawlScale : Word32
  rowPitch : Nat
  poolId : Nat
  requester : Nat
  expertMap : Nat
  sourceNodes : Nat
  bias : Nat
  combRegion : Nat
  recvRegion : Nat
  zeroRow : Nat
  shawlRegion : Nat
  shawlStride : Nat
  visitArray : Nat
  deriving DecidableEq, Repr

/-- A shard record (Table 12-2). -/
structure ShardRec where
  tensorId : Word32
  kind : Nat
  algorithm : Nat
  workFormat : Byte
  gradFormat : Byte
  tier : Nat
  rank : Nat
  expert : Nat
  epoch : Word32
  dims : List Nat
  offsets : List Nat
  extents : List Nat
  stateAddr : Nat
  momAddr : Nat
  farAddr : Nat
  journalAddr : Nat
  visitAddr : Nat
  deriving DecidableEq, Repr

/-- A collective descriptor (Table 15-2). -/
structure CollDesc where
  op : Nat
  dims : Nat
  policy : Nat
  wireFormat : Byte
  destKind : Nat
  destFormat : Byte
  deadlineUs : Nat
  waitMs : Nat
  ringMode : Nat
  members : Nat
  extents : List Nat
  maxHops : List Nat
  maxClass : List Nat
  chunks : Nat
  aux : Nat
  memberList : Nat
  staging : Nat
  stagingBytes : Nat
  errorBuf : Nat
  carryBuf : Nat
  permuteList : Nat
  permuteCount : Nat
  flagA : BitVec 16
  flagB : BitVec 16
  ringOffset : Nat
  deriving DecidableEq, Repr

/-- A loaded program (R84 to R87, R423): code segments by the VA where Lantern placed each, their bytes, the code map,
the placed buffers, initial flag values, and the records of the other sections. -/
structure Program where
  segments : List (Nat × List Byte) := []
  codeMap : List Word32 := []
  buffers : List BufferRec := []
  flagInit : List (BitVec 16 × Nat × Word32) := []
  colls : List CollDesc := []
  routers : List RouterRec := []
  shards : List ShardRec := []
  digest : List Byte := []
  deriving DecidableEq, Repr

/-- Who sent a message and what its outcome reaches: cores and clusters are logical numbers of the message's context, so
that they survive an eviction (R67, R266). -/
inductive MsgOwner
  | op (core : Nat) (pos : Nat)
  | xsend (core : Nat) (pos : Nat)
  | coll (cluster : Nat) (desc : Nat) (stage : Nat)
  | none
  deriving DecidableEq, Repr

/-- The outcome of an outbound message (R359). -/
inductive MsgEnd | done | refused (code : Nat) | faulted
  deriving DecidableEq, Repr

/-- Context states, in the order of Table 10-1. -/
inductive CtxState | free | loaded | running | suspended | evicted | stopped
  deriving DecidableEq, Repr

/-- A translation fault that stopped an operation (R258): agent, unit, kind, access and VA. -/
structure FaultRec where
  agent : Nat
  unit : Nat
  kind : Nat
  access : Nat
  va : Nat
  deriving DecidableEq, Repr

/-- A pre-emption in progress (R267): evict, or suspend; the drain deadline; the session that waits for it. -/
structure Preempt where
  evict : Bool
  deadline : Nat
  session : Nat
  saving : Bool
  deriving DecidableEq, Repr

/-- A job context (R249, R250). `tables` lists its page tables and `maps` its mappings, as VA, length and physical address;
`saveClusters` is 0 without a save area and `hadClusters` counts the clusters an evicted context held. `journaled` lists the
journals that stand written, by address and tensor id, `epochAt` the place of the epoch record and `switched` the table that
EPOCH_SWITCH made current, with its address (R299, R312, R315). -/
structure Ctx where
  state : CtxState := .free
  clusters : List Nat := []
  rtag : Nat := 0
  handle : Word64 := 0
  sessions : List Nat := []
  saveClusters : Nat := 0
  hadClusters : Nat := 0
  root : Nat := 0
  tables : List Nat := []
  maps : List (Nat × Nat × Nat) := []
  faultReg : Word64 := 0
  faults : List FaultRec := []
  hardStop : Bool := false
  stopHalted : Bool := false
  seed : Word64 := 0
  stepNo : Word32 := 0
  nonfinite : Bool := false
  stopCount : Nat := 0
  coreStops : Sparse Nat := []
  pocketKib : Nat := 0
  ovfVa : Nat := 0
  ovfLen : Nat := 0
  program : Option Program := none
  lastDigest : List Byte := []
  lastBuffers : List BufferRec := []
  heldTable : Option (List ShardRec) := none
  journaled : List (Nat × Word32) := []
  epochAt : Option Nat := none
  switched : Option (Nat × List ShardRec) := none
  fence : Option (Nat × Nat) := none
  preempt : Option Preempt := none
  nakAll : Bool := false
  fromReset : Bool := false
  recorded : List (MsgOwner × BitVec 96 × MsgEnd) := []
  saved : List Core := []
  savedClusters : List Cluster := []
  restoring : Option Nat := none
  deriving DecidableEq, Repr

/-! ### Buffer pool manager -/

/-- An allocation (R272 to R279). -/
structure Alloc where
  index : Nat
  spanLog2 : Nat
  refs : Nat
  requester : Nat
  deriving DecidableEq, Repr

/-- A pool (R270, R271, R277, R282). Quotas not listed hold their reset value, limit 65,536. -/
structure Pool where
  cfg : Word32 := 0x000C0000#32
  base : Word64 := 0
  quota : Sparse Word64 := []
  stat : Word64 := 0
  fail : Word64 := 0
  grants : Nat := 0
  allocs : List Alloc := []
  gens : Sparse (BitVec 7) := []
  deriving DecidableEq, Repr

/-! ### Cuff ports -/

/-- A cell in flight on a virtual channel (R327). -/
structure VcCell where
  vc : Nat
  cell : Cell
  deriving DecidableEq, Repr

/-- Quiet negotiation (R339). -/
inductive PmState | none | requested | acked
  deriving DecidableEq, Repr

/-- A Cuff port (R317 to R345). `replay` holds the unacknowledged bodies with their sequence numbers, `replaying` the next of
them to be sent again and `replayFrom` the first; `served` counts the cells that each class has sent in its present round
and `turn` the channel that each class served last; `struck` lists the cells of the input buffer that hold a word which cannot
be corrected (Table 9-1); `lockAt` the time at which a lane's checker locked, plus 1, and
`prbsRest` the bits checked that make no whole unit of bits_k yet. `seeds` are the partner's scrambler seeds and `sentBlock` the
capability block sent to it; `txScr` and `rxScr` hold the last 58 bits of each lane's scrambler, oldest in bit 0; `lines` is what the
lanes last carried, as bits or PAM4 levels. Training leaves the pattern sent, the lanes' reversal and inversion, the FIR preset and
the generation last equalised; `scanUntil` is the time at which an eye-margin scan ends. -/
structure Port where
  linkState : Word64 := 0x00000000201FFFFF#64
  cfg : Word32 := 0xF8014004#32
  creditCfg : Word64 := 0x0000181818181818#64
  pmStat : Word64 := 0
  linkErr : Word64 := 0
  prbs : Sparse Word64 := []
  prbsCtl : Sparse Word32 := []
  seq : BitVec 12 := 0
  expected : BitVec 12 := 0
  replay : List (BitVec 12 × List Byte) := []
  replaying : Option (BitVec 12) := none
  replayFrom : Option (BitVec 12) := none
  replays : Nat := 0
  replayAt : Option Nat := none
  nakDue : Bool := false
  nakAt : Option Nat := none
  credits : Sparse Nat := []
  returns : Sparse Nat := []
  allot : Sparse Nat := []
  partnerAllot : Sparse Nat := []
  input : List VcCell := []
  struck : List VcCell := []
  waiting : List VcCell := []
  served : Sparse Nat := []
  turn : Sparse Nat := []
  lastFrame : List Byte := []
  pm : PmState := .none
  pmDue : Nat := 0
  pmAt : Option Nat := none
  idleSince : Nat := 0
  target : Nat := 3
  partnerMask : BitVec 3 := 0
  negotiated : Nat := 0
  retriesLeft : Nat := 0
  entryAt : Nat := 0
  entryDeadline : Option Nat := none
  seeds : List Word64 := []
  sentBlock : Option CapBlock := none
  pattern : Nat := 0
  reversed : Bool := false
  inverted : BitVec 4 := 0
  firPreset : Nat := 0
  equalised : Nat := 0
  txScr : List (BitVec 58) := []
  rxScr : List (BitVec 58) := []
  lines : List (List Nat) := []
  prbsRest : Sparse Nat := []
  scanUntil : Nat := 0
  lockAt : Sparse Nat := []
  inForce : Word32 := 0xF8014004#32
  deriving DecidableEq, Repr

/-! ### Transport -/

/-- The topology record (Table 14-1). -/
structure Topology where
  dims : Nat
  node : BitVec 16
  extents : List Nat
  ports : List (Nat × Nat)
  weights : List Nat
  deriving DecidableEq, Repr

/-- A message (R359): class, destination, header template with cell number 0, and the payload of each cell with its
poison bit. -/
structure Message where
  cls : Nat
  hdr : BitVec 96
  ctx : Nat
  payloads : List (List Byte × Bool)
  getDst : Option (Loc × Nat)
  owner : MsgOwner
  deriving DecidableEq, Repr

/-- An outbound message context (R359, R361, R362). -/
structure OutMsg where
  msg : Message
  gen : BitVec 3
  resends : Nat
  backoffUs : Nat
  resendAt : Option Nat
  backoffAt : Option Nat
  nakAt : Option Nat
  gotIdx : List Nat
  getGen : BitVec 3
  ended : Bool
  reuseAt : Nat
  deriving DecidableEq, Repr

/-- The identity of a message at its target (R360): sender and message id of format A, or the eight fields of format X. -/
inductive MsgKey
  | a (src : BitVec 16) (msg : Nat)
  | x (rtag layer phase round mb sender receiver k : Nat)
  deriving DecidableEq, Repr

/-- Where the data of a COL message go: the collective's cluster (logical), descriptor, stage and line position, what
becomes of the contribution (0 folded, 1 carried, 2 discarded), its count, bit and step, and the address to which its
landing offsets are added: a VA, or an offset of cluster memory. -/
structure ColSink where
  cluster : Nat
  desc : Nat
  stage : Nat
  pos : Nat
  fate : Nat
  count : Nat
  nonfinite : Bool
  step4 : Nat
  need : Nat
  base : Nat
  inCm : Bool
  deriving DecidableEq, Repr

/-- An inbound message context (R360). `held` lists the pages whose translations it holds (R261), `staged` the data of
a REDUCE_PUT (R366) or a Beacon, `reserve` the bytes of reduce staging it holds, `reply` the reply of a complete message
that waits for a retire record (R363), `nak` the NAK that answers every cell of a message that was turned away (R261). -/
structure InMsg where
  key : MsgKey
  ctx : Nat
  gen : BitVec 3
  last : Nat
  got : List Nat
  lapseAt : Nat
  held : List Nat
  staged : List (Nat × List Byte)
  stagedPoison : Bool
  validLast : Nat
  base : Nat
  reserve : Nat
  col : Option ColSink
  reply : Option Cell
  nak : Option (Nat × Nat)
  deriving DecidableEq, Repr

/-- A retire record (R363): the reply as a cell (a GET's request, which is served again), whether a receive has ended since
(format X), and when a format-A record lapses. -/
structure Retire where
  key : MsgKey
  gen : BitVec 3
  reply : Cell
  aged : Bool
  lapse : Option Nat
  deriving DecidableEq, Repr

/-- The transport block (chapter 14). -/
structure Xpt where
  topo : Option Topology := none
  timerCfg : Word64 := 0x03E8060001400028#64
  linkExcl : Word32 := 0
  msgStat : Word64 := 0
  dropStat : Word64 := 0
  toSend : List Message := []
  outbound : Sparse (Option OutMsg) := []
  inbound : Sparse (Option InMsg) := []
  retire : List Retire := []
  naks : List Cell := []
  mgtRing : List Cell := []
  staging : Nat := 0
  injected : List Cell := []
  tlb : List (Nat × Nat × Word64) := []
  deriving DecidableEq, Repr

/-! ### Host port -/

inductive QpState | absent | created | connected | error
  deriving DecidableEq, Repr

/-- A RoCEv2 queue pair (R400, R401). `localQpn` is the number by which the partner names it. Rates are in Mbit/s. -/
structure Qp where
  state : QpState := .absent
  mtu : Nat := 2
  t : Nat := 14
  retry : Nat := 7
  retriesLeft : Nat := 7
  ackAt : Option Nat := none
  localQpn : Word32 := 0
  remoteQpn : Word32 := 0
  psn : Word32 := 0
  remotePsn : Word32 := 0
  remoteIp : BitVec 128 := 0
  rate : Nat := 0
  cnpAt : Option Nat := none
  cnpSentAt : Option Nat := none
  deriving DecidableEq, Repr

/-- A far region binding (R402). -/
structure FarRegion where
  qp : Nat
  rkey : Word32
  remote : Word64
  len : Nat
  deriving DecidableEq, Repr

/-- A responder window (R404). -/
structure Window where
  ctx : Nat
  va : Nat
  len : Nat
  rkey : Word32
  deriving DecidableEq, Repr

/-- A part of a chunk of a copy that touches far pages (R403), contiguous on both sides: the copy it belongs to (core,
place in issue order), direction, near side and far offset, whether its RDMA operation has been issued, the bytes placed,
the progress of its copy. `farVa` is the VA of the far side, which is translated again when an engine takes the part (R255,
R269); `relay` the VA of the far destination of a part that lies between two far pages, and `data` its bytes on their way. -/
structure HostChunk where
  core : Nat
  pos : Nat
  ctx : Nat
  toFar : Bool
  near : Loc
  far : Nat
  farVa : Nat
  relay : Option Nat
  len : Nat
  region : Nat
  qp : Nat
  engine : Nat
  issued : Bool
  placed : Nat
  progress : Nat
  data : List Byte
  deriving DecidableEq, Repr

/-- A command that waits at Lantern (R406, R416): its row, session and context, and the range whose accesses it waits for
(R255). -/
structure HeldCmd where
  row : Instr
  session : Nat
  ctx : Option Nat
  range : Option (Nat × Nat)
  deriving DecidableEq, Repr

/-- An LMP request as its datagram brought it (R405, R406). -/
structure LmpReq where
  seq : Nat
  command : Nat
  payload : List Byte
  started : Bool
  deriving DecidableEq, Repr

/-- A response that Lantern keeps until the host acknowledges it (R407). -/
structure Response where
  session : Nat
  seq : Nat
  command : Nat
  status : BitVec 16
  payload : List Byte
  deriving DecidableEq, Repr

/-- A notice (R429, Table 17-11). -/
structure Notice where
  seq : Nat
  kind : Nat
  ctx : Nat
  time : Nat
  body : List Byte
  resendAt : Nat
  deriving DecidableEq, Repr

/-- A session (R406 to R413). -/
structure Session where
  number : Nat
  addr : Nat
  port : Nat
  version : Nat
  admin : Bool
  timeoutS : Nat
  nonce : Word64
  openedAt : Nat
  heardAt : Nat
  expected : Nat
  requests : List LmpReq
  kept : List Response
  noticeSeq : Nat
  notices : List Notice
  noticesLost : Nat
  deriving DecidableEq, Repr

/-- A MACsec key (R396): direction, channel, association, identifiers, packet number and key material. -/
structure MacsecKey where
  dir : Nat
  sc : Nat
  an : Nat
  ssci : Word32
  sci : Word64
  pn : Word64
  key : BitVec 256
  salt : BitVec 96
  deriving DecidableEq, Repr

/-- The Ethernet host port (chapter 16). `farOut` lists the RDMA WRITEs that have been acknowledged (region, offset, bytes),
`sent` what the port has sent (kind, bytes) and `held` what waits for a priority that the partner has paused (R395). -/
structure HostPort where
  cfg : Word32 := 0x03600000#32
  linkUp : Bool := false
  testUntil : Option Nat := none
  bufferFill : Nat := 0
  xoff : Bool := false
  pauseUntil : Sparse Nat := []
  discards : Nat := 0
  lmpDiscards : Nat := 0
  mac : BitVec 48 := 0
  lmpPort : Nat := 47072
  ipv4 : Word32 := 0
  v4Prefix : Byte := 0
  ipv6 : BitVec 128 := 0
  v6Prefix : Byte := 0
  hostV4 : Option Word32 := none
  hostV6 : Option (BitVec 128) := none
  keys : List MacsecKey := []
  qps : Sparse Qp := []
  regions : Sparse (Option FarRegion) := []
  windows : Sparse (Option Window) := []
  windowRefusals : Nat := 0
  chunks : List HostChunk := []
  farOut : List (Nat × Nat × List Byte) := []
  prbs : Sparse Word64 := []
  prbsCtl : Sparse Word32 := []
  prbsRest : Sparse Nat := []
  lockAt : Sparse Nat := []
  held : List (Nat × Nat × List Byte) := []
  sent : List (Nat × List Byte) := []
  tlb : List (Nat × Nat × Word64) := []
  deriving DecidableEq, Repr

/-! ### Lantern, Clasp, power, reliability, pins -/

/-- An error log record (Table 21-2). -/
structure LogRec where
  seq : Nat
  time : Nat
  cls : Nat
  block : Nat
  inst : Nat
  cause : BitVec 16
  ctx : Nat
  flags : Nat
  addr : Nat
  progress : Nat
  status : BitVec 16
  detail : List Byte
  deriving DecidableEq, Repr

/-- Lantern (chapters 16, 17). `lastResponse` is the response sent last, `recentOpens` the opens of the last 10 s (R411),
`stallCopy` its copies of CORE_STALL_CFG by core (R442). -/
structure Lantern where
  running : Bool := false
  sram : Sram := {}
  sessions : List Session := []
  nextSession : Nat := 1
  lastResponse : Option Response := none
  held : List HeldCmd := []
  recentOpens : List (Nat × Nat × Word64 × Nat × Nat) := []
  discards : Nat := 0
  announceAt : Nat := 0
  everOpened : Bool := false
  limited : Bool := false
  limitedReason : Nat := 0
  debug : Bool := false
  resetAt : Option Nat := none
  resetCause : Nat := 0
  activeSlot : Nat := 0
  recovery : Bool := false
  stallCopy : Sparse Word32 := []
  deriving DecidableEq, Repr

/-- An image in flash (R456, R476): the header fields of Table 20-2 and the header's bytes, the body, the signatures by key,
for a manifest the entries of Table 19-3 (Clasp, Lantern, SerDes version, stepping mask). `shipped` marks an image of the
maker's programming (R521), whose digest and vendor signature are good. -/
structure Image where
  magicOk : Bool := true
  cls : Nat
  sigCount : Nat := 1
  version : Word32
  steppingMask : Word32 := 2
  svn : Nat
  reservedZero : Bool := true
  header : List Byte := []
  body : List Byte := []
  bodyDigest : List Byte := []
  sigs : List (Nat × List Byte) := []
  entries : List (Word32 × Word32 × Word32 × Word32) := []
  shipped : Bool := false
  deriving DecidableEq, Repr

/-- A boot control record copy (Table 19-2). -/
structure BootCtl where
  valid : Bool
  seq : Nat
  selected : Nat
  deriving DecidableEq, Repr

/-- The boot flash (R456, R457, R464, R492). Images are keyed by 4 × slot + class. -/
structure Flash where
  boot : List BootCtl := []
  images : Sparse (Option Image) := []
  config : List (Option Image) := []
  crash : List (Bool × List LogRec) := []
  deriving DecidableEq, Repr

/-- A token (Table 20-5). -/
structure Token where
  kind : Nat
  keyId : Nat
  uid : BitVec 128
  nonce : BitVec 256
  clasp : Word32
  lantern : Word32
  serdes : Word32
  owner : Nat
  ownerKey : List Byte
  raw : List Byte
  deriving DecidableEq, Repr

/-- Clasp (chapters 19, 20): the fuses it programs, the owner key table, the permit store, the measurement log, the versions
of the images running by class, the copy of the boot control record that the ROM used (2 for neither). -/
structure Clasp where
  ownerHash : Sparse (BitVec 256) := []
  ownerRevoked : BitVec 4 := 0
  rollback : Sparse Nat := []
  debugDisable : Bool := false
  ownerKeys : Sparse (List Byte) := []
  permits : List Token := []
  bootNonce : BitVec 256 := 0
  measurements : List (List Byte) := []
  chain : List Byte := []
  failures : Sparse Nat := []
  memoryValid : Bool := false
  running : Sparse Word32 := []
  bootCopy : Nat := 2
  deriving DecidableEq, Repr

/-- A core rail (R448 to R451, R453). Voltages in millivolts, temperatures in 0.1 °C, rates in k waves/s; `stood` says that
it has stood at v_want since the last trim; `sensorDc` is what the hottest sensor has last been found to read, and `tempDc` the
register field (Table 18-10). -/
structure RailState where
  mv : Nat := 750
  vWant : Nat := 750
  vLimit : Nat := 850
  trim : Int := 0
  pace : Nat := 0
  riseCount : Nat := 0
  paceCount : Nat := 0
  tempDc : Int := 0
  sensorDc : Int := 0
  rate : Nat := 0
  stepping : Bool := false
  capLimited : Bool := false
  thermalLimited : Bool := false
  trimLogAt : Nat := 0
  stood : Bool := true
  up : Bool := false
  deriving DecidableEq, Repr

/-- The power microcontroller and the always-on registers (chapters 18, 19, 22). `vsoc` says that VSOC and the LPDDR rails are
up, `coldNext` that the next start-up is a cold one; `configUsed` is the configuration record in use since the last cold
start, `retained` the retained contexts (R469). -/
structure Power where
  cfg : Word64 := 0xE000001400320000#64
  capCfg : Word32 := 0x005F0752#32
  capStat : Word64 := 0
  rails : Sparse RailState := []
  inputMw : Nat := 0
  limitUs : Nat := 0
  paceUs : Nat := 0
  wardrobe : Sram := {}
  rstCause : Word64 := 0
  bootStatus : Word32 := 0
  strapReg : Word32 := 0
  retained : List (Nat × Ctx) := []
  vsoc : Bool := false
  coldNext : Bool := true
  configUsed : Option Image := none
  deriving DecidableEq, Repr

/-- Errors, tests and thresholds (chapter 21). `bistRun` is the cluster under test, `memRun` the groups of a running pattern
test. -/
structure Ras where
  log : List LogRec := []
  nextSeq : Nat := 1
  written : Nat := 0
  lost : Nat := 0
  thresh : Word64 := 0x0800640040040004#64
  bist : Word32 := 0x0000FF00#32
  bistRun : Option Nat := none
  memTest : Word64 := 0
  memRun : Option Nat := none
  testLines : Nat := 0
  fatal : Bool := false
  pinEvents : List (Nat × Nat × Nat) := []
  samples : List (Nat × Nat × Nat × Nat) := []
  reported : List (Nat × Nat × Nat) := []
  deriving DecidableEq, Repr

/-- The module's boundary (chapter 22). `railsOut` lists the rails out of regulation (0 to 3 the core rails, 4 VSOC, 5 LPDDR),
`holding` that the boot ROM holds (R463), `coolWait` that start-up waits for 100 °C (R515). -/
structure Pins where
  resetN : Bool := true
  pwrOk : Bool := false
  alertLow : Bool := false
  thermTripLow : Bool := false
  strap : BitVec 4 := 0
  moduleId : BitVec 3 := 0
  standby : Bool := true
  input48 : Nat := 48000
  refSerdes : Bool := true
  refSys : Bool := true
  railsOut : List Nat := []
  holding : Bool := false
  coolWait : Bool := false
  deriving DecidableEq, Repr

end Sys2Proof.Machine

namespace Sys2Proof.Machine

/-- The whole device. `pending` is the queue of commands, first in first out; `freeCtr` feeds the free values of
Config (the model's own field); `now` is local time in nanoseconds (R19). -/
structure State where
  pending : List Instr := []
  freeCtr : Nat := 0
  now : Nat := 0
  cores : Sparse Core := []
  clusters : Sparse Cluster := []
  groups : Sparse Group := []
  channels : Sparse Channel := []
  mesh : Mesh := {}
  mem : MainMem := {}
  ctxs : Sparse Ctx := []
  pools : Sparse Pool := []
  ports : Sparse Port := []
  trainTable : List TrainEntry := []
  xpt : Xpt := {}
  hp : HostPort := {}
  lantern : Lantern := {}
  flash : Flash := {}
  clasp : Clasp := {}
  power : Power := {}
  ras : Ras := {}
  pins : Pins := {}
  deriving DecidableEq, Repr

/-- Why the machine stops. -/
inductive Fault where
  /-- Raised by INPUT_48V_OUTSIDE_RANGE and INPUT_48V_LOSS for an input beyond the absolute maximum of Table 22-3
  (66 V): the spec says only that such stress may damage the module (R508). Safe: a stop. -/
  | beyondRatings
  deriving DecidableEq, Repr

/-- Why a command has no meaning. -/
inductive Refusal where
  /-- Raised by `exec` for a command that is not modelled yet. Safe: a stop. -/
  | notModelled (mnemonic : String)
  /-- Raised by BUNDLE_ISSUE and LOOP_BEGIN for a bundle that no encoding of Table 3-1 gives (three scalar slots, an
  operation in another queue's slot, a place of a branch or loop that is no 2-byte boundary). Safe: the spec knows no such bundle. -/
  | illFormed
  deriving DecidableEq, Repr

/-- The default training table, Table 13-7. -/
def defaultTrainTable : List TrainEntry :=
  [⟨0, 1, 0, 10000, 1, 0, 0, 0⟩, ⟨1, 1, 3, 100, 2, 0, 64, 0⟩, ⟨2, 1, 3, 1000, 3, 0, 0, 0⟩,
   ⟨3, 0, 1, 1000, 4, 7, 0, 0⟩, ⟨4, 0, 0, 10, 5, 5, 5, 0⟩, ⟨5, 0, 1, 5000, 6, 7, 200, 0⟩,
   ⟨6, 0, 1, 2000, 8, 7, 1000, 0x358637BD#32⟩, ⟨8, 0, 0, 10, 3, 63, 0, 0⟩, ⟨9, 0, 3, 100, 62, 0, 0, 0⟩]

/-! ### The boot flash as shipped (R521; log entry 51) -/

/-- A shipped image of slot z: its version and security version are what the maker chose. -/
def shippedImage (z cls : Nat) : Image :=
  { cls := cls, version := Config.shippedVersion z cls, svn := (Config.shippedSvn z cls).val, shipped := true
    bodyDigest := Config.shippedDigest z cls
    entries := if cls = 3 then
      [(Config.shippedVersion z 0, Config.shippedVersion z 1, Config.shippedVersion z 2, 2#32)] else [] }

/-- A configuration record that holds the defaults of Table 19-5. -/
def shippedConfig : Image :=
  { cls := 4, version := Config.shippedVersion 0 4, svn := (Config.shippedSvn 0 4).val, shipped := true
    bodyDigest := Config.shippedDigest 0 4
    body := [0x43#8, 0x46#8, 0x47#8, 0x01#8, 0#8, 0#8, 0#8, 0#8, 0x02#8] ++
      (List.range 5).map (fun i => Config.uid.extractLsb' (8 * i) 8) ++ [0xE0#8, 0xB7#8] ++ List.replicate 240 0#8 }

/-- The flash with a tested set in both slots. -/
def shippedFlash : Flash :=
  { images := (List.range 8).map (fun k => (k, some (shippedImage (k / 4) (k % 4)))), config := [some shippedConfig, none] }

/-- The device right after a cold reset: every register at the reset value of its field map (R13), standby and 48 V
present, the flash as shipped, the rails not yet up and Lantern not yet started (log entry 3). -/
def State.reset : State := { trainTable := defaultTrainTable, flash := shippedFlash }

end Sys2Proof.Machine
end

