-- ==== Sys2Proof/Machine/Ops.lean ====
section
/-! DEFINITION. The named operations over the state: tables, bytes, on-die memories, units, contexts, error log records,
notices, contained and fatal errors. -/

namespace Sys2Proof.Machine

/-! ### Tables by number, kept in canonical form -/

/-- The value at number k; a number not listed holds d. -/
def sget {α : Type} (d : α) : Sparse α → Nat → α
  | [], _ => d
  | (k', v) :: r, k => if k' = k then v else sget d r k

/-- Insertion before the first greater number. -/
def sinsert {α : Type} (k : Nat) (v : α) : Sparse α → Sparse α
  | [] => [(k, v)]
  | (k', v') :: r => if k < k' then (k, v) :: (k', v') :: r else (k', v') :: sinsert k v r

/-- The table with v at number k; writing the default removes the entry. -/
def sset {α : Type} [DecidableEq α] (d : α) (m : Sparse α) (k : Nat) (v : α) : Sparse α :=
  let r := m.filter (fun e => e.1 ≠ k)
  if v = d then r else sinsert k v r

/-- The canonical form: numbers strictly rising, no entry equal to the default. -/
def Sparse.wf {α : Type} [DecidableEq α] (d : α) (m : Sparse α) : Bool :=
  decide (m.Pairwise (fun a b => a.1 < b.1)) && m.all (fun e => e.2 ≠ d)

/-! ### Bytes and fields -/

/-- Little-endian value of bytes (R11). -/
def leNat : List Byte → Nat
  | [] => 0
  | b :: r => b.toNat + 256 * leNat r

/-- The low n bytes of a value, little-endian. -/
def leBytes : Nat → Nat → List Byte
  | 0, _ => []
  | n + 1, v => BitVec.ofNat 8 v :: leBytes n (v / 256)

/-- Bits [hi:lo] of a natural number. -/
def bitsOf (v hi lo : Nat) : Nat := v / 2 ^ lo % 2 ^ (hi + 1 - lo)

/-- A Boolean as one bit. -/
def bit01 (b : Bool) : Nat := b.toNat

/-- Bit n of a natural number. -/
def bitOf (v n : Nat) : Bool := v / 2 ^ n % 2 = 1

/-- v with bits [hi:lo] replaced. -/
def setBits (v hi lo f : Nat) : Nat :=
  v % 2 ^ lo + f % 2 ^ (hi + 1 - lo) * 2 ^ lo + v / 2 ^ (hi + 1) * 2 ^ (hi + 1)

/-- A field of a 64-bit register. -/
def fld (w : Word64) (hi lo : Nat) : Nat := bitsOf w.toNat hi lo

/-- A 64-bit register with a field replaced. -/
def withFld (w : Word64) (hi lo f : Nat) : Word64 := BitVec.ofNat 64 (setBits w.toNat hi lo f)

/-- A field of a 32-bit register. -/
def fld32 (w : Word32) (hi lo : Nat) : Nat := bitsOf w.toNat hi lo

/-- A 32-bit register with a field replaced. -/
def withFld32 (w : Word32) (hi lo f : Nat) : Word32 := BitVec.ofNat 32 (setBits w.toNat hi lo f)

/-- A saturating counter field [hi:lo] of a 64-bit register increased by n. -/
def bumpFld (w : Word64) (hi lo n : Nat) : Word64 :=
  withFld w hi lo (min (fld w hi lo + n) (2 ^ (hi + 1 - lo) - 1))

/-- Concatenation of the bytes of little-endian fields (width in bytes, value). -/
def leFields (fs : List (Nat × Nat)) : List Byte := fs.flatMap (fun f => leBytes f.1 f.2)

/-- n bytes of a list from offset off; bytes past the end read as 0. -/
def sliceBytes (bs : List Byte) (off n : Nat) : List Byte :=
  let r := (bs.drop off).take n
  r ++ List.replicate (n - r.length) 0

/-- Little-endian field of a byte list. -/
def leAt (bs : List Byte) (off n : Nat) : Nat := leNat (sliceBytes bs off n)

/-- The list with the bytes at off replaced; it keeps its length. -/
def patchBytes (bs : List Byte) (off : Nat) (new : List Byte) : List Byte :=
  (bs.take off ++ new ++ bs.drop (off + new.length)).take bs.length

/-- Signed value of the low n bytes. -/
def leInt (bs : List Byte) (off n : Nat) : Int :=
  let v := leAt bs off n
  if 2 ^ (8 * n - 1) ≤ v then (v : Int) - 2 ^ (8 * n) else v

/-! ### Timers (R19, R522) -/

/-- Whether a self-test of cluster k runs (Table 21-6). -/
def State.testing (s : State) (k : Nat) : Bool := s.ras.bistRun == some k

/-- Whether a timer that runs has reached its end. -/
def dueBy (due : Option Nat) (now : Nat) : Bool :=
  match due with
  | some d => decide (d ≤ now)
  | none => false

/-! ### Status codes (R414, Table 17-1) -/

/-- A status: block in [15:8], code in [7:0]; 0 is done. -/
abbrev Status := BitVec 16

def stDone : Status := 0x0000#16
def genRange : Status := 0x0001#16
def genReserved : Status := 0x0002#16
def genBusy : Status := 0x0003#16
def genPrecond : Status := 0x0004#16
def genFormat : Status := 0x0005#16
def genCodebook : Status := 0x0006#16
def genFlag : Status := 0x0007#16
def genCommand : Status := 0x0008#16
def genLength : Status := 0x0009#16
def genSession : Status := 0x000A#16
def genLimited : Status := 0x000B#16
def genDebug : Status := 0x000C#16
def genNoSession : Status := 0x000D#16
def mtxStatus (n : Nat) : Status := BitVec.ofNat 16 (0x0200 + n)
def vecStatus (n : Nat) : Status := BitVec.ofNat 16 (0x0300 + n)
def pocketStatus (n : Nat) : Status := BitVec.ofNat 16 (0x0400 + n)
def rtrStatus (n : Nat) : Status := BitVec.ofNat 16 (0x0500 + n)
def memPoison : Status := 0x0601#16
def zpcStatus (n : Nat) : Status := BitVec.ofNat 16 (0x0100 + n)
def mapStatus (n : Nat) : Status := BitVec.ofNat 16 (0x0700 + n)
def preStatus (n : Nat) : Status := BitVec.ofNat 16 (0x0800 + n)
def bpmStatus (n : Nat) : Status := BitVec.ofNat 16 (0x0900 + n)
def trnStatus (n : Nat) : Status := BitVec.ofNat 16 (0x0A00 + n)
def colStatus (n : Nat) : Status := BitVec.ofNat 16 (0x0B00 + n)
def lnkStatus (n : Nat) : Status := BitVec.ofNat 16 (0x0C00 + n)
def hpStatus (n : Nat) : Status := BitVec.ofNat 16 (0x0D00 + n)
def xptStatus (n : Nat) : Status := BitVec.ofNat 16 (0x0E00 + n)
def ctxStatusCode (n : Nat) : Status := BitVec.ofNat 16 (0x0F00 + n)
def fwStatusCode (n : Nat) : Status := BitVec.ofNat 16 (0x1000 + n)
def secStatus (n : Nat) : Status := BitVec.ofNat 16 (0x1100 + n)
def fltTransfer : Status := 0x1F01#16
def fltDrain : Status := 0x1F02#16
def fltFlash : Status := 0x1F03#16

/-- The first check that fails, in order (R8): each check is its failing condition and its code. -/
def firstFail : List (Bool × Status) → Option Status
  | [] => none
  | (b, st) :: r => if b then some st else firstFail r

/-! ### Units -/

def State.core (s : State) (c : Nat) : Core := sget {} s.cores c
def State.setCore (s : State) (c : Nat) (v : Core) : State := { s with cores := sset {} s.cores c v }
def State.modCore (s : State) (c : Nat) (f : Core → Core) : State := s.setCore c (f (s.core c))

def State.cluster (s : State) (k : Nat) : Cluster := sget {} s.clusters k
def State.setCluster (s : State) (k : Nat) (v : Cluster) : State := { s with clusters := sset {} s.clusters k v }
def State.modCluster (s : State) (k : Nat) (f : Cluster → Cluster) : State := s.setCluster k (f (s.cluster k))

def State.group (s : State) (g : Nat) : Group := sget {} s.groups g
def State.setGroup (s : State) (g : Nat) (v : Group) : State := { s with groups := sset {} s.groups g v }
def State.modGroup (s : State) (g : Nat) (f : Group → Group) : State := s.setGroup g (f (s.group g))

def State.channel (s : State) (n : Nat) : Channel := sget {} s.channels n
def State.setChannel (s : State) (n : Nat) (v : Channel) : State := { s with channels := sset {} s.channels n v }
def State.modChannel (s : State) (n : Nat) (f : Channel → Channel) : State := s.setChannel n (f (s.channel n))

def State.ctx (s : State) (x : Nat) : Ctx := sget {} s.ctxs x
def State.setCtx (s : State) (x : Nat) (v : Ctx) : State := { s with ctxs := sset {} s.ctxs x v }
def State.modCtx (s : State) (x : Nat) (f : Ctx → Ctx) : State := s.setCtx x (f (s.ctx x))

def State.pool (s : State) (p : Nat) : Pool := sget {} s.pools p
def State.setPool (s : State) (p : Nat) (v : Pool) : State := { s with pools := sset {} s.pools p v }
def State.modPool (s : State) (p : Nat) (f : Pool → Pool) : State := s.setPool p (f (s.pool p))

def State.port (s : State) (p : Nat) : Port := sget {} s.ports p
def State.setPort (s : State) (p : Nat) (v : Port) : State := { s with ports := sset {} s.ports p v }
def State.modPort (s : State) (p : Nat) (f : Port → Port) : State := s.setPort p (f (s.port p))

/-- The cluster of a core (R15). -/
def clusterOf (c : Nat) : Nat := c / 16

/-- The context that holds a physical cluster (R249). -/
def State.ctxOfCluster (s : State) (k : Nat) : Option Nat :=
  (List.range 16).find? (fun x => (s.ctx x).state != .free && (s.ctx x).clusters.contains k)

/-- The context that a core works for. -/
def State.ctxOfCore (s : State) (c : Nat) : Option Nat := s.ctxOfCluster (clusterOf c)

/-- The physical cores of a context. -/
def Ctx.cores (x : Ctx) : List Nat := x.clusters.flatMap (fun k => (List.range 16).map (fun i => 16 * k + i))

/-- The physical cluster of a logical one (R67). -/
def Ctx.physical (x : Ctx) (logical : Nat) : Option Nat := x.clusters[logical]?

/-- The counter of the free values advanced by one (log entry 2). -/
def State.drawn (s : State) : State := { s with freeCtr := s.freeCtr + 1 }

/-! ### On-die memories (R222 to R225) -/

/-- One byte of an SRAM. -/
def Sram.byte (m : Sram) (a : Nat) : Byte := sget 0 m.bytes a

/-- n bytes from address a. -/
def Sram.read (m : Sram) (a n : Nat) : List Byte := (List.range n).map (fun i => m.byte (a + i))

/-- Whether a 64-byte line holds poison. -/
def Sram.linePoison (m : Sram) (line : Nat) : Bool := sget false m.poison line

/-- Whether any of n bytes from a lies in a poisoned line. -/
def Sram.poisoned (m : Sram) (a n : Nat) : Bool :=
  m.poison.any (fun e => e.2 && decide (a < 64 * e.1 + 64 ∧ 64 * e.1 < a + n))

/-- A masked write of one byte, as the writes of an operation are gathered: bits of `mask` take those of `val`. -/
structure ByteWrite where
  addr : Nat
  mask : Byte
  val : Byte
  deriving DecidableEq, Repr

/-- Plain byte writes of consecutive bytes. -/
def byteWrites (a : Nat) (bs : List Byte) : List ByteWrite :=
  bs.zipIdx.map (fun e => ⟨a + e.2, 0xFF#8, e.1⟩)

/-- Stores one masked byte. -/
def Sram.put (m : Sram) (w : ByteWrite) : Sram :=
  { m with bytes := sset 0 m.bytes w.addr ((m.byte w.addr &&& ~~~w.mask) ||| (w.val &&& w.mask)) }

/-- Bits of one byte that a gathered write covers. -/
def coverage (ws : List ByteWrite) (a : Nat) : Byte :=
  ws.foldl (fun m w => if w.addr = a then m ||| w.mask else m) 0

/-- Whether the writes cover n bytes from a wholly. -/
def covers (ws : List ByteWrite) (a n : Nat) : Bool :=
  (List.range n).all (fun i => coverage ws (a + i) = 0xFF#8)

/-- Without repeats, in order of first appearance. -/
def dedupNat (l : List Nat) : List Nat := l.foldl (fun acc x => if acc.contains x then acc else acc ++ [x]) []

/-- 64-byte lines that the writes touch. -/
def linesOf (ws : List ByteWrite) : List Nat := dedupNat (ws.map (·.addr / 64))

/-- The writes of an operation applied together (R225): a line wholly written clean loses its poison, a partly written
line keeps it, and a line of `dirty` becomes poisoned. Words wholly written lose their error mark (R224). -/
def Sram.commit (m : Sram) (ws : List ByteWrite) (dirty : List Nat) : Sram :=
  let m' := ws.foldl Sram.put m
  let clean := (linesOf ws).filter (fun l => covers ws (64 * l) 64)
  let p := clean.foldl (fun p l => sset false p l false) m'.poison
  let p := dirty.foldl (fun p l => sset false p l true) p
  { m' with poison := p, bad := m'.bad.filter (fun e => !covers ws (8 * e.1) 8) }

/-- An SRAM in which an upset has struck a word (R223). -/
def Sram.struck (m : Sram) (word : Nat) (e : Option WordErr) : Sram :=
  match e with
  | none => m
  | some k => { m with bad := sset none m.bad word (some k) }

/-- Words with an error mark that a set of byte ranges (address, length) reads. -/
def Sram.badIn (m : Sram) (ranges : List (Nat × Nat)) : List (Nat × WordErr) :=
  m.bad.filterMap (fun e => e.2.bind (fun k =>
    if ranges.any (fun r => decide (r.1 < 8 * e.1 + 8 ∧ 8 * e.1 < r.1 + r.2)) then some (e.1, k) else none))

/-- The partly written aligned words of a gathered write, which are read first (R224). -/
def partialWords (ws : List ByteWrite) : List (Nat × Nat) :=
  ((dedupNat (ws.map (·.addr / 8))).filter (fun w => !covers ws (8 * w) 8)).map (fun w => (8 * w, 8))

/-- The SRAM after the marked words in the ranges were read (R224): marks go, a double error poisons its line when the
memory keeps poison. -/
def Sram.settle (m : Sram) (keepsPoison : Bool) (ranges : List (Nat × Nat)) : Sram :=
  let hit := m.badIn ranges
  { m with
    bad := m.bad.filter (fun e => !(hit.map (·.1)).contains e.1)
    poison := if keepsPoison then
        hit.foldl (fun p e => if e.2 = .double then sset false p (e.1 / 8) true else p) m.poison
      else m.poison }

/-! ### Error log (R490, Tables 21-2, 21-3) -/

/-- The first part of a record: everything but its number and time. -/
structure LogArgs where
  cls : Nat
  cause : BitVec 16
  block : Nat := 0
  inst : Nat := 0xFFFF
  ctx : Option Nat := none
  isVa : Bool := false
  addr : Nat := 0
  progress : Option Nat := none
  status : Status := 0
  detail : List Byte := []

/-- The 64 bytes of a record. -/
def LogRec.toBytes (r : LogRec) : List Byte :=
  leFields [(8, r.seq), (8, r.time), (1, r.cls), (1, r.block), (2, r.inst), (2, r.cause.toNat), (1, r.ctx), (1, r.flags),
    (8, r.addr), (8, r.progress), (2, r.status.toNat)] ++ sliceBytes r.detail 0 22

/-- Splits the rest of a detail into pieces of 40 bytes. -/
def pieces40 : Nat → List Byte → List (List Byte)
  | 0, _ => []
  | _, [] => []
  | n + 1, bs => bs.take 40 :: pieces40 n (bs.drop 40)

/-- The number of records the log holds at most. -/
def logCapacity : Nat := 16384

/-- The record that an overwrite removes, with its continuations: the oldest of class corrected, else the oldest. -/
def logVictim (log : List LogRec) : List LogRec :=
  let first (p : LogRec → Bool) : Option LogRec := log.find? (fun r => !bitOf r.flags 4 && p r)
  match (first (fun r => r.cls == 0)).or (first (fun _ => true)) with
  | none => log.take 1
  | some r =>
    r :: ((log.filter (fun q => r.seq < q.seq)).takeWhile (fun q => bitOf q.flags 4))

/-- One record into the log, overwriting when it is full; `lost` counts in RAS_LOG_STAT. -/
def Ras.push (a : Ras) (r : LogRec) : Ras :=
  if a.log.length < logCapacity then
    { a with log := a.log ++ [r], nextSeq := a.nextSeq + 1, written := min (a.written + 1) 0xFFFFFFFF }
  else
    let out := (logVictim a.log).map (·.seq)
    { a with
      log := a.log.filter (fun q => !out.contains q.seq) ++ [{ r with flags := r.flags ||| 4 }]
      nextSeq := a.nextSeq + 1
      written := min (a.written + 1) 0xFFFFFFFF
      lost := min (a.lost + out.length) 0xFFFF }

/-- The first record that LogArgs describe, at the present number and time. -/
def State.logRecord (s : State) (l : LogArgs) : LogRec :=
  { seq := s.ras.nextSeq, time := s.now, cls := l.cls, block := l.block, inst := l.inst, cause := l.cause,
    ctx := l.ctx.getD 0xFF, flags := (if l.isVa then 1 else 0) + (if l.progress.isSome then 2 else 0),
    addr := l.addr, progress := l.progress.getD 0, status := l.status, detail := l.detail.take 22 }

/-- Continuation records of a detail longer than 22 bytes: bytes 24 to 63 carry the next 40 bytes. They are held as the
record fields that those bytes fall in. -/
def continuation (r : LogRec) (seq : Nat) (piece : List Byte) : LogRec :=
  { r with seq := seq, flags := r.flags ||| 16, addr := leAt piece 0 8, progress := leAt piece 8 8,
           status := BitVec.ofNat 16 (leAt piece 16 2), detail := sliceBytes piece 18 22 }

/-- Writes one error (R490): its record and its continuations. -/
def State.log (s : State) (l : LogArgs) : State :=
  let r := s.logRecord l
  let more := pieces40 l.detail.length (l.detail.drop 22)
  let recs := r :: more.zipIdx.map (fun p => continuation r (r.seq + 1 + p.2) p.1)
  { s with ras := recs.foldl Ras.push s.ras }

/-! ### Notices (R429) -/

/-- Time between resends of an unacknowledged notice: 200 ms (R408). -/
def noticeResendNs : Nat := 200000000

/-- One notice into a session: numbered, kept and due to be sent at once, or counted when the session holds 256 (R408, R429). -/
def Session.notice (n : Session) (now kind ctx : Nat) (body : List Byte) : Session :=
  if n.notices.length < 256 then
    { n with noticeSeq := n.noticeSeq + 1
             notices := n.notices ++ [⟨n.noticeSeq, kind, ctx, now, body, now⟩] }
  else { n with noticesLost := n.noticesLost + 1 }

/-- Applies a function to the sessions that hold for a test. -/
def State.modSessions (s : State) (p : Session → Bool) (f : Session → Session) : State :=
  { s with lantern := { s.lantern with sessions := s.lantern.sessions.map (fun n => if p n then f n else n) } }

/-- A notice to every session attached to context x (R413, R429). -/
def State.noticeCtx (s : State) (x kind : Nat) (body : List Byte) : State :=
  s.modSessions (fun n => (s.ctx x).sessions.contains n.number) (fun n => n.notice s.now kind x body)

/-- A notice to every admin session. -/
def State.noticeDev (s : State) (kind : Nat) (body : List Byte) : State :=
  s.modSessions (fun n => n.admin) (fun n => n.notice s.now kind 0xFF body)

/-! ### Contained, deferred and fatal errors (R488, R489) -/

/-- Stops a context as a contained error: one record, state STOPPED, a CONTEXT_STOPPED notice (Table 21-1). A pending
pre-emption drain goes on (Table 10-11). -/
def State.contained (s : State) (x : Option Nat) (l : LogArgs) : State :=
  let l := { l with cls := 2, ctx := x }
  let body := (s.logRecord l).toBytes
  let s1 := s.log l
  match x with
  | none => s1
  | some x =>
    (s1.modCtx x (fun v => { v with
      state := if v.state = .running ∨ v.state = .stopped then .stopped else v.state, hardStop := true })).noticeCtx x 1 body

/-- A deferred or corrected error: its record only. -/
def State.deferred (s : State) (l : LogArgs) : State := s.log { l with cls := 1 }
def State.corrected (s : State) (l : LogArgs) : State := s.log { l with cls := 0 }

/-- The crash log region of the flash holds 1,024 entries (R492). -/
def crashEntries : Nat := 1024

/-- A crash log entry: the record and the 255 newest before it, not yet copied (R492). -/
def Flash.crashEntry (f : Flash) (r : LogRec) (log : List LogRec) : Flash :=
  let e := (false, r :: (log.reverse.take 255))
  { f with crash := (f.crash ++ [e]).drop (f.crash.length + 1 - crashEntries) }

/-- A port sent Off by a fatal error of transport or the link layers (R489, R340): state OFF, generation 0 and no lane
locked in CUF_LINK_STATE (Table 13-8), nothing kept to replay and nothing waiting. -/
def Port.fatalOff (p : Port) : Port :=
  { p with linkState := withFld (withFld p.linkState 31 27 0) 35 32 0, replay := [], replaying := none, replayFrom := none, replayAt := none
           nakAt := none, waiting := [], credits := [], returns := [], entryDeadline := none, pm := .none, pmAt := none }

/-- A fatal error (R489, R492), while which ALERT_N is low (R514). `fabric` says that it lies in transport or the Cuff link layers. -/
def State.fatalError (s : State) (l : LogArgs) (fabric : Bool) : State :=
  let l := { l with cls := 3 }
  let r := s.logRecord l
  let s1 := s.log l
  let s2 := (List.range 16).foldl (fun t x =>
    if (t.ctx x).state = .free then t
    else t.modCtx x (fun v => { v with state := .stopped, hardStop := true })) s1
  let s3 := (List.range 256).foldl (fun t c =>
    if (t.core c).scalar = .ended then t else t.modCore c (fun v => { v with scalar := .stopped })) s2
  let s4 := if fabric then (List.range 24).foldl (fun t p => t.modPort p Port.fatalOff) s3 else s3
  let s5 := { s4 with ras := { s4.ras with fatal := true }, flash := s4.flash.crashEntry r s.ras.log
                      pins := { s4.pins with alertLow := true } }
  s5.noticeDev 6 r.toBytes

end Sys2Proof.Machine
end

