-- ==== Sys2Proof/Machine/Keccak.lean ====
section
/-! DEFINITION. SHAKE256 (FIPS 202), the digest of containers, images, tokens and the measurement chain (R84, R476, R480). -/

namespace Sys2Proof.Machine

/-- Lane (x, y) of the 25 lanes, number 5 y + x. -/
def lane (a : List Word64) (x y : Nat) : Word64 := a.getD (5 * (y % 5) + x % 5) 0

/-- Rotation offsets of rho, by lane number. -/
def rhoOffsets : List Nat := [0, 1, 62, 28, 27, 36, 44, 6, 55, 20, 3, 10, 43, 25, 39, 41, 45, 15, 21, 8, 18, 2, 61, 56, 14]

/-- Round constants of iota. -/
def iotaConstants : List Word64 :=
  [0x0000000000000001#64, 0x0000000000008082#64, 0x800000000000808A#64, 0x8000000080008000#64, 0x000000000000808B#64,
   0x0000000080000001#64, 0x8000000080008081#64, 0x8000000000008009#64, 0x000000000000008A#64, 0x0000000000000088#64,
   0x0000000080008009#64, 0x000000008000000A#64] ++
  [0x000000008000808B#64, 0x800000000000008B#64, 0x8000000000008089#64, 0x8000000000008003#64, 0x8000000000008002#64,
   0x8000000000000080#64, 0x000000000000800A#64, 0x800000008000000A#64, 0x8000000080008081#64, 0x8000000000008080#64,
   0x0000000080000001#64, 0x8000000080008008#64]

def theta (a : List Word64) : List Word64 :=
  let c (x : Nat) : Word64 := (List.range 5).foldl (fun (v : Word64) y => v ^^^ lane a x y) 0
  (List.range 25).map (fun i => a.getD i 0 ^^^ c (i % 5 + 4) ^^^ (c (i % 5 + 1)).rotateLeft 1)

/-- Rho and pi: lane (x, y) takes the rotated lane (x + 3 y, x). -/
def rhoPi (a : List Word64) : List Word64 :=
  (List.range 25).map (fun i =>
    let x := i % 5
    let y := i / 5
    let k := 5 * x + (x + 3 * y) % 5
    (a.getD k 0).rotateLeft (rhoOffsets.getD k 0))

def chi (a : List Word64) : List Word64 :=
  (List.range 25).map (fun i => lane a i (i / 5) ^^^ (~~~(lane a (i % 5 + 1) (i / 5)) &&& lane a (i % 5 + 2) (i / 5)))

def keccakRound (a : List Word64) (rc : Word64) : List Word64 :=
  match chi (rhoPi (theta a)) with
  | [] => []
  | l :: r => (l ^^^ rc) :: r

/-- Keccak-f[1600]. -/
def keccakF (a : List Word64) : List Word64 := iotaConstants.foldl keccakRound a

/-- Bytes of a block in SHAKE256. -/
def shakeRate : Nat := 136

/-- One block of the padded message absorbed. -/
def absorb (a : List Word64) (block : List Byte) : List Word64 :=
  keccakF (a.zipIdx.map (fun e => if e.2 < 17 then e.1 ^^^ BitVec.ofNat 64 (leAt block (8 * e.2) 8) else e.1))

/-- The message with its domain bits and padding, in blocks. -/
def shakeBlocks (bs : List Byte) : List (List Byte) :=
  let n := bs.length / shakeRate + 1
  let tail := sliceBytes (bs.drop ((n - 1) * shakeRate) ++ [0x1F#8]) 0 shakeRate
  let last := patchBytes tail (shakeRate - 1) [tail.getD (shakeRate - 1) 0 ||| 0x80#8]
  (List.range (n - 1)).map (fun i => (bs.drop (i * shakeRate)).take shakeRate) ++ [last]

/-- Squeezes blocks. -/
def squeeze : Nat → List Word64 → List Byte
  | 0, _ => []
  | n + 1, a => (a.take 17).flatMap (fun l => leBytes 8 l.toNat) ++ squeeze n (keccakF a)

/-- SHAKE256 with an output of n bytes. -/
def shake256 (bs : List Byte) (n : Nat) : List Byte :=
  (squeeze ((n + shakeRate - 1) / shakeRate) ((shakeBlocks bs).foldl absorb (List.replicate 25 0))).take n

end Sys2Proof.Machine
end

