-- ==== Sys2Proof/Machine/Flags.lean ====
section
/-! DEFINITION. Sync flags (R66 to R70): identifiers, values, sets and saturating increments; and the flag registers of the
engines that count numeric events (R113, R114, R127, R128). -/

namespace Sys2Proof.Machine

/-! ### Flag identifiers (Table 3-3) -/

/-- Scope 1: a cluster flag. -/
def flagIsCluster (id : BitVec 16) : Bool := bitOf id.toNat 15
/-- Core within the cluster of a core flag. -/
def flagCore (id : BitVec 16) : Nat := bitsOf id.toNat 11 8
def flagIndex (id : BitVec 16) : Nat := bitsOf id.toNat 7 0

/-- Whether an identifier obeys Table 3-3. -/
def flagIdOk (id : BitVec 16) : Bool :=
  bitsOf id.toNat 14 12 == 0 && (if flagIsCluster id then flagCore id == 0 else decide (flagIndex id < 64))

/-- Whether core c (physical) may wait on the flag: its own core flags and its cluster's flags (R68). -/
def flagWaitOk (c : Nat) (id : BitVec 16) : Bool :=
  flagIdOk id && (flagIsCluster id || flagCore id == c % 16)

/-! ### Values (R66, R69) -/

/-- The value of a flag of physical cluster k. -/
def State.flag (s : State) (k : Nat) (id : BitVec 16) : Word32 :=
  if flagIsCluster id then sget 0 (s.cluster k).flags (flagIndex id)
  else sget 0 (s.core (16 * k + flagCore id)).flags (flagIndex id)

/-- FLAG_SET of a flag of physical cluster k. -/
def State.setFlag (s : State) (k : Nat) (id : BitVec 16) (v : Word32) : State :=
  if flagIsCluster id then
    s.modCluster k (fun u => { u with flags := sset 0 u.flags (flagIndex id) v })
  else s.modCore (16 * k + flagCore id) (fun u => { u with flags := sset 0 u.flags (flagIndex id) v })

/-- Word of CLU_FLAG_OVF that holds a flag's bit (Table 17-10). -/
def flagOvfWord (id : BitVec 16) : Nat :=
  if flagIsCluster id then flagIndex id / 64 else 4 + flagCore id

/-- Sets the flag's bit in CLU_FLAG_OVF. -/
def State.setFlagOvf (s : State) (k : Nat) (id : BitVec 16) : State :=
  s.modCluster k (fun u => { u with
    flagOvf := sset 0 u.flagOvf (flagOvfWord id)
      (sget 0 u.flagOvf (flagOvfWord id) ||| BitVec.ofNat 64 (2 ^ (flagIndex id % 64))) })

/-- Atomic increment: past 0xFFFF_FFFF the flag stays there and its overflow bit is set (R69). -/
def State.addFlag (s : State) (k : Nat) (id : BitVec 16) (n : Nat) : State :=
  let v := (s.flag k id).toNat + n
  if v < 2 ^ 32 then s.setFlag k id (BitVec.ofNat 32 v)
  else (s.setFlag k id 0xFFFFFFFF#32).setFlagOvf k id

/-- Whether a wait is satisfied: the value, compared unsigned, is at least the target (R64). -/
def State.waitMet (s : State) (k : Nat) (w : FlagWait) : Bool := decide (w.target.toNat ≤ (s.flag k w.flag).toNat)

end Sys2Proof.Machine
end

