-- ==== Sys2Proof/Machine/Memory.lean ====
section
/-! DEFINITION. Main memory: the physical map, the interleave hash, the main-memory code and its decoding, line reads,
line writes and ATOMICs, channel
arbitration and self-refresh (spec/01_device_overview.md, spec/09_memory_system_and_ecc.md). -/

namespace Sys2Proof.Machine

/-! ### Physical map and interleave (R228, R229, R231) -/

/-- First address past the LPDDR: 1,536 GiB. -/
def lpddrEnd : Nat := 0x18000000000
/-- First address of the firmware region. -/
def firmwareBase : Nat := 0x17F00000000
/-- First address of the far window. -/
def farBase : Nat := 0x80000000000
/-- First address past the far window. -/
def farEnd : Nat := 0x100000000000

/-- Parts of Table 9-3. -/
inductive PaRegion | context | firmware | reserved | far
  deriving DecidableEq, Repr

def paRegion (pa : Nat) : PaRegion :=
  if pa < firmwareBase then .context
  else if pa < lpddrEnd then .firmware
  else if pa < farBase then .reserved
  else if pa < farEnd then .far
  else .reserved

/-- The channel of a physical address (R231). -/
def channelOf (pa : Nat) : Nat :=
  bitsOf pa 14 8 ^^^ bitsOf pa 21 15 ^^^ bitsOf pa 28 22 ^^^ bitsOf pa 35 29 ^^^ bitsOf pa 40 36

/-- The channel-local byte address (R231). -/
def localOf (pa : Nat) : Nat := bitsOf pa 40 15 * 256 + bitsOf pa 7 0

/-- The controller group of a channel (R15). -/
def groupOf (ch : Nat) : Nat := ch / 8

/-! ### GF(2^16) (R240) -/

/-- One step of multiplication by x modulo x^16 + x^12 + x^3 + x + 1. -/
def gfDouble (a : Nat) : Nat := if 2 * a < 65536 then 2 * a else (2 * a) ^^^ 0x1100B

/-- Product of field elements, one bit of b at a time. -/
def gfMulFrom : Nat → Nat → Nat → Nat
  | 0, _, _ => 0
  | n + 1, a, b => (if b % 2 = 1 then a else 0) ^^^ gfMulFrom n (gfDouble a) (b / 2)

def gfMul (a b : Nat) : Nat := gfMulFrom 16 a b

/-- a to the power 2^n - 1, for the inverse a^(2^16 - 2). -/
def gfPowMersenne (a : Nat) : Nat → Nat
  | 0 => 1
  | n + 1 => let r := gfPowMersenne a n; gfMul (gfMul r r) a

/-- The inverse of a non-zero element. -/
def gfInv (a : Nat) : Nat := let r := gfPowMersenne a 15; gfMul r r

/-- The element alpha^n. -/
def gfAlpha : Nat → Nat
  | 0 => 1
  | n + 1 => gfDouble (gfAlpha n)

/-- The locator of symbol i: alpha^(35 - i). -/
def symLoc (i : Nat) : Nat := gfAlpha (35 - i)

/-- Syndromes S_0 to S_3 of an error pattern: symbol number and error value (R240). -/
def syndromes (e : List (Nat × Nat)) : List Nat :=
  (List.range 4).map (fun j =>
    e.foldl (fun acc p => acc ^^^ gfMul p.2 (gfAlpha (j * (35 - p.1)))) 0)

/-- The check symbols of a poison marker: each XORed with 0x9E6D (R242, the paragraph before R243). -/
def poisonDelta : Word64 := 0x9E6D9E6D9E6D9E6D#64

/-- The error pattern that a check-symbol difference stands for. -/
def deltaErr (d : Word64) : List (Nat × Nat) :=
  (List.range 4).map (fun j => (32 + j, fld d (16 * j + 15) (16 * j)))

/-- An error of one symbol with these syndromes. -/
def oneSymbol (S : List Nat) : Option (List (Nat × Nat)) :=
  let s (j : Nat) := S.getD j 0
  ((List.range 36).find? (fun i =>
    s 0 ≠ 0 && gfMul (s 0) (symLoc i) = s 1 && gfMul (s 1) (symLoc i) = s 2 && gfMul (s 2) (symLoc i) = s 3)).map
    (fun i => [(i, s 0)])

/-- The errors of a symbol pair that the first two syndromes give. -/
def pairErr (s0 s1 i j : Nat) : Nat × Nat :=
  let ej := gfMul (s1 ^^^ gfMul (symLoc i) s0) (gfInv (symLoc i ^^^ symLoc j))
  (s0 ^^^ ej, ej)

/-- An error of two symbols with these syndromes: the pair (i, j), i < j, for which the syndromes obey the recurrence
of its locators. -/
def twoSymbols (S : List Nat) : Option (List (Nat × Nat)) :=
  let s (j : Nat) := S.getD j 0
  let hit (p : Nat × Nat) : Bool :=
    let X := symLoc p.1
    let Y := symLoc p.2
    let sum := X ^^^ Y
    let prod := gfMul X Y
    (gfMul (s 0) prod ^^^ gfMul (s 1) sum ^^^ s 2) = 0 && (gfMul (s 1) prod ^^^ gfMul (s 2) sum ^^^ s 3) = 0 &&
      (pairErr (s 0) (s 1) p.1 p.2).1 ≠ 0 && (pairErr (s 0) (s 1) p.1 p.2).2 ≠ 0
  ((((List.range 36).flatMap (fun i => (List.range 36).map (fun j => (i, j)))).filter (fun p => p.1 < p.2)).find? hit).map
    (fun p => let e := pairErr (s 0) (s 1) p.1 p.2; [(p.1, e.1), (p.2, e.2)])

/-- An error of one or two symbols that non-zero syndromes name. -/
def nameError (S : List Nat) : Option (List (Nat × Nat)) := (oneSymbol S).or (twoSymbols S)

/-- A line's classification (Table 9-7) with the corrected symbols. -/
inductive LineClass
  | clean
  | poisoned
  | corrected (e : List (Nat × Nat))
  | markerCorrected (e : List (Nat × Nat))
  | uncorrectable
  deriving DecidableEq, Repr

/-- The first case of Table 9-7 that holds for the syndromes. -/
def classify (S : List Nat) : LineClass :=
  let P := syndromes (deltaErr poisonDelta)
  let SP := List.zipWith (· ^^^ ·) S P
  if S = [0, 0, 0, 0] then .clean
  else if S = P then .poisoned
  else match nameError S with
    | some e => .corrected e
    | none => match nameError SP with
      | some e => .markerCorrected e
      | none => .uncorrectable

/-! ### Lines as stored -/

/-- The data bytes of line l as stored. -/
def MainMem.line (m : MainMem) (l : Nat) : List Byte := (List.range 64).map (fun i => sget 0 m.bytes (64 * l + i))

def MainMem.deltaOf (m : MainMem) (l : Nat) : Word64 := sget 0 m.delta l

/-- Whether line l is stored as a poison marker. -/
def MainMem.isPoisoned (m : MainMem) (l : Nat) : Bool := m.deltaOf l == poisonDelta

/-- Stores data bytes from pa on; check symbols stay as their difference says. -/
def MainMem.putBytes (m : MainMem) (pa : Nat) (bs : List Byte) : MainMem :=
  { m with bytes := bs.zipIdx.foldl (fun t e => sset 0 t (pa + e.2) e.1) m.bytes }

/-- Sets the check-symbol difference of line l. -/
def MainMem.putDelta (m : MainMem) (l : Nat) (d : Word64) : MainMem := { m with delta := sset 0 m.delta l d }

/-- The canonical form of main memory. -/
def MainMem.wf (m : MainMem) : Bool := Sparse.wf (0 : Byte) m.bytes && Sparse.wf (0 : Word64) m.delta

/-- Data bytes with a symbol error applied: symbols 0 to 31 hold bytes 2i and 2i + 1 (R240). -/
def xorSymbols (bs : List Byte) (e : List (Nat × Nat)) : List Byte :=
  bs.zipIdx.map (fun b =>
    e.foldl (fun acc p => if p.1 = b.2 / 2 then acc ^^^ BitVec.ofNat 8 (p.2 / 256 ^ (b.2 % 2)) else acc) b.1)

/-- Captures an event in MEM_ECC_LAST (R246, Table 9-10). -/
def captureEcc (last : Word64) (uncorr : Bool) (e : List (Nat × Nat)) (line : Nat) : Word64 :=
  if fld last 63 63 = 0 ∨ (uncorr ∧ fld last 62 62 = 0) then
    let sym (i : Nat) := (e[i]?.map (·.1)).getD 0x3F
    BitVec.ofNat 64 (2 ^ 63 + (if uncorr then 2 ^ 62 else 0) + sym 0 * 2 ^ 56 + sym 1 * 2 ^ 50 + line % 2 ^ 38 * 64)
  else last

/-- The controller reads line l (R243, R244): state, data bytes returned, whether they are poisoned. `upset` is what the
array changed since the line was written. -/
def State.readLine (s : State) (l : Nat) (upset : List (Nat × BitVec 16)) : State × List Byte × Bool :=
  if upset = [] ∧ s.mem.deltaOf l = 0 then (s, s.mem.line l, false) else
  let ch := channelOf (64 * l)
  let ups := upset.map (fun p => (p.1, p.2.toNat))
  let d := s.mem.deltaOf l
  let got := xorSymbols (s.mem.line l) ups
  let S := syndromes (deltaErr d ++ ups)
  let stored (bs : List Byte) (delta : Word64) : MainMem :=
    let m := if bs = s.mem.line l then s.mem else s.mem.putBytes (64 * l) bs
    if delta = d then m else m.putDelta l delta
  match classify S with
  | .clean => ({ s with mem := stored got 0 }, got, false)
  | .poisoned =>
    (({ s with mem := stored got poisonDelta }).modChannel ch (fun c => { c with eccCount := bumpFld c.eccCount 15 0 1 }),
      got, true)
  | .corrected e =>
    let fixed := xorSymbols got e
    (({ s with mem := stored fixed 0 }).modChannel ch (fun c =>
      { c with eccCount := bumpFld c.eccCount 63 32 1, eccLast := captureEcc c.eccLast false e l }), fixed, false)
  | .markerCorrected e =>
    let fixed := xorSymbols got e
    (({ s with mem := stored fixed poisonDelta }).modChannel ch (fun c =>
      { c with eccCount := bumpFld (bumpFld c.eccCount 63 32 1) 15 0 1, eccLast := captureEcc c.eccLast false e l }),
      fixed, true)
  | .uncorrectable =>
    ((({ s with mem := stored got poisonDelta }).modChannel ch (fun c =>
      { c with eccCount := bumpFld c.eccCount 31 16 1, eccLast := captureEcc c.eccLast true [] l })).deferred
        { cls := 1, cause := 0x2011#16, block := 0x04, inst := ch, addr := 64 * l, detail := leBytes 1 ch }, got, true)

/-- The controller writes bytes at offset `off` of line l (R235): a whole line is stored clean or as a marker; a part is
merged into what a read of the line gives, and the line stays poisoned where that read finds it so. -/
def State.mergeLine (s : State) (l off : Nat) (bs : List Byte) (poison : Bool) (upset : List (Nat × BitVec 16)) : State :=
  if off = 0 ∧ bs.length = 64 then
    { s with mem := (s.mem.putBytes (64 * l) bs).putDelta l (if poison then poisonDelta else 0) }
  else
    let r := s.readLine l upset
    { r.1 with mem := (r.1.mem.putBytes (64 * l + off) bs).putDelta l (if poison || r.2.2 then poisonDelta else 0) }

/-- The result of a 64-bit ATOMIC (R234, Table 14-8): op 0 ADD, 1 OR, 2 CAS. -/
def atomicResult64 (op : Nat) (old operand compare : Word64) : Word64 :=
  match op with
  | 0 => old + operand
  | 1 => old ||| operand
  | _ => if old = compare then operand else old

/-- The controller performs an ATOMIC on the aligned 8-byte word at offset `off` of line l (R234): state, and the old value
unless the line is poisoned. -/
def State.atomicLine (s : State) (l off op : Nat) (operand compare : Word64) (upset : List (Nat × BitVec 16)) :
    State × Option Word64 :=
  let r := s.readLine l upset
  if r.2.2 then (r.1, none)
  else
    let old : Word64 := BitVec.ofNat 64 (leAt r.2.1 off 8)
    (r.1.mergeLine l off (leBytes 8 (atomicResult64 op old operand compare).toNat) false [], some old)

/-! ### Channel arbitration (R23, R24, R233, R234; log entry 96) -/

/-- The weight of a traffic kind in MEM_ARB_WEIGHT (Table 1-7): 0 compute DMA, 1 exchange, 2 collective, 3 update, 4 host. -/
def Group.weight (v : Group) (kind : Nat) : Nat := fld32 v.arbWeight (4 * kind + 3) (4 * kind)

/-- Transactions of a kind that hold a slot. -/
def Channel.held (c : Channel) (kind : Nat) : Nat := (c.slots.filter (fun t => t.kind == kind)).length

/-- Whether a slot is free for a kind: one of its 4 reserved ones, or one of the 44 shared (R233). -/
def Channel.room (c : Channel) (kind : Nat) : Bool :=
  decide (c.held kind < 4) || decide (((List.range 5).map (fun k => c.held k - 4)).foldl (· + ·) 0 < 44)

/-- The transactions that may be granted: those before which none of the same line stands (R234). -/
def grantable : List Txn → List Nat → List Txn
  | [], _ => []
  | t :: r, lines => if lines.contains t.line then grantable r lines else t :: grantable r (t.line :: lines)

/-- The credit of a kind once a turn of the smooth weighted round-robin begins (R24). -/
def Channel.credited (c : Channel) (v : Group) (kind : Nat) : Int := sget 0 c.credit kind + (v.weight kind : Int)

/-- The kind that a turn takes: the one with the largest credit, the lowest of several. -/
def Channel.turnKind (c : Channel) (v : Group) (kinds : List Nat) : Option Nat :=
  kinds.foldl (fun b k => match b with
    | none => some k
    | some j => if c.credited v j < c.credited v k then some k else some j) none

/-- The channel after a turn that took `kind`: its transfer of 256 bytes leaves the slots, each pending kind has gained its
weight, and the one taken has paid the sum. -/
def Channel.turned (c : Channel) (v : Group) (kinds : List Nat) (kind : Nat) (go : List Txn) : Channel :=
  let sum : Nat := (kinds.map v.weight).foldl (· + ·) 0
  { c with
    slots := go.foldl (fun l t => l.erase t) c.slots
    credit := kinds.foldl (fun m k => sset 0 m k (c.credited v k - (if k = kind then (sum : Int) else 0))) c.credit }

/-- The transactions of one transfer: the first of the kind, and those of the kind on the same 256 bytes. -/
def transfer (ready : List Txn) (kind : Nat) : List Txn :=
  match ready.filter (fun t => t.kind == kind) with
  | [] => []
  | t :: r => t :: r.filter (fun q => q.line / 4 == t.line / 4)

/-- What a transaction does to its line. -/
def State.act (s : State) (t : Txn) : State :=
  match t.act with
  | .read upset => (s.readLine t.line upset).1
  | .write off bs poison upset => s.mergeLine t.line off bs poison upset
  | .atomic off op operand compare upset => (s.atomicLine t.line off op operand compare upset).1

/-- Requests that wait on the die mesh take the slots that are free for their kinds, oldest first (R26, R233). -/
def State.takeSlots (s : State) (ch : Nat) : State :=
  s.mesh.memReq.foldl (fun u t =>
    if channelOf (64 * t.line) = ch ∧ (u.channel ch).room t.kind then
      { u.modChannel ch (fun c => { c with slots := c.slots ++ [t] }) with
        mesh := { u.mesh with memReq := u.mesh.memReq.erase t } }
    else u) s

/-- One turn of a channel's scheduler: a transfer is granted and takes effect, and its replies use the space reserved for
them on the memory-reply network (R26). -/
def State.turn (s : State) (ch : Nat) : State :=
  let c := s.channel ch
  let v := s.group (groupOf ch)
  let ready := grantable c.slots []
  let kinds := (List.range 5).filter (fun k => ready.any (fun t => t.kind == k))
  match c.turnKind v kinds with
  | none => s
  | some kind =>
    let go := transfer ready kind
    let t := go.foldl State.act (s.setChannel ch (c.turned v kinds kind go))
    { t with mesh := { t.mesh with replySpace := t.mesh.replySpace - go.length } }

/-- Turns of a channel until nothing is pending; each turn takes one transaction at least. -/
def State.drain (ch : Nat) : Nat → State → State
  | 0, s => s
  | n + 1, s => if (s.channel ch).slots = [] then s else State.drain ch n ((s.turn ch).takeSlots ch)

/-- The transactions that channel ch and the mesh hold for it. -/
def State.txnCount (s : State) (ch : Nat) : Nat := (s.channel ch).slots.length + s.mesh.memReq.length

/-! ### Self-refresh (R236 to R238) -/

/-- Nanoseconds of idle_us. -/
def Group.idleNs (v : Group) : Nat := fld32 v.srCfg 19 0 * 1000

/-- The refuser of Table 9-5 that holds, 0 for none. -/
def srRefuser (s : State) (g : Nat) : Nat :=
  let v := s.group g
  if bitOf v.scrubCfg.toNat 31 && decide (v.scrubDue ≤ s.now) then 1
  else if (s.ras.memRun.map (fun m => bitOf m g)).getD false then 2
  else if v.hold then 3
  else if v.tempChange then 4
  else 0

/-- Whether the group is entering self-refresh and the self-refresh command has not issued yet (R236). -/
def State.srEntering (s : State) (g : Nat) : Bool :=
  let v := s.group g
  !v.selfRefresh && bitOf v.srCfg.toNat 31 && srRefuser s g == 0 &&
    (match v.srDue with | some d => decide (d ≤ s.now ∧ s.now < d + Config.srIssueNs.val) | none => false)

/-- A transaction on a group that is awake: an entry that had begun is abandoned and counted, and the idle timer starts
again with the idle time now in force (R236, R522). -/
def State.touched (s : State) (g : Nat) : State :=
  let v := s.group g
  let due := some (s.now + v.idleNs)
  if s.srEntering g then s.setGroup g { v with srDue := due, srStat := bumpFld v.srStat 31 16 1 }
  else if v.srDue = due then s
  else s.setGroup g { v with srDue := due }

/-- What waits on the channels of a group takes effect, channel after channel. -/
def State.drainGroup (s : State) (g : Nat) : State :=
  (List.range 8).foldl (fun u i => if u.txnCount (8 * g + i) = 0 then u
    else State.drain (8 * g + i) (u.txnCount (8 * g + i)) u) s

/-- The group leaves self-refresh, the transactions that have waited for it take effect, and the idle timer starts. -/
def State.srExit (s : State) (g : Nat) : State :=
  ((s.modGroup g (fun v => { v with selfRefresh := false })).drainGroup g).touched g

/-- A transaction on line l finds its channel group awake: one in self-refresh is left first (R236). -/
def State.awake (s : State) (l : Nat) : State :=
  let g := groupOf (channelOf (64 * l))
  if (s.group g).selfRefresh then s.srExit g else s.touched g

/-- A request reaches its channel (R26, R233, R236): in an awake group it takes effect at once; in self-refresh it holds a
slot, or waits on the mesh for one, until the exit, and its reply space is reserved. -/
def State.lineRequest (s : State) (t : Txn) : State :=
  let ch := channelOf (64 * t.line)
  if !(s.group (groupOf ch)).selfRefresh then (s.touched (groupOf ch)).act t
  else
    let u := { s with mesh := { s.mesh with replySpace := s.mesh.replySpace + 1 } }
    if (u.channel ch).room t.kind then u.modChannel ch (fun c => { c with slots := c.slots ++ [t] })
    else { u with mesh := { u.mesh with memReq := u.mesh.memReq ++ [t] } }

/-- One read of line l on behalf of an agent. -/
def State.fetchLine (s : State) (l : Nat) (upset : List (Nat × BitVec 16)) : State × List Byte × Bool :=
  (s.awake l).readLine l upset

/-- A write of bytes at offset `off` of line l on behalf of an agent. -/
def State.storeLine (s : State) (l off : Nat) (bs : List Byte) (poison : Bool) (upset : List (Nat × BitVec 16)) : State :=
  (s.awake l).mergeLine l off bs poison upset

/-- What a read of line l returns, without the effects of the read. -/
def State.peekLine (s : State) (l : Nat) : List Byte × Bool := (s.fetchLine l []).2

/-! ### Byte ranges of LPDDR -/

/-- The pieces of [pa, pa + n) in each line: line, offset in it, length. -/
def linePieces (pa n : Nat) : List (Nat × Nat × Nat) :=
  if n = 0 then [] else
  (List.range ((pa + n - 1) / 64 - pa / 64 + 1)).map (fun i =>
    let l := pa / 64 + i
    let a := max pa (64 * l)
    let b := min (pa + n) (64 * l + 64)
    (l, a - 64 * l, b - a))

/-- Reads n bytes of LPDDR from pa: state, bytes, whether any line read was poisoned. -/
def State.readPa (s : State) (pa n : Nat) : State × List Byte × Bool :=
  (linePieces pa n).foldl (fun acc p =>
    let r := acc.1.fetchLine p.1 []
    (r.1, acc.2.1 ++ (r.2.1.drop p.2.1).take p.2.2, acc.2.2 || r.2.2)) (s, [], false)

/-- Poison of each line of a range, in order. -/
def State.poisonPa (s : State) (pa n : Nat) : List Bool :=
  (linePieces pa n).map (fun p => s.mem.isPoisoned p.1)

/-- Writes bytes to LPDDR from pa; each line is written with the poison of its piece (R247). -/
def State.writePa (s : State) (pa : Nat) (bs : List Byte) (poison : Nat → Bool) : State :=
  ((linePieces pa bs.length).zipIdx.foldl (fun (acc : State × List Byte) p =>
    (acc.1.storeLine p.1.1 p.1.2.1 (acc.2.take p.1.2.2) (poison p.2) [], acc.2.drop p.1.2.2)) (s, bs)).1

/-- Writes clean bytes. -/
def State.writePaClean (s : State) (pa : Nat) (bs : List Byte) : State := s.writePa pa bs (fun _ => false)

/-- An ATOMIC on the aligned 8-byte word at pa on behalf of an agent (R234): state, and the old value unless the line is
poisoned. -/
def State.atomicPa (s : State) (pa op : Nat) (operand compare : Word64) (upset : List (Nat × BitVec 16)) :
    State × Option Word64 :=
  (s.awake (pa / 64)).atomicLine (pa / 64) (pa % 64) op operand compare upset

end Sys2Proof.Machine
end

