-- ==== Sys2Proof/Machine/Translate.lean ====
section
/-! DEFINITION. Virtual addresses: page-table entries, the three-level walk, the checks of R254, the agents of Table 10-6,
translation faults and their records (spec/10_translation_faults_and_preemption.md). -/

namespace Sys2Proof.Machine

/-! ### Fault kinds (Table 10-5) -/

def kNotMapped : Nat := 1
def kPermission : Nat := 2
def kFarAccess : Nat := 3
def kPinRequired : Nat := 4
def kBadEntry : Nat := 5
def kDecode : Nat := 6
def kTablePoison : Nat := 7
def kFarRemote : Nat := 8

/-! ### Agents (Table 10-6, Table 10-7) -/

/-- Whether the agent may reach far pages. -/
def agentFar : Agent → Bool
  | .coreDma | .bulkDma | .remoteOp | .hostDma => true
  | _ => false

/-- Whether the agent needs pinned memory; an inbound operation of class XCH or COL does. The source and the destination of a
STASH operation, agent `stash`, need none: Table 10-6 asks it of spill and overflow reads (DEDUCED, log entry 99). -/
def agentPinned : Agent → Bool
  | .fetch | .exchange | .pocket | .collective | .update | .inboundPinned => true
  | _ => false

/-- Whether a NOT_MAPPED fault of the agent is resumable. -/
def agentResumable : Agent → Bool
  | .scalar | .coreDma | .bulkDma | .remoteOp | .routeOp | .hostDma => true
  | _ => false

/-- Agent code of MMU_CTX_FAULT (Table 10-7). -/
def agentCode : Agent → Nat
  | .scalar | .fetch => 1
  | .coreDma | .remoteOp => 2
  | .bulkDma => 3
  | .routeOp | .exchange => 4
  | .pocket | .stash => 5
  | .collective => 6
  | .update => 7
  | .inbound | .inboundPinned => 8
  | .hostDma => 9

/-- Access code of MMU_CTX_FAULT. -/
def accessCode : Access → Nat
  | .read => 0 | .write => 1 | .fetch => 2 | .atomic => 3

/-! ### Page-table entries (Table 10-3) -/

def pteValid (e : Word64) : Bool := bitOf e.toNat 0
def pteLeaf (e : Word64) : Bool := bitOf e.toNat 1
def pteRead (e : Word64) : Bool := bitOf e.toNat 3
def pteWrite (e : Word64) : Bool := bitOf e.toNat 4
def pteCode (e : Word64) : Bool := bitOf e.toNat 5
def pteFar (e : Word64) : Bool := bitOf e.toNat 6
def ptePinned (e : Word64) : Bool := bitOf e.toNat 7
def pteRemote (e : Word64) : Bool := bitOf e.toNat 8
/-- The physical address that an entry names: addr in place. -/
def pteAddr (e : Word64) : Nat := fld e 43 16 * 65536

/-- The rules of Table 10-3 for a table pointer. -/
def ptrOk (e : Word64) : Bool := !pteLeaf e && fld e 55 44 == 0 && fld e 15 2 == 0

/-- The reserved rules and the far rule of Table 10-3 for a leaf. -/
def leafOk (e : Word64) : Bool :=
  fld e 55 44 == 0 && fld e 15 9 == 0 && fld e 2 2 == 0 && (pteFar e == bitOf e.toNat 43)

/-- The entry at index i of the table at pa; `none` when its line is poisoned or uncorrectable. -/
def State.pte (s : State) (table i : Nat) : Option Word64 :=
  let a := table + 8 * i
  let r := s.peekLine (a / 64)
  if r.2 then none else some (BitVec.ofNat 64 (leAt r.1 (a % 64) 8))

/-- A leaf that a walk reached: its entry, and whether it is a 512 MiB block. -/
structure Leaf where
  entry : Word64
  block : Bool
  deriving DecidableEq, Repr

/-- The three levels (R251) with the checks 1 and 2 of R254. -/
def State.walkTables (s : State) (root va : Nat) : Except Nat Leaf :=
  match s.pte root (bitsOf va 47 42) with
  | none => .error kTablePoison
  | some e1 =>
    if !pteValid e1 then .error kNotMapped
    else match s.pte (pteAddr e1) (bitsOf va 41 29) with
    | none => .error kTablePoison
    | some e2 =>
      if !pteValid e2 then .error kNotMapped
      else if pteLeaf e2 then
        if ptrOk e1 && leafOk e2 && fld e2 28 16 == 0 then .ok ⟨e2, true⟩ else .error kBadEntry
      else match s.pte (pteAddr e2) (bitsOf va 28 16) with
      | none => .error kTablePoison
      | some e3 =>
        if !pteValid e3 then .error kNotMapped
        else if ptrOk e1 && ptrOk e2 && pteLeaf e3 && leafOk e3 then .ok ⟨e3, false⟩ else .error kBadEntry

/-- The physical address of va under a leaf. -/
def Leaf.pa (f : Leaf) (va : Nat) : Nat :=
  if f.block then pteAddr f.entry + bitsOf va 28 0 else pteAddr f.entry + bitsOf va 15 0

/-- Whether an entry allows an access; `remote` marks an inbound remote operation (Table 10-3). -/
def permits (e : Word64) (a : Access) (remote : Bool) : Bool :=
  match a with
  | .read => pteRead e
  | .write => pteWrite e && (!remote || pteRemote e)
  | .fetch => pteCode e
  | .atomic => pteWrite e && (!remote || pteRemote e)

/-- Whether the agent is the inbound side of transport. -/
def agentInbound : Agent → Bool
  | .inbound | .inboundPinned => true
  | _ => false

/-- Far region number and offset of an address of the far window (R402). -/
def farRegionOf (pa : Nat) : Nat × Nat := ((pa - farBase) / 2 ^ 35, (pa - farBase) % 2 ^ 35)

/-- A far address of an unbound region, or beyond the region's length (R402). -/
def State.farUnbound (s : State) (pa : Nat) : Bool :=
  paRegion pa == .far && (match sget none s.hp.regions (farRegionOf pa).1 with
    | none => true
    | some r => decide (r.len ≤ (farRegionOf pa).2))

/-- The checks of R254 in order, for one address of context x: the leaf, or the fault kind. No agent of a context reaches the
firmware region, where its save area lies: the access is decoded nowhere (R229; DEDUCED, log entry 102). -/
def State.lookup (s : State) (x : Nat) (agent : Agent) (access : Access) (va : Nat) : Except Nat Leaf :=
  if 2 ^ 48 ≤ va then .error kDecode
  else if (s.ctx x).root = 0 then .error kNotMapped
  else match s.walkTables (s.ctx x).root va with
  | .error k => .error k
  | .ok f =>
    if paRegion (f.pa va) = .reserved ∨ paRegion (f.pa va) = .firmware ∨ s.farUnbound (f.pa va) then .error kDecode
    else if !permits f.entry access (agentInbound agent) then .error kPermission
    else if pteFar f.entry && !agentFar agent then .error kFarAccess
    else if agentPinned agent && !ptePinned f.entry then .error kPinRequired
    else .ok f

/-- Translation of one address. -/
def State.translate (s : State) (x : Nat) (agent : Agent) (access : Access) (va : Nat) : Except Nat Nat :=
  match s.lookup x agent access va with
  | .error k => .error k
  | .ok f => .ok (f.pa va)

/-- A piece of a VA range within one 64 KiB page: VA and length. -/
def pagePieces (va n : Nat) : List (Nat × Nat) :=
  if n = 0 then [] else
  (List.range ((va + n - 1) / 65536 - va / 65536 + 1)).map (fun i =>
    let p := va / 65536 + i
    let a := max va (65536 * p)
    let b := min (va + n) (65536 * p + 65536)
    (a, b - a))

/-- Translation of a range, page by page: physical pieces (address, length), or the first fault (kind, VA). -/
def State.translateRange (s : State) (x : Nat) (agent : Agent) (access : Access) (va n : Nat) :
    Except (Nat × Nat) (List (Nat × Nat)) :=
  (pagePieces va n).foldl (fun acc p =>
    match acc with
    | .error e => .error e
    | .ok l => match s.translate x agent access p.1 with
      | .error k => .error (k, p.1)
      | .ok pa => .ok (l ++ [(pa, p.2)])) (.ok [])

/-! ### Reads and writes by VA, near pages -/

/-- Reads n bytes at va: state, bytes, poisoned; or the first fault. -/
def State.readVa (s : State) (x : Nat) (agent : Agent) (va n : Nat) : Except (Nat × Nat) (State × List Byte × Bool) :=
  match s.translateRange x agent .read va n with
  | .error e => .error e
  | .ok ps => .ok (ps.foldl (fun acc p =>
      let r := acc.1.readPa p.1 p.2
      (r.1, acc.2.1 ++ r.2.1, acc.2.2 || r.2.2)) (s, [], false))

/-- Writes bytes at va, every line with the given poison; or the first fault, with nothing written. -/
def State.writeVa (s : State) (x : Nat) (agent : Agent) (va : Nat) (bs : List Byte) (poison : Bool) :
    Except (Nat × Nat) State :=
  match s.translateRange x agent .write va bs.length with
  | .error e => .error e
  | .ok ps => .ok ((ps.foldl (fun (acc : State × List Byte) p =>
      (acc.1.writePa p.1 (acc.2.take p.2) (fun _ => poison), acc.2.drop p.2)) (s, bs)).1)

/-- Whether every page of a range is mapped and pinned (R262). -/
def State.rangePinned (s : State) (x va n : Nat) : Bool :=
  (pagePieces va n).all (fun p =>
    match s.walkTables (s.ctx x).root p.1 with
    | .ok f => ptePinned f.entry
    | .error _ => false) && (s.ctx x).root ≠ 0 && decide (va + n ≤ 2 ^ 48)

/-! ### Fault records (R257, R258, R263) -/

/-- A translation fault: who, where, what kind. -/
structure TFault where
  agent : Agent
  unit : Nat
  kind : Nat
  access : Access
  va : Nat
  deriving DecidableEq, Repr

/-- Block and instance of the unit of an agent in records (Table 17-10). -/
def agentBlock (a : Agent) (unit : Nat) : Nat × Nat :=
  match a with
  | .scalar | .fetch | .coreDma | .remoteOp => (0x01, unit)
  | .bulkDma | .routeOp | .exchange | .pocket | .stash | .collective => (0x02, unit)
  | .update => (0x03, unit)
  | .inbound | .inboundPinned => (0x0A, 0)
  | .hostDma => (0x0B, 0)

/-- Whether the fault is resumable (R257). -/
def TFault.resumable (f : TFault) : Bool := f.kind == kNotMapped && agentResumable f.agent

/-- MMU_CTX_FAULT after one more fault (R263, Table 10-7). -/
def captureFault (r : Word64) (f : TFault) : Word64 :=
  if fld r 63 63 = 1 then bumpFld r 7 0 1
  else BitVec.ofNat 64 (2 ^ 63 + (if f.resumable then 2 ^ 62 else 0) + f.kind % 16 * 2 ^ 58 + (accessCode f.access) * 2 ^ 56 +
    (agentCode f.agent) * 2 ^ 52 + bitsOf f.va 47 16 * 2 ^ 16 + f.unit % 256 * 2 ^ 8 + 1)

/-- The context's register and list of faults after one fault. -/
def Ctx.fault (v : Ctx) (f : TFault) : Ctx :=
  { v with faultReg := captureFault v.faultReg f
           faults := v.faults ++ [⟨(agentCode f.agent), f.unit, f.kind, (accessCode f.access), f.va⟩] }

/-- The record of a translation fault (Table 21-3). -/
def TFault.log (f : TFault) (block inst : Nat) (progress : Option Nat) : LogArgs :=
  { cls := 2, cause := 0x2006#16, block := block, inst := inst, isVa := true, addr := f.va, progress := progress,
    detail := [BitVec.ofNat 8 f.kind, BitVec.ofNat 8 (accessCode f.access), BitVec.ofNat 8 (agentCode f.agent)] }

/-- Changes the armed receives and the collectives of context x. -/
def State.modWaits (s : State) (x : Nat) (g : XRecv → XRecv) (h : Coll → Coll) : State :=
  (s.ctx x).clusters.foldl (fun t k =>
    if (t.cluster k).xrecvs.any (fun v => v.ctx == x) || (t.cluster k).colls.any (fun z => z.ctx == x) then
      t.modCluster k (fun u => { u with xrecvs := u.xrecvs.map (fun v => if v.ctx = x then g v else v)
                                        colls := u.colls.map (fun z => if z.ctx = x then h z else z) })
    else t) s

/-- A deadline moved by the time that it stood. -/
def shiftBy (n : Nat) (d : Option Nat) : Option Nat := d.map (· + n)

/-- The deadlines of receives and of the stages of collectives count only while their context is RUNNING (R215, Table 15-7):
they pause. -/
def State.pauseRecvs (s : State) (x : Nat) : State :=
  s.modWaits x (fun v => { v with paused := v.paused.or (some s.now) }) (fun z => { z with paused := z.paused.or (some s.now) })

/-- They go on. -/
def State.resumeRecvs (s : State) (x : Nat) : State :=
  s.modWaits x
    (fun v => match v.paused with
      | none => v
      | some p => { v with deadline := shiftBy (s.now - p) v.deadline, paused := none })
    (fun z => match z.paused with
      | none => z
      | some p => { z with paused := none, stages := z.stages.map (fun t =>
          { t with deadline := shiftBy (s.now - p) t.deadline, waitUntil := shiftBy (s.now - p) t.waitUntil }) })

/-! ### Translation buffers and the walk counters (R253, R264) -/

/-- The cluster whose counters a walk of an agent's unit moves. -/
def walkCluster (a : Agent) (unit : Nat) : Option Nat :=
  match a with
  | .scalar | .fetch | .coreDma | .remoteOp => some (unit / 16)
  | .bulkDma | .routeOp | .exchange | .pocket | .stash | .collective => some unit
  | _ => none

/-- A translation buffer of so many sets and ways with one more entry; the oldest entry of a full set goes (DESIGN CHOICE, log
entry 31: the spec gives no replacement). The set of a page is the device's own. -/
def tlbFill (sets ways : Nat) (l : List (Nat × Nat × Word64)) (e : Nat × Nat × Word64) : List (Nat × Nat × Word64) :=
  let set (z : Nat × Nat × Word64) : Nat := if sets = 1 then 0 else Config.tlbSet sets z.1 z.2.1 % sets
  let others := l.filter (fun z => !(z.1 == e.1 && z.2.1 == e.2.1))
  let mine := others.filter (fun z => set z == set e)
  let kept := mine.take (ways - 1)
  e :: others.filter (fun z => set z != set e || kept.contains z)

def tlbFind (l : List (Nat × Nat × Word64)) (x page : Nat) : Option (Nat × Nat × Word64) :=
  l.find? (fun z => z.1 == x && z.2.1 == page)

def tlbHas (l : List (Nat × Nat × Word64)) (x page : Nat) : Bool := (tlbFind l x page).isSome

/-- Whether the buffers that serve an agent hold the page (Table 10-4). -/
def State.tlbHit (s : State) (x : Nat) (a : Agent) (unit page : Nat) : Bool :=
  match a with
  | .scalar | .fetch | .coreDma | .remoteOp =>
    tlbHas (s.core unit).tlb x page || tlbHas (s.cluster (unit / 16)).tlb x page
  | .bulkDma | .routeOp | .exchange | .pocket | .stash | .collective => tlbHas (s.cluster unit).tlb x page
  | .update => tlbHas (s.group unit).updTlb x page
  | .inbound | .inboundPinned => tlbHas s.xpt.tlb x page
  | .hostDma => tlbHas s.hp.tlb x page

/-- The core's buffer with one more entry. -/
def State.tlbCore (s : State) (c : Nat) (e : Nat × Nat × Word64) : State :=
  s.modCore c (fun u => { u with tlb := tlbFill 1 64 u.tlb e })

/-- The entry of a walk into the buffers that serve its agent (Table 10-4). -/
def State.tlbPut (s : State) (a : Agent) (unit : Nat) (e : Nat × Nat × Word64) : State :=
  match a with
  | .scalar | .fetch | .coreDma | .remoteOp =>
    (s.tlbCore unit e).modCluster (unit / 16) (fun u => { u with tlb := tlbFill 256 8 u.tlb e })
  | .bulkDma | .routeOp | .exchange | .pocket | .stash | .collective =>
    s.modCluster unit (fun u => { u with tlb := tlbFill 256 8 u.tlb e })
  | .update => s.modGroup unit (fun v => { v with updTlb := tlbFill 1 128 v.updTlb e })
  | .inbound | .inboundPinned => { s with xpt := { s.xpt with tlb := tlbFill 128 8 s.xpt.tlb e } }
  | .hostDma => { s with hp := { s.hp with tlb := tlbFill 32 8 s.hp.tlb e } }

/-- A core's miss that the cluster buffer serves fills the core's buffer. -/
def State.tlbRefill (s : State) (x : Nat) (a : Agent) (unit page : Nat) : State :=
  match a with
  | .scalar | .fetch | .coreDma | .remoteOp =>
    if tlbHas (s.core unit).tlb x page then s
    else match tlbFind (s.cluster (unit / 16)).tlb x page with
      | some e => s.tlbCore unit e
      | none => s
  | _ => s

/-- A walk started for an agent (R264). -/
def State.walkStarted (s : State) (a : Agent) (unit : Nat) : State :=
  match walkCluster a unit with
  | some k => s.modCluster k (fun u => { u with walkStat := bumpFld u.walkStat 63 32 1 })
  | none => s

/-- A walk of an agent that ended in a fault. -/
def State.walkFailed (s : State) (a : Agent) (unit : Nat) : State :=
  match walkCluster a unit with
  | some k => s.modCluster k (fun u => { u with walkStat := bumpFld u.walkStat 31 0 1 })
  | none => s

/-- The walk that found a fault: none where the address is refused before any buffer is looked up, or where a buffer holds the
page (R253, R254, R264). -/
def State.faultWalk (s : State) (x : Nat) (f : TFault) : State :=
  if 2 ^ 48 ≤ f.va ∨ s.tlbHit x f.agent f.unit (f.va / 65536) then s
  else (s.walkStarted f.agent f.unit).walkFailed f.agent f.unit

/-- A fault of an agent of context x (R257, R258, R263), with the walk that found it (R264): the register captures it, one record is written, the context is
STOPPED; a resumable fault leaves it able to resume. -/
def State.tfault (s : State) (x : Nat) (f : TFault) (block inst : Nat) (progress : Option Nat) : State :=
  let s1 := (s.faultWalk x f).modCtx x (fun v => v.fault f)
  let l := f.log block inst progress
  if f.resumable then
    let body := (s1.logRecord { l with ctx := some x }).toBytes
    (((s1.log { l with ctx := some x }).modCtx x (fun v => { v with
      state := if v.state = .running then .stopped else v.state })).pauseRecvs x).noticeCtx x 1 body
  else s1.contained (some x) l

end Sys2Proof.Machine
end

