-- ==== Sys2Proof/WellFormed.lean ====
section
/-! DEFINITION. Which commands are well formed: the shapes that the spec gives a bundle (R60, R61), a cell (R349), a
capability block (R335), a line (R240) and the fixed-length records that commands carry. -/

namespace Sys2Proof

/-- The queue that an operation belongs to (Table 3-2). -/
def Op.queue : Op → QueueId
  | .mat _ => .matrix
  | .vec _ => .vector
  | .dma _ => .dma
  | .sync _ => .sync

/-- An operation slot holds an operation of its own queue; a sync slot has no wait or signal of its own (R64). -/
def slotWf (q : QueueId) : Option OpSlot → Bool
  | none => true
  | some o => (o.op.queue == q) && (q != .sync || (o.wait.isNone && o.signal.isNone))

/-- A place that a scalar slot names is the start or the end of a bundle, which lies on a 2-byte boundary (R60). -/
def ScalarSlot.wf : ScalarSlot → Bool
  | .branch target _ => target % 2 == 0
  | .loopBegin f => f.last % 2 == 0
  | _ => true

/-- A bundle has at most two scalar slots and one slot for each queue (R60, R61). -/
def Bundle.wf (b : Bundle) : Bool :=
  decide (b.scalar.length ≤ 2) && b.scalar.all ScalarSlot.wf && slotWf .matrix b.matrix && slotWf .vector b.vector && slotWf .dma b.dma &&
    slotWf .sync b.sync

/-- A cell has 48 payload bytes and one of the six classes (R349, Table 13-3). -/
def Cell.wf (c : Cell) : Bool := decide (c.payload.length = 48 ∧ c.cls < 6)

/-- A capability block names six adaptive allotments and 4 seeds (R335). -/
def CapBlock.wf (b : CapBlock) : Bool := decide (b.allot.length = 6 ∧ b.seeds.length = 4)

/-- Well-formed commands. -/
def Instr.wf : Instr → Bool
  | .bundleIssue _ i => i.bundle.wf
  | .loopBegin _ f => ScalarSlot.wf (.loopBegin f)
  | .cellForward _ c => c.wf
  | .cellArrival c => c.wf
  | .xchCell c => c.wf
  | .xchReply c => c.wf
  | .completion c => c.wf
  | .nakRetry c => c.wf
  | .nakRefuse c => c.wf
  | .getData c => c.wf
  | .atomicResult c => c.wf
  | .exchange _ b => b.all CapBlock.wf
  | .berCheck _ l => decide (l.length = 4)
  | .lineWrite pa bs _ _ => decide (1 ≤ bs.length ∧ pa % 64 + bs.length ≤ 64)
  | .topologyLoad _ r => decide (r.length = 128)
  | .cfgRecord _ _ _ _ r => decide (r.length = 128)
  | .pfcFrame q => decide (q.length = 8)
  | .powerSample _ t => decide (t.length = 16)
  | .trimAdjust r => decide (r.length = 4)
  | .memWrite _ _ _ n d => decide (d.length = n)
  | _ => true

end Sys2Proof
end

