-- ==== Sys2Proof/Machine/Engine.lean ====
section
/-! DEFINITION. What every engine queue shares (R63 to R65, R70, R77): queues and in-flight places, the entry that an
operation's command works for, refusals, core faults, outcomes. -/

namespace Sys2Proof.Machine

/-! ### Queues (Table 3-2) -/

/-- Queue code of R65. -/
def queueCode : QueueId → Nat | .matrix => 0 | .vector => 1 | .dma => 2 | .sync => 3

/-- Code of the scalar processor (R65). -/
def scalarCode : Nat := 4

def queueSize : QueueId → Nat | .matrix => 32 | .vector => 32 | .dma => 64 | .sync => 16
def inFlightSize : QueueId → Nat | .matrix => 4 | .vector => 2 | .dma => 16 | .sync => 1

/-- Waiting operations of a queue, oldest first. -/
def Core.queue (u : Core) : QueueId → List QEntry
  | .matrix => u.matrixQ | .vector => u.vectorQ | .dma => u.dmaQ | .sync => u.syncQ

def Core.setQueue (u : Core) (q : QueueId) (l : List QEntry) : Core :=
  match q with
  | .matrix => { u with matrixQ := l }
  | .vector => { u with vectorQ := l }
  | .dma => { u with dmaQ := l }
  | .sync => { u with syncQ := l }

/-- Operations in flight, oldest first. -/
def Core.inFlight (u : Core) : QueueId → List QEntry
  | .matrix => u.matrixF | .vector => u.vectorF | .dma => u.dmaF | .sync => u.syncF

def Core.setInFlight (u : Core) (q : QueueId) (l : List QEntry) : Core :=
  match q with
  | .matrix => { u with matrixF := l }
  | .vector => { u with vectorF := l }
  | .dma => { u with dmaF := l }
  | .sync => { u with syncF := l }

def allQueues : List QueueId := [.matrix, .vector, .dma, .sync]

/-- Accumulator slots that a tile of a mode occupies: 2t and 2t + 1 in mode C, one slot otherwise (R90). -/
def tileSlots (tile : Nat) (m : TileMode) : List Nat := if m = .c then [tile, tile + 1] else [tile]

/-! ### The entry that a command works for -/

/-- What an operation uses of its bundle's issue (R70, R119). -/
structure OpEnv where
  seed : Word64
  stepNo : Word32
  regs : Sparse Word64
  pos : Nat
  progress : Nat

/-- The first in-flight entry that holds operation o without an outcome. -/
def Core.started (u : Core) (o : Op) : Option QEntry :=
  (u.inFlight o.queue).find? (fun e => e.op == o && e.result.isNone)

/-- Whether an entry in flight before that of operation o has no outcome yet. The matrix, vector and sync engines complete in
issue order (Table 3-2), so that o waits for it (R63); a DMA operation waits for none. -/
def Core.behind (u : Core) (o : Op) : Bool :=
  o.queue != .dma && (u.started o).isSome &&
    (match (u.inFlight o.queue).find? (fun e => e.result.isNone) with | some e => e.op != o | none => false)

/-- The in-flight entry that a command of operation o works for: the first that holds o without an outcome, once its turn
has come. -/
def Core.entryOf (u : Core) (o : Op) : Option QEntry := if u.behind o then none else u.started o

/-- The environment of operation o on core c: that of its in-flight entry, else the context's present one. -/
def State.opEnv (s : State) (c : Nat) (o : Op) : OpEnv :=
  match (s.core c).entryOf o with
  | some e => ⟨e.seed, e.stepNo, e.regs, e.pos, e.progress⟩
  | none =>
    let x := s.ctx ((s.ctxOfCore c).getD 16)
    ⟨x.seed, x.stepNo, (s.core c).sregs, 0, 0⟩

/-- Replaces the first element of a list that passes a test. -/
def replaceFirst {α : Type} (p : α → Bool) (f : α → α) : List α → List α
  | [] => []
  | a :: r => if p a then f a :: r else a :: replaceFirst p f r

/-- Removes the first element of a list that passes a test. -/
def removeFirst {α : Type} (p : α → Bool) : List α → List α
  | [] => []
  | a :: r => if p a then r else a :: removeFirst p r

/-- Records the outcome of operation o in its in-flight entry. -/
def State.recordOutcome (s : State) (c : Nat) (o : Op) (r : Outc) : State :=
  s.modCore c (fun u => u.setInFlight o.queue
    (replaceFirst (fun e => e.op == o && e.result.isNone) (fun e => { e with result := some r }) (u.inFlight o.queue)))

/-- Takes the entry of operation o out of its in-flight place. -/
def State.dropEntry (s : State) (c : Nat) (o : Op) : State :=
  s.modCore c (fun u => u.setInFlight o.queue (removeFirst (fun e => e.op == o && e.result.isNone) (u.inFlight o.queue)))

/-- A resumably faulted operation goes back to the head of its queue with its progress, held there until the context
resumes (R258, Table 10-6). -/
def State.holdEntry (s : State) (c : Nat) (o : Op) (progress : Nat) (cause : BitVec 16) : State :=
  s.modCore c (fun u => match u.entryOf o with
    | none => u
    | some e =>
      (u.setInFlight o.queue (removeFirst (fun e => e.op == o && e.result.isNone) (u.inFlight o.queue))).setQueue o.queue
        ({ e with progress := progress, result := some (.faulted cause) } :: u.queue o.queue))

/-! ### Core faults (R65, R77) -/

/-- A core fault: the core issues nothing more, its context stops as a contained error, the record names the core, the
cause and the bundle count. -/
def State.coreFault (s : State) (c : Nat) (cause : BitVec 16) (status : Status) (detail : List Byte) : State :=
  let u := s.core c
  (s.modCore c (fun v => { v with scalar := if v.scalar = .ended then .ended else .stopped })).contained (s.ctxOfCore c)
    { cls := 2, cause := cause, block := 0x01, inst := c, progress := some u.bundleCount.toNat, status := status,
      detail := detail }

/-- A refusal under R65: queue code, position, reason. -/
def State.opRefused (s : State) (c q pos : Nat) (st : Status) : State :=
  s.coreFault c 0x2001#16 st (leBytes 2 c ++ leBytes 1 q ++ leBytes 8 pos)

/-- The command of an operation: refused by the engine's checks (R8, R65), or carried out with an outcome. One that stands
behind another in its engine waits (R63): the command changes nothing. -/
def State.runOp (s : State) (c : Nat) (o : Op) (check : Option Status) (eff : OpEnv → State → State × Outc) : State :=
  let env := s.opEnv c o
  if (s.core c).behind o then s
  else match check with
  | some st => (s.dropEntry c o).opRefused c (queueCode o.queue) env.pos st
  | none => let r := eff env s; r.1.recordOutcome c o r.2

/-! ### Counting errors of the core's and the cluster's SRAMs (R224, R227) -/

/-- Counts the marked words that a read of the ranges found in an SRAM: corrected and uncorrectable. -/
def eccCounted (w : Word64) (hit : List (Nat × WordErr)) : Word64 :=
  bumpFld (bumpFld w 31 0 (hit.filter (·.2 = .single)).length) 63 32 (hit.filter (·.2 = .double)).length

/-- The deferred records of uncorrectable words (Table 21-3). -/
def State.logSram (s : State) (block inst kind : Nat) (hit : List (Nat × WordErr)) : State :=
  (hit.filter (·.2 = .double)).foldl (fun t e =>
    t.deferred { cls := 1, cause := 0x2012#16, block := block, inst := inst, addr := 8 * e.1, detail := leBytes 1 kind }) s

/-- Reads of the operand cache of core c settled (R224): the ranges are what an operation reads, and the words that it
writes in part. -/
def State.ocSettle (s : State) (c : Nat) (ranges : List (Nat × Nat)) : State :=
  let hit := (s.core c).oc.badIn ranges
  if hit = [] then s
  else (s.modCore c (fun u => { u with oc := u.oc.settle true ranges, sramEcc := eccCounted u.sramEcc hit })).logSram 1 c 3 hit

/-- Reads of cluster memory settled. -/
def State.cmSettle (s : State) (k : Nat) (ranges : List (Nat × Nat)) : State :=
  let hit := (s.cluster k).cm.badIn ranges
  if hit = [] then s
  else (s.modCluster k (fun u => { u with cm := u.cm.settle true ranges, sramEcc := eccCounted u.sramEcc hit })).logSram 2 k 5 hit

/-- Reads of data memory settled; an uncorrectable word is a core fault that the caller raises (Table 9-1). -/
def State.dmSettle (s : State) (c : Nat) (ranges : List (Nat × Nat)) : State :=
  let hit := (s.core c).dm.badIn ranges
  if hit = [] then s
  else s.modCore c (fun u => { u with dm := u.dm.settle false ranges, sramEcc := eccCounted u.sramEcc hit })

/-- The first uncorrectable word of data memory that a read of the ranges finds. -/
def State.dmBroken (s : State) (c : Nat) (ranges : List (Nat × Nat)) : Option Nat :=
  (((s.core c).dm.badIn ranges).find? (·.2 = .double)).map (·.1)

/-- The gathered writes of an operation into the operand cache. -/
def State.ocCommit (s : State) (c : Nat) (ws : List ByteWrite) (dirty : List Nat) : State :=
  (s.ocSettle c (partialWords ws)).modCore c (fun u => { u with oc := u.oc.commit ws dirty })

/-- The gathered writes of an operation into cluster memory. -/
def State.cmCommit (s : State) (k : Nat) (ws : List ByteWrite) (dirty : List Nat) : State :=
  (s.cmSettle k (partialWords ws)).modCluster k (fun u => { u with cm := u.cm.commit ws dirty })

/-- Writes into data memory. -/
def State.dmCommit (s : State) (c : Nat) (ws : List ByteWrite) : State :=
  (s.dmSettle c (partialWords ws)).modCore c (fun u => { u with dm := u.dm.commit ws [] })

/-- A write into data memory whose partly written word cannot be corrected is a core fault (R224, Table 9-1). -/
def State.storeDm (s : State) (c a : Nat) (bs : List Byte) : State × Outc :=
  let ws := byteWrites a bs
  match s.dmBroken c (partialWords ws) with
  | none => (s.dmCommit c ws, .done)
  | some w => ((s.dmCommit c ws).coreFault c 0x2005#16 0 (leBytes 2 c ++ leBytes 4 (8 * w)), .faulted 0x2005#16)

/-- Reads of the program buffer settled: corrected words are counted. -/
def State.progSettle (s : State) (c : Nat) (ranges : List (Nat × Nat)) : State :=
  let hit := (s.core c).prog.badIn ranges
  if hit = [] then s
  else s.modCore c (fun u => { u with prog := u.prog.settle false ranges, sramEcc := eccCounted u.sramEcc hit })

/-! ### Sizes of the local memories (R222, R153) -/

def dmSize : Nat := 65536
def ocSize : Nat := 1048576
def cmSize : Nat := 25165824

/-! ### Upsets of a core's SRAMs (R223) -/

/-- Words of one accumulator slot. -/
def slotWords : Nat := 8192

/-- A core one of whose words an upset has struck; a word of the program buffer lies in a line that the buffer holds. -/
def Core.upset (u : Core) (x : Upset) : Core :=
  match x.mem with
  | .dataMemory => if 8 * x.word < dmSize then { u with dm := u.dm.struck x.word (some x.err) } else u
  | .programBuffer => if u.fetched.contains (8 * x.word / 256) then { u with prog := u.prog.struck x.word (some x.err) } else u
  | .operandCache => if 8 * x.word < ocSize then { u with oc := u.oc.struck x.word (some x.err) } else u
  | .accumulator =>
    if x.word < 8 * slotWords then
      let t := x.word / slotWords
      let v := sget {} u.acc t
      { u with acc := sset {} u.acc t { v with bad := sset none v.bad (x.word % slotWords) (some x.err) } }
    else u

/-- The upsets that have struck core c since its last bundle. -/
def State.upset (s : State) (c : Nat) (l : List Upset) : State :=
  if l = [] ∨ (s.cluster (c / 16)).power = .off then s else s.modCore c (fun u => l.foldl Core.upset u)

/-! ### Banks of cluster memory (R28) -/

/-- The 21 requesters of a bank: 16 cores, router unit, collective engine, two bulk DMA engines, mesh port. -/
def bankRequesters : Nat := 21

/-- Whom a bank serves next: the first requester after the one served last, round and round, that presents an access. -/
def bankNext (last : Nat) (waiting : Nat → Bool) : Option Nat :=
  ((List.range bankRequesters).map (fun i => (last + 1 + i) % bankRequesters)).find? waiting

/-- Banks that hold n bytes from a, by the device's interleave, which the spec does not give (log entry 101). -/
def banksOf (a n : Nat) : List Nat :=
  dedupNat ((List.range n).map (fun i => (Config.cmBank (a + i)).val))

/-- Bank b serves requester r, who alone presents an access. -/
def bankServes (r : Nat) (m : Sparse Nat) (b : Nat) : Sparse Nat :=
  match bankNext (sget 20 m b) (· == r) with
  | some q => sset 20 m b q
  | none => m

/-- One access of requester r at each bank of [a, a + n). -/
def State.bankTurn (s : State) (k r a n : Nat) : State :=
  s.modCluster k (fun u => { u with banks := (banksOf a n).foldl (bankServes r) u.banks })

/-- Bytes of a context's Pocket in each of its clusters (R153). -/
def Ctx.pocketBytes (x : Ctx) : Nat := (x.pocketKib + 63) / 64 * 65536

/-- Bytes of cluster memory of cluster k that are addressable: the Pocket lies at the top (R153). -/
def State.cmLimit (s : State) (k : Nat) : Nat :=
  cmSize - (match s.ctxOfCluster k with | some x => (s.ctx x).pocketBytes | none => 0)

/-- Whether [a, a + n) lies in the local memory that a location names. -/
def State.inLocal (s : State) (c : Nat) (l : Loc) (n : Nat) : Bool :=
  match l.kind with
  | .oc => decide (l.addr + n ≤ ocSize)
  | .dm => decide (l.addr + n ≤ dmSize)
  | .cm => decide (l.addr + n ≤ s.cmLimit (clusterOf c))
  | _ => false

/-! ### Logical numbers (R67) -/

/-- Logical core of a physical core of context x. -/
def Ctx.logicalCore (v : Ctx) (c : Nat) : Nat := 16 * v.clusters.findIdx (· == clusterOf c) + c % 16

/-- Physical core of a logical core. -/
def Ctx.physicalCore (v : Ctx) (l : Nat) : Option Nat := (v.clusters[l / 16]?).map (fun k => 16 * k + l % 16)

end Sys2Proof.Machine
end

