-- ==== Sys2Proof/Machine/Copy.lean ====
section
/-! DEFINITION. Moving bytes between memories with their poison (R247, R493): places, reads and writes of places, and the
pieces of a strided or gathered transfer (R259, R523). -/

namespace Sys2Proof.Machine

/-! ### Places -/

/-- A physical place: a local memory of a core or its cluster, LPDDR, or the far window. -/
inductive Place | oc (a : Nat) | cm (a : Nat) | dm (a : Nat) | pa (a : Nat) | far (a : Nat)
  deriving DecidableEq, Repr

def Place.isFar : Place → Bool | .far _ => true | _ => false

/-- The place n bytes further. -/
def Place.plus (p : Place) (n : Nat) : Place :=
  match p with
  | .oc a => .oc (a + n) | .cm a => .cm (a + n) | .dm a => .dm (a + n) | .pa a => .pa (a + n) | .far a => .far (a + n)

/-- A byte on its way, with its poison. -/
abbrev PByte := Byte × Bool

/-- The place of a physical address. -/
def placeOfPa (pa : Nat) : Place := if paRegion pa = .far then .far pa else .pa pa

/-- The places of n bytes at a location, for an agent of context x: page by page for a VA, or the first fault (kind, VA). -/
def State.places (s : State) (x : Nat) (agent : Agent) (access : Access) (l : Loc) (n : Nat) :
    Except (Nat × Nat) (List (Place × Nat)) :=
  match l.kind with
  | .oc => .ok [(.oc l.addr, n)]
  | .cm => .ok [(.cm l.addr, n)]
  | .dm => .ok [(.dm l.addr, n)]
  | _ => match s.translateRange x agent access l.addr n with
    | .error e => .error e
    | .ok ps => .ok (ps.map (fun p => (placeOfPa p.1, p.2)))

/-- Reads n bytes of a place for core c, each with its poison; far places give nothing here. -/
def State.readPlace (s : State) (c : Nat) (p : Place) (n : Nat) : State × List PByte :=
  match p with
  | .oc a =>
    let t := s.ocSettle c [(a, n)]
    let m := (t.core c).oc
    (t, (List.range n).map (fun i => (m.byte (a + i), m.linePoison ((a + i) / 64))))
  | .cm a =>
    let k := clusterOf c
    let t := s.cmSettle k [(a, n)]
    let m := (t.cluster k).cm
    (t, (List.range n).map (fun i => (m.byte (a + i), m.linePoison ((a + i) / 64))))
  | .dm a =>
    let t := s.dmSettle c [(a, n)]
    (t, ((t.core c).dm.read a n).map (fun b => (b, false)))
  | .pa a =>
    (linePieces a n).foldl (fun acc q =>
      let r := acc.1.fetchLine q.1 []
      (r.1, acc.2 ++ ((r.2.1.drop q.2.1).take q.2.2).map (fun b => (b, r.2.2)))) (s, [])
  | .far _ => (s, [])

/-- Lines of a local memory that take a poisoned byte. -/
def dirtyLines (a : Nat) (bs : List PByte) : List Nat :=
  dedupNat (bs.zipIdx.filterMap (fun e => if e.1.2 then some ((a + e.2) / 64) else none))

/-- Writes bytes with their poison to a place of core c. -/
def State.writePlace (s : State) (c : Nat) (p : Place) (bs : List PByte) : State :=
  let bytes := bs.map (·.1)
  match p with
  | .oc a => s.ocCommit c (byteWrites a bytes) (dirtyLines a bs)
  | .cm a => s.cmCommit (clusterOf c) (byteWrites a bytes) (dirtyLines a bs)
  | .dm a => s.dmCommit c (byteWrites a bytes)
  | .pa a =>
    let flags := ((linePieces a bs.length).foldl (fun (acc : List Bool × List PByte) q =>
      (acc.1 ++ [(acc.2.take q.2.2).any (·.2)], acc.2.drop q.2.2)) ([], bs)).1
    s.writePa a bytes (fun i => flags.getD i false)
  | .far _ => s

/-- Reads the places of a list one after the other. -/
def State.readPlaces (s : State) (c : Nat) (ps : List (Place × Nat)) : State × List PByte :=
  ps.foldl (fun acc p => let r := acc.1.readPlace c p.1 p.2; (r.1, acc.2 ++ r.2)) (s, [])

/-- Writes bytes over the places of a list one after the other. -/
def State.writePlaces (s : State) (c : Nat) (ps : List (Place × Nat)) (bs : List PByte) : State :=
  (ps.foldl (fun (acc : State × List PByte) p => (acc.1.writePlace c p.1 (acc.2.take p.2), acc.2.drop p.2)) (s, bs)).1

/-- Reads n bytes of a location. -/
def State.readLoc (s : State) (x c : Nat) (agent : Agent) (l : Loc) (n : Nat) : Except (Nat × Nat) (State × List PByte) :=
  match s.places x agent .read l n with
  | .error e => .error e
  | .ok ps => .ok (s.readPlaces c ps)

/-- Writes bytes to a location. -/
def State.writeLoc (s : State) (x c : Nat) (agent : Agent) (l : Loc) (bs : List PByte) : Except (Nat × Nat) State :=
  match s.places x agent .write l bs.length with
  | .error e => .error e
  | .ok ps => .ok (s.writePlaces c ps bs)

/-! ### Pieces of a transfer -/

/-- A span that is contiguous at both ends. -/
structure Span where
  src : Loc
  dst : Loc
  len : Nat
  deriving DecidableEq, Repr

/-- Source start of piece i (Syntax: DmaF). -/
def dmaSrc (f : DmaF) (i : Nat) : Nat :=
  if f.gather = [] then f.src.addr + i * f.srcStride else f.src.addr + f.gather.getD i 0

/-- Destination start of piece i. -/
def dmaDst (f : DmaF) (i : Nat) : Nat := f.dst.addr + i * f.dstStride

/-- Bytes of a transfer. -/
def dmaTotal (f : DmaF) : Nat := f.rows * f.rowLen

/-- The spans of bytes [p, p + n) of the transfer, in transfer order. -/
def dmaSpans (f : DmaF) (p n : Nat) : List Span :=
  if n = 0 ∨ f.rowLen = 0 then [] else
  (List.range ((p + n - 1) / f.rowLen - p / f.rowLen + 1)).map (fun k =>
    let i := p / f.rowLen + k
    let a := max p (i * f.rowLen)
    let b := min (p + n) (i * f.rowLen + f.rowLen)
    ⟨⟨f.src.kind, dmaSrc f i + (a - i * f.rowLen)⟩, ⟨f.dst.kind, dmaDst f i + (a - i * f.rowLen)⟩, b - a⟩)

/-- Two lists of places of the same total length cut at each other's borders. -/
def zipPlaces : Nat → List (Place × Nat) → List (Place × Nat) → List (Place × Place × Nat)
  | 0, _, _ => []
  | _ + 1, [], _ => []
  | _ + 1, _, [] => []
  | n + 1, a :: r, b :: q =>
    if a.2 < b.2 then (a.1, b.1, a.2) :: zipPlaces n r ((b.1.plus a.2, b.2 - a.2) :: q)
    else if b.2 < a.2 then (a.1, b.1, b.2) :: zipPlaces n ((a.1.plus b.2, a.2 - b.2) :: r) q
    else (a.1, b.1, a.2) :: zipPlaces n r q

end Sys2Proof.Machine
end

