-- ==== Sys2Proof/Machine/Dma.lean ====
section
/-! DEFINITION. DMA_COPY (R259, R523, Table 10-6): checks, chunks, faults with progress, overlapping copies, and the parts
that go to the host DMA engines (R403). -/

namespace Sys2Proof.Machine

/-- Bytes of a chunk (R259). -/
def chunkBytes : Nat := 65536

/-- Memories that a core DMA copy names at either end. -/
def dmaKind (k : MemKind) : Bool := k != .unlisted

/-- Whether a local range lies outside its memory (R523). -/
def State.localBad (s : State) (c : Nat) (l : Loc) (n : Nat) : Bool :=
  match l.kind with
  | .va => false
  | _ => !s.inLocal c l n

/-- The checks of R523. -/
def dmaCheck (s : State) (c : Nat) (f : DmaF) : Option Status :=
  firstFail [
    (!dmaKind f.src.kind || !dmaKind f.dst.kind, genRange),
    (!decide (1 ≤ f.rows ∧ 1 ≤ f.rowLen) || (f.gather != [] && f.gather.length != f.rows), genRange),
    ((List.range f.rows).any (fun i =>
      s.localBad c ⟨f.src.kind, dmaSrc f i⟩ f.rowLen || s.localBad c ⟨f.dst.kind, dmaDst f i⟩ f.rowLen), genRange)]

/-! ### One chunk -/

/-- A part of a chunk: offset in the transfer, both locations and both places. -/
structure Part where
  off : Nat
  src : Loc
  dst : Loc
  sp : Place
  dp : Place
  len : Nat

/-- What stops a chunk: a translation fault, poisoned data that data memory cannot carry, an uncorrectable word of data
memory. -/
inductive ChunkStop | fault (kind : Nat) (access : Access) (va : Nat) | poison | dmem (word : Nat)

/-- The parts of one span. -/
def State.spanParts (s : State) (x : Nat) (agent : Agent) (off : Nat) (z : Span) : Except ChunkStop (List Part) :=
  match s.places x agent .read z.src z.len with
  | .error e => .error (.fault e.1 .read e.2)
  | .ok a => match s.places x agent .write z.dst z.len with
    | .error e => .error (.fault e.1 .write e.2)
    | .ok b =>
      .ok (((zipPlaces (a.length + b.length) a b).foldl (fun (acc : List Part × Nat) p =>
        (acc.1 ++ [⟨off + acc.2, ⟨z.src.kind, z.src.addr + acc.2⟩, ⟨z.dst.kind, z.dst.addr + acc.2⟩, p.1, p.2.1, p.2.2⟩],
         acc.2 + p.2.2)) ([], 0)).1)

/-- The parts of bytes [p, p + n) of a transfer: every span is translated before a byte moves. -/
def State.chunkParts (s : State) (x : Nat) (agent : Agent) (f : DmaF) (p n : Nat) : Except ChunkStop (List Part) :=
  ((dmaSpans f p n).foldl (fun (acc : Except ChunkStop (List Part) × Nat) z =>
    (match acc.1 with
      | .error e => .error e
      | .ok l => match s.spanParts x agent acc.2 z with
        | .error e => .error e
        | .ok q => .ok (l ++ q), acc.2 + z.len)) (.ok [], p)).1

/-- The turns that a part takes at the banks of cluster memory (R28). -/
def State.partBanks (s : State) (c : Nat) (q : Part) : State :=
  let s := match q.sp with | .cm a => s.bankTurn (clusterOf c) (c % 16) a q.len | _ => s
  match q.dp with | .cm a => s.bankTurn (clusterOf c) (c % 16) a q.len | _ => s

/-- Moves one near part, or says what stops it. -/
def State.movePart (s : State) (c : Nat) (q : Part) : Except ChunkStop State :=
  match (match q.sp with | .dm a => s.dmBroken c [(a, q.len)] | _ => none) with
  | some w => .error (.dmem w)
  | none =>
    let r := s.readPlace c q.sp q.len
    match q.dp with
    | .dm a => if r.2.any (·.2) then .error .poison
      else match s.dmBroken c (partialWords (byteWrites a (r.2.map (·.1)))) with
        | some w => .error (.dmem w)
        | none => .ok ((r.1.writePlace c q.dp r.2).partBanks c q)
    | _ => .ok ((r.1.writePlace c q.dp r.2).partBanks c q)

/-- Moves the near parts of a chunk in transfer order. -/
def State.moveParts (s : State) (c : Nat) (qs : List Part) : Except ChunkStop State :=
  qs.foldl (fun acc q => match acc with
    | .error e => .error e
    | .ok t => t.movePart c q) (.ok s)

/-- The host DMA's part of a chunk (R403). Between two far pages the bytes are read first. -/
def hostChunkOf (c pos x p : Nat) (q : Part) : HostChunk :=
  match q.sp, q.dp with
  | .far a, .far _ => ⟨c, pos, x, false, ⟨.unlisted, 0⟩, a, q.src.addr, some q.dst.addr, q.len, (farRegionOf a).1, 0, 0, false, 0, p, []⟩
  | .far a, _ => ⟨c, pos, x, false, q.dst, a, q.src.addr, none, q.len, (farRegionOf a).1, 0, 0, false, 0, p, []⟩
  | _, .far b => ⟨c, pos, x, true, q.src, b, q.dst.addr, none, q.len, (farRegionOf b).1, 0, 0, false, 0, p, []⟩
  | _, _ => ⟨c, pos, x, false, q.dst, 0, 0, none, q.len, 0, 0, 0, false, 0, p, []⟩

/-! ### Overlapping copies (R259) -/

/-- Addresses that the destination of a copy spans. -/
def dstHull (f : DmaF) : Nat × Nat := (f.dst.addr, f.dst.addr + (f.rows - 1) * f.dstStride + f.rowLen)

/-- Whether byte t of the transfer has its source inside the destination range. -/
def srcInDst (f : DmaF) (t : Nat) : Bool :=
  let a := dmaSrc f (t / f.rowLen) + t % f.rowLen
  decide (f.src.kind = f.dst.kind ∧ (dstHull f).1 ≤ a ∧ a < (dstHull f).2)

/-- Whether a copy overlaps itself. -/
def overlaps (f : DmaF) : Bool := (List.range (dmaTotal f)).any (srcInDst f)

/-- Destination address of byte t. -/
def dstAt (f : DmaF) (t : Nat) : Nat := dmaDst f (t / f.rowLen) + t % f.rowLen

/-- The numbers of the transfer's bytes below n, grouped by aligned 4-byte word of the destination, in the order in which
a source inside the destination has been written before it is read. -/
def overlapWords (f : DmaF) (n : Nat) : List (List Nat) :=
  let ws := dedupNat ((List.range n).map (fun t => dstAt f t / 4))
  let ws := if f.src.addr < f.dst.addr then ws else ws.reverse
  ws.map (fun w => (List.range n).filter (fun t => dstAt f t / 4 = w))

/-- The first n bytes of an overlapping near copy: a word whose source lies inside the destination takes the source as it
was before the copy or the value that the copy has written there, a free choice (R259, log entry 2). -/
def State.overlapCopy (s : State) (x c : Nat) (agent : Agent) (f : DmaF) (n : Nat) : State :=
  let srcLoc (t : Nat) : Loc := ⟨f.src.kind, dmaSrc f (t / f.rowLen) + t % f.rowLen⟩
  let byteAt (u : State) (t : Nat) : PByte :=
    match u.readLoc x c agent (srcLoc t) 1 with
    | .ok r => r.2.getD 0 (0, false)
    | .error _ => (0, false)
  let before := (List.range n).map (byteAt s)
  let t := (overlapWords f n).zipIdx.foldl (fun (u : State) w =>
    let written := w.1.all (srcInDst f) && Config.freeNat (s.freeCtr + w.2) % 2 == 1
    let vals := w.1.map (fun b => (b, if written then byteAt u b else before.getD b (0, false)))
    vals.foldl (fun (v : State) p => match v.writeLoc x c agent ⟨f.dst.kind, dstAt f p.1⟩ [p.2] with
      | .ok z => z
      | .error _ => v) u) s
  { t with freeCtr := s.freeCtr + (overlapWords f n).length }

/-! ### The copy -/

/-- Whether a copy must suspend at its chunk boundary: its context is pre-empted or no longer in place (Table 10-9). -/
def State.mustSuspend (s : State) (x : Nat) : Bool :=
  (s.ctx x).preempt.isSome || (s.ctx x).state == .suspended || (s.ctx x).state == .evicted

/-- An operation in flight goes back to the head of its queue, to go on from its progress (Table 10-9). -/
def State.suspendEntry (s : State) (c : Nat) (o : Op) (progress : Nat) : State :=
  s.modCore c (fun u => match u.entryOf o with
    | none => u
    | some e =>
      (u.setInFlight o.queue (removeFirst (fun e => e.op == o && e.result.isNone) (u.inFlight o.queue))).setQueue o.queue
        ({ e with progress := progress } :: u.queue o.queue))

/-- The progress of an operation in flight. -/
def State.noteProgress (s : State) (c : Nat) (o : Op) (progress : Nat) : State :=
  s.modCore c (fun u => u.setInFlight o.queue
    (replaceFirst (fun e => e.op == o && e.result.isNone) (fun e => { e with progress := progress }) (u.inFlight o.queue)))

/-- A translation fault of a core's DMA queue: resumable, the operation is held at the head of its queue; otherwise it
ends faulted (R258, R259, Table 10-6). -/
def State.dmaFault (s : State) (x c : Nat) (o : Op) (f : TFault) (progress : Nat) : State :=
  let b := agentBlock f.agent f.unit
  let t := s.tfault x f b.1 b.2 (some progress)
  if f.resumable then t.holdEntry c o progress 0x2006#16 else t.recordOutcome c o (.faulted 0x2006#16)

/-- What stopped a chunk ends the copy at the chunk's start (R259, R493, Table 9-1); `unit` numbers the agent's unit: the core,
the cluster of a bulk DMA engine, the host DMA engine (R263). -/
def State.chunkStop (s : State) (x c : Nat) (agent : Agent) (unit : Nat) (o : Op) (e : ChunkStop) (progress : Nat) : State :=
  match e with
  | .fault k a va => s.dmaFault x c o ⟨agent, unit, k, a, va⟩ progress
  | .poison =>
    let l : LogArgs :=
      { cls := 2, cause := 0x2007#16, block := (agentBlock agent unit).1, inst := (agentBlock agent unit).2, progress := some progress,
        detail := leBytes 1 (agentCode agent) }
    (s.contained (some x) l).recordOutcome c o (.faulted 0x2007#16)
  | .dmem w =>
    ((s.dmSettle c [(8 * w, 8)]).coreFault c 0x2005#16 0 (leBytes 2 c ++ leBytes 4 (8 * w))).recordOutcome c o
      (.faulted 0x2005#16)

/-- Carries out a copy of operation o from its progress, chunk by chunk; `n` counts the chunks left. A chunk with far
pages goes to the host DMA engines, and the copy goes on when they are done with it. -/
def State.copyFrom (x c : Nat) (o : Op) (f : DmaF) (pos : Nat) : Nat → Nat → State → State
  | 0, _, s => s.recordOutcome c o .done
  | n + 1, p, s =>
    if s.mustSuspend x then s.suspendEntry c o p
    else
      let len := min chunkBytes (dmaTotal f - p)
      match s.chunkParts x .coreDma f p len with
      | .error e => s.chunkStop x c .coreDma c o e p
      | .ok qs =>
        let near := qs.filter (fun q => !q.sp.isFar && !q.dp.isFar)
        let far := qs.filter (fun q => q.sp.isFar || q.dp.isFar)
        match s.moveParts c near with
        | .error e => s.chunkStop x c .coreDma c o e p
        | .ok t =>
          if far = [] then State.copyFrom x c o f pos n (p + len) t
          else
            let t := { t with hp := { t.hp with chunks := t.hp.chunks ++ far.map (hostChunkOf c pos x p) } }
            t.noteProgress c o p

/-- Chunks of a transfer from a progress on. -/
def chunksLeft (f : DmaF) (p : Nat) : Nat := (dmaTotal f - p + chunkBytes - 1) / chunkBytes

/-- Bytes before the first chunk that does not translate to near pages. -/
def State.nearPrefix (s : State) (x : Nat) (f : DmaF) : Nat :=
  let ok (k : Nat) : Bool := match s.chunkParts x .coreDma f (k * chunkBytes) (min chunkBytes (dmaTotal f - k * chunkBytes)) with
    | .ok qs => qs.all (fun q => !q.sp.isFar && !q.dp.isFar)
    | .error _ => false
  min (dmaTotal f) (((List.range (chunksLeft f 0)).takeWhile ok).length * chunkBytes)

/-- DMA_COPY: an overlapping copy moves its near chunks as R259 leaves them open. -/
def State.dmaCopy (s : State) (x c : Nat) (f : DmaF) (e : OpEnv) : State :=
  let o : Op := .dma (.copy f)
  if overlaps f && e.progress == 0 && !(f.dst.kind == .dm && (s.dmBroken c [(0, dmSize)]).isSome) then
    let n := s.nearPrefix x f
    State.copyFrom x c o f e.pos (chunksLeft f n) n (s.overlapCopy x c .coreDma f n)
  else State.copyFrom x c o f e.pos (chunksLeft f e.progress) e.progress s

/-- DMA_COPY (R259). A core that no context holds executes nothing. -/
def execDmaCopy (c : CoreId) (f : DmaF) (s : State) : Host.Outcome State Fault Refusal :=
  let o : Op := .dma (.copy f)
  let e := s.opEnv c o
  .next (match dmaCheck s c f with
    | some st => (s.dropEntry c o).opRefused c (queueCode .dma) e.pos st
    | none => match s.ctxOfCore c with
      | none => s
      | some x => s.dmaCopy x c f e)

end Sys2Proof.Machine
end

