-- ==== Sys2Proof/Machine/Crc.lean ====
section
/-! DEFINITION. The cyclic redundancy checks of cells (R349) and frames (R321), reflected, with initial value and final XOR
of all ones. -/

namespace Sys2Proof.Machine

/-- Eight shifts of a reflected CRC register. -/
def crcShift (poly : Word32) : Nat → Word32 → Word32
  | 0, c => c
  | n + 1, c => crcShift poly n (if c &&& 1 = 1 then (c >>> 1) ^^^ poly else c >>> 1)

/-- The CRC register after bytes. The case split on its value changes nothing: it makes an evaluation settle the register
byte by byte. -/
def crcRun (poly : Word32) : List Byte → Word32 → Word32
  | [], c => c
  | b :: r, c => match (crcShift poly 8 (c ^^^ b.zeroExtend 32)).toNat with
    | 0 => crcRun poly r 0
    | k + 1 => crcRun poly r (BitVec.ofNat 32 (k + 1))

/-- A CRC of bytes. -/
def crcReflected (poly : Word32) (bs : List Byte) : Word32 := crcRun poly bs 0xFFFFFFFF#32 ^^^ 0xFFFFFFFF#32

/-- CRC-32C (Castagnoli). -/
def crc32c (bs : List Byte) : Word32 := crcReflected 0x82F63B78#32 bs

/-- IEEE 802.3 CRC-32. -/
def crc32 (bs : List Byte) : Word32 := crcReflected 0xEDB88320#32 bs

end Sys2Proof.Machine
end

