-- ==== Sys2Proof/Machine/Numerics.lean ====
section
/-! DEFINITION. Number formats, exact values and conversions (spec/02_number_formats_and_numerics.md). A value is exact
until it is rounded once to a format. -/

namespace Sys2Proof.Machine

/-! ### Exact values -/

/-- A value before rounding: a NaN or an infinity with its sign, or a sign and a magnitude (so that both zeros exist,
R32). -/
inductive FVal | nan (neg : Bool) | inf (neg : Bool) | fin (neg : Bool) (mag : Rat)
  deriving DecidableEq, Repr

/-- 2 to the power e. -/
def pow2 (e : Int) : Rat := if 0 ≤ e then (2 : Rat) ^ e.toNat else 1 / (2 : Rat) ^ (-e).toNat

/-- floor(log2 q) of a positive q. -/
def floorLog2 (q : Rat) : Int :=
  let k : Int := (q.num.natAbs.log2 : Int) - (q.den.log2 : Int)
  if pow2 k ≤ q then k else k - 1

/-- ceil(log2 q) of a positive q. -/
def ceilLog2 (q : Rat) : Int :=
  let k := floorLog2 q
  if pow2 k = q then k else k + 1

/-- floor of a non-negative q. -/
def floorNat (q : Rat) : Nat := q.num.toNat / q.den

def FVal.isNan : FVal → Bool | .nan _ => true | _ => false
def FVal.isInf : FVal → Bool | .inf _ => true | _ => false
def FVal.isFin : FVal → Bool | .fin _ _ => true | _ => false
def FVal.isZero : FVal → Bool | .fin _ q => q == 0 | _ => false
def FVal.neg : FVal → Bool | .nan n => n | .inf n => n | .fin n _ => n
/-- The magnitude of a finite value. -/
def FVal.mag : FVal → Rat | .fin _ q => q | _ => 0
/-- The signed rational of a finite value. -/
def FVal.rat : FVal → Rat | .fin n q => if n then -q else q | _ => 0

/-- +0. -/
def FVal.zero : FVal := .fin false 0

/-- The value of a rational; a zero takes the given sign. -/
def FVal.ofRat (zeroNeg : Bool) (q : Rat) : FVal :=
  if q = 0 then .fin zeroNeg 0 else if q < 0 then .fin true (-q) else .fin false q

def FVal.negate : FVal → FVal
  | .nan n => .nan (!n) | .inf n => .inf (!n) | .fin n q => .fin (!n) q

def FVal.abs : FVal → FVal
  | .nan _ => .nan false | .inf _ => .inf false | .fin _ q => .fin false q

/-- IEEE 754 addition before rounding; an exact zero sum of opposite signs is +0. -/
def FVal.add : FVal → FVal → FVal
  | .nan n, _ => .nan n
  | _, .nan n => .nan n
  | .inf a, .inf b => if a = b then .inf a else .nan false
  | .inf a, _ => .inf a
  | _, .inf b => .inf b
  | .fin a p, .fin b q =>
    if p = 0 ∧ q = 0 then .fin (a && b) 0
    else FVal.ofRat false ((if a then -p else p) + (if b then -q else q))

def FVal.sub (x y : FVal) : FVal := match y with | .nan n => FVal.add x (.nan n) | _ => FVal.add x y.negate

def FVal.mul : FVal → FVal → FVal
  | .nan n, _ => .nan n
  | _, .nan n => .nan n
  | .inf a, .inf b => .inf (a != b)
  | .inf a, .fin b q => if q = 0 then .nan false else .inf (a != b)
  | .fin a p, .inf b => if p = 0 then .nan false else .inf (a != b)
  | .fin a p, .fin b q => .fin (a != b) (p * q)

def FVal.div : FVal → FVal → FVal
  | .nan n, _ => .nan n
  | _, .nan n => .nan n
  | .inf _, .inf _ => .nan false
  | .inf a, .fin b _ => .inf (a != b)
  | .fin a _, .inf b => .fin (a != b) 0
  | .fin a p, .fin b q =>
    if q = 0 then (if p = 0 then .nan false else .inf (a != b)) else .fin (a != b) (p / q)

/-- Integer square root, one bit of the root at a time from bit `i - 1` down. -/
def isqrtFrom (n : Nat) : Nat → Nat → Nat
  | 0, r => r
  | i + 1, r => let c := r + 2 ^ i; isqrtFrom n i (if c * c ≤ n then c else r)

/-- The square root of q to 512 fractional bits, with half a unit of the last place added when it is not exact: it
rounds to every format of Table 2-1 as the exact root does. -/
def sqrtRat (q : Rat) : Rat :=
  let n := q.num.toNat * 2 ^ 1024 / q.den
  let r := isqrtFrom n (n.log2 / 2 + 1) 0
  (if r * r = n ∧ (q.num.toNat * 2 ^ 1024) % q.den = 0 then (r : Rat) else (r : Rat) + 1 / 2) / (2 : Rat) ^ 512

def FVal.sqrt : FVal → FVal
  | .nan n => .nan n
  | .inf n => if n then .nan false else .inf false
  | .fin n q => if q = 0 then .fin n 0 else if n then .nan false else .fin false (sqrtRat q)

/-- x < y of two values that are not NaN; both zeros are equal. -/
def FVal.lt : FVal → FVal → Bool
  | .nan _, _ => false
  | _, .nan _ => false
  | .inf a, .inf b => a && !b
  | .inf a, .fin _ _ => a
  | .fin _ _, .inf b => !b
  | x, y => x.rat < y.rat

/-- x < y with -0 ordered below +0. -/
def FVal.ltSigned (x y : FVal) : Bool :=
  FVal.lt x y || (x.isZero && y.isZero && x.neg && !y.neg)

/-- Equality as a compare sees it: false with a NaN, true of the two zeros. -/
def FVal.eqv : FVal → FVal → Bool
  | .nan _, _ => false
  | _, .nan _ => false
  | .inf a, .inf b => a == b
  | .fin a p, .fin b q => if p = 0 then q == 0 else a == b && p == q
  | _, _ => false

/-! ### Element layouts (Tables 2-1, 2-2) -/

/-- How a floating-point element reports a value it has no code for (Table 2-2). -/
inductive Specials | ieee | nanOnly | none
  deriving DecidableEq, Repr

/-- A row of Table 2-2. -/
structure FloatFmt where
  ebits : Nat
  mbits : Nat
  bias : Nat
  specials : Specials
  deriving DecidableEq, Repr

def fp32 : FloatFmt := ⟨8, 23, 127, .ieee⟩
def bf16 : FloatFmt := ⟨8, 7, 127, .ieee⟩
def fp16 : FloatFmt := ⟨5, 10, 15, .ieee⟩
def e4m3 : FloatFmt := ⟨4, 3, 7, .nanOnly⟩
def e5m2 : FloatFmt := ⟨5, 2, 15, .ieee⟩
def e3m2 : FloatFmt := ⟨3, 2, 3, .none⟩
def e2m3 : FloatFmt := ⟨2, 3, 1, .none⟩
def e2m1 : FloatFmt := ⟨2, 1, 1, .none⟩

/-- The code of the largest finite magnitude (Table 2-2). -/
def FloatFmt.maxCode (f : FloatFmt) : Nat :=
  match f.specials with
  | .ieee => (2 ^ f.ebits - 1) * 2 ^ f.mbits - 1
  | .nanOnly => 2 ^ (f.ebits + f.mbits) - 2
  | .none => 2 ^ (f.ebits + f.mbits) - 1

/-- The value of a magnitude code (R31). -/
def FloatFmt.magOf (f : FloatFmt) (code : Nat) : Rat :=
  let e := code / 2 ^ f.mbits
  let m := code % 2 ^ f.mbits
  if e = 0 then (m : Rat) * pow2 (1 - f.bias - f.mbits)
  else ((2 ^ f.mbits + m : Nat) : Rat) * pow2 ((e : Int) - f.bias - f.mbits)

def FloatFmt.max (f : FloatFmt) : Rat := f.magOf f.maxCode

/-- Unit in the last place at the largest binade. -/
def FloatFmt.topUlp (f : FloatFmt) : Rat := pow2 (floorLog2 f.max - f.mbits)

/-- The value of the low bits of `b` as an element of format `f` (R31, R32). -/
def FloatFmt.decode (f : FloatFmt) (b : Nat) : FVal :=
  let w := f.ebits + f.mbits
  let neg := (b / 2 ^ w) % 2 = 1
  let code := b % 2 ^ w
  if code ≤ f.maxCode then .fin neg (f.magOf code)
  else if f.specials = .ieee ∧ code = f.maxCode + 1 then .inf neg
  else .nan neg

/-- The conversion flags of R45. -/
structure CFlags where
  sat : Bool := false
  invalid : Bool := false
  inf : Bool := false
  deriving DecidableEq, Repr

def CFlags.or (a b : CFlags) : CFlags := ⟨a.sat || b.sat, a.invalid || b.invalid, a.inf || b.inf⟩

/-- t rounded to a natural number by the mode (R42, R47); `w` is the random word of the element. A mode that no
operation is accepted with rounds as nearest-even. -/
def roundNat (mode : Round) (w : Word32) (t : Rat) : Nat :=
  let n := floorNat t
  let r := t - n
  let up := match mode with
    | .towardZero => false
    | .stochastic => 2 ^ 32 ≤ floorNat (r * 2 ^ 32) + w.toNat
    | _ => 1 / 2 < r || (r == 1 / 2 && n % 2 == 1)
  if up then n + 1 else n

/-- The magnitude code of q, which is not over range, after one rounding (R44, R47). -/
def FloatFmt.roundCode (f : FloatFmt) (mode : Round) (w : Word32) (q : Rat) : Nat :=
  if q = 0 then 0
  else
    let emin : Int := 1 - f.bias
    let e := if floorLog2 q < emin then emin else floorLog2 q
    (e - emin).toNat * 2 ^ f.mbits + roundNat mode w (q / pow2 (e - f.mbits))

/-- Bits of sign and magnitude code. -/
def FloatFmt.bits (f : FloatFmt) (neg : Bool) (code : Nat) : Nat :=
  (if neg then 2 ^ (f.ebits + f.mbits) else 0) + code

/-- The canonical NaN (R32): sign 0 but for E4M3, which carries the sign of a NaN it converts; a NaN that stands for an
infinity or a number over range has sign 0 there too. -/
def FloatFmt.nanBits (f : FloatFmt) (neg : Bool) : Nat :=
  match f.specials with
  | .nanOnly => f.bits neg (f.maxCode + 1)
  | _ => (2 ^ f.ebits - 1) * 2 ^ f.mbits + 2 ^ (f.mbits - 1)

/-- Conversion of a value to a floating-point element (Table 2-3). An element without infinity and NaN takes those of a
whole group (R39): here it gives its largest magnitude. -/
def FloatFmt.encode (f : FloatFmt) (mode : Round) (sat : Bool) (w : Word32) (x : FVal) : Nat × CFlags :=
  match x with
  | .nan n => (f.nanBits n, { invalid := true })
  | .inf n =>
    (match f.specials, sat with
      | .ieee, false => f.bits n (f.maxCode + 1)
      | .nanOnly, false => f.nanBits false
      | _, _ => f.bits n f.maxCode,
     { inf := if f.specials = .ieee ∧ sat = false then false else true })
  | .fin n q =>
    if q ≤ f.max then (f.bits n (f.roundCode mode w q), {})
    else
      (match f.specials, sat with
        | .ieee, false =>
          f.bits n (if (mode ≠ .towardZero ∧ mode ≠ .stochastic) ∧ f.max + f.topUlp / 2 ≤ q then f.maxCode + 1 else f.maxCode)
        | .nanOnly, false => f.nanBits false
        | _, _ => f.bits n f.maxCode,
       { sat := true })

/-- FP32 bits of a value, rounded once to nearest-even without saturation. -/
def toFp32 (x : FVal) : Word32 := BitVec.ofNat 32 (fp32.encode .nearestEven false 0 x).1

/-- The value of FP32 bits. -/
def ofFp32 (b : Word32) : FVal := fp32.decode b.toNat

/-- One FP32 operation: exact result rounded to nearest-even. -/
def f32add (a b : Word32) : Word32 := toFp32 ((ofFp32 a).add (ofFp32 b))
def f32sub (a b : Word32) : Word32 := toFp32 ((ofFp32 a).sub (ofFp32 b))
def f32mul (a b : Word32) : Word32 := toFp32 ((ofFp32 a).mul (ofFp32 b))
def f32div (a b : Word32) : Word32 := toFp32 ((ofFp32 a).div (ofFp32 b))
def f32sqrt (a : Word32) : Word32 := toFp32 (ofFp32 a).sqrt

/-- FP32 fused multiply-add. -/
def f32fma (a b c : Word32) : Word32 := toFp32 (((ofFp32 a).mul (ofFp32 b)).add (ofFp32 c))

def f32abs (a : Word32) : Word32 := a &&& 0x7FFFFFFF#32
def f32neg (a : Word32) : Word32 := a ^^^ 0x80000000#32
def f32finite (a : Word32) : Bool := (ofFp32 a).isFin

/-- FP32 of a natural number, rounded to nearest-even. -/
def f32ofNat (n : Nat) : Word32 := toFp32 (.fin false n)

/-! ### Integer elements -/

/-- Value of the low `bits` bits of `b` in two's complement or unsigned. -/
def intDecode (signed : Bool) (bits b : Nat) : Int :=
  let v := b % 2 ^ bits
  if signed ∧ 2 ^ (bits - 1) ≤ v then (v : Int) - 2 ^ bits else v

/-- Low `bits` bits of an integer. -/
def intBits (bits : Nat) (v : Int) : Nat := (v % (2 ^ bits : Nat)).toNat

/-- Conversion of a value to an integer type (R44, Table 2-3): rounded by the mode, then range-checked. -/
def intEncode (signed : Bool) (bits : Nat) (mode : Round) (sat : Bool) (w : Word32) (x : FVal) : Nat × CFlags :=
  let lo : Int := if signed then -(2 ^ (bits - 1) : Nat) else 0
  let hi : Int := if signed then (2 ^ (bits - 1) : Nat) - 1 else (2 ^ bits : Nat) - 1
  match x with
  | .nan _ => (0, { invalid := true })
  | .inf n => (intBits bits (if n then lo else hi), { inf := true })
  | .fin n q =>
    let m : Int := roundNat mode w q
    let v : Int := if n then -m else m
    if lo ≤ v ∧ v ≤ hi then (intBits bits v, {})
    else (intBits bits (if sat then (if v < lo then lo else hi) else v), { sat := true })

/-! ### Format codes (R30, Table 2-1) -/

/-- Where a tensor's scales lie (Table 2-1). -/
inductive ScaleKind | none | tensor | mx | ms | lf
  deriving DecidableEq, Repr

/-- An element: a floating-point layout, an integer, MXINT8 (value i / 64) or a code of a codebook. -/
inductive Elem | flt (f : FloatFmt) | int (signed : Bool) | mxint8 | code
  deriving DecidableEq, Repr

/-- A format: bits per element, element, scale. -/
structure Fmt where
  bits : Nat
  elem : Elem
  scale : ScaleKind
  deriving DecidableEq, Repr

/-- Table 2-1. -/
def fmtOf (code : Byte) : Option Fmt :=
  match code.toNat with
  | 0x01 => some ⟨32, .flt fp32, .none⟩
  | 0x02 => some ⟨16, .flt bf16, .none⟩
  | 0x03 => some ⟨16, .flt fp16, .none⟩
  | 0x04 => some ⟨8, .flt e4m3, .tensor⟩
  | 0x05 => some ⟨8, .flt e5m2, .tensor⟩
  | 0x08 => some ⟨8, .flt e4m3, .mx⟩
  | 0x09 => some ⟨8, .flt e5m2, .mx⟩
  | 0x0A => some ⟨6, .flt e3m2, .mx⟩
  | 0x0B => some ⟨6, .flt e2m3, .mx⟩
  | 0x0C => some ⟨4, .flt e2m1, .mx⟩
  | 0x0D => some ⟨8, .mxint8, .mx⟩
  | 0x10 => some ⟨8, .flt e4m3, .ms⟩
  | 0x11 => some ⟨8, .flt e5m2, .ms⟩
  | 0x12 => some ⟨6, .flt e3m2, .ms⟩
  | 0x13 => some ⟨6, .flt e2m3, .ms⟩
  | 0x14 => some ⟨4, .flt e2m1, .ms⟩
  | 0x18 => some ⟨4, .code, .lf⟩
  | 0x19 => some ⟨8, .code, .lf⟩
  | 0x20 => some ⟨8, .int true, .none⟩
  | 0x21 => some ⟨4, .int true, .none⟩
  | 0x22 => some ⟨8, .int false, .none⟩
  | 0x23 => some ⟨16, .int false, .none⟩
  | 0x24 => some ⟨32, .int true, .none⟩
  | _ => none

/-- The largest finite element value of a format, before scaling; 1 for a code, whose codebook fixes it. -/
def Fmt.elemMax (f : Fmt) : Rat :=
  match f.elem with
  | .flt x => x.max
  | .int s => if s then (2 ^ (f.bits - 1) : Nat) - 1 else (2 ^ f.bits : Nat) - 1
  | .mxint8 => 127 / 64
  | .code => 1

/-- The emax of R37. -/
def Fmt.emax (f : Fmt) : Int :=
  match f.elem with
  | .flt x => floorLog2 x.max
  | _ => 0

/-- Whether conversions into the format saturate by default (R43). -/
def Fmt.satDefault (f : Fmt) : Bool :=
  match f.elem with
  | .flt x => !(x == fp32 || x == bf16 || x == fp16)
  | _ => true

/-- Value of an E8M0 code other than 0xFF (R33). -/
def e8m0 (x : Byte) : Rat := pow2 ((x.toNat : Int) - 127)

/-- The entries of a codebook, in order of code. -/
abbrev Codebook := List FVal

/-- The exact value of element bits under a scale (R33 to R36, R40); no scale is 1. -/
def Fmt.decode (f : Fmt) (book : Codebook) (scale : Option Byte) (b : Nat) : FVal :=
  let v : FVal := match f.elem with
    | .flt x => x.decode b
    | .int s => FVal.ofRat false (intDecode s f.bits b)
    | .mxint8 => FVal.ofRat false ((intDecode true 8 b : Rat) / 64)
    | .code => book.getD (b % 2 ^ f.bits) FVal.zero
  match scale with
  | none => v
  | some x => if x = 0xFF#8 then .nan false else match v with
    | .fin n q => .fin n (q * e8m0 x)
    | other => other

/-- The largest magnitude among codebook entries. -/
def bookMax (book : Codebook) : Rat := book.foldl (fun m x => max m x.mag) 0

/-- Clamp of a scale exponent to codes 0 to 254. -/
def clampScale (x : Int) : Byte := BitVec.ofNat 8 (min 254 x.toNat)

/-- The scale code that R37 (MX, MS) or R41 (LF) chooses for the largest finite magnitude. -/
def chooseScale (f : Fmt) (book : Codebook) (amax : Rat) : Byte :=
  if amax = 0 then 127#8
  else match f.elem with
  | .code => if bookMax book = 0 then 254#8 else clampScale (127 + ceilLog2 (amax / bookMax book))
  | _ =>
    let x := 127 + floorLog2 amax - f.emax
    clampScale (if f.elemMax < amax / pow2 (x - 127) then x + 1 else x)

/-- The code of y in a codebook (R41), and whether y lies outside the entries. -/
def bookEncode (book : Codebook) (mode : Round) (w : Word32) (y : Rat) : Nat × Bool :=
  let n := book.length
  let e (i : Nat) : Rat := (book.getD i FVal.zero).rat
  let dist (i : Nat) : Rat := if e i ≤ y then y - e i else e i - y
  let nearest := (List.range n).foldl (fun b i => if dist i < dist b then i else b) 0
  -- the last entry at most y, and the first entry at least y
  let below := (List.range n).reverse.find? (fun i => e i ≤ y)
  let above := (List.range n).find? (fun i => y ≤ e i)
  if y < e 0 then (0, true)
  else if e (n - 1) < y then (n - 1, true)
  else (match mode with
    | .towardZero => if 0 ≤ y then below.getD nearest else above.getD nearest
    | .stochastic =>
      let lo := below.getD 0
      let hi := above.getD lo
      if lo = hi then lo else if (w.toNat : Rat) / 2 ^ 32 < (y - e lo) / (e hi - e lo) then hi else lo
    | _ => nearest, false)

/-- Conversion of a value to element bits under a scale (R43, R44, Table 2-3). The last component says that a scaled
element without room for the result makes its whole group non-finite. -/
def Fmt.encode (f : Fmt) (book : Codebook) (scale : Option Byte) (mode : Round) (sat : Bool) (w : Word32) (x : FVal) :
    Nat × CFlags × Bool :=
  let inScale : FVal := match scale, x with
    | some s, .fin n q => .fin n (q / e8m0 s)
    | _, _ => x
  match f.elem with
  | .flt e =>
    if f.scale = .mx ∨ f.scale = .ms then
      match inScale with
      | .nan _ => (0, { invalid := true }, true)
      | .inf _ => (0, { inf := true }, true)
      | .fin n q => if q ≤ e.max then (e.bits n (e.roundCode mode w q), {}, false)
                    else (e.bits n e.maxCode, { sat := true }, !sat)
    else if scale = some 0xFF#8 then (e.nanBits false, { invalid := x.isNan, inf := x.isInf }, false)
    else let r := e.encode mode sat w inScale; (r.1, r.2, false)
  | .int s => let r := intEncode s f.bits mode sat w inScale; (r.1, r.2, false)
  | .mxint8 =>
    match inScale with
    | .nan _ => (0, { invalid := true }, true)
    | .inf _ => (0, { inf := true }, true)
    | .fin n q =>
      if q ≤ 127 / 64 then ((intEncode true 8 mode true w (.fin n (q * 64))).1, {}, false)
      else (intBits 8 (if n then -127 else 127), { sat := true }, !sat)
  | .code =>
    match inScale with
    | .nan _ => (0, { invalid := true }, true)
    | .inf _ => (0, { inf := true }, true)
    | .fin n q =>
      let r := bookEncode book mode w (if n then -q else q)
      (r.1, { sat := r.2 }, r.2 && !sat)

/-- One value of a group or block to quantize, with its random word. -/
structure QIn where
  x : FVal
  w : Word32
  deriving DecidableEq, Repr

/-- Quantization of the written elements of one group or block (R37, R39, R41, R524): the scale code, and for each
element its bits and flags. A group that becomes non-finite concerns each of its elements (R45; log entry 52). -/
def quantGroup (f : Fmt) (book : Codebook) (supplied : Option Byte) (mode : Round) (sat : Bool) (xs : List QIn) :
    Byte × List (Nat × CFlags) :=
  let anyNan := xs.any (·.x.isNan)
  let anyInf := xs.any (·.x.isInf)
  if anyNan || anyInf then
    (0xFF#8, xs.map (fun _ => (0, { invalid := anyNan, inf := !anyNan })))
  else
    let amax := xs.foldl (fun m q => max m q.x.mag) 0
    let s := supplied.getD (chooseScale f book amax)
    if s = 0xFF#8 then (s, xs.map (fun _ => (0, {})))
    else
      let rs := xs.map (fun q => f.encode book (some s) mode sat q.w q.x)
      if rs.any (·.2.2) then (0xFF#8, rs.map (fun _ => (0, { sat := true }))) else (s, rs.map (fun r => (r.1, r.2.1)))

/-- The code that stands for +0 in an LF element: the entry of smallest magnitude, the lower code of two (R41). -/
def zeroCode (book : Codebook) : Nat :=
  (List.range book.length).foldl (fun b i =>
    if (book.getD i FVal.zero).mag < (book.getD b FVal.zero).mag then i else b) 0

/-- Element bits that stand for +0 in a format. -/
def Fmt.zeroBits (f : Fmt) (book : Codebook) : Nat := if f.elem = .code then zeroCode book else 0

/-- Rounding to FP32 of an element decoded for a lane (R44): bits and whether it overflowed. -/
def laneOf (x : FVal) : Word32 × CFlags :=
  match x with
  | .fin _ _ => let r := fp32.encode .nearestEven false 0 x; (BitVec.ofNat 32 r.1, r.2)
  | .nan n => (BitVec.ofNat 32 (fp32.bits n (fp32.nanBits false)), {})
  | .inf n => (BitVec.ofNat 32 (fp32.bits n (fp32.maxCode + 1)), {})

/-! ### The stochastic rounding generator (R46) -/

def srMix (z : Word64) : Word64 :=
  let z := (z ^^^ (z >>> 30)) * 0xBF58476D1CE4E5B9#64
  let z := (z ^^^ (z >>> 27)) * 0x94D049BB133111EB#64
  z ^^^ (z >>> 31)

def srWord (seed : Word64) (stepNo tensorId : Word32) (index : Nat) : Word32 :=
  let h := srMix (BitVec.ofNat 64 index + 0x9E3779B97F4A7C15#64)
  let h := srMix (h ^^^ ((stepNo.zeroExtend 64 <<< 32) ||| tensorId.zeroExtend 64))
  let h := srMix (h ^^^ seed)
  (h >>> 32).truncate 32

/-- A saturating counter of `bits` bits. -/
def satAdd (bits v n : Nat) : Nat := min (v + n) (2 ^ bits - 1)

end Sys2Proof.Machine
end

