-- ==== Sys2Proof/Machine/Operands.lean ====
section
/-! DEFINITION. Operand forms: packed elements, scale planes, codebooks, the descriptors of vector operations (Table 5-1)
and of matrix operations (Table 4-2, R147), and the gathered writes of elements, groups and blocks. -/

namespace Sys2Proof.Machine

/-! ### Packed elements (R34) -/

/-- The byte range that holds element e of `bits` bits, counted from byte `base`. -/
def elemSpan (base bits e : Nat) : Nat × Nat :=
  let p := bits * e
  (base + p / 8, (p % 8 + bits + 7) / 8)

/-- The bits of element e. -/
def readElem (rd : Nat → Byte) (base bits e : Nat) : Nat :=
  let sp := elemSpan base bits e
  let v := leNat ((List.range sp.2).map (fun i => rd (sp.1 + i)))
  v / 2 ^ (bits * e % 8) % 2 ^ bits

/-- The masked byte writes that store the bits of element e. -/
def writeElem (base bits e v : Nat) : List ByteWrite :=
  let sp := elemSpan base bits e
  let sh := bits * e % 8
  let mask := (2 ^ bits - 1) * 2 ^ sh
  let val := v % 2 ^ bits * 2 ^ sh
  (List.range sp.2).map (fun i =>
    ⟨sp.1 + i, BitVec.ofNat 8 (mask / 256 ^ i), BitVec.ofNat 8 (val / 256 ^ i)⟩)

/-- Bytes of one block of 32 x 32 elements (R36, R147). -/
def blockBytes (bits : Nat) : Nat := 128 * bits

/-- ceil(a / b). -/
def ceilDiv (a b : Nat) : Nat := (a + b - 1) / b

/-! ### The memories that an operation reads -/

/-- A supplied scale as it was read when the operation started (R49): memory, offset, byte, poison. -/
structure Latched where
  cm : Bool
  off : Nat
  x : Byte
  poison : Bool

/-- The operand cache of a core, the cluster memory beside it, the scales latched at the start of the operation, and the
firmware set whose built-in curves the core holds (R132). -/
structure VMem where
  oc : Sram
  cm : Sram
  scales : List Latched := []
  fw : List Word32 := []

/-- The firmware set that runs: the versions of Clasp, Lantern and SerDes. -/
def State.firmwareSet (s : State) : List Word32 := (List.range 3).map (fun i => sget 0 s.clasp.running i)

def State.vmem (s : State) (c : Nat) : VMem :=
  { oc := (s.core c).oc, cm := (s.cluster (clusterOf c)).cm, fw := s.firmwareSet }

def VMem.sram (m : VMem) (cm : Bool) : Sram := if cm then m.cm else m.oc
def VMem.setSram (m : VMem) (cm : Bool) (r : Sram) : VMem := if cm then { m with cm := r } else { m with oc := r }

/-- The byte of a scale location and its poison, as latched at the start. -/
def VMem.scaleAt (m : VMem) (cm : Bool) (off : Nat) : Byte × Bool :=
  match m.scales.find? (fun z => z.cm == cm && z.off == off) with
  | some z => (z.x, z.poison)
  | none => ((m.sram cm).byte off, (m.sram cm).poisoned off 1)

/-- An SRAM with the writes of one row applied; whole-line coverage is judged over the operation (R225). -/
def Sram.applyRow (m : Sram) (ws : List ByteWrite) (dirty : List Nat) : Sram :=
  let m' := ws.foldl Sram.put m
  { m' with poison := dirty.foldl (fun p l => sset false p l true) m'.poison }

/-! ### Codebooks (R40) -/

/-- Entries of a codebook of a format. -/
def bookLen (f : Fmt) : Nat := 2 ^ f.bits

/-- The codebook at an offset of the operand cache. -/
def readBook (oc : Sram) (f : Fmt) (off : Nat) : Codebook :=
  if f.scale = .lf then (List.range (bookLen f)).map (fun i => bf16.decode (leNat (oc.read (off + 2 * i) 2))) else []

/-- Whether the codebook lies in the operand cache at a multiple of 2 bytes. -/
def bookInside (f : Fmt) (off : Nat) : Bool :=
  f.scale != .lf || decide (off % 2 = 0 ∧ off + 2 * bookLen f ≤ ocSize)

/-- Entries finite and strictly ascending. -/
def bookValid (oc : Sram) (f : Fmt) (off : Nat) : Bool :=
  let b := readBook oc f off
  f.scale != .lf || (b.all FVal.isFin && (b.zip (b.drop 1)).all (fun p => decide (p.1.rat < p.2.rat)))

/-- A source element as a lane reads it: exact value, its FP32 lane value (R44, R124), whether decoding overflowed, poison. -/
structure LaneIn where
  x : FVal
  lane : Word32 := 0
  sat : Bool := false
  poison : Bool := false

/-- The FP32 lane value of a source element (R44, R124). -/
def LaneIn.fp (l : LaneIn) : FVal := ofFp32 l.lane

/-- What the reads of an operation need: latched registers, and the rounding of integers that FP32 does not hold (R44). -/
structure VIn where
  regs : Sparse Word64
  mode : Round
  seed : Word64
  stepNo : Word32
  origin : Nat

/-- The lane value of an element: an integer rounds by the operation's mode, any other element to nearest-even (R44). The
random word of an integer is that of its place in the source (DEDUCED, log entry 95). -/
def VIn.lane (q : VIn) (f : Fmt) (tensorId : Word32) (index : Nat) (x : FVal) : Word32 :=
  match f.elem with
  | .int _ => BitVec.ofNat 32 (fp32.encode q.mode false (srWord q.seed q.stepNo tensorId (q.origin + index)) x).1
  | _ => (laneOf x).1

/-- Slot of block (u, v) in a super-tile (R147). -/
def mirrorSlot (u v : Nat) : Nat := 4 * u + (u + v) % 4

/-- The block that holds element (r, c) of a mirror tensor: its byte offset from the tensor's (R147). -/
def mirrorBlock (bits pitch r c : Nat) : Nat :=
  r / 128 * pitch + c / 128 * (16 * blockBytes bits) + mirrorSlot (r / 32 % 4) (c / 32 % 4) * blockBytes bits

/-- Number of the scale of element (r, c) of a mirror tensor whose super-tile rows hold `q` super-tiles (R148). -/
def mirrorScale (q r c : Nat) : Nat :=
  16 * (r / 128 * q + c / 128) + mirrorSlot (r / 32 % 4) (c / 32 % 4)

/-- Byte offset and element number of element (r, c) of a tensor grouped down its columns: the groups of rows 32 b to
32 b + 31 follow one another in column order, and each is contiguous (R35; DEDUCED, log entry 98). -/
def downPlace (bits pitch r c : Nat) : Nat × Nat := (r / 32 * pitch + c * (4 * bits), r % 32)

/-- Number of the scale of element (r, c) of a tensor of `cols` columns grouped down them (R35). -/
def downScale (cols r c : Nat) : Nat := r / 32 * cols + c

/-- Whether an orientation is a mirror one. -/
def isMirror (o : Orient) : Bool := o == .mirrorAlong || o == .mirrorAcross

/-- Whether the stored rows run across K. -/
def isAcross (o : Orient) : Bool := o == .rowAcross || o == .mirrorAcross

/-- The supplied scale of a descriptor: a code, or the byte at its location (R49). -/
def suppliedScale (oc : Sram) : Supplied → Option Byte
  | .absent => none
  | .code x => some x
  | .location off => some (oc.byte off)

end Sys2Proof.Machine

namespace Sys2Proof

open Sys2Proof.Machine

/-! ### Vector operands (Table 5-1) -/

def VDesc.inCm (d : VDesc) : Bool := d.loc == .cm
def VDesc.fmt (d : VDesc) : Option Fmt := fmtOf d.format
/-- The format of a checked descriptor. -/
def VDesc.fmtD (d : VDesc) : Fmt := d.fmt.getD ⟨32, .flt fp32, .none⟩

/-- Start of row i: for an MS format, of its block row. -/
def VDesc.rowBase (d : VDesc) (f : Fmt) (i : Nat) : Int :=
  (d.offset : Int) + ((if f.scale = .ms then i / 32 else i : Nat) : Int) * d.rowStride

/-- Where the element of row i, lane j lies: base byte and element number from it (R34 to R36). -/
def VDesc.place (d : VDesc) (f : Fmt) (i j : Nat) : Nat × Nat :=
  if f.scale = .ms then ((d.rowBase f i).toNat + j / 32 * blockBytes f.bits, 32 * (i % 32) + j % 32)
  else ((d.rowBase f i).toNat, j * d.elemStride)

/-- Number in the scale plane of the scale of row i, lane j, of rows of n elements (R35, R36). A repeated row has one
row of scales. -/
def VDesc.scaleNum (d : VDesc) (f : Fmt) (n i j : Nat) : Nat :=
  let i := if d.rowStride = 0 then 0 else i
  (if f.scale = .ms then i / 32 else i) * ceilDiv n 32 + j / 32

/-- The byte that holds the scale of an element, in the memory of the operand. -/
def VDesc.scaleByte (m : VMem) (d : VDesc) (f : Fmt) (n i j : Nat) : Option (Bool × Nat) :=
  match f.scale, d.supplied with
  | .none, _ => none
  | _, .code _ => none
  | _, .location off => some (d.inCm, off)
  | .tensor, .absent => none
  | _, .absent => let _ := m; some (d.inCm, d.scaleOff + d.scaleNum f n i j)

/-- The scale of an element and whether its byte is poisoned. -/
def VDesc.scale (m : VMem) (d : VDesc) (f : Fmt) (n i j : Nat) : Option Byte × Bool :=
  match d.supplied, d.scaleByte m f n i j with
  | .code x, none => (if f.scale = .none then none else some x, false)
  | .location off, some b => let z := m.scaleAt b.1 off; (some z.1, z.2)
  | _, some b => (some ((m.sram b.1).byte b.2), (m.sram b.1).poisoned b.2 1)
  | _, none => (none, false)

/-- Whether an operand lies in the memory. -/
def VDesc.isIn (d : VDesc) (inCm : Bool) : Bool := if inCm then d.loc == .cm else d.loc == .oc

/-- The scale locations of an operation's operands latched at its start (R49). -/
def Machine.VMem.latch (m : VMem) (ds : List VDesc) : VMem :=
  { m with scales := ds.filterMap (fun d => match d.supplied with
      | .location off =>
        if d.fmtD.scale = .none ∨ d.loc = .sreg then none
        else some ⟨d.inCm, off, (m.sram d.inCm).byte off, (m.sram d.inCm).poisoned off 1⟩
      | _ => none) }

/-- The element of row i, lane j of a source of rows of n elements; an SREG source takes the latched register. -/
def VDesc.read (m : VMem) (q : VIn) (asInt : Bool) (d : VDesc) (n i j : Nat) : LaneIn :=
  match d.loc with
  | .sreg =>
    let b := (sget 0 q.regs (d.reg % 32)).toNat % 2 ^ 32
    let x := if asInt then FVal.ofRat false (intDecode true 32 b) else fp32.decode b
    { x := x, lane := (laneOf x).1 }
  | .oc | .cm =>
    let f := d.fmtD
    let p := d.place f i j
    let r := m.sram d.inCm
    let b := readElem r.byte p.1 f.bits p.2
    let sp := elemSpan p.1 f.bits p.2
    let sc := d.scale m f n i j
    let x := f.decode (readBook m.oc f d.codebook) sc.1 b
    { x := x, lane := q.lane f d.tensorId (i * n + j) x, sat := (laneOf x).2.sat, poison := r.poisoned sp.1 sp.2 || sc.2 ||
        (f.scale == .lf && m.oc.poisoned d.codebook (2 * bookLen f)) }
  | _ => { x := FVal.zero }

/-- Byte ranges that rows 0 to r - 1 of an operand occupy, scale plane included. -/
def VDesc.ranges (d : VDesc) (n r : Nat) : List (Nat × Nat) :=
  let f := d.fmtD
  let rows := (List.range r).flatMap (fun i =>
    let p := d.place f i 0
    let q := d.place f i (n - 1)
    let a := elemSpan p.1 f.bits p.2
    let b := elemSpan q.1 f.bits q.2
    [(a.1, b.1 + b.2 - a.1)])
  if f.scale = .mx ∨ f.scale = .lf ∨ f.scale = .ms then rows ++ [(d.scaleOff, d.scaleNum f n (r - 1) (n - 1) + 1)] else rows

/-! ### Checks of a vector operand (R118, R119) -/

/-- Bytes that offsets are multiples of: the element, or the group (R118). -/
def VDesc.unit (f : Fmt) : Nat :=
  match f.scale with
  | .mx | .lf | .ms => 4 * f.bits
  | _ => max 1 (f.bits / 8)

/-- Bytes that row strides are multiples of: the element, and the group of MX and LF formats (R118). -/
def VDesc.strideUnit (f : Fmt) : Nat := if f.scale = .mx ∨ f.scale = .lf then 4 * f.bits else max 1 (f.bits / 8)

/-- Size of the memory of a descriptor. -/
def VDesc.size (cmLimit : Nat) (d : VDesc) : Nat := if d.inCm then cmLimit else ocSize

/-- Bytes of one row from its base: whole groups and blocks are stored. -/
def VDesc.rowBytes (d : VDesc) (f : Fmt) (n : Nat) : Nat :=
  match f.scale with
  | .mx | .lf => ceilDiv n 32 * (4 * f.bits)
  | .ms => ceilDiv n 32 * blockBytes f.bits
  | _ => let sp := elemSpan 0 f.bits ((n - 1) * d.elemStride); sp.1 + sp.2

/-- Check 3 of Table 5-10 for one operand of r rows of n elements: true when it fails. -/
def VDesc.bad (cmLimit : Nat) (d : VDesc) (n r : Nat) (dest : Bool) : Bool :=
  match d.loc with
  | .sreg => dest || !decide (d.reg < 32)
  | .oc | .cm =>
    let f := d.fmtD
    let u := VDesc.unit f
    let scaled := f.scale == .mx || f.scale == .lf || f.scale == .ms
    let last := d.rowBase f (r - 1)
    let lo := min (d.offset : Int) last
    let hi := max (d.offset : Int) last + d.rowBytes f n
    !decide (d.elemStride ≤ 4095) || !decide (-2147483648 ≤ d.rowStride ∧ d.rowStride ≤ 2147483647) ||
    ((f.scale != .none || decide (f.bits < 8)) && d.elemStride != 1) ||
    d.offset % u != 0 || decide (d.rowStride % VDesc.strideUnit f ≠ 0) ||
    (dest && ((d.elemStride == 0 && decide (1 < n)) || (d.rowStride == 0 && decide (1 < r)))) ||
    decide (lo < 0) || decide ((d.size cmLimit : Int) < hi) ||
    (match d.supplied with
      | .location off => !decide (off < d.size cmLimit)
      | .absent => scaled && decide (d.size cmLimit < d.scaleOff + d.scaleNum f n (r - 1) (n - 1) + 1)
      | .code _ => scaled && dest && decide (d.size cmLimit < d.scaleOff + d.scaleNum f n (r - 1) (n - 1) + 1))
  | _ => true

/-- The format part of check 1 for one operand: the code is accepted, and an E4M3 or E5M2 operand has a supplied scale
(R30, R49). -/
def VDesc.badFormat (d : VDesc) (ok : Fmt → Bool) : Bool :=
  match d.loc with
  | .sreg => false
  | _ => match d.fmt with
    | none => true
    | some f => !ok f || (f.scale == .tensor && d.supplied == .absent)

/-- The codebook parts of check 1 (R40). -/
def VDesc.bookOutside (d : VDesc) : Bool := d.loc != .sreg && !bookInside d.fmtD d.codebook
def VDesc.bookBad (oc : Sram) (d : VDesc) : Bool := d.loc != .sreg && !bookValid oc d.fmtD d.codebook

/-! ### Matrix operands (Table 4-2, Table 6-1, R147, R148) -/

/-- The stored format of a matrix descriptor. -/
def MatDesc.sfmt (d : MatDesc) : Fmt := (fmtOf d.stored).getD ⟨32, .flt fp32, .none⟩
/-- The compute format of a matrix descriptor. -/
def MatDesc.cfmt (d : MatDesc) : Fmt := (fmtOf d.compute).getD ⟨32, .flt fp32, .none⟩

/-- Whether a stored tensor is grouped down its columns: an LF operand whose block axis is not K (R35, R40). -/
def MatDesc.down (d : MatDesc) : Bool := d.sfmt.scale == .lf && d.axis == .acrossK

/-- Bytes of a super-tile of a dense mirror tensor, and of one in SP_T (R147, R169). -/
def MatDesc.T (d : MatDesc) : Nat := 16 * blockBytes d.sfmt.bits
def MatDesc.sparseT (d : MatDesc) : Nat := 8 * blockBytes d.sfmt.bits

/-- Where element (r, c) of the stored tensor lies: base byte and element number. -/
def MatDesc.place (d : MatDesc) (r c : Nat) : Nat × Nat :=
  let f := d.sfmt
  if isMirror d.orient then (d.offset + mirrorBlock f.bits d.pitch r c, 32 * (r % 32) + c % 32)
  else if f.scale = .ms then (d.offset + r / 32 * d.pitch + c / 32 * blockBytes f.bits, 32 * (r % 32) + c % 32)
  else if d.down then (d.offset + (downPlace f.bits d.pitch r c).1, (downPlace f.bits d.pitch r c).2)
  else (d.offset + r * d.pitch, c)

/-- Number in the scale plane of the scale of stored element (r, c) of a tensor of `cols` columns. A mirror tensor's C is the
columns of the super-tiles that its pitch separates, `T` bytes each (R148; DEDUCED, log entry 98). -/
def MatDesc.scaleNum (d : MatDesc) (T cols r c : Nat) : Nat :=
  let f := d.sfmt
  if isMirror d.orient then mirrorScale (d.pitch / T) r c
  else if f.scale = .ms then r / 32 * ceilDiv cols 32 + c / 32
  else if d.down then downScale cols r c
  else r * ceilDiv cols 32 + c / 32

end Sys2Proof

namespace Sys2Proof.Machine

/-! ### Element results -/

/-- What becomes of a destination element: left as it is, +0, a value rounded once, or bits that are not rounded. -/
inductive LaneOut | keep | zero | val (x : FVal) | raw (bits : Nat)
  deriving DecidableEq, Repr

/-- One lane's result: what is written, whether poisoned data reached it, its flag byte so far (Table 5-3). -/
structure LaneRes where
  out : LaneOut
  poison : Bool := false
  flags : Nat := 0

/-- Bits of Table 5-3. -/
def fEmpty : Nat := 1
def fInvalid : Nat := 2
def fInf : Nat := 4
def fSat : Nat := 8
def fIndex : Nat := 16
def fPoison : Nat := 64

/-- Flag bits of a condition. -/
def flagIf (b : Bool) (v : Nat) : Nat := if b then v else 0

/-- The flag byte of conversion flags. -/
def CFlags.byte (c : CFlags) : Nat := flagIf c.sat fSat ||| flagIf c.invalid fInvalid ||| flagIf c.inf fInf

/-- Rounding and index of the elements that an operation writes (R46, R117). -/
structure OutEnv where
  mode : Round
  sat : Option Bool
  seed : Word64
  stepNo : Word32
  index : Nat → Nat → Nat

/-- The random word of a destination element. -/
def OutEnv.word (e : OutEnv) (d : VDesc) (i j : Nat) : Word32 := srWord e.seed e.stepNo d.tensorId (e.index i j)

/-- Gathered writes: bytes, lines that become poisoned, flag bytes by (row, lane). -/
structure Emit where
  ws : List ByteWrite := []
  dirty : List Nat := []
  flags : List ((Nat × Nat) × Nat) := []

/-- Lines that a byte range touches. -/
def linesIn (a n : Nat) : List Nat := (List.range (if n = 0 then 0 else (a + n - 1) / 64 - a / 64 + 1)).map (a / 64 + ·)

/-- The FP32, BF16, FP16 or integer infinity test of written bits: an infinite result was produced (R126). -/
def infWritten (f : Fmt) (bits : Nat) : Bool :=
  match f.elem with
  | .flt x => (x.decode bits).isInf
  | _ => false

/-- One element of an unscaled or per-tensor format. -/
def emitOne (m : VMem) (e : OutEnv) (d : VDesc) (n i j : Nat) (r : LaneRes) : Emit :=
  let f := d.fmtD
  let p := d.place f i j
  let sp := elemSpan p.1 f.bits p.2
  let dirty (bad : Bool) : List Nat := if bad then linesIn sp.1 sp.2 else []
  match r.out with
  | .keep => ⟨[], dirty r.poison, [((i, j), r.flags)]⟩
  | .zero => ⟨writeElem p.1 f.bits p.2 0, dirty r.poison, [((i, j), r.flags)]⟩
  | .raw b => ⟨writeElem p.1 f.bits p.2 b, dirty r.poison, [((i, j), r.flags ||| flagIf (infWritten f b) fInf)]⟩
  | .val x =>
    let sc := d.scale m f n i j
    let q := f.encode [] sc.1 e.mode (e.sat.getD f.satDefault) (e.word d i j) x
    ⟨writeElem p.1 f.bits p.2 q.1, dirty (r.poison || sc.2),
      [((i, j), r.flags ||| q.2.1.byte ||| flagIf (infWritten f q.1) fInf ||| flagIf sc.2 fPoison)]⟩

/-- One group or block: `cells` are its positions inside the tensor with their results, `pads` its pad positions. The
scale goes to the plane (R524); pad elements are written as +0 (R38), and so are lanes masked under ZERO, which do not
count for the scale (R120). A poisoned codebook or supplied scale poisons the group (R123). -/
def emitGroup (m : VMem) (e : OutEnv) (d : VDesc) (n : Nat) (cells : List ((Nat × Nat) × LaneRes))
    (pads : List (Nat × Nat)) : Emit :=
  let f := d.fmtD
  let book := readBook m.oc f d.codebook
  let written := cells.filter (fun c => c.2.out ≠ .keep)
  let supplied : Option (Byte × Bool) := match d.supplied with
    | .code x => some (x, false)
    | .location off => some (m.scaleAt d.inCm off)
    | .absent => none
  let badScale := !written.isEmpty && ((supplied.map (·.2)).getD false ||
    (f.scale == .lf && m.oc.poisoned d.codebook (2 * bookLen f)))
  let poison := cells.any (fun c => c.2.poison) || badScale
  let span (p : Nat × Nat) : Nat × Nat := let q := d.place f p.1 p.2; elemSpan q.1 f.bits q.2
  match cells with
  | [] => {}
  | c0 :: _ =>
    let sAddr := d.scaleOff + d.scaleNum f n c0.1.1 c0.1.2
    let dirty := if poison then
        cells.flatMap (fun c => let sp := span c.1; linesIn sp.1 sp.2) ++ (if written.isEmpty then [] else [sAddr / 64])
      else []
    if written.isEmpty then ⟨[], dirty, cells.map (fun c => (c.1, c.2.flags))⟩
    else
      let vals := written.filter (fun c => c.2.out ≠ .zero)
      let q := quantGroup f book (supplied.map (·.1)) e.mode (e.sat.getD f.satDefault)
        (vals.map (fun c => match c.2.out with
          | .val x => ⟨x, e.word d c.1.1 c.1.2⟩
          | _ => ⟨FVal.zero, 0⟩))
      let z0 := if q.1 = 0xFF#8 then 0 else f.zeroBits book
      let bad := flagIf badScale fPoison
      let bitsOfCell := (vals.zip q.2).map (fun z => (z.1.1, z.2.1, z.1.2.flags ||| z.2.2.byte ||| bad)) ++
        (written.filter (fun c => c.2.out = .zero)).map (fun c => (c.1, z0, c.2.flags))
      let store (p : Nat × Nat) (v : Nat) : List ByteWrite := let a := d.place f p.1 p.2; writeElem a.1 f.bits a.2 v
      ⟨bitsOfCell.flatMap (fun z => store z.1 z.2.1) ++ pads.flatMap (fun p => store p z0) ++
        [⟨sAddr, 0xFF#8, q.1⟩],
       dirty,
       bitsOfCell.map (fun z => (z.1, z.2.2)) ++
         (cells.filter (fun c => c.2.out = .keep)).map (fun c => (c.1, c.2.flags))⟩

/-- Two emissions one after the other. -/
def Emit.then (a b : Emit) : Emit := ⟨a.ws ++ b.ws, a.dirty ++ b.dirty, a.flags ++ b.flags⟩

/-- Writes the results of rows i0 to i0 + rows.length - 1 of a destination of `rTotal` rows of n elements. An MS
destination takes whole block rows. -/
def emitRows (m : VMem) (e : OutEnv) (d : VDesc) (n rTotal i0 : Nat) (rows : List (List LaneRes)) : Emit :=
  let f := d.fmtD
  let cell (i j : Nat) : LaneRes := ((rows.getD (i - i0) []).getD j { out := .keep })
  match f.scale with
  | .none | .tensor =>
    (List.range rows.length).foldl (fun a ii => (List.range n).foldl (fun a j =>
      a.then (emitOne m e d n (i0 + ii) j (cell (i0 + ii) j))) a) {}
  | .mx | .lf =>
    (List.range rows.length).foldl (fun a ii => (List.range (ceilDiv n 32)).foldl (fun a g =>
      let js := (List.range 32).map (32 * g + ·)
      a.then (emitGroup m e d n
        ((js.filter (· < n)).map (fun j => ((i0 + ii, j), cell (i0 + ii) j)))
        ((js.filter (fun j => n ≤ j)).map (fun j => (i0 + ii, j))))) a) {}
  | .ms =>
    (List.range (ceilDiv (i0 + rows.length) 32 - i0 / 32)).foldl (fun a b => (List.range (ceilDiv n 32)).foldl (fun a g =>
      let pos := (List.range 32).flatMap (fun u => (List.range 32).map (fun v => (32 * (i0 / 32 + b) + u, 32 * g + v)))
      let isIn (p : Nat × Nat) : Bool := decide (p.1 < rTotal ∧ p.2 < n)
      a.then (emitGroup m e d n
        ((pos.filter isIn).map (fun p => (p, cell p.1 p.2)))
        (pos.filter (fun p => !isIn p)))) a) {}

end Sys2Proof.Machine
end

