-- ==== Sys2Proof/Machine/Accum.lean ====
section
/-! DEFINITION. Accumulator tiles: modes, breaks, poison (R90, R91, R109), the summation of one element (R102, R103) and
the value that a readout takes (R106). -/

namespace Sys2Proof.Machine

/-! ### Slots -/

def Core.slot (u : Core) (t : Nat) : AccSlot := sget {} u.acc t
def Core.setSlot (u : Core) (t : Nat) (v : AccSlot) : Core := { u with acc := sset {} u.acc t v }

/-- Element number of (i, j). -/
def accIx (i j : Nat) : Nat := 128 * i + j

def AccSlot.get (a : AccSlot) (i j : Nat) : Word32 := sget 0 a.elems (accIx i j)
/-- A stored element; the check bits of its word are written anew (R224). -/
def AccSlot.put (a : AccSlot) (i j : Nat) (v : Word32) : AccSlot :=
  { a with elems := sset 0 a.elems (accIx i j) v, bad := sset none a.bad (accIx i j / 2) none }

/-- The s and h of an element of a tile; h is +0 outside mode C. -/
def Core.accElem (u : Core) (tile : Nat) (m : TileMode) (i j : Nat) : Word32 × Word32 :=
  ((u.slot tile).get i j, if m = .c then (u.slot (tile + 1)).get i j else 0)

/-- Stores s, and h in mode C. -/
def Core.setAccElem (u : Core) (tile : Nat) (m : TileMode) (i j : Nat) (v : Word32 × Word32) : Core :=
  let u := u.setSlot tile ((u.slot tile).put i j v.1)
  if m = .c then u.setSlot (tile + 1) ((u.slot (tile + 1)).put i j v.2) else u

/-- Whether the tile's recorded mode is m: in mode C that of both slots (R91). -/
def Core.modeIs (u : Core) (tile : Nat) (m : TileMode) : Bool :=
  (u.slot tile).mode == m && (m != .c || (u.slot (tile + 1)).mode == .c)

/-- Tile number in range, and even in mode C (Table 4-1). -/
def tileOk (tile : Nat) (m : TileMode) : Bool := decide (tile < 8) && (m != .c || tile % 2 == 0)

/-- A mode C tile 2t whose slot 2t + 1 an operation names in another mode breaks: slot 2t keeps its sums in mode U and
its poison (R91). -/
def Core.breakTile (u : Core) (tile : Nat) (m : TileMode) : Core :=
  if m ≠ .c ∧ tile % 2 = 1 ∧ u.modeIs (tile - 1) .c then
    u.setSlot (tile - 1) { u.slot (tile - 1) with mode := .u }
  else u

/-- An operation that writes without reading sets the mode: the same mode keeps every element, a different one first
sets every element to zero (R90). Poison follows `Core.setPoison`. -/
def Core.setMode (u : Core) (tile : Nat) (m : TileMode) : Core :=
  if u.modeIs tile m then u
  else
    (tileSlots tile m).foldl (fun v t => v.setSlot t { v.slot t with mode := m, elems := [], bad := [] }) (u.breakTile tile m)

/-- Poison of a tile: of any of its slots. -/
def Core.tilePoison (u : Core) (tile : Nat) (m : TileMode) : Bool :=
  (u.slot tile).poison || (m == .c && (u.slot (tile + 1)).poison)

/-- Records the poison of a tile in its slots (R90). -/
def Core.setPoison (u : Core) (tile : Nat) (m : TileMode) (p : Bool) : Core :=
  let u := u.setSlot tile { u.slot tile with poison := p }
  if m = .c then u.setSlot (tile + 1) { u.slot (tile + 1) with poison := p } else u

/-- A tile at +0 in its present mode, without poison (R108). -/
def Core.clearTile (u : Core) (tile : Nat) (m : TileMode) : Core :=
  let u := u.setSlot tile { u.slot tile with elems := [], bad := [], poison := false }
  if m = .c then u.setSlot (tile + 1) { u.slot (tile + 1) with elems := [], bad := [], poison := false } else u

/-! ### Errors of accumulator memory (R223, R224, Table 9-1) -/

/-- The words of rows below m and columns below n. -/
def tileWords (m n w : Nat) : Bool := decide (w / 64 < m ∧ w % 64 * 2 < n)

/-- The words of that region that it covers in part. -/
def edgeWords (m n w : Nat) : Bool := tileWords m n w && decide (n < w % 64 * 2 + 2)

/-- Marked words of a slot that a test names. -/
def AccSlot.badIn (a : AccSlot) (p : Nat → Bool) : List (Nat × WordErr) :=
  a.bad.filterMap (fun e => if p e.1 then e.2.map (fun k => (e.1, k)) else none)

/-- A slot whose words of a test were read: marks go, and a word that cannot be corrected poisons the tile. -/
def AccSlot.settle (a : AccSlot) (p : Nat → Bool) : AccSlot :=
  { a with bad := a.bad.filter (fun e => !(p e.1)), poison := a.poison || (a.badIn p).any (·.2 == .double) }

/-- Reads of a tile settled: corrected and uncorrectable words are counted, the latter recorded with kind 4. -/
def State.accSettle (s : State) (c tile : Nat) (m : TileMode) (p : Nat → Bool) : State :=
  let hit := (tileSlots tile m).flatMap (fun t => (((s.core c).slot t).badIn p).map (fun e => (slotWords * t + e.1, e.2)))
  if hit = [] then s
  else
    let poison := hit.any (·.2 == .double)
    (s.modCore c (fun u =>
      let v := (tileSlots tile m).foldl (fun v t => v.setSlot t ((v.slot t).settle p)) u
      { (v.setPoison tile m (v.tilePoison tile m || poison)) with sramEcc := eccCounted v.sramEcc hit })).logSram 1 c 4 hit

/-! ### Summation (R102, R103) -/

/-- Events of an element's summation. -/
structure SumFlags where
  inf : Bool := false
  invalid : Bool := false
  isat : Bool := false
  deriving DecidableEq, Repr

def SumFlags.or (a b : SumFlags) : SumFlags := ⟨a.inf || b.inf, a.invalid || b.invalid, a.isat || b.isat⟩

/-- Canonical FP32 NaN (R32). -/
def nan32 : Word32 := 0x7FC00000#32

/-- One block value added to an element: `comp` keeps the Hem term (mode C). -/
def accStep (comp : Bool) (sh : Word32 × Word32) (b : FVal) : (Word32 × Word32) × SumFlags :=
  let s := ofFp32 sh.1
  if s.isFin && b.isFin then
    if comp then
      let bHi := toFp32 b
      let sNew := f32add sh.1 bHi
      if (ofFp32 sNew).isFin then
        let t := s.rat + (ofFp32 bHi).rat - (ofFp32 sNew).rat
        ((sNew, toFp32 (FVal.ofRat false ((ofFp32 sh.2).rat + t + (b.rat - (ofFp32 bHi).rat)))), {})
      else ((sNew, 0), { inf := true })
    else
      let sNew := toFp32 (s.add b)
      ((sNew, 0), { inf := !(ofFp32 sNew).isFin })
  else
    let r := s.add b
    if r.isNan then ((nan32, 0), { invalid := true })
    else ((toFp32 r, 0), { inf := s.isFin && r.isInf })

/-- An integer block value added to an INT32 sum, clamped (R100). -/
def accStepInt (s : Word32) (b : Int) : Word32 × SumFlags :=
  let v := s.toInt + b
  if v < -2147483648 then (0x80000000#32, { isat := true })
  else if 2147483647 < v then (0x7FFFFFFF#32, { isat := true })
  else (BitVec.ofInt 32 v, {})

/-- The value read of an element (R106): s + h exactly when s is finite in mode C, s otherwise, the INT32 in mode I. -/
def accValue (m : TileMode) (sh : Word32 × Word32) : FVal :=
  match m with
  | .i => FVal.ofRat false sh.1.toInt
  | .c => match ofFp32 sh.1 with
    | .fin n q => (FVal.fin n q).add (ofFp32 sh.2)
    | other => other
  | _ => ofFp32 sh.1

/-! ### Exact sums of a row (R133) and the compensated pair -/

/-- The exact sum of values that are all finite. -/
def exactSum (xs : List FVal) : FVal := xs.foldl FVal.add FVal.zero

/-- Adds exact row sums into a compensated pair, in order. -/
def accRows (bs : List FVal) : Word32 × Word32 := bs.foldl (fun sh b => (accStep true sh b).1) (0, 0)

/-- s + h of a pair, exactly; an infinite s stands for itself. -/
def pairValue (sh : Word32 × Word32) : FVal := accValue .c sh

end Sys2Proof.Machine
end

