-- ==== Sys2Proof/Machine/Curves.lean ====
section
/-! DEFINITION. Curves: the evaluation of a loaded table (R129 to R131), and the built-in functions (R132), whose exact
value is free within the error bound of Table 5-6 (log entry 7). -/

namespace Sys2Proof.Machine

/-! ### Loaded tables (Table 5-7) -/

/-- FP32 field of a table. -/
def curveWord (raw : List Byte) (off : Nat) : Word32 := BitVec.ofNat 32 (leAt raw off 4)

/-- Coefficient j of segment i. -/
def curveCoef (raw : List Byte) (i j : Nat) : Word32 := curveWord raw (32 + 16 * i + 4 * j)

/-- The rules of R130. -/
def curveValid (raw : List Byte) : Bool :=
  let lo := ofFp32 (curveWord raw 0)
  let hi := ofFp32 (curveWord raw 4)
  let sym := leAt raw 10 1
  lo.isFin && hi.isFin && lo.lt hi &&
  ([16, 20, 24, 28].all (fun o => f32finite (curveWord raw o))) &&
  ((List.range 256).all (fun n => f32finite (curveWord raw (32 + 4 * n)))) &&
  decide (leAt raw 8 1 ≤ 2 ∧ leAt raw 9 1 ≤ 2 ∧ sym ≤ 2) && (sym == 0 || curveWord raw 0 == 0#32)

/-- w := fp32(64 / (x_hi − x_lo)), formed once at load (R131). -/
def curveW (raw : List Byte) : Word32 :=
  toFp32 ((FVal.ofRat false 64).div ((ofFp32 (curveWord raw 4)).sub (ofFp32 (curveWord raw 0))))

/-- A valid table as a slot holds it. -/
def curveTab (raw : List Byte) : CurveTab := ⟨raw, curveW raw⟩

/-- The Horner form of segment i at t, one rounding per fma (R131). -/
def horner (raw : List Byte) (i : Nat) (t : Word32) : Word32 :=
  f32fma (f32fma (f32fma (curveCoef raw i 3) t (curveCoef raw i 2)) t (curveCoef raw i 1)) t (curveCoef raw i 0)

/-- The function tail of R131. -/
def curveTail (kind : Nat) (slope icpt x segEnd : Word32) : Word32 :=
  match kind with
  | 0 => segEnd
  | 1 => f32fma slope x icpt
  | _ => icpt

/-- A loaded table evaluated at x, as FP32 (R131). -/
def curveEval (t : CurveTab) (x : Word32) : Word32 :=
  if (ofFp32 x).isNan then 0x7FC00000#32
  else
    let sym := leAt t.raw 10 1
    let flip := sym = 1 ∧ (ofFp32 x).lt FVal.zero
    let x := if sym = 0 then x else f32abs x
    let lo := ofFp32 (curveWord t.raw 0)
    let hi := ofFp32 (curveWord t.raw 4)
    let y :=
      if (ofFp32 x).lt lo then
        curveTail (leAt t.raw 8 1) (curveWord t.raw 16) (curveWord t.raw 20) x (horner t.raw 0 0#32)
      else if !(ofFp32 x).lt hi then
        curveTail (leAt t.raw 9 1) (curveWord t.raw 24) (curveWord t.raw 28) x (horner t.raw 63 0x3F800000#32)
      else
        let u := f32mul (f32sub x (curveWord t.raw 0)) t.w
        let i := if (ofFp32 u).isInf then 63 else min 63 (floorNat (ofFp32 u).mag)
        horner t.raw i (f32sub u (f32ofNat i))
    if flip then f32neg y else y

/-! ### Built-in functions (Table 5-6) -/

/-- ln 2 to 60 decimal places. -/
def ln2 : Rat := 693147180559945309417232121458176568075500134360255254120680 / 10 ^ 60

/-- The square root of 2 / pi to 50 decimal places. -/
def sqrt2OverPi : Rat := 79788456080286535587989211986876373695171726232986 / 10 ^ 50

/-- The sum of q^i / i! for i below n. -/
def expSeries (q : Rat) (n : Nat) : Rat :=
  ((List.range n).foldl (fun (a : Rat × Rat) i => (a.1 + a.2, a.2 * q / (i + 1))) (0, 1)).1

/-- e^q, relative error below 2^-150; 0 below q = -400, where no bound of Table 5-6 sees the difference. -/
def expRat (q : Rat) : Rat :=
  if q < -400 then 0
  else
    let k := (q / ln2).floor
    pow2 k * expSeries (q - k * ln2) 48

/-- The natural logarithm of a positive q: 2 atanh of (m − 1) / (m + 1), plus its exponent. -/
def lnRat (q : Rat) : Rat :=
  let k := floorLog2 q
  let m := q / pow2 k
  let t := (m - 1) / (m + 1)
  k * ln2 + 2 * ((List.range 52).foldl (fun (a : Rat × Rat) i => (a.1 + a.2 / (2 * i + 1), a.2 * t * t)) (0, t)).1

/-- The logistic function. -/
def sigmoidRat (q : Rat) : Rat := if q < 0 then let e := expRat q; e / (1 + e) else 1 / (1 + expRat (-q))

/-- Unit in the last place of FP32 at a magnitude. -/
def ulp32 (q : Rat) : Rat := if q = 0 then pow2 (-149) else pow2 (max (floorLog2 q) (-126) - 23)

/-- The exact function of a slot at a finite argument where Table 5-6 gives a bound, to far more places than the bound. -/
def builtinRat (slot : Nat) (q : Rat) : Rat :=
  match slot with
  | 0 => expRat q
  | 1 => lnRat q
  | 2 => sqrtRat (1 / q)
  | 3 => 1 / q
  | 4 => sigmoidRat q
  | 5 => 2 * sigmoidRat (2 * q) - 1
  | 6 => q * sigmoidRat q
  | _ => q * sigmoidRat (2 * sqrt2OverPi * (q + 44715 / 1000000 * q * q * q))

/-- The error bound of Table 5-6 at argument q and exact value y. -/
def builtinBound (slot : Nat) (q y : Rat) : Rat :=
  match slot with
  | 0 | 1 | 2 | 3 => 2 * ulp32 (if y < 0 then -y else y)
  | 4 => pow2 (-22)
  | 5 => pow2 (-21)
  | _ => pow2 (-22) * max 1 (if q < 0 then -q else q)

/-- A built-in at a finite argument without a special result: the firmware set's own value, which the bound holds; exp
is never negative and underflows to +0. -/
def builtinFinite (fw : List Word32) (slot : Nat) (x : Word32) : Word32 :=
  let q := (ofFp32 x).rat
  let y := builtinRat slot q
  let v := Config.builtinCurve fw slot x
  let d := (ofFp32 v).rat - y
  if (ofFp32 v).isFin && !(slot == 0 && (ofFp32 v).neg) && decide ((if d < 0 then -d else d) ≤ builtinBound slot q y) then v
  else toFp32 (FVal.ofRat (decide (slot ≠ 0 ∧ q < 0)) y)

def posInf32 : Word32 := 0x7F800000#32
def negInf32 : Word32 := 0xFF800000#32
def one32 : Word32 := 0x3F800000#32

/-- A built-in function of slots 0 to 7, as FP32, under a firmware set (Table 5-6). -/
def builtinEval (fw : List Word32) (slot : Nat) (x : Word32) : Word32 :=
  match slot, ofFp32 x with
  | _, .nan _ => 0x7FC00000#32
  | 0, .inf n => if n then 0 else posInf32
  | 0, v => if 887228 / 10000 < v.rat then posInf32 else builtinFinite fw 0 x
  | 1, .inf n => if n then 0x7FC00000#32 else posInf32
  | 1, v => if v.isZero then negInf32 else if v.rat < 0 then 0x7FC00000#32 else builtinFinite fw 1 x
  | 2, .inf n => if n then 0x7FC00000#32 else 0
  | 2, v => if v.isZero then (if v.neg then negInf32 else posInf32) else if v.rat < 0 then 0x7FC00000#32 else builtinFinite fw 2 x
  | 3, .inf n => if n then 0x80000000#32 else 0
  | 3, v => if v.isZero then (if v.neg then negInf32 else posInf32) else builtinFinite fw 3 x
  | 4, .inf n => if n then 0 else one32
  | 5, .inf n => if n then 0xBF800000#32 else one32
  | 6, .inf n => if n then 0x80000000#32 else posInf32
  | 7, .inf n => if n then 0x80000000#32 else posInf32
  | k, _ => builtinFinite fw k x

/-- exp by slot 0 and ln by slot 1, of FP32 arguments (R133, R135). -/
def curveExp (fw : List Word32) (x : Word32) : Word32 := builtinEval fw 0 x
def curveLn (fw : List Word32) (x : Word32) : Word32 := builtinEval fw 1 x

end Sys2Proof.Machine
end

