-- ==== Sys2Proof/Machine/Pools.lean ====
section
/-! DEFINITION. The buffer pool manager (spec/11_buffer_pool_manager.md): pools, handles, grants, quotas, reference
counts, releases, and the writes of its registers. -/

namespace Sys2Proof.Machine

/-! ### Registers (Tables 11-1, 11-3) -/

def Pool.enabled (p : Pool) : Bool := bitOf p.cfg.toNat 31
def Pool.owner (p : Pool) : Nat := fld32 p.cfg 27 24
def Pool.log2 (p : Pool) : Nat := fld32 p.cfg 20 16
/-- Buffers in the pool. -/
def Pool.count (p : Pool) : Nat := fld32 p.cfg 15 0 + 1
/-- Reset value of BPM_QUOTA: limit 65,536. -/
def quotaReset : Word64 := 0x0000000200000000#64
def Pool.quotaOf (p : Pool) (i : Nat) : Word64 := sget quotaReset p.quota i
def Pool.setQuota (p : Pool) (i : Nat) (w : Word64) : Pool := { p with quota := sset quotaReset p.quota i w }
def Pool.held (p : Pool) (i : Nat) : Nat := fld (p.quotaOf i) 50 34
def Pool.limit (p : Pool) (i : Nat) : Nat := fld (p.quotaOf i) 33 17
def Pool.reserve (p : Pool) (i : Nat) : Nat := fld (p.quotaOf i) 16 0

/-- A sum over the 32 identities. -/
def sum32 (f : Nat → Nat) : Nat := (List.range 32).foldl (fun a i => a + f i) 0

/-- Buffers that allocations hold. -/
def Pool.usedCount (p : Pool) : Nat := p.allocs.foldl (fun a b => a + 2 ^ b.spanLog2) 0
def Pool.free (p : Pool) : Nat := p.count - p.usedCount

/-- BPM_POOL_STAT after a change (R282). -/
def Pool.levelled (p : Pool) : Pool :=
  let counted := withFld (withFld p.stat 30 14 p.free) 47 31 (min p.free (fld p.stat 47 31))
  { p with stat := withFld counted 13 0 (min (p.grants / 1000) 16383) }

/-- Counters cleared; free and low_water read the buffers free now (R282). -/
def Pool.cleared (p : Pool) : Pool :=
  { p with stat := withFld (withFld 0 30 14 p.free) 47 31 p.free, fail := 0, grants := 0 }

/-! ### Handles (Table 11-2) -/

def handlePool (h : Word32) : Nat := fld32 h 31 26
def handleSpan (h : Word32) : Nat := fld32 h 25 23
def handleGen (h : Word32) : Nat := fld32 h 22 16
def handleIndex (h : Word32) : Nat := fld32 h 15 0
def makeHandle (pool span gen index : Nat) : Word32 :=
  BitVec.ofNat 32 (pool % 64 * 2 ^ 26 + span % 8 * 2 ^ 23 + gen % 128 * 2 ^ 16 + index % 65536)

def Pool.genOf (p : Pool) (i : Nat) : BitVec 7 := sget 0 p.gens i

/-- The allocation of a live handle (R273). -/
def Pool.live (p : Pool) (h : Word32) : Option Alloc :=
  p.allocs.find? (fun a => a.index == handleIndex h && a.spanLog2 == handleSpan h && (p.genOf a.index).toNat == handleGen h)

/-! ### Grants (R274, R275, R278) -/

/-- The span of a size: log2 of the smallest power of two that is at least ceil(size / buffer). -/
def spanLog2Of (size log2 : Nat) : Nat :=
  let n := (size + 2 ^ log2 - 1) / 2 ^ log2
  if n ≤ 1 then 0 else (n - 1).log2 + 1

/-- Whether buffer i is free. -/
def Pool.isFree (p : Pool) (i : Nat) : Bool := !p.allocs.any (fun a => decide (a.index ≤ i ∧ i < a.index + 2 ^ a.spanLog2))

/-- The lowest aligned free block of a span. -/
def Pool.block (p : Pool) (spanLog2 : Nat) : Option Nat :=
  ((List.range (p.count / 2 ^ spanLog2)).map (· * 2 ^ spanLog2)).find? (fun i =>
    (List.range (2 ^ spanLog2)).all (fun j => p.isFree (i + j)))

/-- Buffers short of the other identities' reserves. -/
def Pool.shortfall (p : Pool) (i : Nat) : Nat := sum32 (fun j => if j = i then 0 else p.reserve j - p.held j)

/-- The checks of a GET, in the order of Table 11-4. -/
def poolGetCheck (s : State) (x pool size req : Nat) : Option Status :=
  let p := s.pool pool
  let sp := spanLog2Of size p.log2
  firstFail [
    (!decide (pool < 64) || !p.enabled || p.owner != x, bpmStatus 1),
    (!decide (1 ≤ size ∧ sp ≤ 4 ∧ req < 32), bpmStatus 2),
    (decide (p.limit req < p.held req + 2 ^ sp), bpmStatus 7),
    (decide (p.free < 2 ^ sp + p.shortfall req), bpmStatus 8),
    ((p.block sp).isNone, bpmStatus 9)]

/-- Refusals that BPM_POOL_FAIL counts (Table 11-7). -/
def Pool.failed (p : Pool) (st : Status) : Pool :=
  let bump (hi lo : Nat) : Pool := { p with fail := bumpFld p.fail hi lo 1 }
  if st = bpmStatus 9 then bump 63 48
  else if st = bpmStatus 7 ∨ st = bpmStatus 8 then bump 47 32
  else if st = bpmStatus 3 ∨ st = bpmStatus 4 ∨ st = bpmStatus 5 then bump 31 16
  else if st = bpmStatus 6 then bump 15 0
  else p

/-- A pool with one more allocation. -/
def Pool.granted (p : Pool) (i spanLog2 req : Nat) : Pool :=
  let w := p.quotaOf req
  Pool.levelled { (p.setQuota req (withFld w 50 34 (fld w 50 34 + 2 ^ spanLog2))) with
    allocs := p.allocs ++ [⟨i, spanLog2, 1, req⟩], grants := p.grants + 1 }

/-- A request to the manager (R274): the handle and VA, or the reason. -/
def State.poolGet (s : State) (x pool size req : Nat) : State × Except Status (Word32 × Nat) :=
  match poolGetCheck s x pool size req with
  | some st => (if pool < 64 then s.modPool pool (fun p => p.failed st) else s, .error st)
  | none =>
    let p := s.pool pool
    let sp := spanLog2Of size p.log2
    match p.block sp with
    | none => (s, .error (bpmStatus 9))
    | some i =>
      (s.setPool pool (p.granted i sp req),
       .ok (makeHandle pool sp (p.genOf i).toNat i, p.base.toNat + i * 2 ^ p.log2))

/-! ### References and release (R279, R280) -/

/-- A pool without an allocation: bits clear, generation advanced, the identity of the grant uncharged. -/
def Pool.released (p : Pool) (a : Alloc) : Pool :=
  let w := p.quotaOf a.requester
  Pool.levelled { (p.setQuota a.requester (withFld w 50 34 (fld w 50 34 - 2 ^ a.spanLog2))) with
    allocs := p.allocs.filter (fun b => b.index != a.index)
    gens := sset 0 p.gens a.index (p.genOf a.index + 1) }

/-- The checks of REF and PUT, in the order of Table 11-4. -/
def poolRefCheck (s : State) (x : Nat) (h : Word32) (n : Nat) (put : Bool) : Option Status :=
  let p := s.pool (handlePool h)
  let cnt := ((p.live h).map (·.refs)).getD 0
  firstFail [
    (!p.enabled || p.owner != x, bpmStatus 1),
    (decide (p.count < handleIndex h + 2 ^ handleSpan h), bpmStatus 3),
    (decide (handleIndex h % 2 ^ handleSpan h ≠ 0), bpmStatus 4),
    ((p.live h).isNone, bpmStatus 5),
    (!decide (1 ≤ n ∧ n ≤ 255) || (if put then decide (cnt < n) else decide (255 < cnt + n)), bpmStatus 6)]

/-- The allocation of a handle with a new count; a count of 0 releases it. -/
def Pool.counted (p : Pool) (a : Alloc) (refs : Nat) : Pool :=
  if refs = 0 then p.released a
  else { p with allocs := p.allocs.map (fun b => if b.index = a.index then { b with refs := refs } else b) }

/-- Adds to or takes from a count, after the checks. -/
def State.poolCount (s : State) (h : Word32) (f : Nat → Nat) : State :=
  s.modPool (handlePool h) (fun p => match p.live h with
    | none => p
    | some a => p.counted a (f a.refs))

/-- A grant given back whole, found by its VA (R195, R279). -/
def State.poolGiveBack (s : State) (pool va : Nat) : State :=
  s.modPool pool (fun p => match p.allocs.find? (fun a => p.base.toNat + a.index * 2 ^ p.log2 == va) with
    | none => p
    | some a => p.released a)

/-! ### The operations (R276) -/

/-- The result record of BUF_GET. -/
def bufRecord (r : Except Status (Word32 × Nat)) : List Byte :=
  match r with
  | .ok v => leFields [(4, v.1.toNat), (2, 0), (2, 0), (8, v.2)]
  | .error st => leFields [(4, 0), (2, st.toNat), (2, 0), (8, 0)]

/-- Answers that a result record carries. -/
def bufAnswered (st : Status) : Bool := st == bpmStatus 7 || st == bpmStatus 8 || st == bpmStatus 9

/-- Bytes stored at a location of data memory or cluster memory. -/
def State.storeDmCm (s : State) (c : Nat) (l : Loc) (bs : List Byte) : State × Outc :=
  if l.kind = .dm then s.storeDm c l.addr bs else (s.cmCommit (clusterOf c) (byteWrites l.addr bs) [], .done)

/-- The check of BUF_GET's result address (R276). -/
def bufAddrCheck (s : State) (c : Nat) (f : BufGetF) : Option Status :=
  firstFail [(!((f.result.kind == .dm || f.result.kind == .cm) && s.inLocal c f.result 16), genRange)]

/-- BUF_GET: the result address first, then the manager's checks; a refusal that the record carries ends done. -/
def State.bufGet (s : State) (c : Nat) (f : BufGetF) : State :=
  let o : Op := .dma (.bufGet f)
  let refuse (t : State) (st : Status) : State := (t.dropEntry c o).opRefused c (queueCode .dma) (s.opEnv c o).pos st
  match bufAddrCheck s c f with
  | some st => refuse s st
  | none =>
    let r := s.poolGet ((s.ctxOfCore c).getD 16) f.pool f.size f.requester
    match r.2 with
    | .error st =>
      if bufAnswered st then let w := r.1.storeDmCm c f.result (bufRecord r.2); w.1.recordOutcome c o w.2
      else refuse r.1 st
    | .ok _ => let w := r.1.storeDmCm c f.result (bufRecord r.2); w.1.recordOutcome c o w.2

def execBufGet (c : CoreId) (f : BufGetF) (s : State) : Host.Outcome State Fault Refusal := .next (s.bufGet c f)

/-- A refused REF or PUT counts in its pool and refuses the operation. -/
def State.bufRefused (s : State) (c : Nat) (o : Op) (h : Word32) (st : Status) : State :=
  (((s.modPool (handlePool h) (fun p => p.failed st)).dropEntry c o).opRefused c (queueCode .dma) (s.opEnv c o).pos st)

def execBufRef (c : CoreId) (f : BufCountF) (s : State) : Host.Outcome State Fault Refusal :=
  let o : Op := .dma (.bufRef f)
  .next (match poolRefCheck s ((s.ctxOfCore c).getD 16) f.handle f.n false with
    | some st => s.bufRefused c o f.handle st
    | none => (s.poolCount f.handle (· + f.n)).recordOutcome c o .done)

def execBufPut (c : CoreId) (f : BufCountF) (s : State) : Host.Outcome State Fault Refusal :=
  let o : Op := .dma (.bufPut f)
  .next (match poolRefCheck s ((s.ctxOfCore c).getD 16) f.handle f.n true with
    | some st => s.bufRefused c o f.handle st
    | none => (s.poolCount f.handle (· - f.n)).recordOutcome c o .done)

/-! ### Configuration (R270, R271, R277) -/

/-- The checks of a set-up, change or removal of a pool; `x` is the context that the request names, and cfg and base are
the registers as they would be. A base beyond 48 bits is refused as R254 has it. -/
def poolSetCheck (s : State) (pool x : Nat) (cfg : Word32) (base : Nat) : Option Status :=
  let p := s.pool pool
  let on := bitOf cfg.toNat 31
  let log2 := fld32 cfg 20 16
  let count := fld32 cfg 15 0 + 1
  let len := count * 2 ^ log2
  firstFail [
    (!decide (pool < 64) || (p.enabled && p.owner != x), bpmStatus 1),
    (!p.allocs.isEmpty, bpmStatus 0x0A),
    (on && !decide (12 ≤ log2 ∧ log2 ≤ 22 ∧ x < 16), genRange),
    (on && decide (base % 65536 ≠ 0 ∨ base % 2 ^ log2 ≠ 0), mapStatus 3),
    (on && decide (2 ^ 48 ≤ base), xptStatus 6),
    (on && !s.rangePinned x base len, mapStatus 2),
    (on && decide (count < sum32 p.reserve), bpmStatus 0x0B)]

/-- A pool with its registers written: enabling clears the counters, disabling resets the quotas. -/
def Pool.configured (p : Pool) (cfg : Word32) (base : Word64) : Pool :=
  let q : Pool := { p with cfg := cfg, base := base }
  if !bitOf cfg.toNat 31 then { q with quota := [] }
  else if p.enabled then q.levelled
  else q.cleared

/-- A write of BPM_POOL_CFG (R14, R270): status and state. -/
def State.writePoolCfg (s : State) (pool : Nat) (v : Word64) : Status × State :=
  let w : Word32 := v.truncate 32
  if fld32 w 30 28 ≠ 0 ∨ fld32 w 23 21 ≠ 0 then (genReserved, s)
  else match poolSetCheck s pool (fld32 w 27 24) w (s.pool pool).base.toNat with
  | some st => (st, s)
  | none => (stDone, s.modPool pool (fun p => p.configured w p.base))

/-- A write of BPM_POOL_BASE: it changes an enabled pool, and leaves the quotas of a disabled one (R270). -/
def State.writePoolBase (s : State) (pool : Nat) (v : Word64) : Status × State :=
  let p := s.pool pool
  if fld v 63 48 ≠ 0 ∨ fld v 15 0 ≠ 0 then (genReserved, s)
  else match poolSetCheck s pool p.owner p.cfg v.toNat with
  | some st => (st, s)
  | none => (stDone, s.modPool pool (fun p => if p.enabled then p.configured p.cfg v else { p with base := v }))

/-- The reserve checks of R277. -/
def quotaCheck (p : Pool) (req limit reserve : Nat) : Option Status :=
  firstFail [
    (!decide (limit ≤ 65536 ∧ reserve ≤ 65536), genRange),
    (decide (limit < reserve) || decide (p.count < sum32 (fun j => if j = req then reserve else p.reserve j)), bpmStatus 0x0B)]

/-- A pool with an identity's limit and reserve written. -/
def Pool.withQuota (p : Pool) (req limit reserve : Nat) : Pool :=
  p.setQuota req (withFld (withFld (p.quotaOf req) 33 17 limit) 16 0 reserve)

/-- A write of BPM_QUOTA: held is RO. -/
def State.writeQuota (s : State) (pool req : Nat) (v : Word64) : Status × State :=
  if fld v 63 51 ≠ 0 then (genReserved, s)
  else match quotaCheck (s.pool pool) req (fld v 33 17) (fld v 16 0) with
  | some st => (st, s)
  | none => (stDone, s.modPool pool (fun p => p.withQuota req (fld v 33 17) (fld v 16 0)))

def execBpmPoolCfgWrite (pool : Fin 64) (value : Word64) (s : State) : Host.Outcome State Fault Refusal :=
  .next (s.writePoolCfg pool value).2
def execBpmPoolBaseWrite (pool : Fin 64) (value : Word64) (s : State) : Host.Outcome State Fault Refusal :=
  .next (s.writePoolBase pool value).2
def execBpmQuotaWrite (pool : Fin 64) (requester : Fin 32) (value : Word64) (s : State) : Host.Outcome State Fault Refusal :=
  .next (s.writeQuota pool requester value).2

/-- A context reset's part in the pools (R271, R282): every allocation of the context's pools released, counters clear. -/
def Pool.allFree (p : Pool) : Pool := (p.allocs.foldl Pool.released p).cleared

def State.freePools (s : State) (x : Nat) : State :=
  (List.range 64).foldl (fun t i =>
    if (t.pool i).enabled ∧ (t.pool i).owner = x then t.modPool i Pool.allFree else t) s

end Sys2Proof.Machine
end

