-- ==== Sys2Proof/Machine/Router.lean ====
section
/-! DEFINITION. The router units (spec/08_expert_routing_and_token_exchange.md): ROUTE, ROUTE_GRAD and VISIT_CLEAR. The exchange
operations stand in Exchange.lean. -/

namespace Sys2Proof.Machine

/-! ### The layer map (R190, R192) -/

/-- The router record of a layer in the program of context x, with its position in section 0x0008. -/
def State.routerRec (s : State) (x : Nat) (layerId : Word32) : Option (Nat × RouterRec) :=
  match (s.ctx x).program with
  | none => none
  | some p => (p.routers.zipIdx.find? (fun z => z.1.layerId == layerId)).map (fun z => (z.2, z.1))

/-- This device's node address (R347); 0 until a topology record is loaded. -/
def State.node (s : State) : Nat := (s.xpt.topo.map (·.node.toNat)).getD 0

def policyDrop : Nat := 0
def policySpill : Nat := 1
def policySecond : Nat := 2
def policyNone : Nat := 3

/-- What stops an operation of the router while it reads and writes context memory. -/
inductive MemStop | fault (kind : Nat) (access : Access) (va : Nat) | poison

/-- Reads context memory by VA; a poisoned descriptor cannot be used (R493). -/
def State.fetchVa (s : State) (x : Nat) (agent : Agent) (va n : Nat) : Except MemStop (State × List Byte) :=
  match s.readVa x agent va n with
  | .error e => .error (.fault e.1 .read e.2)
  | .ok r => if r.2.2 then .error .poison else .ok (r.1, r.2.1)

/-- Writes context memory by VA. -/
def State.putVa (s : State) (x : Nat) (agent : Agent) (va : Nat) (bs : List Byte) : Except MemStop State :=
  match s.writeVa x agent va bs false with
  | .error e => .error (.fault e.1 .write e.2)
  | .ok t => .ok t

/-- Context memory as a check reads it: nothing where it cannot be read. -/
def State.peekVa (s : State) (x : Nat) (agent : Agent) (va n : Nat) : Option (List Byte) :=
  match s.fetchVa x agent va n with
  | .error _ => none
  | .ok r => some r.2

/-- The words of a little-endian table. -/
def words (w : Nat) (bs : List Byte) (n : Nat) : List Nat := (List.range n).map (fun i => leAt bs (w * i) w)

/-- An operation of a router unit, Pocket, engine or transport ends faulted by what stopped it: a resumable translation
fault holds it at the head of its queue (R258). -/
def State.memStop (s : State) (x c : Nat) (o : Op) (agent : Agent) (unit block inst : Nat) (e : MemStop) : State :=
  match e with
  | .fault k a va =>
    let f : TFault := ⟨agent, unit, k, a, va⟩
    let t := s.tfault x f block inst none
    if f.resumable then t.holdEntry c o 0 0x2006#16 else t.recordOutcome c o (.faulted 0x2006#16)
  | .poison =>
    let l : LogArgs := { cls := 2, cause := 0x2007#16, block := block, inst := inst, detail := leBytes 1 (agentCode agent) }
    (s.contained (some x) l).recordOutcome c o (.faulted 0x2007#16)

/-! ### Scoring (R198, R200, Table 8-4) -/

/-- fp32(s + h) of the compensated sum of FP32 values in the order given (R102). -/
def csum (xs : List Word32) : Word32 := toFp32 (pairValue (accRows (xs.map ofFp32)))

/-- The largest of FP32 values. -/
def max32 (xs : List Word32) : Word32 :=
  xs.foldl (fun m v => if (ofFp32 m).lt (ofFp32 v) then v else m) (xs.headD 0)

/-- exp(l - m) / sum of them, by slot 0, over pairs of expert and logit in ascending expert index. -/
def softPairs (fw : List Word32) (lg : List (Nat × Word32)) : List (Nat × Word32) :=
  let m := max32 (lg.map (·.2))
  let es := lg.map (fun p => (p.1, curveExp fw (f32sub p.2 m)))
  let total := csum (es.map (·.2))
  es.map (fun p => (p.1, f32div p.2 total))

/-- The logistic function by slot 4. -/
def sigma32 (fw : List Word32) (l : Word32) : Word32 := builtinEval fw 4 l

/-- Selection scores of the experts with finite logits. -/
def routeScores (fw : List Word32) (fn : Nat) (lg : List (Nat × Word32)) : List (Nat × Word32) :=
  match fn with
  | 0 => softPairs fw lg
  | 1 => lg
  | _ => lg.map (fun p => (p.1, sigma32 fw p.2))

/-- The value of an expert in a list, +0 where it has none. -/
def valueOf (l : List (Nat × Word32)) (e : Nat) : Word32 := ((l.find? (fun p => p.1 == e)).map (·.2)).getD 0

/-- Weights h over the set K, in ascending expert index. -/
def routeWeights (fw : List Word32) (fn : Nat) (lg : List (Nat × Word32)) (k : List Nat) : List (Nat × Word32) :=
  let inK := lg.filter (fun p => k.contains p.1)
  match fn with
  | 0 => (softPairs fw lg).filter (fun p => k.contains p.1)
  | 1 => softPairs fw inK
  | _ =>
    let ss := inK.map (fun p => (p.1, sigma32 fw p.2))
    let total := csum (ss.map (·.2))
    ss.map (fun p => (p.1, f32div p.2 total))

/-- Inserts an expert with its key: larger keys first, equal keys by lower expert (R198). -/
def insertKey (p : Nat × Word32) : List (Nat × Word32) → List (Nat × Word32)
  | [] => [p]
  | q :: r => if (ofFp32 q.2).lt (ofFp32 p.2) then p :: q :: r else q :: insertKey p r

/-- Experts in the order of their keys. -/
def byKey (keys : List (Nat × Word32)) : List Nat := (keys.foldl (fun l p => insertKey p l) []).map (·.1)

/-! ### Ledger flags (Table 8-8) -/

def lfDropped : Nat := 8
def lfSpilled : Nat := 16
def lfQueued : Nat := 32
def lfRound2 : Nat := 64
def lfPool : Nat := 128
def lfLate : Nat := 256
def lfUnfilled : Nat := 512
def lfInvalid : Nat := 1024
def lfPoison : Nat := 2048

/-- A choice: rank, the expert its rank selected, the expert used, slot, ledger flags above the rank, whether it is kept,
its gate, and whether this ROUTE decides it. -/
structure Choice where
  rank : Nat
  first : Nat
  expert : Nat
  slot : Nat
  flags : Nat
  kept : Bool
  gate : Word32
  fresh : Bool
  deriving DecidableEq, Repr

/-- A token of a ROUTE: index in the micro-batch, finite logits, reason it is not routed, candidates, choices. -/
structure Token8 where
  ix : Nat
  logits : List (Nat × Word32)
  unrouted : Nat
  cand : List Nat
  choices : List Choice
  deriving DecidableEq, Repr

/-- The choices of a token that is not routed. -/
def blankChoices (k flags : Nat) : List Choice := (List.range k).map (fun r => ⟨r, 0, 0, 0, flags, false, 0, true⟩)

/-- A row of logits: finite ones by expert, and why the token is not routed (R197). -/
def readLogits (f32 : Bool) (row : List PByte) : List (Nat × Word32) × Nat :=
  let w := if f32 then 4 else 2
  let n := row.length / w
  let els := (List.range n).map (fun e =>
    let b := (row.drop (w * e)).take w
    let v := leNat (b.map (·.1))
    (e, (if f32 then BitVec.ofNat 32 v else BitVec.ofNat 32 (v * 65536) : Word32), b.any (·.2)))
  let clean := els.filter (fun z => !z.2.2)
  let bad := clean.any (fun z => (ofFp32 z.2.1).isNan || ((ofFp32 z.2.1).isInf && !(ofFp32 z.2.1).neg))
  ((clean.filter (fun z => f32finite z.2.1)).map (fun z => (z.1, z.2.1)),
   (if bad then lfInvalid else 0) ||| (if els.any (·.2.2) then lfPoison else 0))

/-- A token of round 1 with its candidates, no slot yet assigned. -/
def newToken (fw : List Word32) (r : RouterRec) (bias : Nat → Word32) (ix : Nat) (row : List (Nat × Word32) × Nat) : Token8 :=
  if row.2 ≠ 0 then ⟨ix, row.1, row.2, [], blankChoices r.topK row.2⟩
  else
    let keys := (routeScores fw r.scoreFn row.1).map (fun p => (p.1, f32add p.2 (bias p.1)))
    let cand := (byKey keys).take (r.topK + r.spillDepth)
    ⟨ix, row.1, 0, cand, (List.range r.topK).map (fun k => match cand[k]? with
      | some e => ⟨k, e, e, 0, 0, false, 0, true⟩
      | none => ⟨k, 0, 0, 0, lfUnfilled, false, 0, true⟩)⟩

/-! ### Capacity (R201 to R203, Table 8-5) -/

/-- Places one choice: the counts of slots assigned so far, and the token with the choice decided. -/
def placeChoice (r : RouterRec) (round : Nat) (counts : Sparse Nat) (t : Token8) (c : Choice) : Sparse Nat × Choice :=
  let full (e : Nat) : Bool := r.policy != policyNone && decide (r.capacity ≤ sget 0 counts e)
  let give (e flags : Nat) : Sparse Nat × Choice :=
    let j := sget 0 counts e
    (sset 0 counts e (j + 1), { c with expert := e, slot := j, kept := true,
                                       flags := flags ||| (if round = 2 then lfRound2 else 0) })
  if !full c.first then give c.first 0
  else if r.policy = policySpill then
    match (t.cand.drop r.topK).find? (fun e => !full e && !(t.choices.any (fun d => d.kept && d.expert == e))) with
    | some e => give e lfSpilled
    | none => (counts, { c with flags := lfDropped })
  else if r.policy = policySecond ∧ round = 1 then (counts, { c with flags := lfQueued })
  else (counts, { c with flags := lfDropped })

/-- The choice of one rank of one token, where it is to be placed. -/
def placeRank (r : RouterRec) (round rank : Nat) (counts : Sparse Nat) (t : Token8) : Sparse Nat × Token8 :=
  match t.choices.find? (fun c => c.rank == rank) with
  | none => (counts, t)
  | some c =>
    if !c.fresh || c.flags &&& (lfUnfilled ||| lfInvalid ||| lfPoison) != 0 then (counts, t)
    else
      let z := placeChoice r round counts t c
      (z.1, { t with choices := t.choices.map (fun d => if d.rank = rank then z.2 else d) })

/-- All choices, rank by rank and within a rank by token (R201). -/
def placeAll (r : RouterRec) (round : Nat) (ts : List Token8) : Sparse Nat × List Token8 :=
  (List.range r.topK).foldl (fun acc rank =>
    acc.2.foldl (fun (z : Sparse Nat × List Token8) t =>
      let y := placeRank r round rank z.1 t
      (y.1, z.2 ++ [y.2])) (acc.1, [])) ([], ts)

/-! ### Run buffers (R205) -/

/-- Tokens of a run in slot order: slots are assigned rank by rank, and within a rank by token (R201). -/
def runTokens (k : Nat) (ts : List Token8) (e : Nat) : List (Nat × Nat) :=
  (List.range k).flatMap (fun rank => ts.flatMap (fun t =>
    (t.choices.filter (fun c => c.rank == rank && c.fresh && c.kept && c.expert == e)).map (fun c => (c.slot, t.ix))))

/-- Bytes of the token list of a run of n rows. -/
def runListBytes (n : Nat) : Nat := (4 * n + 63) / 64 * 64

/-- A run whose buffer was refused loses its choices (flag POOL). -/
def dropRun (ts : List Token8) (e flag : Nat) : List Token8 :=
  ts.map (fun t => { t with choices := t.choices.map (fun c =>
    if c.fresh && c.kept && c.expert == e then { c with kept := false, slot := 0, flags := c.flags ||| lfDropped ||| flag } else c) })

/-- The allocations of the runs in ascending expert index: state, experts with the VA of their buffers, tokens. -/
def State.drawRuns (s : State) (x : Nat) (r : RouterRec) (counts : Sparse Nat) (ts : List Token8) :
    State × List (Nat × Nat) × List Token8 :=
  counts.foldl (fun acc p =>
    let size := runListBytes p.2 + (if r.policy = policyNone then p.2 * r.rowPitch else 0)
    let z := acc.1.poolGet x r.poolId size r.requester
    match z.2 with
    | .ok b => (z.1, acc.2.1 ++ [(p.1, b.2)], acc.2.2)
    | .error _ => (z.1, acc.2.1, dropRun acc.2.2 p.1 lfPool)) (s, [], ts)

/-- The run buffer of an expert, where one was drawn. -/
def bufOf (bufs : List (Nat × Nat)) (e : Nat) : Option Nat := (bufs.find? (fun b => b.1 == e)).map (·.2)

/-- The runs' buffers go back to the pool (R195). -/
def State.releaseRuns (s : State) (pool : Nat) (bufs : List (Nat × Nat)) : State :=
  bufs.foldl (fun t b => t.poolGiveBack pool b.2) s

/-! ### Gate weights (R200, R204) -/

/-- The set K of a token, in ascending expert index. -/
def Token8.set (t : Token8) : List Nat :=
  let es := (t.choices.filter (fun c => c.flags &&& (lfUnfilled ||| lfInvalid ||| lfPoison) == 0)).map (·.expert)
  (t.logits.map (·.1)).filter (fun e => es.contains e)

/-- Experts of the kept choices. -/
def Token8.keptSet (t : Token8) : List Nat := (t.choices.filter (·.kept)).map (·.expert)

/-- Gate weights over K before renorm. -/
def gates (fw : List Word32) (r : RouterRec) (t : Token8) : List (Nat × Word32) :=
  (routeWeights fw r.scoreFn t.logits t.set).map (fun p => (p.1, f32mul r.routeScale p.2))

/-- G_K and G_kept. -/
def gateSums (t : Token8) (g : List (Nat × Word32)) : Word32 × Word32 :=
  (csum (g.map (·.2)), csum ((g.filter (fun p => t.keptSet.contains p.1)).map (·.2)))

/-- The gates of the choices of a token. -/
def gated (fw : List Word32) (r : RouterRec) (t : Token8) : Token8 :=
  let g := gates fw r t
  let z := gateSums t g
  { t with choices := t.choices.map (fun c =>
      if !c.kept then { c with gate := 0 }
      else
        let w := valueOf g c.expert
        { c with gate := if r.renorm then f32div (f32mul w z.1) z.2 else w }) }

/-! ### Outputs (R206 to R208) -/

/-- Owner node of an expert by the expert map (R190). -/
def ownerNode (map : List Nat) (e : Nat) : Nat := map.getD e 0 % 65536

/-- A ledger entry (Table 8-7). -/
def ledgerEntry (node : Nat) (r : RouterRec) (map : List Nat) (src : Nat) (t : Token8) (c : Choice) : List Byte :=
  let named := c.flags &&& (lfUnfilled ||| lfInvalid ||| lfPoison) == 0
  let e := if named then c.expert else 0
  let dest := if named then ownerNode map e else 0
  let slot := if !c.kept then 0 else if r.policy = policyNone then c.slot else src * r.capacity + c.slot
  leFields [(4, node * 65536 + t.ix), (4, c.gate.toNat),
    (8, e % 4096 + dest * 2 ^ 12 + slot % 2 ^ 20 * 2 ^ 28 + (c.flags ||| c.rank) * 2 ^ 48)]

/-- A combine-map entry of a choice (R207). -/
def combineEntry (r : RouterRec) (counts : Sparse Nat) (bufs : List (Nat × Nat)) (c : Choice) : List Byte :=
  let row := if !c.kept then r.zeroRow
    else if r.policy = policyNone then
      (bufOf bufs c.expert).getD 0 + runListBytes (sget 0 counts c.expert) + c.slot * r.rowPitch
    else r.combRegion + (c.expert * r.capacity + c.slot) * r.rowPitch
  leFields [(8, row), (4, c.gate.toNat), (2, c.flags ||| c.rank), (2, 0)]

/-- The combine-map entries of the shawl experts of token number i. -/
def shawlEntries (r : RouterRec) (i : Nat) : List Byte :=
  (List.range r.nShawl).flatMap (fun k =>
    leFields [(8, r.shawlRegion + k * r.shawlStride + i * r.rowPitch), (4, r.shawlScale.toNat), (2, 0), (2, 0)])

/-- The 64-byte header of an exchange record (R208): its fields in the order of the rule (log entry 20); the state word
of a finished ROUTE is its round in bits [3:0]. -/
def xrecHeader (f : RouteF) : List Byte :=
  leFields [(4, f.layerId.toNat), (2, f.srcIndex), (2, f.round), (4, f.t), (4, f.tokenBase), (8, f.act), (4, f.round),
    (36, 0)]

/-- An entry of the exchange record. -/
def xrecEntry (ts : List Token8) (bufs : List (Nat × Nat)) (counts : Sparse Nat) (e : Nat) : List Byte :=
  let routed := (ts.map (fun t => (t.choices.filter (fun c =>
    c.fresh && c.first == e && c.flags &&& (lfUnfilled ||| lfInvalid ||| lfPoison) == 0)).length)).foldl (· + ·) 0
  let buf := bufOf bufs e
  leFields [(4, routed), (4, if buf.isNone then 0 else sget 0 counts e), (8, buf.getD 0)]

/-- The writes of a ROUTE: VA and bytes. Round 2 rewrites the entries of the choices that it decides, and with renorm the
weights of the other kept choices (R204, R206). -/
def routeWrites (node : Nat) (r : RouterRec) (f : RouteF) (map : List Nat) (counts : Sparse Nat)
    (bufs : List (Nat × Nat)) (ts : List Token8) : List (Nat × List Byte) :=
  let cmap (t : Token8) : Nat := f.combine + 16 * (t.ix - f.tokenBase) * (r.topK + r.nShawl)
  let lmap (t : Token8) : Nat := f.ledger + 16 * (t.ix - f.tokenBase) * r.topK
  let entries := ts.flatMap (fun t => t.choices.flatMap (fun c =>
    if c.fresh then
      [(lmap t + 16 * c.rank, ledgerEntry node r map f.srcIndex t c), (cmap t + 16 * c.rank, combineEntry r counts bufs c)]
    else if c.kept && r.renorm then
      [(lmap t + 16 * c.rank + 4, leBytes 4 c.gate.toNat), (cmap t + 16 * c.rank + 8, leBytes 4 c.gate.toNat)]
    else []))
  let shawl := if f.round = 1 ∧ r.nShawl ≠ 0 then
      ts.map (fun t => (cmap t + 16 * r.topK, shawlEntries r (t.ix - f.tokenBase))) else []
  let lists := bufs.map (fun b =>
    (b.2, (runTokens r.topK ts b.1).flatMap (fun z => leBytes 4 (node * 65536 + z.2))))
  entries ++ shawl ++ lists ++
    [(f.xrec, xrecHeader f ++ (List.range r.nExperts).flatMap (xrecEntry ts bufs counts))]

/-- Writes one after the other. -/
def State.putAll (s : State) (x : Nat) (agent : Agent) (ws : List (Nat × List Byte)) : Except MemStop State :=
  ws.foldl (fun acc w => match acc with | .error e => .error e | .ok t => t.putVa x agent w.1 w.2) (.ok s)

/-! ### Counters (R209) -/

/-- Choices of this ROUTE that pass a test. -/
def countChoices (ts : List Token8) (p : Choice → Bool) : Nat :=
  (ts.map (fun t => (t.choices.filter (fun c => c.fresh && p c)).length)).foldl (· + ·) 0

/-- The ROUTEs remembered for late drops: the last one of each exchange record, layer and round. -/
def keepRoute (l : List (Nat × RouteF)) (x : Nat) (f : RouteF) : List (Nat × RouteF) :=
  (x, f) :: l.filter (fun p => !(p.1 == x && p.2.layerId == f.layerId && p.2.xrec == f.xrec && p.2.round == f.round))

/-- The totals of a ROUTE that ended done. -/
def Cluster.routed (u : Cluster) (f : RouteF) (ts : List Token8) : Cluster :=
  let named (c : Choice) : Bool := c.flags &&& (lfUnfilled ||| lfInvalid ||| lfPoison) == 0
  let first (n : Nat) : Nat := if f.round = 1 then n else 0
  { u with
    rtrChoice := bumpFld (bumpFld u.rtrChoice 63 32 (countChoices ts (·.kept))) 31 0 (first (countChoices ts named))
    rtrLoss := bumpFld (bumpFld u.rtrLoss 63 32 (countChoices ts (fun c => c.flags &&& lfDropped != 0))) 31 0
      (countChoices ts (fun c => c.kept && c.flags &&& lfSpilled != 0))
    rtrAux := bumpFld (bumpFld u.rtrAux 63 32 (countChoices ts (fun c => c.flags &&& lfPool != 0))) 31 0
      (countChoices ts (fun c => c.flags &&& lfQueued != 0))
    rtrToken := bumpFld u.rtrToken 31 0 (first (ts.filter (fun t => t.unrouted != 0)).length) }

/-! ### ROUTE (R193 to R209) -/

/-- Whether a format code is FP32 (true), BF16 (false) or neither. -/
def logitFormat (code : Byte) : Option Bool :=
  match fmtOf code with
  | none => none
  | some f => if f.scale = .none ∧ f.elem = .flt fp32 then some true
              else if f.scale = .none ∧ f.elem = .flt bf16 then some false else none

/-- Whether a logits operand of t rows fails check 3 of Table 8-3. -/
def State.logitsBad (s : State) (c : Nat) (l : Loc) (format : Byte) (pitch t e : Nat) : Bool :=
  match logitFormat format with
  | none => true
  | some w =>
    let n := (t - 1) * pitch + e * (if w then 4 else 2)
    l.addr % 64 != 0 || pitch % 64 != 0 || (match l.kind with
      | .cm => !s.inLocal c l n
      | .va => decide (2 ^ 48 < l.addr + n)
      | _ => true)

/-- Whether a VA range is unaligned or leaves the 48-bit space. -/
def vaBad (va n : Nat) : Bool := va % 64 != 0 || decide (2 ^ 48 < va + n)

/-- Whether the exchange record holds a finished round 1 of the same layer, source and token range. One that cannot be read
stops the ROUTE after its checks (R195, R493). -/
def State.roundOneDone (s : State) (x : Nat) (f : RouteF) : Bool :=
  match s.peekVa x .routeOp f.xrec 64 with
  | none => true
  | some h => (h.take 16 == (xrecHeader { f with round := 1 }).take 16) && leAt h 24 4 % 16 == 1

/-- The bias of an expert from the table's bytes; 0 without a table. -/
def biasWord (bs : List Byte) (e : Nat) : Word32 := BitVec.ofNat 32 (leAt bs (4 * e) 4)

def State.biasBad (s : State) (x : Nat) (r : RouterRec) : Bool :=
  r.bias != 0 && (match s.peekVa x .routeOp r.bias (4 * r.nExperts) with
    | none => false
    | some bs => (List.range r.nExperts).any (fun e => !f32finite (biasWord bs e)))

/-- The checks of Table 8-3. -/
def routeCheck (s : State) (c : Nat) (f : RouteF) : Option Status :=
  let x := (s.ctxOfCore c).getD 16
  match s.routerRec x f.layerId with
  | none => some (rtrStatus 1)
  | some (_, r) => firstFail [
      (!decide (1 ≤ f.t ∧ f.t ≤ 65536 ∧ f.tokenBase + f.t ≤ 65536 ∧ f.srcIndex < r.nSources) ||
        !(f.round == 1 || (f.round == 2 && r.policy == policySecond)), rtrStatus 2),
      (s.logitsBad c f.logits f.format f.pitch f.t r.nExperts || vaBad f.act (f.t * r.rowPitch) ||
        vaBad f.ledger (16 * f.t * r.topK) || vaBad f.combine (16 * f.t * (r.topK + r.nShawl)) ||
        vaBad f.xrec (64 + 16 * r.nExperts), rtrStatus 3),
      (f.round == 2 && !s.roundOneDone x f, rtrStatus 4),
      (s.biasBad x r, rtrStatus 5)]

/-- Rows of logits, one for each token. -/
def State.logitRows (s : State) (x c : Nat) (l : Loc) (w : Bool) (pitch e : Nat) (is : List Nat) :
    Except MemStop (State × List (List (Nat × Word32) × Nat)) :=
  is.foldl (fun acc i => match acc with
    | .error z => .error z
    | .ok a => match a.1.readLoc x c .routeOp ⟨l.kind, l.addr + i * pitch⟩ (e * (if w then 4 else 2)) with
      | .error z => .error (.fault z.1 .read z.2)
      | .ok b => .ok (b.1, a.2 ++ [readLogits w b.2])) (.ok (s, []))

/-- The choices of a token as its ledger entries hold them. -/
def ledgerChoices (k : Nat) (bs : List Byte) : List Choice :=
  (List.range k).map (fun r =>
    let q := leAt bs (16 * r + 8) 8
    let fl := bitsOf q 63 51 * 8
    let e := bitsOf q 11 0
    let queued := fl &&& lfQueued != 0
    ⟨r, e, e, bitsOf q 47 28, if queued then 0 else fl,
      fl &&& (lfDropped ||| lfQueued ||| lfUnfilled ||| lfInvalid ||| lfPoison) == 0,
      BitVec.ofNat 32 (leAt bs (16 * r + 4) 4), queued⟩)

/-- A token of round 2. -/
def oldToken (k : Nat) (ix : Nat) (row : List (Nat × Word32) × Nat) (bs : List Byte) : Token8 :=
  ⟨ix, row.1, 0, [], ledgerChoices k bs⟩

/-- The inputs of a ROUTE: state, expert map, tokens before any slot is assigned. -/
def State.routeInputs (s : State) (x c : Nat) (r : RouterRec) (f : RouteF) : Except MemStop (State × List Nat × List Token8) := do
  let w := (logitFormat f.format).getD true
  let h ← if f.round = 2 then s.fetchVa x .routeOp f.xrec 64 else .ok (s, [])
  let m ← h.1.fetchVa x .routeOp r.expertMap (4 * r.nExperts)
  let b ← if r.bias = 0 then .ok (m.1, []) else m.1.fetchVa x .routeOp r.bias (4 * r.nExperts)
  let bias (e : Nat) : Word32 := if r.bias = 0 then 0 else biasWord b.2 e
  let rows ← b.1.logitRows x c f.logits w f.pitch r.nExperts (List.range f.t)
  if f.round = 1 then
    .ok (rows.1, words 4 m.2 r.nExperts, rows.2.zipIdx.map (fun p => newToken s.firmwareSet r bias (f.tokenBase + p.2) p.1))
  else
    let l ← rows.1.fetchVa x .routeOp f.ledger (16 * r.topK * f.t)
    .ok (l.1, words 4 m.2 r.nExperts, rows.2.zipIdx.map (fun p =>
      oldToken r.topK (f.tokenBase + p.2) p.1 (sliceBytes l.2 (16 * r.topK * p.2) (16 * r.topK))))

/-- ROUTE after its checks. A fault gives every run buffer back and counts nothing (R195). -/
def State.route (s : State) (x c : Nat) (r : RouterRec) (f : RouteF) : State :=
  let o : Op := .dma (.route f)
  let k := clusterOf c
  match s.routeInputs x c r f with
  | .error e => s.memStop x c o .routeOp k 0x02 k e
  | .ok (s1, map, ts0) =>
    let placed := placeAll r f.round ts0
    let drawn := s1.drawRuns x r placed.1 placed.2
    let ts := drawn.2.2.map (gated s.firmwareSet r)
    match drawn.1.putAll x .routeOp (routeWrites s.node r f map placed.1 drawn.2.1 ts) with
    | .error e => (drawn.1.releaseRuns r.poolId drawn.2.1).memStop x c o .routeOp k 0x02 k e
    | .ok t => (t.modCluster k (fun u => { u.routed f ts with routes := keepRoute u.routes x f })).recordOutcome c o .done

/-- Whether an operation in flight is one that the router unit runs one at a time. -/
def routesNow (o : Op) : Bool := match o with | .dma (.route _) | .dma (.routeGrad _) => true | _ => false

/-- The operations that have arrived at the router unit of cluster k and have not ended, first come first (R193). -/
def State.atRouter (s : State) (k : Nat) : List (Nat × Nat) :=
  (s.cluster k).rtrPending.filter (fun p => (s.core p.1).dmaF.any (fun e => e.pos == p.2 && e.result.isNone && routesNow e.op))

/-- Whether the router unit runs operation o of core c now: none that arrived before it has yet to end. -/
def State.routerTurn (s : State) (c : Nat) (o : Op) : Bool :=
  match (s.core c).entryOf o with
  | none => true
  | some e => ((s.atRouter (clusterOf c)).takeWhile (fun p => p != (c, e.pos))).isEmpty || !(s.atRouter (clusterOf c)).contains (c, e.pos)

/-- ROUTE. -/
def execRoute (c : CoreId) (f : RouteF) (s : State) : Host.Outcome State Fault Refusal :=
  let o : Op := .dma (.route f)
  .next (if !s.routerTurn c o then s else match routeCheck s c f with
    | some st => (s.dropEntry c o).opRefused c (queueCode .dma) (s.opEnv c o).pos st
    | none => match s.ctxOfCore c with
      | none => s
      | some x => match s.routerRec x f.layerId with
        | none => s
        | some z => s.route x c z.2 f)

/-! ### ROUTE_GRAD (R217) -/

/-- The gradient of the gate weight of expert e of the set K. -/
def dgOf (dgs : List Word32) (t : Token8) (e : Nat) : Word32 :=
  match t.choices.find? (fun c => c.expert == e && c.flags &&& (lfUnfilled ||| lfInvalid ||| lfPoison) == 0) with
  | none => 0
  | some c => dgs.getD c.rank 0

/-- The derivatives dh over K. -/
def gradWeights (fw : List Word32) (r : RouterRec) (t : Token8) (dgs : List Word32) : List (Nat × Word32) :=
  let h' := gates fw r t
  if r.renorm && t.choices.any (·.kept) then
    let z := gateSums t h'
    let kept := t.keptSet
    let q := csum ((h'.filter (fun p => kept.contains p.1)).map (fun p => f32mul (dgOf dgs t p.1) p.2))
    let ratio := f32div z.1 z.2
    let base := f32div q z.2
    h'.map (fun p => (p.1, if kept.contains p.1 then
      f32sub (f32add base (f32mul ratio (dgOf dgs t p.1))) (f32div (f32mul q ratio) z.2) else base))
  else h'.map (fun p => (p.1, dgOf dgs t p.1))

/-- The gradient of one token's logits. -/
def gradRow (fw : List Word32) (r : RouterRec) (t : Token8) (dgs : List Word32) : List Word32 :=
  if t.unrouted ≠ 0 then List.replicate r.nExperts nan32
  else
    let b := routeWeights fw r.scoreFn t.logits t.set
    let db := (gradWeights fw r t dgs).map (fun p => (p.1, f32mul r.routeScale p.2))
    let a := csum (b.map (fun p => f32mul p.2 (valueOf db p.1)))
    let diff (e : Nat) : Word32 := f32sub (valueOf db e) a
    let p := softPairs fw t.logits
    let total := csum ((t.logits.filter (fun z => t.set.contains z.1)).map (fun z => sigma32 fw z.2))
    (List.range r.nExperts).map (fun e =>
      match r.scoreFn with
      | 0 => if t.logits.any (fun z => z.1 == e) then f32mul (valueOf p e) (diff e) else 0
      | 1 => if t.set.contains e then f32mul (valueOf b e) (diff e) else 0
      | _ => if t.set.contains e then
          let sg := sigma32 fw (valueOf t.logits e)
          f32mul (f32mul (f32div (diff e) total) sg) (f32sub 0x3F800000#32 sg) else 0)

/-- The checks of ROUTE_GRAD, in the order of Table 8-3. -/
def routeGradCheck (s : State) (c : Nat) (f : RouteGradF) : Option Status :=
  let x := (s.ctxOfCore c).getD 16
  match s.routerRec x f.layerId with
  | none => some (rtrStatus 1)
  | some (_, r) => firstFail [
      (!decide (1 ≤ f.t ∧ f.t ≤ 65536 ∧ f.tokenBase + f.t ≤ 65536), rtrStatus 2),
      (s.logitsBad c f.logits f.format f.pitch f.t r.nExperts || vaBad f.ledger (16 * f.t * r.topK) ||
        vaBad f.dg (4 * f.t * r.topK) || vaBad f.dlogits (4 * f.t * r.nExperts), rtrStatus 3)]

/-- The token of a ledger, not routed where the ledger or the logits say so. -/
def gradToken (r : RouterRec) (ix : Nat) (row : List (Nat × Word32) × Nat) (bs : List Byte) : Token8 :=
  let t := oldToken r.topK ix row bs
  { t with unrouted := row.2 ||| (t.choices.foldl (fun a c => a ||| (c.flags &&& (lfInvalid ||| lfPoison))) 0) }

/-- ROUTE_GRAD after its checks. -/
def State.routeGrad (s : State) (x c : Nat) (r : RouterRec) (f : RouteGradF) : Except MemStop State := do
  let w := (logitFormat f.format).getD true
  let rows ← s.logitRows x c f.logits w f.pitch r.nExperts (List.range f.t)
  let l ← rows.1.fetchVa x .routeOp f.ledger (16 * r.topK * f.t)
  let g ← l.1.fetchVa x .routeOp f.dg (4 * r.topK * f.t)
  let out := rows.2.zipIdx.flatMap (fun p =>
    let t := gradToken r (f.tokenBase + p.2) p.1 (sliceBytes l.2 (16 * r.topK * p.2) (16 * r.topK))
    let dgs := (List.range r.topK).map (fun k => (BitVec.ofNat 32 (leAt g.2 (4 * (r.topK * p.2 + k)) 4) : Word32))
    (gradRow s.firmwareSet r t dgs).flatMap (fun v => leBytes 4 v.toNat))
  g.1.putVa x .routeOp f.dlogits out

def execRouteGrad (c : CoreId) (f : RouteGradF) (s : State) : Host.Outcome State Fault Refusal :=
  let o : Op := .dma (.routeGrad f)
  let k := clusterOf c
  .next (if !s.routerTurn c o then s else match routeGradCheck s c f with
    | some st => (s.dropEntry c o).opRefused c (queueCode .dma) (s.opEnv c o).pos st
    | none => match s.ctxOfCore c with
      | none => s
      | some x => match s.routerRec x f.layerId with
        | none => s
        | some z => match s.routeGrad x c z.2 f with
          | .error e => s.memStop x c o .routeOp k 0x02 k e
          | .ok t => t.recordOutcome c o .done)

/-! ### VISIT_CLEAR (R219) -/

def visitClearCheck (s : State) (c : Nat) (layerId : Word32) : Option Status :=
  firstFail [((s.routerRec ((s.ctxOfCore c).getD 16) layerId).isNone, rtrStatus 1)]

/-- VISIT_CLEAR sets the layer's visit_array to 0. -/
def execVisitClear (c : CoreId) (layerId : Word32) (s : State) : Host.Outcome State Fault Refusal :=
  let o : Op := .dma (.visitClear layerId)
  let k := clusterOf c
  .next (match visitClearCheck s c layerId with
    | some st => (s.dropEntry c o).opRefused c (queueCode .dma) (s.opEnv c o).pos st
    | none => match s.ctxOfCore c with
      | none => s
      | some x => match s.routerRec x layerId with
        | none => s
        | some z => match s.putVa x .exchange z.2.visitArray (List.replicate (4 * z.2.nLocal) 0) with
          | .error e => s.memStop x c o .exchange k 0x02 k e
          | .ok t => t.recordOutcome c o .done)

end Sys2Proof.Machine
end

