-- ==== Sys2Proof/Machine/Shards.lean ====
section
/-! DEFINITION. Shards (spec/12_training_state_and_updates.md): shard records and their checks (R287), the
geometry of chunks (R286), the component layout, the journal words (R299) and the epoch record (R312). -/

namespace Sys2Proof.Machine

/-! ### Shard records (Table 12-2) -/

/-- Eight 6-byte numbers. -/
def six (bs : List Byte) (off : Nat) : List Nat := (List.range 8).map (fun i => leAt bs (off + 6 * i) 6)

/-- A record of 256 bytes. -/
def parseShard (bs : List Byte) : ShardRec :=
  { tensorId := BitVec.ofNat 32 (leAt bs 0 4), kind := leAt bs 4 1, algorithm := leAt bs 5 1,
    workFormat := BitVec.ofNat 8 (leAt bs 6 1), gradFormat := BitVec.ofNat 8 (leAt bs 7 1), tier := leAt bs 8 1,
    rank := leAt bs 9 1, expert := leAt bs 10 2, epoch := BitVec.ofNat 32 (leAt bs 12 4), dims := six bs 16,
    offsets := six bs 64, extents := six bs 112, stateAddr := leAt bs 160 8, momAddr := leAt bs 168 8,
    farAddr := leAt bs 176 8, journalAddr := leAt bs 184 8, visitAddr := leAt bs 192 8 }

def extProduct (l : List Nat) : Nat := l.foldl (· * ·) 1

/-- The leading dimensions, rows and columns of a shard: a rank-1 tensor is one row (R286). -/
def ShardRec.lead (r : ShardRec) : List Nat := if r.rank = 1 then [] else r.extents.take (r.rank - 2)
def ShardRec.rows (r : ShardRec) : Nat := if r.rank = 1 then 1 else r.extents.getD (r.rank - 2) 1
def ShardRec.cols (r : ShardRec) : Nat := r.extents.getD (r.rank - 1) 1

/-- Chunks of a shard: 128 x 128 super-tiles, slice after slice (R286). -/
def ShardRec.chunkCount (r : ShardRec) : Nat := extProduct r.lead * ceilDiv r.rows 128 * ceilDiv r.cols 128

/-- A chunk: slice number, super-tile row and column, unpadded rows and columns. -/
structure ChunkPos where
  slice : Nat
  p : Nat
  q : Nat
  nr : Nat
  nc : Nat
  deriving DecidableEq, Repr

/-- Chunk n in storage order. -/
def ShardRec.chunk (r : ShardRec) (n : Nat) : ChunkPos :=
  let ps := ceilDiv r.rows 128
  let qs := ceilDiv r.cols 128
  let p := n / qs % ps
  let q := n % qs
  ⟨n / (ps * qs), p, q, min 128 (r.rows - 128 * p), min 128 (r.cols - 128 * q)⟩

/-- Coordinates of a slice in the leading dimensions. -/
def sliceCoords : List Nat → Nat → List Nat
  | [], _ => []
  | _ :: r, n => (n / extProduct r) :: sliceCoords r (n % extProduct r)

/-- The logical index in the full tensor of element (i, j) of a chunk (R46). -/
def ShardRec.index (r : ShardRec) (k : ChunkPos) (i j : Nat) : Nat :=
  let loc := if r.rank = 1 then [128 * k.q + j] else sliceCoords r.lead k.slice ++ [128 * k.p + i, 128 * k.q + j]
  ((loc.zip r.offsets).zip r.dims).foldl (fun a z => a * z.2 + z.1.1 + z.1.2) 0

/-! ### Components in memory (Table 12-1; the order and the scale planes: log entry 21) -/

/-- A component: base, bytes of an element, bytes of a chunk, and its scale plane where it is an MS tensor. -/
structure Comp where
  base : Nat
  size : Nat
  chunk : Nat
  scales : Option Nat
  deriving DecidableEq, Repr

/-- Bytes that a component of n chunks occupies, its scale plane padded to 64 bytes. -/
def compBytes (size n : Nat) (ms : Bool) : Nat := 16384 * size * n + (if ms then (16 * n + 63) / 64 * 64 else 0)

/-- A component of n chunks at an address. -/
def compAt (base size n : Nat) (ms : Bool) : Comp :=
  ⟨base, size, 16384 * size, if ms then some (base + 16384 * size * n) else none⟩

def formatIsMs8 (code : Byte) : Bool := code == 0x10#8 || code == 0x11#8
def formatIsMs (code : Byte) : Bool := match fmtOf code with | some f => f.scale == .ms | none => false
def formatBytes (code : Byte) : Nat := match fmtOf code with | some f => f.bits / 8 | none => 1

def ShardRec.master (r : ShardRec) : Comp := compAt r.stateAddr 4 r.chunkCount false
def ShardRec.gradient (r : ShardRec) : Comp := compAt (r.stateAddr + compBytes 4 r.chunkCount false) 1 r.chunkCount true
def ShardRec.errorTerm (r : ShardRec) : Comp :=
  compAt (r.gradient.base + compBytes 1 r.chunkCount true) 2 r.chunkCount false
def ShardRec.working (r : ShardRec) : Comp :=
  if r.kind = 0 then compAt r.stateAddr (formatBytes r.workFormat) r.chunkCount (formatIsMs r.workFormat)
  else compAt (r.errorTerm.base + compBytes 2 r.chunkCount false) (formatBytes r.workFormat) r.chunkCount
    (formatIsMs r.workFormat)

/-- Bytes of the state block. -/
def ShardRec.stateBytes (r : ShardRec) : Nat :=
  r.working.base + compBytes (formatBytes r.workFormat) r.chunkCount (formatIsMs r.workFormat) - r.stateAddr

/-- The first moment in a slot, and what follows it. -/
def ShardRec.moment1 (r : ShardRec) (slot : Nat) : Comp := compAt slot 2 r.chunkCount false
def ShardRec.moment2 (r : ShardRec) (slot : Nat) : Comp := compAt (slot + compBytes 2 r.chunkCount false) 4 r.chunkCount false

/-- Address of the factored moments of chunk n: 128 row values, then 128 column values. -/
def ShardRec.factored (r : ShardRec) (slot n : Nat) : Nat := slot + compBytes 2 r.chunkCount false + 1024 * n

/-- Bytes of the moments of a shard. -/
def ShardRec.momBytes (r : ShardRec) : Nat :=
  compBytes 2 r.chunkCount false + (match r.algorithm with
    | 0 => compBytes 4 r.chunkCount false
    | 1 => 1024 * r.chunkCount
    | _ => 0)

/-! ### Checks of the shard table (R287) -/

/-- Whether a range lies in a buffer of placement 2. -/
def inPinned (bufs : List BufferRec) (a n : Nat) : Bool :=
  bufs.any (fun b => b.placement == 2 && decide (b.place ≤ a ∧ a + n ≤ b.place + b.size))

/-- The tensor fields of a record. -/
def ShardRec.tensorOk (r : ShardRec) : Bool :=
  let fmtOk (code : Byte) : Bool := code == 0x10#8 || code == 0x11#8
  decide (r.algorithm ≤ 2 ∧ r.tier ≤ 1 ∧ 1 ≤ r.rank ∧ r.rank ≤ 8 ∧ (r.expert ≤ 4095 ∨ r.expert = 0xFFFF)) &&
  (fmtOk r.workFormat || r.workFormat == 0x02#8) && fmtOk r.gradFormat &&
  (r.dims.drop r.rank).all (· == 0) &&
  (List.range r.rank).all (fun d =>
    decide (1 ≤ r.extents.getD d 0 ∧ r.offsets.getD d 0 + r.extents.getD d 0 ≤ r.dims.getD d 0)) &&
  decide (extProduct (r.extents.take r.rank) ≤ 2 ^ 28 ∧ extProduct (r.dims.take r.rank) ≤ 2 ^ 44) &&
  (List.range r.rank).all (fun d => decide (d + 2 < r.rank) ||
    (r.offsets.getD d 0 % 128 == 0 &&
      (r.extents.getD d 0 % 128 == 0 || r.offsets.getD d 0 + r.extents.getD d 0 == r.dims.getD d 0)))

/-- Whether a range maps to far pages only. -/
def State.isFarRange (s : State) (x va n : Nat) : Bool :=
  match s.translateRange x .bulkDma .read va n with
  | .error _ => false
  | .ok ps => ps.all (fun p => paRegion p.1 == .far)

/-- Whether a field that a kind of record does not use names no place outside pinned memory: it is 0, or the address of n bytes in
a buffer of placement 2 (R287). -/
def spareAddr (bufs : List BufferRec) (a n : Nat) : Bool := a == 0 || inPinned bufs a n

/-- One record of a table whose epoch and slot size are given. Every address lies in a buffer of placement 2, far_addr in a far
mapping; 0 is no address where a kind has no use for the field (DEDUCED, log entry 21). -/
def State.shardOk (s : State) (x : Nat) (bufs : List BufferRec) (epoch : Word32) (slot : Nat) (r : ShardRec) (rsv : Bool) : Bool :=
  r.epoch == epoch && rsv && (match r.kind with
    | 0 => r.tensorOk && inPinned bufs r.stateAddr r.stateBytes && r.momAddr == 0 && r.farAddr == 0 &&
        r.journalAddr == 0 && spareAddr bufs r.visitAddr 4
    | 1 => r.tensorOk && inPinned bufs r.stateAddr r.stateBytes && inPinned bufs r.momAddr slot &&
        decide (r.momBytes ≤ slot) &&
        (if r.tier = 0 then r.farAddr == 0
         else s.isFarRange x r.farAddr (compBytes 4 r.chunkCount false + r.momBytes)) &&
        r.journalAddr % 65536 == 0 && inPinned bufs r.journalAddr 102400 &&
        spareAddr bufs r.visitAddr 4
    | 2 => inPinned bufs r.momAddr slot && spareAddr bufs r.stateAddr 1 && spareAddr bufs r.journalAddr 1 &&
        spareAddr bufs r.visitAddr 4 && (r.farAddr == 0 || s.isFarRange x r.farAddr 1)
    | 3 => inPinned bufs r.stateAddr 64 && spareAddr bufs r.journalAddr 1 && spareAddr bufs r.visitAddr 4 &&
        (r.farAddr == 0 || s.isFarRange x r.farAddr 1)
    | _ => false)

/-- The job record of a table. -/
def jobRecord (rs : List ShardRec) : Option ShardRec := rs.find? (fun r => r.kind == 3)

/-- A table of records: exactly one job record, every record sound. `raw` holds the records' bytes, or nothing where they
were checked before. -/
def State.shardTableOk (s : State) (x : Nat) (bufs : List BufferRec) (epoch : Word32) (rs : List (ShardRec × Bool)) : Bool :=
  match jobRecord (rs.map (·.1)) with
  | none => false
  | some j =>
    decide ((rs.filter (fun r => r.1.kind == 3)).length = 1) &&
    rs.all (fun r => s.shardOk x bufs epoch j.momAddr r.1 r.2)

/-- The records of a section's bytes, each with whether its reserved bytes are 0. -/
def parseShards (bs : List Byte) : List (ShardRec × Bool) :=
  (List.range (bs.length / 256)).map (fun i =>
    let b := sliceBytes bs (256 * i) 256
    (parseShard b, (b.drop 200).all (· == 0)))

/-! ### The epoch record (Table 12-11) -/

structure EpochRec where
  epoch : Nat
  fenced : Bool
  table : Nat
  prevEpoch : Nat
  prevTable : Nat
  deriving DecidableEq, Repr

def EpochRec.toBytes (e : EpochRec) : List Byte :=
  leFields [(4, e.epoch), (1, if e.fenced then 1 else 0), (3, 0), (8, e.table), (4, e.prevEpoch), (4, 0), (8, e.prevTable),
    (32, 0)]

def parseEpoch (bs : List Byte) : EpochRec :=
  ⟨leAt bs 0 4, leAt bs 4 1 == 1, leAt bs 8 8, leAt bs 16 4, leAt bs 24 8⟩

/-- Address of a context's epoch record: the place where program load left it. -/
def State.epochAddr (s : State) (x : Nat) : Option Nat :=
  (s.ctx x).epochAt.or (((s.ctx x).program.bind (fun p => jobRecord p.shards)).map (·.stateAddr))

/-- The epoch record of a context. -/
def State.epochRec (s : State) (x : Nat) : Option EpochRec :=
  (s.epochAddr x).bind (fun a => (s.peekVa x .collective a 64).map parseEpoch)

/-- Whether the state byte of a context's epoch record is neither STABLE nor FENCED. -/
def State.epochBad (s : State) (x : Nat) : Bool :=
  (((s.epochAddr x).bind (fun a => s.peekVa x .collective a 64)).map (fun b => decide (1 < leAt b 4 1))).getD false

/-- Layout epoch mod 2 of a context's cells (R312, R368). -/
def State.epochBit (s : State) (x : Nat) : Nat := ((s.epochRec x).map (·.epoch % 2)).getD 0

/-- Writes the epoch record in one line. -/
def State.putEpoch (s : State) (x : Nat) (e : EpochRec) : Except MemStop State :=
  match s.epochAddr x with
  | none => .ok s
  | some a => s.putVa x .collective a e.toBytes

/-! ### The journal (Tables 12-5, 12-6) -/

def idleWord : ProgressWord := ⟨0, false, 0, 0, 0, 0, 0, 0, 0, 0, 0, 0⟩

def ProgressWord.toBytes (w : ProgressWord) : List Byte :=
  leFields [(1, w.phase), (1, if w.shadowed then 1 else 0), (2, 0), (4, w.chunk), (8, w.target), (8, w.spare),
    (4, w.ctxStep), (4, w.t), (4, w.lr.toNat), (4, w.wd.toNat), (4, w.eps.toNat), (4, w.c1.toNat), (4, w.c2.toNat), (12, 0)]

/-- The FP32 word at an offset. -/
def word32At (bs : List Byte) (off : Nat) : Word32 := BitVec.ofNat 32 (leAt bs off 4)

def parseProgress (bs : List Byte) : ProgressWord :=
  ⟨leAt bs 0 1, leAt bs 1 1 == 1, leAt bs 4 4, leAt bs 8 8, leAt bs 16 8, leAt bs 24 4, leAt bs 28 4, word32At bs 32,
   word32At bs 36, word32At bs 40, word32At bs 44, word32At bs 48⟩

/-- Commit word. -/
structure CommitWord where
  serial : Nat
  momAddr : Nat
  stepCount : Nat
  epoch : Nat
  ctxStep : Nat
  resident : Nat
  written : Nat
  deriving DecidableEq, Repr

def CommitWord.toBytes (w : CommitWord) : List Byte :=
  leFields [(8, w.serial), (8, w.momAddr), (4, w.stepCount), (4, w.epoch), (4, w.ctxStep), (4, 0), (8, w.resident),
    (8, w.written), (16, 0)]

def parseCommit (bs : List Byte) : CommitWord :=
  ⟨leAt bs 0 8, leAt bs 8 8, leAt bs 16 4, leAt bs 20 4, leAt bs 24 4, leAt bs 32 8, leAt bs 40 8⟩

def ShardRec.shadowScales (r : ShardRec) : Nat := r.journalAddr + 128
def ShardRec.shadowMaster (r : ShardRec) : Nat := r.journalAddr + 4096
def ShardRec.shadowWorking (r : ShardRec) : Nat := r.journalAddr + 69632

/-- The progress word as a check reads it. -/
def State.peekProgress (s : State) (x : Nat) (r : ShardRec) : ProgressWord :=
  ((s.peekVa x .update (r.journalAddr + 64) 64).map parseProgress).getD idleWord

def State.peekCommit (s : State) (x : Nat) (r : ShardRec) : CommitWord :=
  ((s.peekVa x .update r.journalAddr 64).map parseCommit).getD ⟨0, r.momAddr, 0, 0, 0, 0, 0⟩

def State.putProgress (s : State) (x : Nat) (r : ShardRec) (w : ProgressWord) : Except MemStop State :=
  s.putVa x .update (r.journalAddr + 64) w.toBytes

def State.putCommit (s : State) (x : Nat) (r : ShardRec) (w : CommitWord) : Except MemStop State :=
  s.putVa x .update r.journalAddr w.toBytes

/-! ### Tiles of a component: unpadded elements only -/

/-- The contiguous pieces of a chunk: row, first column, columns, byte offset in the chunk (R147). -/
def tilePieces (size nr nc : Nat) : List (Nat × Nat × Nat × Nat) :=
  (List.range nr).flatMap (fun i => (List.range (ceilDiv nc 32)).map (fun v =>
    (i, 32 * v, min 32 (nc - 32 * v), mirrorSlot (i / 32) v * (1024 * size) + 32 * (i % 32) * size)))

/-- Rows of element bits, and whether a line that was read is poisoned. -/
def State.readTile (s : State) (x : Nat) (agent : Agent) (base size nr nc : Nat) :
    Except MemStop (State × List (List Nat) × Bool) :=
  (List.range nr).foldl (fun acc i => match acc with
    | .error e => .error e
    | .ok a =>
      let row := ((tilePieces size nr nc).filter (fun p => p.1 == i)).foldl
        (fun (z : Except MemStop (State × List Nat × Bool)) p => match z with
          | .error e => .error e
          | .ok b => match b.1.readVa x agent (base + p.2.2.2) (size * p.2.2.1) with
            | .error e => .error (.fault e.1 .read e.2)
            | .ok r => .ok (r.1, b.2.1 ++ words size r.2.1 p.2.2.1, b.2.2 || r.2.2)) (.ok (a.1, [], a.2.2))
      match row with
      | .error e => .error e
      | .ok b => .ok (b.1, a.2.1 ++ [b.2.1], b.2.2)) (.ok (s, [], false))

/-- Writes rows of element bits, with their poison. -/
def State.writeTile (s : State) (x : Nat) (agent : Agent) (base size nr nc : Nat) (rows : List (List Nat)) (poison : Bool) :
    Except MemStop State :=
  (tilePieces size nr nc).foldl (fun acc p => match acc with
    | .error e => .error e
    | .ok t =>
      let bits := ((rows.getD p.1 []).drop p.2.1).take p.2.2.1
      match t.writeVa x agent (base + p.2.2.2) (bits.flatMap (leBytes size)) poison with
      | .error e => .error (.fault e.1 .write e.2)
      | .ok u => .ok u) (.ok s)

/-- Slots of the blocks that hold unpadded elements. -/
def tileSlotsOf (nr nc : Nat) : List Nat :=
  (List.range (ceilDiv nr 32)).flatMap (fun u => (List.range (ceilDiv nc 32)).map (fun v => mirrorSlot u v))

/-- The 16 scale bytes of chunk n of a component. -/
def State.readScales (s : State) (x : Nat) (agent : Agent) (k : Comp) (n : Nat) : Except MemStop (State × List Byte × Bool) :=
  match k.scales with
  | none => .ok (s, [], false)
  | some a => match s.readVa x agent (a + 16 * n) 16 with
    | .error e => .error (.fault e.1 .read e.2)
    | .ok r => .ok r

/-- Writes the scale bytes of the blocks in `slots`. -/
def State.writeScales (s : State) (x : Nat) (agent : Agent) (base : Nat) (slots : List (Nat × Byte)) (poison : Bool) :
    Except MemStop State :=
  slots.foldl (fun acc p => match acc with
    | .error e => .error e
    | .ok t => match t.writeVa x agent (base + p.1) [p.2] poison with
      | .error e => .error (.fault e.1 .write e.2)
      | .ok u => .ok u) (.ok s)

/-- Values of a tile under its block scales. -/
def tileValues (f : Fmt) (scales : List Byte) (rows : List (List Nat)) : List (List FVal) :=
  rows.zipIdx.map (fun r => r.1.zipIdx.map (fun e =>
    f.decode [] (if f.scale = .ms then some (scales.getD (mirrorSlot (r.2 / 32) (e.2 / 32)) 0) else none) e.1))

/-- A tile rounded to a format: element bits, and the scale of each block by slot (R37). -/
def tileQuant (f : Fmt) (rows : List (List FVal)) : List (List Nat) × List (Nat × Byte) :=
  let nr := rows.length
  let nc := (rows.headD []).length
  if f.scale = .ms then
    let blocks := (List.range (ceilDiv nr 32)).flatMap (fun u => (List.range (ceilDiv nc 32)).map (fun v =>
      let cells := (List.range (min 32 (nr - 32 * u))).flatMap (fun i =>
        (List.range (min 32 (nc - 32 * v))).map (fun j => (32 * u + i, 32 * v + j)))
      let q := quantGroup f [] none .nearestEven f.satDefault
        (cells.map (fun c => ⟨(rows.getD c.1 []).getD c.2 FVal.zero, 0⟩))
      (mirrorSlot u v, q.1, cells.zip (q.2.map (·.1)))))
    ((List.range nr).map (fun i => (List.range nc).map (fun j =>
        match (blocks.flatMap (fun b => b.2.2)).find? (fun z => z.1 == (i, j)) with
        | some z => z.2
        | none => 0)),
     blocks.map (fun b => (b.1, b.2.1)))
  else (rows.map (fun r => r.map (fun v => (f.encode [] none .nearestEven f.satDefault 0 v).1)), [])

/-! ### Program load (R299, R312) -/

/-- Journals of the owned records of a table, by address and tensor id. -/
def ownJournals (rs : List ShardRec) : List (Nat × Word32) :=
  (rs.filter (fun r => r.kind == 1)).map (fun r => (r.journalAddr, r.tensorId))

/-- A journal as program load writes it. -/
def State.newJournal (s : State) (x : Nat) (r : ShardRec) : Except MemStop State := do
  let t ← s.putCommit x r ⟨0, r.momAddr, 0, ((s.epochRec x).map (·.epoch)).getD 0, 0, 0, 0⟩
  t.putProgress x r idleWord

/-- The epoch record and the journals as program load leaves them. A record that an earlier run left at its place stays, and so
does a journal of the same tensor id. Where the record that stays names the table of an EPOCH_SWITCH, that table is the current one
(R315). The address of the container's own table is open (Config.tableAddr, log entry 22). -/
def State.loadShards (s : State) (x : Nat) : Except MemStop State := do
  match (s.ctx x).program.bind (fun p => (jobRecord p.shards).map (fun j => (j, p))) with
  | none => .ok s
  | some (j, p) =>
    let v := s.ctx x
    let old ← s.fetchVa x .update j.stateAddr 64
    let stays := v.epochAt == some j.stateAddr && decide (leAt old.2 4 1 ≤ 1)
    let new : EpochRec := ⟨j.epoch.toNat, false, (Config.tableAddr p.digest).toNat, 0, 0⟩
    let s1 ← if stays then .ok old.1 else old.1.putVa x .update j.stateAddr new.toBytes
    let switched := if stays then v.switched.filter (fun z => z.1 == (parseEpoch old.2).table) else none
    let rs := (switched.map (·.2)).getD p.shards
    let s2 := s1.modCtx x (fun v => { v with
      epochAt := some j.stateAddr, switched := switched, journaled := ownJournals rs, program := some { p with shards := rs } })
    (rs.filter (fun r => r.kind == 1 && !v.journaled.contains (r.journalAddr, r.tensorId))).foldlM
      (fun (t : State) r => t.newJournal x r) s2

end Sys2Proof.Machine
end

