-- ==== Sys2Proof/Machine/Cells.lean ====
section
/-! DEFINITION. Cells and messages (spec/14_routing_and_transport.md): header formats, the transport timers, building
messages, injecting cells and replies, and what the agents that send and receive messages share. -/

namespace Sys2Proof.Machine

/-! ### Classes (Table 13-3) -/

def clReq : Nat := 0
def clRsp : Nat := 1
def clXch : Nat := 2
def clCol : Nat := 3
def clBlk : Nat := 4
def clMgt : Nat := 5

/-! ### Headers (Tables 14-2, 14-3) -/

/-- Bits [hi:lo] of a header. -/
def hf (h : BitVec 96) (hi lo : Nat) : Nat := bitsOf h.toNat hi lo

/-- A header with a field replaced. -/
def setHf (h : BitVec 96) (hi lo v : Nat) : BitVec 96 := BitVec.ofNat 96 (setBits h.toNat hi lo v)

/-- A header built from (high bit, low bit, value). -/
def mkHeader (fs : List (Nat × Nat × Nat)) : BitVec 96 := fs.foldl (fun h f => setHf h f.1 f.2.1 f.2.2) 0

def hIsX (h : BitVec 96) : Bool := hf h 95 95 == 1
def hDest (h : BitVec 96) : Nat := hf h 94 79
def aSrc (h : BitVec 96) : Nat := hf h 78 63
def aMsg (h : BitVec 96) : Nat := hf h 62 50
def aGen (h : BitVec 96) : Nat := hf h 49 47
def aIdx (h : BitVec 96) : Nat := hf h 46 35
def aLast (h : BitVec 96) : Nat := hf h 34 23
def aKind (h : BitVec 96) : Nat := hf h 22 19
def aRtag (h : BitVec 96) : Nat := hf h 18 15
def aPoison (h : BitVec 96) : Bool := hf h 14 14 == 1
def aDetail (h : BitVec 96) : Nat := hf h 13 0

def xRtag (h : BitVec 96) : Nat := hf h 78 75
def xLayer (h : BitVec 96) : Nat := hf h 74 67
def xPhase (h : BitVec 96) : Nat := hf h 66 65
def xRound (h : BitVec 96) : Nat := hf h 64 64
def xMb (h : BitVec 96) : Nat := hf h 63 63
def xEpoch (h : BitVec 96) : Nat := hf h 62 62
def xSender (h : BitVec 96) : Nat := hf h 61 50
def xReceiver (h : BitVec 96) : Nat := hf h 49 38
def xK (h : BitVec 96) : Nat := hf h 37 29
def xPoison (h : BitVec 96) : Bool := hf h 28 28 == 1
def xGen (h : BitVec 96) : Nat := hf h 27 25
def xIdx (h : BitVec 96) : Nat := hf h 24 13
def xLast (h : BitVec 96) : Nat := hf h 12 1
def xReply (h : BitVec 96) : Bool := hf h 0 0 == 1

/-- Generation, index and last of either format. -/
def hGen (h : BitVec 96) : Nat := if hIsX h then xGen h else aGen h
def hIdx (h : BitVec 96) : Nat := if hIsX h then xIdx h else aIdx h
def hLast (h : BitVec 96) : Nat := if hIsX h then xLast h else aLast h
def hPoison (h : BitVec 96) : Bool := if hIsX h then xPoison h else aPoison h

/-- (a - b) mod 8, the distance between generations (R360). -/
def genAhead (a b : Nat) : Nat := (a + 8 - b % 8) % 8

/-- Whether generation a is newer than b. -/
def genNewer (a b : Nat) : Bool := decide (1 ≤ genAhead a b ∧ genAhead a b ≤ 3)

/-! ### Cells (R349) -/

/-- Bytes 0 to 59 of a cell. -/
def cellHead (h : BitVec 96) (payload : List Byte) : List Byte := leBytes 12 h.toNat ++ sliceBytes payload 0 48

/-- A cell with its CRC. -/
def mkCell (cls : Nat) (h : BitVec 96) (payload : List Byte) : Cell :=
  ⟨cls, h, sliceBytes payload 0 48, crc32c (cellHead h payload)⟩

/-- The 64 bytes of a cell. -/
def Cell.toBytes (c : Cell) : List Byte := cellHead c.hdr c.payload ++ leBytes 4 c.crc.toNat

/-- A cell from 64 bytes on a virtual channel's class. -/
def parseCell (cls : Nat) (bs : List Byte) : Cell :=
  ⟨cls, BitVec.ofNat 96 (leAt bs 0 12), sliceBytes bs 12 48, BitVec.ofNat 32 (leAt bs 60 4)⟩

/-- Whether a cell passes its CRC at the destination. -/
def Cell.crcOk (c : Cell) : Bool := crc32c (cellHead c.hdr c.payload) == c.crc

/-! ### Timers (Table 14-6), in nanoseconds -/

def Xpt.resendNs (p : Xpt) : Nat := fld p.timerCfg 15 0 * 1000
def Xpt.retireNs (p : Xpt) : Nat := fld p.timerCfg 31 16 * 1000
def Xpt.resendLimit (p : Xpt) : Nat := fld p.timerCfg 47 40
def Xpt.nakNs (p : Xpt) : Nat := fld p.timerCfg 63 48 * 1000000

def outboundContexts : Nat := 8192
def inboundContexts : Nat := 8192
def retireEntries : Nat := 16384
def nakSlots : Nat := 512
def mgtRingCells : Nat := 256
def reduceStaging : Nat := 8388608

/-! ### Building messages (R359, R365) -/

/-- Bytes in pieces of n. -/
def piecesOf {α : Type} (n : Nat) (l : List α) : List (List α) :=
  (List.range ((l.length + n - 1) / n)).map (fun i => (l.drop (n * i)).take n)

/-- Payloads of cells that carry an 8-byte word and 40 data bytes. -/
def payloads40 (word : Nat → Nat) (bs : List PByte) : List (List Byte × Bool) :=
  (piecesOf 40 bs).zipIdx.map (fun p => (leBytes 8 (word p.2) ++ p.1.map (·.1), p.1.any (·.2)))

/-- Payloads of cells of 48 data bytes. -/
def payloads48 (bs : List PByte) : List (List Byte × Bool) :=
  (piecesOf 48 bs).map (fun p => (p.map (·.1), p.any (·.2)))

/-- Valid bytes of the last cell of n bytes in pieces of w. -/
def validLastOf (w n : Nat) : Nat := if n % w = 0 then w else n % w

/-- A format-A header without the cell's own fields. -/
def headerA (dest kind rtag detail : Nat) : BitVec 96 :=
  mkHeader [(94, 79, dest), (22, 19, kind), (18, 15, rtag), (13, 0, detail)]

/-- A PUT or REDUCE_PUT message. -/
def putMessage (cls dest rtag kind fmt base ctx : Nat) (bs : List PByte) (owner : MsgOwner) : Message :=
  let valid := validLastOf 40 bs.length
  ⟨cls, headerA dest kind rtag 0, ctx,
    payloads40 (fun i => (base + 40 * i) % 2 ^ 48 + valid * 2 ^ 48 + fmt % 4 * 2 ^ 54) bs, none, owner⟩

/-- A FLAG_SET message. -/
def flagMessage (dest rtag cluster : Nat) (flag : BitVec 16) (mode : Nat) (value : Word32) (ctx : Nat) (owner : MsgOwner) : Message :=
  ⟨clReq, headerA dest 3 rtag 0, ctx,
    [(leFields [(1, cluster), (2, flag.toNat), (1, mode), (4, value.toNat), (40, 0)], false)], none, owner⟩

/-- Queues messages for sending. -/
def State.queueMsgs (s : State) (ms : List Message) : State := { s with xpt := { s.xpt with toSend := s.xpt.toSend ++ ms } }

/-- Puts cells on their way. -/
def State.inject (s : State) (cs : List Cell) : State := { s with xpt := { s.xpt with injected := s.xpt.injected ++ cs } }

/-- The cells of a message in one generation. -/
def Message.cells (m : Message) (node id gen : Nat) : List Cell :=
  let last := m.payloads.length - 1
  m.payloads.zipIdx.map (fun p =>
    let h := if hIsX m.hdr then
        setHf (setHf (setHf (setHf m.hdr 27 25 gen) 24 13 p.2) 12 1 last) 28 28 (if p.1.2 then 1 else 0)
      else
        setHf (setHf (setHf (setHf (setHf (setHf m.hdr 78 63 node) 62 50 id) 49 47 gen) 46 35 p.2) 34 23 last) 14 14
          (if p.1.2 then 1 else 0)
    mkCell m.cls h p.1.1)

/-! ### Replies -/

/-- The reply to a format-A request cell: kind, reason code, payload and its place. -/
def replyA (node : Nat) (h : BitVec 96) (kind code idx last : Nat) (payload : List Byte) (poison : Bool) : Cell :=
  mkCell clRsp (mkHeader [(94, 79, aSrc h), (78, 63, node), (62, 50, aMsg h), (49, 47, aGen h), (46, 35, idx),
    (34, 23, last), (22, 19, kind), (18, 15, aRtag h), (14, 14, if poison then 1 else 0), (13, 0, code)]) payload

/-- The reply to a format-X cell: kind 0 COMPLETION, 1 NAK_RETRY, 2 NAK_REFUSE, to a node. -/
def replyX (dest : Nat) (h : BitVec 96) (kind code : Nat) : Cell :=
  mkCell clRsp (setHf (setHf (setHf (setHf (setHf (setHf h 94 79 dest) 24 23 kind) 22 13 code) 12 1 0) 28 28 0) 0 0 1) []

/-- Wire codes of Table 14-5. -/
def ncNotMapped : Nat := 0x001
def ncNoTag : Nat := 0x010
def ncEpoch : Nat := 0x011
def ncAlign : Nat := 0x012
def ncFlag : Nat := 0x013
def ncPoison : Nat := 0x014
def ncOwnerPool : Nat := 0x015
def ncNotArmed : Nat := 0x020
def ncSuspended : Nat := 0x021
def ncNoContext : Nat := 0x022
def ncFuture : Nat := 0x023

/-- The status of a NAK's reason (R354). -/
def nakStatus (code : Nat) : Status := if code = ncPoison then memPoison else xptStatus (code % 256)

/-! ### Arriving cells and credits (R328) -/

/-- Takes the first cell of a port's input that equals c. -/
def Port.takeCell (p : Port) (c : Cell) : Option Port :=
  (p.input.find? (fun v => v.cell == c)).map (fun v =>
    { p with input := removeFirst (fun z => z.cell == c) p.input, struck := removeFirst (fun z => z.cell == c) p.struck
             returns := sset 0 p.returns v.vc (sget 0 p.returns v.vc + 1) })

/-- A cell leaves the buffer it stands in: one that the device injected for itself, or one in a port's input buffer, whose
channel's credit is returned. -/
def State.takeCell (s : State) (c : Cell) : State :=
  if s.xpt.injected.contains c then { s with xpt := { s.xpt with injected := removeFirst (· == c) s.xpt.injected } }
  else match (List.range 24).find? (fun p => ((s.port p).takeCell c).isSome) with
    | none => s
    | some p => match (s.port p).takeCell c with
      | none => s
      | some q => s.setPort p q

/-- Whether the copy of a cell that `takeCell` takes lies in an input buffer on a word that cannot be corrected: the cell is
discarded, and recovered end to end (Table 9-1). -/
def State.cellLost (s : State) (c : Cell) : Bool :=
  !s.xpt.injected.contains c &&
    match (List.range 24).find? (fun p => ((s.port p).takeCell c).isSome) with
    | none => false
    | some p => (s.port p).struck.any (fun z => z.cell == c)

/-! ### The target context (R352, R267) -/

/-- The context of a remote tag. -/
def State.ctxOfTag (s : State) (tag : Nat) : Option Nat :=
  (List.range 16).find? (fun x => (s.ctx x).state != .free && (s.ctx x).rtag == tag)

/-- Whether cells for a context are NAKed as suspended. -/
def State.naksAll (s : State) (x : Nat) : Bool := (s.ctx x).nakAll || (s.ctx x).state != .running

/-- What the epoch record says of a cell's epoch bit (R368): none accepts it. A fence that still drains accepts cells of
the current epoch (R313). -/
def State.epochNak (s : State) (x bit : Nat) : Option Nat :=
  match s.epochRec x with
  | none => none
  | some e =>
    let same := bit == e.epoch % 2
    if !e.fenced then (if same then none else some ncEpoch)
    else if same then (if (s.ctx x).fence.isSome then none else some ncEpoch)
    else some ncFuture

/-- The record of a refused cell of another epoch (R313). -/
def State.logEpoch (s : State) (x src bit : Nat) : State :=
  let l : LogArgs := { cls := 0, cause := 0x2017#16, block := 0x0A, inst := 0, ctx := some x, detail := leBytes 2 src ++ leBytes 1 bit }
  s.corrected l

/-! ### Records of the operation that sent a message -/

/-- Records an outcome in the in-flight DMA entry at a place of issue order; nothing while its context is away. -/
def State.endEntry (s : State) (x lcore pos : Nat) (r : Outc) : State :=
  match (s.ctx x).physicalCore lcore with
  | none => s
  | some c => s.modCore c (fun u => { u with
      dmaF := replaceFirst (fun e => e.pos == pos && e.result.isNone) (fun e => { e with result := some r }) u.dmaF })

/-- The in-flight DMA entry at a place of issue order. -/
def Core.entryAt (u : Core) (pos : Nat) : Option QEntry := u.dmaF.find? (fun e => e.pos == pos && e.result.isNone)

end Sys2Proof.Machine
end

