-- ==== Sys2Proof/Machine/Training.lean ====
section
/-! DEFINITION. The update engines, the far tier and layout epochs
(spec/12_training_state_and_updates.md): UPDATE, SHARD_STAGE, EPOCH_FENCE and its events, EPOCH_SWITCH. -/

namespace Sys2Proof.Machine

/-! ### Hyperparameters (R291) -/

def parseHyper (bs : List Byte) : Hyper :=
  ⟨word32At bs 0, word32At bs 4, word32At bs 8, word32At bs 12, word32At bs 16, word32At bs 20, word32At bs 24⟩

def rat32 (w : Word32) : Rat := (ofFp32 w).rat

/-- Check 3 of Table 12-3. -/
def Hyper.ok (h : Hyper) (algorithm : Nat) : Bool :=
  [h.lr, h.b1, h.b2, h.eps, h.wd, h.eps1, h.gradMult].all f32finite &&
  decide (0 ≤ rat32 h.lr ∧ 0 ≤ rat32 h.b1 ∧ rat32 h.b1 < 1 ∧ 0 ≤ rat32 h.b2 ∧ rat32 h.b2 < 1 ∧ 0 ≤ rat32 h.wd ∧
    0 ≤ rat32 h.eps1) &&
  (algorithm == 2 || decide (0 < rat32 h.eps ∧ 0 < rat32 h.b2)) &&
  (algorithm != 1 || decide (0 < rat32 h.b1))

/-- fp32(1 - b^t) from the exact power. -/
def oneMinusPow (b : Word32) (t : Nat) : Word32 := toFp32 (FVal.ofRat false (1 - rat32 b ^ t))

/-! ### The algorithms (R294 to R297) -/

/-- Phase-1 inputs of one chunk: gradient values, old first moments, second moments by element or the factored means. -/
structure Phase1 where
  g : List (List FVal)
  m : List (List FVal)
  v : List (List FVal)
  fac : List Word32 × List Word32

/-- 1 - b exactly. -/
def oneMinus (b : Word32) : FVal := FVal.ofRat false (1 - rat32 b)

/-- Applies a function of the indices and the elements of two tiles. -/
def zipTile {α β γ : Type} (f : Nat → Nat → α → β → γ) (a : List (List α)) (b : List (List β)) : List (List γ) :=
  (a.zip b).zipIdx.map (fun r => (r.1.1.zip r.1.2).zipIdx.map (fun e => f r.2 e.2 e.1.1 e.1.2))

/-- bf16_sr of an exact value with the word of R285 for component 1. -/
def bf16Sr (seed : Word64) (ctxStep : Word32) (r : ShardRec) (k : ChunkPos) (i j : Nat) (x : FVal) : Nat :=
  (bf16.encode .stochastic false (srWord seed ctxStep r.tensorId (r.index k i j + 2 ^ 44)) x).1

/-- The new first moments of a chunk. -/
def newM (h : Hyper) (seed : Word64) (ctxStep : Word32) (r : ShardRec) (k : ChunkPos) (p : Phase1) : List (List Nat) :=
  zipTile (fun i j g m =>
    let gm := ofFp32 (toFp32 (g.mul (ofFp32 h.gradMult)))
    let x := if r.algorithm = 2 then ((ofFp32 h.b1).mul m).add gm
      else ((ofFp32 h.b1).mul m).add ((oneMinus h.b1).mul gm)
    bf16Sr seed ctxStep r k i j x) p.g p.m

/-- The scaled gradients. -/
def scaledG (h : Hyper) (g : List (List FVal)) : List (List FVal) :=
  g.map (fun row => row.map (fun v => ofFp32 (toFp32 (v.mul (ofFp32 h.gradMult)))))

/-- The new second moments of ADAMW. -/
def newV (h : Hyper) (p : Phase1) : List (List Nat) :=
  zipTile (fun _ _ g v =>
    (toFp32 (((ofFp32 h.b2).mul v).add (((oneMinus h.b2).mul g).mul g))).toNat) (scaledG h p.g) p.v

/-- The compensated mean of values (R102, R295). -/
def cmean (xs : List FVal) : FVal := (pairValue (accRows xs)).div (.fin false xs.length)

/-- A factored moment moved toward a mean. -/
def facStep (h : Hyper) (old : Word32) (mean : FVal) : Word32 :=
  toFp32 (((ofFp32 h.b2).mul (ofFp32 old)).add ((oneMinus h.b2).mul mean))

/-- The new factored moments of a chunk: rows, then columns. -/
def newFac (h : Hyper) (p : Phase1) : List Word32 × List Word32 :=
  let sq := (scaledG h p.g).map (fun row => row.map (fun g => (g.mul g).add (ofFp32 h.eps1)))
  let nc := (sq.headD []).length
  (sq.zipIdx.map (fun r => facStep h (p.fac.1.getD r.2 0) (cmean r.1)),
   (List.range nc).map (fun j => facStep h (p.fac.2.getD j 0) (cmean (sq.map (fun r => r.getD j FVal.zero)))))

/-- The denominator of phase 2. -/
def denominator (w : ProgressWord) (v : Word32) : Word32 := f32add (f32sqrt (f32div v w.c2)) w.eps

/-- fp32(w - lr * (step + wd * w)). -/
def stepped (w : ProgressWord) (x : FVal) (step : FVal) : Word32 :=
  toFp32 (x.sub ((ofFp32 w.lr).mul (step.add ((ofFp32 w.wd).mul x))))

/-- Phase-2 weights of a chunk. -/
def newW (alg : Nat) (w : ProgressWord) (ws ms vs : List (List FVal)) (fac : List Word32 × List Word32) : List (List Word32) :=
  match alg with
  | 0 => (zipTile (fun _ _ x mv => (x, mv)) ws (zipTile (fun _ _ m v => (m, v)) ms vs)).map (fun row => row.map (fun e =>
      let mh := toFp32 (e.2.1.div (ofFp32 w.c1))
      stepped w e.1 (ofFp32 (f32div mh (denominator w (toFp32 e.2.2))))))
  | 1 =>
    let a := toFp32 (cmean (fac.1.map ofFp32))
    zipTile (fun i j x m =>
      let vh := if (ofFp32 a).isZero then (0 : Word32)
        else toFp32 (((ofFp32 (fac.1.getD i 0)).mul (ofFp32 (fac.2.getD j 0))).div (ofFp32 a))
      let mh := toFp32 (m.div (ofFp32 w.c1))
      stepped w x (ofFp32 (f32div mh (denominator w vh)))) ws ms
  | _ => zipTile (fun _ _ x m => stepped w x m) ws ms

/-! ### One chunk of each phase -/

def fp32Fmt : Fmt := ⟨32, .flt fp32, .none⟩
def bf16Fmt : Fmt := ⟨16, .flt bf16, .none⟩
def fmtOr (code : Byte) : Fmt := (fmtOf code).getD fp32Fmt

/-- FP32 words at an address. -/
def State.readWords32 (s : State) (x a n : Nat) : Except MemStop (State × List Word32 × Bool) :=
  match s.readVa x .update a (4 * n) with
  | .error e => .error (.fault e.1 .read e.2)
  | .ok r => .ok (r.1, (words 4 r.2.1 n).map (BitVec.ofNat 32), r.2.2)

/-- The factored moments of a chunk. -/
def State.readFac (s : State) (x : Nat) (r : ShardRec) (slot n : Nat) (k : ChunkPos) :
    Except MemStop (State × (List Word32 × List Word32) × Bool) := do
  let a ← s.readWords32 x (r.factored slot n) k.nr
  let b ← a.1.readWords32 x (r.factored slot n + 512) k.nc
  .ok (b.1, (a.2.1, b.2.1), a.2.2 || b.2.2)

/-- What the two moments of a chunk hold. -/
def State.readMoments (s : State) (x : Nat) (r : ShardRec) (slot n : Nat) (k : ChunkPos) :
    Except MemStop (State × List (List FVal) × List (List FVal) × (List Word32 × List Word32) × Bool) := do
  let m ← s.readTile x .update ((r.moment1 slot).base + n * (r.moment1 slot).chunk) 2 k.nr k.nc
  let mv := tileValues bf16Fmt [] m.2.1
  match r.algorithm with
  | 0 =>
    let v ← m.1.readTile x .update ((r.moment2 slot).base + n * (r.moment2 slot).chunk) 4 k.nr k.nc
    .ok (v.1, mv, tileValues fp32Fmt [] v.2.1, ([], []), m.2.2 || v.2.2)
  | 1 =>
    let f ← m.1.readFac x r slot n k
    .ok (f.1, mv, [], f.2.1, m.2.2 || f.2.2)
  | _ => .ok (m.1, mv, [], ([], []), m.2.2)

/-- A gradient tile: values, whether some block has scale 0xFF, poison. -/
def State.readGradient (s : State) (x : Nat) (r : ShardRec) (n : Nat) (k : ChunkPos) :
    Except MemStop (State × List (List FVal) × Bool × Bool) := do
  let sc ← s.readScales x .update r.gradient n
  let g ← sc.1.readTile x .update (r.gradient.base + n * r.gradient.chunk) 1 k.nr k.nc
  let bad := (tileSlotsOf k.nr k.nc).any (fun i => sc.2.1.getD i 0 == 0xFF#8)
  .ok (g.1, tileValues (fmtOr r.gradFormat) sc.2.1 g.2.1, bad, sc.2.2 || g.2.2)

/-- Phase 1 of chunk n: the state with the new moments in the spare slot, or nothing where the chunk abandons the
update (R301). -/
def State.phase1 (s : State) (x : Nat) (h : Hyper) (seed : Word64) (w : ProgressWord) (r : ShardRec) (old n : Nat) :
    Except MemStop (State × Bool) := do
  let k := r.chunk n
  let g ← s.readGradient x r n k
  let m ← g.1.readMoments x r old n k
  if g.2.2.1 || g.2.2.2 || m.2.2.2.2 then .ok (m.1, false)
  else
    let p : Phase1 := ⟨g.2.1, m.2.1, m.2.2.1, m.2.2.2.1⟩
    let dst := r.moment1 w.spare
    let t ← m.1.writeTile x .update (dst.base + n * dst.chunk) 2 k.nr k.nc
      (newM h seed (BitVec.ofNat 32 w.ctxStep) r k p) false
    let u ← match r.algorithm with
      | 0 => t.writeTile x .update ((r.moment2 w.spare).base + n * (r.moment2 w.spare).chunk) 4 k.nr k.nc (newV h p) false
      | 1 => do
        let f := newFac h p
        let a ← t.putVa x .update (r.factored w.spare n) (f.1.flatMap (fun v => leBytes 4 v.toNat))
        a.putVa x .update (r.factored w.spare n + 512) (f.2.flatMap (fun v => leBytes 4 v.toNat))
      | _ => .ok t
    .ok (u, true)

/-- The record of a poisoned read in phase 2 (R301). -/
def phase2Log (x : Nat) (r : ShardRec) (e n : Nat) : LogArgs :=
  { cls := 1, cause := 0x2014#16, block := 0x03, inst := e, ctx := some x, progress := some n
    detail := leBytes 4 r.tensorId.toNat ++ leBytes 4 n }

/-- The chunk copied from the shadow into place, with its poison. A poisoned shadow is logged, once for the chunk (R301). -/
def State.unshadow (s : State) (x : Nat) (r : ShardRec) (e n : Nat) (logged : Bool) : Except MemStop State := do
  let k := r.chunk n
  let w ← s.readTile x .update r.shadowMaster 4 k.nr k.nc
  let c ← w.1.readTile x .update r.shadowWorking r.working.size k.nr k.nc
  let sc ← match r.working.scales with
    | none => .ok (c.1, [], false)
    | some _ => (match c.1.readVa x .update r.shadowScales 16 with
      | .error e => .error (.fault e.1 .read e.2)
      | .ok z => .ok z)
  let s1 := if !logged && (w.2.2 || c.2.2 || sc.2.2) then sc.1.deferred (phase2Log x r e n) else sc.1
  let t ← s1.writeTile x .update (r.master.base + n * r.master.chunk) 4 k.nr k.nc w.2.1 w.2.2
  let u ← t.writeTile x .update (r.working.base + n * r.working.chunk) r.working.size k.nr k.nc c.2.1 c.2.2
  match r.working.scales with
  | none => .ok u
  | some a => u.writeScales x .update (a + 16 * n) ((tileSlotsOf k.nr k.nc).map (fun i => (i, sc.2.1.getD i 0))) sc.2.2

/-- Phase 2 of chunk n up to its shadow; a poisoned read carries its poison and is logged (R301), as the flag says. -/
def State.shadow (s : State) (x : Nat) (w : ProgressWord) (r : ShardRec) (e n : Nat) : Except MemStop (State × Bool) := do
  let k := r.chunk n
  let m ← s.readMoments x r w.spare n k
  let q ← m.1.readTile x .update (r.master.base + n * r.master.chunk) 4 k.nr k.nc
  let poison := m.2.2.2.2 || q.2.2
  let ws := newW r.algorithm w (tileValues fp32Fmt [] q.2.1) m.2.1 m.2.2.1 m.2.2.2.1
  let c := tileQuant (fmtOr r.workFormat) (ws.map (fun row => row.map ofFp32))
  let s1 := if poison then q.1.deferred (phase2Log x r e n) else q.1
  let t ← s1.writeTile x .update r.shadowMaster 4 k.nr k.nc (ws.map (fun row => row.map (·.toNat))) poison
  let u ← t.writeTile x .update r.shadowWorking r.working.size k.nr k.nc c.1 poison
  let v ← u.writeScales x .update r.shadowScales c.2 poison
  .ok (v, poison)

/-- An update that a fault stopped, with what it had written: the commit holds at its progress word (Table 10-6). -/
abbrev Held (α : Type) := Except (State × MemStop) α

/-- A part of an update: where it is stopped, the state before it stands. -/
def State.held {α : Type} (s : State) (r : Except MemStop α) : Held α :=
  match r with
  | .ok a => .ok a
  | .error e => .error (s, e)

/-- Phase 2 of one chunk up to its shadow: CLEAN, n before it and SHADOWED, n after it (Table 12-4). -/
def State.toShadow (s : State) (x : Nat) (w : ProgressWord) (r : ShardRec) (e n : Nat) : Held (State × Bool) := do
  let a ← s.held (s.putProgress x r { w with phase := 2, shadowed := false, chunk := n })
  let b ← a.held (a.shadow x w r e n)
  let t ← b.1.held (b.1.putProgress x r { w with phase := 2, shadowed := true, chunk := n })
  .ok (t, b.2)

/-- Phase 2 of one chunk from its shadow into place: CLEAN, n + 1 after it. -/
def State.toPlace (s : State) (x : Nat) (w : ProgressWord) (r : ShardRec) (e n : Nat) (logged : Bool) : Held State := do
  let t ← s.held (s.unshadow x r e n logged)
  t.held (t.putProgress x r { w with phase := 2, shadowed := false, chunk := n + 1 })

/-- What an UPDATE works with: context, core, engine, shard, seed. -/
structure UpdRun where
  x : Nat
  c : Nat
  e : Nat
  r : ShardRec
  seed : Word64

/-- The write of phase 3: the commit word. A FAR shard's resident copy is that of the commit (log entry 23). -/
def State.commit (s : State) (u : UpdRun) (w : ProgressWord) : Except MemStop State :=
  let old := s.peekCommit u.x u.r
  let epoch := ((s.epochRec u.x).map (·.epoch)).getD 0
  s.putCommit u.x u.r ⟨w.target, w.spare, w.t, epoch, w.ctxStep, if u.r.tier = 1 then w.target else old.resident, old.written⟩

/-! ### Results (R293, R303) -/

/-- How an UPDATE ended; the codes are those of Config.updateStatus. -/
inductive UpdStatus | committed | skipped | notVisited | deferred | abandoned
  deriving DecidableEq, Repr

def UpdStatus.number : UpdStatus → Nat | .committed => 0 | .skipped => 1 | .notVisited => 2 | .deferred => 3 | .abandoned => 4

/-- The 32-byte result record. -/
def updRecord (st : UpdStatus) (recovered : Bool) (step serial freed : Nat) : List Byte :=
  leFields [(2, (Config.updateStatus st.number).toNat), (1, if recovered then 1 else 0), (1, 0), (4, step), (8, serial),
    (8, freed), (8, 0)]

/-- UPD_COUNT after an update (Table 12-8). -/
def updCounted (w : Word64) (st : UpdStatus) (recovered : Bool) : Word64 :=
  let w := match st with
    | .committed => bumpFld w 63 40 1
    | .notVisited => bumpFld w 39 24 1
    | .skipped => bumpFld w 23 12 1
    | .deferred => bumpFld w 11 4 1
    | .abandoned => bumpFld w 3 2 1
  if recovered then bumpFld w 1 0 1 else w

/-- How an update goes on: it ended with a status, whether it was a recovery and the slot it freed; or it stands at a point; or
it is to suspend there. -/
inductive UpdNext
  | ended (st : UpdStatus) (recovered : Bool) (freed : Nat)
  | going (h : UpdHold)
  | suspends (h : UpdHold)
  deriving DecidableEq, Repr

/-- Phase 1 begins: MOMENTS before its first chunk (Table 12-4). -/
def State.beginMoments (s : State) (u : UpdRun) (h : UpdHold) : Held (State × UpdNext) := do
  let t ← s.held (s.putProgress u.x u.r { h.word with phase := 1, shadowed := false, chunk := 0 })
  .ok (t, .going { h with point := .moments 0 })

/-- The completion of an interrupted update (Table 12-7). A suspended one goes on from the chunk that phase 1 recorded (R302). -/
def State.recover (s : State) (u : UpdRun) (cw : CommitWord) (h : UpdHold) (resumed : Bool) : Held (State × UpdNext) :=
  let w := h.word
  if cw.serial = w.target then .ok (s, .going { h with point := .idle, old := 0 })
  else if w.phase = 1 then
    if resumed then .ok (s, .going { h with point := .moments w.chunk }) else s.beginMoments u h
  else .ok (s, .going { h with point := .weights w.chunk w.shadowed false })

/-- A deferred update adds the gradient into the error term (R309). -/
def State.deferChunk (s : State) (u : UpdRun) (n : Nat) : Except MemStop State := do
  let k := u.r.chunk n
  let g ← s.readGradient u.x u.r n k
  let ec := u.r.errorTerm
  let e ← g.1.readTile u.x .update (ec.base + n * ec.chunk) 2 k.nr k.nc
  let sum := zipTile (fun _ _ a b => (bf16.encode .nearestEven false 0 (a.add b)).1) (tileValues bf16Fmt [] e.2.1) g.2.1
  e.1.writeTile u.x .update (ec.base + n * ec.chunk) 2 k.nr k.nc sum (g.2.2.2 || e.2.2)

/-- The progress of an UPDATE that suspends, as its entry keeps it: 0 before its decision, 1 in its phases and 2 in those of a
recovery, 3 and more at a chunk of a deferral. -/
def UpdHold.progress (h : UpdHold) : Nat :=
  match h.point with
  | .defer n => 3 + n
  | _ => if h.recovered then 2 else 1

/-- The decision of R293: how the update ends, or the point where its phases begin. One that suspended goes on. -/
def State.updDecide (s : State) (u : UpdRun) (f : UpdateF) (env : OpEnv) (hyper : Hyper) (beaconFlag : Nat) :
    Held (State × UpdNext) := do
  let c ← s.held (s.fetchVa u.x .update u.r.journalAddr 128)
  let cw := parseCommit c.2
  let w := parseProgress (c.2.drop 64)
  let hold (p : UpdPoint) (w : ProgressWord) (r : Bool) : UpdHold := ⟨u.c, env.pos, hyper, p, w, cw.momAddr, r⟩
  if 3 ≤ env.progress then .ok (c.1, .going (hold (.defer (env.progress - 3)) w false))
  else if w.phase ≠ 0 then c.1.recover u cw (hold .idle w (env.progress != 1)) (env.progress != 0)
  else if beaconFlag % 2 = 1 then .ok (c.1, .ended .skipped false 0)
  else
    let v ← if u.r.visitAddr = 0 then .ok (c.1, [1]) else s.held (c.1.fetchVa u.x .update u.r.visitAddr 4)
    if leNat v.2 = 0 then .ok (v.1, .ended .notVisited false 0)
    else if u.r.tier = 1 ∧ cw.resident ≠ cw.serial then .ok (v.1, .going (hold (.defer 0) w false))
    else
      let t := cw.stepCount + 1
      v.1.beginMoments u (hold (.moments 0) ⟨1, false, 0, cw.serial + 1, f.spare, env.stepNo.toNat, t, hyper.lr, hyper.wd, hyper.eps,
        oneMinusPow hyper.b1 t, oneMinusPow hyper.b2 t⟩ false)

/-- A chunk that abandons the update: IDLE, and a record (R301). -/
def State.abandon (s : State) (u : UpdRun) (h : UpdHold) (n : Nat) : Held (State × UpdNext) := do
  let t ← s.held (s.putProgress u.x u.r idleWord)
  let l : LogArgs :=
    { cls := 1, cause := 0x2013#16, block := 0x03, inst := u.e, ctx := some u.x, progress := some n
      detail := leBytes 4 u.r.tensorId.toNat ++ leBytes 4 n }
  .ok (t.deferred l, .ended .abandoned h.recovered 0)

/-- One piece of an update, from one point that its journal can show to the next (Table 12-4). -/
def State.updPiece (s : State) (u : UpdRun) (h : UpdHold) : Held (State × UpdNext) :=
  let count := u.r.chunkCount
  match h.point with
  | .defer n =>
    if n < count then do
      let t ← s.held (s.deferChunk u n)
      .ok (t, .going { h with point := .defer (n + 1) })
    else .ok (s, .ended .deferred false 0)
  | .moments n =>
    if n < count then do
      let z ← s.held (s.phase1 u.x h.hyper u.seed h.word u.r h.old n)
      if z.2 then .ok (z.1, .going { h with point := .moments (n + 1) }) else z.1.abandon u h n
    else .ok (s, .going { h with point := .weights 0 false false })
  | .weights n false _ =>
    if n < count then do
      let t ← s.toShadow u.x h.word u.r u.e n
      .ok (t.1, .going { h with point := .weights n true t.2 })
    else .ok (s, .going { h with point := .commit })
  | .weights n true logged => do
    let t ← s.toPlace u.x h.word u.r u.e n logged
    .ok (t, .going { h with point := .weights (n + 1) false false })
  | .commit => do
    let t ← s.held (s.commit u h.word)
    .ok (t, .going { h with point := .idle })
  | .idle => do
    let t ← s.held (s.putProgress u.x u.r idleWord)
    .ok (t, .ended .committed h.recovered h.old)

/-- Whether a point is a chunk boundary, where a pre-empted update suspends (R302). -/
def UpdPoint.boundary : UpdPoint → Bool
  | .defer _ => true
  | .moments _ => true
  | .weights _ shadowed _ => !shadowed
  | _ => false

/-- Up to n pieces of an update. -/
def State.updPieces (u : UpdRun) : Nat → State → UpdHold → Held (State × UpdNext)
  | 0, s, h => .ok (s, .going h)
  | n + 1, s, h =>
    if s.mustSuspend u.x && h.point.boundary then .ok (s, .suspends h)
    else match s.updPiece u h with
      | .error e => .error e
      | .ok (t, .going g) => State.updPieces u n t g
      | .ok z => .ok z

/-- More pieces than any update of the shard has. -/
def ShardRec.allPieces (r : ShardRec) : Nat := 3 * r.chunkCount + 5

/-! ### UPDATE (R291 to R303) -/

/-- The owned shard that an index names in the current table of context x. -/
def State.ownedShard (s : State) (x i : Nat) : Option ShardRec :=
  ((s.ctx x).program.bind (fun p => p.shards[i]?)).filter (fun r => r.kind == 1)

/-- Whether an UPDATE of the shard is pending or running; one that was suspended in its phases still is. -/
def State.updateTaken (s : State) (x shard : Nat) : Bool :=
  (s.ctx x).cores.any (fun d => (s.core d).dmaF.any (fun e => e.result.isNone && (match e.op with
    | .dma (.update g) => g.shard == shard
    | _ => false)) ||
    (s.core d).dmaQ.any (fun e => e.progress != 0 && (match e.op with
    | .dma (.update g) => g.shard == shard
    | _ => false)))

/-- Whether another UPDATE of the shard than operation o of core c is pending or running. -/
def State.updateBusy (s : State) (x c : Nat) (o : Op) (shard : Nat) : Bool :=
  (s.ctx x).cores.any (fun d => (s.core d).dmaF.any (fun e => e.result.isNone && !(d == c && e.op == o) && (match e.op with
    | .dma (.update g) => g.shard == shard
    | _ => false)))

/-- The checks of Table 12-3; `busy` is the fifth. -/
def updateCheckWith (s : State) (c : Nat) (f : UpdateF) (busy : Nat → Bool) : Option Status :=
  let x := (s.ctxOfCore c).getD 16
  let env := s.opEnv c (.dma (.update f))
  match s.ownedShard x f.shard with
  | none => some (trnStatus 1)
  | some r => firstFail [
      (((s.epochRec x).map (·.fenced)).getD false, trnStatus 2), (s.epochBad x, trnStatus 1),
      (!decide (f.engine ≤ 15 ∧ f.hyper % 64 = 0 ∧ f.beacon % 64 = 0 ∧ f.result % 64 = 0), trnStatus 3),
      ((match s.peekVa x .update f.hyper 64 with
        | none => false
        | some h => !(parseHyper h).ok r.algorithm), trnStatus 4),
      ((match s.peekVa x .update f.beacon 64 with
        | none => false
        | some b => leAt b 0 4 != env.stepNo.toNat), trnStatus 5),
      (busy x, trnStatus 6),
      (f.spare % 65536 != 0 || f.spare == (s.peekCommit x r).momAddr, trnStatus 7)]

/-- The checks of an UPDATE that its engine takes up. -/
def updateStartCheck (s : State) (c : Nat) (f : UpdateF) : Option Status := updateCheckWith s c f (fun x => s.updateTaken x f.shard)

/-- The checks of an UPDATE that stands in no queue. -/
def updateCheck (s : State) (c : Nat) (f : UpdateF) : Option Status :=
  updateCheckWith s c f (fun x => s.updateBusy x c (.dma (.update f)) f.shard)

/-- Takes an UPDATE off its engine, from its list or from its place there. -/
def Group.leave (g : Group) (c pos : Nat) : Group :=
  { g with updPending := g.updPending.filter (fun p => p != (c, pos))
           updating := g.updating.filter (fun h => !(h.core == c && h.pos == pos)) }

/-- The result record, the count and the end of an update (R293, R303). -/
def State.updFinish (s : State) (x c : Nat) (r : ShardRec) (f : UpdateF) (st : UpdStatus) (recovered : Bool) (freed : Nat) :
    Held State := do
  let cw := s.peekCommit x r
  let t ← s.held (s.putVa x .update f.result (updRecord st recovered cw.stepCount cw.serial freed))
  .ok ((t.modGroup f.engine (fun g => { g with updCount := updCounted g.updCount st recovered })).recordOutcome c
    (.dma (.update f)) .done)

/-- Where an update's pieces left it: ended; still on its engine; or suspended, phase 1 with its chunk recorded (R302). -/
def State.updSettle (s : State) (x c : Nat) (r : ShardRec) (f : UpdateF) : UpdNext → Held State
  | .ended st recovered freed => s.updFinish x c r f st recovered freed
  | .going h => .ok (s.modGroup f.engine (fun g => { g with updating := some h }))
  | .suspends h => do
    let t ← match h.point with
      | .moments n => s.held (s.putProgress x r { h.word with phase := 1, shadowed := false, chunk := n })
      | _ => .ok s
    .ok (t.suspendEntry c (.dma (.update f)) h.progress)

/-- Where an UPDATE begins: at the point where its engine stands, or with its decision. -/
def State.updStart (s : State) (u : UpdRun) (f : UpdateF) (env : OpEnv) : Option UpdHold → Held (State × UpdNext)
  | some h => .ok (s, .going h)
  | none => do
    let h ← s.held (s.fetchVa u.x .update f.hyper 64)
    let b ← s.held (h.1.fetchVa u.x .update f.beacon 64)
    b.1.updDecide u f env (parseHyper h.2) (leAt b.2 4 1)

/-- Up to n pieces of an update that stands at a point. -/
def updOn (u : UpdRun) (n : Nat) (d : State × UpdNext) : Held (State × UpdNext) :=
  match d.2 with
  | .going h => State.updPieces u n d.1 h
  | _ => .ok d

/-- UPDATE after its checks, up to so many pieces: from its decision, or from the point where its engine stands. It ends done
under every status; a translation fault holds it, its journal as its progress (Table 10-6). -/
def State.update (s : State) (x c : Nat) (r : ShardRec) (f : UpdateF) (env : OpEnv) (held : Option UpdHold) (pieces : Nat) : State :=
  let e := f.engine
  let u : UpdRun := ⟨x, c, e, r, env.seed⟩
  let run : Held State := do
    let d ← (s.modGroup e (fun g => g.leave c env.pos)).updStart u f env held
    let z ← updOn u pieces d
    z.1.updSettle x c r f z.2
  match run with
  | .ok t => t
  | .error z => z.1.memStop x c (.dma (.update f)) .update e 0x03 e z.2

/-- UPDATE: the first of its engine's list runs; its fields were checked when the engine took it up. The row carries out `pieces`
pieces of it, or all that are left, and a further row goes on, so that a pre-emption or a reset can come between (log entry 24). A
pre-empted context's update suspends at its next chunk boundary (R302). -/
def execUpdate (c : CoreId) (row : UpdateRow) (s : State) : Host.Outcome State Fault Refusal :=
  let f := row.f
  let o : Op := .dma (.update f)
  let env := s.opEnv c o
  .next (match (if ((s.core c).entryOf o).isSome then none else updateCheck s c f) with
    | some st => ((s.modGroup f.engine (fun g => g.leave c env.pos)).dropEntry c o).opRefused c (queueCode .dma) env.pos st
    | none => match s.ctxOfCore c with
      | none => s
      | some x => match s.ownedShard x f.shard with
        | none => s
        | some r =>
          let n := row.pieces.getD r.allPieces
          match (s.group f.engine).updating with
          | some h => if h.core = c.val ∧ h.pos = env.pos then s.update x c r f env (some h) n else s
          | none =>
            let l := (s.group f.engine).updPending
            if l.contains (c.val, env.pos) && l.head? != some (c.val, env.pos) then s
            else if s.mustSuspend x then (s.modGroup f.engine (fun g => g.leave c env.pos)).suspendEntry c o env.progress
            else s.update x c r f env none n)

/-! ### SHARD_STAGE (R308) -/

/-- The two copies of a stage: master weights, then moments at the current slot. -/
def stageCopies (r : ShardRec) (slot : Nat) (dir : StageDir) : List DmaF :=
  let n1 := compBytes 4 r.chunkCount false
  let one (far near n : Nat) : DmaF :=
    if dir = .toNear then ⟨⟨.va, far⟩, ⟨.va, near⟩, 1, n, 0, 0, []⟩ else ⟨⟨.va, near⟩, ⟨.va, far⟩, 1, n, 0, 0, []⟩
  [one r.farAddr r.stateAddr n1, one (r.farAddr + n1) slot r.momBytes]

/-- The copy that holds byte p of a list of copies, and p within it. -/
def copyAt : List DmaF → Nat → Option (DmaF × Nat)
  | [], _ => none
  | f :: r, p => if p < dmaTotal f then some (f, p) else copyAt r (p - dmaTotal f)

def copiesTotal (l : List DmaF) : Nat := (l.map dmaTotal).foldl (· + ·) 0

/-- The end of a stage: resident_serial or written_serial takes the serial (R235). -/
def State.stageDone (s : State) (x c : Nat) (r : ShardRec) (f : ShardStageF) : State :=
  let o : Op := .dma (.shardStage f)
  let cw := s.peekCommit x r
  let cw := if f.dir = .toNear then { cw with resident := cw.serial } else { cw with written := cw.serial }
  match s.putCommit x r cw with
  | .ok t => t.recordOutcome c o .done
  | .error e => s.memStop x c o .bulkDma (clusterOf c) 0x02 (clusterOf c) e

/-- Carries out a stage from its progress, chunk by chunk, the far parts by the host DMA engines. -/
def State.stageFrom (x c : Nat) (r : ShardRec) (f : ShardStageF) (pos : Nat) (copies : List DmaF) : Nat → Nat → State → State
  | 0, _, s => s.stageDone x c r f
  | n + 1, p, s =>
    let o : Op := .dma (.shardStage f)
    match copyAt copies p with
    | none => s.stageDone x c r f
    | some (g, q) =>
      if s.mustSuspend x then s.suspendEntry c o p
      else
        let len := min chunkBytes (dmaTotal g - q)
        match s.chunkParts x .bulkDma g q len with
        | .error e => s.chunkStop x c .bulkDma (clusterOf c) o e p
        | .ok qs =>
          let near := qs.filter (fun z => !z.sp.isFar && !z.dp.isFar)
          let far := qs.filter (fun z => z.sp.isFar || z.dp.isFar)
          match s.moveParts c near with
          | .error e => s.chunkStop x c .bulkDma (clusterOf c) o e p
          | .ok t =>
            if far = [] then State.stageFrom x c r f pos copies n (p + len) t
            else
              let t := { t with hp := { t.hp with chunks := t.hp.chunks ++ far.map (hostChunkOf c pos x p) } }
              t.noteProgress c o p

/-- A stage from a progress on. -/
def State.stage (s : State) (x c : Nat) (r : ShardRec) (f : ShardStageF) (pos p : Nat) : State :=
  let copies := stageCopies r (s.peekCommit x r).momAddr f.dir
  State.stageFrom x c r f pos copies (copiesTotal copies / chunkBytes + 2) p s

/-- The checks of SHARD_STAGE: a FAR shard of this owner, IDLE, and no committed update lost. -/
def shardStageCheck (s : State) (c : Nat) (f : ShardStageF) : Option Status :=
  let x := (s.ctxOfCore c).getD 16
  match s.ownedShard x f.shard with
  | none => some (trnStatus 1)
  | some r =>
    let cw := s.peekCommit x r
    firstFail [
      (r.tier != 1, trnStatus 1),
      ((s.peekProgress x r).phase != 0, trnStatus 6),
      (f.dir == .toNear && cw.resident == cw.serial && decide (cw.written < cw.serial), trnStatus 8)]

def execShardStage (c : CoreId) (f : ShardStageF) (s : State) : Host.Outcome State Fault Refusal :=
  let o : Op := .dma (.shardStage f)
  let env := s.opEnv c o
  .next (match shardStageCheck s c f with
    | some st => (s.dropEntry c o).opRefused c (queueCode .dma) env.pos st
    | none => match s.ctxOfCore c with
      | none => s
      | some x => match s.ownedShard x f.shard with
        | none => s
        | some r => s.stage x c r f env.pos env.progress)

/-! ### Layout epochs (R313, R314) -/

/-- The check of EPOCH_FENCE; a limit outside 1 to 1,000 ms is out of range. -/
def epochFenceCheck (s : State) (c : Nat) (f : FenceF) : Option Status :=
  let x := (s.ctxOfCore c).getD 16
  firstFail [
    (!decide (1 ≤ f.limitMs ∧ f.limitMs ≤ 1000), genRange),
    ((match s.epochRec x with
      | none => true
      | some e => if f.cancel then !e.fenced else e.fenced || e.prevTable != 0), trnStatus 2)]

/-- EPOCH_FENCE: it fences and waits, or cancels and ends. -/
def execEpochFence (c : CoreId) (f : FenceF) (s : State) : Host.Outcome State Fault Refusal :=
  let o : Op := .dma (.epochFence f)
  let k := clusterOf c
  .next (match s.ctxOfCore c with
    | none => (s.dropEntry c o).opRefused c (queueCode .dma) (s.opEnv c o).pos (trnStatus 2)
    | some x =>
      if ((s.core c).entryOf o).isSome ∧ (s.ctx x).fence.isSome ∧ !f.cancel then s
      else match epochFenceCheck s c f with
      | some st => (s.dropEntry c o).opRefused c (queueCode .dma) (s.opEnv c o).pos st
      | none => match s.epochRec x with
        | none => s
        | some e => match s.putEpoch x { e with fenced := !f.cancel } with
          | .error z => s.memStop x c o .collective k 0x02 k z
          | .ok t =>
            if f.cancel then (t.modCtx x (fun v => { v with heldTable := none })).recordOutcome c o .done
            else t.modCtx x (fun v => { v with fence := some (c.val, s.now + f.limitMs * 1000000) }))

/-- The waiting fence of a context: its core and its operation in flight there. -/
def State.fenceOp (s : State) (x : Nat) : Option (Nat × Op) :=
  match (s.ctx x).fence with
  | none => none
  | some (c, _) =>
    (((s.core c).dmaF.find? (fun e => e.result.isNone && (match e.op with
      | .dma (.epochFence f) => !f.cancel
      | _ => false))).map (fun e => (c, e.op))).or (some (c, .dma (.epochFence ⟨100, false⟩)))

/-- No UPDATE of the context is pending or running. -/
def State.noUpdate (s : State) (x : Nat) : Bool :=
  let isUpdate (e : QEntry) : Bool := match e.op with
    | .dma (.update _) => true
    | _ => false
  (s.ctx x).cores.all (fun d => !(s.core d).dmaF.any (fun e => e.result.isNone && isUpdate e) &&
    !(s.core d).dmaQ.any (fun e => e.progress != 0 && isUpdate e))

/-- Every started stage of the context has drained. -/
def State.stagesDrained (s : State) (x : Nat) : Bool :=
  (s.ctx x).clusters.all (fun k => (s.cluster k).colls.all (fun d => d.ctx != x || d.stages.all (fun g => !g.armed || g.drained)))

/-- The carry buffers of context x on a cluster discarded and counted. -/
def Cluster.dropCarries (u : Cluster) (x : Nat) : Cluster :=
  { u with carries := u.carries.filter (fun z => z.ctx != x)
           trnLate := bumpFld u.trnLate 31 16 (u.carries.filter (fun z => z.ctx == x)).length }

def execEpochFenceDrained (x : CtxId) (s : State) : Host.Outcome State Fault Refusal :=
  .next (match s.fenceOp x with
    | none => s
    | some (c, o) =>
      if !(s.noUpdate x && s.stagesDrained x) then s
      else
        let t := (s.ctx x).clusters.foldl (fun t k => t.modCluster k (fun u => u.dropCarries x)) s
        (t.modCtx x (fun v => { v with fence := none })).recordOutcome c o .done)

/-- EPOCH_FENCE_TIMEOUT: "epoch fence timeout"; the record stays FENCED. -/
def execEpochFenceTimeout (x : CtxId) (s : State) : Host.Outcome State Fault Refusal :=
  .next (match s.fenceOp x, (s.ctx x).fence with
    | some (c, o), some (_, deadline) =>
      if s.now < deadline then s
      else
        let l : LogArgs :=
          { cls := 2, cause := 0x200F#16, block := 0x02, inst := clusterOf c,
            detail := leBytes 4 (((s.epochRec x).map (·.epoch)).getD 0) }
        ((s.modCtx x (fun v => { v with fence := none })).contained (some x.val) l).recordOutcome c o (.faulted 0x200F#16)
    | _, _ => s)

/-- The checks of EPOCH_SWITCH: FENCED, and the held table sound and of epoch + 1. -/
def epochSwitchCheck (s : State) (c : Nat) : Option Status :=
  let x := (s.ctxOfCore c).getD 16
  match s.epochRec x with
  | none => some (trnStatus 2)
  | some e => firstFail [
      (!e.fenced, trnStatus 2),
      ((match (s.ctx x).heldTable, (s.ctx x).program with
        | some rs, some p => !s.shardTableOk x p.buffers (BitVec.ofNat 32 (e.epoch + 1)) (rs.map (fun r => (r, true)))
        | _, _ => true), trnStatus 1)]

/-- EPOCH_SWITCH writes the epoch record in one line and makes the held table current. -/
def execEpochSwitch (c : CoreId) (table : Nat) (s : State) : Host.Outcome State Fault Refusal :=
  let o : Op := .dma (.epochSwitch table)
  let k := clusterOf c
  .next (match epochSwitchCheck s c with
    | some st => (s.dropEntry c o).opRefused c (queueCode .dma) (s.opEnv c o).pos st
    | none => match s.ctxOfCore c with
      | none => s
      | some x => match s.epochRec x, (s.ctx x).heldTable with
        | some e, some rs => (match s.putEpoch x ⟨(e.epoch + 1) % 2 ^ 32, false, table, e.epoch, e.table⟩ with
          | .error z => s.memStop x c o .collective k 0x02 k z
          | .ok t =>
            let u := t.modCtx x (fun v => { v with
              heldTable := none, program := v.program.map (fun p => { p with shards := rs })
              journaled := ownJournals rs, switched := some (table, rs) })
            ((u.ctx x).clusters.foldl (fun u k => u.modCluster k (fun z => { z with colStat := 0 })) u).recordOutcome c o .done)
        | _, _ => s)

end Sys2Proof.Machine
end

