-- ==== Sys2Proof/Machine/Collective.lean ====
section
/-! DEFINITION. Collectives (spec/15_collectives_and_job_mapping.md): groups and ranges, the stages of each operation,
reduction, the Beacon, the ring pass, PERMUTE, late contributions, and what an arriving COL message does. Data lie in
memory chunk after chunk in wire layout (log entry 25). -/

namespace Sys2Proof.Machine

/-! ### Groups and lines (R375, R376) -/

/-- Coordinates of a position under extents. -/
def coordsOf : List Nat → Nat → List Nat
  | [], _ => []
  | e :: r, q => (q % e) :: coordsOf r (q / e)

/-- The position of coordinates. -/
def positionOf : List Nat → List Nat → Nat
  | e :: es, c :: cs => c + e * positionOf es cs
  | _, _ => 0

def CollDesc.exts (d : CollDesc) : List Nat := d.extents.take d.dims
def CollDesc.extent (d : CollDesc) (i : Nat) : Nat := d.exts.getD i 1
def CollDesc.coord (d : CollDesc) (pos i : Nat) : Nat := (coordsOf d.exts pos).getD i 0

/-- The member of the same line of dimension i whose coordinate there is j. -/
def CollDesc.onLine (d : CollDesc) (pos i j : Nat) : Nat := positionOf d.exts ((coordsOf d.exts pos).set i j)

/-- Part p of a range (start, length) divided along a line of e members. -/
def subRange (r : Nat × Nat) (e p : Nat) : Nat × Nat := (r.1 + p * r.2 / e, (p + 1) * r.2 / e - p * r.2 / e)

/-- The range that a position owns after dimensions 0 to n - 1 divided a range. -/
def CollDesc.range (d : CollDesc) (total pos : Nat) : Nat → Nat × Nat
  | 0 => (0, total)
  | n + 1 => subRange (d.range total pos n) (d.extent n) (d.coord pos n)

/-- Chunks over all members: an ALL_GATHER's contributions lie side by side. -/
def CollDesc.total (d : CollDesc) : Nat := if d.op = 1 then d.chunks * d.members else d.chunks

/-- The largest range that any position receives at reduce stage n. -/
def CollDesc.largest (d : CollDesc) : Nat → Nat
  | 0 => ceilDiv d.chunks (d.extent 0)
  | n + 1 => ceilDiv (d.largest n) (d.extent (n + 1))

/-- Bytes of one chunk of a format (Table 15-1): elements, then scales. -/
def chunkSize (code : Byte) : Nat :=
  match fmtOf code with
  | none => 0
  | some f => 2048 * f.bits + (match f.scale with | .ms => 16 | .mx => 512 | .lf => 512 | _ => 0)

def CollDesc.wire (d : CollDesc) : Nat := chunkSize d.wireFormat

/-- Whether reduce stage n quantizes to MS8 (R380). -/
def CollDesc.quantizes (d : CollDesc) (n : Nat) : Bool :=
  if n + 1 < d.dims then formatIsMs8 d.wireFormat else d.destKind == 0 && formatIsMs8 d.destFormat

def sumTo (n : Nat) (f : Nat → Nat) : Nat := ((List.range n).map f).foldl (· + ·) 0

/-- VA of the staging slot of line position p at reduce stage n. -/
def CollDesc.stagingSlot (d : CollDesc) (n p : Nat) : Nat :=
  d.staging + sumTo n (fun i => d.extent i * d.largest i * d.wire) + p * d.largest n * d.wire

/-- VA of the carry slot of line position p of a reducer at line position own. -/
def CollDesc.carrySlot (d : CollDesc) (n own p : Nat) : Nat :=
  d.carryBuf + sumTo n (fun i => (d.extent i - 1) * d.largest i * d.wire) + (if p < own then p else p - 1) * d.largest n * d.wire

/-- VA of the error terms of quantizing stage n. -/
def CollDesc.errorAt (d : CollDesc) (n : Nat) : Nat :=
  d.errorBuf + sumTo n (fun i => if d.quantizes i then d.largest i * 32768 else 0)

/-! ### Finding things -/

/-- Descriptor i of context x's program. -/
def State.collDesc (s : State) (x i : Nat) : Option CollDesc := (s.ctx x).program.bind (fun p => p.colls[i]?)

/-- The member list of a descriptor. -/
def State.members (s : State) (x : Nat) (d : CollDesc) : List Nat :=
  ((s.peekVa x .collective d.memberList (2 * d.members)).map (fun b => words 2 b d.members)).getD []

/-- The position of a node in a member list. -/
def memberPos (l : List Nat) (node : Nat) : Option Nat := (List.range l.length).find? (fun q => l.getD q 0 == node)

/-- This device's position. -/
def State.ownPos (s : State) (x : Nat) (d : CollDesc) : Nat := (memberPos (s.members x d) s.node).getD 0

/-- The active collective of a descriptor of a context, with its cluster. -/
def State.activeColl (s : State) (x desc : Nat) : Option (Nat × Coll) :=
  (List.range 16).findSome? (fun k => ((s.cluster k).colls.find? (fun z => z.ctx == x && z.f.desc == desc)).map (fun z => (k, z)))

/-- Changes the collective of a descriptor. -/
def State.modColl (s : State) (k x desc : Nat) (g : Coll → Coll) : State :=
  s.modCluster k (fun u => { u with colls := u.colls.map (fun z => if z.ctx = x ∧ z.f.desc = desc then g z else z) })

/-- Changes a stage of a collective. -/
def Coll.modStage (z : Coll) (i : Nat) (g : Stage → Stage) : Coll :=
  { z with stages := z.stages.map (fun t => if t.index = i then g t else t) }

def Coll.stage (z : Coll) (i : Nat) : Option Stage := z.stages.find? (fun t => t.index == i)

/-! ### Stages (R379, R385, R387, R388) -/

def codeReduce : Nat := 0
def codeGather : Nat := 1
def codeExchange : Nat := 2
def codeRing : Nat := 3
def codeBeacon : Nat := 4
def codeCredit : Nat := 5
/-- PERMUTE sends no COL messages; its stage has no wire code. -/
def codePermute : Nat := 7

/-- Stages of a ring pass. -/
def CollDesc.ringStages (d : CollDesc) : Nat := if d.ringMode = 1 then d.members else d.members - 1

/-- Index, code and dimension of each stage. -/
def CollDesc.plan (d : CollDesc) : List (Nat × Nat × Nat) :=
  let g := d.dims
  let reduce := (List.range g).map (fun i => (i, codeReduce, i))
  let gather (o : Nat) := (List.range g).map (fun i => (o + i, codeGather, g - 1 - i))
  match d.op with
  | 0 => reduce
  | 1 => gather 0
  | 2 => reduce ++ gather g
  | 3 => [(0, codeExchange, 0)]
  | 4 => [(0, codePermute, 0)]
  | 5 => (List.range d.ringStages).map (fun i => (i + 1, codeRing, 0))
  | _ => (List.range g).map (fun i => (i, codeBeacon, i)) ++ (List.range g).map (fun i => (g + i, codeBeacon, g - 1 - i))

/-- Whether a stage closes by a deadline: reduce stages and a Beacon's gathers. -/
def CollDesc.timed (d : CollDesc) (st : Stage) : Bool := st.code == codeReduce || (st.code == codeBeacon && decide (st.index < d.dims))

/-- A stage at its start; ring stages from 3 on are armed later. -/
def newStage (d : CollDesc) (now : Nat) (p : Nat × Nat × Nat) : Stage :=
  let armed := p.2.1 != codeRing || decide (p.1 ≤ 2)
  let st : Stage := ⟨p.1, p.2.1, p.2.2, armed, [], none, none, false, false, decide (p.1 ≤ 2), 0, [], [], false⟩
  { st with waitUntil := if d.timed st || !armed then none else some (now + d.waitMs * 1000000) }

/-- Role of a position in a Beacon stage of dimension i: 0 none, 1 toward the head of its line, 2 the head. -/
def CollDesc.beaconRole (d : CollDesc) (pos i : Nat) : Nat :=
  if (List.range i).any (fun j => d.coord pos j != 0) then 0 else if d.coord pos i = 0 then 2 else 1

/-- Bytes that a contribution of line position p to stage st of a member at pos has. -/
def CollDesc.need (d : CollDesc) (pos : Nat) (st : Stage) (p : Nat) : Nat :=
  if st.code = codeReduce then (subRange (d.range d.total pos st.dim) (d.extent st.dim) (d.coord pos st.dim)).2 * d.wire
  else if st.code = codeGather then
    (d.range d.total (d.onLine pos st.dim p) (st.dim + 1)).2 * (if d.op = 2 then chunkSize d.destFormat else d.wire)
  else if st.code = codeExchange then d.chunks / d.members * d.wire
  else if st.code = codeRing then d.aux
  else if st.index < d.dims then (d.members + 7) / 8 + 4 else 64 + (d.members + 7) / 8

/-- Whether a contribution has arrived whole. -/
def CollDesc.whole (d : CollDesc) (pos : Nat) (st : Stage) (c : Contribution) : Bool := decide (d.need pos st c.pos ≤ c.arrived)

/-- The contributions present at a stage, in ascending position. -/
def insertContribution (c : Contribution) : List Contribution → List Contribution
  | [] => [c]
  | a :: r => if c.pos < a.pos then c :: a :: r else a :: insertContribution c r

def CollDesc.presentAt (d : CollDesc) (pos : Nat) (st : Stage) : List Contribution :=
  (st.got.filter (d.whole pos st)).foldl (fun l c => insertContribution c l) []

/-- Positions whose data a stage waits for: line positions, or members for an exchange. -/
def CollDesc.senders (d : CollDesc) (pos : Nat) (st : Stage) : List Nat :=
  if st.code = codeReduce then List.range (d.extent st.dim)
  else if st.code = codeGather then (List.range (d.extent st.dim)).filter (· != d.coord pos st.dim)
  else if st.code = codeExchange then (List.range d.members).filter (· != pos)
  else if st.code = codeRing then [(pos + d.members - 1) % d.members]
  else if st.code = codeBeacon then
    match d.beaconRole pos st.dim with
    | 0 => []
    | 1 => if st.index < d.dims then [] else [0]
    | _ => if st.index < d.dims then List.range (d.extent st.dim) else []
  else []

/-- Senders still missing at a stage. -/
def CollDesc.missing (d : CollDesc) (pos : Nat) (st : Stage) : List Nat :=
  (d.senders pos st).filter (fun p => !((d.presentAt pos st).any (fun c => c.pos == p)))

/-! ### Ending and failing (R379, R391) -/

/-- The 32-byte result record. -/
def Coll.resultRecord (z : Coll) : List Byte :=
  leFields [(4, z.stepNo.toNat), (1, (z.stages.filter (·.closed)).length), (1, if z.nonfinite then 1 else 0), (2, 0), (4, z.count),
    (4, z.lateAdded), (4, z.lateDiscarded), (12, 0)]

/-- The operation that started a collective. -/
def Coll.op (z : Coll) : Op := if z.beacon then .dma (.beacon z.f) else .dma (.collStart z.f)

/-- Takes a collective away; its unsent messages are withdrawn. -/
def State.dropColl (s : State) (k : Nat) (z : Coll) : State :=
  let mine (m : Message) : Bool := m.ctx == z.ctx && (match m.owner with
    | .coll _ d _ => d == z.f.desc
    | _ => false)
  let t := { s with xpt := { s.xpt with toSend := s.xpt.toSend.filter (fun m => !mine m) } }
  t.modCluster k (fun u => { u with colls := u.colls.filter (fun y => !(y.ctx == z.ctx && y.f.desc == z.f.desc)) })

/-- A collective ends faulted: the context stops, the record lists up to 16 positions whose data are missing. -/
def State.collFault (s : State) (k : Nat) (z : Coll) : State :=
  let miss := match s.collDesc z.ctx z.f.desc, z.stages.find? (fun t => t.armed && !t.closed) with
    | some d, some st =>
      let pos := s.ownPos z.ctx d
      (d.missing pos st).map (fun p => if st.code = codeExchange || st.code = codeRing then p else d.onLine pos st.dim p)
    | _, _ => []
  let l : LogArgs :=
    { cls := 2, cause := 0x200E#16, block := 0x02, inst := k, progress := some (z.stages.filter (·.closed)).length,
      detail := leBytes 1 z.f.desc ++ leBytes 1 (z.stages.filter (·.closed)).length ++ (miss.take 16).flatMap (leBytes 4) }
  let t := match s.putVa z.ctx .collective z.f.result z.resultRecord with | .ok t => t | .error _ => s
  (((t.contained (some z.ctx) l).dropColl k z)).recordOutcome z.core z.op (.faulted 0x200E#16)

/-- A translation fault or poisoned descriptor ends a collective at its last completed stage, which its result record names where
it can be written (R379, Table 10-6). -/
def State.collMemStop (s : State) (k : Nat) (z : Coll) (e : MemStop) : State :=
  let t := match s.putVa z.ctx .collective z.f.result z.resultRecord with | .ok t => t | .error _ => s
  ((t.memStop z.ctx z.core z.op .collective k 0x02 k e).dropColl k z)

/-! ### Sending (R379, R380) -/

/-- Detail of a COL cell (Table 15-4). -/
def colDetail (z : Coll) (stage : Nat) (nonfinite : Bool) : Nat :=
  (if nonfinite then 2 ^ 13 else 0) + z.stepNo.toNat % 4 * 2 ^ 11 + stage % 16 * 2 ^ 7 + z.f.desc % 128

/-- Sends bytes to a member as the contribution to a stage, in messages of at most 4,096 cells. `track` is the stage whose
outbound messages they are. -/
def State.collSend (s : State) (k : Nat) (z : Coll) (track code stage dest : Nat) (nonfinite : Bool) (count : Nat)
    (bs : List PByte) : State :=
  let lk := (s.ctx z.ctx).clusters.findIdx (· == k)
  let h := headerA dest (8 * s.epochBit z.ctx + code) (s.ctx z.ctx).rtag (colDetail z stage nonfinite)
  let ps := if bs = [] then [[]] else piecesOf 163840 bs
  let ms := ps.zipIdx.map (fun p =>
    let valid := if p.1 = [] then 1 else validLastOf 40 p.1.length
    let pay := if p.1 = [] then [(leBytes 8 0, false)] else
      payloads40 (fun i => (163840 * p.2 + 40 * i) % 2 ^ 40 + valid * 2 ^ 40 + count % 2 ^ 18 * 2 ^ 46) p.1
    (⟨clCol, h, z.ctx, pay, none, .coll lk z.f.desc track⟩ : Message))
  (s.queueMsgs ms).modColl k z.ctx z.f.desc (fun y => y.modStage track (fun t => { t with outstanding := t.outstanding + ms.length }))

/-- Reads bytes of context memory with their poison. -/
def State.collRead (s : State) (z : Coll) (va n : Nat) : Except MemStop (State × List PByte) :=
  match s.readLoc z.ctx z.core .collective ⟨.va, va⟩ n with
  | .error e => .error (.fault e.1 .read e.2)
  | .ok r => .ok r

/-- Writes bytes of context memory with their poison. -/
def State.collWrite (s : State) (z : Coll) (va : Nat) (bs : List PByte) : Except MemStop State :=
  match s.writeLoc z.ctx z.core .collective ⟨.va, va⟩ bs with
  | .error e => .error (.fault e.1 .write e.2)
  | .ok t => .ok t

/-- A contribution of this member to one of its own stages. -/
def Coll.ownPart (z : Coll) (stage own count : Nat) (nonfinite : Bool) (n : Nat) (bytes : List Byte) (now deadlineUs : Nat) : Coll :=
  z.modStage stage (fun t => { t with
    got := t.got ++ [⟨own, count, nonfinite, n, bytes⟩]
    deadline := if t.deadline.isSome then t.deadline else some (now + deadlineUs * 1000) })

/-- The record and the counters of a late contribution (R307). -/
def State.lateContribution (s : State) (x k node stage step : Nat) (added : Bool) : State :=
  let l : LogArgs :=
    { cls := 0, cause := 0x2015#16, block := 0x02, inst := k, ctx := some x,
      detail := leBytes 2 node ++ leBytes 1 stage ++ leBytes 4 step ++ leBytes 1 (if added then 1 else 0) }
  (s.corrected l).modCluster k (fun u =>
    let w := withFld u.trnLate 63 48 node
    { u with trnLate := if added then bumpFld w 15 0 1 else bumpFld w 31 16 1 })

/-- Whether a member's carry slot is occupied by another contribution. -/
def Cluster.carryFull (u : Cluster) (x desc stage p step4 : Nat) : Bool :=
  u.carries.any (fun y => y.ctx == x && y.desc == desc && y.stage == stage && y.c.pos == p &&
    (y.step4 != step4 || decide (y.need ≤ y.c.arrived)))

/-- Whether a late contribution of line position p is held in its carry slot (R306, R387). -/
def State.holdsLate (s : State) (k x desc : Nat) (d : CollDesc) (st : Stage) (p step4 : Nat) : Bool :=
  d.timed st && (st.code == codeBeacon || (d.policy == 0 && p != d.coord (s.ownPos x d) st.dim)) &&
    !(s.cluster k).carryFull x desc st.index p step4

/-- What has come of a contribution that its closing stage does not take: late from now on (R306). -/
def State.leftOver (s : State) (k : Nat) (z : Coll) (d : CollDesc) (st : Stage) (c : Contribution) : Except MemStop State := do
  let pos := s.ownPos z.ctx d
  let node := (s.members z.ctx d).getD (d.onLine pos st.dim c.pos) 0
  let step4 := z.stepNo.toNat % 4
  let n := d.need pos st c.pos
  if s.holdsLate k z.ctx z.f.desc d st c.pos step4 then
    let b ← s.collRead z (d.stagingSlot st.dim c.pos) n
    let t ← b.1.collWrite z (d.carrySlot st.dim (d.coord pos st.dim) c.pos) b.2
    .ok ((t.modCluster k (fun u => { u with carries := u.carries ++ [⟨z.ctx, z.f.desc, st.index, step4, n, c⟩] })).lateContribution
      z.ctx k node st.index z.stepNo.toNat true)
  else .ok ((s.lateContribution z.ctx k node st.index z.stepNo.toNat false).modColl k z.ctx z.f.desc (fun y =>
    { y with lateDiscarded := y.lateDiscarded + 1 }))

/-- The blocks of a range sent to the reducers of stage n, this member's own into its staging slot (R383). `base` is the VA of
the range's first chunk in wire layout. -/
def State.scatterRange (s : State) (k : Nat) (z : Coll) (d : CollDesc) (track n : Nat) (range : Nat × Nat)
    (count : Nat) (nonfinite : Bool) (chunk : Nat → List PByte) : Except MemStop State :=
  let pos := s.ownPos z.ctx d
  let nodes := s.members z.ctx d
  let own := d.coord pos n
  (List.range (d.extent n)).foldlM (fun (t : State) p =>
    let r := subRange range (d.extent n) p
    let bs := (List.range r.2).flatMap (fun i => chunk (r.1 - range.1 + i))
    if p = own then
      match (t.activeColl z.ctx z.f.desc).bind (fun y => y.2.stage n) with
      | none => .ok t
      | some st =>
        if st.closed then .ok ((t.lateContribution z.ctx k s.node n z.stepNo.toNat false).modColl k z.ctx z.f.desc (fun y =>
          { y with lateDiscarded := y.lateDiscarded + 1 }))
        else do
          let u ← t.collWrite z (d.stagingSlot n p) bs
          .ok (u.modColl k z.ctx z.f.desc (fun y => y.ownPart n own count nonfinite (r.2 * d.wire) [] s.now d.deadlineUs))
    else .ok (t.collSend k z track codeReduce n (nodes.getD (d.onLine pos n p) 0) nonfinite count bs)) s

/-- Chunks of a byte string in wire layout. -/
def chunkAt (w : Nat) (bs : List PByte) (i : Nat) : List PByte := (bs.drop (w * i)).take w

/-! ### One chunk (R381) -/

/-- The values of a chunk in wire layout: FP32 by R44. -/
def chunkValues (f : Fmt) (bs : List Byte) : List FVal :=
  let w := f.bits / 8
  (words w bs 16384).zipIdx.map (fun e =>
    let sc := if f.scale = .ms then some (bs.getD (16384 * w + e.2 / 1024) 0) else none
    ofFp32 (laneOf (f.decode [] sc e.1)).1)

/-- Elements of a format side by side: eight of them fill as many bytes as one has bits. -/
def packElems (bits : Nat) (vs : List Nat) : List Byte :=
  (piecesOf 8 vs).flatMap (fun g => leBytes bits ((g.zipIdx.map (fun e => e.1 * 2 ^ (bits * e.2))).foldl (· + ·) 0))

/-- The codebook of a result in an LF format: a collective names none (log entry 25). -/
def collBook (f : Fmt) : Codebook :=
  if f.scale = .lf then (List.range (2 ^ f.bits)).map (fun i => bf16.decode (Config.collBook f.bits i).toNat) else []

/-- A chunk rounded to a format, in wire layout: its elements, then its scales, one for each block of an MS format or group
of an MX or LF format. -/
def chunkEncode (f : Fmt) (xs : List FVal) : List Byte :=
  let group := match f.scale with | .ms => 1024 | .mx => 32 | .lf => 32 | _ => 0
  if group = 0 then packElems f.bits (xs.map (fun x => (f.encode [] none .nearestEven f.satDefault 0 x).1))
  else
    let blocks : List (Byte × List (Nat × CFlags)) := (piecesOf group xs).map (fun b => quantGroup f (collBook f) none .nearestEven f.satDefault
      (b.map (fun x => ⟨x, 0⟩)))
    packElems f.bits (blocks.flatMap (fun q => q.2.map (·.1))) ++ blocks.map (·.1)

/-- The error terms of a quantized chunk: bf16(x - decode(q)), +0 in a block of scale 0xFF. -/
def chunkErrors (f : Fmt) (xs : List FVal) (bs : List Byte) : List Byte :=
  let qs := (words 1 bs 16384).zipIdx.map (fun e =>
    let sc := bs.getD (16384 + e.2 / 1024) 0
    if sc = 0xFF#8 then none else some (f.decode [] (some sc) e.1))
  (xs.zip qs).flatMap (fun p => leBytes 2 (match p.2 with
    | none => 0
    | some q => (bf16.encode .nearestEven false 0 (p.1.sub q)).1))

/-- s + h of the contributions, the carries and the error term of each element, in that order. -/
def chunkSum (parts : List (List FVal)) : List FVal :=
  (List.range 16384).map (fun n => pairValue (accRows (parts.map (fun p => p.getD n FVal.zero))))

/-- Whether position e of a chunk of a shard, in wire layout, holds an element and no pad: pads are decoded as +0, left out of amax and
written as +0 (R38). -/
def ShardRec.holds (r : ShardRec) (i e : Nat) : Bool :=
  let k := r.chunk i
  let slot := e / 1024
  (List.range 4).any (fun v => mirrorSlot (slot / 4) v == slot &&
    decide (32 * (slot / 4) + e % 1024 / 32 < k.nr ∧ 32 * v + e % 32 < k.nc))

/-- The values of chunk i of a shard with +0 in its pads. -/
def ShardRec.unpadded (r : ShardRec) (i : Nat) (xs : List FVal) : List FVal :=
  xs.zipIdx.map (fun z => if r.holds i z.2 then z.1 else FVal.zero)

/-! ### Closing a reduce stage (R381 to R384) -/

/-- What a closed reduce stage folded: count and bit. -/
def foldedCount (cs : List Contribution) : Nat := (cs.map (·.count)).foldl (· + ·) 0

/-- The complete carries of a stage, in ascending position. -/
def Cluster.carriesOf (u : Cluster) (x desc stage : Nat) : List Contribution :=
  ((u.carries.filter (fun y => y.ctx == x && y.desc == desc && y.stage == stage && decide (y.need ≤ y.c.arrived))).map (·.c)).foldl
    (fun l c => insertContribution c l) []

/-- The output of one chunk of a reduce stage: state, output bytes in `out`, error-term bytes, poison. -/
def State.reduceChunk (s : State) (z : Coll) (d : CollDesc) (n i : Nat) (slots : List Nat) (shard : Option ShardRec) :
    Except MemStop (State × List FVal × Bool) := do
  let f := fmtOr d.wireFormat
  let a ← slots.foldlM (fun (a : State × List (List FVal) × Bool) slot => do
    let r ← a.1.collRead z (slot + i * d.wire) d.wire
    .ok (r.1, a.2.1 ++ [chunkValues f (r.2.map (·.1))], a.2.2 || r.2.any (·.2))) (s, [], false)
  let err ← if d.quantizes n && d.errorBuf != 0 then do
      let r ← a.1.collRead z (d.errorAt n + i * 32768) 32768
      .ok (r.1, [(words 2 (r.2.map (·.1)) 16384).map bf16.decode], r.2.any (·.2))
    else match shard with
      | some q => do
        let r ← a.1.collRead z (q.errorTerm.base + i * 32768) 32768
        .ok (r.1, [(words 2 (r.2.map (·.1)) 16384).map bf16.decode], r.2.any (·.2))
      | none => .ok (a.1, [], false)
  let xs := chunkSum (a.2.1 ++ err.2.1)
  .ok (err.1, (match shard with | some q => q.unpadded i xs | none => xs), a.2.2 || err.2.2)

/-- Bytes with one poison bit. -/
def marked (poison : Bool) (bs : List Byte) : List PByte := bs.map (fun b => (b, poison))

/-- Writes the output of a final reduce stage for chunk i of this member's range. -/
def State.finalChunk (s : State) (z : Coll) (d : CollDesc) (start i : Nat) (shard : Option ShardRec) (xs : List FVal)
    (poison : Bool) : Except MemStop State :=
  match shard with
  | some q => do
    let f := fmtOr q.gradFormat
    let bs := chunkEncode f xs
    let t ← s.collWrite z (q.gradient.base + 16384 * i) (marked poison (bs.take 16384))
    let u ← t.collWrite z (q.gradient.scales.getD 0 + 16 * i) (marked poison (bs.drop 16384))
    u.collWrite z (q.errorTerm.base + 32768 * i) (marked poison (chunkErrors f xs bs))
  | none =>
    let f := fmtOr d.destFormat
    let at' := if d.op = 2 then start + i else i
    s.collWrite z (z.f.dst + at' * chunkSize d.destFormat) (marked poison (chunkEncode f xs))

/-- Closes reduce stage n with the contributions present. -/
def State.closeReduce (s : State) (k : Nat) (z : Coll) (d : CollDesc) (st : Stage) : Except MemStop State := do
  let n := st.dim
  let pos := s.ownPos z.ctx d
  let own := d.coord pos n
  let got := d.presentAt pos st
  let carried := (s.cluster k).carriesOf z.ctx z.f.desc st.index
  let range := d.range d.total pos (n + 1)
  let final := decide (n + 1 = d.dims)
  let shard := if final && d.destKind == 1 then s.ownedShard z.ctx z.f.shard else none
  let slots := got.map (fun c => d.stagingSlot n c.pos) ++ carried.map (fun c => d.carrySlot n own c.pos)
  let count := foldedCount got + foldedCount carried
  let bit := got.any (·.nonfinite) || carried.any (·.nonfinite)
  let f := fmtOr d.wireFormat
  let out ← (List.range range.2).foldlM (fun (a : State × List (List PByte) × List (Nat × List Byte)) i => do
    let r ← a.1.reduceChunk z d n i slots shard
    if final then do
      let t ← r.1.finalChunk z d range.1 i shard r.2.1 r.2.2
      let q := chunkEncode (fmtOr d.destFormat) r.2.1
      .ok (t, a.2.1, if d.quantizes n && d.errorBuf != 0 then
        a.2.2 ++ [(d.errorAt n + i * 32768, chunkErrors (fmtOr d.destFormat) r.2.1 q)] else a.2.2)
    else
      let q := chunkEncode f r.2.1
      .ok (r.1, a.2.1 ++ [marked r.2.2 q], if d.quantizes n && d.errorBuf != 0 then
        a.2.2 ++ [(d.errorAt n + i * 32768, chunkErrors f r.2.1 q)] else a.2.2)) (s, [], [])
  let t := out.1.modCluster k (fun u => { u with
    carries := u.carries.filter (fun y => !(y.ctx == z.ctx && y.desc == z.f.desc && y.stage == st.index && decide (y.need ≤ y.c.arrived))) })
  let t ← (st.got.filter (fun c => !d.whole pos st c)).foldlM (fun (t : State) c => t.leftOver k z d st c) t
  let t := if bit then t.modCtx z.ctx (fun v => { v with nonfinite := true }) else t
  let t := t.modColl k z.ctx z.f.desc (fun y => { (y.modStage st.index (fun g => { g with closed := true, errTerms := out.2.2 })) with
    count := count, nonfinite := y.nonfinite || bit, lateAdded := y.lateAdded + carried.length })
  if final then .ok t
  else t.scatterRange k z d st.index (n + 1) range count bit (fun i => out.2.1.getD i [])

/-! ### Gathers (R385) -/

/-- Sends this member's current range to its line peers at a gather stage. -/
def State.sendGather (s : State) (k : Nat) (z : Coll) (d : CollDesc) (st : Stage) : Except MemStop State := do
  let pos := s.ownPos z.ctx d
  let nodes := s.members z.ctx d
  let w := if d.op = 2 then chunkSize d.destFormat else d.wire
  let r := d.range d.total pos (st.dim + 1)
  let b ← s.collRead z (z.f.dst + r.1 * w) (r.2 * w)
  let peers := (List.range (d.extent st.dim)).filter (· != d.coord pos st.dim)
  let t := peers.foldl (fun (t : State) p =>
    t.collSend k z st.index codeGather st.index (nodes.getD (d.onLine pos st.dim p) 0) z.nonfinite z.count b.2) b.1
  .ok (t.modColl k z.ctx z.f.desc (fun y => y.modStage st.index (fun g => { g with sent := true })))

/-! ### Beacon (R304, R387) -/

/-- OR of two masks. -/
def orMask (a b : List Byte) : List Byte :=
  (List.range (max a.length b.length)).map (fun i => a.getD i 0 ||| b.getD i 0)

/-- A mask with one member's bit. -/
def memberMask (members pos : Nat) : List Byte :=
  (List.range ((members + 7) / 8)).map (fun i => if i = pos / 8 then BitVec.ofNat 8 (2 ^ (pos % 8)) else 0)

def maskCount (m : List Byte) : Nat :=
  (m.map (fun b => ((List.range 8).filter (fun i => bitOf b.toNat i)).length)).foldl (· + ·) 0

/-- The record of a Beacon, with its mask. -/
def beaconRecord (z : Coll) (d : CollDesc) : List Byte :=
  let n := maskCount z.present
  leFields [(4, z.stepNo.toNat), (1, (if z.nonfinite then 1 else 0) + (if n < d.members then 2 else 0)), (3, 0), (4, n),
    (4, d.members), (4, z.lateFolded), (44, 0)] ++ z.present

/-- What a Beacon contribution carries: the mask and the late contributions folded below. -/
def beaconData (z : Coll) : List Byte := z.present ++ leBytes 4 z.lateFolded

/-- Closes a Beacon's gather stage. -/
def State.closeBeaconGather (s : State) (k : Nat) (z : Coll) (d : CollDesc) (st : Stage) : State :=
  let pos := s.ownPos z.ctx d
  let shut (y : Coll) : Coll := y.modStage st.index (fun g => { g with closed := true, sent := true })
  match d.beaconRole pos st.dim with
  | 0 => s.modColl k z.ctx z.f.desc shut
  | 1 =>
    let head := (s.members z.ctx d).getD (d.onLine pos st.dim 0) 0
    (s.modColl k z.ctx z.f.desc shut).collSend k z st.index codeBeacon st.index head z.nonfinite z.count (marked false (beaconData z))
  | _ =>
    let got := d.presentAt pos st
    let carried := (s.cluster k).carriesOf z.ctx z.f.desc st.index
    let masks := got.foldl (fun m c => orMask m (c.bytes.take ((d.members + 7) / 8))) []
    let late := (got.map (fun c => leAt c.bytes ((d.members + 7) / 8) 4)).foldl (· + ·) 0 + carried.length
    let t := s.modCluster k (fun u => { u with
      carries := u.carries.filter (fun y => !(y.ctx == z.ctx && y.desc == z.f.desc && y.stage == st.index && decide (y.need ≤ y.c.arrived))) })
    let y : Coll := { shut z with present := masks, count := foldedCount got, lateFolded := late
                                  nonfinite := got.any (·.nonfinite) || carried.any (·.nonfinite) }
    let n := (d.members + 7) / 8 + 4
    let t := t.modColl k z.ctx z.f.desc (fun _ => y)
    if st.index + 1 = d.dims then t.modColl k z.ctx z.f.desc (fun y => { y with record := if pos = 0 then beaconRecord y d else y.record })
    else match z.stage (st.index + 1) with
      | none => t
      | some next =>
        if !next.closed then t.modColl k z.ctx z.f.desc (fun y =>
          y.ownPart next.index 0 y.count y.nonfinite n (beaconData y) s.now d.deadlineUs)
        else
          let step4 := z.stepNo.toNat % 4
          let held := s.holdsLate k z.ctx z.f.desc d next 0 step4
          let t := if held then t.modCluster k (fun u => { u with carries := u.carries ++
              [⟨z.ctx, z.f.desc, next.index, step4, n, ⟨0, y.count, y.nonfinite, n, beaconData y⟩⟩] })
            else t.modColl k z.ctx z.f.desc (fun y => { y with lateDiscarded := y.lateDiscarded + 1 })
          t.lateContribution z.ctx k s.node next.index z.stepNo.toNat held

/-- Closes a Beacon's broadcast stage: the head sends the record, a receiver takes it. -/
def State.closeBeaconCast (s : State) (k : Nat) (z : Coll) (d : CollDesc) (st : Stage) : State :=
  let pos := s.ownPos z.ctx d
  let shut (y : Coll) : Coll := y.modStage st.index (fun g => { g with closed := true, sent := true })
  match d.beaconRole pos st.dim with
  | 0 => s.modColl k z.ctx z.f.desc shut
  | 1 =>
    let r := ((d.presentAt pos st).head?.map (·.bytes)).getD []
    s.modColl k z.ctx z.f.desc (fun y => { shut y with record := r, nonfinite := bitOf (leAt r 4 1) 0, count := leAt r 8 4 })
  | _ =>
    let nodes := s.members z.ctx d
    (((List.range (d.extent st.dim)).filter (· != 0)).foldl (fun (t : State) p =>
      t.collSend k z st.index codeBeacon st.index (nodes.getD (d.onLine pos st.dim p) 0) z.nonfinite z.count (marked false z.record)) s).modColl
        k z.ctx z.f.desc shut

/-! ### Advancing (R383) -/

/-- Whether a stage may close now: its data are complete and the stage before it has closed. -/
def Coll.closable (z : Coll) (d : CollDesc) (pos : Nat) (st : Stage) : Bool :=
  let before := (z.stages.filter (fun t => decide (t.index < st.index))).all (·.closed)
  st.armed && !st.closed &&
    (if st.code = codeReduce then d.missing pos st == []
     else if st.code = codeGather then before && st.sent && d.missing pos st == []
     else if st.code = codeExchange then st.sent && d.missing pos st == []
     else if st.code = codeRing then d.missing pos st == []
     else if st.code = codeBeacon then before && d.missing pos st == []
     else false)

/-- Closes one stage. -/
def State.closeStage (s : State) (k : Nat) (z : Coll) (d : CollDesc) (st : Stage) : Except MemStop State :=
  if st.code = codeReduce then s.closeReduce k z d st
  else if st.code = codeBeacon then
    .ok (if st.index < d.dims then s.closeBeaconGather k z d st else s.closeBeaconCast k z d st)
  else
    let t := s.modColl k z.ctx z.f.desc (fun y => y.modStage st.index (fun g => { g with closed := true }))
    .ok (if st.code = codeRing then t.addFlag k d.flagA 1 else t)

/-- Whether PERMUTE's stage may close (R386): its own messages have ended done and flag_a has reached aux. -/
def State.permuteDone (s : State) (k : Nat) (d : CollDesc) (st : Stage) : Bool :=
  st.code == codePermute && st.sent && !st.closed && st.outstanding == 0 && st.parts.all (fun p => p.2 == 0) &&
    decide (d.aux ≤ (s.flag k d.flagA).toNat)

/-- A gather stage whose turn to send has come. -/
def Coll.sendable (z : Coll) (st : Stage) : Bool :=
  st.code == codeGather && !st.sent && (z.stages.filter (fun t => decide (t.index < st.index))).all (·.closed)

/-- Stages that have drained: closed, nothing outstanding. Their error terms are written (R383). -/
def State.drainStages (s : State) (k : Nat) (z : Coll) : Except MemStop State :=
  (z.stages.filter (fun t => t.closed && !t.drained && t.outstanding == 0 && (t.sent || t.code != codeRing))).foldlM
    (fun (t : State) st => do
      let u ← st.errTerms.foldlM (fun (u : State) e => u.collWrite z e.1 (marked false e.2)) t
      .ok ((u.modColl k z.ctx z.f.desc (fun y => y.modStage st.index (fun g => { g with drained := true, errTerms := [] }))).modCluster k
        (fun v => { v with colStat := withFld v.colStat 63 32 ((fld v.colStat 63 32 + 1) % 2 ^ 32) }))) s

/-- Ends a collective all of whose stages have drained: the result record, and a Beacon's record. -/
def State.collEnd (s : State) (k : Nat) (z : Coll) : Except MemStop State := do
  let t ← if z.beacon then s.putVa z.ctx .collective z.f.dst z.record else .ok s
  let u ← t.putVa z.ctx .collective z.f.result z.resultRecord
  .ok ((u.dropColl k z).recordOutcome z.core z.op .done)

/-- One thing that a collective can do now. -/
def State.collStep (s : State) (k : Nat) (z : Coll) (d : CollDesc) : Except MemStop (Option State) :=
  let pos := s.ownPos z.ctx d
  match z.stages.find? (fun st => z.sendable st) with
  | some st => (s.sendGather k z d st).map some
  | none => match z.stages.find? (fun st => z.closable d pos st) with
    | some st => (s.closeStage k z d st).map some
    | none => match z.stages.find? (fun st => s.permuteDone k d st) with
      | some st => .ok (some (s.modColl k z.ctx z.f.desc (fun y => y.modStage st.index (fun g => { g with closed := true }))))
      | none =>
        if z.stages.any (fun t => t.closed && !t.drained && t.outstanding == 0 && (t.sent || t.code != codeRing)) then
          (s.drainStages k z).map some
        else if z.stages.all (·.drained) then (s.collEnd k z).map some
        else .ok none

/-- Carries a collective as far as it goes. A suspended one is held (Table 10-9). -/
def State.collAdvance (x desc : Nat) : Nat → State → State
  | 0, s => s
  | n + 1, s =>
    if s.mustSuspend x then s else
    match s.activeColl x desc, s.collDesc x desc with
    | some (k, z), some d => match s.collStep k z d with
      | .error e => s.collMemStop k z e
      | .ok none => s
      | .ok (some t) => State.collAdvance x desc n t
    | _, _ => s

/-- Steps that a collective of n stages can take at once. -/
def State.collGo (s : State) (x desc : Nat) : State :=
  match s.activeColl x desc with
  | none => s
  | some (_, z) => State.collAdvance x desc (4 * z.stages.length + 4) s

/-- PERMUTE collectives of a cluster looked at again after a flag has moved (R386). -/
def State.flagsMoved (s : State) (k : Nat) : State :=
  (s.cluster k).colls.foldl (fun t z =>
    if ((s.collDesc z.ctx z.f.desc).map (·.op)) = some 4 then t.collGo z.ctx z.f.desc else t) s

/-! ### Starting (R379, R385 to R388) -/

/-- Bytes of the source and of the destination that a collective names. -/
def CollDesc.srcBytes (d : CollDesc) : Nat := match d.op with | 4 => 0 | 5 => d.aux | 6 => 0 | _ => d.chunks * d.wire
def CollDesc.dstBytes (d : CollDesc) (pos : Nat) : Nat :=
  match d.op with
  | 0 => if d.destKind = 1 then 0 else (d.range d.total pos d.dims).2 * chunkSize d.destFormat
  | 1 => d.total * d.wire
  | 2 => d.chunks * chunkSize d.destFormat
  | 3 => d.chunks * d.wire
  | 6 => 64 + (d.members + 7) / 8
  | _ => 0

/-- Whether an address is aligned and its range pinned context memory. -/
def State.pinnedBad (s : State) (x va n : Nat) : Bool := vaBad va n || !s.rangePinned x va n

/-- The checks of Table 15-3. -/
def collCheck (s : State) (c : Nat) (f : CollF) (beacon : Bool) : Option Status :=
  let x := (s.ctxOfCore c).getD 16
  match s.collDesc x f.desc with
  | none => some (colStatus 1)
  | some d => firstFail [
      (beacon && d.op != 6, colStatus 1),
      ((d.op != 6 && s.pinnedBad x f.src d.srcBytes) || (d.op != 5 && !(d.op == 0 && d.destKind == 1) &&
        s.pinnedBad x f.dst (d.dstBytes (s.ownPos x d))) || s.pinnedBad x f.result 32, colStatus 2),
      (d.destKind == 1 && (match s.ownedShard x f.shard with
        | none => true
        | some r => r.chunkCount != (d.range d.total (s.ownPos x d) d.dims).2), colStatus 3),
      (d.op != 4 && ((s.epochRec x).map (·.fenced)).getD false, colStatus 4),
      ((s.activeColl x f.desc).isSome, colStatus 5)]

/-- The entries of a permute list. -/
def permuteEntries (bs : List Byte) (n : Nat) : List (Nat × Nat × Nat × Nat) :=
  (List.range n).map (fun i => (leAt bs (24 * i) 4, leAt bs (24 * i + 4) 4, leAt bs (24 * i + 8) 8, leAt bs (24 * i + 16) 8))

/-- PERMUTE's messages: class BLK PUTs in list order, local entries copied (R386); the node of a position outside the group
is a free value (log entry 26). -/
def State.startPermute (s : State) (k : Nat) (z : Coll) (d : CollDesc) : Except MemStop State := do
  let pos := s.ownPos z.ctx d
  let nodes := s.members z.ctx d
  let lk := (s.ctx z.ctx).clusters.findIdx (· == k)
  let rtag := (s.ctx z.ctx).rtag
  let l ← s.fetchVa z.ctx .collective d.permuteList (24 * d.permuteCount)
  let t ← (permuteEntries l.2 d.permuteCount).foldlM (fun (t : State) e => do
    let b ← t.collRead z (z.f.src + e.2.2.1) e.2.1
    if e.1 = pos then b.1.collWrite z (z.f.dst + e.2.2.2) b.2
    else
      let ms := (piecesOf 163840 b.2).zipIdx.map (fun p =>
        putMessage clBlk (nodes.getD e.1 (Config.freeNat b.1.freeCtr % 65536)) rtag 0 0 (z.f.dst + e.2.2.2 + 163840 * p.2) z.ctx p.1 (.coll lk z.f.desc 0))
      .ok ((({ b.1 with freeCtr := b.1.freeCtr + 1 } : State).queueMsgs ms).modColl k z.ctx z.f.desc (fun y => y.modStage 0 (fun g => { g with
        outstanding := g.outstanding + ms.length
        parts := if g.parts.any (fun q => q.1 == e.1) then
            g.parts.map (fun q => if q.1 = e.1 then (q.1, q.2 + ms.length) else q)
          else g.parts ++ [(e.1, ms.length)] })))) l.1
  .ok (t.modColl k z.ctx z.f.desc (fun y => y.modStage 0 (fun g => { g with sent := true })))

/-- ALL_TO_ALL's messages and the local block. -/
def State.startExchange (s : State) (k : Nat) (z : Coll) (d : CollDesc) : Except MemStop State := do
  let pos := s.ownPos z.ctx d
  let nodes := s.members z.ctx d
  let n := d.chunks / d.members * d.wire
  let t ← (List.range d.members).foldlM (fun (t : State) j => do
    let b ← t.collRead z (z.f.src + j * n) n
    if j = pos then b.1.collWrite z (z.f.dst + pos * n) b.2
    else .ok (b.1.collSend k z 0 codeExchange 0 (nodes.getD j 0) z.nonfinite 1 b.2)) s
  .ok (t.modColl k z.ctx z.f.desc (fun y => y.modStage 0 (fun g => { g with sent := true })))

/-- The first sends of a collective. -/
def State.collFirst (s : State) (k : Nat) (z : Coll) (d : CollDesc) : Except MemStop State := do
  let pos := s.ownPos z.ctx d
  match d.op with
  | 1 => do
    let b ← s.collRead z z.f.src (d.chunks * d.wire)
    b.1.collWrite z (z.f.dst + (d.range d.total pos d.dims).1 * d.wire) b.2
  | 3 => s.startExchange k z d
  | 4 => s.startPermute k z d
  | 5 => do
    let b ← s.collRead z z.f.src d.aux
    let next := (s.members z.ctx d).getD ((pos + 1) % d.members) 0
    .ok ((b.1.collSend k z 1 codeRing 1 next z.nonfinite 1 b.2).modColl k z.ctx z.f.desc (fun y =>
      y.modStage 1 (fun g => { g with sent := true })))
  | 6 => .ok (s.modColl k z.ctx z.f.desc (fun y =>
      y.ownPart 0 0 1 y.nonfinite ((d.members + 7) / 8 + 4) (beaconData y) s.now d.deadlineUs))
  | _ => do
    let b ← s.collRead z z.f.src (d.chunks * d.wire)
    b.1.scatterRange k z d 0 0 (0, d.chunks) 1 z.nonfinite (chunkAt d.wire b.2)

/-- A collective as it starts. -/
def State.newColl (s : State) (x c : Nat) (f : CollF) (beacon : Bool) (d : CollDesc) (stepNo : Word32) : Coll :=
  { core := c, ctx := x, f := f, stepNo := stepNo, beacon := beacon, stages := d.plan.map (newStage d s.now), count := 1
    nonfinite := (s.ctx x).nonfinite, present := if d.op = 6 then memberMask d.members (s.ownPos x d) else [], record := []
    lateAdded := 0, lateDiscarded := 0, lateFolded := 0 }

/-- A collective joins those of its cluster with its armed stages counted. BEACON reads and clears the non-finite bit in one
action (R304). -/
def State.joined (s : State) (z : Coll) (d : CollDesc) : State :=
  (if d.op = 6 then s.modCtx z.ctx (fun v => { v with nonfinite := false }) else s).modCluster (clusterOf z.core) (fun u => { u with
    colls := u.colls ++ [z]
    colStat := withFld u.colStat 31 0 ((fld u.colStat 31 0 + (z.stages.filter (·.armed)).length) % 2 ^ 32) })

/-- COLL_START and BEACON after their checks: the collective joins, makes its first sends and goes as far as it can. -/
def State.collStart (s : State) (x c : Nat) (f : CollF) (beacon : Bool) (d : CollDesc) (env : OpEnv) : State :=
  let z := s.newColl x c f beacon d env.stepNo
  let w := s.joined z d
  match w.collFirst (clusterOf c) z d with
  | .error e => w.collMemStop (clusterOf c) z e
  | .ok t => t.collGo x f.desc

/-- What COLL_START and BEACON share. -/
def State.collOp (s : State) (c : Nat) (f : CollF) (beacon : Bool) : State :=
  let o : Op := if beacon then .dma (.beacon f) else .dma (.collStart f)
  let env := s.opEnv c o
  if ((s.core c).entryOf o).isSome && (s.cluster (clusterOf c)).colls.any (fun z => z.core == c && z.op == o) then s
  else match collCheck s c f beacon with
  | some st => (s.dropEntry c o).opRefused c (queueCode .dma) env.pos st
  | none => match s.ctxOfCore c with
    | none => s
    | some x => match s.collDesc x f.desc with
      | none => s
      | some d => s.collStart x c f (beacon || d.op == 6) d env

def execCollStart (c : CoreId) (f : CollF) (s : State) : Host.Outcome State Fault Refusal := .next (s.collOp c f false)

def execBeacon (c : CoreId) (f : CollF) (s : State) : Host.Outcome State Fault Refusal := .next (s.collOp c f true)

/-! ### Deadlines and waits (R379, R381) -/

/-- STAGE_DEADLINE: the stage closes with the contributions present. -/
def execStageDeadline (k : ClusterId) (desc stage : Nat) (s : State) : Host.Outcome State Fault Refusal :=
  .next (match (s.cluster k).colls.find? (fun z => z.f.desc == desc) with
    | none => s
    | some z => match z.stage stage, s.collDesc z.ctx desc with
      | some st, some d => match st.deadline with
        | none => s
        | some t =>
          if s.now < t ∨ st.closed ∨ !d.timed st ∨ s.mustSuspend z.ctx ∨ (s.ctx z.ctx).state ≠ .running then s
          else match s.closeStage k z d st with
            | .error e => s.collMemStop k z e
            | .ok u => u.collGo z.ctx desc
      | _, _ => s)

/-- COLL_WAIT_TIMEOUT: the collective ends faulted. -/
def execCollWaitTimeout (k : ClusterId) (desc stage : Nat) (s : State) : Host.Outcome State Fault Refusal :=
  .next (match (s.cluster k).colls.find? (fun z => z.f.desc == desc) with
    | none => s
    | some z => match (z.stage stage).bind (fun st => if st.closed then none else st.waitUntil) with
      | none => s
      | some t => if s.now < t ∨ s.mustSuspend z.ctx ∨ (s.ctx z.ctx).state ≠ .running then s else s.collFault k z)

/-! ### The ring (R388) -/

/-- RING_STAGE_ARM: flag_b has reached stage - 2 and the send of the stage before has ended. -/
def execRingStageArm (k : ClusterId) (desc stage : Nat) (s : State) : Host.Outcome State Fault Refusal :=
  .next (match (s.cluster k).colls.find? (fun z => z.f.desc == desc) with
    | none => s
    | some z => match z.stage stage, z.stage (stage - 1), s.collDesc z.ctx desc with
      | some st, some prev, some d =>
        if st.code ≠ codeRing ∨ st.armed ∨ (s.flag k d.flagB).toNat + 2 < stage ∨ !prev.sent ∨ prev.outstanding ≠ 0 ∨
            s.mustSuspend z.ctx then s
        else
          let from' := (s.members z.ctx d).getD ((s.ownPos z.ctx d + d.members - 1) % d.members) 0
          let t := s.modColl k z.ctx desc (fun y => y.modStage stage (fun g => { g with
            armed := true, waitUntil := some (s.now + d.waitMs * 1000000) }))
          let t := t.modCluster k (fun u => { u with colStat := withFld u.colStat 31 0 ((fld u.colStat 31 0 + 1) % 2 ^ 32) })
          t.collSend k z stage codeCredit stage from' false 0 []
      | _, _, _ => s)

/-- Whether the block of a stage is ready to be sent on. -/
def State.ringReady (s : State) (k : Nat) (z : Coll) (d : CollDesc) (stage : Nat) : Bool :=
  match z.stage (stage - 1) with
  | none => false
  | some p => p.closed && (d.ringMode == 0 || decide (stage ≤ (s.flag k d.flagB).toNat + 1))

/-- RING_STAGE_SEND: the half that holds the stage before goes to the next member. -/
def execRingStageSend (k : ClusterId) (desc stage : Nat) (s : State) : Host.Outcome State Fault Refusal :=
  .next (match (s.cluster k).colls.find? (fun z => z.f.desc == desc) with
    | none => s
    | some z => match z.stage stage, s.collDesc z.ctx desc with
      | some st, some d =>
        if st.code ≠ codeRing ∨ stage < 2 ∨ st.sent ∨ !st.credit ∨ !s.ringReady k z d stage ∨ s.mustSuspend z.ctx then s
        else
          let b := s.readPlace z.core (.cm (d.ringOffset + (stage - 1) % 2 * d.aux)) d.aux
          let next := (s.members z.ctx d).getD ((s.ownPos z.ctx d + 1) % d.members) 0
          ((b.1.collSend k z stage codeRing stage next z.nonfinite 1 b.2).modColl k z.ctx desc (fun y =>
            y.modStage stage (fun g => { g with sent := true }))).collGo z.ctx desc
      | _, _ => s)

/-! ### The end of a collective's message at its sender -/

/-- PERMUTE: after every PUT to one member has ended done, that member is sent one FLAG_SET (R386). -/
def State.permutePart (s : State) (k : Nat) (z : Coll) (d : CollDesc) (h : BitVec 96) : State :=
  let nodes := s.members z.ctx d
  let lk := (s.ctx z.ctx).clusters.findIdx (· == k)
  match z.stage 0, memberPos nodes (hDest h) with
  | some st, some q =>
    let left := ((st.parts.find? (fun p => p.1 == q)).map (·.2)).getD 0
    let t := s.modColl k z.ctx z.f.desc (fun y => y.modStage 0 (fun g => { g with
      parts := g.parts.map (fun p => if p.1 = q then (p.1, p.2 - 1) else p) }))
    if left = 1 then
      (t.queueMsgs [flagMessage (hDest h) (s.ctx z.ctx).rtag lk d.flagA 1 1 z.ctx (.coll lk z.f.desc 0)]).modColl k z.ctx z.f.desc
        (fun y => y.modStage 0 (fun g => { g with outstanding := g.outstanding + 1 }))
    else t
  | _, _ => s

/-- The outcome of one message of a collective: done counts it off, anything else faults the collective (R379). -/
def State.collMsgEnd (s : State) (x lk desc stage : Nat) (h : BitVec 96) (r : MsgEnd) : State :=
  match (s.ctx x).clusters[lk]? with
  | none => s
  | some k => match (s.cluster k).colls.find? (fun z => z.ctx == x && z.f.desc == desc), s.collDesc x desc with
    | some z, some d =>
      if r = .done then
        let t := s.modColl k x desc (fun y => y.modStage stage (fun g => { g with outstanding := g.outstanding - 1 }))
        let t := if d.op = 4 ∧ aKind h = 0 then t.permutePart k z d h else t
        t.collGo x desc
      else s.collFault k z
    | _, _ => s

/-! ### Arriving contributions (R379, R384, R306, R307) -/

/-- The landing word of a COL cell. -/
def landOffset (w : Nat) : Nat := bitsOf w 39 0
def landValid (w : Nat) : Nat := bitsOf w 45 40
def landCount (w : Nat) : Nat := bitsOf w 63 46

/-- What becomes of the first cell of a COL message. -/
inductive ColAdmit | nak (kind code : Nat) (t : State) | sink (x : Nat) (k : ColSink) | credit (x k desc stage : Nat)

/-- The line position (or member) of a sender at a stage. -/
def CollDesc.senderPos (d : CollDesc) (st : Stage) (q : Nat) : Nat :=
  if st.code = codeExchange ∨ st.code = codeRing then q else d.coord q st.dim

/-- Where a contribution's bytes land. -/
def State.landBase (s : State) (z : Coll) (d : CollDesc) (st : Stage) (p : Nat) : Nat × Bool :=
  let pos := s.ownPos z.ctx d
  if st.code = codeReduce then (d.stagingSlot st.dim p, false)
  else if st.code = codeGather then
    let w := if d.op = 2 then chunkSize d.destFormat else d.wire
    (z.f.dst + (d.range d.total (d.onLine pos st.dim p) (st.dim + 1)).1 * w, false)
  else if st.code = codeExchange then (z.f.dst + p * (d.chunks / d.members * d.wire), false)
  else if st.code = codeRing then (d.ringOffset + st.index % 2 * d.aux, true)
  else (0, false)

/-- The stage of a collective that a COL header names. -/
def Coll.stageOf (z : Coll) (h : BitVec 96) : Option Stage :=
  z.stages.find? (fun t => t.index % 16 == bitsOf (aDetail h) 10 7 && t.armed && !(t.code == codeRing && t.closed))

/-- The first cell of a COL message (R384). -/
def State.colAdmit (s : State) (x : Nat) (h : BitVec 96) (word : Nat) : ColAdmit :=
  let desc := bitsOf (aDetail h) 6 0
  match s.activeColl x desc, s.collDesc x desc with
  | some (k, z), some d =>
    let lk := (s.ctx x).clusters.findIdx (· == k)
    let step4 := bitsOf (aDetail h) 12 11
    let diff := (step4 + 4 - z.stepNo.toNat % 4) % 4
    let code := aKind h % 8
    if diff = 1 then .nak 1 ncNotArmed s
    else if code = codeCredit then
      if diff = 0 then .credit x k desc (bitsOf (aDetail h) 10 7) else .nak 1 ncNotArmed s
    else match z.stageOf h, memberPos (s.members x d) (aSrc h) with
    | some st, some q =>
      let p := d.senderPos st q
      let nonf := bitOf (aDetail h) 13
      let need := d.need (s.ownPos x d) st p
      let mk (fate base : Nat) (cm : Bool) : ColAdmit :=
        .sink x ⟨lk, desc, st.index, p, fate, landCount word, nonf, step4, need, base, cm⟩
      if st.code != code then .nak 1 ncNotArmed s
      else if diff = 0 ∧ !st.closed then let b := s.landBase z d st p; mk 0 b.1 b.2
      else if diff = 2 ∨ !d.timed st then mk 2 0 false
      else if s.holdsLate k x desc d st p step4 then
        mk 1 (if code = codeBeacon then 0 else d.carrySlot st.dim (d.coord (s.ownPos x d) st.dim) p) false
      else mk 2 0 false
    | _, _ => .nak 1 ncNotArmed s
  | _, _ => .nak 1 ncNotArmed s

/-- Places one COL cell; a Beacon's data and discarded data stay out of memory. -/
def State.colPlace (s : State) (x : Nat) (k : ColSink) (beacon : Bool) (word : Nat) (bytes : List Byte) (poison : Bool) :
    Except MemStop State :=
  if k.fate = 2 ∨ beacon then .ok s
  else if k.inCm then match (s.ctx x).clusters[k.cluster]? with
    | none => .ok s
    | some c => .ok (s.writePlace (16 * c) (.cm (k.base + landOffset word)) (marked poison bytes))
  else match s.writeLoc x 0 .inboundPinned ⟨.va, k.base + landOffset word⟩ (marked poison bytes) with
    | .error e => .error (.fault e.1 .write e.2)
    | .ok t => .ok t

/-- A contribution grown by the bytes of one message. -/
def growContribution (l : List Contribution) (k : ColSink) (n : Nat) (bytes : List Byte) : List Contribution :=
  if l.any (fun c => c.pos == k.pos) then
    l.map (fun c => if c.pos = k.pos then { c with arrived := c.arrived + n, bytes := c.bytes ++ bytes } else c)
  else l ++ [⟨k.pos, k.count, k.nonfinite, n, bytes⟩]

/-- A held contribution grown by the bytes of one message. -/
def growCarry (l : List Carry) (x : Nat) (k : ColSink) (n : Nat) (bytes : List Byte) : List Carry :=
  let same (y : Carry) : Bool := y.ctx == x && y.desc == k.desc && y.stage == k.stage && y.c.pos == k.pos && y.step4 == k.step4
  if l.any same then
    l.map (fun y => if same y then { y with c := { y.c with arrived := y.c.arrived + n, bytes := y.c.bytes ++ bytes } } else y)
  else l ++ [⟨x, k.desc, k.stage, k.step4, k.need, ⟨k.pos, k.count, k.nonfinite, n, bytes⟩⟩]

/-- A message of a contribution that its stage did not take: its bytes move from the staging slot to the carry slot, or it is
discarded. A contribution is recorded once, when its first late message is held or discarded (R306, R307). -/
def State.lateMessage (s : State) (x node c : Nat) (k : ColSink) (d : CollDesc) (z : Coll) (st : Stage) (off n step : Nat)
    (bytes : List Byte) : Except MemStop State :=
  if s.holdsLate c x k.desc d st k.pos k.step4 then do
    let fresh := !(s.cluster c).carries.any (fun y => y.ctx == x && y.desc == k.desc && y.stage == k.stage && y.c.pos == k.pos)
    let t ← if st.code = codeBeacon ∨ k.fate = 1 then Except.ok s else do
      let b ← s.collRead z (k.base + off) n
      b.1.collWrite z (d.carrySlot st.dim (d.coord (s.ownPos x d) st.dim) k.pos + off) b.2
    let u := t.modCluster c (fun u => { u with carries := growCarry u.carries x k n bytes })
    .ok (if fresh then u.lateContribution x c node k.stage step true else u)
  else if off = 0 ∧ !(k.step4 == z.stepNo.toNat % 4 && st.got.any (fun g => g.pos == k.pos)) then
    .ok ((s.lateContribution x c node k.stage step false).modColl c x k.desc (fun y =>
      { y with lateDiscarded := y.lateDiscarded + 1 }))
  else .ok s

/-- The effect of a complete COL message of n bytes at an offset of its contribution. -/
def State.colComplete (s : State) (x node : Nat) (k : ColSink) (off n : Nat) (bytes : List Byte) : State :=
  match (s.ctx x).clusters[k.cluster]? with
  | none => s
  | some c => match (s.cluster c).colls.find? (fun z => z.ctx == x && z.f.desc == k.desc), s.collDesc x k.desc with
    | some z, some d => match z.stage k.stage with
      | none => s
      | some st =>
        let step := (z.stepNo.toNat + 2 ^ 32 - (z.stepNo.toNat % 4 + 4 - k.step4 % 4) % 4) % 2 ^ 32
        if k.fate = 0 ∧ k.step4 = z.stepNo.toNat % 4 ∧ !st.closed then
          (s.modColl c x k.desc (fun y => y.modStage k.stage (fun g => { g with
            got := growContribution g.got k n bytes
            deadline := if g.deadline.isSome || !d.timed g then g.deadline else some (s.now + d.deadlineUs * 1000) }))).collGo
              x k.desc
        else match s.lateMessage x node c k d z st off n step bytes with
          | .ok t => t
          | .error e => s.collMemStop c z e
    | _, _ => s

/-- A RING_CREDIT arrived for a stage of the ring. -/
def State.ringCredit (s : State) (x k desc stage4 : Nat) : State :=
  match (s.cluster k).colls.find? (fun z => z.ctx == x && z.f.desc == desc) with
  | none => s
  | some z => match z.stages.find? (fun t => t.index % 16 == stage4 && !t.credit && !t.sent) with
    | none => s
    | some st => s.modColl k x desc (fun y => y.modStage st.index (fun g => { g with credit := true }))

end Sys2Proof.Machine
end

