-- ==== Sys2Proof/Machine/Exchange.lean ====
section
/-! DEFINITION. The exchange (spec/08_expert_routing_and_token_exchange.md, R210 to R216, R219; R367): XSEND, XRECV_ARM, what an
arriving message of a phase does, and the exchange deadline. -/

namespace Sys2Proof.Machine

def phaseCode : Phase → Nat | .fd => 0 | .fc => 1 | .bd => 2 | .bc => 3

/-- Whether the receiver of a phase is the owner. -/
def phaseToOwner : Phase → Bool | .fd => true | .bd => true | _ => false

/-- Rows of one message (R210). -/
def rowsPerMessage (r : RouterRec) : Nat := 196608 / r.rowPitch

/-- Messages of a run of n rows. -/
def runMessages (r : RouterRec) (n : Nat) : Nat := ceilDiv n (rowsPerMessage r)

/-- Local index of an expert at its owner (R190). -/
def localIndex (map : List Nat) (e : Nat) : Nat := bitsOf (map.getD e 0) 27 16

/-- The global expert of a local index at a node. -/
def globalExpert (map : List Nat) (node l : Nat) : Option Nat :=
  (List.range map.length).find? (fun e => ownerNode map e == node && localIndex map e == l)

/-! ### Records (R208, R211) -/

/-- kept_e and the run buffer of an exchange record. -/
def xrecKept (bs : List Byte) (e : Nat) : Nat := leAt bs (64 + 16 * e + 4) 4
def xrecBuffer (bs : List Byte) (e : Nat) : Nat := leAt bs (64 + 16 * e + 8) 8

/-- A count of a receive record, and where an expert's entry lies. -/
def rrecCount (r : RouterRec) (bs : List Byte) (l s : Nat) : Nat := leAt bs (64 + 4 * (l * r.nSources + s)) 4
def rrecEntry (r : RouterRec) (l : Nat) : Nat := 64 + 4 * r.nLocal * r.nSources + 16 * l
def rrecTotal (r : RouterRec) (bs : List Byte) (l : Nat) : Nat := leAt bs (rrecEntry r l) 4
def rrecBytes (r : RouterRec) : Nat := 64 + 4 * r.nLocal * r.nSources + 16 * r.nLocal

/-- Bytes of the record that a phase's sender names. -/
def recordBytes (r : RouterRec) (toOwner : Bool) : Nat := if toOwner then 64 + 16 * r.nExperts else rrecBytes r

/-! ### Runs to send (Table 8-13) -/

/-- A run: the expert and the source, the node it goes to, and the VA of each row. -/
structure SendRun where
  e : Nat
  s : Nat
  dest : Nat
  rows : List Nat
  deriving DecidableEq, Repr

/-- The number that names a run: the expert, or for FC and BC expert and source. -/
def runKey (toOwner : Bool) (e s : Nat) : Nat := if toOwner then e else 4096 * e + s

/-- Rows of a source's run in combine indexing. -/
def combineRow (r : RouterRec) (xrec : List Byte) (region e j : Nat) : Nat :=
  if r.policy = policyNone then
    if region = 0 then xrecBuffer xrec e + runListBytes (xrecKept xrec e) + j * r.rowPitch
    else region + (((List.range e).map (xrecKept xrec)).foldl (· + ·) 0 + j) * r.rowPitch
  else (if region = 0 then r.combRegion else region) + (e * r.capacity + j) * r.rowPitch

/-- Rows of an owner's run in receive indexing. -/
def receiveRow (r : RouterRec) (rrec : List Byte) (region l s j : Nat) : Nat :=
  if r.policy = policyNone then
    let before := ((List.range s).map (rrecCount r rrec l)).foldl (· + ·) 0
    if region = 0 then leAt rrec (rrecEntry r l + 8) 8 + (before + j) * r.rowPitch
    else region + (((List.range l).map (fun i => leAt rrec (rrecEntry r i) 4)).foldl (· + ·) 0 + before + j) * r.rowPitch
  else (if region = 0 then r.recvRegion else region) + ((l * r.nSources + s) * r.capacity + j) * r.rowPitch

/-- The rows of the run of expert e in run-list order (FD). -/
def State.listRows (s : State) (x : Nat) (r : RouterRec) (xrec : List Byte) (e : Nat) : Except MemStop (State × List Nat) := do
  let n := xrecKept xrec e
  let l ← s.fetchVa x .exchange (xrecBuffer xrec e) (4 * n)
  .ok (l.1, (words 4 l.2 n).map (fun t => leAt xrec 16 8 + (t % 65536 - leAt xrec 12 4) * r.rowPitch))

/-- The runs of an XSEND. -/
def State.sendRuns (s : State) (x : Nat) (r : RouterRec) (f : XsendF) (map nodes : List Nat) (record : List Byte) :
    Except MemStop (State × List SendRun) :=
  if phaseToOwner f.phase then
    ((List.range r.nExperts).filter (fun e => xrecKept record e != 0)).foldlM (fun (a : State × List SendRun) e => do
      if f.phase = .fd then
        let z ← a.1.listRows x r record e
        .ok (z.1, a.2 ++ [⟨e, f.srcIndex, ownerNode map e, z.2⟩])
      else .ok (a.1, a.2 ++ [⟨e, f.srcIndex, ownerNode map e,
        (List.range (xrecKept record e)).map (combineRow r record f.region e)⟩])) (s, [])
  else
    let ls := (match f.expert with | some l => [l] | none => List.range r.nLocal).filter (fun l => rrecTotal r record l != 0)
    .ok (s, ls.flatMap (fun l => match globalExpert map s.node l with
      | none => []
      | some e => ((List.range r.nSources).filter (fun i => rrecCount r record l i != 0)).map (fun i =>
        ⟨e, i, nodes.getD i 0, (List.range (rrecCount r record l i)).map (receiveRow r record f.region l i)⟩)))

/-- The header of a message of a phase. -/
def headerX (s : State) (x pos : Nat) (f : XsendF) (dest sender receiver k : Nat) : BitVec 96 :=
  mkHeader [(95, 95, 1), (94, 79, dest), (78, 75, (s.ctx x).rtag), (74, 67, pos), (66, 65, phaseCode f.phase),
    (64, 64, f.round - 1), (63, 63, f.mb % 2), (62, 62, s.epochBit x), (61, 50, sender), (49, 38, receiver), (37, 29, k)]

/-- The messages of a run, read from context memory. -/
def State.runMsgs (s : State) (x c pos : Nat) (r : RouterRec) (f : XsendF) (owner : MsgOwner) (z : SendRun) :
    Except MemStop (State × List Message) :=
  (piecesOf (rowsPerMessage r) z.rows).zipIdx.foldlM (fun (a : State × List Message) p => do
    let b ← p.1.foldlM (fun (b : State × List PByte) va =>
      match b.1.readLoc x c .exchange ⟨.va, va⟩ r.rowPitch with
      | .error e => .error (.fault e.1 .read e.2)
      | .ok q => .ok (q.1, b.2 ++ q.2)) (a.1, [])
    let h := if phaseToOwner f.phase then headerX s x pos f z.dest z.s z.e p.2 else headerX s x pos f z.dest z.e z.s p.2
    .ok (b.1, a.2 ++ [⟨clXch, h, x, payloads48 b.2, none, owner⟩])) (s, [])

/-- The count messages of FD: one to every owner node (R211). -/
def State.countMsgs (s : State) (x pos : Nat) (r : RouterRec) (f : XsendF) (map : List Nat) (record : List Byte)
    (owner : MsgOwner) : List Message :=
  if f.phase ≠ .fd then [] else
  (dedupNat ((List.range r.nExperts).map (ownerNode map))).map (fun node =>
    let es := (List.range r.nExperts).filter (fun e => ownerNode map e == node)
    let bytes := (List.range es.length).flatMap (fun l =>
      leBytes 4 (match globalExpert map node l with | none => 0 | some e => xrecKept record e))
    ⟨clXch, headerX s x pos f node f.srcIndex (es.headD 0) 511, x, payloads48 (bytes.map (fun b => (b, false))), none, owner⟩)

/-! ### XSEND (R216) -/

/-- Rounds that a layer has (R194). -/
def roundOk (r : RouterRec) (round : Nat) : Bool := round == 1 || (round == 2 && r.policy == policySecond)

/-- Whether a run of the record needs more than 511 messages. -/
def runTooLong (r : RouterRec) (toOwner : Bool) (record : List Byte) : Bool :=
  if toOwner then (List.range r.nExperts).any (fun e => decide (511 < runMessages r (xrecKept record e)))
  else (List.range r.nLocal).any (fun l => (List.range r.nSources).any (fun i =>
    decide (511 < runMessages r (rrecCount r record l i))))

/-- The checks of XSEND: the record of the layer, ranges and the limits of R367. R216 asks nothing of its addresses. -/
def xsendCheck (s : State) (c : Nat) (f : XsendF) : Option Status :=
  let x := (s.ctxOfCore c).getD 16
  match s.routerRec x f.layerId with
  | none => some (rtrStatus 1)
  | some (pos, r) => firstFail [
      (!roundOk r f.round || decide (255 < f.mb) || decide (255 < pos) ||
        (if phaseToOwner f.phase then decide (r.nSources ≤ f.srcIndex) else decide (r.nLocal ≤ f.expert.getD 0 ∧ f.expert.isSome)) ||
        (match s.peekVa x .exchange f.record (recordBytes r (phaseToOwner f.phase)) with
          | none => false
          | some b => runTooLong r (phaseToOwner f.phase) b), rtrStatus 2)]

/-- The run and message number that a header of an exchange message names. -/
def msgRun (h : BitVec 96) : Nat × Nat :=
  let toOwner := xPhase h % 2 == 0
  (if toOwner then runKey true (xReceiver h) (xSender h) else runKey false (xSender h) (xReceiver h), xK h)

/-- What an XSEND sends. -/
def State.xsendMessages (s : State) (x c pos : Nat) (r : RouterRec) (f : XsendF) (owner : MsgOwner) :
    Except MemStop (State × List Message) := do
  let m ← s.fetchVa x .exchange r.expertMap (4 * r.nExperts)
  let n ← m.1.fetchVa x .exchange r.sourceNodes (2 * r.nSources)
  let b ← n.1.fetchVa x .exchange f.record (recordBytes r (phaseToOwner f.phase))
  let map := words 4 m.2 r.nExperts
  let runs ← b.1.sendRuns x r f map (words 2 n.2 r.nSources) b.2
  let data ← runs.2.foldlM (fun (a : State × List Message) z => do
    let q ← a.1.runMsgs x c pos r f owner z
    .ok (q.1, a.2 ++ q.2)) (runs.1, [])
  .ok (data.1, s.countMsgs x pos r f map b.2 owner ++ data.2)

/-- XSEND: its messages wait for outbound contexts, and it ends with the last of them. -/
def execXsend (c : CoreId) (f : XsendF) (s : State) : Host.Outcome State Fault Refusal :=
  let o : Op := .dma (.xsend f)
  let k := clusterOf c
  let env := s.opEnv c o
  .next (match xsendCheck s c f with
    | some st => (s.dropEntry c o).opRefused c (queueCode .dma) env.pos st
    | none => match s.ctxOfCore c with
      | none => s
      | some x => match s.routerRec x f.layerId with
        | none => s
        | some (pos, r) =>
          if (s.cluster k).xsends.any (fun z => z.core == c.val && z.pos == env.pos && z.f == f) then s
          else match s.xsendMessages x c pos r f (.xsend ((s.ctx x).logicalCore c) env.pos) with
          | .error e => s.memStop x c o .exchange k 0x02 k e
          | .ok z =>
            if z.2 = [] then z.1.recordOutcome c o .done
            else (z.1.queueMsgs z.2).modCluster k (fun u => { u with
              xsends := u.xsends ++ [⟨c, x, env.pos, f, z.2.map (fun m => msgRun m.hdr), none, none⟩] }))

/-! ### Armed receives (R213 to R215) -/

/-- The armed receive of a context for a layer position, phase and round, with its cluster. -/
def State.armedRecv (s : State) (x layer : Nat) (phase : Nat) (round : Nat) : Option (Nat × XRecv) :=
  (List.range 16).findSome? (fun k => ((s.cluster k).xrecvs.find? (fun v =>
    v.ctx == x && v.layer == layer && phaseCode v.f.phase == phase && v.f.round == round)).map (fun v => (k, v)))

/-- Whether any receive of the device is armed with the same phase, round and layer position mod 256 (R367). -/
def State.recvBusy (s : State) (layer : Nat) (f : XrecvF) : Bool :=
  (List.range 16).any (fun k => (s.cluster k).xrecvs.any (fun v =>
    v.layer % 256 == layer % 256 && v.f.phase == f.phase && v.f.round == f.round))

/-- The checks of XRECV_ARM. -/
def xrecvCheck (s : State) (c : Nat) (f : XrecvF) : Option Status :=
  let x := (s.ctxOfCore c).getD 16
  match s.routerRec x f.layerId with
  | none => some (rtrStatus 1)
  | some (pos, r) => firstFail [
      (!roundOk r f.round || decide (255 < f.mb) || decide (65535 < f.deadlineMs) ||
        (!phaseToOwner f.phase && decide (r.nSources ≤ f.srcIndex)), rtrStatus 2),
      (!(flagIdOk f.flag && flagIsCluster f.flag), genFlag),
      (s.recvBusy pos f, rtrStatus 6)]

/-- Experts that a receive tracks. -/
def recvExperts (r : RouterRec) (f : XrecvF) : List Nat := List.range (if phaseToOwner f.phase then r.nLocal else r.nExperts)

/-- Rows that an expert must receive, once that is known. -/
def XRecv.expected (v : XRecv) (r : RouterRec) (i : Nat) : Option Nat :=
  if v.failed.contains i then some 0
  else if v.f.phase = .fd then
    if v.counted.length = r.nSources then
      some (((List.range r.nSources).map (fun q => sget 0 v.counts (i * r.nSources + q))).foldl (· + ·) 0) else none
  else if v.f.phase = .bd then
    some (((List.range r.nSources).map (fun q => sget 0 v.counts (i * r.nSources + q))).foldl (· + ·) 0)
  else some (sget 0 v.counts i)

/-- Rows that an expert has received. -/
def XRecv.received (v : XRecv) (r : RouterRec) (i : Nat) : Nat :=
  if phaseToOwner v.f.phase then
    ((List.range r.nSources).map (fun q => sget 0 v.rows (i * r.nSources + q))).foldl (· + ·) 0
  else sget 0 v.rows i

/-- Whether an expert is ready and was not before. -/
def XRecv.newlyReady (v : XRecv) (r : RouterRec) (i : Nat) : Bool :=
  !v.ready.contains i && (v.failed.contains i || v.expected r i == some (v.received r i))

/-- Replaces an armed receive. -/
def Cluster.putRecv (u : Cluster) (v : XRecv) : Cluster :=
  { u with xrecvs := u.xrecvs.map (fun w => if w.layer = v.layer ∧ w.f.phase = v.f.phase ∧ w.f.round = v.f.round ∧ w.ctx = v.ctx then v else w) }

/-- Takes an armed receive away. Its retire records of format X age, and those of the receive before it end (R363). -/
def State.dropRecv (s : State) (k : Nat) (v : XRecv) : State :=
  let tag := (s.ctx v.ctx).rtag
  let same (q : MsgKey) : Bool := match q with
    | .x rt ly ph rd _ _ _ _ => rt == tag && ly == v.layer && ph == phaseCode v.f.phase && rd == v.f.round - 1
    | .a _ _ => false
  let kept := s.xpt.retire.filter (fun (q : Retire) => !(same q.key && q.aged))
  let t := { s with xpt := { s.xpt with retire := kept.map (fun (q : Retire) => if same q.key then { q with aged := true } else q) } }
  t.modCluster k (fun u => { u with xrecvs := u.xrecvs.filter (fun w =>
    !(w.layer == v.layer && w.f.phase == v.f.phase && w.f.round == v.f.round && w.ctx == v.ctx)) })

/-- The end of a receive. -/
def State.recvStop (s : State) (k : Nat) (v : XRecv) (r : Outc) : State :=
  (s.dropRecv k v).recordOutcome v.core (.dma (.xrecvArm v.f)) r

/-- EXPERT_READY: an entry of the ready list, the ready flag, and under FD the visit word (R214). -/
def State.expertReady (s : State) (x k : Nat) (r : RouterRec) (v : XRecv) (i : Nat) : Except MemStop (State × XRecv) := do
  let total := if v.failed.contains i then 0 else v.received r i
  let a ← s.putVa x .exchange (v.f.readyList + 8 * v.ready.length) (leFields [(2, i), (2, 0), (4, total)])
  let b := a.addFlag k v.f.flag 1
  let t ← if v.f.phase = .fd ∧ total ≠ 0 then do
      let w ← b.fetchVa x .exchange (r.visitArray + 4 * i) 4
      w.1.putVa x .exchange (r.visitArray + 4 * i) (leBytes 4 (leNat w.2 + total))
    else .ok b
  .ok (t, { v with ready := v.ready ++ [i] })

/-- Every expert that has become ready, in ascending index; the receive ends done when all are. -/
def State.recvSettle (s : State) (x k : Nat) (r : RouterRec) (v : XRecv) : State :=
  let z := (recvExperts r v.f).foldlM (fun (a : State × XRecv) i =>
    if a.2.newlyReady r i then a.1.expertReady x k r a.2 i else .ok a) (s, v)
  match z with
  | .error e => (s.memStop x v.core (.dma (.xrecvArm v.f)) .exchange k 0x02 k e).dropRecv k v
  | .ok a =>
    let t := a.1.modCluster k (fun u => u.putRecv a.2)
    let u := if (recvExperts r v.f).all (fun i => a.2.ready.contains i) then t.recvStop k a.2 .done else t
    if a.2.ready.length = v.ready.length then u else u.flagsMoved k

/-! ### The end of an exchange message at its sender (R212, R216) -/

/-- Armed receives that expect the rows of a late-dropped run (FC and BC of its layer, source and round) expect none. -/
def State.expectNone (s : State) (x layer e : Nat) (r : RouterRec) (g : RouteF) : State :=
  (List.range 16).foldl (fun t k => ((t.cluster k).xrecvs.filter (fun v => v.ctx == x && v.layer == layer &&
      !phaseToOwner v.f.phase && v.f.srcIndex == g.srcIndex && v.f.round == g.round)).foldl (fun t v =>
    let w := { v with counts := sset 0 v.counts e 0 }
    (t.modCluster k (fun u => u.putRecv w)).recvSettle x k r w) t) s

/-- The ROUTE that wrote the exchange record which an XSEND names, with its cluster. -/
def State.routeOf (s : State) (x : Nat) (f : XsendF) : Option (Nat × RouteF) :=
  (List.range 16).findSome? (fun k => ((s.cluster k).routes.find? (fun p =>
    p.1 == x && p.2.layerId == f.layerId && p.2.xrec == f.record && p.2.round == f.round)).map (fun p => (k, p.2)))

/-- The late drop of the run of expert e: its ledger and combine-map entries, its length in the exchange record, and the
counters of the cluster that routed it (R212). -/
def State.lateDrop (s : State) (x layer : Nat) (r : RouterRec) (f : XsendF) (e : Nat) : Except MemStop State := do
  match s.routeOf x f with
  | none => .ok s
  | some (k, g) =>
    let l ← s.fetchVa x .exchange g.ledger (16 * r.topK * g.t)
    let hits := (List.range (r.topK * g.t)).filter (fun i =>
      let q := leAt l.2 (16 * i + 8) 8
      let fl := bitsOf q 63 48
      bitsOf q 11 0 == e && fl &&& (lfDropped ||| lfQueued ||| lfUnfilled ||| lfInvalid ||| lfPoison) == 0 &&
        (decide (fl &&& lfRound2 ≠ 0) == (f.round == 2)))
    let ws := hits.flatMap (fun i =>
      let fl := bitsOf (leAt l.2 (16 * i + 8) 8) 63 48 ||| lfDropped ||| lfLate
      let c := g.combine + 16 * (i / r.topK * (r.topK + r.nShawl) + i % r.topK)
      [(g.ledger + 16 * i + 4, leBytes 4 0), (g.ledger + 16 * i + 14, leBytes 2 fl),
       (c, leFields [(8, r.zeroRow), (4, 0), (2, fl), (2, 0)])])
    let t ← l.1.putAll x .exchange (ws ++ if hits = [] then [] else [(g.xrec + 64 + 16 * e + 4, leBytes 4 0)])
    let n := hits.length
    let u := t.modCluster k (fun u => { u with
      rtrChoice := withFld u.rtrChoice 63 32 (fld u.rtrChoice 63 32 - n)
      rtrLoss := bumpFld u.rtrLoss 63 32 n
      rtrAux := bumpFld u.rtrAux 63 32 n })
    .ok (if hits = [] then u else u.expectNone x layer e r g)

/-- Changes the XSEND of a core and place. -/
def Cluster.modXsend (u : Cluster) (c pos : Nat) (g : XSend → XSend) : Cluster :=
  { u with xsends := u.xsends.map (fun z => if z.core = c ∧ z.pos = pos then g z else z) }

/-- Ends an XSEND: its unsent messages are withdrawn and the operation's outcome recorded. -/
def State.xsendStop (s : State) (k : Nat) (z : XSend) (r : Outc) : State :=
  let owner : MsgOwner := .xsend ((s.ctx z.ctx).logicalCore z.core) z.pos
  let t := { s with xpt := { s.xpt with toSend := s.xpt.toSend.filter (fun m => !(m.ctx == z.ctx && m.owner == owner)) } }
  (t.modCluster k (fun u => { u with xsends := u.xsends.filter (fun y => !(y.core == z.core && y.pos == z.pos)) })).recordOutcome
    z.core (.dma (.xsend z.f)) r

/-- The state word names the last run whose messages all completed, its number plus 1 in bits [31:4] (log entry 20). -/
def State.xsendProgress (s : State) (z : XSend) : State :=
  match z.lastRun with
  | none => s
  | some n =>
    let old := match s.peekVa z.ctx .exchange (z.f.record + 24) 4 with | some b => leNat b | none => 0
    match s.putVa z.ctx .exchange (z.f.record + 24) (leBytes 4 (old % 16 + 16 * (n + 1))) with
    | .ok t => t
    | .error _ => s

/-- The outcome of one message of an XSEND. -/
def State.xsendMsgEnd (s : State) (x lcore pos : Nat) (h : BitVec 96) (r : MsgEnd) : State :=
  match (s.ctx x).physicalCore lcore with
  | none => s
  | some c =>
    let k := clusterOf c
    match (s.cluster k).xsends.find? (fun z => z.core == c && z.pos == pos) with
    | none => s
    | some z =>
      let run := msgRun h
      let left := z.left.filter (· != run)
      let resolved (t : State) (completed : Bool) : State :=
        let last := if completed && !(left.any (fun p => p.1 == run.1)) then some run.1 else z.lastRun
        let t := t.modCluster k (fun u => u.modXsend c pos (fun y => { y with left := left, lastRun := last }))
        if left = [] then t.xsendStop k { z with left := [], lastRun := last } .done else t
      match r with
      | .done => resolved s true
      | .faulted => (s.xsendProgress z).xsendStop k z (.faulted 0)
      | .refused code =>
        if code = ncOwnerPool then
          match s.routerRec x z.f.layerId with
          | none => resolved s false
          | some (layer, rr) => match s.lateDrop x layer rr z.f run.1 with
            | .ok t => resolved t false
            | .error e => ((s.xsendProgress z).memStop x c (.dma (.xsend z.f)) .exchange k 0x02 k e).xsendStop k z (.faulted 0x2006#16)
        else (s.xsendProgress z).xsendStop k z (.refused (nakStatus code))

/-! ### Arming (R212, R213) -/

/-- The owner's buffers under NONE: one for each local expert with rows; a refusal fails the expert (R212). -/
def State.ownerBuffers (s : State) (x : Nat) (r : RouterRec) (totals : List (Nat × Nat)) : State × Sparse Nat × List Nat :=
  (totals.filter (fun p => p.2 != 0)).foldl (fun acc p =>
    let z := acc.1.poolGet x r.poolId (p.2 * r.rowPitch) r.requester
    match z.2 with
    | .ok b => (z.1, sset 0 acc.2.1 p.1 b.2, acc.2.2)
    | .error _ => (z.1, acc.2.1, acc.2.2 ++ [p.1])) (s, [], [])

/-- The 16-byte entries of the local experts: total and, under NONE, buffer. -/
def State.putEntries (s : State) (x : Nat) (r : RouterRec) (v : XRecv) (totals : List (Nat × Nat)) : Except MemStop State :=
  s.putAll x .exchange (totals.map (fun p =>
    (v.f.record + rrecEntry r p.1, leFields [(4, if v.failed.contains p.1 then 0 else p.2), (4, 0), (8, sget 0 v.buffers p.1)])))

/-- Totals of the local experts by the counts. -/
def XRecv.totals (v : XRecv) (r : RouterRec) : List (Nat × Nat) :=
  (List.range r.nLocal).map (fun l =>
    (l, ((List.range r.nSources).map (fun q => sget 0 v.counts (l * r.nSources + q))).foldl (· + ·) 0))

/-- The header of a receive record (log entry 20). -/
def rrecHeader (f : XrecvF) : List Byte :=
  leFields [(4, f.layerId.toNat), (2, f.srcIndex), (2, f.round), (48, 0), (8, 0)]

/-- What an arm reads: the counts of the record for BD, FC and BC; an expert whose FD total is 0 has none. -/
def State.armCounts (s : State) (x : Nat) (r : RouterRec) (f : XrecvF) : Except MemStop (State × Sparse Nat) :=
  match f.phase with
  | .fd => .ok (s, [])
  | .bd => do
    let b ← s.fetchVa x .exchange f.record (rrecBytes r)
    .ok (b.1, ((List.range r.nLocal).filter (fun l => rrecTotal r b.2 l != 0)).foldl (fun (m : Sparse Nat) l =>
      (List.range r.nSources).foldl (fun m q => sset 0 m (l * r.nSources + q) (rrecCount r b.2 l q)) m) [])
  | _ => do
    let b ← s.fetchVa x .exchange f.record (64 + 16 * r.nExperts)
    .ok (b.1, (List.range r.nExperts).foldl (fun (m : Sparse Nat) e => sset 0 m e (xrecKept b.2 e)) [])

/-- Buffers of a source's runs under NONE, for FC and BC. -/
def State.armBuffers (s : State) (x : Nat) (r : RouterRec) (f : XrecvF) : Except MemStop (State × Sparse Nat) :=
  if r.policy = policyNone ∧ !phaseToOwner f.phase then do
    let b ← s.fetchVa x .exchange f.record (64 + 16 * r.nExperts)
    .ok (b.1, (List.range r.nExperts).foldl (fun (m : Sparse Nat) e =>
      sset 0 m e (if xrecKept b.2 e = 0 then 0 else xrecBuffer b.2 e + runListBytes (xrecKept b.2 e))) [])
  else .ok (s, [])

/-- A refused draw of owner buffers holds nothing; its failed requests are counted. -/
def State.drawRefused (s t : State) (pool : Nat) : State := s.modPool pool (fun p => { p with fail := (t.pool pool).fail })

/-- An arm after its checks: the armed receive, or none where it is refused with RTR_POOL. -/
def State.arm (s : State) (x c layer : Nat) (r : RouterRec) (f : XrecvF) : Except MemStop (State × Option XRecv) := do
  let a ← s.armCounts x r f
  let b ← a.1.armBuffers x r f
  let v : XRecv :=
    { core := c, ctx := x, layer := layer, f := f
      deadline := if f.deadlineMs = 0 then none else some (s.now + f.deadlineMs * 1000000)
      paused := none, counted := [], counts := a.2, rows := [], ready := [], buffers := b.2, failed := [] }
  match f.phase with
  | .fd => do
    let t ← b.1.putVa x .exchange f.record (rrecHeader f)
    .ok (t, some v)
  | .bd =>
    if r.policy = policyNone then
      let z := b.1.ownerBuffers x r (v.totals r)
      if z.2.2 ≠ [] then .ok (b.1.drawRefused z.1 r.poolId, none)
      else do
        let w := { v with buffers := z.2.1 }
        let t ← z.1.putEntries x r w (w.totals r)
        .ok (t, some w)
    else .ok (b.1, some v)
  | _ => .ok (b.1, some v)

/-- XRECV_ARM. -/
def execXrecvArm (c : CoreId) (f : XrecvF) (s : State) : Host.Outcome State Fault Refusal :=
  let o : Op := .dma (.xrecvArm f)
  let k := clusterOf c
  let refuse (s : State) (st : Status) : State := (s.dropEntry c o).opRefused c (queueCode .dma) (s.opEnv c o).pos st
  .next (if (s.cluster k).xrecvs.any (fun v => v.core == c.val && v.f == f) && ((s.core c).entryOf o).isSome then s
    else match xrecvCheck s c f with
    | some st => refuse s st
    | none => match s.ctxOfCore c with
      | none => s
      | some x => match s.routerRec x f.layerId with
        | none => s
        | some (pos, r) => match s.arm x c pos r f with
          | .error e => s.memStop x c o .exchange k 0x02 k e
          | .ok (t, none) => refuse t (rtrStatus 7)
          | .ok (t, some v) => (t.modCluster k (fun u => { u with xrecvs := u.xrecvs ++ [v] })).recvSettle x k r v)

/-! ### Arriving messages of a phase (R211, R212, R367) -/

/-- What becomes of the first cell of an exchange message. -/
inductive XAdmit
  | orphan
  | nak (kind code dest : Nat) (t : State)
  | count (x k : Nat) (v : XRecv)
  | fine (x k : Nat) (r : RouterRec) (v : XRecv)

/-- The expert map and source nodes of a layer, as transport reads them. -/
def State.layerTables (s : State) (x : Nat) (r : RouterRec) : Option (List Nat × List Nat) :=
  match s.peekVa x .exchange r.expertMap (4 * r.nExperts), s.peekVa x .exchange r.sourceNodes (2 * r.nSources) with
  | some m, some n => some (words 4 m r.nExperts, words 2 n r.nSources)
  | _, _ => none

/-- Rows that a message of `last` + 1 cells holds. -/
def msgRows (r : RouterRec) (last : Nat) : Nat := 48 * (last + 1) / r.rowPitch

/-- The key of the run of a header in the counts and rows of a receive: run number at an owner, expert at a source. -/
def recvKey (r : RouterRec) (map : List Nat) (h : BitVec 96) : Nat :=
  if xPhase h % 2 = 0 then localIndex map (xReceiver h) * r.nSources + xSender h else xSender h

/-- Whether a run's rows beyond the count or the capacity would land (R215). -/
def XRecv.beyond (v : XRecv) (r : RouterRec) (map : List Nat) (h : BitVec 96) : Bool :=
  let top := xK h * rowsPerMessage r + msgRows r (xLast h)
  let key := recvKey r map h
  let counted := v.f.phase != .fd || v.counted.contains (xSender h)
  (r.policy != policyNone && decide (r.capacity < top)) || (counted && decide (sget 0 v.counts key < top))

/-- The first cell of an exchange message against the armed receive (R212, R213, R367, R368). -/
def State.xchAdmit (s : State) (h : BitVec 96) : XAdmit :=
  match s.ctxOfTag (xRtag h) with
  | none => .orphan
  | some x => match (s.ctx x).program.bind (fun p => p.routers[xLayer h]?) with
    | none => .orphan
    | some r => match s.layerTables x r with
      | none => .orphan
      | some (map, nodes) =>
        let toOwner := xPhase h % 2 == 0
        let dest := if toOwner then nodes.getD (xSender h) 0 else ownerNode map (xSender h)
        if s.naksAll x then .nak 1 ncSuspended dest s
        else match s.epochNak x (xEpoch h) with
        | some code => .nak (if code = ncFuture then 1 else 2) code dest (if code = ncEpoch then s.logEpoch x dest (xEpoch h) else s)
        | none => match s.armedRecv x (xLayer h) (xPhase h) (xRound h + 1) with
          | none => .nak 1 ncNotArmed dest s
          | some (k, v) =>
            if v.f.mb % 2 ≠ xMb h ∨ (!toOwner ∧ v.f.srcIndex ≠ xReceiver h) ∨ (toOwner ∧ ownerNode map (xReceiver h) ≠ s.node) then
              .nak 1 ncNotArmed dest s
            else if xK h = 511 then
              if v.counted.contains (xSender h) then .count x k v else .fine x k r v
            else if v.f.phase = .fd ∧ r.policy = policyNone ∧ v.counted.length ≠ r.nSources then .nak 1 ncNotArmed dest s
            else if toOwner ∧ v.failed.contains (localIndex map (xReceiver h)) then .nak 2 ncOwnerPool dest s
            else if v.beyond r map h then .count x k v
            else .fine x k r v

/-- Where a run's rows land (Table 8-13). -/
def XRecv.base (v : XRecv) (r : RouterRec) (map : List Nat) (h : BitVec 96) : Nat :=
  if xPhase h % 2 = 0 then
    let l := localIndex map (xReceiver h)
    if r.policy = policyNone then
      sget 0 v.buffers l + (((List.range (xSender h)).map (fun q => sget 0 v.counts (l * r.nSources + q))).foldl (· + ·) 0) * r.rowPitch
    else r.recvRegion + (l * r.nSources + xSender h) * r.capacity * r.rowPitch
  else if r.policy = policyNone then sget 0 v.buffers (xSender h)
  else r.combRegion + xSender h * r.capacity * r.rowPitch

/-- Writes of one cell: the words of a count message into the record, or bytes of rows. -/
def XRecv.cellWrites (v : XRecv) (r : RouterRec) (map : List Nat) (h : BitVec 96) (payload : List Byte) : List (Nat × List Byte) :=
  if xK h = 511 then
    (List.range 12).filterMap (fun i =>
      let l := 12 * xIdx h + i
      if l < r.nLocal then some (v.f.record + 64 + 4 * (l * r.nSources + xSender h), sliceBytes payload (4 * i) 4) else none)
  else
    let total := msgRows r (xLast h) * r.rowPitch
    let n := min 48 (total - 48 * xIdx h)
    [(v.base r map h + xK h * rowsPerMessage r * r.rowPitch + 48 * xIdx h, payload.take n)]

/-- Places one cell; poisoned cells write their lines poisoned. -/
def State.xchPlace (s : State) (x : Nat) (ws : List (Nat × List Byte)) (poison : Bool) : Except MemStop State :=
  ws.foldl (fun acc w => match acc with
    | .error e => .error e
    | .ok t => match t.writeVa x .inboundPinned w.1 w.2 poison with
      | .error e => .error (.fault e.1 .write e.2)
      | .ok u => .ok u) (.ok s)

/-- "exchange count mismatch" (R215). -/
def State.xchCountFault (s : State) (x k : Nat) (v : XRecv) (src : Nat) : State :=
  let l : LogArgs :=
    { cls := 2, cause := 0x200C#16, block := 0x02, inst := k,
      detail := leBytes 4 v.f.layerId.toNat ++ leBytes 1 (phaseCode v.f.phase) ++ leBytes 2 src }
  (s.contained (some x) l).recvStop k v (.faulted 0x200C#16)

/-- COUNT_MESSAGE: the counts of a source are complete; with the last of them the entries are written and, under NONE, the
buffers drawn (R211, R212). -/
def State.countsArrived (s : State) (x k : Nat) (r : RouterRec) (v : XRecv) (src : Nat) : State :=
  match s.fetchVa x .exchange v.f.record (rrecBytes r) with
  | .error e => (s.memStop x v.core (.dma (.xrecvArm v.f)) .exchange k 0x02 k e).dropRecv k v
  | .ok b =>
    let counts := (List.range r.nLocal).foldl (fun (m : Sparse Nat) l =>
      sset 0 m (l * r.nSources + src) (rrecCount r b.2 l src)) v.counts
    let v1 := { v with counted := v.counted ++ [src], counts := counts }
    if (List.range r.nLocal).any (fun l => decide (sget 0 counts (l * r.nSources + src) < sget 0 v.rows (l * r.nSources + src)) ||
        (r.policy != policyNone && decide (r.capacity < sget 0 counts (l * r.nSources + src)))) then
      (b.1.modCluster k (fun u => u.putRecv v1)).xchCountFault x k v1 src
    else if v1.counted.length = r.nSources then
      let z : State × Sparse Nat × List Nat :=
        if r.policy = policyNone then b.1.ownerBuffers x r (v1.totals r) else (b.1, [], [])
      let refusals := (z.2.2.map (fun l => ((List.range r.nSources).filter (fun q => sget 0 counts (l * r.nSources + q) != 0)).length)).foldl (· + ·) 0
      let v2 := { v1 with buffers := z.2.1, failed := z.2.2 }
      let t := z.1.modCluster k (fun u => { u.putRecv v2 with rtrToken := bumpFld u.rtrToken 63 32 refusals })
      match t.putEntries x r v2 (v2.totals r) with
      | .error e => (t.memStop x v.core (.dma (.xrecvArm v.f)) .exchange k 0x02 k e).dropRecv k v2
      | .ok u => u.recvSettle x k r v2
    else b.1.modCluster k (fun u => u.putRecv v1)

/-- A data message of a run is complete. Rows beyond a count that came while the message was under way end the receive
(R215). -/
def State.rowsArrived (s : State) (x k : Nat) (r : RouterRec) (v : XRecv) (map : List Nat) (h : BitVec 96) : State :=
  if v.beyond r map h then s.xchCountFault x k v (xSender h) else
  let key := recvKey r map h
  let v1 := { v with rows := sset 0 v.rows key (sget 0 v.rows key + msgRows r (xLast h)) }
  (s.modCluster k (fun u => u.putRecv v1)).recvSettle x k r v1

/-- The effect of a complete exchange message. -/
def State.xchComplete (s : State) (x : Nat) (h : BitVec 96) : State :=
  match s.armedRecv x (xLayer h) (xPhase h) (xRound h + 1), (s.ctx x).program.bind (fun p => p.routers[xLayer h]?) with
  | some (k, v), some r => match s.layerTables x r with
    | none => s
    | some (map, _) =>
      if xK h = 511 then s.countsArrived x k r v (xSender h) else s.rowsArrived x k r v map h
  | _, _ => s

/-! ### EXCHANGE_DEADLINE (R215) -/

/-- Sources whose counts or rows are missing. -/
def XRecv.missing (v : XRecv) (r : RouterRec) : List Nat :=
  if phaseToOwner v.f.phase then
    (List.range r.nSources).filter (fun q => (v.f.phase == .fd && !v.counted.contains q) ||
      (List.range r.nLocal).any (fun l => sget 0 v.rows (l * r.nSources + q) != sget 0 v.counts (l * r.nSources + q)))
  else if (List.range r.nExperts).any (fun e => sget 0 v.rows e != sget 0 v.counts e) then [v.f.srcIndex] else []

/-- "exchange deadline": the receive ends faulted and the context is stopped. The deadline counts only while the context is
RUNNING. -/
def execExchangeDeadline (k : ClusterId) (layerId : Word32) (phase : Phase) (round : Nat) (s : State) :
    Host.Outcome State Fault Refusal :=
  .next (match (s.cluster k).xrecvs.find? (fun v => v.f.layerId == layerId && v.f.phase == phase && v.f.round == round) with
    | none => s
    | some v => match v.deadline, s.routerRec v.ctx layerId with
      | some d, some (_, r) =>
        if s.now < d ∨ v.paused.isSome ∨ (s.ctx v.ctx).state ≠ .running then s
        else
          let l : LogArgs :=
            { cls := 2, cause := 0x200D#16, block := 0x02, inst := k.val,
              detail := ((v.missing r).take 16).flatMap (fun q => leBytes 2 q) }
          (s.contained (some v.ctx) l).recvStop k v (.faulted 0x200D#16)
      | _, _ => s)

end Sys2Proof.Machine
end

