-- ==== Sys2Proof/Machine/Messages.lean ====
section
/-! DEFINITION. The sending side of transport (spec/14_routing_and_transport.md): the remote operations, sending messages,
replies, resends and back-off, and the choice of a link for a cell. -/

namespace Sys2Proof.Machine

/-! ### Remote operations (R365, R261, Table 10-6) -/

def reqClass : ReqClass → Nat | .req => clReq | .blk => clBlk

/-- Whether operation at a place of a core already has a message or host DMA chunks. -/
def State.opSent (s : State) (x c pos : Nat) : Bool :=
  let owner : MsgOwner := .op ((s.ctx x).logicalCore c) pos
  s.xpt.toSend.any (fun m => m.ctx == x && m.owner == owner) ||
    s.xpt.outbound.any (fun e => match e.2 with | some m => !m.ended && m.msg.ctx == x && m.msg.owner == owner | none => false) ||
    s.hp.chunks.any (fun h => h.core == c && h.pos == pos && h.ctx == x)

/-- Ranges that every remote operation checks: the remote tag, the remote address, the local location. -/
def State.remoteBad (s : State) (c rtag va n max : Nat) (l : Loc) (ln : Nat) : Bool :=
  decide (n = 0 ∨ max < n ∨ 15 < rtag ∨ 2 ^ 48 < va + n) || !dmaKind l.kind || s.localBad c l ln

/-- A collected part of a source that lies in the far window at a VA: `near` names no memory (R403). -/
def collectChunk (c pos x va off a n : Nat) : HostChunk :=
  ⟨c, pos, x, false, ⟨.unlisted, 0⟩, a, va + off, none, n, (farRegionOf a).1, 0, 0, false, 0, off, []⟩

/-- Far places of a source, with their offset in the message. -/
def farParts (ps : List (Place × Nat)) : List (Nat × Nat × Nat) :=
  ((ps.foldl (fun (acc : List (Nat × Nat × Nat) × Nat) p => match p.1 with
    | .far a => (acc.1 ++ [(acc.2, a, p.2)], acc.2 + p.2)
    | _ => (acc.1, acc.2 + p.2)) ([], 0)).1)

/-- The bytes of a source: near places are read, far ones taken from the chunks that collected them. -/
def State.gatherPlaces (s : State) (x c pos : Nat) (ps : List (Place × Nat)) : State × List PByte :=
  ps.foldl (fun (acc : State × List PByte) p => match p.1 with
    | .far _ =>
      let d := ((s.hp.chunks.find? (fun h => h.core == c && h.pos == pos && h.ctx == x && h.progress == acc.2.length)).map (·.data)).getD []
      (acc.1, acc.2 ++ (sliceBytes d 0 p.2).map (fun b => (b, false)))
    | q => let r := acc.1.readPlace c q p.2; (r.1, acc.2 ++ r.2)) (s, [])

/-- Queues the message of a PUT or REDUCE_PUT whose source is at hand. -/
def State.putSend (s : State) (x c pos : Nat) (f : PutF) (reduce : Bool) (ps : List (Place × Nat)) : State :=
  let b := s.gatherPlaces x c pos ps
  let t := { b.1 with hp := { b.1.hp with
    chunks := b.1.hp.chunks.filter (fun h => !(h.core == c && h.pos == pos && h.ctx == x)) } }
  t.queueMsgs [putMessage (reqClass f.cls) f.dest.toNat f.rtag (if reduce then 4 else 0) (if reduce then f.fmt else 0) f.va x b.2
    (.op ((s.ctx x).logicalCore c) pos)]

/-- PUT and REDUCE_PUT: the local range is translated first; a far source is collected by host DMA before the message is
formed; an uncorrectable word of data memory stops the core (Table 9-1). -/
def State.putOp (s : State) (x c : Nat) (o : Op) (f : PutF) (reduce : Bool) (pos : Nat) : State :=
  if s.mustSuspend x then s.suspendEntry c o 0
  else match s.places x .remoteOp .read f.src f.len with
    | .error e => s.dmaFault x c o ⟨.remoteOp, c, e.1, .read, e.2⟩ 0
    | .ok ps =>
      match (if f.src.kind = .dm then s.dmBroken c [(f.src.addr, f.len)] else none) with
      | some w => s.chunkStop x c .remoteOp c o (.dmem w) 0
      | none =>
        if farParts ps = [] then s.putSend x c pos f reduce ps
        else { s with hp := { s.hp with chunks := s.hp.chunks ++ (farParts ps).map (fun p => collectChunk c pos x f.src.addr p.1 p.2.1 p.2.2) } }

/-- The checks of PUT and REDUCE_PUT. -/
def putCheck (s : State) (c : Nat) (f : PutF) (reduce : Bool) : Option Status :=
  firstFail [(s.remoteBad c f.rtag f.va f.len 163840 f.src f.len, genRange), (reduce && decide (2 < f.fmt), genFormat)]

/-- What PUT and REDUCE_PUT share. -/
def State.putRow (s : State) (c : Nat) (o : Op) (f : PutF) (reduce : Bool) : State :=
  let env := s.opEnv c o
  match putCheck s c f reduce with
  | some st => (s.dropEntry c o).opRefused c (queueCode .dma) env.pos st
  | none => match s.ctxOfCore c with
    | none => s
    | some x => if s.opSent x c env.pos then s else s.putOp x c o f reduce env.pos

def execPut (c : CoreId) (f : PutF) (s : State) : Host.Outcome State Fault Refusal := .next (s.putRow c (.dma (.put f)) f false)

def execReducePut (c : CoreId) (f : PutF) (s : State) : Host.Outcome State Fault Refusal :=
  .next (s.putRow c (.dma (.reducePut f)) f true)

/-- An operation with one request cell: the local destination is translated before the message is sent. -/
def State.askRow (s : State) (c : Nat) (o : Op) (chk : Option Status) (dst : Option (Loc × Nat)) (m : Nat → Nat → Message) : State :=
  let env := s.opEnv c o
  match chk with
  | some st => (s.dropEntry c o).opRefused c (queueCode .dma) env.pos st
  | none => match s.ctxOfCore c with
    | none => s
    | some x =>
      if s.opSent x c env.pos then s
      else if s.mustSuspend x then s.suspendEntry c o 0
      else match (match dst with | none => .ok [] | some d => s.places x .remoteOp .write d.1 d.2 : Except (Nat × Nat) (List (Place × Nat))) with
        | .error e => s.dmaFault x c o ⟨.remoteOp, c, e.1, .write, e.2⟩ 0
        | .ok _ => s.queueMsgs [m x env.pos]

/-- The check of GET. -/
def getCheck (s : State) (c : Nat) (f : GetF) : Option Status :=
  firstFail [(s.remoteBad c f.rtag f.va f.len 196608 f.dst f.len, genRange)]

/-- The check of ATOMIC. -/
def atomicCheck (s : State) (c : Nat) (f : AtomicF) : Option Status :=
  firstFail [(s.remoteBad c f.rtag f.va 8 8 f.dst 8 || decide (2 < f.op), genRange)]

/-- The check of a remote FLAG_SET: ADD adds 1 to 65,535 (Table 14-8). -/
def remoteFlagCheck (f : RemoteFlagF) : Option Status :=
  firstFail [
    (decide (15 < f.rtag ∨ 255 < f.cluster ∨ 1 < f.mode ∨ (f.mode = 1 ∧ (f.value.toNat = 0 ∨ 65535 < f.value.toNat))), genRange)]

/-- GET. -/
def execGet (c : CoreId) (f : GetF) (s : State) : Host.Outcome State Fault Refusal :=
  .next (s.askRow c (.dma (.get f)) (getCheck s c f) (some (f.dst, f.len)) (fun x pos =>
    ⟨reqClass f.cls, headerA f.dest.toNat 1 f.rtag 0, x, [(leFields [(8, f.va), (4, f.len), (36, 0)], false)], some (f.dst, f.len),
      .op ((s.ctx x).logicalCore c) pos⟩))

/-- ATOMIC. -/
def execAtomic (c : CoreId) (f : AtomicF) (s : State) : Host.Outcome State Fault Refusal :=
  .next (s.askRow c (.dma (.atomic f)) (atomicCheck s c f) (some (f.dst, 8)) (fun x pos =>
    ⟨clReq, headerA f.dest.toNat 2 f.rtag 0, x,
      [(leFields [(8, f.va), (1, f.op), (7, 0), (8, f.operand.toNat), (8, f.compare.toNat), (16, 0)], false)], some (f.dst, 8),
      .op ((s.ctx x).logicalCore c) pos⟩))

/-- Remote FLAG_SET. -/
def execRemoteFlagSet (c : CoreId) (f : RemoteFlagF) (s : State) : Host.Outcome State Fault Refusal :=
  .next (s.askRow c (.dma (.flagSet f)) (remoteFlagCheck f) none (fun x pos =>
    flagMessage f.dest.toNat f.rtag f.cluster f.flag f.mode f.value x (.op ((s.ctx x).logicalCore c) pos)))

/-! ### Sending (R359) -/

/-- A free outbound context: any of them, a free choice (log entry 2). -/
def State.freeOutbound (s : State) : Option Nat :=
  let start := Config.freeNat s.freeCtr % outboundContexts
  ((List.range outboundContexts).map (fun i => (start + i) % outboundContexts)).find? (fun i => (sget none s.xpt.outbound i).isNone)

/-- Stores an outbound context. -/
def State.putOut (s : State) (id : Nat) (m : Option OutMsg) : State :=
  { s with xpt := { s.xpt with outbound := sset none s.xpt.outbound id m } }

/-- Injects every cell of a message in its generation; the resend timer starts with the last cell (R361). -/
def State.sendCells (s : State) (id : Nat) (m : OutMsg) : State :=
  (s.inject (m.msg.cells s.node id m.gen.toNat)).putOut id (some { m with resendAt := some (s.now + s.xpt.resendNs), backoffAt := none })

/-- Whether a message of a context may start: a pre-empted context starts none (Table 10-9). -/
def State.mayStart (s : State) (m : Message) : Bool := !s.mustSuspend m.ctx && !s.ras.fatal

/-- Whether exchange message m follows message n of the same XSEND: the rows of a run travel in slot order (R210), and under FD
the count messages go first and the runs in ascending expert order (R211). -/
def Message.follows (m n : Message) : Bool :=
  let h := m.hdr
  let g := n.hdr
  m.ctx == n.ctx && m.owner == n.owner && hIsX h && hIsX g && xPhase h == xPhase g &&
  (if xPhase h = 0 ∧ xK h ≠ 511 then xK g == 511 || decide (xReceiver g < xReceiver h ∨ (xReceiver g = xReceiver h ∧ xK g < xK h))
   else xK h != 511 && xSender g == xSender h && xReceiver g == xReceiver h && decide (xK g < xK h))

/-- Whether a message has its turn among those of its XSEND that wait. -/
def State.inTurn (s : State) (m : Message) : Bool := !s.xpt.toSend.any (fun n => m.follows n)

/-- MESSAGE_SEND: without a topology record, or with no context free, the message waits. -/
def execMessageSend (index : Nat) (s : State) : Host.Outcome State Fault Refusal :=
  .next (match s.xpt.toSend[index]?, s.xpt.topo, s.freeOutbound with
    | some m, some _, some id =>
      if s.mayStart m && s.inTurn m then
        let t := { s with freeCtr := s.freeCtr + 1, xpt := { s.xpt with toSend := s.xpt.toSend.eraseIdx index } }
        t.sendCells id ⟨m, 0, 0, 10, none, none, none, [], 0, false, 0⟩
      else s
    | _, _, _ => s)

/-! ### Outcomes (R359, R266) -/

/-- The outcome of an operation's message; a GET whose data still go to far memory ends with the last of its chunks. -/
def State.opMsgEnd (s : State) (x lcore pos : Nat) (r : MsgEnd) : State :=
  let busy := match (s.ctx x).physicalCore lcore with
    | none => false
    | some c => s.hp.chunks.any (fun h => h.core == c && h.pos == pos && h.ctx == x)
  match r with
  | .done => if busy then s else s.endEntry x lcore pos .done
  | .refused code => s.endEntry x lcore pos (.refused (nakStatus code))
  | .faulted => s.endEntry x lcore pos (.faulted 0)

/-- What a message's outcome does to the agent that sent it. -/
def State.applyEnd (s : State) (x : Nat) (owner : MsgOwner) (h : BitVec 96) (r : MsgEnd) : State :=
  match owner with
  | .op lc pos => s.opMsgEnd x lc pos r
  | .xsend lc pos => s.xsendMsgEnd x lc pos h r
  | .coll lk d st => s.collMsgEnd x lk d st h r
  | .none => s

/-- XPT_MSG_STAT after one outcome. -/
def countEnd (w : Word64) : MsgEnd → Word64
  | .done => bumpFld w 63 32 1
  | .faulted => bumpFld w 15 8 1
  | .refused _ => bumpFld w 7 0 1

/-- An outbound message reaches its outcome: its context is reusable retire_us later. A context that is pre-empted,
from the command on, has the outcome recorded (R266). -/
def State.msgEnd (s : State) (id : Nat) (m : OutMsg) (r : MsgEnd) : State :=
  let t := s.putOut id (some { m with ended := true, reuseAt := s.now + s.xpt.retireNs, resendAt := none, backoffAt := none, nakAt := none })
  let t := { t with xpt := { t.xpt with msgStat := countEnd t.xpt.msgStat r } }
  let x := m.msg.ctx
  if s.mustSuspend x then
    t.modCtx x (fun v => { v with recorded := v.recorded ++ [(m.msg.owner, m.msg.hdr, r)] })
  else t.applyEnd x m.msg.owner m.msg.hdr r

/-- A message that has not ended. -/
def State.activeOut (s : State) (id : Nat) : Option OutMsg := (sget none s.xpt.outbound id).filter (fun m => !m.ended)

/-! ### Timers of a message (R361, R362) -/

/-- The next generation of a message, resent. -/
def State.resend (s : State) (id : Nat) (m : OutMsg) : State :=
  let t := { s with xpt := { s.xpt with msgStat := bumpFld s.xpt.msgStat 31 16 1 } }
  t.sendCells id { m with gen := m.gen + 1 }

/-- RESEND_TIMEOUT. -/
def execResendTimeout (id : Nat) (s : State) : Host.Outcome State Fault Refusal :=
  .next (match s.activeOut id with
    | none => s
    | some m => match m.resendAt with
      | none => s
      | some t =>
        if s.now < t then s
        else if s.xpt.resendLimit ≤ m.resends then s.msgEnd id m .faulted
        else s.resend id { m with resends := m.resends + 1 })

/-- NAK_BACKOFF_EXPIRY. -/
def execNakBackoffExpiry (id : Nat) (s : State) : Host.Outcome State Fault Refusal :=
  .next (match s.activeOut id with
    | none => s
    | some m => match m.backoffAt with
      | none => s
      | some t => if s.now < t then s else s.resend id m)

/-- NAK_LIMIT_EXPIRY. -/
def execNakLimitExpiry (id : Nat) (s : State) : Host.Outcome State Fault Refusal :=
  .next (match s.activeOut id with
    | none => s
    | some m => match m.nakAt with
      | none => s
      | some t => if s.now < t then s else s.msgEnd id m .faulted)

/-- OUTBOUND_CONTEXT_REUSE. -/
def execOutboundContextReuse (id : Nat) (s : State) : Host.Outcome State Fault Refusal :=
  .next (match sget none s.xpt.outbound id with
    | none => s
    | some m => if m.ended ∧ m.reuseAt ≤ s.now then s.putOut id none else s)

/-! ### Replies (R351, R353, R359, R362, R365) -/

def State.countDrop (s : State) (hi lo : Nat) : State := { s with xpt := { s.xpt with dropStat := bumpFld s.xpt.dropStat hi lo 1 } }
def State.crcError (s : State) : State := s.countDrop 63 48
def State.unroutable (s : State) : State := s.countDrop 47 32
def State.orphan (s : State) : State := s.countDrop 31 20
def State.malformed (s : State) : State := s.countDrop 19 12
def State.nakDiscarded (s : State) : State := s.countDrop 11 4

/-- Fields that identify an exchange message (R360). -/
def xKey (h : BitVec 96) : MsgKey := .x (xRtag h) (xLayer h) (xPhase h) (xRound h) (xMb h) (xSender h) (xReceiver h) (xK h)

/-- The active outbound message that a reply names: by its id and node in format A, by the exchange message's identity in
format X. -/
def State.replyTo (s : State) (h : BitVec 96) : Option (Nat × OutMsg) :=
  if hIsX h then
    s.xpt.outbound.findSome? (fun e => match e.2 with
      | some m => if !m.ended && hIsX m.msg.hdr && xKey m.msg.hdr == xKey h then some (e.1, m) else none
      | none => none)
  else ((s.activeOut (aMsg h)).filter (fun m => !hIsX m.msg.hdr && hDest m.msg.hdr == aSrc h)).map (fun m => (aMsg h, m))

/-- Whether a message is a GET (1) or an ATOMIC (2). -/
def Message.isKind (m : Message) (k : Nat) : Bool := (m.cls == clReq || m.cls == clBlk) && aKind m.hdr == k

/-- A retry-later NAK (R362): the first one of a generation starts the back-off and doubles the next. -/
def State.nakRetried (s : State) (id : Nat) (m : OutMsg) (gen : Nat) : State :=
  if m.backoffAt.isSome ∨ gen ≠ m.gen.toNat then s
  else s.putOut id (some { m with
    resendAt := none, backoffAt := some (s.now + m.backoffUs * 1000), backoffUs := min (2 * m.backoffUs) 10000
    nakAt := m.nakAt.or (some (s.now + s.xpt.nakNs)) })

/-- Bytes of a remote operation's answer placed at its destination; far places go to host DMA. -/
def State.landData (s : State) (x c pos : Nat) (l : Loc) (bs : List PByte) : Except ChunkStop State :=
  match s.places x .remoteOp .write l bs.length with
  | .error e => .error (.fault e.1 .write e.2)
  | .ok ps =>
    if l.kind = .dm ∧ bs.any (·.2) then .error .poison
    else match (if l.kind = .dm then s.dmBroken c (partialWords (byteWrites l.addr (bs.map (·.1)))) else none) with
      | some w => .error (.dmem w)
      | none => .ok ((ps.foldl (fun (acc : State × List PByte) p =>
          (match p.1 with
            | .far a => { acc.1 with hp := { acc.1.hp with chunks := acc.1.hp.chunks ++
                [⟨c, pos, x, true, ⟨.unlisted, 0⟩, a, l.addr + (bs.length - acc.2.length), none, p.2, (farRegionOf a).1, 0, 0, false, 0, 0, (acc.2.take p.2).map (·.1)⟩] } }
            | q => acc.1.writePlace c q (acc.2.take p.2), acc.2.drop p.2)) (s, bs)).1)

/-- A GET_DATA or ATOMIC_RESULT cell placed; `last` cells end the message. A core away with its context takes no on-die
data, and the cell is lost. -/
def State.answer (s : State) (id : Nat) (m : OutMsg) (h : BitVec 96) (w : Nat) (payload : List Byte) : State :=
  match m.msg.getDst, m.msg.owner with
  | some (dst, len), .op lc pos =>
    if hLast h + 1 ≠ max 1 ((len + w - 1) / w) ∨ hLast h < hIdx h then s.malformed
    else if hGen h ≠ m.getGen.toNat ∧ !genNewer (hGen h) m.getGen.toNat then s
    else
      let got := if hGen h = m.getGen.toNat then m.gotIdx else []
      let x := m.msg.ctx
      match (s.ctx x).physicalCore lc with
      | none => s
      | some c =>
        let n := min w (len - w * hIdx h)
        let bs := (sliceBytes payload 0 n).map (fun b => (b, aPoison h))
        match s.landData x c pos ⟨dst.kind, dst.addr + w * hIdx h⟩ bs with
        | .error e =>
          let t := match (s.core c).entryAt pos with
            | none => s
            | some q => s.chunkStop x c .remoteOp c q.op e 0
          (t.msgEnd id { m with msg := { m.msg with owner := .none } } .faulted)
        | .ok t =>
          let m1 := { m with gotIdx := got ++ [hIdx h], getGen := BitVec.ofNat 3 (hGen h), nakAt := none }
          if m1.gotIdx.length = hLast h + 1 then t.msgEnd id m1 .done else t.putOut id (some m1)
  | _, _ => s.orphan

/-- The reason code of a NAK. -/
def replyCode (h : BitVec 96) : Nat := if hIsX h then bitsOf (hf h 24 13) 9 0 else bitsOf (aDetail h) 9 0

/-- The kind of a reply: COMPLETION 0, NAK_RETRY 1, NAK_REFUSE 2, GET_DATA 3, ATOMIC_RESULT 4. -/
def replyKind (h : BitVec 96) : Nat := if hIsX h then hf h 24 23 else aKind h

/-- A reply that passed its CRC. -/
def State.reply (s : State) (c : Cell) : State :=
  let h := c.hdr
  match s.replyTo h with
  | none => s.orphan
  | some (id, m) =>
    let asks := !hIsX h && (m.msg.isKind 1 || m.msg.isKind 2)
    match replyKind h with
    | 0 => if asks then s.orphan else s.msgEnd id m .done
    | 1 => s.nakRetried id m (hGen h)
    | 2 => s.msgEnd id m (.refused (replyCode h))
    | 3 => if !hIsX h && m.msg.isKind 1 then s.answer id m h 48 c.payload else s.orphan
    | 4 => if !hIsX h && m.msg.isKind 2 then s.answer id m h 8 c.payload else s.orphan
    | _ => s.orphan

/-- A cell is for this node once a topology record is loaded (R348, R355). -/
def State.isHere (s : State) (c : Cell) : Bool := s.xpt.topo.isSome && hDest c.hdr == s.node

/-- A reply cell leaves its buffer, is checked and used. -/
def State.replyRow (s : State) (c : Cell) (x : Bool) (ok : Nat → Bool) : State :=
  if s.isHere c && c.cls == clRsp && hIsX c.hdr == x && (!x || xReply c.hdr) && ok (replyKind c.hdr) then
    let t := s.takeCell c
    if s.cellLost c then t
    else if Cell.crcOk c then t.reply c else t.crcError
  else s

def execXchReply (c : Cell) (s : State) : Host.Outcome State Fault Refusal := .next (s.replyRow c true (fun _ => true))
def execCompletion (c : Cell) (s : State) : Host.Outcome State Fault Refusal := .next (s.replyRow c false (· == 0))
def execNakRetry (c : Cell) (s : State) : Host.Outcome State Fault Refusal := .next (s.replyRow c false (· == 1))
def execNakRefuse (c : Cell) (s : State) : Host.Outcome State Fault Refusal := .next (s.replyRow c false (· == 2))
def execGetData (c : Cell) (s : State) : Host.Outcome State Fault Refusal := .next (s.replyRow c false (· == 3))
def execAtomicResult (c : Cell) (s : State) : Host.Outcome State Fault Refusal := .next (s.replyRow c false (· == 4))

/-! ### Choosing links (R355 to R357, R369) -/

/-- CUF_LINK_STATE.state codes (Table 13-8). -/
def lsOff : Nat := 0
def lsTraining : Nat := 1
def lsActive : Nat := 2
def lsQuiet : Nat := 3
def lsTest : Nat := 4
def lsFailed : Nat := 5

def Port.state (p : Port) : Nat := fld p.linkState 31 29

/-- The torus position one step along a direction (R347, R348). -/
def Topology.neighbour (t : Topology) (dir : Nat) : Nat :=
  let e := t.extents.take t.dims
  let c := coordsOf e t.node.toNat
  let d := dir / 2
  let n := e.getD d 1
  positionOf e (c.set d ((c.getD d 0 + (if dir % 2 = 0 then 1 else n - 1)) % n))

/-- Whether a port's partner is the neighbour that the record implies (R369). -/
def State.partnerOk (s : State) (t : Topology) (p : Nat) : Bool :=
  fld (s.port p).linkState 15 0 == t.neighbour ((t.ports.getD p (15, 0)).1)

/-- Whether a port takes cells: ACTIVE, or Quiet and woken by a cell (R339), and not excluded. -/
def State.usable (s : State) (t : Topology) (p : Nat) : Bool :=
  ((s.port p).state == lsActive || (s.port p).state == lsQuiet) && !bitOf s.xpt.linkExcl.toNat p && s.partnerOk t p

/-- Minimal directions in dimension d (R355). -/
def Topology.minimal (t : Topology) (dest d : Nat) : List Nat :=
  let e := t.extents.take t.dims
  let n := e.getD d 1
  let delta := ((coordsOf e dest).getD d 0 + n - (coordsOf e t.node.toNat).getD d 0) % n
  if delta = 0 then [] else if 2 * delta < n then [2 * d] else if n < 2 * delta then [2 * d + 1] else [2 * d, 2 * d + 1]

/-- Usable ports in one of the directions. -/
def State.portsIn (s : State) (t : Topology) (dirs : List Nat) : List Nat :=
  (List.range 24).filter (fun p => dirs.contains (t.ports.getD p (15, 0)).1 && s.usable t p)

/-- The candidate ports of a destination. -/
def State.candidates (s : State) (t : Topology) (dest : Nat) : List Nat :=
  s.portsIn t ((List.range t.dims).flatMap (t.minimal dest))

/-- Occupancy of a channel (R356). -/
def Port.occupancy (p : Port) (vc : Nat) : Nat := sget 0 p.partnerAllot vc - sget 0 p.credits vc

/-- The port with credit and the lowest occupancy, ties to the lower number. -/
def State.bestPort (s : State) (vc : Nat) (ps : List Nat) : Option Nat :=
  (ps.filter (fun p => decide (0 < sget 0 (s.port p).credits vc))).foldl (fun (b : Option Nat) p => match b with
    | none => some p
    | some q => if (s.port p).occupancy vc < (s.port q).occupancy vc then some p else some q) none

/-- The escape direction and its virtual channel offset (R357). -/
def Topology.escape (t : Topology) (dest : Nat) : Option (Nat × Nat) :=
  let e := t.extents.take t.dims
  let x := coordsOf e t.node.toNat
  let y := coordsOf e dest
  ((List.range t.dims).find? (fun d => x.getD d 0 != y.getD d 0)).map (fun d =>
    let n := e.getD d 1
    let a := x.getD d 0
    let b := y.getD d 0
    if 2 * ((b + n - a) % n) ≤ n then (2 * d, if b < a then 1 else 2) else (2 * d + 1, if a < b then 1 else 2))

/-- Port and virtual channel that a cell takes, if any. -/
def State.chooseLink (s : State) (t : Topology) (c : Cell) : Option (Nat × Nat) :=
  let dest := hDest c.hdr
  match s.bestPort (3 * c.cls) (s.candidates t dest) with
  | some p => some (p, 3 * c.cls)
  | none => match t.escape dest with
    | none => none
    | some (dir, o) => (s.bestPort (3 * c.cls + o) (s.portsIn t [dir])).map (fun p => (p, 3 * c.cls + o))

/-- Nodes of the torus. -/
def Topology.nodes (t : Topology) : Nat := (t.extents.take t.dims).foldl (· * ·) 1

/-- A cell leaves where it waits: transport's own cells, a NAK slot, or a port's input buffer, whose credit is returned. -/
def State.leave (s : State) (src : Option (PortId × Nat)) (c : Cell) : Option State :=
  match src with
  | none =>
    if s.xpt.injected.contains c then some { s with xpt := { s.xpt with injected := removeFirst (· == c) s.xpt.injected } }
    else if s.xpt.naks.contains c then some { s with xpt := { s.xpt with naks := removeFirst (· == c) s.xpt.naks } }
    else none
  | some (p, vc) =>
    let u := s.port p
    if u.input.contains ⟨vc, c⟩ then
      some (s.setPort p { u with input := removeFirst (· == ⟨vc, c⟩) u.input, struck := removeFirst (· == ⟨vc, c⟩) u.struck, returns := sset 0 u.returns vc (sget 0 u.returns vc + 1) })
    else none

/-- A cell waits at a port; between QUIET_REQ and the ACK it aborts the entry into Quiet (R339). -/
def Port.enqueue (v : Port) (z : VcCell) : Port :=
  let w := { v with waiting := v.waiting ++ [z] }
  if v.pm = .none then w else { w with pm := .none, pmDue := 0, pmAt := none, pmStat := bumpFld v.pmStat 31 18 1 }

/-- Whether a cell to be forwarded lies in an input buffer on a word that cannot be corrected (Table 9-1). -/
def State.lostAt (s : State) (src : Option (PortId × Nat)) (c : Cell) : Bool :=
  match src with
  | none => false
  | some (p, vc) => (s.port p).struck.contains ⟨vc, c⟩

/-- CELL_FORWARD: a cell that can take no channel waits where it is. -/
def execCellForward (src : Option (PortId × Nat)) (c : Cell) (s : State) : Host.Outcome State Fault Refusal :=
  .next (match s.xpt.topo, s.leave src c with
    | some t, some u =>
      if hDest c.hdr = t.node.toNat then s
      else if s.lostAt src c then u
      else if t.nodes ≤ hDest c.hdr ∨ s.candidates t (hDest c.hdr) = [] then u.unroutable
      else match s.chooseLink t c with
        | none => s
        | some (p, vc) => u.modPort p (fun v => v.enqueue ⟨vc, c⟩)
    | _, _ => s)

end Sys2Proof.Machine
end

