-- ==== Sys2Proof/Machine/Inbound.lean ====
section
/-! DEFINITION. The receiving side of transport (spec/14_routing_and_transport.md, R261): inbound contexts, retire records,
NAKs, the effects of complete messages, and the timers of both tables. -/

namespace Sys2Proof.Machine

/-! ### Tables (R360, R363) -/

def State.putIn (s : State) (i : Nat) (m : Option InMsg) : State :=
  { s with xpt := { s.xpt with inbound := sset none s.xpt.inbound i m } }

/-- The inbound context of a key. -/
def State.findIn (s : State) (key : MsgKey) : Option (Nat × InMsg) :=
  s.xpt.inbound.findSome? (fun e => match e.2 with | some m => if m.key = key then some (e.1, m) else none | none => none)

/-- The first free inbound context. -/
def State.freeIn (s : State) : Option Nat :=
  if inboundContexts ≤ s.xpt.inbound.length then none
  else (List.range (s.xpt.inbound.length + 1)).find? (fun i => (sget none s.xpt.inbound i).isNone)

/-- An inbound context is freed with the reduce staging it holds. -/
def State.freeInbound (s : State) (i : Nat) (m : InMsg) : State :=
  let t := s.putIn i none
  { t with xpt := { t.xpt with staging := t.xpt.staging - m.reserve } }

/-- A retire record of a complete message. -/
def State.retireOf (s : State) (m : InMsg) (reply : Cell) : Retire :=
  ⟨m.key, m.gen, reply, false, match m.key with | .a _ _ => some (s.now + s.xpt.retireNs) | .x .. => none⟩

/-- A complete message leaves a retire record, or keeps its context while the table is full (R363). -/
def State.retire (s : State) (i : Nat) (m : InMsg) (reply : Cell) : State :=
  if s.xpt.retire.length < retireEntries then
    let t := s.freeInbound i m
    { t with xpt := { t.xpt with retire := t.xpt.retire ++ [s.retireOf m reply] } }
  else
    let t := s.freeInbound i m
    t.putIn i (some { m with reply := some reply, reserve := 0, staged := [] })

/-- Contexts that wait for a retire record take the entries that are free. -/
def State.retireSettle (s : State) : State :=
  s.xpt.inbound.foldl (fun t e => match e.2 with
    | some m => match m.reply with
      | some r => if t.xpt.retire.length < retireEntries then t.retire e.1 m r else t
      | none => t
    | none => t) s

/-! ### Answers -/

/-- A cell in another generation. -/
def regen (c : Cell) (gen : Nat) : Cell :=
  mkCell c.cls (if hIsX c.hdr then setHf c.hdr 27 25 gen else setHf c.hdr 49 47 gen) c.payload

/-- The GET_DATA cells that answer a GET request (R365). -/
def State.serveGet (s : State) (x : Nat) (c : Cell) : State :=
  let n := leAt c.payload 8 4
  match s.readLoc x 0 .inbound ⟨.va, leAt c.payload 0 8⟩ n with
  | .error _ => s
  | .ok r =>
    let ps := payloads48 r.2
    r.1.inject (ps.zipIdx.map (fun p => replyA s.node c.hdr 3 0 p.2 (ps.length - 1) p.1.1 p.1.2))

/-- The recorded reply again, in a newer generation; a GET is read again. -/
def State.replyAgain (s : State) (r : Cell) (gen : Nat) : State :=
  if r.cls = clRsp then s.inject [regen r gen]
  else match s.ctxOfTag (aRtag r.hdr) with
    | none => s
    | some x => s.serveGet x (regen r gen)

/-- NAK of a format-A cell. -/
def State.nakA (s : State) (c : Cell) (kind code : Nat) : State := s.inject [replyA s.node c.hdr kind code 0 0 [] false]

/-- The node that a format-X cell's reply goes to (R367). -/
def State.xDest (s : State) (h : BitVec 96) : Option Nat :=
  (s.ctxOfTag (xRtag h)).bind (fun x => ((s.ctx x).program.bind (fun p => p.routers[xLayer h]?)).bind (fun r =>
    (s.layerTables x r).map (fun t => if xPhase h % 2 = 0 then t.2.getD (xSender h) 0 else ownerNode t.1 (xSender h))))

/-- NAK of a cell of either format. -/
def State.nak (s : State) (c : Cell) (kind code : Nat) : State :=
  if hIsX c.hdr then match s.xDest c.hdr with
    | none => s.orphan
    | some d => s.inject [replyX d c.hdr kind code]
  else s.nakA c kind code

/-- A cell for which no inbound context is free: a NAK slot, or discarded (R358). -/
def State.noContext (s : State) (c : Cell) : State :=
  if s.xpt.naks.length < nakSlots then
    let r : Option Cell := if hIsX c.hdr then (s.xDest c.hdr).map (fun d => replyX d c.hdr 1 ncNoContext)
      else some (replyA s.node c.hdr 1 ncNoContext 0 0 [] false)
    match r with
    | none => s.orphan
    | some q => { s with xpt := { s.xpt with naks := s.xpt.naks ++ [q] } }
  else s.nakDiscarded

/-! ### The first cell of a message -/

/-- What a first cell meets: a NAK that answers every cell of the message, an admission, or nothing. -/
inductive Admit | nak (kind code : Nat) (t : State) | go (t : State) (m : InMsg) | drop (t : State)

/-- Bytes of a message of 40-byte cells. -/
def bytes40 (h : BitVec 96) (valid : Nat) : Nat := 40 * hLast h + valid

/-- Pages that a range touches. -/
def pagesOf (va n : Nat) : List Nat := (pagePieces va n).map (fun p => p.1 / 65536)

/-- A new inbound context. -/
def newIn (s : State) (key : MsgKey) (x : Nat) (h : BitVec 96) (base n valid : Nat) : InMsg :=
  { key := key, ctx := x, gen := BitVec.ofNat 3 (hGen h), last := hLast h, got := [], lapseAt := s.now + 2 * s.xpt.resendNs
    held := pagesOf base n, staged := [], stagedPoison := false, validLast := valid, base := base, reserve := 0
    col := none, reply := none, nak := none }

/-- A range that does not translate turns the message away (R261): NOT_MAPPED retry-later with a notice, any other kind
refused with one record. The context's fault register captures both (R263; log entry 100). -/
def State.turnAway (s : State) (x src : Nat) (agent : Agent) (access : Access) (e : Nat × Nat) : Admit :=
  let t := s.modCtx x (fun v => { v with faultReg := captureFault v.faultReg ⟨agent, 0, e.1, access, e.2⟩ })
  if e.1 = kNotMapped then .nak 1 e.1 (t.noticeCtx x 4 (leFields [(8, e.2), (1, e.1), (7, 0)]))
  else
    let l : LogArgs := { cls := 0, cause := 0x2016#16, block := 0x0A, inst := 0, ctx := some x, detail := leBytes 2 src ++ leBytes 1 e.1 }
    .nak 2 e.1 (t.corrected l)

/-- The translation of a message's range: NOT_MAPPED on any of its pages comes before every other kind (R261). -/
def State.translateMsg (s : State) (x : Nat) (agent : Agent) (access : Access) (va n : Nat) : Except (Nat × Nat) Unit :=
  match (pagePieces va n).findSome? (fun p => match s.lookup x agent access p.1 with
    | .error k => if k = kNotMapped then some p.1 else none
    | .ok _ => none) with
  | some a => .error (kNotMapped, a)
  | none => match s.translateRange x agent access va n with
    | .error e => .error e
    | .ok _ => .ok ()

/-- Element bytes of a REDUCE_PUT format. -/
def reduceBytes (fmt : Nat) : Nat := if fmt = 1 then 2 else 4

/-- The first cell of a REQ or BLK message (R365, R366); an ATOMIC or FLAG_SET with poison is refused (Table 21-4). -/
def State.admitReq (s : State) (x : Nat) (key : MsgKey) (c : Cell) : Admit :=
  let h := c.hdr
  let p := c.payload
  let word := leAt p 0 8
  match aKind h with
  | 0 | 4 =>
    let valid := bitsOf word 53 48
    let fmt := bitsOf word 55 54
    let base := (bitsOf word 47 0 + 2 ^ 48 - 40 * aIdx h) % 2 ^ 48
    let n := bytes40 h valid
    let reduce := aKind h == 4
    if valid = 0 ∨ 40 < valid ∨ (reduce ∧ (fmt = 3 ∨ base % reduceBytes fmt ≠ 0 ∨ n % reduceBytes fmt ≠ 0)) then .nak 2 ncAlign s
    else match s.translateMsg x .inbound .write base n with
      | .error e => s.turnAway x (aSrc h) .inbound .write e
      | .ok _ =>
        let m := newIn s key x h base n valid
        if !reduce then .go s m
        else if reduceStaging < s.xpt.staging + n then .nak 1 ncNoContext s
        else .go { s with xpt := { s.xpt with staging := s.xpt.staging + n } } { m with reserve := n }
  | 1 =>
    let n := leAt p 8 4
    if n = 0 ∨ 196608 < n then .nak 2 ncAlign s
    else match s.translateMsg x .inbound .read word n with
      | .error e => s.turnAway x (aSrc h) .inbound .read e
      | .ok _ => .go s (newIn s key x h word n 0)
  | 2 =>
    if aPoison h then .nak 2 ncPoison s
    else if word % 8 ≠ 0 ∨ 2 < leAt p 8 1 then .nak 2 ncAlign s
    else match s.translateMsg x .inbound .atomic word 8 with
      | .error e => s.turnAway x (aSrc h) .inbound .atomic e
      | .ok _ => .go s (newIn s key x h word 8 0)
  | 3 =>
    let id : BitVec 16 := BitVec.ofNat 16 (leAt p 1 2)
    let mode := leAt p 3 1
    let v := leAt p 4 4
    if aPoison h then .nak 2 ncPoison s
    else if !flagIdOk id ∨ ((s.ctx x).physical (leAt p 0 1)).isNone ∨ 1 < mode ∨ (mode = 1 ∧ (v = 0 ∨ 65535 < v)) then .nak 2 ncFlag s
    else .go s (newIn s key x h 0 0 0)
  | _ => .drop s.malformed

/-- The first cell of a COL message (R368, R384). -/
def State.admitCol (s : State) (x : Nat) (key : MsgKey) (c : Cell) : Admit :=
  let h := c.hdr
  let word := leAt c.payload 0 8
  match s.epochNak x (aKind h / 8) with
  | some code =>
    if code = ncFuture then .nak 1 code s else .nak 2 code (s.logEpoch x (aSrc h) (aKind h / 8))
  | none => match s.colAdmit x h word with
    | .nak kind code t => .nak kind code t
    | .credit _ _ _ _ => .go s (newIn s key x h 0 0 0)
    | .sink _ k =>
      let n := bytes40 h (landValid word)
      let m := { newIn s key x h 0 0 (landValid word) with col := some k }
      if k.fate = 2 ∨ k.inCm ∨ aKind h % 8 = codeBeacon then .go s m
      else
        let base := k.base + landOffset word - 40 * aIdx h
        match s.translateMsg x .inboundPinned .write base n with
        | .error e => s.turnAway x (aSrc h) .inboundPinned .write e
        | .ok _ => .go s { m with base := base, held := pagesOf base n }

/-- The first cell of an XCH message (R367). -/
def State.admitXch (s : State) (key : MsgKey) (c : Cell) : Admit :=
  let h := c.hdr
  match s.xchAdmit h with
  | .orphan => .drop s.orphan
  | .nak kind code _ t => .nak kind code t
  | .count x k v => .drop (s.xchCountFault x k v (xSender h))
  | .fine x _ r v =>
    if xK h = 511 then
      let base := v.f.record + 64
      let n := 4 * r.nLocal * r.nSources
      match s.translateMsg x .inboundPinned .write base n with
      | .error e => s.turnAway x ((s.xDest h).getD 0) .inboundPinned .write e
      | .ok _ => .go s (newIn s key x h base n 0)
    else match s.layerTables x r with
      | none => .drop s.orphan
      | some (map, _) =>
        let base := v.base r map h + xK h * rowsPerMessage r * r.rowPitch
        let n := msgRows r (xLast h) * r.rowPitch
        match s.translateMsg x .inboundPinned .write base n with
        | .error e => s.turnAway x ((s.xDest h).getD 0) .inboundPinned .write e
        | .ok _ => .go s (newIn s key x h base n 0)

/-! ### Placing a cell -/

/-- One cell of an admitted message: the state, what the context keeps, or a fault of its range. -/
def State.placeCell (s : State) (m : InMsg) (c : Cell) : Except (Nat × Nat) (State × InMsg) :=
  let h := c.hdr
  let word := leAt c.payload 0 8
  if hIsX h then
    match s.armedRecv m.ctx (xLayer h) (xPhase h) (xRound h + 1), (s.ctx m.ctx).program.bind (fun p => p.routers[xLayer h]?) with
    | some (_, v), some r => match s.layerTables m.ctx r with
      | none => .ok (s, m)
      | some (map, _) => match s.xchPlace m.ctx (v.cellWrites r map h c.payload) (xPoison h) with
        | .ok t => .ok (t, m)
        | .error (.fault k _ va) => .error (k, va)
        | .error .poison => .ok (s, m)
    | _, _ => .ok (s, m)
  else
    let n := if aIdx h = aLast h then m.validLast else 40
    let data := sliceBytes c.payload 8 n
    if c.cls = clCol then
      match m.col with
      | none => .ok (s, m)
      | some k =>
        let beacon := aKind h % 8 == codeBeacon
        let m1 := if beacon then { m with staged := m.staged ++ [(aIdx h, data)] } else m
        match s.colPlace m.ctx k beacon word data (aPoison h) with
        | .ok t => .ok (t, m1)
        | .error (.fault q _ va) => .error (q, va)
        | .error .poison => .ok (s, m1)
    else match aKind h with
      | 0 => match s.writeVa m.ctx .inbound (bitsOf word 47 0) data (aPoison h) with
        | .ok t => .ok (t, m)
        | .error e => .error e
      | 4 => .ok (s, { m with staged := m.staged ++ [(aIdx h, data)], stagedPoison := m.stagedPoison || aPoison h })
      | _ => .ok (s, m)

/-! ### Complete messages -/

/-- Staged data in cell order. -/
def stagedBytes (m : InMsg) : List Byte :=
  (List.range (m.last + 1)).flatMap (fun i => ((m.staged.find? (fun p => p.1 == i)).map (·.2)).getD [])

/-- One element of a REDUCE_PUT: format 0 FP32, 1 BF16, 2 INT32. -/
def reduceElem (fmt a b : Nat) : Nat :=
  if fmt = 0 then (f32add (BitVec.ofNat 32 a) (BitVec.ofNat 32 b)).toNat
  else if fmt = 1 then (bf16.encode .nearestEven false 0 ((bf16.decode a).add (bf16.decode b))).1
  else (a + b) % 2 ^ 32

/-- A REDUCE_PUT takes effect: every element in ascending order, rounded once. -/
def State.reduceInto (s : State) (m : InMsg) (fmt : Nat) : Except (Nat × Nat) State :=
  let d := stagedBytes m
  match s.readLoc m.ctx 0 .inbound ⟨.va, m.base⟩ d.length with
  | .error e => .error e
  | .ok r =>
    let w := reduceBytes fmt
    let old := r.2.map (·.1)
    let bs := (List.range (d.length / w)).flatMap (fun i => leBytes w (reduceElem fmt (leAt old (w * i) w) (leAt d (w * i) w)))
    r.1.writeLoc m.ctx 0 .inbound ⟨.va, m.base⟩ (bs.zip (r.2.map (fun p => p.2 || m.stagedPoison)))

/-- A complete message whose range no longer translates is turned away as its first cell would have been (R261). -/
def State.refuseLate (s : State) (m : InMsg) (c : Cell) (access : Access) (e : Nat × Nat) : State × Option Cell :=
  match s.turnAway m.ctx (aSrc c.hdr) .inbound access e with
  | .nak kind code t => (t.nakA c kind code, none)
  | _ => (s, none)

/-- The effect of a complete message and its reply; without a reply the message was refused. -/
def State.complete (s : State) (m : InMsg) (c : Cell) : State × Option Cell :=
  let h := c.hdr
  let done := replyA s.node h 0 0 0 0 [] false
  let p := c.payload
  if hIsX h then (s, (s.xDest h).map (fun d => replyX d h 0 0))
  else if c.cls = clCol then
    match m.col with
    | some k =>
      let n := bytes40 h m.validLast
      (s.colComplete m.ctx (aSrc h) k (landOffset (leAt p 0 8) - 40 * aIdx h) n (stagedBytes m), some done)
    | none => match s.colAdmit m.ctx h (leAt p 0 8) with
      | .credit x k desc stage => (s.ringCredit x k desc stage, some done)
      | _ => (s, some done)
  else match aKind h with
    | 4 => match s.reduceInto m (bitsOf (leAt p 0 8) 55 54) with
      | .ok t => (t, some done)
      | .error e => s.refuseLate m c .write e
    | 1 => (s.serveGet m.ctx c, some c)
    | 2 => match s.translate m.ctx .inbound .atomic (leAt p 0 8) with
      | .error k => s.refuseLate m c .atomic (k, leAt p 0 8)
      | .ok pa =>
        let r := s.atomicPa pa (leAt p 8 1) (BitVec.ofNat 64 (leAt p 16 8)) (BitVec.ofNat 64 (leAt p 24 8)) []
        match r.2 with
        | none => (r.1.nakA c 2 ncPoison, none)
        | some old => (r.1, some (replyA s.node h 4 0 0 0 (leBytes 8 old.toNat) false))
    | 3 => match (s.ctx m.ctx).physical (leAt p 0 1) with
      | none => (s, some done)
      | some k =>
        let id : BitVec 16 := BitVec.ofNat 16 (leAt p 1 2)
        let v := leAt p 4 4
        ((if leAt p 3 1 = 0 then s.setFlag k id (BitVec.ofNat 32 v) else s.addFlag k id v).flagsMoved k, some done)
    | _ => (s, some done)

/-- The end of a message whose count is full (R360): effect, reply, retire record, freed context. An exchange message's
record stands before its effect may end the receive (R363). -/
def State.finish (s : State) (i : Nat) (m : InMsg) (c : Cell) : State :=
  let r := s.complete m c
  match r.2 with
  | none => r.1.freeInbound i m
  | some reply =>
    let t := if reply.cls = clRsp then r.1.inject [reply] else r.1
    let u := t.retire i m reply
    if hIsX c.hdr then u.xchComplete m.ctx c.hdr else u

/-! ### Arriving cells (R360) -/

/-- One more cell of a context. -/
def State.countCell (s : State) (i : Nat) (m : InMsg) (c : Cell) : State :=
  match s.placeCell m c with
  | .error e => match s.turnAway m.ctx (aSrc c.hdr) .inbound .write e with
    | .nak kind code t => (t.nak c kind code).freeInbound i m
    | _ => s
  | .ok r =>
    let m1 := { r.2 with got := r.2.got ++ [hIdx c.hdr], lapseAt := s.now + 2 * s.xpt.resendNs }
    if m1.got.length = m1.last + 1 then r.1.finish i m1 c else r.1.putIn i (some m1)

/-- The first cell of a message. -/
def State.firstCell (s : State) (key : MsgKey) (c : Cell) (letIn : State → Admit) : State :=
  let h := c.hdr
  if hLast h < hIdx h ∨ (!hIsX h ∧ (c.cls = clReq ∨ c.cls = clBlk) ∧ 1 ≤ aKind h ∧ aKind h ≤ 3 ∧ hLast h ≠ 0) then s.malformed
  else match s.freeIn with
    | none => s.noContext c
    | some i => match letIn s with
      | .drop t => t
      | .nak kind code t =>
        let u := t.nak c kind code
        if hLast h = 0 then u
        else u.putIn i (some { newIn s key 0 h 0 0 0 with got := [hIdx h], nak := some (kind, code) })
      | .go t m => t.countCell i m c

/-- A cell against the retire records and the inbound contexts; `gate` is a NAK that its target context gives every cell, a
retry-later one before any record is looked up (R267). -/
def State.arrive (s : State) (key : MsgKey) (c : Cell) (gate : Option (Nat × Nat)) (letIn : State → Admit) : State :=
  let h := c.hdr
  let again (gen : BitVec 3) (r : Cell) (mark : State → State) : State :=
    if genNewer (hGen h) gen.toNat then mark (s.replyAgain r (hGen h)) else s
  if gate.any (fun g => g.1 == 1) then s.nak c 1 ((gate.map (·.2)).getD 0)
  else match s.xpt.retire.find? (fun r => r.key == key) with
  | some r => again r.gen r.reply (fun t => { t with xpt := { t.xpt with
      retire := t.xpt.retire.map (fun q => if q.key = key then { q with gen := BitVec.ofNat 3 (hGen h) } else q) } })
  | none =>
    match gate with
    | some (kind, code) => s.nak c kind code
    | none => match s.findIn key with
      | none => s.firstCell key c letIn
      | some (i, m) => match m.reply with
        | some r => again m.gen r (fun t => t.putIn i (some { m with gen := BitVec.ofNat 3 (hGen h) }))
        | none =>
          if hLast h ≠ m.last ∨ m.last < hIdx h then s.malformed
          else if hGen h = m.gen.toNat then
            match m.nak with
            | some (kind, code) =>
              let m1 := { m with got := m.got ++ [hIdx h], lapseAt := s.now + 2 * s.xpt.resendNs }
              (s.nak c kind code).putIn i (if m1.got.length = m.last + 1 then none else some m1)
            | none => s.countCell i m c
          else if !genNewer (hGen h) m.gen.toNat then s
          else match m.nak with
            | some _ => (s.putIn i none).firstCell key c letIn
            | none => s.countCell i { m with gen := BitVec.ofNat 3 (hGen h), got := [], staged := [], stagedPoison := false } c

/-- A request cell of format A that passed its CRC. -/
def State.request (s : State) (c : Cell) : State :=
  let h := c.hdr
  let key : MsgKey := .a (BitVec.ofNat 16 (aSrc h)) (aMsg h)
  match s.ctxOfTag (aRtag h) with
  | none => s.arrive key c (some (2, ncNoTag)) (fun t => .drop t)
  | some x =>
    let gate := if s.naksAll x then some (1, ncSuspended) else none
    s.arrive key c gate (fun t => if c.cls = clCol then t.admitCol x key c else t.admitReq x key c)

/-- A Lantern message enters the ring, or is discarded and counted (R358). -/
def State.mgtCell (s : State) (c : Cell) : State :=
  if s.xpt.mgtRing.length < mgtRingCells then { s with xpt := { s.xpt with mgtRing := s.xpt.mgtRing ++ [c] } } else s.nakDiscarded

/-- CELL_ARRIVAL: a format-A cell of any class addressed to this node. -/
def execCellArrival (c : Cell) (s : State) : Host.Outcome State Fault Refusal :=
  .next (if s.isHere c && !hIsX c.hdr && decide (c.cls < 6) then
      let t := (s.takeCell c).retireSettle
      if s.cellLost c then t
      else if !Cell.crcOk c then t.crcError
      else if c.cls = clRsp then t.reply c
      else if c.cls = clMgt then t.mgtCell c
      else if c.cls = clXch then t.malformed
      else t.request c
    else s)

/-- XCH_CELL. -/
def execXchCell (c : Cell) (s : State) : Host.Outcome State Fault Refusal :=
  .next (if s.isHere c && hIsX c.hdr && !xReply c.hdr && c.cls == clXch then
      let t := (s.takeCell c).retireSettle
      if s.cellLost c then t
      else if !Cell.crcOk c then t.crcError
      else match t.xDest c.hdr, t.ctxOfTag (xRtag c.hdr) with
        | some _, some x =>
          let gate := if t.naksAll x then some (1, ncSuspended) else none
          t.arrive (xKey c.hdr) c gate (fun u => u.admitXch (xKey c.hdr) c)
        | _, _ => t.orphan
    else s)

/-! ### Timers (R360, R363) -/

/-- INBOUND_CONTEXT_TIMEOUT: bytes placed stay in memory. The interval is the one in force when the last cell came (R360,
R522). -/
def execInboundContextTimeout (index : Nat) (s : State) : Host.Outcome State Fault Refusal :=
  .next (match sget none s.xpt.inbound index with
    | none => s
    | some m => if m.reply.isSome ∨ s.now < m.lapseAt then s else s.freeInbound index m)

/-- RETIRE_EXPIRY of a format-A record. -/
def execRetireExpiry (index : Nat) (s : State) : Host.Outcome State Fault Refusal :=
  .next (match s.xpt.retire[index]? with
    | none => s
    | some r => match r.lapse with
      | none => s
      | some t =>
        if s.now < t then s
        else State.retireSettle { s with xpt := { s.xpt with retire := s.xpt.retire.eraseIdx index } })

end Sys2Proof.Machine
end

