-- ==== Sys2Proof/Machine/Rs.lean ====
section
/-! DEFINITION. The Reed-Solomon codes of link frames (R322): GF(2^8), parity bytes, and a decoder. Powers of α repeat
after 255, so two bytes of a frame that lie 255 apart share a locator; the frame's crc tells the codewords apart (log entry 30). -/

namespace Sys2Proof.Machine

/-! ### GF(2^8), x^8 + x^4 + x^3 + x^2 + 1 -/

def gf8Double (a : Nat) : Nat := if a < 128 then 2 * a else (2 * a) ^^^ 0x11D

def gf8MulFrom : Nat → Nat → Nat → Nat
  | 0, _, _ => 0
  | n + 1, a, b => (if b % 2 = 1 then a else 0) ^^^ gf8MulFrom n (gf8Double a) (b / 2)

def gf8Mul (a b : Nat) : Nat := gf8MulFrom 8 a b

def gf8Pow (a : Nat) : Nat → Nat
  | 0 => 1
  | n + 1 => gf8Mul a (gf8Pow a n)

def gf8Inv (a : Nat) : Nat := gf8Pow a 254

/-- α^e. -/
def gf8Alpha (e : Nat) : Nat := gf8Pow 2 (e % 255)

/-! ### Polynomials, lowest coefficient first -/

def polyAdd : List Nat → List Nat → List Nat
  | [], q => q
  | p, [] => p
  | a :: p, b :: q => (a ^^^ b) :: polyAdd p q

def polyScale (c : Nat) (p : List Nat) : List Nat := p.map (gf8Mul c)

def polyMul : List Nat → List Nat → List Nat
  | [], _ => []
  | a :: p, q => polyAdd (polyScale a q) (0 :: polyMul p q)

def polyEval (p : List Nat) (x : Nat) : Nat := p.foldr (fun a acc => a ^^^ gf8Mul x acc) 0

/-- The generator: the product of (x + α^j) for j below 2t. -/
def rsGenerator (t2 : Nat) : List Nat := (List.range t2).foldl (fun g j => polyMul g [gf8Alpha j, 1]) [1]

/-- Parity bytes of a body, highest power first: the remainder of body(x) x^2t. -/
def rsParity (t2 : Nat) (body : List Byte) : List Byte :=
  let low := ((rsGenerator t2).take t2).reverse
  (body.foldl (fun (r : List Nat) b =>
    let f := r.headD 0 ^^^ b.toNat
    ((r.drop 1 ++ [0]).zip low).map (fun (p : Nat × Nat) => p.1 ^^^ gf8Mul f p.2)) (List.replicate t2 0)).map (BitVec.ofNat 8)

/-- Syndromes r(α^j). -/
def rsSyndromes (t2 : Nat) (w : List Byte) : List Nat :=
  (List.range t2).map (fun j => let a := gf8Alpha j; w.foldl (fun acc b => gf8Mul acc a ^^^ b.toNat) 0)

/-! ### Decoding -/

/-- One step of the search for the error locator: locator, its previous form, length, distance, previous discrepancy. -/
structure BmState where
  c : List Nat
  b : List Nat
  len : Nat
  m : Nat
  d : Nat

def bmStep (S : List Nat) (z : BmState) (n : Nat) : BmState :=
  let d := ((List.range (z.len + 1)).map (fun i => gf8Mul (z.c.getD i 0) (if n < i then 0 else S.getD (n - i) 0))).foldl (· ^^^ ·) 0
  let next := polyAdd z.c (List.replicate z.m 0 ++ polyScale (gf8Mul d (gf8Inv z.d)) z.b)
  if d = 0 then { z with m := z.m + 1 }
  else if 2 * z.len ≤ n then ⟨next, z.c, n + 1 - z.len, 1, d⟩
  else { z with c := next, m := z.m + 1 }

/-- Locator polynomial and number of errors that the syndromes name. -/
def errorLocator (S : List Nat) : List Nat × Nat :=
  let z := (List.range S.length).foldl (bmStep S) ⟨[1], [1], 0, 1, 1⟩
  (z.c, z.len)

/-- Exponents e of the locators α^e, and the error at each. -/
def rsErrors (t2 : Nat) (S : List Nat) : Option (List (Nat × Nat)) :=
  let (c, len) := errorLocator S
  let es := (List.range 255).filter (fun e => polyEval c (gf8Alpha (255 - e)) = 0)
  if t2 / 2 < len ∨ es.length ≠ len then none
  else
    let omega := (polyMul S c).take t2
    let deriv := (c.drop 1).zipIdx.map (fun p => if p.2 % 2 = 0 then p.1 else 0)
    some (es.map (fun e =>
      let xi := gf8Alpha (255 - e)
      (e, gf8Mul (gf8Alpha e) (gf8Mul (polyEval omega xi) (gf8Inv (polyEval deriv xi))))))

/-- The error at byte i taken out. -/
def fixByte (w : List Byte) (i m : Nat) : List Byte := w.set i (w.getD i 0 ^^^ BitVec.ofNat 8 m)

/-- Exponents whose locator two bytes of a frame of n bytes share: bytes n - 1 - e and n - 1 - e - 255. -/
def sharedExponents (n : Nat) : List Nat := List.range (n - 255)

/-- The frames that exactly `changes` changed bytes at the places of shared locators make, where each locator e has the sum of its
two errors as given. -/
def pairFixes : List (Nat × Nat) → Nat → List Byte → List (List Byte)
  | [], changes, w => if changes = 0 then [w] else []
  | (e, m) :: rest, changes, w => (List.range 256).flatMap (fun a =>
      let b := m ^^^ a
      let cost := (if a = 0 then 0 else 1) + (if b = 0 then 0 else 1)
      let i := w.length - 1 - e
      if changes < cost then [] else pairFixes rest (changes - cost) (fixByte (fixByte w i a) (i - 255) b))

/-- The codewords within t changed bytes of a received frame, fewest first, each with the number of bytes corrected: the code
corrects any t erroneous bytes (R322). -/
def rsDecode (t2 : Nat) (w : List Byte) : List (List Byte × Nat) :=
  let S := rsSyndromes t2 w
  match (if S.all (· == 0) then some [] else rsErrors t2 S) with
  | none => []
  | some es =>
    let own := es.filter (fun e => w.length ≤ e.1 + 255)
    let shared := (sharedExponents w.length).map (fun e => (e, ((es.find? (fun z => z.1 == e)).map (·.2)).getD 0))
    if own.any (fun e => w.length ≤ e.1) then []
    else
      let v := own.foldl (fun v e => fixByte v (v.length - 1 - e.1) e.2) w
      (List.range (t2 / 2 + 1 - own.length)).flatMap (fun k => (pairFixes shared k v).map (fun x => (x, own.length + k)))

end Sys2Proof.Machine
end

