-- ==== Sys2Proof/Machine/Links.lean ====
section
/-! DEFINITION. Cuff ports (spec/13_cuff_links.md): frames, sequencing and replay, credits, the training table and its
actions, link resets, Quiet and Off, and the pattern checkers. -/

namespace Sys2Proof.Machine

/-! ### Constants (Tables 13-1, 13-8, 13-9A) -/

def lcNone : Nat := 0
def lcRetryLimit : Nat := 1
def lcLossOfLock : Nat := 2
def lcProtocol : Nat := 3
def lcCommand : Nat := 4
def lcNoCommonGen : Nat := 5
def lcTrainingFail : Nat := 6

def replayBodies : Nat := 512

/-- Parity bytes of a frame of a generation. -/
def genParity (g : Nat) : Nat := if g = 2 then 8 else if g = 3 then 16 else 0

/-- 8 frame times of a generation, in nanoseconds. -/
def gen8Frames (g : Nat) : Nat := if g = 1 then 136 else if g = 2 then 70 else 36

def Port.gen (p : Port) : Nat := fld p.linkState 28 27
def Port.entry (p : Port) : Nat := fld p.linkState 26 21

/-- CUF_PORT_CFG in force since the last training (R337). -/
def Port.replayNs (p : Port) : Nat := fld32 p.inForce 7 0 * 1000
def Port.idleNs (p : Port) : Nat := fld32 p.inForce 23 12 * 1000
def Port.quietEn (p : Port) : Bool := bitOf p.inForce.toNat 27
def Port.genMask (p : Port) : Nat := fld32 p.inForce 30 28
def Port.enabled (p : Port) : Bool := bitOf p.cfg.toNat 31

/-- Allotments of the 18 virtual channels from six adaptive fields (R328). -/
def allotments (six : List Nat) : Sparse Nat :=
  (List.range 18).foldl (fun m vc => sset 0 m vc (if vc % 3 = 0 then 8 * six.getD (vc / 3) 0 else 32)) []

/-- The six fields of CUF_CREDIT_CFG. -/
def creditFields (w : Word64) : List Nat := (List.range 6).map (fun c => fld w (8 * c + 7) (8 * c))

/-! ### Link state changes -/

/-- A LINK_CHANGE notice (Table 17-11). -/
def State.linkChange (s : State) (p : Nat) : State :=
  s.noticeDev 5 (leFields [(1, p), (1, (s.port p).state), (1, fld (s.port p).linkState 39 36), (5, 0)])

/-- state and gen of CUF_LINK_STATE. -/
def Port.setState (u : Port) (st g : Nat) : Port := { u with linkState := withFld (withFld u.linkState 31 29 st) 28 27 g }

/-! ### Pattern counts (R342, R343) -/

def prbsCtlDefault : Word32 := 0x08000000#32

/-- CUF_LANE_PRBS with bits and errors added, where `rest` bits stand over from before; bits_k counts whole units of 1,024. -/
def prbsCount (w : Word64) (rest bits errors : Nat) : Word64 := bumpFld (bumpFld w 63 24 ((rest + bits) / 1024)) 23 0 errors

/-- Bits that a Cuff lane checks in a time of ns at generation g: 32, 64 and 128 Gbit/s (R342's example). -/
def laneBits (g ns : Nat) : Nat := 16 * 2 ^ g * ns

/-- The counts of a lane as they stand now: a locked checker has counted since it locked. The number of errors, and of bits
where the spec gives no rate, is a free value. -/
def State.prbsNow (s : State) (host : Bool) (p lane : Nat) : State × Word64 :=
  let c := sget prbsCtlDefault (if host then s.hp.prbsCtl else (s.port p).prbsCtl) lane
  let at' := sget 0 (if host then s.hp.lockAt else (s.port p).lockAt) lane
  let old := sget 0 (if host then s.hp.prbs else (s.port p).prbs) lane
  let rest := sget 0 (if host then s.hp.prbsRest else (s.port p).prbsRest) lane
  if fld32 c 29 29 = 0 ∨ at' = 0 then (s, old)
  else
    let g := (s.port p).negotiated
    let bits := if host ∨ g = 0 then Config.freeNat s.freeCtr else laneBits g (s.now + 1 - at')
    let new := prbsCount old rest bits (Config.freeNat (s.freeCtr + 1))
    let stays := (rest + bits) % 1024
    let t := { s with freeCtr := s.freeCtr + 2 }
    (if host then
      { t with hp := { t.hp with prbs := sset 0 t.hp.prbs lane new, lockAt := sset 0 t.hp.lockAt lane (t.now + 1)
                                 prbsRest := sset 0 t.hp.prbsRest lane stays } }
    else t.modPort p (fun u => { u with prbs := sset 0 u.prbs lane new, lockAt := sset 0 u.lockAt lane (t.now + 1)
                                        prbsRest := sset 0 u.prbsRest lane stays }), new)

/-- A lane's checker without its lock. -/
def Port.unlock (u : Port) (lane : Nat) : Port :=
  { u with prbsCtl := sset prbsCtlDefault u.prbsCtl lane (withFld32 (sget prbsCtlDefault u.prbsCtl lane) 29 29 0)
           lockAt := sset 0 u.lockAt lane 0 }

/-- The pattern tests of a port that leaves TEST end: its checkers stop counting and lose their lock (R342). -/
def State.testEnds (s : State) (p : Nat) : State :=
  if (s.port p).state ≠ lsTest then s
  else (List.range 4).foldl (fun t l => (t.prbsNow false p l).1.modPort p (fun u => u.unlock l)) s

/-- The pattern tests of the host port end likewise; its counts stay (R424). -/
def State.hostTestEnds (s : State) : State :=
  if s.hp.testUntil.isNone then s
  else (List.range 8).foldl (fun t l =>
    let u := (t.prbsNow true 0 l).1
    { u with hp := { u.hp with
      prbsCtl := sset prbsCtlDefault u.hp.prbsCtl l (withFld32 (sget prbsCtlDefault u.hp.prbsCtl l) 29 29 0)
      lockAt := sset 0 u.hp.lockAt l 0 } }) s

/-! ### Link resets and training entries (R333, R338) -/

/-- Everything a link reset discards (R338). -/
def Port.discarded (u : Port) : Port :=
  { u with replay := [], replaying := none, replayFrom := none, replays := 0, replayAt := none, nakDue := false, nakAt := none
           credits := [], returns := [], input := [], struck := [], waiting := [], pm := .none, pmDue := 0, pmAt := none }

/-- A list without one entry for each of another. -/
def without (l drop : List VcCell) : List VcCell := drop.foldl (fun r z => removeFirst (· == z) r) l

/-- Discards what a link reset discards; cells that were accepted and cells not yet framed go back to transport, but for those
on words that cannot be corrected. -/
def State.drainPort (s : State) (p : Nat) : State :=
  let u := s.port p
  (s.setPort p u.discarded).inject ((without u.input u.struck ++ u.waiting).map (·.cell))

/-- Frames start: seq and E are 0, the partner's allotments are the credits, and the scramblers stand at their seeds (R319, R328,
R334). -/
def Port.frameStart (u : Port) : Port :=
  { u with seq := 0, expected := 0, credits := u.partnerAllot
           txScr := ((u.sentBlock.map (·.seeds)).getD []).map (·.truncate 58), rxScr := u.seeds.map (·.truncate 58) }

/-- The action of a training entry begins, and its timeout with it: DETECT sends its pattern, EQ_PRESET sets the FIR preset and
LINK_UP starts frames (R334). -/
def Port.begins (u : Port) (e : TrainEntry) (now : Nat) : Port :=
  let v := { u with entryAt := now, entryDeadline := some (now + e.timeoutUs * 1000) }
  match e.action with
  | 0 => { v with pattern := e.param0.toNat }
  | 4 => { v with firPreset := e.param0.toNat }
  | 9 => v.frameStart
  | _ => v

/-- Moves a port to an entry of the training table, to ACTIVE (62) or to FAILED (63) (R333). `g` is the generation of the entry
that it leaves. -/
def State.enterEntry (s : State) (p n g : Nat) : State :=
  if n = 62 then
    (s.modPort p (fun u => { u.setState lsActive g with entryDeadline := none, idleSince := s.now })).linkChange p
  else match s.trainTable[n]? with
    | none => (s.modPort p (fun u =>
        let v := u.setState lsFailed 0
        { v with linkState := withFld v.linkState 39 36 lcTrainingFail, entryDeadline := none })).linkChange p
    | some e => s.modPort p (fun u =>
        let v := u.setState lsTraining 0
        { v with linkState := withFld v.linkState 26 21 n, retriesLeft := e.retries }.begins e s.now)

/-- Training from entry 0: the configuration written since takes effect (R332, R337). -/
def State.startTraining (s : State) (p : Nat) : State :=
  ((s.testEnds p).modPort p (fun u => { u with
    target := 3, negotiated := 0, inForce := u.cfg, allot := allotments (creditFields u.creditCfg), partnerAllot := []
    linkState := withFld u.linkState 35 32 0 })).enterEntry p 0 0

/-- A link reset (R338). -/
def State.linkReset (s : State) (p cause : Nat) : State :=
  let t := (s.drainPort p).modPort p (fun u => { u with
    linkState := withFld u.linkState 39 36 cause, linkErr := bumpFld u.linkErr 7 0 1 })
  (t.startTraining p).linkChange p

/-- Off (R340): transmitters stop and receivers power down. -/
def State.portOff (s : State) (p : Nat) : State :=
  (((s.testEnds p).drainPort p).modPort p (fun u =>
    let v := u.setState lsOff 0
    { v with linkState := withFld (withFld v.linkState 35 32 0) 26 21 0, entryDeadline := none })).linkChange p

/-- A port goes to FAILED with a cause. -/
def State.portFailed (s : State) (p cause : Nat) : State :=
  (s.modPort p (fun u =>
    let v := u.setState lsFailed 0
    { v with linkState := withFld v.linkState 39 36 cause, entryDeadline := none })).linkChange p

/-! ### Frames (R319 to R322) -/

/-- A field of the 96-bit link control word. -/
def lcFld (w hi lo : Nat) : Nat := bitsOf w hi lo

/-- The body of a frame from its four slots and its control word. -/
def frameBody (slots : List VcCell) (word : Nat) : List Byte :=
  let data := (List.range 4).flatMap (fun i => match slots[i]? with
    | some v => Cell.toBytes v.cell
    | none => List.replicate 64 0) ++ leBytes 12 word
  data ++ leBytes 4 (crc32 data).toNat

/-- The control word of the cells and credit returns of a frame (Table 13-2). -/
def controlWord (slots : List VcCell) (seq ack : BitVec 12) (nak : Bool) (pm : Nat) (rets : List (Nat × Nat)) : Nat :=
  let a := rets.getD 0 (0, 0)
  let b := rets.getD 1 (0, 0)
  (2 ^ slots.length - 1) + ((slots.zipIdx.map (fun p => p.1.vc % 32 * 2 ^ (4 + 5 * p.2))).foldl (· + ·) 0) +
    seq.toNat * 2 ^ 24 + ack.toNat * 2 ^ 36 + (if nak then 2 ^ 48 else 0) + pm * 2 ^ 49 + a.1 * 2 ^ 51 + a.2 * 2 ^ 56 +
    b.1 * 2 ^ 64 + b.2 * 2 ^ 69

/-- The control word of a body. -/
def bodyWord (body : List Byte) : Nat := leAt body 256 12

/-- A kept body sent again with the present ack, nak and pm. -/
def refreshBody (body : List Byte) (ack : BitVec 12) (nak : Bool) (pm : Nat) : List Byte :=
  let word := setBits (setBits (setBits (bodyWord body) 47 36 ack.toNat) 48 48 (if nak then 1 else 0)) 50 49 pm
  let data := body.take 256 ++ leBytes 12 word
  data ++ leBytes 4 (crc32 data).toNat

/-- A frame on the wire: body and parity. -/
def wireFrame (g : Nat) (body : List Byte) : List Byte := if genParity g = 0 then body else body ++ rsParity (genParity g) body

/-! ### The lanes (R319) -/

/-- The next 8 bits of a lane's scrambler, x^58 + x^39 + 1, and its state after them. The state holds the last 58 bits, oldest in
bit 0 (DESIGN CHOICE, log entry 104). -/
def scramble8 (w : BitVec 58) : Byte × BitVec 58 :=
  let b : Byte := (w ^^^ (w >>> 19)).truncate 8
  (b, (w >>> 8) ||| ((b.zeroExtend 58) <<< 50))

/-- Frame bytes, each on lane i mod 4, scrambled or descrambled by the lanes' scramblers, and these after them. -/
def scrambled : List Byte → Nat → List (BitVec 58) → List Byte × List (BitVec 58)
  | [], _, w => ([], w)
  | b :: rest, i, w =>
    let k := scramble8 (w.getD (i % 4) 0)
    let r := scrambled rest (i + 1) (w.set (i % 4) k.2)
    ((b ^^^ k.1) :: r.1, r.2)

/-- The bits of a byte, least significant first. -/
def byteBits (b : Byte) : List Nat := (List.range 8).map (fun i => b.toNat / 2 ^ i % 2)

/-- The PAM4 levels of a byte's four symbols: 00, 01, 11 and 10 map to 0, 1, 2 and 3. -/
def byteLevels (b : Byte) : List Nat := (List.range 4).map (fun i => [0, 1, 3, 2].getD (b.toNat / 4 ^ i % 4) 0)

/-- What lane l carries of a frame at generation g: bits at NRZ, levels at PAM4. -/
def laneSymbols (g : Nat) (wire : List Byte) (l : Nat) : List Nat :=
  (wire.zipIdx.filter (fun z => z.2 % 4 == l)).flatMap (fun z => if g ≤ 1 then byteBits z.1 else byteLevels z.1)

/-- A frame sent: kept, scrambled and put on the lanes. -/
def Port.sent (u : Port) (g : Nat) (frame : List Byte) : Port :=
  let z := scrambled frame 0 u.txScr
  { u with lastFrame := frame, txScr := z.2, lines := (List.range 4).map (laneSymbols g z.1) }

/-- Received bytes in the order of the partner's lanes, with the inverted lanes turned back (R334). -/
def Port.straight (u : Port) (wire : List Byte) : List Byte :=
  (List.range wire.length).map (fun i =>
    let l := if u.reversed then 3 - i % 4 else i % 4
    let b := wire.getD (4 * (i / 4) + l) 0
    if bitOf u.inverted.toNat l then ~~~b else b)

/-- The frame that the lanes' bytes hold: put straight and descrambled; the receiver's scramblers after it. -/
def Port.descrambled (u : Port) (wire : List Byte) : List Byte × List (BitVec 58) := scrambled (u.straight wire) 0 u.rxScr

/-- The entry that a port in TRAINING stands at; nothing goes on while REFCLK_SERDES is missing (R512). -/
def State.trainEntry (s : State) (p : Nat) : Option TrainEntry :=
  if (s.port p).state = lsTraining ∧ s.pins.refSerdes then s.trainTable[(s.port p).entry]? else none

/-- The generation that an entry names. -/
def entryGen (e : TrainEntry) (u : Port) : Nat := if e.gen = 0 then u.negotiated else e.gen

/-- An action succeeds. -/
def State.trainOk (s : State) (p : Nat) (e : TrainEntry) : State := s.enterEntry p e.nextOk (entryGen e (s.port p))

/-! ### The transmitter (R27, R324, R326, R329, R331) -/

/-- The class weights of the topology record, else the defaults of R27, by class number. -/
def State.classWeights (s : State) : List Nat :=
  match s.xpt.topo with
  | some t => t.weights
  | none => [2, 2, 8, 6, 3, 1]

/-- Whether a channel holds both a cell and a credit. -/
def Port.ready (u : Port) (vc : Nat) : Bool := u.waiting.any (fun z => z.vc == vc) && decide (0 < sget 0 u.credits vc)

/-- The next cell of a frame: classes by weighted round-robin, channels of a class in turn (R27, R331). Within a round the lowest class
number that is ready is served until its whole weight is used (DESIGN CHOICE, log entry 90: the rules give no order). -/
def Port.pick (u : Port) (weights : List Nat) : Option (VcCell × Port) :=
  let cls := (List.range 6).filter (fun c => (List.range 3).any (fun i => u.ready (3 * c + i)))
  let left (v : Port) (c : Nat) : Bool := decide (sget 0 v.served c < weights.getD c 1)
  let v := if cls.any (left u) then u else { u with served := [] }
  match cls.find? (left v) with
  | none => none
  | some c =>
    let last := sget 2 v.turn c
    match [last + 1, last + 2, last + 3].find? (fun i => v.ready (3 * c + i % 3)) with
    | none => none
    | some i =>
      let vc := 3 * c + i % 3
      (v.waiting.find? (fun z => z.vc == vc)).map (fun z =>
        (z, { v with waiting := removeFirst (fun y => y.vc == vc) v.waiting
                     credits := sset 0 v.credits vc (sget 0 v.credits vc - 1)
                     served := sset 0 v.served c (sget 0 v.served c + 1), turn := sset 2 v.turn c (i % 3) }))

/-- Up to n cells. -/
def Port.pickCells (weights : List Nat) : Nat → Port → List VcCell × Port
  | 0, u => ([], u)
  | n + 1, u => match u.pick weights with
    | none => ([], u)
    | some (z, v) => let r := Port.pickCells weights n v; (z :: r.1, r.2)

/-- The channel with the largest pending count, ties to the lower number. -/
def topReturn (m : Sparse Nat) : Option Nat :=
  m.foldl (fun (b : Option Nat) e => match b with
    | none => if 0 < e.2 then some e.1 else none
    | some q => if sget 0 m q < e.2 then some e.1 else some q) none

/-- Up to n credit returns. -/
def Port.pickReturns : Nat → Port → List (Nat × Nat) × Port
  | 0, u => ([], u)
  | n + 1, u => match topReturn u.returns with
    | none => ([], u)
    | some vc =>
      let k := min 255 (sget 0 u.returns vc)
      let rest := Port.pickReturns n { u with returns := sset 0 u.returns vc 0 }
      ((vc, k) :: rest.1, { rest.2 with returns := sset 0 rest.2.returns vc (sget 0 u.returns vc - k) })

/-- The start of a replay, or the link reset after 8 replays without an advance of ack (R326). -/
def State.startReplay (s : State) (p : Nat) (q : BitVec 12) : State :=
  if 8 ≤ (s.port p).replays then s.linkReset p lcRetryLimit
  else s.modPort p (fun u => { u with
    replaying := some q, replayFrom := some q, replays := u.replays + 1, linkErr := bumpFld u.linkErr 19 8 1
    replayAt := some (s.now + u.replayNs) })

/-- What a sent frame does to power management: QUIET_REQ starts its wait, QUIET_ACK stops transmission (R339). -/
def Port.sentPm (u : Port) (now : Nat) : Port :=
  match u.pmDue with
  | 1 => { u with pmDue := 0, pmAt := some (now + gen8Frames u.gen) }
  | 2 => { (u.setState lsQuiet u.gen) with pmDue := 0, pm := .none, pmStat := bumpFld u.pmStat 63 32 1 }
  | _ => u

/-- The generation at which a port sends and takes frames: that of CUF_LINK_STATE in ACTIVE, and that of its entry while LINK_UP has
started frames (R334). -/
def State.frameGen (s : State) (p : Nat) : Option Nat :=
  let u := s.port p
  if u.state = lsActive then some u.gen
  else match s.trainEntry p with
    | some e => if e.action = 9 then some (entryGen e u) else none
    | none => none

/-- FRAME_TRANSMIT. -/
def execFrameTransmit (p : PortId) (s : State) : Host.Outcome State Fault Refusal :=
  let u := s.port p
  .next (match s.frameGen p with
    | none => s
    | some g => match u.replaying.bind (fun q => (u.replay.find? (fun b => b.1 == q))) with
    | some (q, body) =>
      let out := refreshBody body (u.expected - 1) u.nakDue u.pmDue
      let more := u.replay.any (fun b => b.1 == q + 1)
      s.setPort p (({ u with nakDue := false, replaying := if more then some (q + 1) else none
                             replayFrom := if more then u.replayFrom else none, idleSince := s.now }.sent g (wireFrame g out)).sentPm s.now)
    | none =>
      let (cells, u1) := if u.replay.length < replayBodies then Port.pickCells s.classWeights 4 u else ([], u)
      let (rets, u2) := if u.replay.length < replayBodies then Port.pickReturns 2 u1 else ([], u1)
      let sequenced := !cells.isEmpty || !rets.isEmpty
      let body := frameBody cells (controlWord cells u.seq (u.expected - 1) u.nakDue u.pmDue rets)
      let u3 := { u2 with nakDue := false, replaying := none, replayFrom := none }.sent g (wireFrame g body)
      let u4 := if sequenced then
          { u3 with seq := u.seq + 1, replay := u.replay ++ [(u.seq, body)], replayAt := u.replayAt.or (some (s.now + u.replayNs))
                    idleSince := s.now }
        else u3
      s.setPort p (u4.sentPm s.now))

/-- REPLAY_TIMEOUT. -/
def execReplayTimeout (p : PortId) (s : State) : Host.Outcome State Fault Refusal :=
  let u := s.port p
  .next (match u.replayAt, u.replay with
    | some t, b :: _ => if s.now < t ∨ u.state ≠ lsActive then s else s.startReplay p b.1
    | _, _ => s)

/-- RECEIVER_NAK_TIMEOUT. -/
def execReceiverNakTimeout (p : PortId) (s : State) : Host.Outcome State Fault Refusal :=
  let u := s.port p
  .next (match u.nakAt with
    | some t => if s.now < t ∨ u.state ≠ lsActive then s
      else s.setPort p { u with nakDue := true, nakAt := some (s.now + u.replayNs) }
    | none => s)

/-! ### The receiver (R323, R325, R330) -/

/-- A frame that is not bad: its body, and the bytes that the decoder corrected. -/
def decodeFrame (g : Nat) (wire : List Byte) : Option (List Byte × Nat) :=
  let crcOk (b : List Byte) : Bool := (crc32 (b.take 268)).toNat == leAt b 268 4
  if wire.length ≠ 272 + genParity g then none
  else if genParity g = 0 then (if crcOk wire then some (wire, 0) else none)
  else ((rsDecode (genParity g) wire).find? (fun z => crcOk z.1)).map (fun z => (z.1.take 272, z.2))

/-- The cells of a body, by slot. -/
def bodyCells (body : List Byte) : List VcCell :=
  let w := bodyWord body
  (List.range 4).filterMap (fun i =>
    if bitOf w i then
      let vc := bitsOf w (8 + 5 * i) (4 + 5 * i)
      some ⟨vc, parseCell (vc / 3) (sliceBytes body (64 * i) 64)⟩
    else none)

/-- The credit returns of a body. -/
def bodyReturns (body : List Byte) : List (Nat × Nat) :=
  let w := bodyWord body
  [(lcFld w 55 51, lcFld w 63 56), (lcFld w 68 64, lcFld w 76 69)].filter (fun r => r.2 != 0)

/-- The ack of a frame frees bodies; an advance starts the replay timer afresh (R326). -/
def Port.acked (u : Port) (ack : BitVec 12) (now : Nat) : Port :=
  if u.replay.any (fun b => b.1 == ack) then
    let rest := (u.replay.dropWhile (fun b => b.1 != ack)).drop 1
    let going := match u.replaying with
      | none => none
      | some q => if rest.any (fun b => b.1 == q) then some q else rest.head?.map (·.1)
    { u with replay := rest, replays := 0, replaying := going, replayFrom := if going.isSome then u.replayFrom else none
             replayAt := if rest = [] then none else some (now + u.replayNs) }
  else u

/-- An entry into Quiet is aborted (R339, Table 13-14). -/
def Port.abortQuiet (u : Port) : Port :=
  if u.pm = .none then u else { u with pm := .none, pmDue := 0, pmAt := none, pmStat := bumpFld u.pmStat 31 18 1 }

/-- The nak of a frame (R326). -/
def State.nakReceived (s : State) (p : Nat) (ack : BitVec 12) : State :=
  let u := (s.port p).abortQuiet
  let t := s.setPort p u
  if u.replayFrom = some (ack + 1) ∨ !(u.replay.any (fun b => b.1 == ack + 1)) then t else t.startReplay p (ack + 1)

/-- What refuses an entry into Quiet, as last_refuser of CUF_PM_STAT (Table 13-10); 0 stands for a cell that waits. -/
def Port.quietRefuser (u : Port) (now : Nat) : Option Nat :=
  if u.replay ≠ [] then some 1
  else if u.returns ≠ [] then some 2
  else if u.state = lsTest ∨ now < u.scanUntil then some 4
  else if !u.quietEn then some 5
  else if u.waiting ≠ [] then some 0
  else none

/-- The pm field of a received frame (R339). -/
def Port.pmReceived (u : Port) (pm now : Nat) : Port :=
  match pm with
  | 1 => if (u.quietRefuser now).isNone ∧ u.idleSince + u.idleNs ≤ now then { u with pm := .acked, pmDue := 2 } else u
  | 2 => if u.pm = .requested then
      { (u.setState lsQuiet u.gen) with pm := .none, pmDue := 0, pmAt := none, pmStat := bumpFld u.pmStat 63 32 1 }
    else u
  | _ => u

/-- Cells and credit returns of an accepted frame. -/
def Port.accept (u : Port) (body : List Byte) (now : Nat) : Port :=
  { u with
    input := u.input ++ bodyCells body
    credits := (bodyReturns body).foldl (fun m r => if r.1 < 18 then sset 0 m r.1 (sget 0 m r.1 + r.2) else m) u.credits
    expected := u.expected + 1, nakAt := none, idleSince := now }

/-- Whether an accepted frame would overfill a channel (R330). -/
def Port.overfilled (u : Port) (body : List Byte) : Bool :=
  (List.range 18).any (fun vc =>
    let n := ((bodyCells body).filter (fun z => z.vc == vc)).length
    n != 0 && decide (sget 0 u.allot vc < (u.input.filter (fun z => z.vc == vc)).length + n))

/-- A frame with a good decoder result and crc. -/
def State.goodFrame (s : State) (p : Nat) (body : List Byte) : State :=
  let w := bodyWord body
  let sequenced := lcFld w 3 0 != 0 || bodyReturns body != []
  let ack : BitVec 12 := BitVec.ofNat 12 (lcFld w 47 36)
  if (bodyCells body).any (fun z => decide (18 ≤ z.vc)) then s.linkReset p lcProtocol
  else
    let t := s.modPort p (fun u => u.acked ack s.now)
    let t := if lcFld w 48 48 = 1 then t.nakReceived p ack else t
    let u := t.port p
    if u.state ≠ lsActive then t
    else
      let v := u.pmReceived (lcFld w 50 49) s.now
      if !sequenced then t.setPort p v
      else if BitVec.ofNat 12 (lcFld w 35 24) ≠ v.expected then
        t.setPort p { v with nakDue := true, nakAt := v.nakAt.or (some (s.now + v.replayNs)), idleSince := s.now }
      else if v.overfilled body then t.linkReset p lcProtocol
      else t.setPort p (v.accept body s.now)

/-- Cells of the input buffer, by their places in it, on words that upsets have left uncorrectable. -/
def Port.upset (u : Port) (l : List Nat) : Port :=
  if l = [] then u else { u with struck := u.struck ++ (l.filterMap (fun i => (without u.input u.struck)[i]?)) }

/-- FRAME_RECEIVE: the lanes' bytes are put straight, descrambled and decoded. Under LINK_UP the first good frame ends the action (R334).
The upsets have struck cells of the input buffer before it (DESIGN CHOICE, log entry 101). -/
def execFrameReceive (p : PortId) (w : LaneBytes) (s0 : State) : Host.Outcome State Fault Refusal :=
  let s1 := s0.setPort p ((s0.port p).upset w.struck)
  .next (match s1.frameGen p with
    | none => s1
    | some g =>
      let z := (s1.port p).descrambled w.wire
      let u := { s1.port p with rxScr := z.2 }
      let s := s1.setPort p u
      match decodeFrame g z.1 with
      | none => s.setPort p { u with linkErr := bumpFld u.linkErr 31 20 1, nakDue := true, nakAt := u.nakAt.or (some (s.now + u.replayNs)) }
      | some (body, n) =>
        let t := s.setPort p { u with linkErr := bumpFld u.linkErr 63 32 n }
        (match t.trainEntry p with
          | some e => t.trainOk p e
          | none => t).goodFrame p body)

/-- LOSS_OF_LOCK: lanes that lost lock, or none of them where the partner starts training (R338). -/
def State.lossOfLock (s : State) (p : Nat) (lanes : BitVec 4) : State :=
  let u := s.port p
  if u.state = lsActive ∨ u.state = lsQuiet then s.linkReset p lcLossOfLock
  else if u.state = lsTraining then s.modPort p (fun u => { u with
    linkState := withFld u.linkState 35 32 (fld u.linkState 35 32 - (fld u.linkState 35 32 &&& lanes.toNat)) })
  else s

def execLossOfLock (p : PortId) (lanes : BitVec 4) (s : State) : Host.Outcome State Fault Refusal :=
  .next (s.lossOfLock p lanes)

/-! ### Training (R333 to R335) -/

/-- An action fails: it is repeated while retries are left (R333). -/
def State.trainFail (s : State) (p : Nat) (e : TrainEntry) : State :=
  let u := s.port p
  if u.retriesLeft = 0 then s.enterEntry p e.nextFail (entryGen e u)
  else s.setPort p ({ u with retriesLeft := u.retriesLeft - 1 }.begins e s.now)

/-- The result of action `code`, at a port that stands at such an entry and whose action has run `us` microseconds. -/
def State.trainResult (s : State) (p code : Nat) (us : TrainEntry → Nat) (ok : TrainEntry → Bool) (g : Port → Port) : State :=
  match s.trainEntry p with
  | none => s
  | some e =>
    if e.action ≠ code ∨ s.now < (s.port p).entryAt + us e * 1000 then s
    else if ok e then (s.modPort p g).trainOk p e else s.trainFail p e

/-- TRAINING_TIMEOUT. -/
def execTrainingTimeout (p : PortId) (s : State) : Host.Outcome State Fault Refusal :=
  .next (match s.trainEntry p, (s.port p).entryDeadline with
    | some e, some t => if s.now < t then s else s.trainFail p e
    | _, _ => s)

def execDetect (p : PortId) (locked : Bool) (s : State) : Host.Outcome State Fault Refusal :=
  .next (s.trainResult p 0 (fun _ => 0) (fun _ => locked) (fun u => { u with linkState := withFld u.linkState 35 32 0xF }))

/-- DESKEW: lanes aligned; their reversal and inversion as alignment finds them are corrected from now on. -/
def execDeskew (p : PortId) (found : Alignment) (s : State) : Host.Outcome State Fault Refusal :=
  .next (s.trainResult p 1 (fun _ => 0) (fun e => decide (found.skewUi ≤ e.param0.toNat))
    (fun u => { u with reversed := found.reversed, inverted := found.inverted }))

/-- The capability block of a port (R335): node address, port number, gen_mask and the allotments in force, and four scrambler seeds,
which are free values. -/
def State.ownBlock (s : State) (p : Nat) : CapBlock :=
  let u := s.port p
  ⟨s.node, p, BitVec.ofNat 3 u.genMask, (List.range 6).map (fun c => sget 0 u.allot (3 * c) / 8),
    (List.range 4).map (fun i => Config.freeWord64 (s.freeCtr + i))⟩

/-- The block sent to the partner. -/
def State.sendBlock (s : State) (p : Nat) : State :=
  let b := s.ownBlock p
  { s with freeCtr := s.freeCtr + 4 }.modPort p (fun u => { u with sentBlock := some b })

/-- The highest generation that both masks contain and that does not exceed the target. -/
def negotiatedGen (a b target : Nat) : Option Nat := [3, 2, 1].find? (fun g => decide (g ≤ target) && bitOf a (g - 1) && bitOf b (g - 1))

/-- What the partner's capability block settles: it is recorded, the generation negotiated, and the action succeeds. -/
def State.exchanged (s : State) (p : Nat) (e : TrainEntry) (b : CapBlock) : State :=
  let t := s.modPort p (fun u => { u with
    linkState := withFld (withFld u.linkState 20 16 b.port) 15 0 b.node.toNat, partnerMask := b.genMask
    partnerAllot := allotments b.allot, credits := allotments b.allot, seeds := b.seeds })
  let miss := match t.xpt.topo with
    | none => false
    | some q => (q.ports.getD p (15, 0)).1 != 15 && !t.partnerOk q p
  let t := if miss then t.countDrop 3 0 else t
  match negotiatedGen (t.port p).genMask b.genMask.toNat (t.port p).target with
  | none => t.portFailed p lcNoCommonGen
  | some g => (t.modPort p (fun u => { u with negotiated := g })).trainOk p e

/-- EXCHANGE: the device's own block goes out; without the partner's, or with a bad one, the action fails. -/
def execExchange (p : PortId) (block : Option CapBlock) (s : State) : Host.Outcome State Fault Refusal :=
  .next (match s.trainEntry p with
    | none => s
    | some e =>
      if e.action ≠ 2 then s
      else match block with
        | some b => (s.sendBlock p).exchanged p e b
        | none => (s.sendBlock p).trainFail p e)

def execSetGen (p : PortId) (relocked : Bool) (s : State) : Host.Outcome State Fault Refusal :=
  .next (s.trainResult p 3 (fun _ => 0) (fun _ => relocked) id)

def execEqPreset (p : PortId) (s : State) : Host.Outcome State Fault Refusal :=
  .next (s.trainResult p 4 (fun _ => 0) (fun _ => true) id)

/-- EQ_ADAPT: converged after so many iterations, or not; param0 bounds them. -/
def execEqAdapt (p : PortId) (iterations : Option Nat) (s : State) : Host.Outcome State Fault Refusal :=
  .next (match s.trainEntry p with
    | none => s
    | some e => s.trainResult p 5 (fun _ => 0) (fun e => match iterations with
        | some n => decide (n ≤ e.param0.toNat)
        | none => false) (fun u => { u with equalised := entryGen e u }))

/-- Whether an error ratio is at most a limit, both read as FP32. -/
def ratioAtMost (r limit : Word32) : Bool := (ofFp32 r).lt (ofFp32 limit) || (ofFp32 r).eqv (ofFp32 limit)

def execBerCheck (p : PortId) (ber : List Word32) (s : State) : Host.Outcome State Fault Refusal :=
  .next (s.trainResult p 6 (fun e => e.param0.toNat) (fun e => ber.all (fun r => ratioAtMost r e.param1)) id)

def execDelay (p : PortId) (s : State) : Host.Outcome State Fault Refusal :=
  .next (s.trainResult p 7 (fun e => e.param0.toNat) (fun _ => true) id)

/-- FALLBACK: the generation is negotiated again under the lower target. -/
def execFallback (p : PortId) (s : State) : Host.Outcome State Fault Refusal :=
  .next (match s.trainEntry p with
    | none => s
    | some e =>
      if e.action ≠ 8 then s
      else
        let t := s.modPort p (fun u => { u with target := u.target - 1 })
        let u := t.port p
        if u.target = 0 then t.trainFail p e
        else match negotiatedGen u.genMask u.partnerMask.toNat u.target with
          | none => t.portFailed p lcNoCommonGen
          | some g => (t.modPort p (fun v => { v with negotiated := g })).trainOk p e)

/-- LINK_UP: frames, started with seq and E at 0 and the partner's allotments as credits, have brought a good one from the partner. -/
def execLinkUp (p : PortId) (goodFrame : Bool) (s : State) : Host.Outcome State Fault Refusal :=
  .next (s.trainResult p 9 (fun _ => 0) (fun _ => goodFrame) id)

/-! ### Quiet (R339, R341) -/

/-- QUIET_IDLE_EXPIRY: QUIET_REQ, or a refusal counted with its reason, a running test among them; the idle time then starts
afresh. -/
def execQuietIdleExpiry (p : PortId) (s : State) : Host.Outcome State Fault Refusal :=
  let u := s.port p
  .next (if (u.state ≠ lsActive ∧ u.state ≠ lsTest) ∨ u.pm ≠ .none ∨ s.now < u.idleSince + u.idleNs then s
    else match u.quietRefuser s.now with
    | none => s.setPort p { u with pm := .requested, pmDue := 1, pmAt := some (s.now + gen8Frames u.gen) }
    | some r =>
      let w := bumpFld u.pmStat 17 4 1
      s.setPort p { u with pmStat := if r = 0 then w else withFld w 3 0 r, idleSince := s.now })

/-- QUIET_REQ_TIMEOUT. -/
def execQuietReqTimeout (p : PortId) (s : State) : Host.Outcome State Fault Refusal :=
  let u := s.port p
  .next (match u.pmAt with
    | some t => if u.pm ≠ .requested ∨ s.now < t then s
      else s.setPort p { u with pm := .none, pmDue := 0, pmAt := none, idleSince := s.now
                                pmStat := withFld (bumpFld u.pmStat 17 4 1) 3 0 3 }
    | none => s)

/-- A Quiet port wakes. -/
def State.wakePort (s : State) (p : Nat) : State :=
  let u := s.port p
  if u.state = lsQuiet then s.setPort p { (u.setState lsActive u.gen) with idleSince := s.now } else s

/-- WAKE_BURST, from either end. -/
def execWakeBurst (p : PortId) (s : State) : Host.Outcome State Fault Refusal := .next (s.wakePort p)

/-! ### Writes of port registers (R337, R343) -/

/-- CUF_PORT_CFG: reserved bits, then the fields that may not be 0; a change of enable acts at once. -/
def State.writePortCfg (s : State) (p : Nat) (v : Word32) : Status × State :=
  let bad := firstFail [
    (fld32 v 26 24 != 0 || fld32 v 11 8 != 0, genReserved),
    (fld32 v 30 28 == 0 || fld32 v 23 12 == 0 || fld32 v 7 0 == 0, genRange)]
  match bad with
  | some st => (st, s)
  | none =>
    let was := (s.port p).enabled
    let t := s.modPort p (fun u => { u with cfg := v })
    (stDone, if was && !bitOf v.toNat 31 then t.portOff p
      else if !was && bitOf v.toNat 31 && !s.lantern.limited then t.startTraining p else t)

def execCufPortCfgWrite (p : PortId) (value : Word64) (s : State) : Host.Outcome State Fault Refusal :=
  .next (s.writePortCfg p (BitVec.ofNat 32 value.toNat)).2

/-- CUF_LANE_PRBS_CTL of a lane: gen_en, chk_en, invert and pattern are written; setting chk_en clears the counts and the
lock. -/
def prbsCtlReserved (v : Word32) : Bool := fld32 v 24 0 != 0
/-- The register as a write leaves it: a checker that is started anew, or stopped, has no lock. -/
def prbsCtlWrite (v : Word32) : Word32 := v &&& 0xDE000000#32

/-- A write of CUF_LANE_PRBS_CTL: a checker that ran has counted up to now. -/
def State.writePrbsCtl (s : State) (p lane : Nat) (v : Word32) : Status × State :=
  let bad := firstFail [
    (prbsCtlReserved v, genReserved),
    (decide (4 < fld32 v 27 25), genRange),
    (decide (fld32 v 31 30 ≠ 0 ∧ (s.port p).state ≠ lsTest), genBusy)]
  match bad with
  | some st => (st, s)
  | none =>
    let start := bitOf v.toNat 30
    let t := if start then s else (s.prbsNow false p lane).1
    (stDone, t.modPort p (fun u => { u with
      prbsCtl := sset prbsCtlDefault u.prbsCtl lane (prbsCtlWrite v)
      prbs := if start then sset 0 u.prbs lane 0 else u.prbs
      prbsRest := if start then sset 0 u.prbsRest lane 0 else u.prbsRest
      lockAt := sset 0 u.lockAt lane 0 }))

def execCufLanePrbsCtlWrite (p : PortId) (lane : Fin 4) (value : Word64) (s : State) : Host.Outcome State Fault Refusal :=
  .next (s.writePrbsCtl p lane (BitVec.ofNat 32 value.toNat)).2

/-! ### Pattern generators and checkers (R342, R393) -/

/-- The delays whose bits a pattern's next bit sums (Table 13-11). -/
def prbsTaps : Nat → List Nat
  | 0 => [7, 6]
  | 1 => [13, 12, 2, 1]
  | 2 => [15, 14]
  | 3 => [23, 18]
  | _ => [31, 28]

/-- The next bit of a pattern after earlier bits, latest first. -/
def prbsNext (pattern : Nat) (past : List Bool) : Bool :=
  (prbsTaps pattern).foldl (fun b d => b != past.getD (d - 1) false) false

/-- n bits of a pattern's generator after a start, latest first: the spec gives no start, so that any is a generator's. -/
def prbsStream (pattern : Nat) (start : List Bool) : Nat → List Bool
  | 0 => start
  | n + 1 => let r := prbsStream pattern start n; prbsNext pattern r :: r

/-- Whether each of the latest n bits of a stream, latest first, is the bit that a checker predicts from those before it. -/
def prbsPredicted (pattern : Nat) : Nat → List Bool → Bool
  | 0, _ => true
  | _ + 1, [] => false
  | n + 1, b :: past => b == prbsNext pattern past && decide ((prbsTaps pattern).all (· ≤ past.length)) && prbsPredicted pattern n past

/-- Whether a checker under a control word locks on the bits that a lane has received, latest first: the latest 128 are as it predicts,
an inverted pattern turned back (R342, R343). -/
def prbsLocks (ctl : Word32) (stream : List Bool) : Bool :=
  prbsPredicted (fld32 ctl 27 25) 128 (stream.map (· != bitOf ctl.toNat 28))

/-- PRBS_CHECKER_LOCK: a checker that runs in TEST locks on a lane's bits, given latest first. -/
def execPrbsCheckerLock (host : Bool) (port : PortId) (l : LaneBits) (s : State) : Host.Outcome State Fault Refusal :=
  .next (if host then
      let c := sget prbsCtlDefault s.hp.prbsCtl l.lane
      if l.lane < 8 ∧ s.hp.testUntil.isSome ∧ bitOf c.toNat 30 ∧ fld32 c 29 29 = 0 ∧ prbsLocks c l.stream then
        { s with hp := { s.hp with prbsCtl := sset prbsCtlDefault s.hp.prbsCtl l.lane (withFld32 c 29 29 1)
                                   lockAt := sset 0 s.hp.lockAt l.lane (s.now + 1) } }
      else s
    else
      let u := s.port port
      let c := sget prbsCtlDefault u.prbsCtl l.lane
      if l.lane < 4 ∧ u.state = lsTest ∧ bitOf c.toNat 30 ∧ fld32 c 29 29 = 0 ∧ prbsLocks c l.stream then
        s.setPort port { u with prbsCtl := sset prbsCtlDefault u.prbsCtl l.lane (withFld32 c 29 29 1), lockAt := sset 0 u.lockAt l.lane (s.now + 1) }
      else s)

/-- Whether a checker whose latest 64 errors fell within `span` bits loses its lock (R342). -/
def prbsUnlocks (span : Nat) : Bool := decide (64 ≤ span ∧ span ≤ 1024)

/-- PRBS_CHECKER_LOSS_OF_LOCK: the bits and errors of the time in lock, since they were last read, are counted. -/
def execPrbsCheckerLossOfLock (host : Bool) (port : PortId) (lane bits : Nat) (loss : LockLoss) (s : State) :
    Host.Outcome State Fault Refusal :=
  .next (if !prbsUnlocks loss.span then s
    else if host then
      let c := sget prbsCtlDefault s.hp.prbsCtl lane
      let rest := sget 0 s.hp.prbsRest lane
      if fld32 c 29 29 = 1 then
        { s with hp := { s.hp with
            prbsCtl := sset prbsCtlDefault s.hp.prbsCtl lane (withFld32 c 29 29 0), lockAt := sset 0 s.hp.lockAt lane 0
            prbsRest := sset 0 s.hp.prbsRest lane ((rest + bits) % 1024)
            prbs := sset 0 s.hp.prbs lane (prbsCount (sget 0 s.hp.prbs lane) rest bits loss.errors) } }
      else s
    else
      let u := s.port port
      let rest := sget 0 u.prbsRest lane
      if fld32 (sget prbsCtlDefault u.prbsCtl lane) 29 29 = 1 then
        s.setPort port { u.unlock lane with
          prbsRest := sset 0 u.prbsRest lane ((rest + bits) % 1024)
          prbs := sset 0 u.prbs lane (prbsCount (sget 0 u.prbs lane) rest bits loss.errors) }
      else s)

end Sys2Proof.Machine
end

