-- ==== Sys2Proof/Machine/HostPort.lean ====
section
/-! DEFINITION. The Ethernet host port (spec/16_host_port.md): frames, pauses, MACsec, RoCEv2 queue pairs, the host DMA
engines and responder windows. -/

namespace Sys2Proof.Machine

/-! ### Sending (R395, R396) -/

/-- Kinds of what the port sends. -/
def skLmp : Nat := 0
def skCnp : Nat := 1
def skNak : Nat := 2
def skRdma : Nat := 3
def skAnswer : Nat := 4
def skPfc : Nat := 5
def skAnnounce4 : Nat := 6
def skAnnounce6 : Nat := 7

def State.rocePcp (s : State) : Nat := fld32 s.hp.cfg 26 24
def State.lmpPcp (s : State) : Nat := fld32 s.hp.cfg 22 20
def State.hpMode (s : State) : Nat := fld32 s.hp.cfg 2 0

/-- Port rate in Mbit/s (Table 16-1). -/
def modeRate (m : Nat) : Nat := if m = 0 then 1600000 else if m = 1 ∨ m = 2 then 800000 else if m = 3 then 400000 else 200000
def State.hpRate (s : State) : Nat := modeRate s.hpMode

/-- Whether frames can leave: the link is up, and a protected port has a transmit key. -/
def State.hpOpen (s : State) : Bool :=
  s.hp.linkUp && s.hp.testUntil.isNone && (!bitOf s.hp.cfg.toNat 31 || s.hp.keys.any (fun k => k.dir == 0))

/-- Whether a priority is paused. -/
def State.paused (s : State) (pcp : Nat) : Bool := decide (0 < sget 0 s.hp.pauseUntil pcp)

/-- Sends on a priority, or holds what a pause keeps back. -/
def State.hpSend (s : State) (pcp kind : Nat) (bs : List Byte) : State :=
  if !s.hpOpen then s
  else if s.paused pcp then { s with hp := { s.hp with held := s.hp.held ++ [(pcp, kind, bs)] } }
  else { s with hp := { s.hp with sent := s.hp.sent ++ [(kind, bs)] } }

/-- The end of a pause: what was held goes out in order. -/
def State.unpause (s : State) (pcp : Nat) : State :=
  let mine := s.hp.held.filter (fun h => h.1 == pcp)
  { s with hp := { s.hp with
      pauseUntil := sset 0 s.hp.pauseUntil pcp 0, held := s.hp.held.filter (fun h => h.1 != pcp)
      sent := s.hp.sent ++ mine.map (·.2) } }

/-- PFC_FRAME: quanta of 512 bit times for each named priority; 0 ends a pause. -/
def execPfcFrame (quanta : List (Option Nat)) (s : State) : Host.Outcome State Fault Refusal :=
  .next (quanta.zipIdx.foldl (fun (t : State) q => match q.1 with
    | none => t
    | some 0 => t.unpause q.2
    | some n => if q.2 < 8 then
        { t with hp := { t.hp with pauseUntil := sset 0 t.hp.pauseUntil q.2 (t.now + n * 512000 / t.hpRate + 1) } }
      else t) s)

/-- PFC_PAUSE_EXPIRY. -/
def execPfcPauseExpiry (priority : Fin 8) (s : State) : Host.Outcome State Fault Refusal :=
  .next (if s.paused priority && decide (sget 0 s.hp.pauseUntil priority ≤ s.now) then s.unpause priority else s)

/-! ### Received frames (R394 to R396) -/

def bufferBytes : Nat := 4194304
def xoffLevel : Nat := 3145728
def xonLevel : Nat := 2097152

/-- Whether MACsec lets a frame pass: protected by an installed receive key and intact, or the port unprotected. -/
def State.secOk (s : State) (f : EthFrame) : Bool :=
  if bitOf s.hp.cfg.toNat 31 then
    match f.sec with
    | none => false
    | some (sci, an, ok) => ok && s.hp.keys.any (fun k => k.dir == 1 && k.sci == sci && k.an == an)
  else f.sec.isNone

/-- The receive buffer after a change of its level: XOFF above 3 MiB, XON below 2 MiB (R395). -/
def State.bufferLevel (s : State) (n : Nat) : State :=
  let t := { s with hp := { s.hp with bufferFill := n } }
  if !s.hp.xoff ∧ xoffLevel < n then ({ t with hp := { t.hp with xoff := true } }).hpSend 8 skPfc [BitVec.ofNat 8 s.rocePcp, 1]
  else if s.hp.xoff ∧ n < xonLevel then ({ t with hp := { t.hp with xoff := false } }).hpSend 8 skPfc [BitVec.ofNat 8 s.rocePcp, 0]
  else t

/-! ### RoCEv2 packets (R400, R401) -/

def State.qp (s : State) (i : Nat) : Qp := sget {} s.hp.qps i
def State.setQp (s : State) (i : Nat) (q : Qp) : State := { s with hp := { s.hp with qps := sset {} s.hp.qps i q } }

/-- A NAK of class Remote Access Error, counted (0), of class Remote Operational Error (1), or of class Invalid Request (2). -/
def State.windowNak (s : State) (qp cls : Nat) : State :=
  let t := if cls = 0 then { s with hp := { s.hp with windowRefusals := s.hp.windowRefusals + 1 } } else s
  t.hpSend t.rocePcp skNak (leBytes 2 qp ++ leBytes 1 cls)

/-- Time between two CNPs of a queue pair: 50 µs (R401). -/
def cnpGapNs : Nat := 50000

/-- An ECN-marked packet is answered with a CNP, at most one for each queue pair in 50 µs (R401). -/
def State.answerEcn (s : State) (i : Nat) : State :=
  let q := s.qp i
  if (q.cnpSentAt.map (fun t => decide (s.now < t + cnpGapNs))).getD false then s
  else (s.setQp i { q with cnpSentAt := some s.now }).hpSend s.rocePcp skCnp (leBytes 4 q.remoteQpn.toNat)

/-- What the port itself does with a RoCEv2 packet of a connected queue pair: a CNP for an ECN mark, and a NAK of class Invalid
Request for an opcode that the responder does not serve (R400). READ and WRITE have rows of their own. -/
def State.rocePacket (s : State) (r : RoceHead) : State :=
  if (s.qp r.qp).state ≠ .connected then s
  else
    let t := if r.ecn then s.answerEcn r.qp else s
    if r.served then t else t.windowNak r.qp 2

/-- A frame that the MAC passes up. -/
def State.passUp (s : State) (f : EthFrame) : State :=
  match f.roce with
  | some r => s.rocePacket r
  | none => s

/-- ETHERNET_FRAME. How fast the buffer drains between frames is open: a free amount (log entry 2). -/
def execEthernetFrame (f : EthFrame) (s : State) : Host.Outcome State Fault Refusal :=
  let drop : State := { s with hp := { s.hp with discards := s.hp.discards + 1 } }
  .next (if !s.hp.linkUp then s
    else if f.len < 64 ∨ 9216 < f.len ∨ !f.fcsOk then drop
    else if f.pause then s
    else if !s.secOk f then drop
    else
      let left := s.hp.bufferFill - Config.freeNat s.freeCtr % (s.hp.bufferFill + 1)
      let t := ({ s with freeCtr := s.freeCtr + 1 }).bufferLevel left
      if bufferBytes < left + f.len then
        if f.pcp.getD 0 = s.rocePcp then { t with hp := { t.hp with discards := t.hp.discards + 1 } }
        else { t with hp := { t.hp with lmpDiscards := t.hp.lmpDiscards + 1 } }
      else (t.bufferLevel (left + f.len)).passUp f)

/-! ### ARP, neighbour discovery, ICMP (R398) -/

/-- The octets of a MAC address in the order in which they are sent. -/
def macBytes (mac : BitVec 48) : List Byte := (leBytes 6 mac.toNat).reverse

/-- The link-local address of a MAC address: modified EUI-64. -/
def linkLocal (mac : BitVec 48) : BitVec 128 :=
  let hi := bitsOf mac.toNat 47 24
  let lo := bitsOf mac.toNat 23 0
  BitVec.ofNat 128 (0xFE80 * 2 ^ 112 + (hi ^^^ 0x020000) * 2 ^ 40 + 0xFFFE * 2 ^ 24 + lo)

def State.ownV4 (s : State) (ip : Word32) : Bool := s.hp.ipv4 != 0 && ip == s.hp.ipv4
def State.ownV6 (s : State) (ip : BitVec 128) : Bool := ip == linkLocal s.hp.mac || (s.hp.ipv6 != 0 && ip == s.hp.ipv6)

/-- ARP_ND_ICMP: an answer names its kind and carries the MAC address, or the unserved port. -/
def execArpNdIcmp (query : NetQuery) (s : State) : Host.Outcome State Fault Refusal :=
  let mac := macBytes s.hp.mac
  let answer (k : Nat) (bs : List Byte) : State := s.hpSend 0 skAnswer (leBytes 1 k ++ bs)
  .next (if !s.hp.linkUp then s
    else match query with
    | .arp ip => if s.ownV4 ip then answer 0 mac else s
    | .neighbour ip => if s.ownV6 ip then answer 1 mac else s
    | .echo4 ip => if s.ownV4 ip then answer 2 [] else s
    | .echo6 ip => if s.ownV6 ip then answer 3 [] else s
    | .udp port => if port = s.hp.lmpPort ∨ port = 4791 then s else answer 4 (leBytes 2 port))

/-! ### Queue pairs (R400, R401) -/

/-- ACK timeout: 4.096 µs × 2^t. -/
def Qp.timeoutNs (q : Qp) : Nat := 4096 * 2 ^ q.t

/-- CNP: the rate halves, down to 1 Gbit/s. -/
def execCnp (qp : Nat) (s : State) : Host.Outcome State Fault Refusal :=
  let q := s.qp qp
  .next (if q.state = .connected then s.setQp qp { q with rate := max 1000 (q.rate / 2), cnpAt := some s.now } else s)

/-- RATE_INCREASE: 55 µs without a CNP. -/
def execRateIncrease (qp : Nat) (s : State) : Host.Outcome State Fault Refusal :=
  let q := s.qp qp
  .next (match q.cnpAt with
    | none => s
    | some t => if q.state ≠ .connected ∨ s.now < t + 55000 then s
      else s.setQp qp { q with rate := min s.hpRate (q.rate + s.hpRate / 20), cnpAt := some s.now })

/-! ### Chunks (R403) -/

def State.setChunks (s : State) (cs : List HostChunk) : State := { s with hp := { s.hp with chunks := cs } }

/-- Whether a READ chunk collects for a message, or is on its way to another far page. -/
def HostChunk.collects (h : HostChunk) : Bool := !h.toFar && h.near.kind == .unlisted && h.relay.isNone
def HostChunk.relays (h : HostChunk) : Bool := !h.toFar && h.relay.isSome

/-- The queue pair of the region that a chunk reaches. -/
def State.chunkQp (s : State) (h : HostChunk) : Option Nat := (sget none s.hp.regions h.region).map (·.qp)

/-- A chunk's operation, if it still waits for it. -/
def State.chunkOp (s : State) (h : HostChunk) : Option Op := ((s.core h.core).entryAt h.pos).map (·.op)

/-- Progress of a chunk's operation as its record states it: bytes of a copy, 0 for a message's local side. -/
def chunkProgress (o : Op) (h : HostChunk) : Nat :=
  match o with
  | .dma (.copy _) => h.progress
  | .dma (.shardStage _) => h.progress
  | _ => 0

/-- Every chunk of the operation of h leaves. -/
def State.dropChunks (s : State) (h : HostChunk) : State :=
  s.setChunks (s.hp.chunks.filter (fun g => !(g.core == h.core && g.pos == h.pos && g.ctx == h.ctx)))

/-- A chunk ends faulted with FAR_REMOTE (R257, R403). -/
def State.farRemote (s : State) (h : HostChunk) : State :=
  let t := s.dropChunks h
  match t.chunkOp h with
  | none => t
  | some o =>
    let f : TFault := ⟨.hostDma, h.engine, kFarRemote, if h.toFar then .write else .read, h.farVa⟩
    (t.tfault h.ctx f 0x0B 0 (some (chunkProgress o h))).recordOutcome h.core o (.faulted 0x2006#16)

/-- A queue pair enters the error state; each chunk pending on it ends faulted. -/
def State.qpError (s : State) (i : Nat) : State :=
  let t := s.setQp i { s.qp i with state := .error, ackAt := none }
  let mine := t.hp.chunks.filter (fun h => if h.issued then h.qp == i else t.chunkQp h == some i)
  mine.foldl (fun u h => if u.hp.chunks.contains h then u.farRemote h else u) t

/-- A poisoned source: the chunk is not sent; the record names the line of its byte n (R403). -/
def State.chunkPoison (s : State) (h : HostChunk) (n : Nat) : State :=
  let t := s.dropChunks h
  match t.chunkOp h with
  | none => t
  | some o =>
    let l : LogArgs :=
      { cls := 2, cause := 0x2007#16, block := 0x0B, inst := 0, isVa := decide (h.near.kind = .va), addr := (h.near.addr + n) / 64 * 64
        progress := some (chunkProgress o h), detail := leBytes 1 9 }
    (t.contained (some h.ctx) l).recordOutcome h.core o (.faulted 0x2007#16)

/-- The bytes of a WRITE chunk: its data on their way between far pages, or read from the near side. -/
def State.chunkSource (s : State) (h : HostChunk) : Except ChunkStop (State × List PByte) :=
  if h.near.kind = .unlisted then .ok (s, h.data.map (fun b => (b, false)))
  else match s.readLoc h.ctx h.core .hostDma h.near h.len with
    | .error e => .error (.fault e.1 .read e.2)
    | .ok r => .ok r

/-- Ends the operation of a chunk that what stopped it names. -/
def State.chunkEnds (s : State) (h : HostChunk) (e : ChunkStop) : State :=
  match s.chunkOp h with
  | none => s.dropChunks h
  | some o => (s.dropChunks h).chunkStop h.ctx h.core .hostDma h.engine o e (chunkProgress o h)

/-- The far side of a chunk as the tables hold it when an engine takes it: a page unmapped since is not reached (R255, R269). -/
def State.farSide (s : State) (h : HostChunk) : Except ChunkStop Nat :=
  let a : Access := if h.toFar then .write else .read
  match s.translate h.ctx .hostDma a h.farVa with
  | .error k => .error (.fault k a h.farVa)
  | .ok pa => .ok pa

/-- HOST_DMA_CHUNK: an engine takes a part of a chunk and issues its operation on the region's queue pair. The parts of a
chunk that has begun are issued while their context is pre-empted: a copy suspends at its next chunk boundary (Table 10-9). -/
def execHostDmaChunk (engine : Fin 8) (index : Nat) (s : State) : Host.Outcome State Fault Refusal :=
  .next (match s.hp.chunks[index]? with
    | none => s
    | some g =>
      if g.issued ∨ s.hp.chunks.any (fun z => z.issued && z.engine == engine.val) ∨ s.paused s.rocePcp ∨
        (g.collects ∧ g.placed = g.len) then s
      else match s.farSide { g with engine := engine } with
      | .error e => s.chunkEnds { g with engine := engine } e
      | .ok pa =>
      let h := { g with engine := engine.val, far := pa, region := (farRegionOf pa).1 }
      match s.chunkQp h with
      | none => s.farRemote h
      | some i =>
        let q := s.qp i
        if q.state = .error then s.farRemote h
        else if q.state ≠ .connected then s
        else
          let go (t : State) (data : List Byte) : State :=
            let g := { h with issued := true, qp := i, data := data }
            let t := t.setChunks (t.hp.chunks.eraseIdx index ++ [g])
            t.setQp i { q with ackAt := some (q.ackAt.getD (s.now + q.timeoutNs)), retriesLeft := if q.ackAt.isSome then q.retriesLeft else q.retry
                               psn := q.psn + 1 }
          if !h.toFar then go s h.data
          else match s.chunkSource h with
            | .error e => s.chunkEnds h e
            | .ok r => if r.2.any (·.2) then r.1.chunkPoison h (r.2.findIdx (·.2)) else go r.1 (r.2.map (·.1)))

/-- An operation whose chunks are all done goes on: the next chunk of a copy or a stage, the message of a PUT, the end of a
GET. -/
def State.chunksDone (s : State) (h : HostChunk) : State :=
  match s.chunkOp h with
  | none => s
  | some o => match o with
    | .dma (.copy f) =>
      let p := min (dmaTotal f) (h.progress + chunkBytes)
      State.copyFrom h.ctx h.core o f h.pos (chunksLeft f p) p s
    | .dma (.shardStage f) => match s.ownedShard h.ctx f.shard with
      | none => s
      | some r => s.stage h.ctx h.core r f h.pos
          (min (copiesTotal (stageCopies r (s.peekCommit h.ctx r).momAddr f.dir)) (h.progress + chunkBytes))
    | .dma (.get _) => if s.opSent h.ctx h.core h.pos then s else s.recordOutcome h.core o .done
    | _ => s

/-- A PUT whose far source is collected: its message is formed. -/
def State.collected (s : State) (h : HostChunk) : State :=
  let mine := s.hp.chunks.filter (fun g => g.core == h.core && g.pos == h.pos && g.ctx == h.ctx)
  if mine.any (fun g => g.placed != g.len) then s
  else match s.chunkOp h with
    | none => s.dropChunks h
    | some o =>
      let send (f : PutF) (reduce : Bool) : State :=
        if s.mustSuspend h.ctx then (s.dropChunks h).suspendEntry h.core o 0
        else match s.places h.ctx .remoteOp .read f.src f.len with
          | .error e => (s.dropChunks h).dmaFault h.ctx h.core o ⟨.remoteOp, h.core, e.1, .read, e.2⟩ 0
          | .ok ps => s.putSend h.ctx h.core h.pos f reduce ps
      match o with
      | .dma (.put f) => send f false
      | .dma (.reducePut f) => send f true
      | _ => s

/-- The queue pair's timer after an operation completed. -/
def State.ackTimer (s : State) (i : Nat) : State :=
  let q := s.qp i
  let busy := s.hp.chunks.any (fun g => g.issued && g.qp == i && g.placed != g.len)
  s.setQp i { q with ackAt := if busy then some (s.now + q.timeoutNs) else none, retriesLeft := q.retry }

/-- A completed chunk (R403). -/
def State.chunkComplete (s : State) (h : HostChunk) (data : List Byte) : State :=
  let rest := removeFirst (· == h) s.hp.chunks
  if h.collects then
    ((s.setChunks (rest ++ [{ h with placed := h.len, data := data, issued := false }])).ackTimer h.qp).collected h
  else if h.relays then
    let g := { h with toFar := true, farVa := h.relay.getD 0, relay := none, issued := false, placed := 0, data := data }
    (s.setChunks (rest ++ [g])).ackTimer h.qp
  else
    let t := (s.setChunks rest).ackTimer h.qp
    let t := if h.toFar then
        { t with hp := { t.hp with farOut := t.hp.farOut ++ [(h.region, (farRegionOf h.far).2, h.data)] } }
      else t
    if t.hp.chunks.any (fun g => g.core == h.core && g.pos == h.pos && g.ctx == h.ctx) then t else t.chunksDone h

/-- The oldest operation in progress on a queue pair: a queue pair's operations complete in its order. -/
def State.oldestOn (s : State) (i : Nat) : Option HostChunk := s.hp.chunks.find? (fun h => h.issued && h.qp == i)

/-- RDMA_ACK: an acknowledged WRITE, or a READ whose last response has been placed. -/
def execRdmaAck (qp : Nat) (s : State) : Host.Outcome State Fault Refusal :=
  .next (match s.oldestOn qp with
    | none => s
    | some h => if (s.qp qp).state = .connected ∧ (h.toFar ∨ h.placed = h.len) then s.chunkComplete h h.data else s)

/-- RDMA_ACK_TIMEOUT. -/
def execRdmaAckTimeout (qp : Nat) (s : State) : Host.Outcome State Fault Refusal :=
  let q := s.qp qp
  .next (match q.ackAt with
    | none => s
    | some t =>
      if s.now < t ∨ q.state ≠ .connected then s
      else if q.retriesLeft = 0 then s.qpError qp
      else s.setQp qp { q with retriesLeft := q.retriesLeft - 1, ackAt := some (s.now + q.timeoutNs) })

/-- RDMA_NAK. -/
def execRdmaNak (qp : Nat) (_operational : Bool) (s : State) : Host.Outcome State Fault Refusal :=
  .next (if (s.qp qp).state = .connected then s.qpError qp else s)

/-- Response bytes placed at their position in a chunk's near destination: a partly written word of data memory that cannot
be corrected stops the core (R224, Table 9-1). -/
def State.chunkLands (s : State) (h : HostChunk) (offset : Nat) (data : List Byte) : Except ChunkStop State :=
  match (if h.near.kind = .dm then s.dmBroken h.core (partialWords (byteWrites (h.near.addr + offset) data)) else none) with
  | some w => .error (.dmem w)
  | none => match s.writeLoc h.ctx h.core .hostDma ⟨h.near.kind, h.near.addr + offset⟩ (data.map (fun b => (b, false))) with
    | .error e => .error (.fault e.1 .write e.2)
    | .ok t => .ok t

/-- RDMA_READ_RESPONSE: the bytes land at their position in the chunk's destination; with the last packet the chunk is
complete. -/
def execRdmaReadResponse (qp offset : Nat) (data : List Byte) (last : Bool) (s : State) : Host.Outcome State Fault Refusal :=
  .next (match s.oldestOn qp with
    | none => s
    | some h =>
      if h.toFar ∨ (s.qp qp).state ≠ .connected ∨ h.len < offset + data.length then s
      else if h.near.kind = .unlisted then
        let g := { h with placed := h.placed + data.length, data := patchBytes (sliceBytes h.data 0 h.len) offset data }
        if last then s.chunkComplete h g.data else s.setChunks (s.hp.chunks.map (fun z => if z = h then g else z))
      else match s.chunkLands h offset data with
        | .error e => (s.chunkEnds h e).ackTimer qp
        | .ok t =>
          if last then t.chunkComplete h h.data
          else t.setChunks (t.hp.chunks.map (fun z => if z = h then { h with placed := h.placed + data.length } else z)))

/-! ### Responder windows (R404) -/

/-- The window that an access names, if the access lies inside it. -/
def State.windowFor (s : State) (rkey : Word32) (va n : Nat) : Option Window :=
  s.hp.windows.findSome? (fun e => match e.2 with
    | some w => if w.rkey = rkey ∧ w.va ≤ va ∧ va + n ≤ w.va + w.len then some w else none
    | none => none)

/-- RDMA_WRITE_RECEIVE: nothing of a refused access is placed. -/
def execRdmaWriteReceive (qp : Nat) (rkey : Word32) (va : Nat) (data : List Byte) (s : State) : Host.Outcome State Fault Refusal :=
  .next (if (s.qp qp).state ≠ .connected then s
    else match s.windowFor rkey va data.length with
    | none => s.windowNak qp 0
    | some w => match s.writeVa w.ctx .hostDma va data false with
      | .error _ => s.windowNak qp 0
      | .ok t => (t.setQp qp { t.qp qp with remotePsn := (t.qp qp).remotePsn + 1 }).hpSend t.rocePcp skRdma (leBytes 2 qp))

/-- RDMA_READ_RECEIVE. -/
def execRdmaReadReceive (qp : Nat) (rkey : Word32) (va len : Nat) (s : State) : Host.Outcome State Fault Refusal :=
  .next (if (s.qp qp).state ≠ .connected then s
    else match s.windowFor rkey va len with
    | none => s.windowNak qp 0
    | some w => match s.readVa w.ctx .hostDma va len with
      | .error _ => s.windowNak qp 0
      | .ok r => if r.2.2 then r.1.windowNak qp 1
        else (r.1.setQp qp { r.1.qp qp with remotePsn := (r.1.qp qp).remotePsn + 1 }).hpSend r.1.rocePcp skRdma (leBytes 2 qp ++ r.2.1))

/-! ### The link and its register (R393, R397, R424) -/

/-- Whether a queue pair holds unacknowledged operations (R393). -/
def State.qpBusy (s : State) : Bool := s.hp.chunks.any (·.issued)

/-- Bits of HP_PORT_CFG that are reserved. -/
def hpCfgReserved (v : Word32) : Bool := fld32 v 30 27 != 0 || fld32 v 23 23 != 0 || fld32 v 6 3 != 0

/-- A write of HP_PORT_CFG: a change of mode takes the port down to retrain. -/
def State.writeHpCfg (s : State) (v : Word32) : Status × State :=
  let change := fld32 v 2 0 != s.hpMode
  let bad := firstFail [
    (hpCfgReserved v, genReserved),
    (decide (4 < fld32 v 2 0) || fld32 v 26 24 == fld32 v 22 20, genRange),
    (change && s.qpBusy, hpStatus 1)]
  match bad with
  | some st => (st, s)
  | none => (stDone, { s with hp := { s.hp with cfg := v, linkUp := if change then false else s.hp.linkUp } })

def execHpPortCfgWrite (value : Word64) (s : State) : Host.Outcome State Fault Refusal :=
  .next (s.writeHpCfg (BitVec.ofNat 32 value.toNat)).2

/-- HOST_PORT_LINK_DOWN. -/
def execHostPortLinkDown (s : State) : Host.Outcome State Fault Refusal :=
  .next { s with hp := { s.hp with linkUp := false } }

/-- HOST_PORT_LINK_UP: training completes in the configured mode once Lantern or the recovery service runs. -/
def execHostPortLinkUp (s : State) : Host.Outcome State Fault Refusal :=
  .next (if s.lantern.running && s.hp.testUntil.isNone && s.pins.refSerdes then { s with hp := { s.hp with linkUp := true } } else s)

/-- HOST_PORT_TEST_RETURN. -/
def execHostPortTestReturn (s : State) : Host.Outcome State Fault Refusal :=
  .next (match s.hp.testUntil with
    | none => s
    | some t => if s.now < t then s
      else
        let u := s.hostTestEnds
        { u with hp := { u.hp with testUntil := none, linkUp := true } })

end Sys2Proof.Machine
end

