-- ==== Sys2Proof/Machine/Lmp.lean ====
section
/-! DEFINITION. LMP and sessions (spec/16_host_port.md R405 to R408, spec/17_firmware_mailbox_interface.md R410 to R418): datagrams,
sequencing, responses, the common checks of every command, sessions, announcements and notices. -/

namespace Sys2Proof.Machine

/-! ### The commands of Lantern (Tables 17-3 to 17-9) -/

/-- Scopes: S any session, A admin, C attached to the named context. -/
inductive Scope | s | a | c
  deriving DecidableEq, Repr

/-- Code, scope, whether the command is marked L, and the payload length (none: the payload gives it). -/
structure CmdInfo where
  code : Nat
  scope : Scope
  limited : Bool
  len : Option Nat

def commands : List CmdInfo :=
  [⟨0x01, .s, true, some 16⟩, ⟨0x02, .s, true, some 0⟩, ⟨0x03, .s, true, some 0⟩, ⟨0x04, .a, true, some 8⟩,
   ⟨0x10, .s, false, some 8⟩, ⟨0x11, .c, false, some 8⟩, ⟨0x12, .c, false, some 8⟩, ⟨0x13, .s, false, some 16⟩,
   ⟨0x14, .c, false, some 8⟩, ⟨0x15, .c, false, some 24⟩, ⟨0x20, .c, false, some 32⟩, ⟨0x21, .c, false, some 24⟩,
   ⟨0x22, .c, false, some 24⟩, ⟨0x23, .c, false, some 16⟩, ⟨0x24, .c, false, none⟩, ⟨0x25, .c, false, some 32⟩,
   ⟨0x26, .c, false, some 16⟩, ⟨0x27, .c, false, some 16⟩, ⟨0x28, .a, false, some 24⟩, ⟨0x29, .a, false, some 8⟩] ++
  [⟨0x30, .c, false, some 24⟩, ⟨0x31, .c, false, some 8⟩, ⟨0x32, .c, false, some 8⟩, ⟨0x33, .c, false, some 8⟩,
   ⟨0x34, .c, false, some 8⟩, ⟨0x35, .c, false, some 16⟩, ⟨0x36, .c, false, some 16⟩, ⟨0x40, .a, false, some 128⟩,
   ⟨0x41, .a, false, none⟩, ⟨0x42, .a, false, some 16⟩, ⟨0x43, .a, false, some 8⟩, ⟨0x44, .a, false, some 24⟩,
   ⟨0x45, .a, false, some 68⟩, ⟨0x46, .a, false, some 32⟩, ⟨0x47, .c, false, some 24⟩, ⟨0x50, .c, false, some 136⟩] ++
  [⟨0x60, .c, false, some 24⟩, ⟨0x61, .c, false, some 8⟩, ⟨0x62, .c, false, some 16⟩, ⟨0x63, .c, false, some 24⟩,
   ⟨0x70, .s, true, some 8⟩, ⟨0x71, .a, false, some 8⟩, ⟨0x80, .a, false, some 16⟩, ⟨0x81, .s, true, some 0⟩,
   ⟨0x90, .s, true, some 16⟩, ⟨0x91, .a, false, some 8⟩, ⟨0xA0, .a, true, some 24⟩, ⟨0xA1, .a, true, some 8⟩,
   ⟨0xA2, .s, true, some 0⟩, ⟨0xB0, .s, true, some 48⟩, ⟨0xB1, .a, false, some 24⟩, ⟨0xB2, .a, true, some 24⟩,
   ⟨0xF0, .a, false, some 8⟩, ⟨0xF1, .a, false, some 16⟩]

def cmdInfo (code : Nat) : Option CmdInfo := commands.find? (fun c => c.code == code)

/-- Codes that LMP version 1 serves (R417). -/
def inVersion1 (code : Nat) : Bool := decide ((1 ≤ code ∧ code ≤ 0x36) ∨ (0x70 ≤ code ∧ code ≤ 0x91))

/-- Commands of the recovery service (R517). -/
def recoveryServed : List Nat := [0x01, 0x03, 0x46, 0x28, 0xA0, 0xA2, 0xA1]

/-- Whether Lantern serves a command: in limited mode those marked L with HP_QP and REGION_BIND (R462), after a fatal error
those marked L (R489), in the recovery service its own list (R517). -/
def State.serves (s : State) (i : CmdInfo) : Bool :=
  if s.lantern.recovery then recoveryServed.contains i.code
  else if s.ras.fatal then i.limited
  else if s.lantern.limited then i.limited || i.code == 0x46 || i.code == 0x28
  else true

/-! ### Sessions (R410 to R413) -/

def State.session (s : State) (n : Nat) : Option Session := s.lantern.sessions.find? (fun z => z.number == n)

/-- Whether a session is attached to a context, or admin. -/
def State.mayName (s : State) (n x : Nat) : Bool :=
  match s.session n with
  | none => false
  | some z => z.admin || (s.ctx x).sessions.contains n

/-- The common checks of Table 17-2 for a command with payload length `len` that names context x. -/
def State.commonCheck (s : State) (q : Req) (i : CmdInfo) (len : Nat) (x : Option Nat) : Option Status :=
  let v1 := ((s.session q.session).map (·.version)) == some 1
  firstFail [
    ((s.session q.session).isNone && !(q.session == 0 && (i.code == 1 || i.code == 3)), genNoSession),
    (v1 && !inVersion1 i.code, genCommand),
    (q.length != len, genLength),
    (!s.serves i, genLimited),
    (match i.scope with
      | .s => false
      | .a => !(((s.session q.session).map (·.admin)).getD false)
      | .c => !s.mayName q.session (x.getD 16), genSession),
    (q.reserved != 0, genReserved),
    (decide (15 < x.getD 0), genRange),
    (match x with | none => false | some x => (s.ctx x).state == .free, ctxStatusCode 2)]

/-! ### Datagrams and responses (R405, R407) -/

/-- A datagram of version 2 (Table 16-3) or version 1 (Table 16-4). -/
def lmpBytes (version type session command seq ack status : Nat) (payload : List Byte) : List Byte :=
  if version = 1 then
    [0x4C#8, 0x4D#8] ++ leFields [(1, 1), (1, type), (2, session), (2, command), (2, seq), (2, status), (2, payload.length), (2, 0)] ++ payload
  else
    let head (crc : Nat) : List Byte := [0x4C#8, 0x4D#8] ++ leFields [(1, 2), (1, type), (2, session), (2, command), (4, seq), (4, ack),
      (2, status), (2, 0), (4, payload.length), (4, crc), (4, 0)]
    head (crc32c (head 0 ++ payload)).toNat ++ payload

/-- Sends a response. -/
def State.sendResponse (s : State) (r : Response) : State :=
  let z := s.session r.session
  let v := (z.map (·.version)).getD 2
  s.hpSend s.lmpPcp skLmp (lmpBytes v 1 r.session r.command r.seq ((z.map (·.expected)).getD 1 - 1) r.status.toNat r.payload)

/-- The end of a command: its response is kept by its session (R407) and sent; that of a session that has closed meanwhile is
discarded (R412). A request that its datagram queued is the one answered; a command given without one takes the session's next
number. -/
def State.respond (s : State) (n code : Nat) (st : Status) (payload : List Byte) : State :=
  match s.session n with
  | none =>
    let r : Response := ⟨n, 0, code, st, payload⟩
    let t : State := { s with lantern := { s.lantern with lastResponse := some r } }
    if n = 0 ∨ st = genNoSession then t.sendResponse r else t
  | some z =>
    let here := z.requests.find? (fun q => q.command == code && decide (q.seq < z.expected))
    let seq := (here.map (·.seq)).getD z.expected
    let r : Response := ⟨n, seq, code, st, payload⟩
    let t := s.modSessions (fun y => y.number == n) (fun y => { y with
      requests := match here with | some q => y.requests.filter (fun w => w.seq != q.seq) | none => y.requests
      expected := if here.isSome then y.expected else y.expected + 1
      kept := y.kept ++ [r] })
    ({ t with lantern := { t.lantern with lastResponse := some r } }).sendResponse r

/-- Whether a command of session n that names context x comes after a held one: of its own session, or of its context (R406,
R416). -/
def HeldCmd.before (h : HeldCmd) (n : Nat) (x : Option Nat) : Bool :=
  (n != 0 && h.session == n) || (x.isSome && h.ctx == x)

/-- Whether a command must wait: for the context that another command is pre-empting or restoring, behind such a command
of its own session, or behind one of the held commands that are ahead of it (R406, R416). -/
def State.waitsBehind (s : State) (ahead : List HeldCmd) (n : Nat) (x : Option Nat) : Bool :=
  (List.range 16).any (fun i =>
    let v := s.ctx i
    (v.preempt.isSome || v.restoring.isSome) &&
      (x == some i || (v.preempt.map (·.session)) == some n || v.restoring == some n)) ||
  ahead.any (fun h => h.before n x)

def State.mustWait (s : State) (n : Nat) (x : Option Nat) : Bool := s.waitsBehind s.lantern.held n x

/-- A command that waits is held until it can execute: each accepted request ends in an outcome (R6, R416). -/
def State.hold (s : State) (h : HeldCmd) : State := { s with lantern := { s.lantern with held := s.lantern.held ++ [h] } }

/-- A command of Lantern, which the row names: the common checks, its own checks, and its effect with status and payload of the response. -/
def State.command (s : State) (c : Instr) (q : Req) (code len : Nat) (x : Option Nat) (own : Option Status)
    (eff : State → State × Status × List Byte) : State :=
  match cmdInfo code with
  | none => s
  | some i =>
    if !s.lantern.running then s
    else if s.mustWait q.session x then s.hold ⟨c, q.session, x, none⟩
    else match (s.commonCheck q i len x).or own with
    | some st => s.respond q.session code st []
    | none => let r := eff s; r.1.respond q.session code r.2.1 r.2.2

/-! ### SESSION_OPEN, SESSION_CLOSE, SESSION_TIMEOUT (R410 to R412) -/

/-- The next free session number after n. -/
def nextNumber (open' : List Nat) : Nat → Nat → Nat
  | 0, n => n
  | f + 1, n => let m := if 65535 < n then 1 else n
    if open'.contains m then nextNumber open' f (m + 1) else m

/-- Closes a session: kept responses and notices go, and it leaves the lists of its contexts (log entry 40). -/
def State.closeSession (s : State) (n : Nat) : State :=
  let t := { s with lantern := { s.lantern with sessions := s.lantern.sessions.filter (fun z => z.number != n) } }
  (List.range 16).foldl (fun u x =>
    if (u.ctx x).sessions.contains n then u.modCtx x (fun v => { v with sessions := v.sessions.filter (· != n) }) else u) t

def tenSeconds : Nat := 10000000000

/-- An open by the same host with the same nonce within 10 s (R411). -/
def State.recentOpen (s : State) (addr port : Nat) (nonce : Word64) : Option Nat :=
  (s.lantern.recentOpens.find? (fun (o : Nat × Nat × Word64 × Nat × Nat) =>
    o.1 == addr && o.2.1 == port && o.2.2.1 == nonce && decide (s.now < o.2.2.2.1 + tenSeconds))).map (·.2.2.2.2)

/-- Whether Lantern serves an LMP version: 1 and 2, and the recovery service 2 alone (R405, R517). -/
def State.servesVersion (s : State) (version : Nat) : Bool := version == 2 || (version == 1 && !s.lantern.recovery)

def execSessionOpen (q : Req) (addr port version : Nat) (flags : BitVec 16) (timeoutS : Nat) (nonce : Word64) (s : State) :
    Host.Outcome State Fault Refusal :=
  let admin := bitOf flags.toNat 0
  let timeout := if timeoutS = 0 then 60 else timeoutS
  let reply (n secs : Nat) : List Byte := leFields [(2, n), (2, 0), (2, secs), (2, 0)]
  let again := s.recentOpen addr port nonce
  let own := if again.isSome then none else firstFail [
    (decide (1 < flags.toNat), genReserved), (decide (3600 < timeoutS), genRange),
    (decide (64 ≤ s.lantern.sessions.length) ||
      (admin && decide (4 ≤ (s.lantern.sessions.filter (·.admin)).length)), genBusy)]
  .next (if !s.servesVersion version then
      { s with lantern := { s.lantern with discards := s.lantern.discards + (if s.lantern.running then 1 else 0) } }
    else s.command (.sessionOpen q addr port version flags timeoutS nonce) q 0x01 16 none own (fun t => match again with
    | some n => (t, stDone, reply n (((t.session n).map (·.timeoutS)).getD timeout))
    | none =>
      let n := nextNumber (t.lantern.sessions.map (·.number)) 65 t.lantern.nextSession
      let z : Session :=
        { number := n, addr := addr, port := port, version := version, admin := admin, timeoutS := timeout, nonce := nonce
          openedAt := t.now, heardAt := t.now, expected := 1, requests := [], kept := [], noticeSeq := 1, notices := [], noticesLost := 0 }
      ({ t with lantern := { t.lantern with
          sessions := t.lantern.sessions ++ [z], nextSession := n + 1, everOpened := true
          recentOpens := t.lantern.recentOpens.filter (fun (o : Nat × Nat × Word64 × Nat × Nat) => decide (t.now < o.2.2.2.1 + tenSeconds)) ++
            [(addr, port, nonce, t.now, n)] } }, stDone, reply n timeout)))

/-- Whether a command passes the common checks and does not wait. -/
def State.accepts (s : State) (q : Req) (code len : Nat) (x : Option Nat) : Bool :=
  match cmdInfo code with
  | none => false
  | some i => s.lantern.running && !s.mustWait q.session x && (s.commonCheck q i len x).isNone

/-- SESSION_CLOSE: the response is sent before the session's kept responses go. -/
def execSessionClose (q : Req) (s : State) : Host.Outcome State Fault Refusal :=
  let t := s.command (.sessionClose q) q 0x02 0 none none (fun t => (t, stDone, []))
  .next (if s.accepts q 0x02 0 none then t.closeSession q.session else t)

/-- SESSION_TIMEOUT. -/
def execSessionTimeout (session : Nat) (s : State) : Host.Outcome State Fault Refusal :=
  .next (match s.session session with
    | none => s
    | some z => if s.now < z.heardAt + z.timeoutS * 1000000000 then s else s.closeSession session)

/-! ### DEVICE_INFO, ANNOUNCE, DEVICE_RESET (R399, R418) -/

/-- Version of the running image of a class (Table 17-4). -/
def State.imageVersion (s : State) (cls : Nat) : Nat := (sget 0 s.clasp.running cls).toNat

def bitMask (n : Nat) (p : Nat → Bool) : Nat := ((List.range n).map (fun i => if p i then 2 ^ i else 0)).foldl (· + ·) 0

/-- Clusters that no context holds (R249) and that are not withheld (R499). -/
def State.unheld (s : State) : List Nat :=
  (List.range 16).filter (fun k => (s.ctxOfCluster k).isNone && !(s.cluster k).withheld)

/-- Clusters that count as free for CTX_CREATE and RESUME: a cluster under test is not (R504). -/
def State.freeClusters (s : State) : List Nat := s.unheld.filter (fun k => !s.testing k)

/-- The device-information record. -/
def State.deviceInfo (s : State) : List Byte :=
  leFields [(16, Config.uid.toNat), (4, 0x0801), (1, 1), (1, if s.lantern.limited || s.lantern.recovery then 1 else 0), (1, 3),
    (1, s.lantern.activeSlot), (2, Config.zciMajor.toNat), (2, Config.zciMinor.toNat), (4, s.imageVersion 1), (4, s.imageVersion 0),
    (4, s.imageVersion 2), (2, (s.xpt.topo.map (·.node.toNat)).getD 0xFFFF), (2, bitMask 16 (fun k => s.unheld.contains k)),
    (2, bitMask 16 (fun x => (s.ctx x).state != .free)), (1, s.lantern.sessions.length), (1, if s.lantern.debug then 1 else 0)] ++
  macBytes s.hp.mac ++ List.replicate 10 0

def execDeviceInfo (q : Req) (s : State) : Host.Outcome State Fault Refusal :=
  .next (s.command (.deviceInfo q) q 0x03 0 none none (fun t => (t, stDone, t.deviceInfo)))

/-- Where an ANNOUNCE goes: to the host addresses of the configuration record, or to 255.255.255.255 and ff02::1 (R399); a kind
of sending, and the address with its most significant byte last. -/
def State.announceTo (s : State) : List (Nat × List Byte) :=
  let l := (match s.hp.hostV4 with | some a => [(skAnnounce4, leBytes 4 a.toNat)] | none => []) ++
    (match s.hp.hostV6 with | some a => [(skAnnounce6, leBytes 16 a.toNat)] | none => [])
  if l = [] then [(skAnnounce4, leBytes 4 0xFFFFFFFF), (skAnnounce6, leBytes 16 (0xFF02 * 2 ^ 112 + 1))] else l

/-- The datagrams of an ANNOUNCE, each behind the address it goes to. -/
def State.announcements (s : State) : List (Nat × List Byte) :=
  s.announceTo.map (fun a => (a.1, a.2 ++ lmpBytes 2 3 0 0 0 0 0 s.deviceInfo))

/-- Sends an ANNOUNCE: every 1 s until the first session opens, every 30 s after. -/
def State.announce (s : State) : State :=
  let t := { s with lantern := { s.lantern with
    announceAt := s.now + (if s.lantern.everOpened then 30000000000 else 1000000000) } }
  s.announcements.foldl (fun u a => u.hpSend u.lmpPcp a.1 a.2) t

/-- ANNOUNCE. -/
def execAnnounce (s : State) : Host.Outcome State Fault Refusal :=
  .next (if !s.lantern.running ∨ s.now < s.lantern.announceAt then s else s.announce)

/-- DEVICE_RESET: the response, and a warm reset 10 ms later (cause DEVICE_RESET of Table 19-8). -/
def execDeviceReset (q : Req) (kind : Nat) (s : State) : Host.Outcome State Fault Refusal :=
  .next (s.command (.deviceReset q kind) q 0x04 8 none (if kind = 0 then none else some genRange) (fun t =>
    ({ t with lantern := { t.lantern with resetAt := some (t.now + 10000000), resetCause := 3 } }, stDone, [])))

/-! ### Notices (R408, R429) -/

/-- Notices acknowledged up to a number; when room returns, NOTICES_LOST carries the count of those lost. -/
def Session.noticesAcked (z : Session) (now n : Nat) : Session :=
  let left := z.notices.filter (fun q => decide (n < q.seq))
  let y := { z with notices := left }
  if z.noticesLost ≠ 0 ∧ left.length < 256 then ({ y with noticesLost := 0 }).notice now 7 0xFF (leFields [(4, z.noticesLost), (4, 0)]) else y

/-- A notice as a datagram. -/
def noticeBytes (z : Session) (n : Notice) : List Byte :=
  lmpBytes z.version 4 z.number 0 n.seq (z.expected - 1) 0 (leFields [(2, n.kind), (1, n.ctx), (5, 0), (8, n.time)] ++ n.body)

/-- NOTICE_RESEND: every unacknowledged notice of the session that is due, a new one at once. -/
def execNoticeResend (session : Nat) (s : State) : Host.Outcome State Fault Refusal :=
  .next (match s.session session with
    | none => s
    | some z =>
      let due := z.notices.filter (fun n => decide (n.resendAt ≤ s.now))
      let t := due.foldl (fun t n => t.hpSend t.lmpPcp skLmp (noticeBytes z n)) s
      t.modSessions (fun y => y.number == session) (fun y => { y with
        notices := y.notices.map (fun n => if n.resendAt ≤ s.now then { n with resendAt := s.now + noticeResendNs } else n) }))

/-! ### LMP_DATAGRAM (R405 to R407) -/

/-- A parsed datagram. -/
structure Lmp where
  version : Nat
  type : Nat
  session : Nat
  command : Nat
  seq : Nat
  ack : Nat
  payload : List Byte

/-- Magic, version, length and CRC (R405). -/
def parseLmp (bs : List Byte) : Option Lmp :=
  if bs.length < 16 ∨ leAt bs 0 2 ≠ 0x4D4C then none
  else if leAt bs 2 1 = 1 then
    let n := leAt bs 12 2
    if bs.length ≠ 16 + n ∨ 8192 < n then none else some ⟨1, leAt bs 3 1, leAt bs 4 2, leAt bs 6 2, leAt bs 8 2, 0, bs.drop 16⟩
  else if leAt bs 2 1 = 2 ∧ 32 ≤ bs.length then
    let n := leAt bs 20 4
    if bs.length ≠ 32 + n ∨ 8192 < n ∨ (crc32c (patchBytes bs 24 (leBytes 4 0))).toNat ≠ leAt bs 24 4 then none
    else some ⟨2, leAt bs 3 1, leAt bs 4 2, leAt bs 6 2, leAt bs 8 4, leAt bs 12 4, bs.drop 32⟩
  else none

/-- Requests in rising number. -/
def insertReq (r : LmpReq) : List LmpReq → List LmpReq
  | [] => [r]
  | a :: l => if r.seq < a.seq then r :: a :: l else a :: insertReq r l

/-- The next number expected once the requests at hand are counted. -/
def advanceSeq (rs : List LmpReq) : Nat → Nat → Nat
  | 0, e => e
  | f + 1, e => if rs.any (fun r => r.seq == e) then advanceSeq rs f (e + 1) else e

/-- The commands of which each row serves one code of a field (Tables 17-5 to 17-7): the field's place and last code, the
reserved bytes, the place of the context. -/
def codeField (command : Nat) : Option (Nat × Nat × (Nat × Nat) × Option Nat) :=
  match command with
  | 0x26 => some (2, 1, (0, 0), some 1)
  | 0x28 => some (1, 1, (0, 0), none)
  | 0x33 => some (1, 1, (4, 4), some 0)
  | 0x41 => some (0, 4, (2, 2), none)
  | 0x42 => some (2, 4, (6, 2), none)
  | 0x45 => some (3, 1, (0, 0), none)
  | 0x46 => some (2, 3, (6, 2), none)
  | 0x47 => some (1, 1, (3, 5), some 2)
  | _ => none

/-- The refusal of a code that no row serves, at its place in the order of R415. -/
def State.badCode (s : State) (n : Nat) (r : LmpReq) (i : CmdInfo) : Option Status :=
  match codeField r.command with
  | none => none
  | some f =>
    if leAt r.payload f.1 1 ≤ f.2.1 then none
    else (s.commonCheck ⟨n, r.payload.length, leAt r.payload f.2.2.1.1 f.2.2.1.2⟩ i r.payload.length
      (f.2.2.2.map (fun o => leAt r.payload o 1))).or (some genRange)

/-- A command whose code or payload length no layout gives, or whose operation code no row serves (Table 17-2, R415). -/
def State.badShape (s : State) (n version : Nat) (r : LmpReq) : Option Status :=
  match cmdInfo r.command with
  | none => some genCommand
  | some i =>
    let len := match i.len with
      | some n => n
      | none => if r.command = 0x41 then 16 + 16 * leAt r.payload 1 1 else 16 + leAt r.payload 4 4
    (firstFail [(version == 1 && !inVersion1 r.command, genCommand), (r.payload.length != len, genLength)]).or (s.badCode n r i)

/-- Requests at the head of a session's queue that no row of a command can execute are answered at once. -/
def State.answerBad : Nat → Nat → State → State
  | 0, _, s => s
  | f + 1, n, s => match s.session n with
    | none => s
    | some z => match z.requests.find? (fun r => decide (r.seq < z.expected)) with
      | none => s
      | some r => match s.badShape n z.version r with
        | none => s
        | some st => State.answerBad f n (s.respond n r.command st [])

/-- A REQUEST of an open session (R406, R407). -/
def State.lmpRequest (s : State) (z : Session) (d : Lmp) : State :=
  let n := z.number
  let set (f : Session → Session) : State := s.modSessions (fun y => y.number == n) f
  let queue (t : State) : State :=
    State.answerBad 16 n (t.modSessions (fun y => y.number == n) (fun y =>
      let rs := insertReq ⟨d.seq, d.command, d.payload, false⟩ y.requests
      { y with requests := rs, expected := advanceSeq rs 17 y.expected }))
  if z.version = 1 then
    if d.seq = z.expected % 65536 then queue (set (fun y => { y with kept := [] }))
    else match z.kept.find? (fun r => r.seq % 65536 == d.seq) with
      | some r => s.sendResponse r
      | none => s
  else
    let t := set (fun y => ({ y with kept := y.kept.filter (fun r => decide (d.ack < r.seq)) }).noticesAcked s.now d.ack)
    match z.kept.find? (fun r => r.seq == d.seq && decide (d.ack < r.seq)) with
    | some r => t.sendResponse r
    | none =>
      if z.requests.any (fun r => r.seq == d.seq) then
        t.hpSend t.lmpPcp skLmp (lmpBytes 2 2 n d.command d.seq (z.expected - 1) 0 [])
      else if d.seq < z.expected ∨ z.expected + 15 < d.seq then t
      else queue t

/-- LMP_DATAGRAM. -/
def execLmpDatagram (addr port : Nat) (bytes : List Byte) (s : State) : Host.Outcome State Fault Refusal :=
  let drop : State := { s with lantern := { s.lantern with discards := s.lantern.discards + 1 } }
  .next (if !s.lantern.running ∨ !s.hp.linkUp then s
    else match parseLmp bytes with
    | none => drop
    | some d =>
      if s.lantern.recovery ∧ d.version ≠ 2 then drop
      else match s.session d.session with
      | none =>
        if d.type ≠ 0 ∨ (d.session = 0 ∧ (d.command = 1 ∨ d.command = 3)) then s
        else
          let r : Response := ⟨d.session, d.seq, d.command, genNoSession, []⟩
          ({ s with lantern := { s.lantern with lastResponse := some r } }).hpSend s.lmpPcp skLmp
            (lmpBytes d.version 1 d.session d.command d.seq 0 genNoSession.toNat [])
      | some z0 =>
        if z0.addr ≠ addr ∨ z0.port ≠ port ∨ z0.version ≠ d.version then drop
        else
          let t := s.modSessions (fun y => y.number == d.session) (fun y => { y with heardAt := s.now })
          let z := { z0 with heardAt := s.now }
          match d.type with
          | 0 => t.lmpRequest z d
          | 1 => if d.version = 1 then t.modSessions (fun y => y.number == d.session) (fun y =>
                ({ y with notices := y.notices.filter (fun n => n.seq % 65536 != d.seq) }).noticesAcked s.now 0) else t
          | 2 => if d.version = 2 then t.modSessions (fun y => y.number == d.session) (fun y =>
                ({ y with kept := y.kept.filter (fun r => decide (d.ack < r.seq)) }).noticesAcked s.now d.ack) else t
          | _ => t)

end Sys2Proof.Machine
end

