-- ==== Sys2Proof/Machine/Tables.lean ====
section
/-! DEFINITION. Page tables as Lantern writes them (R251, R252, R255, R420): physical memory given to contexts, tables in the
firmware region, entries written and removed, translation buffers that drop what went. -/

namespace Sys2Proof.Machine

/-! ### Physical memory (R229, R420): which free memory Lantern gives is a free value (log entry 41) -/

/-- LPDDR that mappings hold: start and length. -/
def State.nearUsed (s : State) : List (Nat × Nat) :=
  (List.range 16).flatMap (fun x => (s.ctx x).maps.filterMap (fun (m : Nat × Nat × Nat) =>
    if m.2.2 < firmwareBase then some (m.2.2, m.2.1) else none))

/-- The firmware region in use: page tables and save areas of every context (Table 9-3). -/
def State.firmwareUsed (s : State) : List (Nat × Nat) :=
  (List.range 16).flatMap (fun x => (s.ctx x).tables.map (fun a => (a, 65536)) ++
    (s.ctx x).maps.filterMap (fun (m : Nat × Nat × Nat) =>
      if firmwareBase ≤ m.2.2 ∧ m.2.2 < lpddrEnd then some (m.2.2, m.2.1) else none))

/-- Whether [a, a + n) lies in [lo, hi) and meets none of the ranges. -/
def isVacant (used : List (Nat × Nat)) (lo hi a n : Nat) : Bool :=
  decide (lo ≤ a ∧ a + n ≤ hi) && used.all (fun u => decide (a + n ≤ u.1 ∨ u.1 + u.2 ≤ a))

def alignUp (a k : Nat) : Nat := (a + k - 1) / k * k

/-- A vacant aligned range of n bytes in [lo, hi), lo being aligned: the one that `pick` names, else the first after some
range in use. None is found only where none exists. -/
def placeFree (used : List (Nat × Nat)) (lo hi align n pick : Nat) : Option Nat :=
  ((lo + pick % ((hi - lo) / align) * align) :: lo :: used.map (fun u => alignUp (max lo (u.1 + u.2)) align)).find?
    (fun a => isVacant used lo hi a n)

/-- Near memory for a context. -/
def State.takeNear (s : State) (n align : Nat) : Option (Nat × State) :=
  (placeFree s.nearUsed 0 firmwareBase align n (Config.freeNat s.freeCtr)).map (fun a => (a, s.drawn))

/-- One page of the firmware region. -/
def State.takeFirmware (s : State) : Option (Nat × State) :=
  (placeFree s.firmwareUsed firmwareBase lpddrEnd 65536 65536 (Config.freeNat s.freeCtr)).map (fun a => (a, s.drawn))

/-- A new table of context x, all entries 0. -/
def State.newTable (s : State) (x : Nat) : Option (Nat × State) :=
  (placeFree s.firmwareUsed firmwareBase lpddrEnd 65536 65536 (Config.freeNat s.freeCtr)).map (fun a =>
    (a, (s.drawn.writePaClean a (List.replicate 65536 0)).modCtx x (fun v => { v with tables := v.tables ++ [a] })))

/-! ### Entries (Table 10-3) -/

/-- A pointer to a table. -/
def ptrEntry (table : Nat) : Word64 := BitVec.ofNat 64 (table + 1)

/-- The bits [8:3] of a rights field (R420). -/
def rightsMask : Nat := 0x1F8

/-- A leaf with these rights. -/
def leafEntry (rights pa : Nat) : Word64 := BitVec.ofNat 64 (pa + rights % 512 / 8 * 8 + 3)

/-- Writes entry i of a table. -/
def State.putPte (s : State) (table i : Nat) (e : Word64) : State := s.writePaClean (table + 8 * i) (leBytes 8 e.toNat)

/-- The leaf of page j of a block. -/
def blockPage (e : Word64) (j : Nat) : Word64 := BitVec.ofNat 64 (e.toNat + 65536 * j)

/-- The table that entry i of a table points to; a missing one is made, and a block gives way to a table of its pages. -/
def State.subTable (s : State) (x table i : Nat) : Option (Nat × State) :=
  let e := (s.pte table i).getD 0
  if pteValid e && !pteLeaf e then some (pteAddr e, s)
  else (s.newTable x).map (fun r =>
    let t := if pteValid e then r.2.writePaClean r.1 ((List.range 8192).flatMap (fun j => leBytes 8 (blockPage e j).toNat)) else r.2
    (r.1, t.putPte table i (ptrEntry r.1)))

/-- Writes the leaf of one page. -/
def State.putPage (s : State) (x va : Nat) (e : Word64) : Option State := do
  let a ← s.subTable x (s.ctx x).root (bitsOf va 47 42)
  let b ← a.2.subTable x a.1 (bitsOf va 41 29)
  some (b.2.putPte b.1 (bitsOf va 28 16) e)

/-- Writes the leaf of one 512 MiB block. -/
def State.putBlock (s : State) (x va : Nat) (e : Word64) : Option State := do
  let a ← s.subTable x (s.ctx x).root (bitsOf va 47 42)
  some (a.2.putPte a.1 (bitsOf va 41 29) e)

/-- Whether some valid entry, or one that cannot be read, covers an address. -/
def State.mapped (s : State) (x va : Nat) : Bool :=
  decide (va < 2 ^ 48) && match s.walkTables (s.ctx x).root va with
  | .ok _ => true
  | .error k => k != kNotMapped

/-- The leaf of the page of va, as a page's leaf. -/
def State.pageLeaf (s : State) (x va : Nat) : Option Word64 :=
  match s.walkTables (s.ctx x).root va with
  | .ok f => some (if f.block then blockPage f.entry (bitsOf va 28 16) else f.entry)
  | .error _ => none

def State.allMapped (s : State) (x va n : Nat) : Bool := (pagePieces va n).all (fun p => s.mapped x p.1)
def State.noneMapped (s : State) (x va n : Nat) : Bool := (pagePieces va n).all (fun p => !s.mapped x p.1)

/-! ### Ranges -/

def blockBytes29 : Nat := 536870912

/-- The pieces of [va, va + n) in each 512 MiB span. -/
def spans29 (va n : Nat) : List (Nat × Nat) :=
  if n = 0 then [] else
  (List.range ((va + n - 1) / blockBytes29 - va / blockBytes29 + 1)).map (fun i =>
    let p := va / blockBytes29 + i
    let a := max va (blockBytes29 * p)
    let b := min (va + n) (blockBytes29 * p + blockBytes29)
    (a, b - a))

/-- One step after another, as long as each succeeds. -/
def eachSome {α : Type} (f : State → α → Option State) : List α → State → Option State
  | [], s => some s
  | a :: r, s => match f s a with
    | none => none
    | some t => eachSome f r t

/-- Adds a mapping to the context's list. -/
def State.noteMap (s : State) (x va n pa : Nat) : State := s.modCtx x (fun v => { v with maps := v.maps ++ [(va, n, pa)] })

/-- Maps one page to near memory. -/
def State.mapNearPage (x rights : Nat) (s : State) (va : Nat) : Option State := do
  let a ← s.takeNear 65536 65536
  let t ← a.2.putPage x va (leafEntry rights a.1)
  some (t.noteMap x va 65536 a.1)

/-- Maps one span: a block where the span is whole and aligned memory is found, pages otherwise (R420). -/
def State.mapNearSpan (x rights : Nat) (s : State) (z : Nat × Nat) : Option State :=
  match (if z.2 = blockBytes29 then s.takeNear blockBytes29 blockBytes29 else none) with
  | some a => (a.2.putBlock x z.1 (leafEntry rights a.1)).map (fun t => t.noteMap x z.1 z.2 a.1)
  | none => eachSome (State.mapNearPage x rights) ((pagePieces z.1 z.2).map (·.1)) s

/-- Maps a range to near memory; `none` where memory is short (R420). -/
def State.mapNear (s : State) (x rights va n : Nat) : Option State := eachSome (State.mapNearSpan x rights) (spans29 va n) s

/-- Maps a save area: its pages lie in the firmware region (Table 9-3, R419); `none` where memory is short. -/
def State.mapSave (s : State) (x rights va n : Nat) : Option State :=
  eachSome (fun t p => do
    let a ← t.takeFirmware
    let u ← a.2.putPage x p (leafEntry rights a.1)
    some (u.noteMap x p 65536 a.1)) ((pagePieces va n).map (·.1)) s

/-- Maps a range to the far window from `target` on. -/
def State.mapFar (s : State) (x rights va n target : Nat) : Option State :=
  eachSome (fun t z =>
    let pa := target + (z.1 - va)
    (if z.2 = blockBytes29 ∧ pa % blockBytes29 = 0 then t.putBlock x z.1 (leafEntry rights pa)
     else eachSome (fun u p => u.putPage x p (leafEntry rights (target + (p - va)))) ((pagePieces z.1 z.2).map (·.1)) t).map
      (fun u => u.noteMap x z.1 z.2 pa)) (spans29 va n) s

/-- Rewrites the leaves of a range: a block as one where the range covers it, else page by page. -/
def State.rewrite (s : State) (x va n : Nat) (g : Word64 → Word64) : Option State :=
  eachSome (fun t z =>
    match t.walkTables (t.ctx x).root z.1 with
    | .ok ⟨e, true⟩ =>
      if z.2 = blockBytes29 then t.putBlock x z.1 (g e)
      else eachSome (fun u p => match u.pageLeaf x p with | some e => u.putPage x p (g e) | none => some u)
        ((pagePieces z.1 z.2).map (·.1)) t
    | _ => eachSome (fun u p => match u.pageLeaf x p with | some e => u.putPage x p (g e) | none => some u)
        ((pagePieces z.1 z.2).map (·.1)) t) (spans29 va n) s

/-- A list of mappings without a range. -/
def cutMaps (va n : Nat) (l : List (Nat × Nat × Nat)) : List (Nat × Nat × Nat) :=
  l.flatMap (fun (m : Nat × Nat × Nat) =>
    if m.1 + m.2.1 ≤ va ∨ va + n ≤ m.1 then [m]
    else
      (if m.1 < va then [(m.1, va - m.1, m.2.2)] else []) ++
      (if va + n < m.1 + m.2.1 then [(va + n, m.1 + m.2.1 - (va + n), m.2.2 + (va + n - m.1))] else []))

/-! ### Translation buffers (R253, R255) -/

/-- A translation buffer without the pages of context x that a test names. -/
def tlbCut (x : Nat) (p : Nat → Bool) (l : List (Nat × Nat × Word64)) : List (Nat × Nat × Word64) :=
  l.filter (fun e => !(e.1 == x && p e.2.1))

/-- Every translation buffer drops the pages of context x that a test names. -/
def State.dropTlb (s : State) (x : Nat) (p : Nat → Bool) : State :=
  let s := (s.ctx x).cores.foldl (fun t c => t.modCore c (fun u => { u with tlb := tlbCut x p u.tlb })) s
  let s := (s.ctx x).clusters.foldl (fun t k => t.modCluster k (fun u => { u with tlb := tlbCut x p u.tlb })) s
  let s := (List.range 16).foldl (fun t g => t.modGroup g (fun v => { v with updTlb := tlbCut x p v.updTlb })) s
  { s with xpt := { s.xpt with tlb := tlbCut x p s.xpt.tlb }, hp := { s.hp with tlb := tlbCut x p s.hp.tlb } }

/-- Removes the mappings of a range and every translation of it. -/
def State.unmapRange (s : State) (x va n : Nat) : Option State :=
  (s.rewrite x va n (fun _ => 0)).map (fun t =>
    (t.modCtx x (fun v => { v with maps := cutMaps va n v.maps })).dropTlb x
      (fun p => decide (va / 65536 ≤ p ∧ p < (va + n) / 65536)))

/-- Removes every mapping of a context that a test names. -/
def State.unmapAll (s : State) (x : Nat) (p : Nat × Nat × Nat → Bool) : State :=
  ((s.ctx x).maps.filter p).foldl (fun t (m : Nat × Nat × Nat) => (t.unmapRange x m.1 m.2.1).getD t) s

/-! ### Accesses that R255 waits for -/

/-- Whether an inbound message holds a page of the range, or a host DMA chunk is under way in it. -/
def State.rangeBusy (s : State) (x va n : Nat) : Bool :=
  s.xpt.inbound.any (fun e => match e.2 with
    | some m => m.ctx == x && m.held.any (fun p => decide (va / 65536 ≤ p ∧ p < (va + n) / 65536))
    | none => false) ||
  s.hp.chunks.any (fun h => h.issued && h.ctx == x &&
    ((h.near.kind == .va && decide (h.near.addr < va + n ∧ va < h.near.addr + h.len)) ||
     decide (h.farVa < va + n ∧ va < h.farVa + h.len)))

/-- Whether a far page of some context maps into a region (R402). -/
def State.regionMapped (s : State) (r : Nat) : Bool :=
  (List.range 16).any (fun x => (s.ctx x).maps.any (fun (m : Nat × Nat × Nat) =>
    decide (farBase ≤ m.2.2 ∧ (farRegionOf m.2.2).1 ≤ r ∧ r ≤ (farRegionOf (m.2.2 + m.2.1 - 1)).1)))

/-! ### Lantern's own accesses by VA -/

/-- Writes bytes where the tables of context x place them, without the checks of an agent. -/
def State.lanternWrite (s : State) (x va : Nat) (bs : List Byte) : State :=
  ((pagePieces va bs.length).foldl (fun (acc : State × List Byte) p =>
    (match acc.1.walkTables (acc.1.ctx x).root p.1 with
      | .ok f => acc.1.writePaClean (f.pa p.1) (acc.2.take p.2)
      | .error _ => acc.1, acc.2.drop p.2)) (s, bs)).1

/-- Bytes of a sequence whose content is open (log entry 2). -/
def State.freeBytes (s : State) (n : Nat) : List Byte := (List.range n).map (Config.freeByte s.freeCtr)

end Sys2Proof.Machine
end

