-- ==== Sys2Proof/Machine/Rails.lean ====
section
/-! DEFINITION. Core rails (spec/18_power_management.md R432, R448, R449, R453, R454; spec/01 Table 1-3): the
fused curves, the rate target and PWR_RAIL_STAT. -/

namespace Sys2Proof.Machine

/-- The rail of cluster k: its quadrant (R432). -/
def railOf (k : Nat) : Nat := k / 8 * 2 + k % 4 / 2

/-- Clusters of quadrant q, in ascending order. -/
def clustersOfRail (q : Nat) : List Nat := (List.range 16).filter (fun k => railOf k == q)

def State.rail (s : State) (q : Nat) : RailState := sget {} s.power.rails q
def State.setRail (s : State) (q : Nat) (v : RailState) : State :=
  { s with power := { s.power with rails := sset {} s.power.rails q v } }

/-- Minimum wave rate of the ceiling point, M waves/s (Table 1-3). -/
def rTarget (ceiling : Nat) : Nat := if ceiling = 0 then 600 else if ceiling = 1 then 900 else 1050

/-- r_target under PWR_CAP_CFG. -/
def State.target (s : State) : Nat := rTarget (fld32 s.power.capCfg 11 10)

/-- Temperatures of the bins, 0.1 °C. -/
def binTemps : List Int := [0, 250, 500, 700, 850, 1050]

/-- What Table 1-3 guarantees at bin b and step i: L at 0.62 V and H at 0.85 V up to 85 °C, N at 0.75 V and 70 °C. -/
def curveFloor (b i : Nat) : Nat :=
  if i = 0 ∧ b < 5 then 600 else if i = 13 ∧ b = 3 then 900 else if i = 23 ∧ b < 5 then 1050 else 0

/-- Entry of the fused curve of rail q, bin b, step i: non-decreasing in i and not below Table 1-3 (R448). -/
def curveEntry (q b i : Nat) : Nat :=
  (List.range (i + 1)).foldl (fun m j => max m (max (Config.railCurve q b j).toNat (curveFloor b j))) 0

/-- Index 1 + 6 b + w of the curve registers (R454). -/
def fusedCurveWord (q n : Nat) : Word64 :=
  BitVec.ofNat 64 (leNat ((List.range 4).flatMap (fun j => leBytes 2 (curveEntry q (n / 6) (4 * (n % 6) + j)))))

/-- Whether the curve of rail q at temperature t and step i reaches rate r; between bins the rate is interpolated. -/
def curveReaches (q : Nat) (t : Int) (i r : Nat) : Bool :=
  let e (b : Nat) : Int := curveEntry q b i
  let temp (b : Nat) : Int := binTemps.getD b 0
  match (List.range 5).find? (fun b => decide (t < temp (b + 1))) with
  | none => decide ((r : Int) ≤ e 5)
  | some b =>
    if t ≤ temp b then decide ((r : Int) ≤ e b)
    else decide ((r : Int) * (temp (b + 1) - temp b) ≤ e b * (temp (b + 1) - t) + e (b + 1) * (t - temp b))

/-- v_curve of R449: the lowest step that reaches r, or 0.85 V; millivolts. -/
def vCurve (q : Nat) (t : Int) (r : Nat) : Nat :=
  match (List.range 24).find? (fun i => curveReaches q t i r) with
  | some i => 620 + 10 * i
  | none => 850

/-- PWR_RAIL_STAT (Table 18-10). -/
def State.railStat (s : State) (q : Nat) : Word64 :=
  let v := s.rail q
  BitVec.ofNat 64 (v.mv % 65536 * 2 ^ 48 + min (v.rate / 1000) 65535 * 2 ^ 32 + s.target * 2 ^ 16 + (v.tempDc % 65536).toNat)

end Sys2Proof.Machine
end

