-- ==== Sys2Proof/Machine/Wardrobe.lean ====
section
/-! DEFINITION. Units as a context finds them, and the power states of clusters and cores
(spec/18_power_management.md R434 to R445, Tables 18-3 and 18-5; spec/19 R466): core reset, save record,
Off, exit and wake. -/

namespace Sys2Proof.Machine

/-! ### Clearing (R466) -/

/-- A core after a core reset: its context-start state; the SRAM error count, the power counters and the stall limit stay. -/
def Core.fresh (u : Core) : Core :=
  { stallCfg := u.stallCfg, sramEcc := u.sramEcc, tlb := u.tlb, power := .idle, pwrStat := u.pwrStat }

/-- A cluster cleared to zero: the registers that only COUNTER_CLEAR and a cold reset clear stay. -/
def Cluster.fresh (u : Cluster) : Cluster :=
  { sramEcc := u.sramEcc, walkStat := u.walkStat, power := u.power, veil := u.veil, dozeDue := u.dozeDue, offAt := u.offAt
    dozeStat := u.dozeStat, offStat := u.offStat, withheld := u.withheld }

/-- The cores and the cluster themselves of physical cluster k cleared to zero. -/
def State.clearCluster (s : State) (k : Nat) : State :=
  ((List.range 16).foldl (fun t i => t.modCore (16 * k + i) (fun u => { u.fresh with tlb := [] })) s).modCluster k Cluster.fresh

/-! ### Save records (R442, Table 18-5) -/

/-- The marker of a valid record. -/
def saveMark : List Byte := [0x57#8, 0x44#8, 0x01#8, 0x00#8]

/-- Offset of cluster k's record in Wardrobe. -/
def saveOffset (k : Nat) : Nat := 4096 * k

/-- The record of cluster k as its save engine writes it. -/
def State.saveRecord (s : State) (k : Nat) : List Byte :=
  saveMark ++ leFields [(4, k), (8, s.now), (8, (s.cluster k).sramEcc.toNat), (8, (s.cluster k).walkStat.toNat), (32, 0)] ++
    (List.range 16).flatMap (fun c => leFields [(8, (s.core (16 * k + c)).sramEcc.toNat), (8, (s.core (16 * k + c)).pwrStat.toNat), (16, 0)]) ++
    List.replicate 3520 0

/-- Reads of Wardrobe settled (R224): a word that cannot be corrected is fatal (Table 9-1). -/
def State.wardrobeSettle (s : State) (ranges : List (Nat × Nat)) : State :=
  let hit := s.power.wardrobe.badIn ranges
  if hit = [] then s
  else
    let t := { s with power := { s.power with wardrobe := s.power.wardrobe.settle false ranges } }
    match hit.find? (·.2 = .double) with
    | none => t
    | some w => t.fatalError { cls := 3, cause := 0x201B#16, addr := 8 * w.1, detail := leBytes 1 7 } false

/-- Bytes written into Wardrobe. -/
def State.putWardrobe (s : State) (off : Nat) (bs : List Byte) : State :=
  let t := s.wardrobeSettle (partialWords (byteWrites off bs))
  { t with power := { t.power with wardrobe := t.power.wardrobe.commit (byteWrites off bs) [] } }

/-- The save engine of cluster k. -/
def State.writeSave (s : State) (k : Nat) : State := s.putWardrobe (saveOffset k) (s.saveRecord k)

/-- An 8-byte field of a record. -/
def State.saved (s : State) (k off : Nat) : Word64 :=
  BitVec.ofNat 64 (leNat (s.power.wardrobe.read (saveOffset k + off) 8))

def State.saveValid (s : State) (k : Nat) : Bool := s.power.wardrobe.read (saveOffset k) 4 == saveMark

/-- The save list of cluster k restored from a valid record. -/
def State.restoreSave (s0 : State) (k : Nat) : State :=
  let s := s0.wardrobeSettle [(saveOffset k, 4096)]
  if s.saveValid k then
    (List.range 16).foldl (fun t c => t.modCore (16 * k + c) (fun u =>
      { u with sramEcc := s.saved k (64 + 32 * c), pwrStat := s.saved k (72 + 32 * c) }))
      (s.modCluster k (fun u => { u with sramEcc := s.saved k 16, walkStat := s.saved k 24 }))
  else s

/-! ### Off and Doze (R439 to R442, Table 18-3) -/

/-- Nanoseconds of cluster_off_ms in PWR_CFG. -/
def State.offNs (s : State) : Nat := fld s.power.cfg 31 16 * 1000000

/-- Nanoseconds of core_doze_us in PWR_CFG. -/
def State.dozeNs (s : State) : Nat := fld s.power.cfg 51 32 * 1000

/-! ### Refusers (R445, R446, Table 18-4) -/

/-- The lowest refuser that holds, as reason and block; no access of Lantern lies between two steps. -/
def firstRefuser (policy test glide agent held : Bool) (testBlock : Nat) : Option (Nat × Nat) :=
  if policy then some (1, 0x0C) else if test then some (3, testBlock) else if glide then some (4, 0x0C)
  else if agent then some (5, 0x02) else if held then some (6, 0x05) else none

/-- The refuser of the Doze of a core of cluster k. -/
def State.coreRefuser (s : State) (k : Nat) : Option (Nat × Nat) :=
  firstRefuser (!bitOf s.power.cfg.toNat 63) (s.testing k) (s.rail (railOf k)).stepping false false 0x01

/-- Whether core c is in the 0.5 µs of entry into Doze: its idle time has ended, and no refuser holds (R436). -/
def State.dozeEntering (s : State) (c : Nat) : Bool :=
  (s.core c).power == .idle && (s.cluster (clusterOf c)).power == .on && (s.coreRefuser (clusterOf c)).isNone &&
    (match (s.core c).dozeDue with | some d => decide (d ≤ s.now ∧ s.now < d + 500) | none => false)

/-- Whether cluster k is in steps 1 to 4 of entry into Off (Table 18-3). -/
def State.offEntering (s : State) (k : Nat) : Bool :=
  (s.cluster k).power == .doze && bitOf s.power.cfg.toNat 61 && !s.testing k &&
    decide ((s.cluster k).offAt ≤ s.now ∧ s.now < (s.cluster k).offAt + Config.offEntryNs.val)

/-- The counters of Table 18-6 after an entry that a wake event aborted. -/
def statAborted (w : Word64) : Word64 := bumpFld w 31 22 1

/-- A core that a wake event reaches: it leaves Doze, and an entry in progress is aborted and counted (R436). -/
def Core.awoken (u : Core) (entering : Bool) : Core :=
  if u.power = .doze then { u with power := .idle, dozeDue := none }
  else if entering then { u with dozeDue := none, pwrStat := statAborted u.pwrStat }
  else u

/-- The switch of cluster k opens: everything in it is lost; its counters on VAON and its being withheld stay. -/
def State.powerDown (s : State) (k : Nat) : State :=
  ((List.range 16).foldl (fun t c => t.setCore (16 * k + c) {}) s).modCluster k (fun u =>
    { power := .off, veil := true, dozeStat := u.dozeStat, offStat := u.offStat, withheld := u.withheld })

/-- A cluster in Doze with its cores; the time of Off starts. -/
def State.dozing (s : State) (k : Nat) : State :=
  ((List.range 16).foldl (fun t c => t.modCore (16 * k + c) (fun u => { u with power := .doze, dozeDue := none })) s).modCluster k
    (fun u => { u with power := .doze, veil := false, dozeDue := none, offAt := s.now + s.offNs })

/-- The exit from Off, steps 6 to 10: memories of zeros, reset values, the save list restored, Doze. -/
def State.offExit (s : State) (k : Nat) : State := (s.restoreSave k).dozing k

/-- Cluster k out of Off and Doze, its cores as they are; an entry into Off in progress is aborted and counted (R440). -/
def State.wakeCluster (s : State) (k : Nat) : State :=
  (if (s.cluster k).power = .off then s.offExit k else s).modCluster k (fun u =>
    { u with power := .on, offStat := if s.offEntering k then statAborted u.offStat else u.offStat })

/-- An access that wakes a core: its cluster first, then the core (R438). -/
def State.wakeCore (s : State) (c : Nat) : State :=
  (s.wakeCluster (clusterOf c)).modCore c (fun u => u.awoken (s.dozeEntering c))

/-- A cluster that a command takes is awake with its cores (R439, Table 18-11). -/
def State.wake (s : State) (k : Nat) : State :=
  (List.range 16).foldl (fun t i => t.modCore (16 * k + i) (fun u => u.awoken (s.dozeEntering (16 * k + i)))) (s.wakeCluster k)

/-- Wakes every unit of a context: its state changes (R436). -/
def State.wakeCtx (s : State) (x : Nat) : State := (s.ctx x).clusters.foldl State.wake s

end Sys2Proof.Machine
end

