-- ==== Sys2Proof/Machine/Contexts.lean ====
section
/-! DEFINITION. Contexts (spec/17_firmware_mailbox_interface.md Table 17-5, spec/10_translation_faults_and_preemption.md R249
to R256, R466): creation, reset, release, attachment, status, the Pocket region, mappings, memory access by the host. -/

namespace Sys2Proof.Machine

/-- First virtual address reserved for Lantern, where a save area lies (R419). -/
def saveBase : Nat := 0xFF8000000000
/-- Bytes of a save area for one cluster (R265). -/
def savePerCluster : Nat := 51 * 1048576

/-- n elements of a list, chosen one after another by free values from counter c on. -/
def chooseFrom (c : Nat) : Nat → List Nat → List Nat
  | 0, _ => []
  | _ + 1, [] => []
  | n + 1, a :: r =>
    let k := (a :: r).getD (Config.freeNat c % (r.length + 1)) a
    k :: chooseFrom (c + 1) n ((a :: r).filter (· != k))

/-- Free clusters for a context: which ones, and in which order they are numbered, is a free value (R249, log entry 41). -/
def State.chooseClusters (s : State) (n : Nat) : List Nat × State :=
  (chooseFrom s.freeCtr n s.freeClusters, { s with freeCtr := s.freeCtr + n })

/-! ### CTX_CREATE (R249, R250, R265, R413) -/

/-- A new context on clusters that are free: its root table and its save area; `none` where memory is short. -/
def State.createCtx (s : State) (x session n rtag : Nat) (save : Bool) : Option State := do
  let c := s.chooseClusters n
  let v : Ctx := { state := .loaded, clusters := c.1, rtag := rtag, handle := Config.freeWord64 c.2.freeCtr
                   sessions := [session], saveClusters := if save then n else 0 }
  let r ← ((c.2.drawn).setCtx x v).newTable x
  let t := (r.2.modCtx x (fun w => { w with root := r.1 })).wakeCtx x
  if save then t.mapSave x 0x98 saveBase (n * savePerCluster) else some t

/-- CTX_CREATE. -/
def execCtxCreate (q : Req) (nClusters rtag : Nat) (flags : BitVec 16) (s : State) : Host.Outcome State Fault Refusal :=
  let free := (List.range 16).filter (fun x => (s.ctx x).state == .free)
  let x := free.getD (Config.freeNat s.freeCtr % free.length) 0
  let save := bitOf flags.toNat 0
  let own := firstFail [
    (decide (1 < flags.toNat), genReserved), (free.isEmpty, ctxStatusCode 1),
    (!decide (1 ≤ nClusters ∧ nClusters ≤ 16), genRange), (decide (s.freeClusters.length < nClusters), ctxStatusCode 5),
    (decide (15 < rtag) || (List.range 16).any (fun y => (s.ctx y).state != .free && (s.ctx y).rtag == rtag), ctxStatusCode 3)]
  .next (s.command (.ctxCreate q nClusters rtag flags) q 0x10 8 none own (fun t =>
    match t.drawn.createCtx x q.session nClusters rtag save with
    | none => (t, mapStatus 7, [])
    | some u =>
      let v := u.ctx x
      (u, stDone, leFields [(1, x), (1, 0), (2, bitMask 16 (fun k => v.clusters.contains k)), (4, 0), (8, v.handle.toNat),
        (8, if save then saveBase else 0)])))

/-! ### CTX_RESET and CTX_FREE (R256, R271, R466, Table 10-11) -/

/-- Transport without the messages of context x: its outbound contexts are released, its inbound contexts freed. -/
def State.dropMessages (s : State) (x : Nat) : State :=
  let t := { s with xpt := { s.xpt with
    toSend := s.xpt.toSend.filter (fun m => m.ctx != x)
    outbound := s.xpt.outbound.filter (fun e => match e.2 with | some m => m.msg.ctx != x | none => false) } }
  t.xpt.inbound.foldl (fun u e => match e.2 with
    | some m => if m.ctx = x then u.freeInbound e.1 m else u
    | none => u) t

/-- Stops every agent of a context: messages, host DMA chunks, pending updates. -/
def State.stopAgents (s : State) (x : Nat) : State :=
  let t := s.dropMessages x
  let cores := (s.ctx x).cores
  let t := { t with hp := { t.hp with chunks := t.hp.chunks.filter (fun h => h.ctx != x) } }
  (List.range 16).foldl (fun u g =>
    if (u.group g).updPending.any (fun p => cores.contains p.1) || (u.group g).updating.any (fun h => cores.contains h.core) then
      u.modGroup g (fun v => { v with updPending := v.updPending.filter (fun p => !cores.contains p.1)
                                      updating := v.updating.filter (fun h => !cores.contains h.core) })
    else u) t

/-- What a context keeps over a reset: its number and tag, handle, sessions, clusters, tables and mappings, stop counts (R81),
Pocket region, the digest and places of its last container (R423), and what stands in its shards' memory (R300). -/
def Ctx.afterReset (v : Ctx) : Ctx :=
  { state := .loaded, clusters := v.clusters, rtag := v.rtag, handle := v.handle, sessions := v.sessions
    saveClusters := v.saveClusters, root := v.root, tables := v.tables, maps := v.maps, stopCount := v.stopCount
    coreStops := v.coreStops, ovfVa := v.ovfVa, ovfLen := v.ovfLen, lastDigest := v.lastDigest, lastBuffers := v.lastBuffers
    journaled := v.journaled, epochAt := v.epochAt, switched := v.switched }

/-- A context reset of context x on the clusters it holds. -/
def State.resetCtx (s : State) (x : Nat) (release : Bool) : State :=
  let t := (s.stopAgents x).freePools x
  let t := (t.ctx x).clusters.foldl (fun u k => (u.clearCluster k).wake k) t
  let t := t.modCtx x Ctx.afterReset
  let t := t.dropTlb x (fun _ => true)
  if release then t.unmapAll x (fun (m : Nat × Nat × Nat) => decide (m.1 < saveBase)) else t

/-- CTX_RESET: an evicted context first takes free clusters, in ascending number and as many as it held (R469). -/
def execCtxReset (q : Req) (ctx release : Nat) (s : State) : Host.Outcome State Fault Refusal :=
  let v := s.ctx ctx
  let own := firstFail [
    (decide (1 < release), genRange),
    (v.state == .evicted && decide (s.freeClusters.length < v.hadClusters), preStatus 2)]
  .next (s.command (.ctxReset q ctx release) q 0x12 8 (some ctx) own (fun t =>
    let t := if v.state = .evicted then
        t.modCtx ctx (fun w => { w with clusters := t.freeClusters.take v.hadClusters })
      else t
    (t.resetCtx ctx (release == 1), stDone, [])))

/-- CTX_FREE: a reset with release 1; pools and windows go, clusters and tables are freed. -/
def State.freeCtx (s : State) (x : Nat) : State :=
  let t := s.resetCtx x true
  let t := (List.range 64).foldl (fun u p =>
    if (u.pool p).enabled ∧ (u.pool p).owner = x then
      u.modPool p (fun v => v.configured (v.cfg &&& 0x7FFFFFFF#32) v.base)
    else u) t
  let t := { t with hp := { t.hp with windows := t.hp.windows.filter (fun e => match e.2 with | some w => w.ctx != x | none => false) } }
  t.setCtx x {}

def execCtxFree (q : Req) (ctx : Nat) (s : State) : Host.Outcome State Fault Refusal :=
  .next (s.command (.ctxFree q ctx) q 0x11 8 (some ctx) none (fun t => (t.freeCtx ctx, stDone, [])))

/-! ### CTX_ATTACH, CTX_STATUS, POCKET_CFG -/

/-- CTX_ATTACH: attaches the session, or detaches it. -/
def execCtxAttach (q : Req) (ctx detach : Nat) (handle : Word64) (s : State) : Host.Outcome State Fault Refusal :=
  let l := (s.ctx ctx).sessions
  let own := firstFail [
    (decide (1 < detach), genRange), ((s.ctx ctx).handle != handle, ctxStatusCode 4),
    (detach == 0 && !l.contains q.session && decide (4 ≤ l.length), genBusy)]
  .next (s.command (.ctxAttach q ctx detach handle) q 0x13 16 (some ctx) own (fun t =>
    (t.modCtx ctx (fun v => { v with
      sessions := if detach = 1 then v.sessions.filter (· != q.session)
        else if v.sessions.contains q.session then v.sessions else v.sessions ++ [q.session] }), stDone, [])))

/-- The order of Table 10-1. -/
def CtxState.number : CtxState → Nat
  | .free => 0 | .loaded => 1 | .running => 2 | .suspended => 3 | .evicted => 4 | .stopped => 5

/-- The cluster_map of a context. -/
def Ctx.clusterMap (v : Ctx) : Nat := bitMask 16 (fun k => v.clusters.contains k)

def execCtxStatus (q : Req) (ctx : Nat) (s : State) : Host.Outcome State Fault Refusal :=
  let v := s.ctx ctx
  .next (s.command (.ctxStatus q ctx) q 0x14 8 (some ctx) none (fun t => (t, stDone,
    leFields [(1, v.state.number), (1, v.clusters.length), (2, v.clusterMap), (4, v.stepNo.toNat), (8, v.faultReg.toNat)])))

/-- A virtual address of a mailbox command with bits [63:48] set (R254). -/
def vaBeyond (va : Nat) : Bool := decide (2 ^ 48 ≤ va)

/-- POCKET_CFG (R154). -/
def execPocketCfg (q : Req) (ctx ovfVa ovfLen : Nat) (s : State) : Host.Outcome State Fault Refusal :=
  let own := firstFail [
    ((s.ctx ctx).state != .loaded, ctxStatusCode 2),
    (decide (ovfLen % 65536 ≠ 0 ∨ 64 * 2 ^ 30 < ovfLen), genRange),
    (vaBeyond ovfVa, xptStatus 6),
    (!s.rangePinned ctx ovfVa ovfLen, mapStatus 2)]
  .next (s.command (.pocketCfg q ctx ovfVa ovfLen) q 0x15 24 (some ctx) own (fun t =>
    (t.modCtx ctx (fun v => { v with ovfVa := ovfVa, ovfLen := ovfLen }), stDone, [])))

/-! ### MAP, UNMAP, PROTECT (R252, R255, R256, R420) -/

/-- A rights field that R252 refuses: bits outside [8:3], a pinned far page, a code page with write, remote without write. -/
def rightsBad (r : Nat) : Bool :=
  r % 8 != 0 || decide (512 ≤ r) || (bitOf r 7 && bitOf r 6) || (bitOf r 5 && bitOf r 4) || (bitOf r 8 && !bitOf r 4)

/-- Whether [target, target + n) lies within one bound region (R402). -/
def State.farTarget (s : State) (target n : Nat) : Bool :=
  decide (farBase ≤ target) && match sget none s.hp.regions (farRegionOf target).1 with
    | none => false
    | some r => decide ((farRegionOf target).2 + n ≤ r.len)

/-- MAP. -/
def execMap (q : Req) (ctx : Nat) (rights : BitVec 16) (va len target : Nat) (s : State) : Host.Outcome State Fault Refusal :=
  let r := rights.toNat
  let far := bitOf r 6
  let own := firstFail [
    (decide (va % 65536 ≠ 0 ∨ len % 65536 ≠ 0 ∨ len < 65536) || (far && decide (target % 65536 ≠ 0)), mapStatus 3),
    (vaBeyond va, xptStatus 6), (decide (saveBase < va + len), genRange), (rightsBad r, mapStatus 5), (!s.noneMapped ctx va len, mapStatus 4),
    (if far then !s.farTarget target len else target != 0, mapStatus 6)]
  .next (s.command (.map q ctx rights va len target) q 0x20 32 (some ctx) own (fun t =>
    match (if far then t.mapFar ctx r va len target else t.mapNear ctx r va len) with
    | none => (t, mapStatus 7, [])
    | some u => (u, stDone, leBytes 8 (match u.walkTables (u.ctx ctx).root va with | .ok f => f.pa va | .error _ => 0))))

/-- The alignment check of UNMAP and PROTECT. -/
def rangeMisaligned (va len : Nat) : Bool := decide (va % 65536 ≠ 0 ∨ len % 65536 ≠ 0 ∨ len = 0)

/-- A test on the leaf of every page of a range. -/
def State.anyLeaf (s : State) (x va n : Nat) (p : Word64 → Bool) : Bool :=
  (pagePieces va n).any (fun z => match s.pageLeaf x z.1 with | some e => p e | none => false)

/-- UNMAP: it is held as long as an access of R255 is under way. -/
def execUnmap (q : Req) (ctx va len : Nat) (s : State) : Host.Outcome State Fault Refusal :=
  let own := firstFail [
    (rangeMisaligned va len, mapStatus 3), (vaBeyond va, xptStatus 6), (!s.allMapped ctx va len, genPrecond),
    (s.anyLeaf ctx va len ptePinned, mapStatus 1)]
  .next (if own.isNone && s.accepts q 0x21 24 (some ctx) && s.rangeBusy ctx va len then
      s.hold ⟨.unmap q ctx va len, q.session, some ctx, some (va, len)⟩
    else s.command (.unmap q ctx va len) q 0x21 24 (some ctx) own (fun t => match t.unmapRange ctx va len with
      | none => (t, mapStatus 7, [])
      | some u => (u, stDone, [])))

/-- The grants of a leaf that a rights field takes away: remote, code, write, read. -/
def reduces (e : Word64) (r : Nat) : Bool := [3, 4, 5, 8].any (fun i => bitOf e.toNat i && !bitOf r i)

/-- PROTECT. -/
def execProtect (q : Req) (ctx : Nat) (rights : BitVec 16) (va len : Nat) (s : State) : Host.Outcome State Fault Refusal :=
  let r := rights.toNat
  let own := firstFail [
    (rangeMisaligned va len, mapStatus 3), (vaBeyond va, xptStatus 6), (!s.allMapped ctx va len, genPrecond),
    (rightsBad r || s.anyLeaf ctx va len (fun e => ptePinned e != bitOf r 7 || pteFar e != bitOf r 6), mapStatus 5),
    (s.anyLeaf ctx va len (fun e => ptePinned e && reduces e r), mapStatus 1)]
  .next (if own.isNone && s.accepts q 0x22 24 (some ctx) && s.anyLeaf ctx va len (fun e => reduces e r) &&
      s.rangeBusy ctx va len then s.hold ⟨.protect q ctx rights va len, q.session, some ctx, some (va, len)⟩
    else s.command (.protect q ctx rights va len) q 0x22 24 (some ctx) own (fun t =>
      match t.rewrite ctx va len (fun e => withFld e 8 3 (r / 8)) with
      | none => (t, mapStatus 7, [])
      | some u => (u.dropTlb ctx (fun p => decide (va / 65536 ≤ p ∧ p < (va + len) / 65536)), stDone, [])))

/-! ### MEM_READ and MEM_WRITE (R421): near memory, with the context's rights (log entry 42) -/

/-- The bit mask of lines, counted from the line that holds `a`, of which a returned byte is poisoned. -/
def lineMask (a : Nat) (bs : List (Byte × Bool)) : Nat :=
  bitMask 192 (fun n => bs.zipIdx.any (fun e => e.1.2 && (a + e.2) / 64 == a / 64 + n))

/-- The bytes of places of LPDDR, each marked with the poison of its line as it is read. -/
def State.readMarked (s : State) (ps : List (Nat × Nat)) : State × List (Byte × Bool) :=
  ps.foldl (fun (acc : State × List (Byte × Bool)) p =>
    (linePieces p.1 p.2).foldl (fun (a2 : State × List (Byte × Bool)) z =>
      let l := a2.1.fetchLine z.1 []
      (l.1, a2.2 ++ ((l.2.1.drop z.2.1).take z.2.2).map (fun b => (b, l.2.2)))) acc) (s, [])

/-- MEM_READ. -/
def execMemRead (q : Req) (ctx len va : Nat) (s : State) : Host.Outcome State Fault Refusal :=
  let tr := s.translateRange ctx .scalar .read va len
  let own := firstFail [(!decide (1 ≤ len ∧ len ≤ 8168), genRange)]
  .next (s.command (.memRead q ctx len va) q 0x23 16 (some ctx) own (fun t => match tr with
    | .error e => (t, xptStatus e.1, [])
    | .ok ps =>
      let r := t.readMarked ps
      (r.1, stDone, leBytes 24 (lineMask va r.2) ++ r.2.map (·.1))))

/-- MEM_WRITE. -/
def execMemWrite (q : Req) (ctx va len : Nat) (data : List Byte) (s : State) : Host.Outcome State Fault Refusal :=
  let own := firstFail [(!decide (1 ≤ len ∧ len ≤ 8176), genRange)]
  .next (s.command (.memWrite q ctx va len data) q 0x24 (16 + len) (some ctx) own (fun t =>
    match t.writeVa ctx .scalar va (sliceBytes data 0 len) false with
      | .error e => (t, xptStatus e.1, [])
      | .ok u => (u, stDone, [])))

/-! ### Host DMA for a mailbox command (R403): its failure ends the command and nothing else (log entry 43) -/

/-- The queue pair over which a mailbox command reaches [offset, offset + n) of a region: bound, long enough, connected. -/
def State.regionQp (s : State) (region offset n : Nat) : Option Nat :=
  match sget none s.hp.regions region with
  | none => none
  | some r => if offset + n ≤ r.len ∧ (s.qp r.qp).state = .connected then some r.qp else none

/-- Reads n bytes of a region: the bytes, or how many whole chunks came before the failure. A failed access puts the queue
pair into its error state. -/
def State.farRead (s : State) (region offset n : Nat) (io : FarIO) : State × Except Nat (List Byte) :=
  match s.regionQp region offset n with
  | none => (s, .error 0)
  | some i =>
    if n ≤ io.bytes.length then (s, .ok (io.bytes.take n))
    else (s.qpError i, .error (io.bytes.length / chunkBytes * chunkBytes))

/-- Writes bytes to a region: the state, and how many bytes of whole chunks were written before a failure. -/
def State.farWrite (s : State) (region offset : Nat) (bs : List Byte) (io : FarIO) : State × Option Nat :=
  match s.regionQp region offset bs.length with
  | none => (s, some 0)
  | some i =>
    let n := min bs.length io.accepted
    let t := if n = 0 then s else { s with hp := { s.hp with farOut := s.hp.farOut ++ [(region, offset, bs.take n)] } }
    if n = bs.length then (t, none) else (t.qpError i, some (n / chunkBytes * chunkBytes))

/-- Writes the bytes of a chunk over places of a context: near ones as they are, far ones by RDMA over their own region, where
the host accepts a bytes more of these: the state, what the host still accepts, and whether all bytes went. -/
def State.putAcross : List (Place × Nat) → List Byte → Nat → State → State × Nat × Bool
  | [], _, a, s => (s, a, true)
  | (.far pa, n) :: ps, bs, a, s =>
    let r := farRegionOf pa
    match s.regionQp r.1 r.2 n with
    | none => (s, a, false)
    | some i =>
      let k := min n a
      let t := if k = 0 then s else { s with hp := { s.hp with farOut := s.hp.farOut ++ [(r.1, r.2, bs.take k)] } }
      if k < n then (t.qpError i, 0, false) else State.putAcross ps (bs.drop n) (a - k) t
  | (p, n) :: ps, bs, a, s => State.putAcross ps (bs.drop n) a (s.writePlace 0 p ((bs.take n).map (fun b => (b, false))))

/-- Reads the places of a context: near ones as they are, far ones by RDMA from their own region, out of what the host
delivers: the state, the bytes, what is left of the host's, and whether all came. -/
def State.takeAcross : List (Place × Nat) → List Byte → State → State × List PByte × List Byte × Bool
  | [], far, s => (s, [], far, true)
  | (.far pa, n) :: ps, far, s =>
    let r := farRegionOf pa
    match s.regionQp r.1 r.2 n with
    | none => (s, [], far, false)
    | some i =>
      if far.length < n then (s.qpError i, [], [], false)
      else
        let q := State.takeAcross ps (far.drop n) s
        (q.1, (far.take n).map (fun b => (b, false)) ++ q.2.1, q.2.2)
  | (p, n) :: ps, far, s =>
    let r := s.readPlace 0 p n
    let q := State.takeAcross ps far r.1
    (q.1, r.2 ++ q.2.1, q.2.2)

/-- MEM_XFER, one chunk after another: state, progress, whether it failed. -/
def State.xfer (x dir region va offset len : Nat) (io : FarIO) : Nat → Nat → State → State × Nat × Bool
  | 0, p, s => (s, p, false)
  | f + 1, p, s =>
    let n := min chunkBytes (len - p)
    match s.regionQp region (offset + p) n with
    | none => (s, p, true)
    | some i =>
      if dir = 0 then
        match s.places x .hostDma .write ⟨.va, va + p⟩ n with
        | .error _ => (s, p, true)
        | .ok ps =>
          let got := (io.bytes.drop p).take n
          if got.length < n then ((s.writePlaces 0 ps (got.map (fun b => (b, false)))).qpError i, p, true)
          else
            let r := State.putAcross ps got io.accepted s
            if r.2.2 then State.xfer x dir region va offset len { io with accepted := r.2.1 } f (p + n) r.1 else (r.1, p, true)
      else
        match s.places x .hostDma .read ⟨.va, va + p⟩ n with
        | .error _ => (s, p, true)
        | .ok ps =>
          let r := State.takeAcross ps io.bytes s
          if !r.2.2.2 then (r.1, p, true)
          else match r.2.1.findIdx? (·.2) with
          | some j =>
            (r.1.deferred { cls := 1, cause := 0x2007#16, block := 0x0B, ctx := some x, isVa := true,
                            addr := (va + p + j) / 64 * 64, progress := some p, detail := leBytes 1 9 }, p, true)
          | none =>
            let k := min n (io.accepted - p)
            let t := { r.1 with hp := { r.1.hp with farOut := r.1.hp.farOut ++ [(region, offset + p, (r.2.1.map (·.1)).take k)] } }
            if k < n then (t.qpError i, p, true)
            else State.xfer x dir region va offset len { io with bytes := r.2.2.1 } f (p + n) t

/-- MEM_XFER. -/
def execMemXfer (q : Req) (ctx dir region va offset len : Nat) (io : FarIO) (s : State) : Host.Outcome State Fault Refusal :=
  let own := firstFail [(decide (1 < dir), genRange), (vaBeyond va, xptStatus 6), (decide (saveBase < va + len), genRange)]
  .next (s.command (.memXfer q ctx dir region va offset len io) q 0x25 32 (some ctx) own (fun t =>
    let r := State.xfer ctx dir region va offset len io ((len + chunkBytes - 1) / chunkBytes) 0 t
    (r.1, if r.2.2 then fltTransfer else stDone, leBytes 8 r.2.1)))

/-! ### Pools, regions, memory policy -/

/-- POOL_CFG, op 0 (R270). -/
def execPoolCfgSet (q : Req) (pool ctx bufferLog2 count base : Nat) (s : State) : Host.Outcome State Fault Refusal :=
  let cfg : Word32 := BitVec.ofNat 32 (2 ^ 31 + ctx % 16 * 2 ^ 24 + bufferLog2 % 32 * 2 ^ 16 + (count - 1) % 65536)
  let p := s.pool pool
  let own := firstFail [
    (!decide (pool < 64) || (p.enabled && p.owner != ctx), bpmStatus 1), (!p.allocs.isEmpty, bpmStatus 0x0A),
    (!decide (12 ≤ bufferLog2 ∧ bufferLog2 ≤ 22 ∧ 1 ≤ count ∧ count ≤ 65536), genRange)]
  .next (s.command (.poolCfgSet q pool ctx bufferLog2 count base) q 0x26 16 (some ctx) (own.or (poolSetCheck s pool ctx cfg base)) (fun t =>
    (t.modPool pool (fun p => p.configured cfg (BitVec.ofNat 64 base)), stDone, [])))

/-- POOL_CFG, op 1: the pool is removed. -/
def execPoolCfgRemove (q : Req) (pool ctx : Nat) (s : State) : Host.Outcome State Fault Refusal :=
  let p := s.pool pool
  let own := firstFail [
    (!decide (pool < 64) || (p.enabled && p.owner != ctx), bpmStatus 1), (!p.allocs.isEmpty, bpmStatus 0x0A)]
  .next (s.command (.poolCfgRemove q pool ctx) q 0x26 16 (some ctx) own (fun t =>
    (t.modPool pool (fun p => p.configured (p.cfg &&& 0x7FFFFFFF#32) p.base), stDone, [])))

/-- POOL_QUOTA (R277): its context is the owner of the pool (log entry 44). -/
def execPoolQuota (q : Req) (pool requester limit reserve : Nat) (s : State) : Host.Outcome State Fault Refusal :=
  let p := s.pool pool
  let own := firstFail [
    (!decide (pool < 64) || !p.enabled, bpmStatus 1), (decide (31 < requester), genRange)]
  .next (s.command (.poolQuota q pool requester limit reserve) q 0x27 16 (if pool < 64 ∧ p.enabled then some p.owner else none)
    (own.or (quotaCheck p requester limit reserve)) (fun t =>
      (t.modPool pool (fun p => p.withQuota requester limit reserve), stDone, [])))

/-- REGION_BIND, op 0 (R402). -/
def execRegionBind (q : Req) (region qp : Nat) (rkey : Word32) (remote : Word64) (len : Nat) (s : State) :
    Host.Outcome State Fault Refusal :=
  let own := firstFail [
    (decide (len % 65536 ≠ 0 ∨ 32 * 2 ^ 30 < len ∨ 255 < region), genRange),
    ((s.qp qp).state != .connected || decide (1023 < qp), hpStatus 2), (s.regionMapped region, genBusy)]
  .next (s.command (.regionBind q region qp rkey remote len) q 0x28 24 none own (fun t =>
    ({ t with hp := { t.hp with regions := sset none t.hp.regions region (some ⟨qp, rkey, remote.toNat, len⟩) } }, stDone, [])))

/-- REGION_BIND, op 1. -/
def execRegionUnbind (q : Req) (region : Nat) (s : State) : Host.Outcome State Fault Refusal :=
  let own := firstFail [(decide (255 < region), genRange), (s.regionMapped region, genBusy)]
  .next (s.command (.regionUnbind q region) q 0x28 24 none own (fun t =>
    ({ t with hp := { t.hp with regions := sset none t.hp.regions region none } }, stDone, [])))

/-- The rule of MEM_ARB_WEIGHT (R25): no weight of 0. -/
def arbWeightBad (w : Word32) : Bool := (List.range 5).any (fun i => fld32 w (4 * i + 3) (4 * i) == 0)

/-- MEM_POLICY. -/
def execMemPolicy (q : Req) (groupMask : BitVec 16) (hold : Nat) (arbWeight : Word32) (s : State) : Host.Outcome State Fault Refusal :=
  let own := firstFail [
    (decide (1 < hold), genRange), (fld32 arbWeight 31 20 != 0, genReserved), (arbWeightBad arbWeight, genRange)]
  .next (s.command (.memPolicy q groupMask hold arbWeight) q 0x29 8 none own (fun t =>
    ((List.range 16).foldl (fun u g =>
      if bitOf groupMask.toNat g then u.modGroup g (fun v => { v with arbWeight := arbWeight, hold := hold == 1 }) else u) t, stDone, [])))

end Sys2Proof.Machine
end

