-- ==== Sys2Proof/Machine/ProgLoad.lean ====
section
/-! DEFINITION. Program load (spec/03_cores_queues_and_programs.md R84 to R87, spec/17_firmware_mailbox_interface.md R423):
the container, its checks in the order of Table 3-13, the records of routers (R192) and collectives (R377, R378, R390), the
placing of buffers, and the program that the context then holds. -/

namespace Sys2Proof.Machine

/-! ### The container (Tables 3-7 to 3-12) -/

def headerBytes : Nat := 128

/-- A section table entry. -/
structure Sect where
  type : Nat
  count : Nat
  off : Nat
  size : Nat
  entry : Nat

/-- The section table. -/
def sectionsOf (bs : List Byte) : List Sect :=
  (List.range (leAt bs 22 2)).map (fun i =>
    let b := leAt bs 24 8 + 32 * i
    ⟨leAt bs b 2, leAt bs (b + 4) 4, leAt bs (b + 8) 8, leAt bs (b + 16) 8, leAt bs (b + 24) 4⟩)

/-- Record size of a section type (Table 3-9), 0 for an opaque section; none for an unknown type. -/
def recordSize (t : Nat) : Option Nat :=
  match t with
  | 1 => some 0 | 2 => some 4 | 3 => some 0 | 4 => some 32 | 5 => some 16 | 6 => some 8 | 7 => some 128 | 8 => some 128
  | 9 => some 256 | _ => none

/-- Whether ranges (start, end) are disjoint, each from each. -/
def disjoint (l : List (Nat × Nat)) : Bool :=
  l.zipIdx.all (fun a => l.zipIdx.all (fun b =>
    decide (b.2 ≤ a.2 ∨ a.1.2 ≤ b.1.1 ∨ b.1.2 ≤ a.1.1)))

/-- Check 7 (R85, R86). A second section of a type of which Table 3-9 has at most one fails it: Table 3-13 names no check for
that (DESIGN CHOICE, log entry 93). -/
def sectionsOk (bs : List Byte) : Bool :=
  let n := leAt bs 22 2
  let t := leAt bs 24 8
  let ss := sectionsOf bs
  decide (1 ≤ n ∧ n ≤ 1024 ∧ t % 64 = 0 ∧ t + 32 * n ≤ bs.length) &&
  ss.all (fun z => decide (z.off % 64 = 0 ∧ z.off + z.size ≤ bs.length) &&
    (if z.entry = 0 then z.count == 0 else z.size == z.count * z.entry) &&
    (match recordSize z.type with | none => bitOf z.type 15 | some r => r != 0 || z.entry == 0)) &&
  disjoint ((t, t + 32 * n) :: (ss.filter (fun z => z.size != 0)).map (fun z => (z.off, z.off + z.size))) &&
  (List.range 10).all (fun t => decide (t < 2) || decide ((ss.filter (fun z => z.type == t)).length ≤ 1))

/-- Number and entry of the one section of a type. -/
def sectionOf (ss : List Sect) (t : Nat) : Option (Sect × Nat) := ss.zipIdx.find? (fun z => z.1.type == t)

/-- Whether the section of a type, where there is one, has the record size of Table 3-9. -/
def entryOk (ss : List Sect) (t : Nat) : Bool :=
  match sectionOf ss t with | none => true | some z => some z.1.entry == recordSize t

/-- The records of the section of a type. -/
def recordsOf (bs : List Byte) (ss : List Sect) (t : Nat) : List (List Byte) :=
  match sectionOf ss t with
  | none => []
  | some z => (List.range z.1.count).map (fun i => sliceBytes bs (z.1.off + z.1.entry * i) z.1.entry)

/-- The code segments in their order. -/
def codeSegments (bs : List Byte) (ss : List Sect) : List (List Byte) :=
  (ss.filter (fun z => z.type == 1)).map (fun z => sliceBytes bs z.off z.size)

def segmentMax : Nat := 16777216

/-- The code map. -/
def codeMapOf (bs : List Byte) (ss : List Sect) : List Word32 := (recordsOf bs ss 2).map (fun r => BitVec.ofNat 32 (leNat r))

/-- Check 8. -/
def codeOk (bs : List Byte) (ss : List Sect) : Bool :=
  let segs := ss.filter (fun z => z.type == 1)
  (sectionOf ss 2).isSome && entryOk ss 2 && (codeMapOf bs ss).length == 256 &&
  (codeMapOf bs ss).all (fun o => o == 0xFFFFFFFF#32 || decide (o.toNat < segs.length)) &&
  segs.all (fun z => decide (z.size ≤ segmentMax))

/-- A buffer declaration (Table 3-10). -/
structure BufDecl where
  id : Word32
  placement : Nat
  alignLog2 : Nat
  cluster : Nat
  size : Nat
  initOff : Nat
  initSize : Nat

def bufDeclOf (r : List Byte) : BufDecl :=
  ⟨BitVec.ofNat 32 (leAt r 0 4), leAt r 4 1, leAt r 5 1, leAt r 6 2, leAt r 8 8, leAt r 16 8, leAt r 24 8⟩

/-- Bytes of the constants section. -/
def constantsSize (ss : List Sect) : Nat := ((sectionOf ss 3).map (·.1.size)).getD 0

def BufDecl.ok (b : BufDecl) (clusters consts : Nat) : Bool :=
  decide (b.placement ≤ 2 ∧ 6 ≤ b.alignLog2 ∧ b.alignLog2 ≤ 29 ∧ 1 ≤ b.size ∧ b.initSize ≤ b.size) &&
  (if b.placement = 1 then decide (b.cluster < clusters) else b.cluster == 0xFFFF) &&
  decide (b.initSize = 0 ∨ b.initOff + b.initSize ≤ consts)

/-- A buffer relocation (Table 3-11). -/
structure Reloc where
  sect : Nat
  kind : Nat
  id : Word32
  site : Nat
  addend : Int

def relocOf (r : List Byte) : Reloc :=
  ⟨leAt r 0 2, leAt r 2 1, BitVec.ofNat 32 (leAt r 4 4), leAt r 8 4, leInt r 12 4⟩

/-- Bytes of a site. -/
def siteWidth (kind : Nat) : Nat := match kind with | 0 => 8 | 1 => 4 | _ => 6

def Reloc.ok (r : Reloc) (ss : List Sect) (bufs : List BufDecl) : Bool :=
  decide (r.kind ≤ 2) && bufs.any (fun b => b.id == r.id) &&
  (match ss[r.sect]? with | none => false | some z => decide (r.site + siteWidth r.kind ≤ z.size))

/-- Check 9. -/
def relocOk (bs : List Byte) (ss : List Sect) (clusters : Nat) : Bool :=
  let bufs := (recordsOf bs ss 4).map bufDeclOf
  entryOk ss 4 && entryOk ss 5 && decide (bufs.length ≤ 65536) &&
  bufs.all (fun b => b.ok clusters (constantsSize ss) && decide ((bufs.filter (fun z => z.id == b.id)).length = 1)) &&
  ((recordsOf bs ss 5).map relocOf).all (fun r => r.ok ss bufs)

/-- The flag allocations: identifier, logical cluster, initial value (Table 3-12). -/
def flagInits (bs : List Byte) (ss : List Sect) : List (BitVec 16 × Nat × Word32) :=
  (recordsOf bs ss 6).map (fun r => (BitVec.ofNat 16 (leAt r 0 2), leAt r 2 2, BitVec.ofNat 32 (leAt r 4 4)))

/-- Check 10. -/
def flagsOk (bs : List Byte) (ss : List Sect) (clusters : Nat) : Bool :=
  let fs := flagInits bs ss
  entryOk ss 6 && fs.all (fun (f : BitVec 16 × Nat × Word32) => flagIdOk f.1 && decide (f.2.1 < clusters) &&
    decide ((fs.filter (fun (g : BitVec 16 × Nat × Word32) => g.1 == f.1 && g.2.1 == f.2.1)).length = 1))

/-- The digest of a container: over the whole file, its own field taken as zeros. -/
def containerDigest (bs : List Byte) : List Byte := shake256 (patchBytes bs 64 (List.replicate 64 0)) 64

/-- Checks 1 to 10 of Table 3-13 for a context that holds `held` clusters. Check 6 refuses a cluster_count of 0 too: the table
names only the upper bound (DESIGN CHOICE, log entry 93). -/
def containerCheck (bs : List Byte) (held : Nat) : Option Status :=
  let ss := sectionsOf bs
  let n := leAt bs 20 2
  firstFail [
    (sliceBytes bs 0 4 != [0x5A#8, 0x50#8, 0x43#8, 0x01#8] || leAt bs 32 8 != bs.length, zpcStatus 1),
    (leAt bs 4 2 != 1, zpcStatus 2),
    (containerDigest bs != sliceBytes bs 64 64, zpcStatus 3),
    (leAt bs 12 4 != 0x0801 || !bitOf (leAt bs 16 4) 1, zpcStatus 4),
    (leAt bs 8 2 != Config.zciMajor.toNat || decide (Config.zciMinor.toNat < leAt bs 10 2), zpcStatus 5),
    (!decide (1 ≤ n ∧ n ≤ held ∧ leAt bs 44 4 ≤ 16384), zpcStatus 6),
    (!sectionsOk bs, zpcStatus 7), (!codeOk bs ss, zpcStatus 8), (!relocOk bs ss n, zpcStatus 9), (!flagsOk bs ss n, zpcStatus 10)]

/-! ### Router records (R192, Table 8-1) -/

def parseRouter (b : List Byte) : RouterRec :=
  { layerId := BitVec.ofNat 32 (leAt b 0 4), nExperts := leAt b 4 2, topK := leAt b 6 1, scoreFn := leAt b 7 1
    policy := leAt b 8 1, renorm := bitOf (leAt b 9 1) 0, spillDepth := leAt b 10 1, nShawl := leAt b 11 1
    hidden := leAt b 12 2, fwdFormat := BitVec.ofNat 8 (leAt b 14 1), bwdFormat := BitVec.ofNat 8 (leAt b 15 1)
    capacity := leAt b 16 4, nSources := leAt b 20 2, nLocal := leAt b 22 2, routeScale := BitVec.ofNat 32 (leAt b 24 4)
    shawlScale := BitVec.ofNat 32 (leAt b 28 4), rowPitch := leAt b 32 4, poolId := leAt b 36 1, requester := leAt b 37 1
    expertMap := leAt b 40 8, sourceNodes := leAt b 48 8, bias := leAt b 56 8, combRegion := leAt b 64 8
    recvRegion := leAt b 72 8, zeroRow := leAt b 80 8, shawlRegion := leAt b 88 8, shawlStride := leAt b 96 8
    visitArray := leAt b 104 8 }

/-- Bytes of a row of `hidden` elements, if the format is one a row may have. -/
def rowSize (code : Byte) (hidden : Nat) : Option Nat :=
  match code.toNat with
  | 1 => some (4 * hidden) | 2 => some (2 * hidden) | 3 => some (2 * hidden) | 4 => some hidden | 5 => some hidden
  | 8 => if hidden % 32 = 0 then some (hidden + hidden / 32) else none
  | 9 => if hidden % 32 = 0 then some (hidden + hidden / 32) else none
  | _ => none

/-- Whether an FP32 value is finite and, where asked, above 0. -/
def finite32 (w : Word32) (positive : Bool) : Bool :=
  fld32 w 30 23 != 255 && (!positive || (fld32 w 31 31 == 0 && fld32 w 30 0 != 0))

/-- One record: the checks of Table 8-1; `raw` gives the reserved bytes. -/
def RouterRec.ok (r : RouterRec) (raw : List Byte) (bufs : List BufferRec) : Bool :=
  let none' := r.policy == 3
  decide (1 ≤ r.nExperts ∧ r.nExperts ≤ 4096 ∧ 1 ≤ r.topK ∧ r.topK ≤ 8 ∧ r.scoreFn ≤ 2 ∧ r.policy ≤ 3 ∧ leAt raw 9 1 ≤ 1) &&
  (if r.policy = 1 then decide (1 ≤ r.spillDepth ∧ r.spillDepth ≤ 8) else r.spillDepth == 0) &&
  decide (r.nShawl ≤ 4 ∧ 1 ≤ r.hidden ∧ r.hidden ≤ 32768) &&
  (if none' then r.capacity == 0 else decide (1 ≤ r.capacity ∧ r.capacity ≤ 2 ^ 20 ∧ r.nSources * r.capacity ≤ 2 ^ 20)) &&
  decide (1 ≤ r.nSources ∧ r.nSources ≤ 4096 ∧ r.nLocal ≤ 4096) &&
  finite32 r.routeScale true && finite32 r.shawlScale false &&
  (match rowSize r.fwdFormat r.hidden, rowSize r.bwdFormat r.hidden with
    | some a, some b => decide (r.rowPitch % 64 = 0 ∧ a ≤ r.rowPitch ∧ b ≤ r.rowPitch ∧ r.rowPitch ≤ 196608)
    | _, _ => false) &&
  decide (r.poolId ≤ 63 ∧ r.requester ≤ 31) && leAt raw 38 2 == 0 &&
  inPinned bufs r.expertMap (4 * r.nExperts) && inPinned bufs r.sourceNodes (2 * r.nSources) &&
  (if none' then r.combRegion == 0 else inPinned bufs r.combRegion (r.nExperts * r.capacity * r.rowPitch)) &&
  (if none' then r.recvRegion == 0 else inPinned bufs r.recvRegion (r.nLocal * r.nSources * r.capacity * r.rowPitch)) &&
  inPinned bufs r.zeroRow r.rowPitch &&
  (if r.nShawl = 0 then r.shawlRegion == 0 else inPinned bufs r.shawlRegion r.rowPitch) &&
  inPinned bufs r.visitArray (4 * r.nLocal) && (raw.drop 112).all (· == 0)

/-- The records of section 0x0008: layer ids unique. -/
def routersOk (raws : List (List Byte)) (bufs : List BufferRec) : Bool :=
  let ids := raws.map (fun b => leAt b 0 4)
  raws.all (fun b => (parseRouter b).ok b bufs) && decide (ids.Nodup)

/-! ### Collective descriptors (R377, R378, R390, Table 15-2) -/

def parseColl (b : List Byte) : CollDesc :=
  { op := leAt b 0 1, dims := leAt b 1 1, policy := leAt b 2 1, wireFormat := BitVec.ofNat 8 (leAt b 3 1)
    destKind := leAt b 4 1, destFormat := BitVec.ofNat 8 (leAt b 5 1), deadlineUs := leAt b 6 2, waitMs := leAt b 8 2
    ringMode := leAt b 10 1, members := leAt b 12 4, extents := words 2 (b.drop 16) 6, maxHops := words 1 (b.drop 28) 6
    maxClass := words 1 (b.drop 34) 6, chunks := leAt b 40 4, aux := leAt b 44 4, memberList := leAt b 48 8
    staging := leAt b 56 8, stagingBytes := leAt b 64 8, errorBuf := leAt b 72 8, carryBuf := leAt b 80 8
    permuteList := leAt b 88 8, permuteCount := leAt b 96 4, flagA := BitVec.ofNat 16 (leAt b 100 2)
    flagB := BitVec.ofNat 16 (leAt b 102 2), ringOffset := leAt b 104 4 }

/-- Operations with a reduction, which a policy may steer (R306). -/
def CollDesc.reduces (d : CollDesc) : Bool := d.op == 0 || d.op == 2

/-- Whether a flag identifier names a cluster flag. -/
def clusterFlagOk (f : BitVec 16) : Bool := flagIdOk f && flagIsCluster f

/-- The field checks of Table 15-2. A result in E4M3 or E5M2 is refused: a collective descriptor supplies no scale for it (R49). -/
def CollDesc.fieldsOk (d : CollDesc) (raw : List Byte) (bufs : List BufferRec) : Bool :=
  let ms := d.wireFormat == 0x10#8 || d.wireFormat == 0x11#8
  decide (d.op ≤ 6 ∧ 1 ≤ d.dims ∧ d.dims ≤ 6 ∧ (d.op ≠ 5 ∨ d.dims = 1)) &&
  (if d.reduces then decide (d.policy ≤ 1) else d.policy == 0) &&
  (match d.op with
    | 4 => d.wireFormat == 0
    | 6 => d.wireFormat == 0
    | 0 => d.wireFormat == 0x01#8 || d.wireFormat == 0x02#8 || ms
    | 2 => d.wireFormat == 0x01#8 || d.wireFormat == 0x02#8 || ms
    | _ => (fmtOf d.wireFormat).isSome) &&
  (d.destKind == 0 || (d.destKind == 1 && d.op == 0 && ms)) &&
  (!d.reduces || (if d.destKind = 1 then formatIsMs8 d.destFormat else ((fmtOf d.destFormat).map (fun f => f.scale != .tensor)).getD false)) &&
  decide (1 ≤ d.deadlineUs ∧ 1 ≤ d.waitMs) &&
  (if d.op = 5 then decide (d.ringMode ≤ 1) else d.ringMode == 0) && leAt raw 11 1 == 0 &&
  decide (2 ≤ d.members ∧ d.members ≤ 65536 ∧ d.members = extProduct d.exts) &&
  d.exts.all (fun e => decide (2 ≤ e)) && (d.extents.drop d.dims).all (· == 1) &&
  (d.maxHops.take d.dims).all (fun h => decide (1 ≤ h)) && (d.maxClass.take d.dims).all (fun k => decide (k ≤ 3)) &&
  decide (1 ≤ d.chunks ∧ d.chunks ≤ 2 ^ 24) &&
  (match d.op with
    | 5 => decide (d.aux % 64 = 0 ∧ 64 ≤ d.aux ∧ d.aux ≤ 12 * 1048576)
    | 4 => true
    | _ => d.aux == 0) &&
  inPinned bufs d.memberList (2 * d.members) && (d.stagingBytes == 0 || inPinned bufs d.staging d.stagingBytes) &&
  (d.errorBuf == 0 || inPinned bufs d.errorBuf 1) && (d.carryBuf == 0 || inPinned bufs d.carryBuf 1) &&
  (if d.op = 4 then inPinned bufs d.permuteList (24 * d.permuteCount) else d.permuteList == 0) &&
  ((d.op != 4 && d.op != 5) || clusterFlagOk d.flagA) && (d.op != 5 || clusterFlagOk d.flagB) &&
  d.ringOffset % 64 == 0 && (raw.drop 108).all (· == 0)

/-- Hops of a minimal path (R355). -/
def Topology.hops (t : Topology) (dest : Nat) : Nat :=
  let e := t.extents.take t.dims
  sumTo t.dims (fun d =>
    let n := e.getD d 1
    let delta := ((coordsOf e dest).getD d 0 + n - (coordsOf e t.node.toNat).getD d 0) % n
    min delta (n - delta))

/-- The placement limits toward one peer along dimension i (R390). -/
def CollDesc.nearEnough (d : CollDesc) (t : Topology) (i peer : Nat) : Bool :=
  decide (t.hops peer ≤ d.maxHops.getD i 0) &&
  t.ports.all (fun (p : Nat × Nat) => !((List.range t.dims).flatMap (t.minimal peer)).contains p.1 ||
    decide (p.2 ≤ d.maxClass.getD i 0))

/-- Bytes that the reduce stages of a descriptor need of staging, carry buffer and error terms (R378). -/
def CollDesc.stagingNeed (d : CollDesc) : Nat := sumTo d.dims (fun i => d.extent i * d.largest i * d.wire)
def CollDesc.carryNeed (d : CollDesc) : Nat := sumTo d.dims (fun i => (d.extent i - 1) * d.largest i * d.wire)
def CollDesc.errorNeed (d : CollDesc) : Nat := sumTo d.dims (fun i => if d.quantizes i then d.largest i * 32768 else 0)

/-- The further checks of R378. `content` reads declared memory, `cmLimit` is the addressable cluster memory. -/
def CollDesc.placedOk (d : CollDesc) (topo : Option Topology) (bufs : List BufferRec) (content : Nat → Nat → List Byte)
    (cmLimit : Nat) : Bool :=
  match topo with
  | none => false
  | some t =>
    let l := words 2 (content d.memberList (2 * d.members)) d.members
    let own := (memberPos l t.node.toNat).getD 0
    decide ((l.filter (fun n => n == t.node.toNat)).length = 1) &&
    (!d.reduces || (decide (d.stagingNeed ≤ d.stagingBytes) &&
      (if d.policy = 1 then d.carryBuf == 0 else inPinned bufs d.carryBuf d.carryNeed) &&
      (d.errorNeed == 0 || inPinned bufs d.errorBuf d.errorNeed))) &&
    (d.op != 3 || d.chunks % d.members == 0) &&
    (List.range d.dims).all (fun i => (List.range (d.extent i)).all (fun j =>
      j == d.coord own i || d.nearEnough t i (l.getD (d.onLine own i j) 0))) &&
    (d.op != 5 || decide (d.ringOffset + 2 * d.aux ≤ cmLimit))

/-- One descriptor. -/
def collOk (raw : List Byte) (topo : Option Topology) (bufs : List BufferRec) (content : Nat → Nat → List Byte) (cmLimit : Nat) : Bool :=
  (parseColl raw).fieldsOk raw bufs && (parseColl raw).placedOk topo bufs content cmLimit

/-! ### Placing buffers (R423) -/

/-- Lowest address that program load gives a buffer; it is aligned to every align_log2. -/
def loadBase : Nat := 536870912

/-- Placement code of a code segment in a context's list of what its last container held. -/
def plCode : Nat := 3

/-- What a container places: its buffers, then its code segments. -/
def placedThings (bs : List Byte) (ss : List Sect) : List BufDecl :=
  (recordsOf bs ss 4).map bufDeclOf ++ (ss.filter (fun z => z.type == 1)).zipIdx.map (fun z =>
    ⟨BitVec.ofNat 32 z.2, plCode, 16, 0xFFFF, z.1.size, 0, 0⟩)

/-- Bytes a thing takes of virtual memory: whole pages of its own. -/
def vaSize (n : Nat) : Nat := alignUp (max n 1) 65536

/-- Placing, one thing after another: what is placed, whether all had room. A thing of the same container goes to its former
place; else free values choose. -/
structure Placing where
  done : List BufferRec := []
  ok : Bool := true
  ctr : Nat

def placeOne (used : List (Nat × Nat)) (former : List BufferRec) (cmLimit : Nat) (p : Placing) (b : BufDecl) : Placing :=
  let put (a : Option Nat) : Placing :=
    { done := p.done ++ [⟨b.id, b.placement, b.cluster, b.size, a.getD 0⟩], ok := p.ok && a.isSome, ctr := p.ctr + 1 }
  match former.find? (fun z => z.id == b.id && (z.placement == plCode) == (b.placement == plCode)) with
  | some z => put (some z.place)
  | none =>
    if b.placement = 1 then
      put (placeFree ((p.done.filter (fun z => z.placement == 1 && z.cluster == b.cluster)).map (fun z => (z.place, z.size)))
        0 cmLimit (2 ^ b.alignLog2) b.size (Config.freeNat p.ctr))
    else
      put (placeFree (used ++ (p.done.filter (fun z => z.placement != 1)).map (fun z => (z.place, vaSize z.size)))
        loadBase saveBase (max 65536 (2 ^ b.alignLog2)) (vaSize b.size) (Config.freeNat p.ctr))

/-- Bytes of a section with its relocations written (Table 3-11): the placed address plus the addend, modulo the site's width. -/
def relocated (bs : List Byte) (ss : List Sect) (placed : List BufferRec) (i : Nat) : List Byte :=
  match ss[i]? with
  | none => []
  | some z =>
    ((recordsOf bs ss 5).map relocOf).foldl (fun b r =>
      if r.sect = i then
        let w := siteWidth r.kind
        let a : Int := (((placed.find? (fun p => p.id == r.id && p.placement != plCode)).map (·.place)).getD 0 : Nat)
        patchBytes b r.site (leBytes w ((a + r.addend) % (2 ^ (8 * w) : Nat)).toNat)
      else b) (sliceBytes bs z.off z.size)

/-- The relocated records of the section of a type. -/
def relocatedRecords (bs : List Byte) (ss : List Sect) (placed : List BufferRec) (t : Nat) : List (List Byte) :=
  match sectionOf ss t with
  | none => []
  | some z =>
    let b := relocated bs ss placed z.2
    (List.range z.1.count).map (fun i => sliceBytes b (z.1.entry * i) z.1.entry)

/-- The initial contents of a buffer: bytes of the constants; what follows them is 0. -/
def initBytes (consts : List Byte) (b : BufDecl) : List Byte := sliceBytes consts b.initOff b.initSize

/-! ### Memory of a loaded program (check 12) -/

/-- The rights of what program load maps: buffers are read and written; pinned ones are reachable from other devices as well
(a message writes into them); code is pinned, read and fetched (log entry 45). -/
def loadRights (placement : Nat) : Nat := match placement with | 2 => 0x198 | 3 => 0xA8 | _ => 0x18

/-- Clears bytes of context x's memory, by whole pages. -/
def State.zeroRange (s : State) (x va n : Nat) : State :=
  (pagePieces va n).foldl (fun t p => match t.walkTables (t.ctx x).root p.1 with
    | .error _ => t
    | .ok f =>
      let a := f.pa p.1
      { t with mem := { bytes := t.mem.bytes.filter (fun e => decide (e.1 < a ∨ a + p.2 ≤ e.1))
                        delta := t.mem.delta.filter (fun e => decide (64 * e.1 < a ∨ a + p.2 ≤ 64 * e.1)) } }) s

/-- Whether a placed thing keeps the mapping that it found: all of its range is mapped to near memory (R423). -/
def State.found (s : State) (x : Nat) (b : BufferRec) : Bool :=
  b.placement != 1 && s.allMapped x b.place (vaSize b.size) && !s.anyLeaf x b.place (vaSize b.size) pteFar

/-- Whether a thing that must be pinned would keep a mapping that is not (R262). -/
def State.foundUnpinned (s : State) (x : Nat) (b : BufferRec) : Bool :=
  (b.placement == 2 || b.placement == plCode) && s.found x b && !s.rangePinned x b.place (vaSize b.size)

/-- Maps one placed thing. Code on a mapping that it found gets the rights of code: no agent of the context writes it (R58). -/
def State.mapThing (x : Nat) (s : State) (b : BufferRec) : Option State :=
  if b.placement = 1 then some s
  else if s.found x b then
    if b.placement = plCode then
      (s.rewrite x b.place (vaSize b.size) (fun e => withFld e 8 3 (loadRights plCode / 8))).map (fun t =>
        t.dropTlb x (fun p => decide (b.place / 65536 ≤ p ∧ p < (b.place + vaSize b.size) / 65536)))
    else some s
  else if s.noneMapped x b.place (vaSize b.size) then s.mapNear x (loadRights b.placement) b.place (vaSize b.size)
  else none

/-- Fills one buffer: a placement-2 buffer that was found again keeps its bytes (R423). -/
def State.fillBuffer (s : State) (x : Nat) (kept : Bool) (b : BufferRec) (bytes : List Byte) : State :=
  if b.placement = 1 then
    match (s.ctx x).physical b.cluster with
    | some k => s.cmCommit k (byteWrites b.place bytes) []
    | none => s
  else if kept then s
  else (s.zeroRange x b.place (vaSize b.size)).lanternWrite x b.place bytes

/-- Everything that program load knows once the container is placed. -/
structure Loading where
  things : List BufferRec
  decls : List BufDecl
  consts : List Byte
  segs : List (List Byte)
  prog : Program
  ok : Bool
  ctr : Nat

/-- Places a sound container for context x. -/
def State.loading (s : State) (x : Nat) (bs : List Byte) : Loading :=
  let ss := sectionsOf bs
  let v := s.ctx x
  let digest := sliceBytes bs 64 64
  let former := if v.lastDigest = digest then v.lastBuffers else []
  let pocket := if bitOf (leAt bs 40 4) 0 then leAt bs 44 4 else 0
  let things := placedThings bs ss
  let p := things.foldl (placeOne (v.maps.map (fun (m : Nat × Nat × Nat) => (m.1, m.2.1))) former
    (cmSize - Ctx.pocketBytes { v with pocketKib := pocket })) { ctr := s.freeCtr }
  let segs := ((ss.zipIdx.filter (fun z => z.1.type == 1)).map (fun z => relocated bs ss p.done z.2))
  let code := (p.done.filter (fun b => b.placement == plCode)).map (·.place)
  { things := p.done, decls := things, consts := (sectionOf ss 3).elim [] (fun z => relocated bs ss p.done z.2), segs := segs
    ok := p.ok, ctr := p.ctr
    prog := { segments := code.zip segs, codeMap := codeMapOf bs ss, buffers := p.done.filter (fun b => b.placement != plCode)
              flagInit := flagInits bs ss, colls := (relocatedRecords bs ss p.done 7).map parseColl
              routers := (relocatedRecords bs ss p.done 8).map parseRouter
              shards := (parseShards ((relocatedRecords bs ss p.done 9).flatten)).map (·.1), digest := digest } }

/-- What declared memory will hold: the bytes of a buffer that is found again, else its initial contents. -/
def State.loadContent (s : State) (x : Nat) (l : Loading) (a n : Nat) : List Byte :=
  match (l.things.zip l.decls).find? (fun z => z.1.placement == 2 && decide (z.1.place ≤ a ∧ a + n ≤ z.1.place + z.1.size)) with
  | none => sliceBytes [] 0 n
  | some z =>
    if s.found x z.1 then (s.peekVa x .collective a n).getD (sliceBytes [] 0 n)
    else sliceBytes (initBytes l.consts z.2) (a - z.1.place) n

/-- Check 11: collective, router and shard records. -/
def State.recordCheck (s : State) (x : Nat) (bs : List Byte) (l : Loading) : Option Status :=
  let ss := sectionsOf bs
  let bufs := l.prog.buffers
  let pocket := if bitOf (leAt bs 40 4) 0 then leAt bs 44 4 else 0
  let limit := cmSize - Ctx.pocketBytes { s.ctx x with pocketKib := pocket }
  let colls := relocatedRecords bs ss l.things 7
  let shards := relocatedRecords bs ss l.things 9
  firstFail [
    (!entryOk ss 7 || decide (128 < colls.length) ||
      colls.any (fun r => !collOk r s.xpt.topo bufs (s.loadContent x l) limit), zpcStatus 0x0D),
    (!entryOk ss 8 || !routersOk (relocatedRecords bs ss l.things 8) bufs, zpcStatus 0x0B),
    (!entryOk ss 9 || ((sectionOf ss 9).isSome &&
      !s.shardTableOk x bufs (BitVec.ofNat 32 (leAt shards.flatten 12 4)) (parseShards shards.flatten)), zpcStatus 0x0C)]

/-- The state with the program in it; none where memory is short. -/
def State.loaded (s : State) (x : Nat) (bs : List Byte) (l : Loading) : Option State := do
  if !l.ok then none
  else
    let kept := l.things.map (s.found x)
    let t ← eachSome (State.mapThing x) l.things { s with freeCtr := l.ctr }
    let t := (l.things.zip (l.decls.zip kept)).foldl (fun (u : State) (z : BufferRec × BufDecl × Bool) =>
      if z.1.placement = plCode then u else u.fillBuffer x (z.1.placement == 2 && z.2.2) z.1 (initBytes l.consts z.2.1)) t
    let t := l.prog.segments.foldl (fun (u : State) (g : Nat × List Byte) => u.lanternWrite x g.1 g.2) t
    let pocket := if bitOf (leAt bs 40 4) 0 then leAt bs 44 4 else 0
    let held (a n : Nat) : Bool := (l.things.zip kept).any (fun z =>
      z.2 && z.1.placement == 2 && decide (z.1.place ≤ a ∧ a + n ≤ z.1.place + z.1.size))
    let t := t.modCtx x (fun v => { v with program := some l.prog, pocketKib := pocket
                                           journaled := v.journaled.filter (fun z => held z.1 102400)
                                           epochAt := v.epochAt.filter (fun a => held a 64)
                                           lastDigest := l.prog.digest, lastBuffers := l.things })
    let size := (t.ctx x).pocketBytes / 4096
    some ((t.ctx x).clusters.foldl (fun u k => u.modCluster k (fun c =>
      { c with pocket := { c.pocket with level := withFld c.pocket.level 44 32 size } })) t)

/-- The loading of a container: its status, and the numbers of its segments and buffers. Where a former place now is unpinned,
the load is refused with MAP_NOT_PINNED before memory is obtained (R262; DESIGN CHOICE of the order, log entry 93). -/
def State.loadProgram (s : State) (x : Nat) (bs : List Byte) : State × Status × List Byte :=
  match containerCheck bs (s.ctx x).clusters.length with
  | some st => (s, st, [])
  | none =>
    let l := s.loading x bs
    match s.recordCheck x bs l with
    | some st => (s, st, [])
    | none => if l.things.any (s.foundUnpinned x) then (s, mapStatus 2, []) else match s.loaded x bs l with
      | none => (s, zpcStatus 0x0E, [])
      | some t => match t.loadShards x with
        | .error _ => (t.modCtx x (fun v => { v with program := none }), fltTransfer, leFields [(2, 0), (2, 0), (4, 0)])
        | .ok u => (u, stDone, leFields [(2, l.segs.length), (2, 0), (4, l.prog.buffers.length)])

/-- PROG_LOAD. -/
def execProgLoad (q : Req) (ctx region offset len : Nat) (io : FarIO) (s : State) : Host.Outcome State Fault Refusal :=
  let v := s.ctx ctx
  let own := firstFail [(v.state != .loaded || v.program.isSome, ctxStatusCode 2)]
  .next (s.command (.progLoad q ctx region offset len io) q 0x30 24 (some ctx) own (fun t =>
    match t.farRead region offset len io with
    | (u, .error _) => (u, fltTransfer, leFields [(2, 0), (2, 0), (4, 0)])
    | (u, .ok bs) => u.loadProgram ctx bs))

end Sys2Proof.Machine
end

