-- ==== Sys2Proof/Machine/Setup.lean ====
section
/-! DEFINITION. Fabric, host-port and setup commands (spec/17_firmware_mailbox_interface.md Table 17-7, R424): topology, links and
their tests, the host port, queue pairs, windows, records of a loaded program. -/

namespace Sys2Proof.Machine

/-! ### TOPOLOGY_LOAD (R347, R348, Table 14-1) -/

def parseTopology (b : List Byte) : Topology :=
  { dims := leAt b 0 1, node := BitVec.ofNat 16 (leAt b 2 2), extents := words 2 (b.drop 4) 6
    ports := (words 2 (b.drop 16) 24).map (fun w => (bitsOf w 3 0, bitsOf w 5 4)), weights := words 1 (b.drop 64) 6 }

/-- Whether some port has a direction. -/
def Topology.hasPort (t : Topology) (dir : Nat) : Bool := t.ports.any (fun (p : Nat × Nat) => p.1 == dir)

/-- The six checks of R348. -/
def Topology.ok (t : Topology) : Bool :=
  decide (1 ≤ t.dims ∧ t.dims ≤ 6) &&
  (t.extents.take t.dims).all (fun e => decide (2 ≤ e)) && (t.extents.drop t.dims).all (· == 1) &&
  decide (t.nodes ≤ 65536 ∧ t.node.toNat < t.nodes) &&
  t.ports.all (fun (p : Nat × Nat) => p.1 == 15 || decide (p.1 / 2 < t.dims)) &&
  (List.range t.dims).all (fun d => t.hasPort (2 * d) && (decide (t.extents.getD d 0 < 3) || t.hasPort (2 * d + 1))) &&
  t.weights.all (fun w => decide (1 ≤ w ∧ w ≤ 15))

/-- TOPOLOGY_LOAD. -/
def execTopologyLoad (q : Req) (record : List Byte) (s : State) : Host.Outcome State Fault Refusal :=
  let t := parseTopology record
  let own := firstFail [
    (!t.ok, xptStatus 0x30), (!s.xpt.outbound.isEmpty || !s.xpt.inbound.isEmpty, xptStatus 0x31)]
  .next (s.command (.topologyLoad q record) q 0x40 128 none own (fun u => ({ u with xpt := { u.xpt with topo := some t } }, stDone, [])))

/-! ### LINK_CFG (R332, R333, R337, R364, R369) -/

/-- The rule of a training table. -/
def trainTableBad (es : List TrainEntry) : Bool :=
  let ok (n : Nat) : Bool := decide (n < es.length) || n == 62 || n == 63
  es.any (fun e => decide (9 < e.action ∨ 3 < e.gen) || !ok e.nextOk || !ok e.nextFail)

/-- LINK_CFG op 0. -/
def execLinkCfgTrainingTable (q : Req) (entries : List TrainEntry) (s : State) : Host.Outcome State Fault Refusal :=
  let own := firstFail [
    (!decide (1 ≤ entries.length ∧ entries.length ≤ 62) || entries.any (fun e => decide (15 < e.retries) || e.timeoutUs == 0), genRange),
    (trainTableBad entries || (List.range 24).any (fun p => (s.port p).state != lsOff && (s.port p).state != lsFailed), lnkStatus 1)]
  .next (s.command (.linkCfgTrainingTable q entries) q 0x41 (16 + 16 * entries.length) none own (fun t => ({ t with trainTable := entries }, stDone, [])))

/-- Writes a register of every port of a mask. -/
def State.overPorts (s : State) (mask : Word32) (f : State → Nat → State) : State :=
  (List.range 24).foldl (fun t p => if bitOf mask.toNat p then f t p else t) s

/-- A check of a register's rule, as a command's own check. -/
def ruleOf (r : Status) : Option Status := if r = stDone then none else some r

/-- LINK_CFG op 1: CUF_PORT_CFG of every port in the mask. -/
def execLinkCfgPortCfg (q : Req) (mask : Word32) (value : Word64) (s : State) : Host.Outcome State Fault Refusal :=
  let v : Word32 := value.truncate 32
  .next (s.command (.linkCfgPortCfg q mask value) q 0x41 16 none (ruleOf (s.writePortCfg 0 v).1) (fun t =>
    (t.overPorts mask (fun u p => (u.writePortCfg p v).2), stDone, [])))

/-- CUF_CREDIT_CFG (R332). -/
def State.writeCreditCfg (s : State) (p : Nat) (v : Word64) : Status × State :=
  let fs := creditFields v
  match firstFail [
    (fld v 63 48 != 0, genReserved), (fs.any (· == 0) || decide (144 < fs.foldl (· + ·) 0), genRange)] with
  | some st => (st, s)
  | none => (stDone, s.modPort p (fun u => { u with creditCfg := v }))

/-- LINK_CFG op 2. -/
def execLinkCfgCreditCfg (q : Req) (mask : Word32) (value : Word64) (s : State) : Host.Outcome State Fault Refusal :=
  .next (s.command (.linkCfgCreditCfg q mask value) q 0x41 16 none (ruleOf (s.writeCreditCfg 0 value).1) (fun t =>
    (t.overPorts mask (fun u p => (u.writeCreditCfg p value).2), stDone, [])))

/-- XPT_LINK_EXCL (R369). -/
def State.writeLinkExcl (s : State) (v : Word32) : Status × State :=
  if fld32 v 31 24 ≠ 0 then (genReserved, s) else (stDone, { s with xpt := { s.xpt with linkExcl := v } })

/-- LINK_CFG op 3. -/
def execLinkCfgLinkExcl (q : Req) (value : Word64) (s : State) : Host.Outcome State Fault Refusal :=
  let v : Word32 := value.truncate 32
  .next (s.command (.linkCfgLinkExcl q value) q 0x41 16 none (ruleOf (s.writeLinkExcl v).1) (fun t => ((t.writeLinkExcl v).2, stDone, [])))

/-- XPT_TIMER_CFG (R364). -/
def State.writeTimerCfg (s : State) (v : Word64) : Status × State :=
  match firstFail [
    (fld v 39 32 != 0, genReserved),
    (fld v 63 48 == 0 || fld v 47 40 == 0 || fld v 31 16 == 0 || fld v 15 0 == 0 ||
      decide (fld v 31 16 < (fld v 47 40 + 2) * fld v 15 0), genRange)] with
  | some st => (st, s)
  | none => (stDone, { s with xpt := { s.xpt with timerCfg := v } })

/-- LINK_CFG op 4. -/
def execLinkCfgTimerCfg (q : Req) (value : Word64) (s : State) : Host.Outcome State Fault Refusal :=
  .next (s.command (.linkCfgTimerCfg q value) q 0x41 16 none (ruleOf (s.writeTimerCfg value).1) (fun t => ((t.writeTimerCfg value).2, stDone, [])))

/-! ### LINK_TEST (R342 to R344, R393, R424) -/

/-- The lanes of a mask. -/
def testLanes (f : LinkTestF) : List Nat := (List.range 8).filter (fun l => bitOf f.laneMask l)

/-- Lanes per side. -/
def testWidth (f : LinkTestF) : Nat := if f.side = 0 then 4 else 8

/-- The field ranges of a LINK_TEST. -/
def testRangeBad (f : LinkTestF) : Bool :=
  decide (1 < f.side ∨ 4 < f.pattern ∨ 2 ^ (testWidth f) ≤ f.laneMask) || (if f.side = 0 then decide (24 ≤ f.port) else f.port != 0)

/-- Whether the port of a test is in TEST. -/
def State.inTest (s : State) (f : LinkTestF) : Bool :=
  if f.side = 0 then (s.port f.port).state == lsTest else s.hp.testUntil.isSome

/-- A record for each lane whose content the operation does not give (log entry 47). -/
def State.openRecords (s : State) (f : LinkTestF) : State × List Byte := (s.drawn, s.freeBytes (8 * (testLanes f).length))

/-- ENTER of a Cuff port: TEST, from ACTIVE or QUIET by a link reset with cause COMMAND. -/
def State.enterTest (s : State) (p : Nat) : State :=
  let u := s.port p
  let t := if u.state = lsActive ∨ u.state = lsQuiet then s.linkReset p lcCommand else s
  let g := if u.gen = 0 then u.negotiated else u.gen
  (t.modPort p (fun v => { v.setState lsTest 0 with entryDeadline := none, negotiated := g })).linkChange p

/-- LINK_TEST op 0. ENTER of the host port answers first and then takes the port down. -/
def execLinkTestEnter (q : Req) (f : LinkTestF) (s : State) : Host.Outcome State Fault Refusal :=
  let own := firstFail [(testRangeBad f, genRange), (f.side == 1 && s.qpBusy, hpStatus 1)]
  let t := s.command (.linkTestEnter q f) q 0x42 16 none own (fun t =>
    let r := t.openRecords f
    (if f.side = 0 then r.1.enterTest f.port else r.1, stDone, r.2))
  .next (if f.side = 1 ∧ own.isNone ∧ s.accepts q 0x42 16 none then
      { t with hp := { t.hp with linkUp := false, testUntil := some (s.now + f.dwellUs * 1000) } }
    else t)

/-- The value that SET programs. -/
def testCtl (f : LinkTestF) : Word32 :=
  BitVec.ofNat 32 (bitsOf f.dwellUs 0 0 * 2 ^ 31 + bitsOf f.dwellUs 1 1 * 2 ^ 30 + f.invert % 2 * 2 ^ 28 + f.pattern % 8 * 2 ^ 25)

/-- CUF_LANE_PRBS_CTL of a host-port lane, as that of a Cuff lane (R394). -/
def State.writeHostPrbsCtl (s : State) (lane : Nat) (v : Word32) : State :=
  let start := bitOf v.toNat 30
  let t := if start then s else (s.prbsNow true 0 lane).1
  { t with hp := { t.hp with
      prbsCtl := sset prbsCtlDefault t.hp.prbsCtl lane (prbsCtlWrite v)
      prbs := if start then sset 0 t.hp.prbs lane 0 else t.hp.prbs
      prbsRest := if start then sset 0 t.hp.prbsRest lane 0 else t.hp.prbsRest
      lockAt := sset 0 t.hp.lockAt lane 0 } }

/-- The lanes of a test programmed. -/
def State.testProgram (s : State) (f : LinkTestF) : State :=
  (testLanes f).foldl (fun u l =>
    if f.side = 0 then (u.writePrbsCtl f.port l (testCtl f)).2 else u.writeHostPrbsCtl l (testCtl f)) s

/-- LINK_TEST op 1. -/
def execLinkTestSet (q : Req) (f : LinkTestF) (s : State) : Host.Outcome State Fault Refusal :=
  let own := firstFail [(testRangeBad f, genRange), (!s.inTest f, lnkStatus 2)]
  .next (s.command (.linkTestSet q f) q 0x42 16 none own (fun t =>
    let r := t.openRecords f
    (r.1.testProgram f, stDone, r.2)))

/-- The counts of the lanes of a test as they stand now. -/
def State.testCounts (s : State) (f : LinkTestF) : State × List Byte :=
  (testLanes f).foldl (fun (a : State × List Byte) l =>
    let z := a.1.prbsNow (f.side == 1) f.port l
    (z.1, a.2 ++ leBytes 8 z.2.toNat)) (s, [])

/-- LINK_TEST op 2; the counts of the host port stay readable after its test. -/
def execLinkTestRead (q : Req) (f : LinkTestF) (s : State) : Host.Outcome State Fault Refusal :=
  let own := firstFail [(testRangeBad f, genRange), (f.side == 0 && !s.inTest f, lnkStatus 2)]
  .next (s.command (.linkTestRead q f) q 0x42 16 none own (fun t =>
    let r := t.testCounts f
    (r.1, stDone, r.2)))

/-- The target ratio of a scan: 1.0 x 10^-6 by default. -/
def scanTarget (f : LinkTestF) : Word32 := if f.targetBer = 0 then 0x358637BD#32 else f.targetBer

/-- The dwell of a scan at each point in microseconds: 10 by default. -/
def scanDwell (f : LinkTestF) : Nat := if f.dwellUs = 0 then 10 else f.dwellUs

/-- Steps in one direction before the first point whose ratio exceeds the target. -/
def margin (target : Word32) (points : List Word32) : Nat := (points.takeWhile (fun r => ratioAtMost r target)).length

/-- Points at which a scan dwells in one direction: the point that stops it among them. -/
def visited (target : Word32) (points : List Word32) : Nat := min points.length (margin target points + 1)

/-- The opening of an eye: in voltage, then in phase. Of three eyes the smallest is reported; what makes an eye smaller is open (DESIGN
CHOICE, log entry 81: the smaller opening in voltage, then in phase, then the lower eye). -/
def opening (target : Word32) (e : Eye) : Nat × Nat :=
  (margin target e.up + margin target e.down, margin target e.left + margin target e.right)

/-- The smallest eye of a lane and its number. -/
def smallestEye (target : Word32) (eyes : List Eye) : Option (Eye × Nat) :=
  eyes.zipIdx.foldl (fun (b : Option (Eye × Nat)) z => match b with
    | none => some z
    | some y =>
      let a := opening target z.1
      let c := opening target y.1
      if a.1 < c.1 ∨ (a.1 = c.1 ∧ a.2 < c.2) then some z else some y) none

/-- The record of a lane: margins in 1/64 UI and in millivolts, 2 mV a step, and the eye, 0xFF for NRZ (R344). -/
def eyeRecord (target : Word32) (pam4 : Bool) (eyes : List Eye) : List Byte :=
  let z := (smallestEye target (eyes.take (if pam4 then 3 else 1))).getD (⟨[], [], [], []⟩, 0)
  leFields [(1, min 255 (margin target z.1.left)), (1, min 255 (margin target z.1.right)),
    (2, min 65535 (2 * margin target z.1.up)), (2, min 65535 (2 * margin target z.1.down)), (1, if pam4 then z.2 else 0xFF), (1, 0)]

/-- The points that the scan of a lane visits. -/
def scanPoints (target : Word32) (pam4 : Bool) (eyes : List Eye) : Nat :=
  ((eyes.take (if pam4 then 3 else 1)).map (fun e =>
    visited target e.left + visited target e.right + visited target e.up + visited target e.down)).foldl (· + ·) 0

/-- Whether a port's lanes signal PAM4 (Tables 13-1, 16-1). -/
def State.pam4 (s : State) (f : LinkTestF) : Bool :=
  f.side == 1 || decide (1 < (if (s.port f.port).gen = 0 then (s.port f.port).negotiated else (s.port f.port).gen))

/-- The eyes of each lane that a scan looks at. -/
def scanLanes (f : LinkTestF) (eyes : List (List Eye)) : List (List Eye) :=
  (List.range (testLanes f).length).map (fun i => eyes.getD i [])

/-- What a scan leaves of a Cuff port: awake, no entry into Quiet under way, and Quiet held off until it ends. -/
def State.scanned (s : State) (f : LinkTestF) (eyes : List (List Eye)) : State :=
  let points := ((scanLanes f eyes).map (scanPoints (scanTarget f) (s.pam4 f))).foldl max 0
  if f.side = 0 then (s.wakePort f.port).modPort f.port (fun u =>
    { u with pm := .none, pmDue := 0, pmAt := none, scanUntil := max u.scanUntil (s.now + 1000 * scanDwell f * points) })
  else s

/-- LINK_TEST op 3 (R344): the record of each lane, whose error ratios the row gives. A Quiet port wakes, an entry into Quiet under way is
given up, and Quiet is held off until the scan ends; the lanes are scanned at once, the eyes of a lane in turn (log entry 81). -/
def execLinkTestScan (q : Req) (f : LinkTestF) (eyes : List (List Eye)) (s : State) : Host.Outcome State Fault Refusal :=
  let st := (s.port f.port).state
  let ready := if f.side = 0 then st == lsActive || st == lsQuiet || st == lsTest else s.inTest f
  let own := firstFail [(testRangeBad f, genRange), (!ready, lnkStatus 2)]
  .next (s.command (.linkTestScan q f eyes) q 0x42 16 none own (fun t =>
    (t.scanned f eyes, stDone, (scanLanes f eyes).flatMap (eyeRecord (scanTarget f) (t.pam4 f)))))

/-- LINK_TEST op 4: training from entry 0. -/
def execLinkTestLeave (q : Req) (f : LinkTestF) (s : State) : Host.Outcome State Fault Refusal :=
  let own := firstFail [(testRangeBad f, genRange)]
  .next (s.command (.linkTestLeave q f) q 0x42 16 none own (fun t =>
    let r := t.openRecords f
    (if f.side = 1 then
        let u := r.1.hostTestEnds
        { u with hp := { u.hp with testUntil := none, linkUp := true } }
      else if (r.1.port f.port).enabled then (r.1.drainPort f.port).startTraining f.port else r.1, stDone, r.2)))

/-! ### HP_PORT, HP_ADDR, HP_MACSEC (R393, R396 to R398) -/

/-- HP_PORT: the response is sent before the port retrains. -/
def execHpPort (q : Req) (value : Word32) (s : State) : Host.Outcome State Fault Refusal :=
  let own := ruleOf (s.writeHpCfg value).1
  let t := s.command (.hpPort q value) q 0x43 8 none own (fun t => (t, stDone, []))
  .next (if own.isNone ∧ s.accepts q 0x43 8 none then (t.writeHpCfg value).2 else t)

/-- HP_ADDR. -/
def execHpAddr (q : Req) (ipv4 : Word32) (v4Prefix v6Prefix : Byte) (ipv6 : BitVec 128) (s : State) :
    Host.Outcome State Fault Refusal :=
  .next (s.command (.hpAddr q ipv4 v4Prefix v6Prefix ipv6) q 0x44 24 none none (fun t => ({ t with hp := { t.hp with
    ipv4 := ipv4, v4Prefix := v4Prefix, ipv6 := ipv6, v6Prefix := v6Prefix } }, stDone, [])))

/-- Whether a key belongs to the secure channel of a direction; there is one transmit channel. -/
def MacsecKey.onChannel (k : MacsecKey) (dir sc : Nat) : Bool := k.dir == dir && (dir == 0 || k.sc == sc)

/-- HP_MACSEC op 0: one more channel under a number that is taken, or a third association of a channel, is refused. -/
def execHpMacsecInstall (q : Req) (dir sc an : Nat) (ssci : Word32) (sci pn : Word64) (key : BitVec 256) (salt : BitVec 96) (s : State) :
    Host.Outcome State Fault Refusal :=
  let mine := s.hp.keys.filter (fun k => k.onChannel dir sc)
  let own := firstFail [
    (decide (1 < dir ∨ 3 < sc ∨ 3 < an), genRange),
    (mine.any (fun k => k.sci != sci) || decide (2 ≤ (mine.filter (fun k => k.an != an)).length), hpStatus 3)]
  .next (s.command (.hpMacsecInstall q dir sc an ssci sci pn key salt) q 0x45 68 none own (fun t => ({ t with hp := { t.hp with
    keys := t.hp.keys.filter (fun k => !(k.onChannel dir sc && k.an == an)) ++ [⟨dir, sc, an, ssci, sci, pn, key, salt⟩] } }, stDone, [])))

/-- HP_MACSEC op 1. -/
def execHpMacsecRemove (q : Req) (dir sc an : Nat) (s : State) : Host.Outcome State Fault Refusal :=
  let own := firstFail [(decide (1 < dir ∨ 3 < sc ∨ 3 < an), genRange)]
  .next (s.command (.hpMacsecRemove q dir sc an) q 0x45 68 none own (fun t => ({ t with hp := { t.hp with
    keys := t.hp.keys.filter (fun k => !(k.onChannel dir sc && k.an == an)) } }, stDone, [])))

/-! ### HP_QP (R400) -/

/-- The response of HP_QP. -/
def Qp.payload (v : Qp) : List Byte := leFields [(4, v.localQpn.toNat), (4, v.psn.toNat)]

/-- The field ranges of HP_QP. -/
def qpRangeBad (mtu t retry : Nat) : Bool := decide (2 < mtu ∨ 31 < t ∨ 7 < retry)

/-- t, with 0 for the default. -/
def qpTimeout (t : Nat) : Nat := if t = 0 then 14 else t

/-- HP_QP op 0: the pair's number and first packet number are the device's choice (log entry 48). -/
def execHpQpCreate (q : Req) (qp mtu t retry : Nat) (s : State) : Host.Outcome State Fault Refusal :=
  let own := firstFail [
    (qpRangeBad mtu t retry, genRange), (decide (1023 < qp) || (s.qp qp).state != .absent, hpStatus 2)]
  .next (s.command (.hpQpCreate q qp mtu t retry) q 0x46 32 none own (fun u =>
    let v : Qp := { state := .created, mtu := mtu, t := qpTimeout t, retry := retry, retriesLeft := retry
                    localQpn := Config.freeWord32 u.freeCtr &&& 0xFFFFFF#32, psn := Config.freeWord32 (u.freeCtr + 1) &&& 0xFFFFFF#32 }
    (({ u with freeCtr := u.freeCtr + 2 }).setQp qp v, stDone, v.payload)))

/-- HP_QP op 1. -/
def execHpQpConnect (q : Req) (qp mtu t retry : Nat) (remoteQpn psn : Word32) (remoteIp : BitVec 128) (s : State) :
    Host.Outcome State Fault Refusal :=
  let own := firstFail [
    (qpRangeBad mtu t retry, genRange), (decide (1023 < qp) || (s.qp qp).state != .created, hpStatus 2)]
  .next (s.command (.hpQpConnect q qp mtu t retry remoteQpn psn remoteIp) q 0x46 32 none own (fun u =>
    let v := { u.qp qp with state := .connected, mtu := mtu, t := qpTimeout t, retry := retry, retriesLeft := retry, ackAt := none
                            remoteQpn := remoteQpn, remotePsn := psn, remoteIp := remoteIp, rate := u.hpRate, cnpAt := none }
    (u.setQp qp v, stDone, v.payload)))

/-- HP_QP op 2: back to the created state; operations pending on the pair end faulted, as on an error. -/
def execHpQpReset (q : Req) (qp : Nat) (s : State) : Host.Outcome State Fault Refusal :=
  let own := firstFail [(decide (1023 < qp) || (s.qp qp).state == .absent, hpStatus 2)]
  .next (s.command (.hpQpReset q qp) q 0x46 32 none own (fun u =>
    let w := u.qpError qp
    let v := { w.qp qp with state := .created, retriesLeft := (w.qp qp).retry, cnpAt := none }
    (w.setQp qp v, stDone, v.payload)))

/-- HP_QP op 3. -/
def execHpQpDestroy (q : Req) (qp : Nat) (s : State) : Host.Outcome State Fault Refusal :=
  let own := firstFail [
    (decide (1023 < qp) || (s.qp qp).state == .absent, hpStatus 2),
    (s.hp.regions.any (fun e => (e.2.map (·.qp)) == some qp), genBusy)]
  .next (s.command (.hpQpDestroy q qp) q 0x46 32 none own (fun u => (u.setQp qp {}, stDone, (u.qp qp).payload)))

/-! ### HP_WINDOW (R404) -/

/-- The context of a window. -/
def State.windowCtx (s : State) (w : Nat) : Option Nat := (sget none s.hp.windows w).map (·.ctx)

/-- HP_WINDOW op 0: the rkey is the device's choice. -/
def execHpWindowCreate (q : Req) (window ctx va len : Nat) (s : State) : Host.Outcome State Fault Refusal :=
  let own := firstFail [
    (decide (255 < window), genRange), ((s.windowCtx window).isSome && s.windowCtx window != some ctx, genBusy),
    (vaBeyond va, xptStatus 6), (decide (saveBase < va + len), genRange), (!s.rangePinned ctx va len, mapStatus 2)]
  .next (s.command (.hpWindowCreate q window ctx va len) q 0x47 24 (some ctx) own (fun t =>
    let k := Config.freeWord32 t.freeCtr
    ({ t.drawn with hp := { t.hp with windows := sset none t.hp.windows window (some ⟨ctx, va, len, k⟩) } }, stDone,
      leFields [(4, k.toNat), (4, 0)])))

/-- HP_WINDOW op 1. -/
def execHpWindowDestroy (q : Req) (window ctx : Nat) (s : State) : Host.Outcome State Fault Refusal :=
  let own := firstFail [(decide (255 < window), genRange), (s.windowCtx window != some ctx, genPrecond)]
  .next (s.command (.hpWindowDestroy q window ctx) q 0x47 24 (some ctx) own (fun t =>
    let k := ((sget none t.hp.windows window).map (·.rkey.toNat)).getD 0
    ({ t with hp := { t.hp with windows := sset none t.hp.windows window none } }, stDone, leFields [(4, k), (4, 0)])))

/-! ### CFG_RECORD -/

/-- Bytes of a context's memory for the checks of a record. -/
def State.memContent (s : State) (x a n : Nat) : List Byte := (s.peekVa x .collective a n).getD (sliceBytes [] 0 n)

/-- CFG_RECORD: one record of a loaded program's section 7 or 8 is replaced. -/
def execCfgRecord (q : Req) (ctx sect index : Nat) (record : List Byte) (s : State) : Host.Outcome State Fault Refusal :=
  let v := s.ctx ctx
  let p : Program := v.program.getD {}
  let r := parseRouter record
  let own := firstFail [
    (sect != 7 && sect != 8, genRange), (v.state == .running, ctxStatusCode 2),
    (decide ((if sect = 7 then p.colls.length else p.routers.length) ≤ index), genRange),
    (if sect = 7 then (s.activeColl ctx index).isSome
      else (List.range 16).any (fun k => (s.cluster k).xrecvs.any (fun w => w.ctx == ctx && w.layer == index)), genBusy),
    (sect == 8 && !(r.ok record p.buffers && p.routers.zipIdx.all (fun z => z.2 == index || z.1.layerId != r.layerId)), zpcStatus 0x0B),
    (sect == 7 && !collOk record s.xpt.topo p.buffers (s.memContent ctx) (cmSize - v.pocketBytes), zpcStatus 0x0D)]
  .next (s.command (.cfgRecord q ctx sect index record) q 0x50 136 (some ctx) own (fun t =>
    (t.modCtx ctx (fun w => { w with program := some (if sect = 7 then { p with colls := p.colls.set index (parseColl record) }
      else { p with routers := p.routers.set index r }) }), stDone, [])))

end Sys2Proof.Machine
end

