-- ==== Sys2Proof/Machine/Registers.lean ====
section
/-! DEFINITION. The register window (spec/00 R3, R12 to R14; spec/17_firmware_mailbox_interface.md R426, R428, Table 17-10;
spec/18 R443, R454; spec/19 R472, R473; spec/20 R486; spec/21 R503; spec/22 R518): addresses, reads, writes, counter clears. -/

namespace Sys2Proof.Machine

/-! ### Addresses (R428) -/

def addrBlock (a : Word32) : Nat := fld32 a 31 24
def addrInst (a : Word32) : Nat := fld32 a 23 12
def addrIndex (a : Word32) : Nat := fld32 a 11 3

/-- How many registers an instance of a block holds: those at indices from 0 on (Table 17-10, R454, R503). -/
def regCount (b i : Nat) : Nat :=
  match b with
  | 0x01 => if i < 256 then 10 else 0
  | 0x02 => if i < 16 then 32 else 0
  | 0x03 => if i < 16 then 5 else 0
  | 0x04 => if i < 128 then 2 else 0
  | 0x05 => if i < 16 then 1 else 0
  | 0x06 => if i < 64 then 4 else 0
  | 0x07 => if i < 2048 then 1 else 0
  | 0x08 => if i < 24 then 5 else 0
  | 0x09 => if i < 96 then 2 else 0
  | 0x0A => if i = 0 then 4 else 0
  | 0x0B => if i = 0 then 1 else 0
  | 0x0C => if i < 256 then 1 else if i < 272 then 2 else if i = 512 then 7 else if 520 ≤ i ∧ i < 524 then 37 else 0
  | 0x0D => if i = 0 then 4 else if i < 129 then 1 else 0
  | _ => 0

/-- Whether register n of an instance has 32 bits. -/
def regNarrow (b i n : Nat) : Bool :=
  match b with
  | 0x01 => n == 1 || n == 2 || n == 4
  | 0x03 => n == 0 || n == 1 || n == 3
  | 0x06 => n == 0
  | 0x08 => n == 1
  | 0x09 => n == 1
  | 0x0A => n == 1
  | 0x0B => true
  | 0x0C => i == 512 && (n == 1 || n == 4 || n == 6)
  | 0x0D => i == 0 && n == 2
  | _ => false

/-- The reserved bits of a register, as (high, low) pairs, from its field map. -/
def regReserved (b i n : Nat) : List (Nat × Nat) :=
  match b, n with
  | 0x01, 1 => [(30, 16)]
  | 0x01, 2 => [(31, 7)]
  | 0x01, 4 => [(31, 7), (5, 5)]
  | 0x02, 22 => [(63, 45), (31, 29), (15, 13)]
  | 0x02, 23 => [(63, 57), (31, 25)]
  | 0x02, 30 => [(47, 32)]
  | 0x03, 0 => [(31, 20)]
  | 0x03, 1 => [(30, 20)]
  | 0x03, 3 => [(30, 16)]
  | 0x04, 1 => [(49, 44), (5, 0)]
  | 0x05, 0 => [(51, 48)]
  | 0x06, 0 => [(30, 28), (23, 21)]
  | 0x06, 1 => [(63, 48), (15, 0)]
  | 0x06, 2 => [(63, 48)]
  | 0x07, 0 => [(63, 51)]
  | 0x08, 0 => [(63, 40)]
  | 0x08, 1 => [(26, 24), (11, 8)]
  | 0x08, 2 => [(63, 48)]
  | 0x09, 1 => [(24, 0)]
  | 0x0A, 0 => [(39, 32)]
  | 0x0A, 1 => [(31, 24)]
  | 0x0B, 0 => [(30, 27), (23, 23), (6, 3)]
  | 0x0C, 0 => if i = 512 then [(60, 52), (15, 0)] else []
  | 0x0C, 1 => if i = 512 then [(31, 23), (15, 12)] else []
  | 0x0C, 2 => if i = 512 then [(11, 8), (4, 2)] else []
  | 0x0C, 3 => if i = 512 then [(31, 21), (15, 0)] else []
  | 0x0C, 4 => if i = 512 then [(26, 24), (7, 0)] else []
  | 0x0C, 5 => if i = 512 then [(18, 0)] else []
  | 0x0C, 6 => if i = 512 then [(31, 12), (8, 8), (3, 0)] else []
  | 0x0D, 0 => if i = 0 then [(15, 15)] else [(63, 40)]
  | 0x0D, 2 => [(21, 16)]
  | 0x0D, 3 => [(59, 48)]
  | _, _ => []

/-- Whether a write sets a reserved bit (R14). -/
def setsReserved (b i n : Nat) (v : Word64) : Bool := (regReserved b i n).any (fun r => fld v r.1 r.2 != 0)

/-! ### Values -/

/-- SEC_STATUS (Table 20-6): rollback counts, debug mode, and what the fuses say. -/
def State.secReg (s : State) : Word64 :=
  let c := s.clasp
  let rb (k : Nat) : Nat := sget 0 c.rollback k
  let enrolled (k : Nat) : Bool := sget 0 c.ownerHash k != 0
  BitVec.ofNat 64 (rb 0 % 128 * 2 ^ 57 + rb 1 % 128 * 2 ^ 50 + rb 2 % 128 * 2 ^ 43 + rb 3 % 128 * 2 ^ 36 + rb 4 % 128 * 2 ^ 29 +
    bit01 s.lantern.debug * 2 ^ 28 + c.debugDisable.toNat * 2 ^ 27 + bitMask 4 enrolled * 2 ^ 23 + c.ownerRevoked.toNat * 2 ^ 19)

/-- RAS_LOG_STAT (Table 21-10). -/
def State.logStat (s : State) : Word64 :=
  BitVec.ofNat 64 (s.ras.written % 2 ^ 32 * 2 ^ 32 + s.ras.lost % 65536 * 65536 + s.ras.log.length % 32768)

/-- A register of core c. -/
def Core.reg (u : Core) (n : Nat) : Word64 :=
  match n with
  | 0 => u.bundleCount
  | 1 => u.stallCfg.zeroExtend 64
  | 2 => u.mtxFlags.zeroExtend 64
  | 3 => u.mtxQuant
  | 4 => u.vecFlags.zeroExtend 64
  | 5 => u.vecEvent
  | 6 => u.sprStat
  | 7 => u.nprClass
  | 8 => u.nprAudit
  | _ => u.sramEcc

/-- A register of a cluster. -/
def Cluster.reg (u : Cluster) (n : Nat) : Word64 :=
  match n with
  | 20 => u.gltLate
  | 21 => u.pocket.stat
  | 22 => u.pocket.level
  | 23 => u.pocket.ovfLevel
  | 24 => u.rtrChoice
  | 25 => u.rtrLoss
  | 26 => u.rtrAux
  | 27 => u.rtrToken
  | 28 => u.sramEcc
  | 29 => u.walkStat
  | 30 => u.trnLate
  | 31 => u.colStat
  | w => sget 0 u.flagOvf w

def Group.reg (u : Group) (n : Nat) : Word64 :=
  match n with
  | 0 => u.arbWeight.zeroExtend 64
  | 1 => u.srCfg.zeroExtend 64
  | 2 => u.srStat
  | 3 => u.scrubCfg.zeroExtend 64
  | _ => u.updCount

def Port.reg (u : Port) (n : Nat) : Word64 :=
  match n with
  | 0 => u.linkState
  | 1 => u.cfg.zeroExtend 64
  | 2 => u.creditCfg
  | 3 => u.pmStat
  | _ => u.linkErr

def Pool.reg (u : Pool) (n : Nat) : Word64 :=
  match n with
  | 0 => u.cfg.zeroExtend 64
  | 1 => u.base
  | 2 => u.stat
  | _ => u.fail

def Xpt.reg (u : Xpt) (n : Nat) : Word64 :=
  match n with
  | 0 => u.timerCfg
  | 1 => u.linkExcl.zeroExtend 64
  | 2 => u.msgStat
  | _ => u.dropStat

/-- Block 0x0C. -/
def State.powerReg (s : State) (i n : Nat) : Word64 :=
  if i < 256 then (s.core i).pwrStat
  else if i < 512 then if n = 0 then (s.cluster (i - 256)).dozeStat else (s.cluster (i - 256)).offStat
  else if i = 512 then
    match n with
    | 0 => s.power.cfg
    | 1 => s.power.capCfg.zeroExtend 64
    | 2 => s.power.capStat
    | 3 => s.power.rstCause
    | 4 => s.power.bootStatus.zeroExtend 64
    | 5 => s.secReg
    | _ => s.power.strapReg.zeroExtend 64
  else if n = 0 then s.railStat (i - 520) else fusedCurveWord (i - 520) (n - 1)

/-- Block 0x0D. -/
def State.rasReg (s : State) (i n : Nat) : Word64 :=
  if i = 0 then
    match n with
    | 0 => s.logStat
    | 1 => s.ras.thresh
    | 2 => s.ras.bist.zeroExtend 64
    | _ => s.ras.memTest
  else (s.channel (i - 1)).testResult

/-- The value of register n of an instance that holds it; CUF_LANE_PRBS is read by `regRead`. -/
def State.regValue (s : State) (b i n : Nat) : Word64 :=
  match b with
  | 0x01 => (s.core i).reg n
  | 0x02 => (s.cluster i).reg n
  | 0x03 => (s.group i).reg n
  | 0x04 => if n = 0 then (s.channel i).eccCount else (s.channel i).eccLast
  | 0x05 => (s.ctx i).faultReg
  | 0x06 => (s.pool i).reg n
  | 0x07 => (s.pool (i / 32)).quotaOf (i % 32)
  | 0x08 => (s.port i).reg n
  | 0x09 => if n = 0 then sget 0 (s.port (i / 4)).prbs (i % 4)
            else (sget prbsCtlDefault (s.port (i / 4)).prbsCtl (i % 4)).zeroExtend 64
  | 0x0A => s.xpt.reg n
  | 0x0B => s.hp.cfg.zeroExtend 64
  | 0x0C => s.powerReg i n
  | _ => s.rasReg i n

/-! ### Power states and the window (R436, R438, R443) -/

/-- The offset in its cluster's save record of a save-list register, and that cluster. -/
def saveListPlace (b i n : Nat) : Option (Nat × Nat) :=
  match b, n with
  | 0x01, 9 => some (i / 16, 64 + 32 * (i % 16))
  | 0x0C, 0 => if i < 256 then some (i / 16, 72 + 32 * (i % 16)) else none
  | 0x02, 28 => some (i, 16)
  | 0x02, 29 => some (i, 24)
  | _, _ => none

/-- An access to a register of a core or cluster wakes it. -/
def State.touch (s : State) (b i : Nat) : State :=
  if b = 0x01 ∨ (b = 0x0C ∧ i < 256) then s.wakeCore i else if b = 0x02 then s.wakeCluster i else s

/-- Whether a register is on the save list of a cluster that is Off. -/
def State.savedPlace (s : State) (b i n : Nat) : Option (Nat × Nat) :=
  (saveListPlace b i n).filter (fun p => (s.cluster p.1).power == .off)

/-- The saved value, which is the reset value where the record is not valid. -/
def State.savedReg (s : State) (p : Nat × Nat) : Word64 := if s.saveValid p.1 then s.saved p.1 p.2 else 0

/-- One read. -/
def State.regRead (s : State) (b i n : Nat) : State × Word64 :=
  match s.savedPlace b i n with
  | some p => (s, s.savedReg p)
  | none => if b = 0x09 ∧ n = 0 then s.prbsNow false (i / 4) (i % 4) else (s.touch b i, (s.touch b i).regValue b i n)

/-- Registers from index n on, `count` of them. -/
def State.regReads (s : State) (b i n count : Nat) : State × List Byte :=
  (List.range count).foldl (fun (a : State × List Byte) k =>
    let r := a.1.regRead b i (n + k)
    (r.1, a.2 ++ leBytes 8 r.2.toNat)) (s, [])

/-! ### Writes (R12, R14 and each register's own rule) -/

/-- A write whose checks passed, or refused. -/
def checkedWrite (bad : Option Status) (s t : State) : Status × State :=
  match bad with
  | some st => (st, s)
  | none => (stDone, t)

/-- Writes of core registers: CORE_STALL_CFG (R80), whose copy Lantern keeps (R442), and the sticky flags. -/
def State.writeCoreReg (s : State) (c n : Nat) (v : Word64) : Status × State :=
  let w : Word32 := v.truncate 32
  match n with
  | 1 => checkedWrite (if fld32 w 15 0 = 0 then some genRange else none) s
      { (s.modCore c (fun u => { u with stallCfg := w })) with
        lantern := { s.lantern with stallCopy := sset 0x80000032#32 s.lantern.stallCopy c w } }
  | 2 => (stDone, s.modCore c (fun u => { u with mtxFlags := u.mtxFlags &&& ~~~(w &&& 0x7E#32) }))
  | 4 => (stDone, s.modCore c (fun u => { u with vecFlags := u.vecFlags &&& ~~~(w &&& 0x5F#32) }))
  | _ => (stDone, s)

/-- Writes of controller-group registers (R25, R237, R245). -/
def State.writeGroupReg (s : State) (g n : Nat) (v : Word64) : Status × State :=
  let w : Word32 := v.truncate 32
  match n with
  | 0 => checkedWrite (if arbWeightBad w then some genRange else none) s (s.modGroup g (fun u => { u with arbWeight := w }))
  | 1 => checkedWrite (if fld32 w 19 0 = 0 then some genRange else none) s (s.modGroup g (fun u => { u with srCfg := w }))
  | 3 => checkedWrite (if fld32 w 15 0 = 0 then some genRange else none) s (s.modGroup g (fun u => { u with scrubCfg := w }))
  | _ => (stDone, s)

/-- PWR_CFG (R447): whether the timer fields are in range. -/
def pwrCfgBad (v : Word64) : Bool :=
  decide (fld v 51 32 = 0 ∨ 1000000 < fld v 51 32 ∨ fld v 31 16 = 0 ∨ 60000 < fld v 31 16)

/-- PWR_CAP_CFG (R452). -/
def capCfgBad (w : Word32) : Bool :=
  decide (fld32 w 22 16 < 70 ∨ 100 < fld32 w 22 16 ∨ 2 < fld32 w 11 10 ∨ fld32 w 9 0 < 200 ∨ 850 < fld32 w 9 0)

/-- Writes of block 0x0C. -/
def State.writePowerReg (s : State) (i n : Nat) (v : Word64) : Status × State :=
  if i ≠ 512 then (stDone, s)
  else match n with
    | 0 => checkedWrite (if pwrCfgBad v then some genRange else none) s { s with power := { s.power with cfg := v } }
    | 1 => checkedWrite (if capCfgBad (v.truncate 32) then some genRange else none) s
        { s with power := { s.power with capCfg := v.truncate 32 } }
    | _ => (stDone, s)

/-- RAS_THRESH_CFG (R494): every field above 0. -/
def threshBad (v : Word64) : Bool :=
  decide (fld v 63 56 = 0 ∨ fld v 55 40 = 0 ∨ fld v 39 24 = 0 ∨ fld v 23 8 = 0 ∨ fld v 7 0 = 0)

/-- BIST_CTL (R498): kind and cluster; with busy, the test starts and its cluster wakes. -/
def State.writeBist (s : State) (w : Word32) : Status × State :=
  let k := fld32 w 27 24
  let start := bitOf w.toNat 31
  let kept : State := { s with ras := { s.ras with bist := withFld32 s.ras.bist 30 24 (fld32 w 30 24) } }
  if fld32 w 21 16 ≠ 0 then (genReserved, s)
  else if start ∧ (s.ras.bistRun.isSome ∨ (s.ctxOfCluster k).isSome) then (genBusy, s)
  else if start then
    (stDone, { (kept.wake k) with ras := { kept.ras with bist := withFld32 kept.ras.bist 31 31 1, bistRun := some k } })
  else (stDone, kept)

/-- Lines and results of the groups in a mask before their test (R501). -/
def State.clearTestResults (s : State) (mask : Nat) : State :=
  (List.range 128).foldl (fun t n => if bitOf mask (n / 8) then t.modChannel n (fun u => { u with testResult := 0 }) else t) s

/-- MEM_TEST_CTL (R500): pattern and group_mask; with busy, the test starts. -/
def State.writeMemTest (s : State) (v : Word64) : Status × State :=
  let mask := fld v 47 32
  let start := bitOf v.toNat 63
  let reg := withFld (withFld s.ras.memTest 62 60 (fld v 62 60)) 47 32 mask
  match firstFail [
    (fld v 59 48 != 0, genReserved), (start && s.ras.memRun.isSome, genBusy), (decide (mask = 0 ∨ 3 < fld v 62 60), genRange)] with
  | some st => (st, s)
  | none =>
    (stDone, if start then
        { (s.clearTestResults mask) with
          ras := { s.ras with memTest := withFld (withFld reg 63 63 1) 31 0 0, memRun := some mask, testLines := 0 } }
      else { s with ras := { s.ras with memTest := reg } })

/-- Writes of block 0x0D. -/
def State.writeRasReg (s : State) (i n : Nat) (v : Word64) : Status × State :=
  if i ≠ 0 then (stDone, s)
  else match n with
    | 1 => checkedWrite (if threshBad v then some genRange else none) s { s with ras := { s.ras with thresh := v } }
    | 2 => s.writeBist (v.truncate 32)
    | 3 => s.writeMemTest v
    | _ => (stDone, s)

/-- The write of a register by its own rule, after the reserved bits. Fields that are read-only ignore it. -/
def State.writeByRule (s : State) (b i n : Nat) (v : Word64) : Status × State :=
  match b with
  | 0x01 => s.writeCoreReg i n v
  | 0x02 => (stDone, if n < 20 then s.modCluster i (fun u => { u with flagOvf := sset 0 u.flagOvf n (sget 0 u.flagOvf n &&& ~~~v) })
                     else s)
  | 0x03 => s.writeGroupReg i n v
  | 0x04 => (stDone, if n = 1 ∧ bitOf v.toNat 63 then s.modChannel i (fun u => { u with eccLast := withFld u.eccLast 63 63 0 }) else s)
  | 0x05 => (stDone, if bitOf v.toNat 63 then
      s.modCtx i (fun x => { x with faultReg := withFld (withFld x.faultReg 63 63 0) 7 0 0 }) else s)
  | 0x06 => if n = 0 then s.writePoolCfg i v else if n = 1 then s.writePoolBase i v else (stDone, s)
  | 0x07 => s.writeQuota (i / 32) (i % 32) v
  | 0x08 => if n = 1 then s.writePortCfg i (v.truncate 32) else if n = 2 then s.writeCreditCfg i v else (stDone, s)
  | 0x09 => if n = 1 then s.writePrbsCtl (i / 4) (i % 4) (v.truncate 32) else (stDone, s)
  | 0x0A => if n = 0 then s.writeTimerCfg v else if n = 1 then s.writeLinkExcl (v.truncate 32) else (stDone, s)
  | 0x0B => s.writeHpCfg (v.truncate 32)
  | 0x0C => s.writePowerReg i n v
  | _ => s.writeRasReg i n v

/-- A register-window write: whether the address holds a register, the reserved bits, the register's rule (R12, R14). A
refused write leaves everything as it is. -/
def State.regWrite (s : State) (a : Word32) (value : Word64) : Status × State :=
  let b := addrBlock a
  let i := addrInst a
  let n := addrIndex a
  let v : Word64 := if regNarrow b i n then (value.truncate 32).zeroExtend 64 else value
  if fld32 a 2 0 ≠ 0 ∨ regCount b i ≤ n then (genRange, s)
  else if setsReserved b i n v then (genReserved, s)
  else
    let r := (s.touch b i).writeByRule b i n v
    if r.1 = stDone then r else (r.1, s)

/-- REGISTER_WRITE. -/
def execRegisterWrite (addr : Word32) (value : Word64) (s : State) : Host.Outcome State Fault Refusal :=
  .next (s.regWrite addr value).2

/-- BIST_CTL_WRITE. -/
def execBistCtlWrite (value : Word64) (s : State) : Host.Outcome State Fault Refusal :=
  .next (s.writeBist (value.truncate 32)).2

/-- MEM_TEST_CTL_WRITE. -/
def execMemTestCtlWrite (value : Word64) (s : State) : Host.Outcome State Fault Refusal :=
  .next (s.writeMemTest value).2

/-! ### REG_READ, REG_WRITE -/

/-- REG_READ: consecutive indices of one instance. -/
def execRegRead (q : Req) (addr : Word32) (count : Nat) (s : State) : Host.Outcome State Fault Refusal :=
  let b := addrBlock addr
  let i := addrInst addr
  let n := addrIndex addr
  let own := firstFail [
    (!decide (1 ≤ count ∧ count ≤ 1023), genRange), (decide (fld32 addr 2 0 ≠ 0 ∨ regCount b i < n + count), genRange)]
  .next (s.command (.regRead q addr count) q 0xF0 8 none own (fun t => let r := t.regReads b i n count; (r.1, stDone, r.2)))

/-- REG_WRITE: the refusal of the register's rule is the status. -/
def execRegWrite (q : Req) (addr : Word32) (value : Word64) (s : State) : Host.Outcome State Fault Refusal :=
  .next (s.command (.regWrite q addr value) q 0xF1 16 none (ruleOf (s.regWrite addr value).1) (fun t => ((t.regWrite addr value).2, stDone, [])))

/-! ### COUNTER_READ, COUNTER_CLEAR (R426) -/

/-- The contexts a session is attached to hold an instance. -/
def State.attachedHolds (s : State) (n b i : Nat) : Bool :=
  let mine (x : Option Nat) : Bool := (x.map (fun y => (s.ctx y).state != .free && (s.ctx y).sessions.contains n)).getD false
  let poolOf (p : Nat) : Option Nat := if (s.pool p).enabled then some (s.pool p).owner else none
  match b with
  | 0x01 => decide (i < 256) && mine (s.ctxOfCore i)
  | 0x02 => decide (i < 16) && mine (s.ctxOfCluster i)
  | 0x05 => mine (some i)
  | 0x06 => decide (i < 64) && mine (poolOf i)
  | 0x07 => decide (i < 2048) && mine (poolOf (i / 32))
  | 0x0C => if i < 256 then mine (s.ctxOfCore i) else decide (i < 272) && mine (s.ctxOfCluster (i - 256))
  | _ => false

/-- COUNTER_READ. -/
def execCounterRead (q : Req) (block : Nat) (inst : Nat) (s : State) : Host.Outcome State Fault Refusal :=
  let admin := ((s.session q.session).map (·.admin)).getD false
  let own := firstFail [
    (!admin && !s.attachedHolds q.session block inst, genSession), (regCount block inst == 0, genRange)]
  .next (s.command (.counterRead q block inst) q 0x70 8 none own (fun t => let r := t.regReads block inst 0 (regCount block inst); (r.1, stDone, r.2)))

/-- The registers that the counter-clear command clears in one instance (R227, R238, R246, R264, R303, R341, R345, R372, R445,
R453, R503); those of a cluster that is Off in its save record (R443). -/
def State.clearCounters (s : State) (b i : Nat) : State :=
  let off (k : Nat) : Bool := (s.cluster k).power == .off
  let zero (k at' : Nat) : State := s.putWardrobe (saveOffset k + at') (List.replicate 8 0)
  match b with
  | 0x01 =>
    if off (i / 16) then zero (i / 16) (64 + 32 * (i % 16)) else (s.wakeCore i).modCore i (fun u => { u with sramEcc := 0 })
  | 0x02 =>
    if off i then s.putWardrobe (saveOffset i + 16) (List.replicate 16 0)
    else (s.wakeCluster i).modCluster i (fun u => { u with sramEcc := 0, walkStat := 0 })
  | 0x03 => s.modGroup i (fun u => { u with srStat := 0, updCount := 0 })
  | 0x04 => s.modChannel i (fun u => { u with eccCount := 0, eccLast := ({} : Channel).eccLast })
  | 0x08 => s.modPort i (fun u => { u with pmStat := 0, linkErr := 0 })
  | 0x0A => { s with xpt := { s.xpt with msgStat := 0, dropStat := 0 } }
  | 0x0C =>
    if i < 256 then
      if off (i / 16) then zero (i / 16) (72 + 32 * (i % 16)) else (s.wakeCore i).modCore i (fun u => { u with pwrStat := 0 })
    else if i < 272 then s.modCluster (i - 256) (fun u => { u with dozeStat := 0, offStat := 0 })
    else if i = 512 then
      { s with power := { s.power with capStat := withFld s.power.capStat 63 12 0, limitUs := 0, paceUs := 0 } }
    else s
  | 0x0D => if i = 0 then { s with ras := { s.ras with written := 0, lost := 0 } } else s
  | _ => s

/-- The instances of a block that hold registers. -/
def blockInsts (b : Nat) : List Nat := (List.range 2048).filter (fun i => regCount b i != 0)

/-- COUNTER_CLEAR: one instance, or all for 0xFFFF. -/
def execCounterClear (q : Req) (block : Nat) (inst : Nat) (s : State) : Host.Outcome State Fault Refusal :=
  let is := if inst = 0xFFFF then blockInsts block else [inst]
  let own := firstFail [(is.isEmpty || is.any (fun i => regCount block i == 0), genRange)]
  .next (s.command (.counterClear q block inst) q 0x71 8 none own (fun t => (is.foldl (fun u i => u.clearCounters block i) t, stDone, [])))

end Sys2Proof.Machine
end

