-- ==== Sys2Proof/Machine/Clasp.lean ====
section
/-! DEFINITION. Clasp and the boot flash (spec/19_boot_reset_and_versions.md R456 to R464; spec/20 R475 to R487; spec/17
Table 17-9): images and their checks, sets, the firmware commands, measurements, attestation, tokens. -/

namespace Sys2Proof.Machine

/-! ### Keys (R475, R477) -/

/-- Whether owner slot i is enrolled. -/
def State.enrolled (s : State) (i : Nat) : Bool := sget 0 s.clasp.ownerHash i != 0

/-- Whether owner slot i is valid: enrolled and not revoked. -/
def State.ownerValid (s : State) (i : Nat) : Bool := s.enrolled i && !bitOf s.clasp.ownerRevoked.toNat i

/-- Whether some owner slot is valid. -/
def State.owned (s : State) : Bool := (List.range 4).any s.ownerValid

/-- The SHAKE256-256 of a key, as fuses hold it. -/
def keyHash (key : List Byte) : BitVec 256 := BitVec.ofNat 256 (leNat (shake256 key 32))

/-- vendor_key_hash, the fused hash of the vendor's public key (Table 20-1). -/
def vendorKeyHash : BitVec 256 := keyHash Config.vendorKey

/-- Whether a key's SHAKE256-256 equals a fused hash. -/
def hashes (key : List Byte) (h : BitVec 256) : Bool := keyHash key == h

/-- An SLH-DSA signature of n bytes of a message by the holder of a public key (FIPS 205). -/
def slhSignature (n : Nat) (key msg : List Byte) : List Byte := (List.range n).map (Config.slhByte key msg)

/-- SLH-DSA verification: the signature that the holder of the key makes verifies; what else does is a free value. -/
def slhVerify (key msg sig : List Byte) : Bool := sig == slhSignature sig.length key msg || Config.slhForged key msg sig

/-- The public key that a key_id names, if its slot is valid and the key agrees with its fuses. -/
def State.publicKey (s : State) (keyId : Nat) : Option (List Byte) :=
  if keyId = 0 then if hashes Config.vendorKey vendorKeyHash then some Config.vendorKey else none
  else if keyId ≤ 4 ∧ s.ownerValid (keyId - 1) then
    let k := sget [] s.clasp.ownerKeys (keyId - 1)
    if hashes k (sget 0 s.clasp.ownerHash (keyId - 1)) then some k else none
  else none

/-- Whether a signature verifies under the key that key_id names. -/
def State.verifies (s : State) (keyId : Nat) (msg sig : List Byte) : Bool :=
  match s.publicKey keyId with
  | some k => slhVerify k msg sig
  | none => false

/-! ### Images (R476, R477) -/

/-- Bytes of a signature entry and of its signature. -/
def sigBytes : Nat := 29792
def sigEntryBytes : Nat := 29800

/-- Size of the flash region of a class (Table 19-1). -/
def flashRegion (cls : Nat) : Nat :=
  match cls with
  | 0 => 0x200000
  | 1 => 0xC00000
  | 2 => 0x400000
  | 3 => 0x40000
  | _ => 0x10000

/-- Entries of a manifest body (Table 19-3). -/
def manifestEntries (body : List Byte) : List (Word32 × Word32 × Word32 × Word32) :=
  let n := leAt body 8 2
  if sliceBytes body 0 4 = [0x4D#8, 0x4E#8, 0x46#8, 0x01#8] ∧ 1 ≤ n ∧ n ≤ 256 ∧ 64 + 16 * n ≤ body.length then
    (List.range n).map (fun i =>
      let w (o : Nat) : Word32 := BitVec.ofNat 32 (leAt body (64 + 16 * i + o) 4)
      (w 0, w 4, w 8, w 12))
  else []

/-- The image in a run of bytes, and whether it is whole and fits its flash region. -/
def parseImage (bs : List Byte) : Image × Bool :=
  let bodyLen := leAt bs 24 8
  let n := leAt bs 5 1
  let entry (i : Nat) : List Byte := sliceBytes bs (128 + bodyLen + sigEntryBytes * i) sigEntryBytes
  let fits := decide (128 + bodyLen + sigEntryBytes * n ≤ min bs.length (flashRegion (leAt bs 4 1)))
  let body := sliceBytes bs 128 (if fits then bodyLen else 0)
  let entries := (List.range (if fits then n else 0)).map entry
  ({ magicOk := sliceBytes bs 0 4 == [0x48#8, 0x49#8, 0x4D#8, 0x01#8], cls := leAt bs 4 1, sigCount := n
     version := BitVec.ofNat 32 (leAt bs 8 4), steppingMask := BitVec.ofNat 32 (leAt bs 12 4), svn := leAt bs 16 1
     reservedZero := leAt bs 6 2 == 0 && leAt bs 17 7 == 0 && leAt bs 96 32 == 0 && entries.all (fun e => leAt e 1 7 == 0)
     header := sliceBytes bs 0 128, body := body, bodyDigest := sliceBytes bs 32 64
     sigs := entries.map (fun e => (leAt e 0 1, sliceBytes e 8 sigBytes))
     entries := if leAt bs 4 1 = 3 then manifestEntries body else [] }, fits)

/-- A signature of the image by a key. -/
def State.signedBy (s : State) (i : Image) (keyId : Nat) : Bool :=
  (keyId == 0 && i.shipped) || i.sigs.any (fun e => e.1 == keyId && s.verifies keyId i.header e.2)

/-- A signature by the owner of a valid slot. -/
def State.ownerSigned (s : State) (i : Image) : Bool := (List.range 4).any (fun k => s.signedBy i (k + 1))

/-- The signatures that a class needs. -/
def State.signaturesOk (s : State) (cls : Nat) (i : Image) : Bool :=
  if cls = 4 then if s.owned then s.ownerSigned i else s.signedBy i 0
  else s.signedBy i 0 && (!s.owned || s.ownerSigned i)

/-- The five checks of R477 on an image that fits its region. -/
def State.imageCheck (s : State) (cls : Nat) (i : Image) (fits : Bool) : Option Status :=
  firstFail [
    (!(i.magicOk && i.cls == cls && (i.sigCount == 1 || i.sigCount == 2) && i.reservedZero && fits), fwStatusCode 5),
    (!bitOf i.steppingMask.toNat 1, fwStatusCode 1),
    (!(i.shipped || shake256 i.body 64 == i.bodyDigest), fwStatusCode 1),
    (!s.signaturesOk cls i, fwStatusCode 1),
    (decide (i.svn < sget 0 s.clasp.rollback cls), fwStatusCode 2)]

/-! ### Slots and sets (R457 to R460) -/

def State.imageAt (s : State) (z cls : Nat) : Option Image := sget none s.flash.images (4 * z + cls)

/-- Whether the image of a class in a slot is valid. -/
def State.imageValid (s : State) (z cls : Nat) : Bool :=
  match s.imageAt z cls with
  | some i => (s.imageCheck cls i true).isNone
  | none => false

/-- set_valid of R460. -/
def State.setValid (s : State) (z : Nat) : Bool := [0, 1, 2].all (s.imageValid z)

/-- Version of the image of a class in a slot; 0 where there is none. -/
def State.slotVersion (s : State) (z cls : Nat) : Word32 := ((s.imageAt z cls).map (·.version)).getD 0

/-- tested of R460. -/
def State.testedSet (s : State) (z : Nat) : Bool :=
  s.imageValid z 3 && match s.imageAt z 3 with
    | some m => m.entries.any (fun e => e.1 == s.slotVersion z 0 && e.2.1 == s.slotVersion z 1 && e.2.2.1 == s.slotVersion z 2 &&
        bitOf e.2.2.2.toNat 1)
    | none => false

/-- A boot control copy. -/
def Flash.bootCopy (f : Flash) (i : Nat) : BootCtl := f.boot.getD i ⟨false, 0, 0⟩

/-- The copy that the ROM uses: the valid one with the higher seq, copy 0 of two equal ones; 2 for neither. -/
def Flash.bootUsed (f : Flash) : Nat :=
  let a := f.bootCopy 0
  let b := f.bootCopy 1
  if a.valid && (!b.valid || decide (b.seq ≤ a.seq)) then 0 else if b.valid then 1 else 2

/-- The selected slot. -/
def State.selectedSlot (s : State) : Nat := if s.flash.bootUsed = 2 then 0 else (s.flash.bootCopy s.flash.bootUsed).selected

/-! ### Configuration record (R464, Table 19-5) -/

/-- Whether a copy of the configuration record is valid. -/
def State.configValid (s : State) (i : Nat) : Bool :=
  match s.flash.config.getD i none with
  | some r => (s.imageCheck 4 r true).isNone && r.body.length == 256 && sliceBytes r.body 0 4 == [0x43#8, 0x46#8, 0x47#8, 0x01#8]
  | none => false

def State.configSeq (s : State) (i : Nat) : Nat := ((s.flash.config.getD i none).map (fun r => leAt r.body 4 4)).getD 0

/-- The copy in use: the valid one with the higher seq; 2 for neither. -/
def State.configCopy (s : State) : Nat :=
  if s.configValid 0 && (!s.configValid 1 || decide (s.configSeq 1 ≤ s.configSeq 0)) then 0 else if s.configValid 1 then 1 else 2

/-! ### FW_STAGE, FW_ACTIVATE, FW_STATUS (R427, R456 to R459, Table 17-9) -/

/-- The slot that is not running. -/
def State.otherSlot (s : State) : Nat := 1 - s.lantern.activeSlot

/-- An image, or nothing after a flash write that failed, into its place; the slot or copy that was written. -/
def State.putImage (s : State) (cls : Nat) (i : Option Image) : State × Nat :=
  if cls = 4 then
    let k := if s.configCopy = 0 then 1 else 0
    let two := [s.flash.config.getD 0 none, s.flash.config.getD 1 none]
    ({ s with flash := { s.flash with config := two.set k i } }, k)
  else ({ s with flash := { s.flash with images := sset none s.flash.images (4 * s.otherSlot + cls) i } }, s.otherSlot)

/-- FW_STAGE: the image is read, verified and written. -/
def State.stageImage (s : State) (cls region offset len : Nat) (io : FarIO) (flashOk : Bool) : State × Status × List Byte :=
  let r := s.farRead region offset len io
  match r.2 with
  | .error _ => (r.1, fltTransfer, leFields [(1, s.otherSlot), (3, 0), (4, 0)])
  | .ok bs =>
    let p := parseImage bs
    let bad := (s.imageCheck cls p.1 p.2).or
      (if cls = 3 ∧ !p.1.entries.any (fun e => bitOf e.2.2.2.toNat 1) then some (fwStatusCode 3) else none)
    match bad with
    | some st => (r.1, st, [])
    | none =>
      let w := r.1.putImage cls (if flashOk then some p.1 else none)
      (w.1, if flashOk then stDone else fltFlash, leFields [(1, w.2), (3, 0), (4, p.1.version.toNat)])

def execFwStage (q : Req) (cls region offset len : Nat) (io : FarIO) (flashOk : Bool) (s : State) :
    Host.Outcome State Fault Refusal :=
  let own := firstFail [(decide (4 < cls), fwStatusCode 5)]
  .next (s.command (.fwStage q cls region offset len io flashOk) q 0xA0 24 none own (fun t => t.stageImage cls region offset len io flashOk))

/-- The boot control record with a slot selected: the copy that the ROM did not use, with seq + 1. -/
def State.selectSlot (s : State) (z : Nat) : State :=
  let used := s.clasp.bootCopy
  let seq := if used = 2 then 1 else (s.flash.bootCopy used).seq + 1
  let k := if used = 0 then 1 else 0
  { s with flash := { s.flash with boot := [s.flash.bootCopy 0, s.flash.bootCopy 1].set k ⟨true, seq, z⟩ } }

/-- FW_ACTIVATE; reset 1 then acts as DEVICE_RESET, with its own cause. -/
def execFwActivate (q : Req) (slot reset : Nat) (s : State) : Host.Outcome State Fault Refusal :=
  let own := firstFail [
    (decide (1 < reset), genRange), (decide (1 < slot) || !s.setValid slot || !s.testedSet slot, fwStatusCode 4)]
  .next (s.command (.fwActivate q slot reset) q 0xA1 8 none own (fun t =>
    let u := t.selectSlot slot
    (if reset = 1 then { u with lantern := { u.lantern with resetAt := some (u.now + 10000000), resetCause := 4 } } else u,
      stDone, [])))

/-- The firmware record: version and validity of each image of both slots, the slots, the reason of limited mode. -/
def State.fwRecord (t : State) : List Byte :=
  let one (z cls : Nat) : List Byte := leFields [(4, (t.slotVersion z cls).toNat), (1, (t.imageValid z cls).toNat), (3, 0)]
  (List.range 8).flatMap (fun i => one (i / 4) (i % 4)) ++
    leFields [(1, t.lantern.activeSlot), (1, t.selectedSlot), (2, t.lantern.limitedReason), (4, 0)]

/-- FW_STATUS. -/
def execFwStatus (q : Req) (s : State) : Host.Outcome State Fault Refusal :=
  .next (s.command (.fwStatus q) q 0xA2 0 none none (fun t => (t, stDone, t.fwRecord)))

/-! ### Measurements and reports (R480, R481) -/

/-- One item measured: its entry into the log while there is room, and the chain. -/
def State.measure (s : State) (item slot : Nat) (version : Word32) (svn : Nat) (digest : List Byte) : State :=
  let n := s.clasp.measurements.length
  let e := leFields [(2, n), (1, item), (1, slot), (4, version.toNat), (1, svn), (55, 0)] ++ sliceBytes digest 0 64
  { s with clasp := { s.clasp with
      measurements := if n < 16 then s.clasp.measurements ++ [e] else s.clasp.measurements
      chain := shake256 (s.clasp.chain ++ e) 64 } }

/-- The public key of the device identity, the same at every start (R479). -/
def deviceKey : List Byte :=
  let seed := shake256 (leBytes 64 Config.uniqueSecret.toNat ++ [0x48#8, 0x4C#8, 0x46#8, 0x2D#8, 0x49#8, 0x44#8, 0x00#8, 0x01#8]) 72
  Config.slhPublicKey (sliceBytes seed 0 24) (sliceBytes seed 24 24) (sliceBytes seed 48 24)

/-- The report before its signature (Table 20-4). -/
def State.reportHead (s : State) (nonce : BitVec 256) : List Byte :=
  let c := s.clasp
  let b := s.power.bootStatus.toNat
  let flags := bit01 s.lantern.debug + s.lantern.limited.toNat * 2 + (bitOf b 30).toNat * 4 + (bitOf b 29).toNat * 8 + s.owned.toNat * 16
  [0x41#8, 0x54#8, 0x54#8, 0x01#8] ++ leFields [(2, 1), (2, c.measurements.length), (16, Config.uid.toNat)] ++
    sliceBytes deviceKey 0 48 ++ leFields [(32, nonce.toNat), (32, c.bootNonce.toNat), (4, fld s.power.rstCause 63 32), (4, flags)] ++
    leFields ((List.range 5).map (fun k => (1, sget 0 c.rollback k))) ++ leFields [(1, bitMask 4 s.ownerValid), (2, 0)] ++
    sliceBytes c.chain 0 64 ++ leFields [(8, s.now), (32, 0)] ++ c.measurements.flatten

/-- The signed report. -/
def State.report (s : State) (nonce : BitVec 256) : List Byte :=
  s.reportHead nonce ++ slhSignature 35664 deviceKey (s.reportHead nonce)

/-- ATTEST. -/
def execAttest (q : Req) (region offset : Nat) (nonce : BitVec 256) (io : FarIO) (s : State) : Host.Outcome State Fault Refusal :=
  .next (s.command (.attest q region offset nonce io) q 0xB0 48 none none (fun t =>
    let rep := t.report nonce
    let w := t.farWrite region offset rep io
    (w.1, if w.2.isSome then fltTransfer else stDone, leFields [(4, rep.length), (4, 0)])))

/-! ### Tokens (R482 to R485) -/

def tokenBytes : Nat := 30048

/-- A token as it was read (Table 20-5). -/
def parseToken (bs : List Byte) : Token :=
  { kind := leAt bs 4 1, keyId := leAt bs 5 1, uid := BitVec.ofNat 128 (leAt bs 8 16), nonce := BitVec.ofNat 256 (leAt bs 24 32)
    clasp := BitVec.ofNat 32 (leAt bs 56 4), lantern := BitVec.ofNat 32 (leAt bs 60 4), serdes := BitVec.ofNat 32 (leAt bs 64 4)
    owner := leAt bs 68 1, ownerKey := sliceBytes bs 72 64, raw := bs }

/-- Whether the key that a token names may sign its kind. -/
def State.tokenKey (s : State) (k : Token) : Bool :=
  if k.kind = 1 ∨ k.kind = 2 then if s.owned then k.keyId != 0 else k.keyId == 0 else k.keyId == 0

/-- The fifth check of R483. -/
def State.tokenState (s : State) (k : Token) : Bool :=
  match k.kind with
  | 2 => !s.clasp.debugDisable
  | 3 => decide (k.owner < 4) && !s.enrolled k.owner && !bitOf s.clasp.ownerRevoked.toNat k.owner
  | 4 => decide (k.owner < 4) && s.enrolled k.owner
  | _ => true

/-- The checks of R483 on a token that was read. -/
def State.tokenCheck (s : State) (serves : List Nat) (bs : List Byte) : Option Status :=
  let k := parseToken bs
  firstFail [
    (!(sliceBytes bs 0 4 == [0x54#8, 0x4B#8, 0x4E#8, 0x01#8] && serves.contains k.kind), secStatus 1),
    (!(s.tokenKey k && s.verifies k.keyId (sliceBytes bs 0 256) (sliceBytes bs 256 sigBytes)), secStatus 1),
    (k.uid != Config.uid, secStatus 2),
    (k.nonce != 0 && k.nonce != s.clasp.bootNonce, secStatus 3),
    (!s.tokenState k, genPrecond)]

/-- A command that reads and checks a token, and then acts on it. -/
def State.tokenCommand (s : State) (serves : List Nat) (region offset len : Nat) (io : FarIO) (eff : State → Token → State) :
    State × Status × List Byte :=
  let r := s.farRead region offset len io
  match r.2 with
  | .error _ => (r.1, fltTransfer, [])
  | .ok bs =>
    match s.tokenCheck serves bs with
    | some st => (r.1, st, [])
    | none => (eff r.1 (parseToken bs), stDone, [])

/-- DEBUG_UNLOCK: debug mode at once, and the token measured. -/
def State.unlock (s : State) (k : Token) : State :=
  ({ s with lantern := { s.lantern with debug := true } }).measure 7 s.lantern.activeSlot 0 0 (shake256 (sliceBytes k.raw 0 256) 64)

def execDebugUnlock (q : Req) (region offset len : Nat) (io : FarIO) (s : State) : Host.Outcome State Fault Refusal :=
  let own := firstFail [(len != tokenBytes, secStatus 1)]
  .next (s.command (.debugUnlock q region offset len io) q 0xB1 24 none own (fun t => t.tokenCommand [2] region offset len io State.unlock))

/-- The permit store with a token: it replaces an earlier one of its kind, and of its slot for kinds 3 and 4 (R461, R487). -/
def State.storePermit (s : State) (k : Token) : State :=
  { s with clasp := { s.clasp with
      permits := s.clasp.permits.filter (fun p => !(p.kind == k.kind && (k.kind == 1 || p.owner == k.owner))) ++ [k] } }

def execPermit (q : Req) (region offset len : Nat) (io : FarIO) (s : State) : Host.Outcome State Fault Refusal :=
  let own := firstFail [(len != tokenBytes, secStatus 1)]
  .next (s.command (.permit q region offset len io) q 0xB2 24 none own (fun t => t.tokenCommand [1, 3, 4] region offset len io State.storePermit))

end Sys2Proof.Machine
end

