-- ==== Sys2Proof/Machine/Program.lean ====
section
/-! DEFINITION. The program model (spec/03_cores_queues_and_programs.md): issue of bundles, scalar slots, loops, hazards,
sync operations, the stall monitor, the bundle stop count. -/

namespace Sys2Proof.Machine

/-! ### The program of a core -/

/-- The code segment of core c: its VA and its bytes (Table 3-9, code map). -/
def State.segment (s : State) (c : Nat) : Option (Nat × List Byte) :=
  match s.ctxOfCore c with
  | none => none
  | some x => (s.ctx x).program.bind (fun p =>
      match (s.ctx x).clusters.idxOf? (clusterOf c) with
      | none => none
      | some k => match p.codeMap[16 * k + c % 16]? with
        | none => none
        | some o => p.segments[o.toNat]?)

/-- Length of the code segment; 0 for an idle core. -/
def State.segLen (s : State) (c : Nat) : Nat := ((s.segment c).map (·.2.length)).getD 0

/-- Encoded size of a bundle (Table 3-1). -/
def bundleSize (b : Bundle) : Nat :=
  2 + 4 * b.scalar.length + (if b.vector.isSome then 8 else 0) + (if b.matrix.isSome then 8 else 0) +
    (if b.dma.isSome then 8 else 0) + (if b.sync.isSome then 4 else 0)

/-- The operation slots of a bundle, in the order in which the hazard check takes them: where a bundle's matrix and vector
operations name one slot, the matrix one counts as issued first (DESIGN CHOICE, log entry 92: R74 gives no order within a
bundle). -/
def bundleOps (b : Bundle) : List OpSlot :=
  [b.matrix, b.vector, b.dma, b.sync].filterMap id

/-! ### Scalar registers -/

def Core.sreg (u : Core) (r : Nat) : Word64 := sget 0 u.sregs (r % 32)
def Core.setSreg (u : Core) (r : Nat) (v : Word64) : Core := { u with sregs := sset 0 u.sregs (r % 32) v }

/-- A scalar arithmetic result. FP32 operations use bits [31:0] and write them zero-extended. -/
def scalarAlu (k : ScalarAlu) (a b : Word64) : Word64 :=
  let lo (x : Word64) : Word32 := x.truncate 32
  match k with
  | .add => a + b
  | .sub => a - b
  | .mul => a * b
  | .and => a &&& b
  | .or => a ||| b
  | .xor => a ^^^ b
  | .shl => a <<< (b.toNat % 64)
  | .shr => a >>> (b.toNat % 64)
  | .sltu => if a.toNat < b.toNat then 1 else 0
  | .slt => if a.toInt < b.toInt then 1 else 0
  | .fadd => (f32add (lo a) (lo b)).zeroExtend 64
  | .fsub => (f32sub (lo a) (lo b)).zeroExtend 64
  | .fmul => (f32mul (lo a) (lo b)).zeroExtend 64

/-! ### Faults of a scalar slot (R61, R73, Table 10-6) -/

/-- Why a bundle does not issue. -/
inductive IssueFault
  | refused (q : Nat) (st : Status)
  | tileConflict (slot : Nat)
  | loopNesting
  | loopPoison
  | dmem (word : Nat)
  | poison
  | translation (f : TFault)
  deriving DecidableEq, Repr

/-- The core fault of a bundle that does not issue. A refusal names the position of the bundle (R65). -/
def State.issueFault (s : State) (c : Nat) (f : IssueFault) : State :=
  match f with
  | .refused q st => s.opRefused c q ((s.core c).bundleCount.toNat + 1) st
  | .tileConflict t => s.coreFault c 0x2002#16 0 (leBytes 2 c ++ leBytes 1 t)
  | .loopNesting => s.coreFault c 0x2003#16 0 (leBytes 2 c)
  | .loopPoison => s.coreFault c 0x2004#16 0 (leBytes 2 c)
  | .dmem w => (s.modCore c (fun u => { u with sramEcc := bumpFld u.sramEcc 63 32 1 })).coreFault c 0x2005#16 0
      (leBytes 2 c ++ leBytes 4 (8 * w))
  | .poison => s.coreFault c 0x2007#16 0 (leBytes 1 1)
  | .translation g => match s.ctxOfCore c with
    | none => s
    | some x => s.tfault x g 0x01 c (some (s.core c).bundleCount.toNat)

/-! ### Hazard record (R74) -/

/-- The slots that an operation names. -/
def opSlots : Op → List Nat
  | .mat (.mmul f) => tileSlots f.tile f.mode
  | .mat (.mpreload f) => tileSlots f.tile f.mode
  | .mat (.mread f) => tileSlots f.tile f.mode
  | .mat (.npred f) => [f.tile]
  | .vec (.accRd f) => tileSlots f.tile f.mode
  | .vec (.accWr f) => tileSlots f.tile f.mode
  | .vec (.gradQuant f) => match f.tile with | some t => tileSlots t.1 t.2 | none => []
  | _ => []

/-- The slot on which an operation breaks the rule, if any. -/
def Core.conflict (u : Core) (o : OpSlot) : Option Nat :=
  (opSlots o.op).find? (fun t => match sget none u.hazard t with
    | none => false
    | some h => h.queue != o.op.queue && (match h.flag, o.wait with
      | some f, some w => w.flag != f
      | _, _ => true))

/-- The record after an operation named its slots. -/
def Core.named (u : Core) (o : OpSlot) : Core :=
  { u with hazard := (opSlots o.op).foldl (fun m t =>
      sset none m t (some { queue := o.op.queue, flag := o.signal.map (·.flag) })) u.hazard }

/-- The hazard check over the operations of a bundle, one after another. -/
def Core.hazards (u : Core) : List OpSlot → Except Nat Core
  | [] => .ok u
  | o :: r => match u.conflict o with
    | some t => .error t
    | none => (u.named o).hazards r

/-! ### Flag identifiers of a bundle (R68) -/

/-- The sync operations name a flag too: a FLAG_WAIT one that the core may wait on, the others one of its cluster. -/
def opFlagOk (c : Nat) : Op → Bool
  | .sync (.flagWait f _) => flagWaitOk c f
  | .sync (.flagAdd f _) => flagIdOk f
  | .sync (.flagSet f _) => flagIdOk f
  | .sync (.flagRead f _) => flagIdOk f
  | .dma (.xrecvArm f) => flagIdOk f.flag
  | _ => true

/-- The refusal at issue of one operation: an invalid flag, or a signal increment outside 1 to 255 (R64). -/
def slotRefusal (c : Nat) (o : OpSlot) : Option Status :=
  firstFail [
    (match o.wait with | some w => !flagWaitOk c w.flag | none => false, genFlag),
    (match o.signal with | some g => !flagIdOk g.flag | none => false, genFlag),
    (!opFlagOk c o.op, genFlag),
    (match o.signal with | some g => !decide (1 ≤ g.inc ∧ g.inc ≤ 255) | none => false, genRange)]

/-! ### Scalar slots -/

/-- Where issue goes on after the bundle: in order, at a branch target, or past a skipped loop body. -/
inductive NextOff | inOrder | goto (off : Nat) | skip (off : Nat)
  deriving DecidableEq, Repr

/-- What the scalar slots of a bundle have done so far; `loops` holds the active levels as they leave them. -/
structure Slots where
  st : State
  next : NextOff := .inOrder
  wait : Option FlagWait := none
  loops : Option (List LoopLevel) := none

/-- The active levels that a slot finds. -/
def Slots.levels (z : Slots) (c : Nat) : List LoopLevel := z.loops.getD (z.st.core c).loops

/-- Whether a level's body holds the place where issue goes on: a level whose body an earlier slot of the bundle has skipped
is not entered (DESIGN CHOICE, log entry 92). -/
def Slots.reaches (z : Slots) (l : LoopLevel) : Bool :=
  match z.next with
  | .skip off => decide (l.first ≤ off ∧ off < l.last)
  | _ => true

/-- A scalar load (R260): 8 bytes. -/
def State.scalarLoad (s : State) (c : Nat) (l : Loc) (n : Nat) : Except IssueFault (State × List Byte) :=
  let k := clusterOf c
  match l.kind with
  | .dm =>
    if !s.inLocal c l n then .error (.refused scalarCode genRange)
    else match s.dmBroken c [(l.addr, n)] with
    | some w => .error (.dmem w)
    | none => let t := s.dmSettle c [(l.addr, n)]; .ok (t, (t.core c).dm.read l.addr n)
  | .cm =>
    if !s.inLocal c l n then .error (.refused scalarCode genRange)
    else
      let t := (s.cmSettle k [(l.addr, n)]).bankTurn k (c % 16) l.addr n
      if (t.cluster k).cm.poisoned l.addr n then .error .poison
      else .ok (t, (t.cluster k).cm.read l.addr n)
  | .va => match s.ctxOfCore c with
    | none => .error (.refused scalarCode genRange)
    | some x => match s.readVa x .scalar l.addr n with
      | .error e => .error (.translation ⟨.scalar, c, e.1, .read, e.2⟩)
      | .ok r => if r.2.2 then .error .poison else .ok (r.1, r.2.1)
  | _ => .error (.refused scalarCode genRange)

/-- A scalar store (R260). -/
def State.scalarStore (s : State) (c : Nat) (l : Loc) (bs : List Byte) : Except IssueFault State :=
  match l.kind with
  | .dm =>
    if !s.inLocal c l bs.length then .error (.refused scalarCode genRange)
    else match s.dmBroken c (partialWords (byteWrites l.addr bs)) with
    | some w => .error (.dmem w)
    | none => .ok (s.dmCommit c (byteWrites l.addr bs))
  | .cm =>
    if !s.inLocal c l bs.length then .error (.refused scalarCode genRange)
    else .ok ((s.cmCommit (clusterOf c) (byteWrites l.addr bs) []).bankTurn (clusterOf c) (c % 16) l.addr bs.length)
  | .va => match s.ctxOfCore c with
    | none => .error (.refused scalarCode genRange)
    | some x => match s.writeVa x .scalar l.addr bs false with
      | .error e => .error (.translation ⟨.scalar, c, e.1, .write, e.2⟩)
      | .ok t => .ok t
  | _ => .error (.refused scalarCode genRange)

/-- The count of a LOOP_BEGIN, read once at entry (R71, R73). -/
def State.loopCount (s : State) (c : Nat) : LoopCount → Except IssueFault (State × Word32)
  | .imm n => .ok (s, BitVec.ofNat 32 (n % 65536))
  | .reg r => .ok (s, ((s.core c).sreg r).truncate 32)
  | .dm a => match s.scalarLoad c ⟨.dm, a⟩ 4 with
    | .error e => .error e
    | .ok r => .ok (r.1, BitVec.ofNat 32 (leNat r.2))
  | .cm a => match s.scalarLoad c ⟨.cm, a⟩ 4 with
    | .error .poison => .error .loopPoison
    | .error e => .error e
    | .ok r => .ok (r.1, BitVec.ofNat 32 (leNat r.2))

/-- The levels that a branch to `off` leaves active: a target outside a body ends it and every level inside it (R73). -/
def branchLoops (off : Nat) (ls : List LoopLevel) : List LoopLevel :=
  ls.takeWhile (fun l => decide (l.first ≤ off ∧ off < l.last))

/-- loop_remaining of a level, 0 where no such level is active (R72). -/
def levelCount (ls : List LoopLevel) (level : Nat) : Word64 :=
  match ls[level]? with
  | some l => l.remaining.zeroExtend 64
  | none => 0

/-- One scalar slot. `after` is the offset of the bundle that follows in order. -/
def scalarSlot (c after : Nat) (z : Slots) (slot : ScalarSlot) : Except IssueFault Slots :=
  let u := z.st.core c
  match slot with
  | .setImm rd v => .ok { z with st := z.st.setCore c (u.setSreg rd v) }
  | .alu k rd ra rb => .ok { z with st := z.st.setCore c (u.setSreg rd (scalarAlu k (u.sreg ra) (u.sreg rb))) }
  | .readLoop rd level =>
    .ok { z with st := z.st.setCore c (u.setSreg rd (levelCount (z.levels c) level)) }
  | .mem f =>
    if f.store then
      match z.st.scalarStore c f.loc (leBytes 8 (u.sreg f.reg).toNat) with
      | .error e => .error e
      | .ok t => .ok { z with st := t }
    else
      match z.st.scalarLoad c f.loc 8 with
      | .error e => .error e
      | .ok r => .ok { z with st := r.1.modCore c (fun v => v.setSreg f.reg (BitVec.ofNat 64 (leNat r.2))) }
  | .branch t cond =>
    .ok (if u.sreg cond = 0 then z else { z with next := .goto t, loops := some (branchLoops t (z.levels c)) })
  | .swait w => if flagWaitOk c w.flag then .ok { z with wait := some w } else .error (.refused scalarCode genFlag)
  | .loopBegin f =>
    let ls := z.levels c
    if 4 ≤ ls.length then .error .loopNesting
    else match z.st.loopCount c f.count with
    | .error e => .error e
    | .ok r =>
      let l : LoopLevel := ⟨r.2, after, f.last⟩
      if r.2 = 0 then .ok { z with st := r.1, next := .skip f.last }
      else .ok { z with st := r.1, loops := some (if z.reaches l then ls ++ [l] else ls) }

/-- The scalar slots of a bundle one after the other: the second finds what the first has left (DESIGN CHOICE, log entry 92:
R61 gives no order between them). -/
def scalarSlots (c after : Nat) : List ScalarSlot → Slots → Except IssueFault Slots
  | [], z => .ok z
  | a :: r, z => match scalarSlot c after z a with
    | .error e => .error e
    | .ok z' => scalarSlots c after r z'

/-! ### Issue (R61) -/

/-- Loop levels and next offset after a bundle that ends at `off`: a body whose last bundle ends there repeats while its
count lasts (R72); levels are listed outermost first. -/
def loopBack (off : Nat) : List LoopLevel → List LoopLevel × Nat
  | [] => ([], off)
  | l :: r =>
    let inner := loopBack off r
    if inner.2 ≠ off ∨ inner.1 ≠ [] then (l :: inner.1, inner.2)
    else if l.last = off then
      (if l.remaining.toNat ≤ 1 then ([], off) else ([{ l with remaining := l.remaining - 1 }], l.first))
    else ([l], off)

/-- The 256-byte lines of the code segment that a bundle at `off` touches (R59). -/
def bundleLines (off size : Nat) : List Nat :=
  dedupNat [off / 256, (off + size - 1) / 256]

/-- Whether the scalar processor of core c may issue now: its context is RUNNING and not being pre-empted, the core is
awake, and no halt, end or unsatisfied SWAIT holds it (R61, R68, R78, R81). -/
def State.canIssue (s : State) (c : Nat) : Bool :=
  match s.ctxOfCore c with
  | none => false
  | some x =>
    ((s.ctx x).state == .running) && (s.ctx x).preempt.isNone && !s.ras.fatal && ((s.core c).power == .idle) &&
    (match (s.core c).scalar with
      | .running | .stalledFull => true
      | .swait w => s.waitMet (clusterOf c) w
      | _ => false) &&
    decide ((s.core c).offset < s.segLen c)

/-- Whether every queue that the bundle names has room. -/
def Core.hasRoom (u : Core) (b : Bundle) : Bool :=
  (bundleOps b).all (fun o => decide ((u.queue o.op.queue).length < queueSize o.op.queue))

/-- The stop count in force on core c: its own, else its context's (R81). -/
def Ctx.stopFor (x : Ctx) (logicalCore : Nat) : Nat :=
  let own := sget 0 x.coreStops logicalCore
  if own ≠ 0 then own else x.stopCount

/-- Enters the operations of a bundle into their queues with the environment of its issue (R63, R70, R119). -/
def Core.enqueue (u : Core) (regs : Sparse Word64) (seed : Word64) (stepNo : Word32) (o : OpSlot) : Core :=
  let q := o.op.queue
  let pos := sget 0 u.opCount (queueCode q) + 1
  let e : QEntry := { op := o.op, wait := o.wait, signal := o.signal, pos := pos, seed := seed, stepNo := stepNo,
                      regs := regs, progress := 0, result := none }
  ({ u with opCount := sset 0 u.opCount (queueCode q) pos }).setQueue q (u.queue q ++ [e])

/-- SEED_SET and STEP_SET take effect when the bundle that holds them issues (R70). -/
def Ctx.atIssue (x : Ctx) (o : OpSlot) : Ctx :=
  match o.op with
  | .sync (.seedSet v) => { x with seed := v }
  | .sync (.stepSet v) => { x with stepNo := v }
  | _ => x

/-- The state after a bundle of core c issued, from the state z that its scalar slots left. -/
def State.issued (s : State) (c x : Nat) (b : Bundle) (z : Slots) (hz : Core) : State :=
  let u0 := s.core c
  let after := u0.offset + bundleSize b
  let ctx := (bundleOps b).foldl Ctx.atIssue (z.st.ctx x)
  let t := z.st.setCtx x ctx
  let u := { t.core c with hazard := hz.hazard }
  let u := (bundleOps b).foldl (fun v o => v.enqueue u0.sregs ctx.seed ctx.stepNo o) u
  let count := u0.bundleCount + 1
  let ls := z.loops.getD u.loops
  let lo := match z.next with
    | .goto off => (branchLoops off ls, off)
    | .skip off => loopBack off ls
    | .inOrder => if z.loops.isSome then (ls, after) else loopBack after ls
  let stop := u.stopCount
  let sc : ScalarState :=
    if stop ≠ 0 ∧ stop ≤ count.toNat then .halted
    else match z.wait with
      | some w => .swait w
      | none => if lo.2 < t.segLen c then .running else .ended
  t.setCore c { u with bundleCount := count, loops := lo.1, offset := lo.2, scalar := sc, stallDue := none }

/-- The line of a bundle's words that hold one which cannot be corrected. -/
def Core.brokenLine (u : Core) (b : Bundle) : Option Nat :=
  ((u.prog.badIn [(u.offset, bundleSize b)]).find? (·.2 = .double)).map (fun e => 8 * e.1 / 256)

/-- A line of the program buffer invalidated, to be fetched again; it counts as corrected (Tables 9-1, 9-2). -/
def Core.refetch (u : Core) (l : Nat) : Core :=
  { u with fetched := u.fetched.filter (· ≠ l), prog := { u.prog with bad := u.prog.bad.filter (fun e => 8 * e.1 / 256 ≠ l) }
           sramEcc := bumpFld u.sramEcc 31 0 1, scalar := .fetchStall l }

/-- Issue of one bundle on core c: stall, fault, or the whole bundle (R61). A bundle that both breaks the hazard rule and
holds a faulting scalar slot records the conflict: hazards are checked before the scalar slots act (DESIGN CHOICE, log entry
92: R61 gives no order). -/
def State.issueBundle (s : State) (c : Nat) (b : Bundle) : State :=
  match s.ctxOfCore c with
  | none => s
  | some x =>
    if !s.canIssue c then s
    else
      let u := s.core c
      match (bundleLines u.offset (bundleSize b)).find? (fun l => !u.fetched.contains l) with
      | some l => s.setCore c { u with scalar := .fetchStall l }
      | none => match u.brokenLine b with
      | some l => s.setCore c (u.refetch l)
      | none =>
        let s := s.progSettle c [(u.offset, bundleSize b)]
        let u := s.core c
        if !u.hasRoom b then s.setCore c { u with scalar := .stalledFull }
        else match (bundleOps b).findSome? (fun o => (slotRefusal c o).map (fun st => (queueCode o.op.queue, st))) with
        | some r => s.issueFault c (.refused r.1 r.2)
        | none => match u.hazards (bundleOps b) with
          | .error t => s.issueFault c (.tileConflict t)
          | .ok hz => match scalarSlots c (u.offset + bundleSize b) b.scalar { st := s } with
            | .error e => s.issueFault c e
            | .ok z => s.issued c x b z hz

/-- A bundle of scalar slots alone. -/
def scalarBundle (l : List ScalarSlot) : Bundle := ⟨l, none, none, none, none⟩

/-- A bundle of one sync operation alone. -/
def syncBundle (o : SyncOp) : Bundle := ⟨[], none, none, none, some ⟨.sync o, none, none⟩⟩

/-- BUNDLE_ISSUE (R61). The upsets have struck words of the core's SRAMs before it (DESIGN CHOICE, log entry 101: the row at
which an upset shows). -/
def execBundleIssue (c : CoreId) (r : Issue) (s : State) : Host.Outcome State Fault Refusal :=
  if r.bundle.wf then .next ((s.upset c r.upsets).issueBundle c r.bundle) else .refused .illFormed

/-- LOOP_BEGIN (R71): the bundle that holds this slot alone. -/
def execLoopBegin (c : CoreId) (f : LoopF) (s : State) : Host.Outcome State Fault Refusal :=
  let b := scalarBundle [.loopBegin f]
  if b.wf then .next (s.issueBundle c b) else .refused .illFormed

/-- SWAIT (R68): the bundle that holds this slot alone. -/
def execSwait (c : CoreId) (w : FlagWait) (s : State) : Host.Outcome State Fault Refusal :=
  .next (s.issueBundle c (scalarBundle [.swait w]))

/-- SCALAR_LOAD_STORE (R260): the bundle that holds this slot alone. -/
def execScalarLoadStore (c : CoreId) (f : ScalarMemF) (s : State) : Host.Outcome State Fault Refusal :=
  .next (s.issueBundle c (scalarBundle [.mem f]))

/-- SEED_SET (R70): the bundle that holds this operation issues. -/
def execSeedSet (c : CoreId) (seed : Word64) (s : State) : Host.Outcome State Fault Refusal :=
  .next (s.issueBundle c (syncBundle (.seedSet seed)))

/-- STEP_SET (R70): the bundle that holds this operation issues. -/
def execStepSet (c : CoreId) (stepNo : Word32) (s : State) : Host.Outcome State Fault Refusal :=
  .next (s.issueBundle c (syncBundle (.stepSet stepNo)))

/-! ### Program buffer (R59) -/

/-- Lines of one set of the 4-way buffer of 128 sets. -/
def insertLine (ls : List Nat) (l : Nat) : List Nat :=
  let same := (ls.filter (fun m => m % 128 = l % 128 ∧ m ≠ l)).take 3
  l :: ls.filter (fun m => m % 128 ≠ l % 128 ∨ same.contains m)

/-- FETCH_MISS (R59): the line that a core waits for arrives and issue resumes; a fetch that cannot be translated faults
the core (Table 10-6). -/
def State.fetchArrives (s : State) (c line : Nat) : State :=
  match s.ctxOfCore c, s.segment c, (s.core c).scalar with
  | some x, some seg, .fetchStall l =>
    if l ≠ line then s
    else match s.translate x .fetch .fetch (seg.1 + 256 * line) with
      | .error k => s.tfault x ⟨.fetch, c, k, .fetch, seg.1 + 256 * line⟩ 0x01 c (some (s.core c).bundleCount.toNat)
      | .ok _ => s.modCore c (fun u => { u with
          fetched := insertLine u.fetched line, scalar := .running
          prog := { u.prog with bad := u.prog.bad.filter (fun e => 8 * e.1 / 256 ≠ line) } })
  | _, _, _ => s

def execFetchMiss (c : CoreId) (line : Nat) (s : State) : Host.Outcome State Fault Refusal :=
  .next (s.fetchArrives c line)

/-! ### Sync operations (R70) -/

/-- FLAG_WAIT: done once the flag reaches its target; until then it stays in flight. -/
def State.flagWaitOp (s : State) (c : Nat) (flag : BitVec 16) (target : Word32) : State :=
  let o : Op := .sync (.flagWait flag target)
  if s.waitMet (clusterOf c) ⟨flag, target⟩ then s.recordOutcome c o .done else s

def execFlagWait (c : CoreId) (flag : BitVec 16) (target : Word32) (s : State) : Host.Outcome State Fault Refusal :=
  .next (s.flagWaitOp c flag target)

/-- The check of FLAG_ADD: an increment from 1 to 65,535. -/
def flagAddCheck (inc : Nat) : Option Status := firstFail [(!decide (1 ≤ inc ∧ inc ≤ 65535), genRange)]

/-- The check of FLAG_READ: a data-memory address aligned to 4 bytes. -/
def flagReadCheck (addr : Nat) : Option Status :=
  firstFail [(!decide (addr % 4 = 0 ∧ addr + 4 ≤ dmSize), genRange)]

def execFlagRead (c : CoreId) (flag : BitVec 16) (addr : Nat) (s : State) : Host.Outcome State Fault Refusal :=
  .next (s.runOp c (.sync (.flagRead flag addr)) (flagReadCheck addr) (fun _ t =>
    t.storeDm c addr (leBytes 4 (t.flag (clusterOf c) flag).toNat)))

/-! ### Places of the agents (R193, R291, R374) -/

/-- Operations in flight without an outcome on the DMA queues of a cluster that pass a test. -/
def State.clusterFlight (s : State) (k : Nat) (p : DmaOp → Bool) : Nat :=
  ((List.range 16).flatMap (fun i => (s.core (16 * k + i)).dmaF.filter (fun e => e.result.isNone && (match e.op with
    | .dma o => p o
    | _ => false)))).length

def isRoute : DmaOp → Bool | .route _ | .routeGrad _ => true | _ => false
def isStage : DmaOp → Bool | .shardStage _ => true | _ => false
def isXsend : DmaOp → Bool | .xsend _ => true | _ => false
def isXrecv : DmaOp → Bool | .xrecvArm _ => true | _ => false
def isColl : DmaOp → Bool | .collStart _ | .beacon _ => true | _ => false

/-- Whether the agent that an operation names has a place for it; without one it waits in its queue. -/
def State.agentRoom (s : State) (c : Nat) : Op → Bool
  | .dma o =>
    let k := clusterOf c
    if isXsend o then decide (s.clusterFlight k isXsend < 8)
    else if isXrecv o then decide (s.clusterFlight k isXrecv < 8)
    else if isColl o then decide (s.clusterFlight k isColl < 4)
    else match o with
      | .update f => decide ((s.group f.engine).updPending.length + (s.group f.engine).updating.toList.length < 17)
      | .shardStage _ => decide (s.clusterFlight k isStage < 2)
      | _ => true
  | _ => true

/-! ### Stall monitor (R78, R79) -/

/-- The wait that a queue's head holds unsatisfied: of the entry itself, or of a FLAG_WAIT in flight. -/
def State.waitsOn (s : State) (c : Nat) (q : QueueId) : Option FlagWait :=
  let u := s.core c
  let k := clusterOf c
  match q with
  | .sync => (u.syncF ++ u.syncQ).head?.bind (fun e => match e.op with
      | .sync (.flagWait f t) => if s.waitMet k ⟨f, t⟩ then none else some ⟨f, t⟩
      | _ => none)
  | _ => (u.queue q).head?.bind (fun e => match e.wait with
      | some w => if s.waitMet k w then none else some w
      | none => none)

/-- Whether the queue is empty. -/
def Core.idleQueue (u : Core) (q : QueueId) : Bool :=
  match q with
  | .sync => u.syncQ.isEmpty && u.syncF.isEmpty
  | _ => (u.queue q).isEmpty

/-- Whether the head of a queue is a waiting operation: its wait is not met, or the agent it names has no place for it
(R193, R291, R374). -/
def State.headWaits (s : State) (c : Nat) (q : QueueId) : Bool :=
  (s.waitsOn c q).isSome || (((s.core c).queue q).head?.map (fun e => !s.agentRoom c e.op)).getD false

/-- Whether a message of an operation waits because no outbound context is free (R359). -/
def State.messageWaits (s : State) (c : Nat) (e : QEntry) : Bool :=
  decide (8192 ≤ s.xpt.outbound.length) && s.xpt.toSend.any (fun m =>
    (s.ctx m.ctx).clusters.contains (clusterOf c) &&
      (m.owner == .op ((s.ctx m.ctx).logicalCore c) e.pos || m.owner == .xsend ((s.ctx m.ctx).logicalCore c) e.pos))

/-- Whether an operation in flight is a waiting operation: a STASH_PUT that waits for a read to end (R159), or one that
finds no message context free (R359). -/
def State.opWaits (s : State) (c : Nat) (e : QEntry) : Bool :=
  (match e.op with
    | .dma (.stashPut f) => (s.cluster (clusterOf c)).pocket.waiting.contains (c, f)
    | _ => false) || s.messageWaits c e

/-- What the scalar processor of core c is doing now: an SWAIT whose flag has reached its target holds nothing back. -/
def State.scalarNow (s : State) (c : Nat) : ScalarState :=
  match (s.core c).scalar with
  | .swait w => if s.waitMet (clusterOf c) w then (if (s.core c).offset < s.segLen c then .running else .ended) else .swait w
  | x => x

/-- Whether a full queue whose head waits holds up issue. -/
def State.fullWaits (s : State) (c : Nat) : Bool :=
  allQueues.any (fun q => decide (queueSize q ≤ ((s.core c).queue q).length) && s.headWaits c q)

/-- The completion flags of the rings in progress on a cluster (R388). -/
def State.ringFlags (s : State) (k : Nat) : List (BitVec 16) :=
  (s.cluster k).colls.filterMap (fun z => ((s.ctx z.ctx).program.bind (fun p => p.colls[z.f.desc]?)).bind (fun d =>
    if d.op = 5 then some d.flagA else none))

/-- The flags that work in progress of core c will set: signals of operations in flight. -/
def State.flagsInFlight (s : State) (c : Nat) : List (BitVec 16) :=
  allQueues.flatMap (fun q => (((s.core c).inFlight q).filter (fun e => !s.opWaits c e)).filterMap (fun e =>
    e.signal.map (·.flag)))

/-- Flags that work in progress may set (R70, R78): operations in flight on core c, armed receives and rings of its cluster, and
what other agents carry out for DMA queues of the cluster. -/
def State.armedFlags (s : State) (c : Nat) : List (BitVec 16) :=
  s.flagsInFlight c ++ (s.cluster (clusterOf c)).xrecvs.map (·.f.flag) ++ s.ringFlags (clusterOf c) ++
  (List.range 16).flatMap (fun i =>
    let d := 16 * clusterOf c + i
    ((s.core d).dmaF.filter (fun e => !s.opWaits d e)).filterMap (fun e => e.signal.map (·.flag)))

/-- The waits of a core: of its queues, then of its scalar processor. -/
def State.coreWaits (s : State) (c : Nat) : List FlagWait :=
  allQueues.filterMap (s.waitsOn c) ++
  (match (s.core c).scalar with | .swait w => if s.waitMet (clusterOf c) w then [] else [w] | _ => [])

/-- The three conditions of R78, as they stand now. An operation in flight that waits for a Pocket read or for a message
context is a waiting operation (R159, R359). -/
def State.waitCycle (s : State) (c : Nat) : Bool :=
  let u := s.core c
  allQueues.all (fun q => u.idleQueue q || s.headWaits c q) &&
  (allQueues.any (s.headWaits c) || !(s.coreWaits c).isEmpty || u.dmaF.any (s.opWaits c)) &&
  (match s.scalarNow c with | .swait _ | .ended => true | .stalledFull => s.fullWaits c | _ => false) &&
  (s.coreWaits c).all (fun w => !(s.armedFlags c).contains w.flag) &&
  (match s.ctxOfCore c with
    | some x => ((s.ctx x).state == .running) && (s.ctx x).preempt.isNone
    | none => false)

/-- The detail of a WAIT_CYCLE record: flag, value, target of each wait (Table 21-3). -/
def State.waitDetail (s : State) (c : Nat) : List Byte :=
  (s.coreWaits c).flatMap (fun w =>
    leFields [(2, w.flag.toNat), (4, (s.flag (clusterOf c) w.flag).toNat), (4, w.target.toNat)])

/-- Nanoseconds of limit_ms. -/
def Core.stallNs (u : Core) : Nat := fld32 u.stallCfg 15 0 * 1000000

/-- Whether the conditions have held for longer than the stall limit in force when they began to (R78, R80). -/
def State.stallPassed (s : State) (c : Nat) : Bool :=
  match (s.core c).stallDue with
  | some d => decide (d < s.now)
  | none => false

/-- WAIT_CYCLE_SUSPECTED: the stall limit has expired; the report writes one record and informs the context's sessions,
and changes nothing of the core but the latch that holds off a second report (R79). -/
def State.stallReport (s : State) (c : Nat) : State :=
  if s.waitCycle c && s.stallPassed c && fld32 (s.core c).stallCfg 31 31 == 1 && !(s.core c).stallReported then
    let l : LogArgs := { cls := 0, cause := 0x2008#16, block := 0x01, inst := c, ctx := s.ctxOfCore c, detail := s.waitDetail c }
    let body := (s.logRecord l).toBytes
    let t := ((s.log l).wakeCore c).modCore c (fun u => { u with stallReported := true })
    match s.ctxOfCore c with
    | some x => t.noticeCtx x 3 body
    | none => t
  else s

def execWaitCycleSuspected (c : CoreId) (s : State) : Host.Outcome State Fault Refusal :=
  .next (s.stallReport c)

/-! ### Bundle stop count (R81, R82) -/

/-- Whether a queue's head holds a resumable fault, which nothing moves before the context resumes (R258). -/
def Core.headHeld (u : Core) (q : QueueId) : Bool := ((u.queue q).head?.map (fun e => e.result.isSome)).getD false

/-- Whether a core has nothing left to do: it issues nothing more, as no core does whose context does not run, and it has
only waiting operations. -/
def State.coreAtRest (s : State) (c : Nat) : Bool :=
  let u := s.core c
  let runs := ((s.ctxOfCore c).map (fun x => (s.ctx x).state == .running)).getD false
  (!runs || (match s.scalarNow c with
    | .halted | .ended | .stopped | .swait _ => true
    | .stalledFull => s.fullWaits c
    | _ => false)) &&
  allQueues.all (fun q => u.idleQueue q || s.headWaits c q || u.headHeld q) &&
  [QueueId.matrix, .vector, .dma].all (fun q => (u.inFlight q).all (s.opWaits c))

/-- Whether transport holds a message context of context x. -/
def State.xptActive (s : State) (x : Nat) : Bool :=
  s.xpt.toSend.any (fun m => m.ctx == x) ||
  s.xpt.outbound.any (fun e => match e.2 with | some m => m.msg.ctx == x && !m.ended | none => false) ||
  s.xpt.inbound.any (fun e => match e.2 with | some m => m.ctx == x | none => false)

/-- Quiescence of a context (R82). -/
def State.quiescent (s : State) (x : Nat) : Bool :=
  (s.ctx x).cores.all s.coreAtRest && !s.xptActive x &&
  (s.ctx x).clusters.all (fun k => (s.cluster k).colls.isEmpty && (s.cluster k).xsends.isEmpty) &&
  s.hp.chunks.all (fun h => h.ctx != x)

/-- STOP_REACHED: a RUNNING context of which some core has halted at its stop count becomes quiescent and STOPPED, and
Lantern reports it. -/
def State.stopReached (s : State) (x : Nat) : State :=
  if (s.ctx x).state = .running ∧ s.quiescent x ∧ (s.ctx x).cores.any (fun c => (s.core c).scalar == .halted) then
    (s.modCtx x (fun v => { v with state := .stopped, stopHalted := true })).noticeCtx x 2 []
  else s

def execStopReached (x : CtxId) (s : State) : Host.Outcome State Fault Refusal :=
  .next (s.stopReached x)

/-- BEACON_MARK (R290): sets the context's non-finite bit. -/
def execBeaconMark (c : CoreId) (s : State) : Host.Outcome State Fault Refusal :=
  .next (s.runOp c (.sync .beaconMark) none (fun _ t =>
    (match t.ctxOfCore c with | some x => t.modCtx x (fun v => { v with nonfinite := true }) | none => t, .done)))

end Sys2Proof.Machine
end

