-- ==== Sys2Proof/Machine/Power.lean ====
section
/-! DEFINITION. Power (spec/18_power_management.md R433 to R455; spec/22 R514): the power commands, Doze and
Off, rails, trim, power cap, thermal limit and pacing. -/

namespace Sys2Proof.Machine

/-! ### POWER_POLICY, POWER_STATUS (Table 17-9) -/

/-- POWER_POLICY: the cap, the ceiling, and the timers whose field is not 0. -/
def execPowerPolicy (q : Req) (capW ceiling coreDozeUs clusterOffMs : Nat) (s : State) : Host.Outcome State Fault Refusal :=
  let own := firstFail [
    (decide (capW < 200 ∨ 850 < capW ∨ 2 < ceiling ∨ 1000000 < coreDozeUs ∨ 60000 < clusterOffMs), genRange)]
  .next (s.command (.powerPolicy q capW ceiling coreDozeUs clusterOffMs) q 0x80 16 none own (fun t =>
    let c1 := if coreDozeUs = 0 then t.power.cfg else withFld t.power.cfg 51 32 coreDozeUs
    let c2 := if clusterOffMs = 0 then c1 else withFld c1 31 16 clusterOffMs
    ({ t with power := { t.power with cfg := c2, capCfg := withFld32 (withFld32 t.power.capCfg 11 10 ceiling) 9 0 capW } },
      stDone, [])))

/-- Hottest junction of the device, 0.1 °C. -/
def State.hottest (s : State) : Int := (List.range 4).foldl (fun m q => max m (s.rail q).tempDc) (s.rail 0).tempDc

/-- The power record of Table 17-9. -/
def State.powerRecord (t : State) : List Byte :=
  let rate := (List.range 4).foldl (fun m i => min m (t.rail i).rate) (t.rail 0).rate
  leFields [(4, t.power.inputMw), (4, ((t.hottest * 100) % 4294967296).toNat)] ++
    leFields ((List.range 4).map (fun i => (2, (t.rail i).mv))) ++
    leFields [(2, fld32 t.power.capCfg 9 0), (1, fld32 t.power.capCfg 11 10), (1, 0), (4, rate)]

/-- POWER_STATUS. -/
def execPowerStatus (q : Req) (s : State) : Host.Outcome State Fault Refusal :=
  .next (s.command (.powerStatus q) q 0x81 0 none none (fun t => (t, stDone, t.powerRecord)))

/-! ### Idle units (R434, R438) -/

/-- Whether an operation of the DMA queue runs on the core's own DMA engine (Table 3-2). -/
def onCoreDma : Op → Bool
  | .dma (.copy _) | .dma (.put _) | .dma (.get _) | .dma (.atomic _) | .dma (.flagSet _) | .dma (.reducePut _) => true
  | _ => false

/-- Whether the scalar processor of core c issues nothing (R434). -/
def State.issuesNothing (s : State) (c : Nat) : Bool :=
  let runs := ((s.ctxOfCore c).map (fun x => (s.ctx x).state == .running)).getD false
  !runs || (match s.scalarNow c with
    | .halted | .ended | .stopped | .swait _ => true
    | .stalledFull => s.fullWaits c
    | _ => false)

/-- Whether core c is idle (R434). -/
def State.coreIdle (s : State) (c : Nat) : Bool :=
  let u := s.core c
  s.issuesNothing c && allQueues.all (fun q => u.idleQueue q || s.headWaits c q) &&
    u.matrixF.isEmpty && u.vectorF.isEmpty && u.dmaF.all (fun e => !onCoreDma e.op) &&
    u.syncF.all (fun _ => (s.waitsOn c .sync).isSome)

/-- Whether an operation occupies an agent of its cluster: an armed receive or a collective that waits does not. -/
def busyAgent (e : QEntry) : Bool :=
  e.result.isNone && match e.op with
    | .dma (.copy _) | .dma (.stashPut _) | .dma (.stashGet _) | .dma (.stashDrop _) | .dma (.route _) | .dma (.routeGrad _)
    | .dma (.xsend _) | .dma (.visitClear _) | .dma (.shardStage _) => true
    | _ => false

/-- Whether an agent of cluster k has an operation in progress (R438). -/
def State.agentBusy (s : State) (k : Nat) : Bool :=
  let u := s.cluster k
  (List.range 16).any (fun c => (s.core (16 * k + c)).dmaF.any busyAgent) || !u.xsends.isEmpty || !u.pocket.waiting.isEmpty ||
    u.colls.any (fun z => z.stages.any (fun g => g.outstanding != 0 || !g.parts.isEmpty))

/-- Whether all 16 cores of cluster k are in Doze. -/
def State.coresDoze (s : State) (k : Nat) : Bool := (List.range 16).all (fun c => (s.core (16 * k + c)).power == .doze)

/-! ### Refusers (R445, R446, Table 18-4) -/

/-- The counters of Table 18-6 after a refusal: reason and block. -/
def statRefused (w : Word64) (r : Nat × Nat) : Word64 := withFld (withFld (bumpFld w 21 12 1) 11 4 r.2) 3 0 r.1

/-- The counters after an entry. -/
def statEntered (w : Word64) : Word64 := bumpFld w 63 32 1

/-! ### Doze (R435 to R438) -/

/-- CORE_DOZE: the core has stayed idle for the core_doze_us in force when it became idle; a refused expiry starts the time
again. -/
def execCoreDoze (c : CoreId) (s : State) : Host.Outcome State Fault Refusal :=
  let k := clusterOf c
  .next (if (s.core c).power ≠ .idle ∨ (s.cluster k).power ≠ .on ∨ !s.coreIdle c ∨ !dueBy (s.core c).dozeDue s.now then s
    else match s.coreRefuser k with
    | some r => s.modCore c (fun u => { u with pwrStat := statRefused u.pwrStat r, dozeDue := some (s.now + s.dozeNs) })
    | none => s.modCore c (fun u => { u with power := .doze, dozeDue := none, pwrStat := statEntered u.pwrStat }))

/-- CORE_WAKE: a wake event of a dozing core, which ends its cluster's Doze as well; one that finds the core entering Doze
aborts the entry (R436). -/
def execCoreWake (c : CoreId) (s : State) : Host.Outcome State Fault Refusal :=
  .next (if ((s.core c).power = .doze ∧ (s.cluster (clusterOf c)).power ≠ .off) ∨ s.dozeEntering c then s.wakeCore c else s)

/-- CLUSTER_DOZE: all cores have dozed with no agent in operation for the core_doze_us in force when that began; a refused
expiry starts the time again. -/
def execClusterDoze (k : ClusterId) (s : State) : Host.Outcome State Fault Refusal :=
  .next (if (s.cluster k).power ≠ .on ∨ !s.coresDoze k ∨ !dueBy (s.cluster k).dozeDue s.now then s
    else match firstRefuser (!bitOf s.power.cfg.toNat 62) (s.testing k) (s.rail (railOf k)).stepping (s.agentBusy k) false 0x02 with
    | some r => s.modCluster k (fun u => { u with dozeStat := statRefused u.dozeStat r, dozeDue := some (s.now + s.dozeNs) })
    | none => s.modCluster k (fun u =>
        { u with power := .doze, dozeDue := none, offAt := s.now + s.offNs, dozeStat := statEntered u.dozeStat }))

/-- CLUSTER_WAKE. -/
def execClusterWake (k : ClusterId) (s : State) : Host.Outcome State Fault Refusal :=
  .next (if (s.cluster k).power = .doze then s.wakeCluster k else s)

/-! ### Off (R439 to R442) -/

/-- CLUSTER_OFF_ENTRY: the timer of a dozing cluster expires. -/
def execClusterOffEntry (k : ClusterId) (s : State) : Host.Outcome State Fault Refusal :=
  .next (if (s.cluster k).power ≠ .doze ∨ s.now < (s.cluster k).offAt then s
    else match firstRefuser (!bitOf s.power.cfg.toNat 61) (s.testing k) false (s.agentBusy k) (s.ctxOfCluster k).isSome 0x02 with
    | some r => s.modCluster k (fun u => { u with offStat := statRefused u.offStat r, offAt := s.now + s.offNs })
    | none => (((s.writeSave k).powerDown k)).modCluster k (fun u => { u with offStat := statEntered u.offStat }))

/-- CLUSTER_OFF_EXIT. -/
def execClusterOffExit (k : ClusterId) (s : State) : Host.Outcome State Fault Refusal :=
  .next (if (s.cluster k).power = .off then s.offExit k else s)

/-! ### ALERT_N (R514) -/

/-- Whether a cause of R514 holds. -/
def State.alertCause (s : State) : Bool :=
  s.ras.fatal || s.pins.holding || !s.pins.refSerdes || !s.pins.refSys || fld s.power.capStat 1 1 == 1 ||
    decide (s.pins.input48 < 40000 ∨ 60000 < s.pins.input48)

/-- ALERT_N as its causes drive it. -/
def State.withAlert (s : State) : State := { s with pins := { s.pins with alertLow := s.alertCause } }

/-! ### Rails (R449) -/

def State.anyPaced (s : State) : Bool := (List.range 4).any (fun q => (s.rail q).pace != 0)

/-- v_want of rail q. -/
def State.railWant (s : State) (q : Nat) : Nat :=
  (max 620 (min 850 ((vCurve q (s.rail q).tempDc s.target : Int) + (s.rail q).trim))).toNat

/-- The rail one 10 µs step on: at most 5 mV toward its goal, and up only when nothing is paced (R451). -/
def railStep (v : RailState) (want : Nat) (paced : Bool) : RailState :=
  let goal := min want v.vLimit
  let mv := if goal < v.mv then max goal (v.mv - 5) else if v.mv < goal ∧ !paced then min goal (v.mv + 5) else v.mv
  { v with mv := mv, vWant := want, stepping := mv != v.mv, stood := v.stood && v.mv == want && mv == want }

/-- RAIL_UPDATE. -/
def execRailUpdate (s : State) : Host.Outcome State Fault Refusal :=
  .next ((List.range 4).foldl (fun t q =>
    if (t.rail q).up then t.setRail q (railStep (t.rail q) (t.railWant q) t.anyPaced) else t) s)

/-- TRIM_ADJUST of one rail from the lowest rate measured in its quadrant, k waves/s. -/
def State.trimRail (s : State) (q rate : Nat) : State :=
  let v := { s.rail q with rate := rate }
  let r := 1000 * s.target
  let low := decide (rate < r)
  let trim := if !v.stood then v.trim
    else if low then min 30 (v.trim + 5)
    else if 103 * r < 100 * rate then max (-30) (v.trim - 5) else v.trim
  let told := v.trim == 30 && low && decide (v.trimLogAt ≤ s.now)
  let t := s.setRail q { v with trim := trim, stood := v.mv == v.vWant
                                trimLogAt := if told then s.now + 1000000000 else v.trimLogAt }
  if told then t.corrected { cls := 0, cause := 0x2018#16, block := 0x0C, inst := 520 + q, detail := leFields [(1, q), (4, rate)] } else t

/-- TRIM_ADJUST: the rates are given by rail. -/
def execTrimAdjust (rates : List Nat) (s : State) : Host.Outcome State Fault Refusal :=
  .next ((rates.take 4).zipIdx.foldl (fun t (p : Nat × Nat) => if (t.rail p.2).up then t.trimRail p.2 p.1 else t) s)

/-! ### Power cap, thermal limit, pacing (R450, R451, R453) -/

/-- The limit of one rail after a sample: `cap` and `hot` say that power or temperature exceeds its limit, `easy` that both
lie below by their margins, `paced` that some quadrant is paced. -/
def railLimit (v : RailState) (cap hot easy paced : Bool) : RailState :=
  let v := { v with capLimited := v.capLimited || cap, thermalLimited := v.thermalLimited || hot }
  let w : RailState :=
    if cap || hot then
      let fall := (if cap then 5 else 0) + (if hot then 5 else 0)
      { v with pace := if v.mv = 620 then min 7 (v.pace + 1) else v.pace, vLimit := max 620 (v.vLimit - fall), riseCount := 0, paceCount := 0 }
    else if !easy then { v with riseCount := 0, paceCount := 0 }
    else if v.pace ≠ 0 then
      if v.paceCount = 4 then { v with pace := v.pace - 1, paceCount := 0, riseCount := 0 }
      else { v with paceCount := v.paceCount + 1, riseCount := 0 }
    else if paced then { v with riseCount := 0, paceCount := 0 }
    else if v.riseCount = 4 then { v with vLimit := min 850 (v.vLimit + 5), riseCount := 0, paceCount := 0 }
    else { v with riseCount := v.riseCount + 1, paceCount := 0 }
  let limits := w.vLimit < w.vWant ∨ w.pace ≠ 0
  { w with capLimited := w.capLimited && decide limits, thermalLimited := w.thermalLimited && decide limits }

/-- The hottest of the sensors of quadrant q; its last temperature where the sample gives none. -/
def State.quadrantTemp (s : State) (q : Nat) (temps : List Int) : Int :=
  match (clustersOfRail q).filterMap (fun k => temps[k]?) with
  | [] => (s.rail q).sensorDc
  | t :: r => r.foldl max t

/-- Milliseconds counted in 10 µs steps: the remainder and the whole millisecond that a step completes. -/
def countMs (us : Nat) (on : Bool) : Nat × Nat := if !on then (us, 0) else if us + 10 < 1000 then (us + 10, 0) else (us + 10 - 1000, 1)

/-- PWR_CAP_STAT after a sample. -/
def State.capStatNow (s : State) : State :=
  let rails := (List.range 4).map s.rail
  let duty := rails.foldl (fun m v => max m v.pace) 0
  let l := countMs s.power.limitUs (rails.any (fun v => v.mv < v.vWant))
  let p := countMs s.power.paceUs (duty != 0)
  let w := bumpFld (bumpFld s.power.capStat 63 32 l.2) 31 12 p.2
  let w := withFld (withFld (withFld w 7 5 duty) 1 1 (rails.any (·.thermalLimited)).toNat) 0 0 (rails.any (·.capLimited)).toNat
  { s with power := { s.power with capStat := w, limitUs := l.1, paceUs := p.1 } }

/-- Whether a refresh-rate change for temperature is in progress in each controller group: the spec does not say when one is,
so that each sample draws it (Table 9-5; free value, log entry 13). -/
def State.refreshDrawn (s : State) : State :=
  (List.range 16).foldl (fun t g =>
    let b := bitOf (Config.freeNat s.freeCtr) g
    if (t.group g).tempChange = b then t else t.modGroup g (fun v => { v with tempChange := b })) s.drawn

/-- POWER_SAMPLE: module input power in mW and the 16 sensors in 0.1 °C, by cluster. -/
def State.powerSampled (s : State) (milliwatts : Nat) (temps : List Int) : State :=
  let capMw := 1000 * fld32 s.power.capCfg 9 0
  let tj : Int := 10 * fld32 s.power.capCfg 22 16
  let s := { s with power := { s.power with inputMw := milliwatts } }
  let paced := s.anyPaced
  let t := (List.range 4).foldl (fun u q =>
    let temp := s.quadrantTemp q temps
    let easy := decide (100 * milliwatts < 98 * capMw ∧ temp < tj - 20)
    u.setRail q { railLimit (s.rail q) (decide (capMw < milliwatts)) (decide (tj < temp)) easy paced with tempDc := temp, sensorDc := temp }) s
  t.capStatNow.withAlert

def execPowerSample (milliwatts : Nat) (tempsDc : List Int) (s : State) : Host.Outcome State Fault Refusal :=
  .next (s.powerSampled milliwatts tempsDc).refreshDrawn

end Sys2Proof.Machine
end

