-- ==== Sys2Proof/Machine/MemRows.lean ====
section
/-! DEFINITION. The commands of the memory system and of the page-table walkers (spec/09_memory_system_and_ecc.md,
spec/10_translation_faults_and_preemption.md): lines, self-refresh, scrubs, walks. -/

namespace Sys2Proof.Machine

/-! ### Lines (R234, R235, R243) -/

/-- Whether an address lies in LPDDR. -/
def inLpddr (pa : Nat) : Bool := decide (pa < lpddrEnd)

/-- The number of a traffic kind in Table 1-7; the scrub has none. -/
def trafficNumber : Traffic → Option Nat
  | .dma => some 0 | .xch => some 1 | .coll => some 2 | .update => some 3 | .host => some 4 | .scrub => none

/-- A transaction that reaches its channel under its kind; the scrub's has a slot of its own (R233). -/
def State.lineRow (s : State) (k : Traffic) (line : Nat) (act : LineAct) : State :=
  match trafficNumber k with
  | some n => s.lineRequest ⟨n, line, act⟩
  | none => (s.awake line).act ⟨0, line, act⟩

/-- LINE_READ: the controller reads the line of pa. An address outside LPDDR has no line. -/
def execLineRead (pa : Nat) (k : Traffic) (upset : List (Nat × BitVec 16)) (s : State) : Host.Outcome State Fault Refusal :=
  .next (if inLpddr pa then s.lineRow k (pa / 64) (.read upset) else s)

/-- LINE_WRITE: bytes within one line, whole or in part; the read of a part finds what the array has changed. -/
def execLineWrite (pa : Nat) (bytes : List Byte) (poison : Bool) (via : LineVia) (s : State) : Host.Outcome State Fault Refusal :=
  .next (if inLpddr pa && decide (bytes ≠ [] ∧ pa % 64 + bytes.length ≤ 64) then
      s.lineRow via.kind (pa / 64) (.write (pa % 64) bytes poison via.upset)
    else s)

/-- LINE_ATOMIC: a 64-bit ATOMIC on an aligned word; on a poisoned line its data stay (R234). -/
def execLineAtomic (pa : Nat) (op : Nat) (operand compare : Word64) (via : LineVia) (s : State) :
    Host.Outcome State Fault Refusal :=
  .next (if inLpddr pa && decide (pa % 8 = 0 ∧ op < 3) then
      s.lineRow via.kind (pa / 64) (.atomic (pa % 64) op operand compare via.upset)
    else s)

/-! ### Self-refresh (R236 to R238) -/

/-- SELF_REFRESH_ENTRY: the idle timer of the group has reached its idle time. A refused expiry starts the timer again
(DESIGN CHOICE, log entry 13). -/
def execSelfRefreshEntry (g : GroupId) (s : State) : Host.Outcome State Fault Refusal :=
  let v := s.group g
  let r := srRefuser s g
  .next (if v.selfRefresh || !bitOf v.srCfg.toNat 31 || !dueBy v.srDue s.now then s
    else if r ≠ 0 then s.setGroup g { v with srStat := withFld (bumpFld v.srStat 15 4 1) 3 0 r, srDue := some (s.now + v.idleNs) }
    else s.setGroup g { v with selfRefresh := true, srDue := none, srStat := bumpFld v.srStat 63 32 1 })

/-- SELF_REFRESH_EXIT: the group is awake again, and what has waited takes effect. -/
def execSelfRefreshExit (g : GroupId) (s : State) : Host.Outcome State Fault Refusal :=
  .next (if (s.group g).selfRefresh then s.srExit g else s)

/-! ### Scrubs (R245, R226) -/

/-- The physical address of local address `loc` of channel ch: the inverse of R231. -/
def paOf (ch loc : Nat) : Nat :=
  let hi := loc / 256
  let fold := bitsOf hi 6 0 ^^^ bitsOf hi 13 7 ^^^ bitsOf hi 20 14 ^^^ bitsOf hi 25 21
  hi * 2 ^ 15 + (ch ^^^ fold) * 256 + loc % 256

/-- Lines of a channel: 12 GiB. -/
def channelLines : Nat := 12 * 2 ^ 30 / 64

/-- Line number of step n of a group's pass: channel after channel (DESIGN CHOICE, log entry 12). -/
def scrubLine (g n : Nat) : Nat := paOf (8 * g + n / channelLines) (64 * (n % channelLines)) / 64

/-- Length of a pass in nanoseconds. -/
def scrubPassNs (v : Group) : Nat := fld32 v.scrubCfg 15 0 * 3600000000000

/-- PATROL_SCRUB: the group reads, decodes and corrects the next line of its pass. -/
def execPatrolScrub (g : GroupId) (upset : List (Nat × BitVec 16)) (s : State) : Host.Outcome State Fault Refusal :=
  let v := s.group g
  .next (if v.selfRefresh || !bitOf v.scrubCfg.toNat 31 then s
    else
      let t := (s.fetchLine (scrubLine g v.scrubNext) upset).1
      t.modGroup g (fun w =>
        if v.scrubNext + 1 < 8 * channelLines then { w with scrubNext := v.scrubNext + 1 }
        else { w with scrubNext := 0, scrubDue := s.now + scrubPassNs v }))

/-- A patrolled memory of the firmware: a double error is fatal (Table 9-1), a single one is corrected. -/
def State.patrolFatal (s : State) (m : Sram) (word kind : Nat) : State :=
  if sget none m.bad word = some .double then
    s.fatalError { cls := 3, cause := 0x201B#16, addr := 8 * word, detail := leBytes 1 kind } false
  else s

/-- SRAM_PATROL_SCRUB: a word of cluster memory, Lantern SRAM or Wardrobe is read and corrected (R224, R226). -/
def execSramPatrolScrub (m : PatrolMem) (word : Nat) (err : Option WordErr) (s : State) : Host.Outcome State Fault Refusal :=
  .next (match m with
    | .cluster k =>
      if (s.cluster k).power ≠ .on ∨ cmSize ≤ 8 * word then s
      else (s.modCluster k (fun u => { u with cm := u.cm.struck word err })).cmSettle k [(8 * word, 8)]
    | .lantern =>
      if 2 ^ 21 ≤ 8 * word then s
      else
        let r := s.lantern.sram.struck word err
        ({ s with lantern := { s.lantern with sram := r.settle false [(8 * word, 8)] } }).patrolFatal r word 6
    | .wardrobe =>
      if 2 ^ 18 ≤ 8 * word then s
      else
        let r := s.power.wardrobe.struck word err
        ({ s with power := { s.power with wardrobe := r.settle false [(8 * word, 8)] } }).patrolFatal r word 7)

/-! ### Walks (R253, R254, R264) -/

/-- Table lines that a walk of va reads, as far as valid pointers lead it. -/
def State.walkLines (s : State) (root va : Nat) : List Nat :=
  let a1 := root + 8 * bitsOf va 47 42
  match s.pte root (bitsOf va 47 42) with
  | none => [a1 / 64]
  | some e1 =>
    if !pteValid e1 then [a1 / 64]
    else
      let a2 := pteAddr e1 + 8 * bitsOf va 41 29
      match s.pte (pteAddr e1) (bitsOf va 41 29) with
      | none => [a1 / 64, a2 / 64]
      | some e2 =>
        if !pteValid e2 || pteLeaf e2 then [a1 / 64, a2 / 64]
        else [a1 / 64, a2 / 64, (pteAddr e2 + 8 * bitsOf va 28 16) / 64]

/-- WALK: a miss reads the tables and fills the buffers; a failed check is a translation fault of the agent (R257). An
inbound operation's fault stops nothing (R261): an unmapped page is told to the context's sessions. An address with upper
bits set meets no buffer and no walk (R254). A page that the second level holds fills the first (R253). -/
def execWalk (x : CtxId) (agent : Agent) (unit : Nat) (access : Access) (va : Word64) (s : State) :
    Host.Outcome State Fault Refusal :=
  let a := va.toNat
  .next (if (s.ctx x).state = .free then s
    else if s.tlbHit x agent unit (a / 65536) then s.tlbRefill x agent unit (a / 65536)
    else
      let t := if 2 ^ 48 ≤ a ∨ (s.ctx x).root = 0 then s
        else (s.walkLines (s.ctx x).root a).foldl (fun u l => (u.fetchLine l []).1) s
      match s.lookup x agent access a with
      | .ok f => (t.walkStarted agent unit).tlbPut agent unit (x.val, a / 65536, f.entry)
      | .error k =>
        if agentInbound agent then
          (if k = kNotMapped then t.noticeCtx x 4 (leFields [(8, a), (1, k), (7, 0)]) else t)
        else t.tfault x ⟨agent, unit, k, access, a⟩ (agentBlock agent unit).1 (agentBlock agent unit).2 none)

end Sys2Proof.Machine
end

