-- ==== Sys2Proof/Machine/Ras.lean ====
section
/-! DEFINITION. Reliability (spec/21_reliability_and_test.md R490 to R503): the error log's commands,
self-test, pattern test, thresholds, consistency checks. -/

namespace Sys2Proof.Machine

/-! ### The error log (R490, Table 17-9) -/

/-- LOG_READ: records from the first held at or after a sequence number, and the number after the last of them. -/
def execLogRead (q : Req) (fromSeq : Nat) (max : Nat) (s : State) : Host.Outcome State Fault Refusal :=
  let own := firstFail [(!decide (1 ≤ max ∧ max ≤ 127), genRange)]
  let recs := (s.ras.log.filter (fun r => decide (fromSeq ≤ r.seq))).take max
  let next := (recs.getLast?.map (·.seq + 1)).getD fromSeq
  .next (s.command (.logRead q fromSeq max) q 0x90 16 none own (fun t =>
    (t, stDone, leFields [(8, next), (1, recs.length), (7, 0)] ++ recs.flatMap LogRec.toBytes)))

/-- LOG_CLEAR. -/
def execLogClear (q : Req) (upToSeq : Nat) (s : State) : Host.Outcome State Fault Refusal :=
  .next (s.command (.logClear q upToSeq) q 0x91 8 none none (fun t =>
    ({ t with ras := { t.ras with log := t.ras.log.filter (fun r => decide (upToSeq < r.seq)) } }, stDone, [])))

/-- A record of class corrected that Lantern reports to the admin sessions as well. -/
def State.correctedNotice (s : State) (l : LogArgs) : State :=
  let l := { l with cls := 0 }
  (s.log l).noticeDev 6 (s.logRecord l).toBytes

/-! ### Self-test of a cluster (R466, R498, R499) -/

/-- BIST_COMPLETE: the test that runs ends; its cluster is cleared, and withheld if something failed. -/
def State.bistEnds (s : State) (failUnit failCount : Nat) : State :=
  match s.ras.bistRun with
  | none => s
  | some k =>
    let fail := failCount != 0
    let reg := withFld32 (withFld32 (withFld32 (withFld32 s.ras.bist 31 31 0) 23 22 (if fail then 2 else 1))
      15 8 (if fail then failUnit else 0xFF)) 7 0 (min failCount 255)
    let t := (({ s with ras := { s.ras with bist := reg, bistRun := none } }).clearCluster k).modCluster k
      (fun u => { u with withheld := fail })
    if fail then
      t.correctedNotice { cls := 0, cause := 0x201A#16, block := 0x02, inst := k, detail := leFields [(1, failUnit), (1, min failCount 255)] }
    else t

def execBistComplete (failUnit failCount : Nat) (s : State) : Host.Outcome State Fault Refusal :=
  .next (s.bistEnds failUnit failCount)

/-! ### LPDDR pattern tests (R500, R501) -/

/-- One line of a running test: what a read by R243 leaves, then the raw comparison pin by pin. -/
def State.testLine (s : State) (pa : Nat) (pinFail : BitVec 24) (upset : List (Nat × BitVec 16)) : State :=
  let l := pa / 64
  let ch := channelOf (64 * l)
  match s.ras.memRun with
  | none => s
  | some mask =>
    if !bitOf mask (ch / 8) || decide (lpddrEnd ≤ pa) then s
    else
      let t := (s.fetchLine l upset).1
      let n := s.ras.testLines + 1
      let t := { t with ras := { t.ras with testLines := n, memTest := withFld t.ras.memTest 31 0 (n / 1048576) } }
      if pinFail = 0 then t
      else t.modChannel ch (fun u => { u with
        testResult := bumpFld (withFld u.testResult 39 16 (fld u.testResult 39 16 ||| pinFail.toNat)) 15 0 1 })

def execMemTestTransaction (pa : Nat) (pinFail : BitVec 24) (upset : List (Nat × BitVec 16)) (s : State) :
    Host.Outcome State Fault Refusal :=
  .next (s.testLine pa pinFail upset)

/-- The end of a pattern test. -/
def State.memTestEnds (s : State) : State :=
  { s with ras := { s.ras with memRun := none, memTest := withFld s.ras.memTest 63 63 0 } }

def execMemTestComplete (s : State) : Host.Outcome State Fault Refusal :=
  .next (if s.ras.memRun.isSome then s.memTestEnds else s)

/-! ### Thresholds (R494, R495) -/

/-- The pins that an event names. -/
def eventPins (sym0 sym1 : Nat) : List Nat :=
  if sym1 = 0x3F then
    if sym0 < 24 then [sym0] else if sym0 < 36 then [2 * (sym0 - 24), 2 * (sym0 - 24) + 1] else []
  else if sym0 < 24 ∧ sym1 = 24 + sym0 / 2 then [sym0]
  else []

def secondNs : Nat := 1000000000

/-- Fields of RAS_THRESH_CFG by the order of Table 21-5: 0 pin_events, 1 cuff_replays, 2 sram_corr, 3 mem_corr, 4 uncorr_day. -/
def threshOf (v : Word64) (field : Nat) : Nat :=
  match field with
  | 0 => fld v 63 56
  | 1 => fld v 55 40
  | 2 => fld v 39 24
  | 3 => fld v 23 8
  | _ => fld v 7 0

/-- The window of a field in nanoseconds. -/
def windowNs (field : Nat) : Nat :=
  match field with
  | 1 => secondNs
  | 2 | 3 => 3600 * secondNs
  | _ => 86400 * secondNs

/-- One THRESHOLD record and its notice. -/
def State.thresholdMet (s : State) (field block inst count pin : Nat) : State :=
  s.correctedNotice { cls := 0, cause := 0x2019#16, block := block, inst := inst, detail := leFields [(1, field), (4, count), (1, pin)] }

/-- The 100 ms poll of one channel: a captured event is noted for the pins it names and its valid bit cleared; a pin that
reaches its threshold within 24 h is reported once in that time. -/
def State.pollChannel (s : State) (n : Nat) : State :=
  let e := (s.channel n).eccLast
  if fld e 63 63 = 0 then s
  else
    let within (t : Nat) : Bool := decide (s.now < t + windowNs 0)
    let t := s.modChannel n (fun u => { u with eccLast := withFld u.eccLast 63 63 0 })
    (eventPins (fld e 61 56) (fld e 55 50)).foldl (fun u p =>
      let evs := (u.ras.pinEvents ++ [(u.now, n, p)]).filter (fun (x : Nat × Nat × Nat) => within x.1)
      let u := { u with ras := { u.ras with pinEvents := evs } }
      let count := (evs.filter (fun (x : Nat × Nat × Nat) => x.2.1 == n && x.2.2 == p)).length
      let told := u.ras.reported.any (fun (x : Nat × Nat × Nat) => x.1 == 0 && x.2.1 == 24 * n + p && within x.2.2)
      if threshOf u.ras.thresh 0 ≤ count ∧ !told then
        let w := u.thresholdMet 0 0x04 n count p
        let old := w.ras.reported.filter (fun (x : Nat × Nat × Nat) => !(x.1 == 0 && x.2.1 == 24 * n + p))
        { w with ras := { w.ras with reported := old ++ [(0, 24 * n + p, u.now)] } }
      else u) t

/-- One counter of the 1 s sample: the window that it stands in (start, count at its start), a report when the count within
it reaches the field, and a new window when it is over. -/
def State.sampleCounter (s : State) (field unit block inst value : Nat) : State :=
  let here (x : Nat × Nat × Nat × Nat) : Bool := x.1 == field && x.2.1 == unit
  let w := ((s.ras.samples.find? here).map (fun (x : Nat × Nat × Nat × Nat) => x.2.2)).getD (0, 0)
  let count := if w.2 ≤ value then value - w.2 else value
  let told := s.ras.reported.contains (field, unit, w.1)
  let past := decide (w.1 + windowNs field ≤ s.now)
  let hit := decide (threshOf s.ras.thresh field ≤ count) && !told
  let t := if hit then s.thresholdMet field block inst count 0xFF else s
  let reports := (if hit then t.ras.reported ++ [(field, unit, w.1)] else t.ras.reported).filter
    (fun (x : Nat × Nat × Nat) => !(past && x.1 == field && x.2.1 == unit))
  let next := if past then (s.now, value) else w
  { t with ras := { t.ras with reported := reports, samples := t.ras.samples.filter (fun x => !here x) ++ [(field, unit, next.1, next.2)] } }

/-- A register field that the sample reads, as Lantern reads the register. -/
def State.sampleReg (s : State) (field unit b i n hi lo : Nat) : State :=
  let r := s.regRead b i n
  r.1.sampleCounter field unit b i (fld r.2 hi lo)

/-- The 1 s sample of the counters of Table 21-5. -/
def State.sampleAll (s : State) : State :=
  let s := (List.range 24).foldl (fun t p => t.sampleReg 1 p 0x08 p 4 19 8) s
  let s := (List.range 256).foldl (fun t c => t.sampleReg 2 c 0x01 c 9 31 0) s
  let s := (List.range 16).foldl (fun t k => t.sampleReg 2 (256 + k) 0x02 k 28 31 0) s
  (List.range 128).foldl (fun t n => (t.sampleReg 3 n 0x04 n 0 63 32).sampleReg 4 n 0x04 n 0 31 16) s

/-- THRESHOLD_POLL: every 100 ms, and at every tenth poll the sample. -/
def execThresholdPoll (second : Bool) (s : State) : Host.Outcome State Fault Refusal :=
  .next (if !s.lantern.running then s
    else
      let t := (List.range 128).foldl State.pollChannel s
      if second then t.sampleAll else t)

/-! ### Consistency checks (R491) -/

/-- HARDWARE_CONSISTENCY_CHECK: a fatal error with cause INTERNAL. -/
def execHardwareConsistencyCheck (block : Byte) (inst : BitVec 16) (code : BitVec 16) (fabric : Bool) (s : State) :
    Host.Outcome State Fault Refusal :=
  .next (s.fatalError { cls := 3, cause := 0x201C#16, block := block.toNat, inst := inst.toNat, detail := leBytes 2 code.toNat } fabric)

end Sys2Proof.Machine
end

