-- ==== Sys2Proof/Machine/Boot.lean ====
section
/-! DEFINITION. Start-up, resets and the module's boundary (spec/19_boot_reset_and_versions.md R460 to R473; spec/20
R478, R480, R485; spec/22 R508 to R520). -/

namespace Sys2Proof.Machine

/-! ### What a reset keeps (R466, R467, R469, R470, R472, Table 19-7) -/

/-- The rails down; what the sensors read stays, and the register field starts from 0 (Table 18-10). -/
def State.railsDown (s : State) (keep : RailState → RailState) : Sparse RailState :=
  (List.range 4).foldl (fun m q => sset {} m q { keep (s.rail q) with up := false, sensorDc := (s.rail q).sensorDc }) []

/-- A cold reset with a cause: everything but the flash, the fuses and the owner key table, and what lies outside the module. -/
def State.coldReset (s : State) (cause : Nat) : State :=
  ({ State.reset with
      pending := s.pending, freeCtr := s.freeCtr, now := s.now, flash := s.flash
      clasp := { ownerHash := s.clasp.ownerHash, ownerRevoked := s.clasp.ownerRevoked, rollback := s.clasp.rollback
                 debugDisable := s.clasp.debugDisable, ownerKeys := s.clasp.ownerKeys }
      power := { rstCause := withFld 0 19 16 cause, rails := s.railsDown (fun _ => {}), inputMw := 0 }
      pins := { s.pins with pwrOk := false, thermTripLow := false, railsOut := [], holding := false } } : State).withAlert

/-- The entry of a retained context (R469). -/
def Ctx.retained (v : Ctx) : Ctx :=
  { state := if v.clusters = [] then .evicted else .loaded, clusters := v.clusters, rtag := v.rtag, handle := v.handle
    saveClusters := v.saveClusters, hadClusters := v.hadClusters, root := v.root, tables := v.tables, maps := v.maps
    fromReset := decide (v.clusters = []), lastDigest := v.lastDigest, lastBuffers := v.lastBuffers
    journaled := v.journaled, epochAt := v.epochAt, switched := v.switched }

/-- The contexts that are not FREE, as their entries. -/
def State.retainedNow (s : State) : List (Nat × Ctx) :=
  ((List.range 16).filter (fun x => (s.ctx x).state != .free)).map (fun x => (x, (s.ctx x).retained))

/-- The last step of Table 19-6 that the present start reached. -/
def State.bootStage (s : State) : Nat := fld32 s.power.bootStatus 15 8

/-- Registers of a group that a warm reset leaves unchanged; its channels are in self-refresh (R239). -/
def Group.kept (v : Group) : Group :=
  { arbWeight := v.arbWeight, srCfg := v.srCfg, scrubCfg := v.scrubCfg, updCount := v.updCount, selfRefresh := true }

def Channel.kept (v : Channel) : Channel := { eccCount := v.eccCount, eccLast := v.eccLast }
def Port.kept (v : Port) : Port := { cfg := v.cfg, creditCfg := v.creditCfg, linkErr := v.linkErr, inForce := v.cfg }
def Xpt.kept (v : Xpt) : Xpt := { timerCfg := v.timerCfg, linkExcl := v.linkExcl, msgStat := v.msgStat, dropStat := v.dropStat }

/-- A table with every unit as a function leaves it. -/
def keepUnits {α : Type} [DecidableEq α] (d : α) (n : Nat) (f : α → α) (m : Sparse α) : Sparse α :=
  (List.range n).foldl (fun r i => sset d r i (f (sget d m i))) []

/-- Save records written and clusters without power (R444); a cluster already Off keeps its record. -/
def State.saveClusters (s : State) : State :=
  (List.range 16).foldl (fun t k => if (t.cluster k).power = .off then t else (t.writeSave k).powerDown k) s

/-- Each controller completes the transactions that it has accepted; what waits for a slot is lost (R239). -/
def State.completeAccepted (s : State) : State :=
  s.channels.foldl (fun t e => State.drain e.1 e.2.slots.length t) { s with mesh := {} }

/-- What is left of the device when a warm reset has taken the rails down. -/
def State.warmKept (s : State) (cause : Nat) : State :=
  let s := s.completeAccepted
  let t := if s.power.vsoc then s.saveClusters else s
  ({ State.reset with
      pending := s.pending, freeCtr := s.freeCtr, now := s.now, mem := s.mem, flash := s.flash, clasp := s.clasp
      clusters := t.clusters
      groups := keepUnits {} 16 Group.kept s.groups
      channels := keepUnits {} 128 Channel.kept s.channels
      ports := keepUnits {} 24 Port.kept s.ports
      xpt := s.xpt.kept
      hp := { cfg := s.hp.cfg }
      power := { t.power with
        vsoc := false, rails := s.railsDown (fun v => { vLimit := v.vLimit, trim := v.trim, trimLogAt := v.trimLogAt })
        retained := if 7 ≤ s.bootStage then s.retainedNow else s.power.retained
        rstCause := withFld (bumpFld s.power.rstCause 63 32 1) 19 16 cause }
      ras := { log := s.ras.log, nextSeq := s.ras.nextSeq, written := s.ras.written, lost := s.ras.lost
               memTest := withFld 0 31 0 (fld s.ras.memTest 31 0) }
      pins := { s.pins with pwrOk := false, thermTripLow := false, railsOut := [], holding := false } } : State).withAlert

/-- A warm device reset (R467); without valid memory it is promoted to a cold one (R470). -/
def State.warmReset (s : State) (cause : Nat) : State :=
  if s.clasp.memoryValid then s.warmKept cause else s.coldReset cause

/-- WARM_RESET: of a DEVICE_RESET or FW_ACTIVATE when its 10 ms are over, or of another trigger. -/
def execWarmReset (cause : Fin 16) (s : State) : Host.Outcome State Fault Refusal :=
  let due := match s.lantern.resetAt with
    | some t => decide (t ≤ s.now) && s.lantern.resetCause == cause.val
    | none => false
  .next (if !s.pins.standby then s
    else if cause.val = 3 ∨ cause.val = 4 then if due then s.warmReset cause else s
    else if cause.val = 2 ∨ cause.val = 5 ∨ cause.val = 6 then s.warmReset cause
    else s)

/-! ### The choice of the boot ROM (R460, R462) -/

/-- What a start runs. -/
inductive BootChoice
  | slot (z : Nat) (permit : Bool)
  | limited (reason : Nat)
  | hold
  deriving DecidableEq, Repr

/-- Whether the stored permit names the versions of a slot (R461). -/
def State.permitted (s : State) (z : Nat) : Bool :=
  s.clasp.permits.any (fun k => k.kind == 1 && k.clasp == s.slotVersion z 0 && k.lantern == s.slotVersion z 1 && k.serdes == s.slotVersion z 2)

/-- The slots in the order in which they are tried. -/
def State.bootOrder (s : State) : List Nat := [s.selectedSlot, 1 - s.selectedSlot]

/-- The first slot with a valid image of a class. -/
def State.firstWith (s : State) (cls : Nat) : Option Nat := s.bootOrder.find? (fun z => s.imageValid z cls)

/-- The procedure of R460. -/
def State.bootChoice (s : State) : BootChoice :=
  match s.bootOrder.find? (fun z => s.setValid z && s.testedSet z && decide (sget 0 s.clasp.failures z < 2)) with
  | some z => .slot z false
  | none => match s.bootOrder.find? (fun z => s.setValid z && s.permitted z) with
    | some z => .slot z true
    | none =>
      if [0, 1, 2].all (fun cls => (s.firstWith cls).isSome) then
        .limited (if s.bootOrder.any (fun z => s.setValid z && s.testedSet z) then 3 else 1)
      else .hold

/-- The slot from which the image of a class runs. -/
def State.runSlot (s : State) (b : BootChoice) (cls : Nat) : Nat :=
  match b with
  | .slot z _ => z
  | _ => (s.firstWith cls).getD s.selectedSlot

/-! ### Steps of a start (Table 19-6) -/

/-- Enrolment and revocation before step 3 (R485). -/
def State.enrol (s : State) : State :=
  let t := s.clasp.permits.foldl (fun u k =>
    if k.kind = 3 then
      { u with clasp := { u.clasp with
          ownerKeys := sset [] u.clasp.ownerKeys k.owner k.ownerKey
          ownerHash := sset 0 u.clasp.ownerHash k.owner (BitVec.ofNat 256 (leNat (shake256 k.ownerKey 32))) } }
    else if k.kind = 4 then
      { u with clasp := { u.clasp with ownerRevoked := u.clasp.ownerRevoked ||| BitVec.ofNat 4 (2 ^ k.owner) } }
    else u) s
  { t with clasp := { t.clasp with permits := t.clasp.permits.filter (fun k => k.kind == 1) } }

/-- Step 2: the rails at point N, the straps, PWR_OK. -/
def State.rampUp (s : State) : State :=
  let rails := (List.range 4).foldl (fun m q => sset {} m q { s.rail q with mv := 750, vWant := 750, up := true }) s.power.rails
  let t := { s with
    power := { s.power with vsoc := true, rails := rails
                            strapReg := BitVec.ofNat 32 (s.pins.moduleId.toNat * 512 + s.pins.strap.toNat * 16) }
    pins := { s.pins with pwrOk := true, coolWait := false } }
  (List.range 16).foldl State.offExit t

/-- The start of step 3: a new boot nonce, an empty measurement log with the boot ROM as its first item (R480). -/
def State.newBoot (s : State) : State :=
  let c := { s.clasp with bootNonce := Config.freeWord256 s.freeCtr, measurements := [], chain := List.replicate 64 0
                          bootCopy := s.flash.bootUsed, running := [] }
  ({ s.drawn with clasp := c }).measure 0 0 0 0 (leBytes 64 Config.romDigest.toNat)

/-- An image measured. -/
def State.measureImage (s : State) (item slot : Nat) (i : Option Image) : State :=
  match i with
  | some m => s.measure item slot m.version m.svn m.bodyDigest
  | none => s

/-- Step 4: the versions that run, and the items of Table 20-3 in order. -/
def State.measureSet (s : State) (b : BootChoice) (config : Option Image) : State :=
  let t := s.measureImage 1 (s.runSlot b 1) (if s.imageValid (s.runSlot b 1) 3 then s.imageAt (s.runSlot b 1) 3 else none)
  let t := [0, 1, 2].foldl (fun u cls =>
    ({ u with clasp := { u.clasp with running := sset 0 u.clasp.running cls (s.slotVersion (s.runSlot b cls) cls) } }).measureImage
      (2 + cls) (s.runSlot b cls) (s.imageAt (s.runSlot b cls) cls)) t
  let t := t.measureImage 5 0 config
  match b, s.clasp.permits.find? (fun k => k.kind == 1) with
  | .slot z true, some k => t.measure 6 z 0 0 (shake256 (sliceBytes k.raw 0 256) 64)
  | _, _ => t

/-- The configuration record in use: a cold start takes the valid copy, a warm one goes on with that of the last cold start
(R427, R464). -/
def State.configNow (s : State) : Option Image :=
  if s.power.coldNext then if s.configCopy = 2 then none else s.flash.config.getD s.configCopy none else s.power.configUsed

/-- The host port as the record, or the defaults of Table 19-5, set it up. -/
def HostPort.configured (h : HostPort) (cold : Bool) (c : Option Image) : HostPort :=
  let b := (c.map (·.body)).getD shippedConfig.body
  let flags := leAt b 18 2
  { h with
    cfg := if cold then withFld32 h.cfg 2 0 (leAt b 17 1) else h.cfg
    mac := BitVec.ofNat 48 (leNat (sliceBytes b 8 6).reverse)
    lmpPort := if leAt b 14 2 = 0 then 47072 else leAt b 14 2
    hostV4 := if bitOf flags 0 then some (BitVec.ofNat 32 (leAt b 20 4)) else none
    hostV6 := if bitOf flags 1 then some (BitVec.ofNat 128 (leAt b 24 16)) else none
    ipv4 := if bitOf flags 2 then BitVec.ofNat 32 (leAt b 40 4) else 0
    v4Prefix := if bitOf flags 2 then BitVec.ofNat 8 (leAt b 44 1) else 0
    ipv6 := if bitOf flags 3 then BitVec.ofNat 128 (leAt b 48 16) else 0
    v6Prefix := if bitOf flags 3 then BitVec.ofNat 8 (leAt b 45 1) else 0 }

/-- Retained contexts after step 7 (R469): without their far mappings. -/
def State.retainCtxs (s : State) : State :=
  s.power.retained.foldl (fun t (e : Nat × Ctx) =>
    (t.setCtx e.1 e.2).unmapAll e.1 (fun (m : Nat × Nat × Nat) => decide (farBase ≤ m.2.2))) s

/-- The crash log entry that Lantern copies into the log: the newest one not yet copied (R492). -/
def State.copyCrash (s : State) : State :=
  match (s.flash.crash.zipIdx.filter (fun e => !e.1.1)).getLast? with
  | none => s
  | some e =>
    let ras := e.1.2.reverse.foldl (fun (a : Ras) r => a.push { r with seq := a.nextSeq, flags := r.flags ||| 8 }) s.ras
    { s with ras := ras, flash := { s.flash with crash := s.flash.crash.set e.2 (true, e.1.2) } }

/-- Rollback counts after a start from the selected slot (R478). -/
def State.raiseRollback (s : State) (z : Nat) : State :=
  (List.range 5).foldl (fun t cls =>
    match (if cls = 4 then s.power.configUsed else s.imageAt z cls) with
    | some i => { t with clasp := { t.clasp with rollback := sset 0 t.clasp.rollback cls (max (sget 0 t.clasp.rollback cls) i.svn) } }
    | none => t) s

/-- BOOT_STATUS (Table 19-11). -/
def bootWord (limited permit fallback : Bool) (running selected reason stage : Nat) : Word32 :=
  BitVec.ofNat 32 (limited.toNat * 2 ^ 31 + permit.toNat * 2 ^ 30 + fallback.toNat * 2 ^ 29 + running * 2 ^ 28 + selected * 2 ^ 27 +
    reason * 65536 + stage * 256)

/-! ### START_UP (R465, R509, R511, R515 to R517) -/

/-- Whether start-up may go past step 1. -/
def State.startReady (s : State) : Bool :=
  !s.power.vsoc && s.pins.standby && decide (40000 ≤ s.pins.input48 ∧ s.pins.input48 ≤ 60000) && s.pins.resetN &&
    s.pins.refSerdes && s.pins.refSys && (!s.pins.coolWait || (List.range 4).all (fun q => decide ((s.rail q).sensorDc < 1000)))

/-- The recovery service (R516, R517): host port in the strapped mode with default addresses, stage 3. -/
def State.recoveryStart (s : State) : State :=
  let v := bitsOf s.pins.strap.toNat 2 1
  let mode := if v = 0 then 0 else v + 1
  let h := s.hp.configured true none
  { s with
    hp := { h with cfg := withFld32 h.cfg 2 0 mode, linkUp := true, lmpPort := 47072 }
    lantern := { running := true, recovery := true, limited := true, limitedReason := 2, activeSlot := s.selectedSlot, announceAt := s.now }
    power := { s.power with bootStatus := bootWord true false false 0 s.selectedSlot 2 3 } }

/-- The ROM holds (R463). -/
def State.bootHold (s : State) : State :=
  ({ s with pins := { s.pins with holding := true }
            power := { s.power with bootStatus := bootWord false false false 0 s.selectedSlot 0 3 } }).withAlert

/-- Limited-mode reasons 4 to 6 and that of the choice: the lowest, 0 for none. -/
def limitedReason (b : BootChoice) (config : Option Image) (f : StartF) : Nat :=
  match b with
  | .limited r => r
  | _ => if config.isNone then 4 else if !f.lpddrOk then 5 else if f.selfTestFail.isSome then 6 else 0

/-- Step 6: main memory written after a cold reset, out of self-refresh otherwise (R239, R470). -/
def State.memoryStart (s : State) (ok : Bool) (stage : Nat) : State :=
  let write := !s.clasp.memoryValid
  let began := ok && decide (6 ≤ stage)
  let done := ok && decide (7 ≤ stage)
  { s with
    mem := if write && done then {} else s.mem
    clasp := { s.clasp with memoryValid := if began then done else s.clasp.memoryValid }
    groups := if began then keepUnits {} 16 (fun v => { v with selfRefresh := false, srDue := some (s.now + v.idleNs), scrubDue := s.now + scrubPassNs v }) s.groups else s.groups
    power := { s.power with rstCause := withFld s.power.rstCause 20 20 (write && began).toNat
                            retained := if write && began then [] else s.power.retained } }

/-- Steps 8 and 9 of a start that reaches them. Ports train, but for those whose enable is 0; in limited mode all stay Off (R337, R462). -/
def State.lanternUp (s : State) (b : BootChoice) (cold : Bool) (reason : Nat) : State :=
  let limited := reason != 0
  let z := s.runSlot b 1
  let t := { s with
    hp := { (s.hp.configured cold s.power.configUsed) with linkUp := true }
    lantern := { running := true, limited := limited, limitedReason := reason, activeSlot := z, announceAt := s.now } }
  let t := (List.range 24).foldl (fun u p => if (u.port p).enabled && !limited then u.startTraining p
    else u.modPort p (fun v => v.setState lsOff 0)) t
  let t := match b with
    | .slot w p =>
      let u := { t with clasp := { t.clasp with failures := sset 0 t.clasp.failures w 0 } }
      if w = s.selectedSlot ∧ !p ∧ !limited then u.raiseRollback w else u
    | _ => t
  t.copyCrash.announce

/-- The start of a set, or of limited mode, from step 4 on. -/
def State.startSet (s : State) (b : BootChoice) (f : StartF) : State :=
  let cold := s.power.coldNext
  let config := s.configNow
  let stage := if f.reachesNine then 9 else 4 + Config.freeNat s.freeCtr % 5
  let reason := limitedReason b config f
  let z := s.runSlot b 1
  let permit := match b with | .slot _ p => p | _ => false
  let s1 := s.drawn.measureSet b config
  let s2 := if 5 ≤ stage then { s1 with power := { s1.power with coldNext := false, configUsed := config } } else s1
  let s3 := s2.memoryStart f.lpddrOk stage
  let s4 := match f.selfTestFail with
    | some p => if 7 ≤ stage then s3.corrected { cls := 0, cause := 0x201A#16, detail := leFields [(1, p.1), (1, min p.2 255)] } else s3
    | none => s3
  let s5 := if 8 ≤ stage ∧ f.lpddrOk then s4.retainCtxs else s4
  let s6 := { s5 with power := { s5.power with
    bootStatus := bootWord (reason != 0) permit (z != s.selectedSlot) z s.selectedSlot reason stage } }
  if stage = 9 then s6.lanternUp b cold reason else s6

/-- START_UP. -/
def State.startUp (s : State) (f : StartF) : State :=
  if !s.startReady then s
  else
    let t := s.rampUp
    let u := (if bitOf t.pins.strap.toNat 0 then t else t.enrol).newBoot
    if bitOf u.pins.strap.toNat 0 then u.recoveryStart.withAlert
    else match u.bootChoice with
      | .hold => u.bootHold
      | b => (u.startSet b f).withAlert

def execStartUp (f : StartF) (s : State) : Host.Outcome State Fault Refusal := .next (s.startUp f)

/-! ### BOOT_FAILURE and WATCHDOG (R460, R467, R492) -/

/-- BOOT_FAILURE: Lantern was released and did not reach step 9; a start of a slot counts its failure. -/
def State.bootFails (s : State) : State :=
  let b := s.power.bootStatus
  if !s.power.vsoc || s.lantern.running || !decide (4 ≤ s.bootStage ∧ s.bootStage ≤ 8) then s
  else
    let z := fld32 b 28 28
    let counted := if 1 ≤ fld32 b 23 16 ∧ fld32 b 23 16 ≤ 3 then s
      else { s with clasp := { s.clasp with failures := sset 0 s.clasp.failures z (sget 0 s.clasp.failures z + 1) } }
    counted.warmReset 6

def execBootFailure (s : State) : Host.Outcome State Fault Refusal := .next s.bootFails

/-- WATCHDOG: the crash log entry of a record with cause INTERNAL, and a warm reset. -/
def State.watchdogReset (s : State) : State :=
  if !s.power.vsoc || !s.lantern.running || s.lantern.recovery then s
  else
    let r := s.logRecord { cls := 3, cause := 0x201C#16, block := 0xFE, detail := leBytes 2 (Config.freeNat s.freeCtr) }
    ({ s.drawn with flash := s.flash.crashEntry r s.ras.log }).warmReset 5

def execWatchdog (s : State) : Host.Outcome State Fault Refusal := .next s.watchdogReset

/-! ### Supplies (R508 to R510, R514, R520) -/

/-- STANDBY_APPLIED: a cold start, with MODULE_ID sampled. -/
def execStandbyApplied (moduleId : Fin 8) (s : State) : Host.Outcome State Fault Refusal :=
  let t := { s with pins := { s.pins with standby := true, moduleId := BitVec.ofNat 3 moduleId.val } }
  .next (t.coldReset 0)

/-- STANDBY_LOSS: a cold reset whatever the state of 48 V; nothing starts before standby is back. -/
def execStandbyLoss (s : State) : Host.Outcome State Fault Refusal :=
  let t := s.coldReset (fld s.power.rstCause 19 16)
  .next { t with pins := { t.pins with standby := false } }

/-- INPUT_48V_LOSS: outside 38 V to 62 V for longer than 1 ms. -/
def execInput48vLoss (millivolts us : Nat) (s : State) : Host.Outcome State Fault Refusal :=
  if 66000 < millivolts then .fault .beyondRatings
  else if us ≤ 1000 ∨ (38000 ≤ millivolts ∧ millivolts ≤ 62000) then .next s
  else .next (({ s with pins := { s.pins with input48 := millivolts } }).coldReset 1)

/-- INPUT_48V_OUTSIDE_RANGE: the input as it stands now, and ALERT_N with it. -/
def execInput48vOutsideRange (millivolts : Nat) (s : State) : Host.Outcome State Fault Refusal :=
  if 66000 < millivolts then .fault .beyondRatings
  else .next ({ s with pins := { s.pins with input48 := millivolts } }).withAlert

/-! ### RESET_N (R513, R520) -/

/-- RESET_N goes low: 1 µs or more resets, a pulse below 100 ns does nothing, and between them either happens. A pin that was
low already is released or held on. -/
def execResetN (lowNs : Nat) (held : Bool) (s : State) : Host.Outcome State Fault Refusal :=
  let t := { s with pins := { s.pins with resetN := !held } }
  let open' := decide (100 ≤ lowNs ∧ lowNs < 1000) && !held
  let u := if open' then t.drawn else t
  .next (if !s.pins.standby || !s.pins.resetN then t
    else if held || decide (1000 ≤ lowNs) || (open' && Config.freeNat s.freeCtr % 2 == 1) then u.warmReset 2
    else u)

/-! ### Temperature (R515) -/

/-- THERMAL_TRIP: the core rails and VSERDES go down, and a fatal error is recorded. -/
def State.thermalTripped (s : State) (sensor : Nat) (tempDc : Int) : State :=
  let q := railOf sensor
  let t := { s with pins := { s.pins with thermTripLow := true, coolWait := true } }
  let t := t.setRail q { t.rail q with tempDc := max (t.rail q).tempDc tempDc, sensorDc := max (t.rail q).sensorDc tempDc }
  if !s.power.vsoc then t
  else
    let t := (List.range 4).foldl (fun u i => u.setRail i { u.rail i with up := false, stepping := false }) t
    let t := (List.range 16).foldl State.powerDown t
    let t := (List.range 24).foldl (fun u p => u.modPort p Port.fatalOff) t
    let t := { t with pins := { t.pins with pwrOk := false }, hp := { t.hp with linkUp := false } }
    t.fatalError { cls := 3, cause := 0x201D#16, block := 0x0C, inst := 520 + q
                   detail := leFields [(1, sensor), (2, (tempDc % 65536).toNat)] } false

def execThermalTrip (sensor : ClusterId) (tempDc : Int) (s : State) : Host.Outcome State Fault Refusal :=
  .next (if tempDc < 1100 then s else s.thermalTripped sensor tempDc)

/-! ### Reference clocks (R511, R512) -/

/-- A fatal error with cause INTERNAL whose block check code the spec leaves open. -/
def State.internalError (s : State) (inst : Nat) : State :=
  s.drawn.fatalError { cls := 3, cause := 0x201C#16, block := 0x0C, inst := inst, detail := leBytes 2 (Config.freeNat s.freeCtr) } false

/-- REFCLK_LOSS. -/
def execRefclkLoss (r : RefClk) (s : State) : Host.Outcome State Fault Refusal :=
  .next (match r with
    | .serdes =>
      let t := { s with pins := { s.pins with refSerdes := false }, hp := { s.hp with linkUp := false } }
      ((List.range 24).foldl (fun u p => u.lossOfLock p 0xF#4) t).withAlert
    | .sys =>
      let t := ({ s with pins := { s.pins with refSys := false } }).withAlert
      if t.power.vsoc then t.internalError 512 else t)

/-- REFCLK_RETURN. -/
def execRefclkReturn (r : RefClk) (s : State) : Host.Outcome State Fault Refusal :=
  .next ((match r with
    | .serdes => { s with pins := { s.pins with refSerdes := true } }
    | .sys => { s with pins := { s.pins with refSys := true } }) : State).withAlert

/-! ### Regulation (R513) -/

/-- Number of a rail in `railsOut`, and its instance in block 0x0C. -/
def railNo : Rail → Nat | .vcore q => q.val | .vsoc => 4 | .lpddr => 5
def railInst : Rail → Nat | .vcore q => 520 + q.val | _ => 512

/-- A rail out of regulation: PWR_OK goes low. -/
def State.railOut (s : State) (r : Rail) : State :=
  { s with pins := { s.pins with railsOut := s.pins.railsOut.filter (· != railNo r) ++ [railNo r], pwrOk := false } }

/-- RAIL_LEAVES_REGULATION. -/
def execRailLeavesRegulation (r : Rail) (s : State) : Host.Outcome State Fault Refusal :=
  .next (if s.power.vsoc then s.railOut r else s)

/-- RAIL_REGAINS_REGULATION: PWR_OK is released once every monitored rail is in regulation. -/
def execRailRegainsRegulation (r : Rail) (s : State) : Host.Outcome State Fault Refusal :=
  let out := s.pins.railsOut.filter (· != railNo r)
  let ok := s.power.vsoc && out.isEmpty && (List.range 4).all (fun q => (s.rail q).up)
  .next { s with pins := { s.pins with railsOut := out, pwrOk := ok } }

/-- RAIL_OUT_OF_REGULATION: for 100 µs while the module runs. -/
def execRailOutOfRegulation (r : Rail) (s : State) : Host.Outcome State Fault Refusal :=
  .next (if s.power.vsoc then (s.railOut r).internalError (railInst r) else s)

end Sys2Proof.Machine
end

