-- ==== Sys2Proof/Machine/Glint.lean ====
section
/-! DEFINITION. Glint slots (R50 to R55): arming, contributions, closing, scales. -/

namespace Sys2Proof.Machine

/-- Smallest normal magnitude of a format's element; 0 for an element without subnormals. -/
def Fmt.minNormal (f : Fmt) : Rat :=
  match f.elem with
  | .flt x => pow2 (1 - (x.bias : Int))
  | _ => 0

/-- One count of 32 bits, saturating (R54). -/
def bump32 (w : Word32) : Word32 := BitVec.ofNat 32 (min (w.toNat + 1) 0xFFFFFFFF)

/-- Whether a count has no room for one more. -/
def full32 (w : Word32) : Bool := w == 0xFFFFFFFF#32

/-- One value counted in a slot (R54). A counter counts as saturated once an increment finds it at its maximum, not when it
reaches it (DESIGN CHOICE, log entry 91). -/
def GlintSlot.count (g : GlintSlot) (v : FVal) : GlintSlot :=
  match v with
  | .nan _ => { g with nan := bump32 g.nan, nonfinite := true, counterSat := g.counterSat || full32 g.nan }
  | .inf _ => { g with infinity := bump32 g.infinity, nonfinite := true, counterSat := g.counterSat || full32 g.infinity }
  | .fin _ q =>
    let g := { g with amax := if (ofFp32 g.amax).mag < q then toFp32 (.fin false q) else g.amax }
    if q = 0 then { g with zero := bump32 g.zero, counterSat := g.counterSat || full32 g.zero }
    else if q < ((fmtOf g.format).map Fmt.minNormal).getD 0 then
      { g with subnormal := bump32 g.subnormal, counterSat := g.counterSat || full32 g.subnormal }
    else
      let e := floorLog2 q
      let i := if e < -48 then 0 else if 15 < e then 63 else (e + 48).toNat
      { g with
        bins := sset 0 g.bins i (bump32 (sget 0 g.bins i))
        clampLow := if e < -48 then bump32 g.clampLow else g.clampLow
        clampHigh := if 15 < e then bump32 g.clampHigh else g.clampHigh
        counterSat := g.counterSat || full32 (sget 0 g.bins i) || (decide (e < -48) && full32 g.clampLow) ||
          (decide (15 < e) && full32 g.clampHigh) }

/-- 16-bit saturating sum. -/
def add16 (w : BitVec 16) (n : Nat) : BitVec 16 := BitVec.ofNat 16 (min (w.toNat + n) 0xFFFF)

/-- What an operation that names a slot adds to it (R52): its values, its recompute retries and saturated tiles. A slot
that is not armed takes nothing, and the late count rises. An operation at another tap or of another tensor than the slot
was armed for counts all the same (DESIGN CHOICE, log entry 91). -/
def State.glintAdd (s : State) (k : Nat) (slot : Option Nat) (vals : List FVal) (retries sats : Nat) : State :=
  match slot with
  | none => s
  | some i =>
    let g := sget {} (s.cluster k).glint i
    if g.armed then
      let g := vals.foldl GlintSlot.count g
      let g := { g with
        retries := add16 g.retries retries, satEvents := add16 g.satEvents sats
        counterSat := g.counterSat || decide (0xFFFF < g.retries.toNat + retries) || decide (0xFFFF < g.satEvents.toNat + sats) }
      s.modCluster k (fun u => { u with glint := sset {} u.glint i g })
    else s.modCluster k (fun u => { u with gltLate := BitVec.ofNat 64 (min (u.gltLate.toNat + 1) 0xFFFFFFFF) })

/-- The checks of GLINT_ARM (R51). -/
def glintArmCheck (s : State) (c : Nat) (f : GlintArmF) : Option Status :=
  firstFail [
    (!decide (f.slot < 16 ∧ f.tap < 4 ∧ 1 ≤ f.hist ∧ f.hist ≤ 16 ∧ f.margin ≤ 3 ∧ f.record % 64 = 0) ||
      (fmtOf f.format).isNone, genRange),
    ((sget {} (s.cluster (clusterOf c)).glint f.slot).armed, genBusy)]

/-- A slot as arming leaves it: counts clear, history kept when the tensor is the same; under a smaller H than before the
longer history stands until the next close (DESIGN CHOICE, log entry 91). -/
def armed (old : GlintSlot) (f : GlintArmF) : GlintSlot :=
  { armed := true, tensorId := f.tensorId, tap := f.tap, format := f.format, hist := f.hist, margin := f.margin,
    record := f.record, history := if old.tensorId = f.tensorId then old.history else [] }

def execGlintArm (c : CoreId) (f : GlintArmF) (s : State) : Host.Outcome State Fault Refusal :=
  .next (s.runOp c (.sync (.glintArm f)) (glintArmCheck s c f) (fun _ t =>
    (t.modCluster (clusterOf c) (fun u => { u with glint := sset {} u.glint f.slot (armed (sget {} u.glint f.slot) f) }), .done)))

/-- The 320 bytes of a record (Table 2-5). -/
def GlintSlot.toBytes (g : GlintSlot) (stepNo : Word32) : List Byte :=
  leFields [(4, g.tensorId.toNat), (4, stepNo.toNat), (1, g.tap), (1, g.format.toNat),
    (2, (if g.counterSat then 1 else 0) + (if g.nonfinite then 2 else 0)), (2, g.retries.toNat), (2, g.satEvents.toNat),
    (4, g.amax.toNat), (4, g.clampLow.toNat), (4, g.clampHigh.toNat), (4, 0)] ++
  (List.range 64).flatMap (fun i => leBytes 4 (sget 0 g.bins i).toNat) ++
  leFields [(4, g.zero.toNat), (4, g.subnormal.toNat), (4, g.infinity.toNat), (4, g.nan.toNat), (16, 0)]

/-- The checks of GLINT_CLOSE (R53). -/
def glintCloseCheck (s : State) (c slot : Nat) : Option Status :=
  firstFail [
    (!decide (slot < 16), genRange),
    (!(sget {} (s.cluster (clusterOf c)).glint slot).armed, genPrecond)]

/-- A slot as closing leaves it: amax in the history of the last H closes, disarmed. -/
def GlintSlot.closed (g : GlintSlot) : GlintSlot :=
  { g with armed := false, history := (g.history ++ [g.amax]).drop (g.history.length + 1 - g.hist) }

/-- GLINT_CLOSE's effect: the record goes to context memory by VA; a translation fault of the flag unit ends it. -/
def State.glintClose (s : State) (c slot : Nat) (stepNo : Word32) : State × Outc :=
  let k := clusterOf c
  let g := sget {} (s.cluster k).glint slot
  match s.ctxOfCore c with
  | none => (s, .done)
  | some x => match s.writeVa x .scalar g.record (g.toBytes stepNo) false with
    | .error e => (s.tfault x ⟨.scalar, c, e.1, .write, e.2⟩ 0x01 c none, .faulted 0x2006#16)
    | .ok t => (t.modCluster k (fun u => { u with glint := sset {} u.glint slot g.closed }), .done)

def execGlintClose (c : CoreId) (slot : Nat) (s : State) : Host.Outcome State Fault Refusal :=
  .next (s.runOp c (.sync (.glintClose slot)) (glintCloseCheck s c slot) (fun e t => t.glintClose c slot e.stepNo))

/-- The checks of GLINT_SCALE (R55, R30). -/
def glintScaleCheck (s : State) (c slot : Nat) (format : Byte) (reg : Nat) : Option Status :=
  firstFail [
    (!decide (slot < 16 ∧ reg < 32), genRange),
    (match fmtOf format with | none => true | some f => f.scale == .lf, genFormat),
    ((sget {} (s.cluster (clusterOf c)).glint slot).history.isEmpty, genPrecond)]

/-- The largest amax of a history. -/
def historyMax (h : List Word32) : Rat := h.foldl (fun m a => max m (ofFp32 a).mag) 0

/-- The scale code of R55. -/
def glintScaleCode (g : GlintSlot) (f : Fmt) : Byte :=
  let a := historyMax g.history
  if a = 0 then 127#8 else clampScale (127 + ceilLog2 (a * pow2 g.margin / f.elemMax))

def execGlintScale (c : CoreId) (slot : Nat) (format : Byte) (reg : Nat) (s : State) : Host.Outcome State Fault Refusal :=
  .next (s.runOp c (.sync (.glintScale slot format reg)) (glintScaleCheck s c slot format reg) (fun _ t =>
    (match fmtOf format with
      | none => t
      | some f =>
        let x := glintScaleCode (sget {} (t.cluster (clusterOf c)).glint slot) f
        t.modCore c (fun u => { u with sregs := sset 0 u.sregs reg (x.zeroExtend 64) }), .done)))

end Sys2Proof.Machine
end

