-- ==== Sys2Proof/Machine/Vector.lean ====
section
/-! DEFINITION. The vector engine (spec/05_vector_engine.md): masks, rows, lane flags, the checks of Table 5-10, and the
element-wise classes: floating point, compares, integers, CVT, CURVE and CURVE_LOAD. -/

namespace Sys2Proof.Machine

/-! ### Checks (Table 5-10) -/

/-- Formats an operation accepts. -/
def anyFormat (_ : Fmt) : Bool := true
def isIntFormat (f : Fmt) : Bool := match f.elem with | .int _ => true | _ => false
def isFp32Format (f : Fmt) : Bool := f == ⟨32, .flt fp32, .none⟩
def isBf16Format (f : Fmt) : Bool := f == ⟨16, .flt bf16, .none⟩
def isWideFormat (f : Fmt) : Bool := f == ⟨32, .flt fp32, .none⟩ || f == ⟨16, .flt bf16, .none⟩ || f == ⟨16, .flt fp16, .none⟩
def isInt32Format (f : Fmt) : Bool := f == ⟨32, .int true, .none⟩
def isMsFormat (f : Fmt) : Bool := f.scale == .ms

/-- An operand of a check: descriptor, formats accepted, elements in a row, rows, destination. -/
structure VOperand where
  d : VDesc
  ok : Fmt → Bool
  n : Nat
  r : Nat
  dest : Bool

/-- A whole operand-cache range. -/
def inOc (off n : Nat) : Bool := decide (off + n ≤ ocSize)

/-- Check 1 over the operands. -/
def vecCheck1 (oc : Sram) (ops : List VOperand) : List (Bool × Status) :=
  [(ops.any (fun o => o.d.badFormat o.ok), vecStatus 1),
   (ops.any (fun o => o.d.bookOutside), vecStatus 3),
   (ops.any (fun o => o.d.bookBad oc), genCodebook)]

/-- The extents of R117 and the listed values of the common fields (check 2). -/
def vcomBad (m : VCom) : Bool :=
  !decide (1 ≤ m.n ∧ m.n ≤ 256 ∧ 1 ≤ m.r ∧ m.r ≤ 65536 ∧ 1 ≤ m.g ∧ m.g ≤ 65536 ∧ m.r % m.g = 0 ∧ m.n * m.g ≤ 65536) ||
  m.round == .unlisted || m.maskMode == .unlisted

/-- Mask and flag destination inside the operand cache (check 3); `flags` is the number of flag bytes. -/
def vcomOperandBad (m : VCom) (flags : Nat) : Bool :=
  (match m.mask with | none => false | some a => !inOc a (32 * m.r)) ||
  (match m.flagDest with | none => false | some a => !inOc a flags)

/-- Check 3 over the operands. -/
def vecCheck3 (limit : Nat) (ops : List VOperand) : Bool := ops.any (fun o => o.d.bad limit o.n o.r o.dest)

/-- The checks 1 to 3 of an operation over its operands; `more2`, `more3` are its own conditions. -/
def vecCheck (s : State) (c : Nat) (m : VCom) (ops : List VOperand) (flags : Nat) (more2 more3 : Bool) : List (Bool × Status) :=
  vecCheck1 (s.core c).oc ops ++
  [(vcomBad m || more2, vecStatus 2),
   (vecCheck3 (s.cmLimit (clusterOf c)) ops || vcomOperandBad m flags || more3, vecStatus 3)]

/-! ### Running an operation -/

/-- The local memories as an operation's rows leave them, its gathered writes, the OR of its flag bytes, and what it
counts. -/
structure VRun where
  mem : VMem
  oc : List ByteWrite := []
  cm : List ByteWrite := []
  ocDirty : List Nat := []
  cmDirty : List Nat := []
  flags : Nat := 0
  index : Nat := 0
  empty : Nat := 0
  taps : List FVal := []

/-- Writes and poisoned lines into one of the two memories. -/
def VRun.write (v : VRun) (inCm : Bool) (ws : List ByteWrite) (dirty : List Nat) : VRun :=
  let v := { v with mem := v.mem.setSram inCm ((v.mem.sram inCm).commit ws dirty) }
  if inCm then { v with cm := v.cm ++ ws, cmDirty := v.cmDirty ++ dirty }
  else { v with oc := v.oc ++ ws, ocDirty := v.ocDirty ++ dirty }

/-- Flag bytes, by number from the flag destination, into the sticky OR and where the operation asks for them (R126). -/
def VRun.flagBytes (v : VRun) (dest : Option Nat) (fs : List (Nat × Nat)) : VRun :=
  let v := { v with flags := fs.foldl (fun a f => a ||| f.2) v.flags }
  match dest with
  | none => v
  | some a => v.write false (fs.map (fun f => ⟨a + f.1, 0xFF#8, BitVec.ofNat 8 f.2⟩)) []

/-- An emission of rows of n elements into the memory of its destination. -/
def VRun.emit (v : VRun) (d : VDesc) (e : Emit) : VRun := v.write d.inCm e.ws e.dirty

/-- The elements that an operation reads of an operand: its descriptor, the elements in a row, the positions. -/
structure VReads where
  d : VDesc
  n : Nat
  pos : List (Nat × Nat)

/-- Byte ranges of the elements read, and of their scales in the scale plane, in one of the memories. -/
def VReads.ranges (inCm : Bool) (z : VReads) : List (Nat × Nat) :=
  let f := z.d.fmtD
  if z.d.isIn inCm then
    z.pos.flatMap (fun p =>
      let a := z.d.place f p.1 p.2
      elemSpan a.1 f.bits a.2 :: (match f.scale, z.d.supplied with
        | .none, _ => []
        | .tensor, _ => []
        | _, .absent => [(z.d.scaleOff + z.d.scaleNum f z.n p.1 p.2, 1)]
        | _, _ => []))
  else []

/-- Scale locations of operands in one of the memories; codebooks lie in the operand cache. -/
def descRanges (inCm : Bool) (ds : List VDesc) : List (Nat × Nat) :=
  ds.flatMap (fun d =>
    (match d.supplied with | .location off => if d.isIn inCm then [(off, 1)] else [] | _ => []) ++
    (if !inCm && d.loc != .sreg && d.fmtD.scale == .lf then [(d.codebook, 2 * bookLen d.fmtD)] else []))

/-- The reads of an operation settled (R224): its mask, other operand-cache ranges, the scale locations and codebooks of
its operands, and then the elements that its unmasked lanes read (R120). -/
def State.vecSettle (s : State) (c : Nat) (m : VCom) (ds : List VDesc) (more : List (Nat × Nat))
    (reads : VMem → List VReads) : State :=
  if (s.core c).oc.bad = [] ∧ (s.cluster (clusterOf c)).cm.bad = [] then s
  else
    let t := (s.ocSettle c ((match m.mask with | none => [] | some a => [(a, 32 * m.r)]) ++ more ++ descRanges false ds)).cmSettle
      (clusterOf c) (descRanges true ds)
    let rs := reads (t.vmem c)
    (t.ocSettle c (rs.flatMap (VReads.ranges false))).cmSettle (clusterOf c) (rs.flatMap (VReads.ranges true))

/-- What an operation leaves: its writes, VEC_FLAGS (R127) and VEC_EVENT_COUNT (R128). -/
def State.vecFinish (s : State) (c : Nat) (v : VRun) : State :=
  let t := if v.oc = [] ∧ v.ocDirty = [] then s else s.ocCommit c v.oc v.ocDirty
  let t := if v.cm = [] ∧ v.cmDirty = [] then t else t.cmCommit (clusterOf c) v.cm v.cmDirty
  t.modCore c (fun u => { u with
    vecFlags := u.vecFlags ||| BitVec.ofNat 32 v.flags
    vecEvent := bumpFld (bumpFld u.vecEvent 63 32 v.index) 31 0 v.empty })

/-! ### Masks (R120) -/

/-- Bit j of row i of a bitmap, and whether its line is poisoned. -/
def bitmapBit (oc : Sram) (off i j : Nat) : Bool × Bool :=
  let a := off + 32 * i + j / 8
  (bitOf (oc.byte a).toNat (j % 8), oc.poisoned a 1)

/-- Whether lane j of row i is unmasked, and whether its mask bit is poisoned. -/
def maskBit (oc : Sram) (m : VCom) (i j : Nat) : Bool × Bool :=
  match m.mask with
  | none => (true, false)
  | some off => bitmapBit oc off i j

/-- The positions of the unmasked lanes. -/
def onLanes (m : VCom) (mem : VMem) : List (Nat × Nat) :=
  ((List.range m.r).flatMap (fun i => (List.range m.n).map (fun j => (i, j)))).filter (fun p => (maskBit mem.oc m p.1 p.2).1)

/-- Reads of the unmasked lanes of sources of the operation's own shape. -/
def laneReads (m : VCom) (srcs : List VDesc) (mem : VMem) : List VReads := srcs.map (fun d => ⟨d, m.n, onLanes m mem⟩)

/-- What an operation's reads need. -/
def vecIn (m : VCom) (e : OpEnv) : VIn := ⟨e.regs, m.round, e.seed, e.stepNo, m.origin⟩

/-- The destination element of a masked lane. -/
def maskedOut (m : VCom) : LaneOut := if m.maskMode = .zero then .zero else .keep

/-- A lane under its mask bit. -/
def laneUnder (m : VCom) (mb : Bool × Bool) (res : LaneRes) : LaneRes :=
  if mb.1 then { res with poison := res.poison || mb.2, flags := res.flags ||| flagIf mb.2 fPoison }
  else { out := maskedOut m, poison := mb.2, flags := flagIf mb.2 fPoison }

/-- The environment of the conversions of an operation (R46, R117). -/
def vecEnv (m : VCom) (e : OpEnv) : OutEnv :=
  ⟨m.round, m.saturate, e.seed, e.stepNo, fun i j => m.origin + i * m.n + j⟩

/-! ### Rows in ascending order (R121) -/

/-- Rows that are read before any of them is written: 32 where the destination is in an MS format, whose blocks take 32
rows (R36, R125), else 1. -/
def bandOf (d : VDesc) : Nat := if d.loc != .sreg && isMsFormat d.fmtD then 32 else 1

/-- Results of the rows of one band into a destination. `lane` reads the memories as they are before the band. -/
def bandRows (m : VCom) (e : OutEnv) (d : VDesc) (band b : Nat) (lane : VMem → Nat → Nat → LaneRes) (v : VRun) : VRun :=
  let i0 := b * band
  let rows := (List.range (min band (m.r - i0))).map (fun ii => (List.range m.n).map (fun j =>
    laneUnder m (maskBit v.mem.oc m (i0 + ii) j) (lane v.mem (i0 + ii) j)))
  let out := emitRows v.mem e d m.n m.r i0 rows
  (v.emit d out).flagBytes m.flagDest (out.flags.map (fun f => (f.1.1 * m.n + f.1.2, f.2)))

/-- Element-wise results of all rows into a destination, band by band. -/
def elemRows (m : VCom) (e : OutEnv) (d : VDesc) (lane : VMem → Nat → Nat → LaneRes) (v0 : VRun) : VRun :=
  (List.range (ceilDiv m.r (bandOf d))).foldl (fun v b => bandRows m e d (bandOf d) b lane v) v0

/-- Flags of the sources that a lane read: infinities, overflow in decoding, poison (R126, R44). -/
def srcFlags (ls : List LaneIn) : Nat :=
  flagIf (ls.any (fun l => l.fp.isInf)) fInf ||| flagIf (ls.any (·.sat)) fSat ||| flagIf (ls.any (·.poison)) fPoison

/-- A lane of a floating-point operation: exact result of the decoded sources, a NaN as the canonical one (R124). -/
def fpLane (ls : List LaneIn) (x : FVal) : LaneRes :=
  { out := .val (if x.isNan then .nan false else x), poison := ls.any (·.poison),
    flags := srcFlags ls ||| flagIf x.isNan fInvalid ||| flagIf x.isInf fInf }

/-- Operands of an element-wise operation. -/
def elemOperands (m : VCom) (ok : Fmt → Bool) (srcs : List VDesc) (dst : VDesc) : List VOperand :=
  srcs.map (fun d => ⟨d, ok, m.n, m.r, false⟩) ++ [⟨dst, ok, m.n, m.r, true⟩]

/-! ### Floating-point classes (R124) -/

/-- MIN and MAX of two values: NaN if either is, -0 below +0. -/
def fvMin (a b : FVal) : FVal := if a.isNan || b.isNan then .nan false else if b.ltSigned a then b else a
def fvMax (a b : FVal) : FVal := if a.isNan || b.isNan then .nan false else if a.ltSigned b then b else a

/-- a with the sign of b. -/
def fvCopysign (a b : FVal) : FVal :=
  match a with
  | .nan _ => .nan false
  | _ => if a.neg = b.neg then a else a.negate

/-- Exact results of the two-source operations. -/
def BinOpEval (k : BinOp) (a b : FVal) : FVal :=
  match k with
  | .add => a.add b
  | .sub => a.sub b
  | .mul => a.mul b
  | .min => fvMin a b
  | .max => fvMax a b
  | .copysign => fvCopysign a b
  | .div => a.div b

/-- Exact results of the one-source operations. -/
def UnOpEval (k : UnOp) (a : FVal) : FVal :=
  match k with
  | .abs => a.abs
  | .neg => a.negate
  | .sqrt => a.sqrt

/-- A floating-point operation over the listed sources. -/
def fpEffect (c : Nat) (m : VCom) (srcs : List VDesc) (dst : VDesc) (f : List FVal → FVal) (e : OpEnv) (s0 : State) :
    State × Outc :=
  let s := s0.vecSettle c m (dst :: srcs) [] (laneReads m srcs)
  let v := elemRows m (vecEnv m e) dst (fun mem i j =>
    let ls := srcs.map (fun d => d.read mem (vecIn m e) false m.n i j)
    fpLane ls (f (ls.map LaneIn.fp))) { mem := (s.vmem c).latch (dst :: srcs) }
  (s.vecFinish c v, .done)

/-- The checks of an element-wise operation without fields of its own. -/
def elemCheck (s : State) (c : Nat) (m : VCom) (ok : Fmt → Bool) (srcs : List VDesc) (dst : VDesc) : Option Status :=
  firstFail (vecCheck s c m (elemOperands m ok srcs dst) (m.n * m.r) false false)

def State.vecBin (s : State) (c : Nat) (k : BinOp) (f : VBin) : State :=
  s.runOp c (.vec (.bin k f)) (elemCheck s c f.com anyFormat [f.a, f.b] f.dst)
    (fpEffect c f.com [f.a, f.b] f.dst (fun xs => BinOpEval k (xs.getD 0 FVal.zero) (xs.getD 1 FVal.zero)))

def State.vecUn (s : State) (c : Nat) (k : UnOp) (f : VUn) : State :=
  s.runOp c (.vec (.un k f)) (elemCheck s c f.com anyFormat [f.a] f.dst)
    (fpEffect c f.com [f.a] f.dst (fun xs => UnOpEval k (xs.getD 0 FVal.zero)))

def execAdd (c : CoreId) (f : VBin) (s : State) : Host.Outcome State Fault Refusal := .next (s.vecBin c .add f)
def execSub (c : CoreId) (f : VBin) (s : State) : Host.Outcome State Fault Refusal := .next (s.vecBin c .sub f)
def execMul (c : CoreId) (f : VBin) (s : State) : Host.Outcome State Fault Refusal := .next (s.vecBin c .mul f)
def execMin (c : CoreId) (f : VBin) (s : State) : Host.Outcome State Fault Refusal := .next (s.vecBin c .min f)
def execMax (c : CoreId) (f : VBin) (s : State) : Host.Outcome State Fault Refusal := .next (s.vecBin c .max f)
def execCopysign (c : CoreId) (f : VBin) (s : State) : Host.Outcome State Fault Refusal := .next (s.vecBin c .copysign f)
def execDiv (c : CoreId) (f : VBin) (s : State) : Host.Outcome State Fault Refusal := .next (s.vecBin c .div f)
def execAbs (c : CoreId) (f : VUn) (s : State) : Host.Outcome State Fault Refusal := .next (s.vecUn c .abs f)
def execNeg (c : CoreId) (f : VUn) (s : State) : Host.Outcome State Fault Refusal := .next (s.vecUn c .neg f)
def execSqrt (c : CoreId) (f : VUn) (s : State) : Host.Outcome State Fault Refusal := .next (s.vecUn c .sqrt f)

def execFma (c : CoreId) (f : VTern) (s : State) : Host.Outcome State Fault Refusal :=
  .next (s.runOp c (.vec (.fma f)) (elemCheck s c f.com anyFormat [f.a, f.b, f.c] f.dst)
    (fpEffect c f.com [f.a, f.b, f.c] f.dst (fun xs =>
      ((xs.getD 0 FVal.zero).mul (xs.getD 1 FVal.zero)).add (xs.getD 2 FVal.zero))))

/-! ### SEL (R124) -/

/-- The elements that SEL reads: each unmasked lane one source. -/
def selReads (f : VSel) (mem : VMem) : List VReads :=
  let on := onLanes f.com mem
  let took (p : Nat × Nat) : Bool := (bitmapBit mem.oc f.cond p.1 p.2).1
  [⟨f.a, f.com.n, on.filter took⟩, ⟨f.b, f.com.n, on.filter (fun p => !took p)⟩]

/-- SEL's effect: a lane reads only the source that its condition bit takes. -/
def selEffect (c : Nat) (f : VSel) (e : OpEnv) (s0 : State) : State × Outc :=
  let m := f.com
  let s := s0.vecSettle c m [f.dst, f.a, f.b] [(f.cond, 32 * m.r)] (selReads f)
  let v := elemRows m (vecEnv m e) f.dst (fun mem i j =>
    let cb := bitmapBit mem.oc f.cond i j
    let l := (if cb.1 then f.a else f.b).read mem (vecIn m e) false m.n i j
    let r := fpLane [l] l.fp
    { r with poison := r.poison || cb.2, flags := r.flags ||| flagIf cb.2 fPoison }) { mem := (s.vmem c).latch [f.dst, f.a, f.b] }
  (s.vecFinish c v, .done)

def selCheck (s : State) (c : Nat) (f : VSel) : Option Status :=
  firstFail (vecCheck s c f.com (elemOperands f.com anyFormat [f.a, f.b] f.dst) (f.com.n * f.com.r) false
    (!inOc f.cond (32 * f.com.r)))

def execSel (c : CoreId) (f : VSel) (s : State) : Host.Outcome State Fault Refusal :=
  .next (s.runOp c (.vec (.sel f)) (selCheck s c f) (selEffect c f))

/-! ### Compares (R124) -/

/-- The relations of the compares on decoded values. -/
def CmpOpEval (k : CmpOp) (a b : FVal) : Bool :=
  match k with
  | .eq => a.eqv b
  | .lt => a.lt b
  | .le => a.lt b || a.eqv b
  | .unord => a.isNan || b.isNan

/-- A compare's effect: bit j of row i of the bitmap at `dst`; a masked lane's bit stays, or becomes 0. -/
def cmpEffect (c : Nat) (k : CmpOp) (f : VCmp) (e : OpEnv) (s0 : State) : State × Outc :=
  let m := f.com
  let s := s0.vecSettle c m [f.a, f.b] [] (laneReads m [f.a, f.b])
  let v := (List.range m.r).foldl (fun (v : VRun) i =>
    let cells := (List.range m.n).map (fun j =>
      let ls := [f.a, f.b].map (fun d => d.read v.mem (vecIn m e) false m.n i j)
      let x := ls.map LaneIn.fp
      let hit := CmpOpEval k (x.getD 0 FVal.zero) (x.getD 1 FVal.zero)
      (j, laneUnder m (maskBit v.mem.oc m i j)
        { out := .val (if hit then .fin false 1 else FVal.zero), poison := ls.any (·.poison), flags := srcFlags ls }))
    let row := f.dst + 32 * i
    let ws := cells.flatMap (fun z => match z.2.out with
      | .keep => []
      | .val x => writeElem row 1 z.1 (if x.isZero then 0 else 1)
      | _ => writeElem row 1 z.1 0)
    let dirty := (cells.filter (fun z => z.2.poison)).map (fun z => (row + z.1 / 8) / 64)
    (v.write false ws dirty).flagBytes m.flagDest (cells.map (fun z => (i * m.n + z.1, z.2.flags)))) { mem := (s.vmem c).latch [f.a, f.b] }
  (s.vecFinish c v, .done)

def cmpCheck (s : State) (c : Nat) (f : VCmp) : Option Status :=
  firstFail (vecCheck s c f.com ([f.a, f.b].map (fun d => ⟨d, anyFormat, f.com.n, f.com.r, false⟩)) (f.com.n * f.com.r) false
    (!inOc f.dst (32 * f.com.r)))

def State.vecCmp (s : State) (c : Nat) (k : CmpOp) (f : VCmp) : State :=
  s.runOp c (.vec (.cmp k f)) (cmpCheck s c f) (cmpEffect c k f)

def execCmpEq (c : CoreId) (f : VCmp) (s : State) : Host.Outcome State Fault Refusal := .next (s.vecCmp c .eq f)
def execCmpLt (c : CoreId) (f : VCmp) (s : State) : Host.Outcome State Fault Refusal := .next (s.vecCmp c .lt f)
def execCmpLe (c : CoreId) (f : VCmp) (s : State) : Host.Outcome State Fault Refusal := .next (s.vecCmp c .le f)
def execCmpUnord (c : CoreId) (f : VCmp) (s : State) : Host.Outcome State Fault Refusal := .next (s.vecCmp c .unord f)

/-! ### Integers (R124) -/

/-- Results of the integer operations on INT32 values, before the low 32 bits are taken. -/
def IntOpEval (k : IntOp) (a b : Word32) : Word32 :=
  let sh := b.toNat % 32
  match k with
  | .iadd => a + b
  | .isub => a - b
  | .imul => a * b
  | .and => a &&& b
  | .or => a ||| b
  | .xor => a ^^^ b
  | .shl => a <<< sh
  | .shr => a >>> sh
  | .sar => a.sshiftRight sh
  | .imin => if a.toInt ≤ b.toInt then a else b
  | .imax => if a.toInt ≤ b.toInt then b else a

/-- The INT32 value of an integer lane. -/
def LaneIn.int (l : LaneIn) : Word32 := BitVec.ofInt 32 l.x.rat.floor

/-- An integer operation's effect. -/
def intEffect (c : Nat) (k : IntOp) (f : VBin) (e : OpEnv) (s0 : State) : State × Outc :=
  let m := f.com
  let s := s0.vecSettle c m [f.a, f.b] [] (laneReads m [f.a, f.b])
  let v := elemRows m (vecEnv m e) f.dst (fun mem i j =>
    let a := f.a.read mem (vecIn m e) true m.n i j
    let b := f.b.read mem (vecIn m e) true m.n i j
    { out := .val (FVal.ofRat false (IntOpEval k a.int b.int).toInt), poison := a.poison || b.poison,
      flags := flagIf (a.poison || b.poison) fPoison }) { mem := s.vmem c }
  (s.vecFinish c v, .done)

def State.vecInt (s : State) (c : Nat) (k : IntOp) (f : VBin) : State :=
  s.runOp c (.vec (.int k f)) (elemCheck s c f.com isInt32Format [f.a, f.b] f.dst) (intEffect c k f)

def execIadd (c : CoreId) (f : VBin) (s : State) : Host.Outcome State Fault Refusal := .next (s.vecInt c .iadd f)
def execIsub (c : CoreId) (f : VBin) (s : State) : Host.Outcome State Fault Refusal := .next (s.vecInt c .isub f)
def execImul (c : CoreId) (f : VBin) (s : State) : Host.Outcome State Fault Refusal := .next (s.vecInt c .imul f)
def execAnd (c : CoreId) (f : VBin) (s : State) : Host.Outcome State Fault Refusal := .next (s.vecInt c .and f)
def execOr (c : CoreId) (f : VBin) (s : State) : Host.Outcome State Fault Refusal := .next (s.vecInt c .or f)
def execXor (c : CoreId) (f : VBin) (s : State) : Host.Outcome State Fault Refusal := .next (s.vecInt c .xor f)
def execShl (c : CoreId) (f : VBin) (s : State) : Host.Outcome State Fault Refusal := .next (s.vecInt c .shl f)
def execShr (c : CoreId) (f : VBin) (s : State) : Host.Outcome State Fault Refusal := .next (s.vecInt c .shr f)
def execSar (c : CoreId) (f : VBin) (s : State) : Host.Outcome State Fault Refusal := .next (s.vecInt c .sar f)
def execImin (c : CoreId) (f : VBin) (s : State) : Host.Outcome State Fault Refusal := .next (s.vecInt c .imin f)
def execImax (c : CoreId) (f : VBin) (s : State) : Host.Outcome State Fault Refusal := .next (s.vecInt c .imax f)

/-! ### CVT (R125) -/

/-- The unmasked source values of a band of rows, which a Glint tap counts (R50). -/
def tapBand (m : VCom) (mem : VMem) (q : VIn) (d : VDesc) (band b : Nat) : List FVal :=
  (List.range (min band (m.r - b * band))).flatMap (fun ii => (List.range m.n).filterMap (fun j =>
    let i := b * band + ii
    if (maskBit mem.oc m i j).1 then some (d.read mem q false m.n i j).x else none))

/-- Whether CVT only decodes elements of a group or block to FP32 (R44). -/
def cvtDecodes (f : CvtF) : Bool :=
  let a := f.a.fmtD.scale
  f.a.loc != .sreg && (a == .mx || a == .ms || a == .lf) && isFp32Format f.dst.fmtD

/-- One lane of CVT: the exact source value converted once; an element of MX, MS or LF decodes to FP32 to nearest-even,
and to an infinity with SAT where it overflows (R44). -/
def cvtLane (f : CvtF) (l : LaneIn) : LaneRes :=
  let read := flagIf l.x.isNan fInvalid ||| flagIf l.x.isInf fInf ||| flagIf l.poison fPoison
  if cvtDecodes f && l.x.isFin then
    let z := laneOf l.x
    { out := .raw z.1.toNat, poison := l.poison, flags := read ||| flagIf z.2.sat fSat }
  else { out := .val l.x, poison := l.poison, flags := read }

/-- CVT's effect, band by band. -/
def cvtEffect (c : Nat) (f : CvtF) (e : OpEnv) (s0 : State) : State × Outc :=
  let m := f.com
  let s := s0.vecSettle c m [f.dst, f.a] [] (laneReads m [f.a])
  let band := bandOf f.dst
  let v := (List.range (ceilDiv m.r band)).foldl (fun (v : VRun) b =>
    let taps := if f.glint.isSome then tapBand m v.mem (vecIn m e) f.a band b else []
    bandRows m (vecEnv m e) f.dst band b (fun mem i j => cvtLane f (f.a.read mem (vecIn m e) false m.n i j))
      { v with taps := v.taps ++ taps }) { mem := (s.vmem c).latch [f.dst, f.a] }
  ((s.vecFinish c v).glintAdd (clusterOf c) f.glint v.taps 0 0, .done)

def cvtCheck (s : State) (c : Nat) (f : CvtF) : Option Status :=
  firstFail (vecCheck s c f.com (elemOperands f.com anyFormat [f.a] f.dst) (f.com.n * f.com.r)
    (match f.glint with | none => false | some g => !decide (g < 16)) false)

def execCvt (c : CoreId) (f : CvtF) (s : State) : Host.Outcome State Fault Refusal :=
  .next (s.runOp c (.vec (.cvt f)) (cvtCheck s c f) (cvtEffect c f))

/-! ### CURVE and CURVE_LOAD (R129 to R132) -/

/-- The function of a curve slot under a firmware set. -/
def Core.curve (u : Core) (fw : List Word32) (slot : Nat) (x : Word32) : Word32 :=
  if slot < 8 then builtinEval fw slot x
  else match sget none u.curves slot with
    | some t => curveEval t x
    | none => x

def curveCheck (s : State) (c : Nat) (f : CurveF) : Option Status :=
  firstFail (vecCheck s c f.com (elemOperands f.com anyFormat [f.a] f.dst) (f.com.n * f.com.r) false false ++
    [(!decide (f.slot < 16) || (decide (8 ≤ f.slot) && (sget none (s.core c).curves f.slot).isNone), vecStatus 4)])

def execCurve (c : CoreId) (f : CurveF) (s : State) : Host.Outcome State Fault Refusal :=
  .next (s.runOp c (.vec (.curve f)) (curveCheck s c f)
    (fpEffect c f.com [f.a] f.dst (fun xs =>
      ofFp32 ((s.core c).curve s.firmwareSet f.slot (toFp32 (xs.getD 0 FVal.zero))))))

/-- CURVE_LOAD's effect: the table and its w; poisoned bytes raise POISON. -/
def curveLoadEffect (c : Nat) (f : CurveLoadF) (_ : OpEnv) (s0 : State) : State × Outc :=
  let s := s0.ocSettle c [(f.offset, 1056)]
  let u := s.core c
  let bad := u.oc.poisoned f.offset 1056
  (s.setCore c { u with
    curves := sset none u.curves f.slot (some (curveTab (u.oc.read f.offset 1056)))
    vecFlags := u.vecFlags ||| BitVec.ofNat 32 (flagIf bad fPoison) }, .done)

def curveLoadCheck (s : State) (c : Nat) (f : CurveLoadF) : Option Status :=
  firstFail [
    (!inOc f.offset 1056, vecStatus 3),
    (!decide (8 ≤ f.slot ∧ f.slot < 16) || !curveValid ((s.core c).oc.read f.offset 1056), vecStatus 4)]

def execCurveLoad (c : CoreId) (f : CurveLoadF) (s : State) : Host.Outcome State Fault Refusal :=
  .next (s.runOp c (.vec (.curveLoad f)) (curveLoadCheck s c f) (curveLoadEffect c f))

end Sys2Proof.Machine
end

