-- ==== Sys2Proof/Machine/Gather.lean ====
section
/-! DEFINITION. Vector operations that move rows, elements and tiles (spec/05_vector_engine.md, R136 to R139), and
GRAD_QUANT of chapter 12 (R289): GATHER, SCATTER, SCATTER_ADD, ACC_RD, ACC_WR, GRAD_QUANT. -/

namespace Sys2Proof.Machine

/-! ### Gather and scatter (R136, R137) -/

/-- Elements in a table row: n in granule ROW; one flat row of the extent in granule ELEMENT. -/
def tableCols (f : GatherF) : Nat := if f.granule = .row then f.com.n else max 1 f.extent
def tableRows (f : GatherF) : Nat := if f.granule = .row then max 1 f.extent else 1
/-- Indices in a row of the index operand. -/
def idxCols (f : GatherF) : Nat := if f.granule = .row then 1 else f.com.n

/-- UINT16 and INT32, the formats of an index operand. -/
def isIndexFormat (f : Fmt) : Bool := f == ⟨16, .int false, .none⟩ || isInt32Format f

/-- Whether two operands are supplied one scale: the same code, or the same location of one memory. -/
def sameSupplied (a b : VDesc) : Bool :=
  a.supplied == b.supplied && (match a.supplied with | .location _ => a.loc == b.loc | _ => true)

/-- Whether elements move as they are stored: from memory, in one format, and the scales move with them or are the same. -/
def movesRaw (f : GatherF) (src dst : VDesc) : Bool :=
  src.loc != .sreg && src.format == dst.format && (match dst.fmtD.scale with
    | .none => true
    | .tensor => sameSupplied src dst
    | .lf => f.granule == .row && dst.supplied == .absent && src.codebook == dst.codebook
    | _ => f.granule == .row && dst.supplied == .absent)

/-- Where lane j of row i goes or comes from: a masked lane, a lane that its index masks with its flag, or a table
position. -/
inductive GatherPos | masked | bad (flag : Nat) | pos (row col : Nat)
  deriving DecidableEq, Repr

/-- The table position of lane j of row i (R136). -/
def gatherPos (f : GatherF) (mem : VMem) (q : VIn) (i j : Nat) : GatherPos :=
  if !(maskBit mem.oc f.com i j).1 then .masked
  else
    let row := f.granule = .row
    let l := f.idx.read mem q true (idxCols f) i (if row then 0 else j)
    let v := l.x.rat.floor
    if l.poison then .bad fPoison
    else if 0 ≤ v ∧ v < f.extent then (if row then .pos v.toNat j else .pos 0 v.toNat)
    else .bad fIndex

/-- Stored bits of an element. -/
def rawBits (mem : VMem) (d : VDesc) (i j : Nat) : Nat :=
  let p := d.place d.fmtD i j
  readElem (mem.sram d.inCm).byte p.1 d.fmtD.bits p.2

/-- Flags of a value that moves. -/
def moveFlags (l : LaneIn) : Nat := flagIf l.x.isNan fInvalid ||| flagIf l.x.isInf fInf ||| flagIf l.poison fPoison

/-- One element or lane moved as it is stored to (i, j) of the destination. -/
def rawWrite (d : VDesc) (i j bits : Nat) : List ByteWrite :=
  let p := d.place d.fmtD i j
  writeElem p.1 d.fmtD.bits p.2 bits

/-- Lines of the element (i, j) of a destination, and of its scale. -/
def elemLines (d : VDesc) (n i j : Nat) : List Nat :=
  let p := d.place d.fmtD i j
  let sp := elemSpan p.1 d.fmtD.bits p.2
  linesIn sp.1 sp.2 ++ (if d.fmtD.scale = .mx ∨ d.fmtD.scale = .lf then [(d.scaleOff + d.scaleNum d.fmtD n i j) / 64] else [])

/-- The scale byte that goes with raw elements: group of (i, j) of the destination takes scale x. -/
def rawScale (d : VDesc) (n i j : Nat) (x : Byte) : List ByteWrite :=
  if d.fmtD.scale = .mx ∨ d.fmtD.scale = .lf then [⟨d.scaleOff + d.scaleNum d.fmtD n i j, 0xFF#8, x⟩] else []

/-- A gathered row moved as it is stored: writes and poisoned lines. A group whose lanes all become +0 takes scale 127. -/
def gatherRawRow (f : GatherF) (mem : VMem) (q : VIn) (i : Nat) (ps : List (Nat × GatherPos)) : List ByteWrite × List Nat :=
  let d := f.other
  let fm := d.fmtD
  let book := readBook mem.oc fm d.codebook
  let n := f.com.n
  let zero := f.com.maskMode = .zero
  let one (z : Nat × GatherPos) : List ByteWrite × List Nat :=
    let j := z.1
    let mp := (maskBit mem.oc f.com i j).2
    match z.2 with
    | .pos r c =>
      let l := f.table.read mem q false (tableCols f) r c
      (rawWrite d i j (rawBits mem f.table r c) ++ rawScale d n i j ((f.table.scale mem fm (tableCols f) r c).1.getD 127#8),
       if l.poison || mp then elemLines d n i j else [])
    | _ => (if zero then rawWrite d i j (fm.zeroBits book) else [], if mp then elemLines d n i j else [])
  let groupZero (g : Nat) : List ByteWrite :=
    let js := ps.filter (fun z => z.1 / 32 = g)
    if zero && js.all (fun z => match z.2 with | .pos _ _ => false | _ => true) then rawScale d n i (32 * g) 127#8 else []
  (ps.flatMap (fun z => (one z).1) ++ (List.range (ceilDiv n 32)).flatMap groupZero, ps.flatMap (fun z => (one z).2))

/-- Number of lanes that their index masks (R128). -/
def badLanes (ps : List (Nat × GatherPos)) : Nat := (ps.filter (fun z => match z.2 with | .bad _ => true | _ => false)).length

/-- The index elements of the unmasked lanes; in granule ROW one for each row with such a lane. -/
def idxReads (f : GatherF) (mem : VMem) : VReads :=
  ⟨f.idx, idxCols f, (onLanes f.com mem).map (fun p => (p.1, if f.granule = .row then 0 else p.2))⟩

/-- The table positions that the lanes name. -/
def tableReads (f : GatherF) (q : VIn) (mem : VMem) : VReads :=
  ⟨f.table, tableCols f, (onLanes f.com mem).filterMap (fun p =>
    match gatherPos f mem q p.1 p.2 with | .pos r c => some (r, c) | _ => none)⟩

/-- The reads of a gather or scatter settled (R224): masks and indices, then the elements that they name. -/
def State.gatherSettle (s : State) (c : Nat) (f : GatherF) (q : VIn) (table other : Bool) : State :=
  (s.vecSettle c f.com [f.table, f.other, f.idx] [] (fun mem => [idxReads f mem])).vecSettle c f.com [] []
    (fun mem => (if table then [tableReads f q mem] else []) ++ (if other then laneReads f.com [f.other] mem else []))

/-- One gathered lane. -/
def gatherLane (f : GatherF) (mem : VMem) (q : VIn) (i : Nat) (z : Nat × GatherPos) : LaneRes :=
  let mp := (maskBit mem.oc f.com i z.1).2
  match z.2 with
  | .masked => { out := maskedOut f.com, poison := mp, flags := flagIf mp fPoison }
  | .bad g => { out := maskedOut f.com, poison := mp, flags := g ||| flagIf mp fPoison }
  | .pos r cc =>
    let l := f.table.read mem q false (tableCols f) r cc
    { out := .val l.x, poison := l.poison || mp, flags := moveFlags l ||| flagIf mp fPoison }

/-- The lanes of a row with their table positions. -/
def gatherRow (f : GatherF) (mem : VMem) (q : VIn) (i : Nat) : List (Nat × GatherPos) :=
  (List.range f.com.n).map (fun j => (j, gatherPos f mem q i j))

/-- GATHER's effect, band by band. -/
def gatherEffect (c : Nat) (f : GatherF) (e : OpEnv) (s0 : State) : State × Outc :=
  let m := f.com
  let q := vecIn m e
  let s := s0.gatherSettle c f q true false
  let band := bandOf f.other
  let v := (List.range (ceilDiv m.r band)).foldl (fun (v : VRun) b =>
    let mem := v.mem
    let i0 := b * band
    let rows := (List.range (min band (m.r - i0))).map (fun ii => gatherRow f mem q (i0 + ii))
    let v := { v with index := v.index + (rows.map badLanes).foldl (· + ·) 0 }
    if movesRaw f f.table f.other then
      rows.zipIdx.foldl (fun (v : VRun) ps =>
        let w := gatherRawRow f mem q (i0 + ps.2) ps.1
        (v.write f.other.inCm w.1 w.2).flagBytes m.flagDest
          (ps.1.map (fun z => ((i0 + ps.2) * m.n + z.1, (gatherLane f mem q (i0 + ps.2) z).flags)))) v
    else
      let out := emitRows mem (vecEnv m e) f.other m.n m.r i0 (rows.zipIdx.map (fun ps => ps.1.map (gatherLane f mem q (i0 + ps.2))))
      (v.emit f.other out).flagBytes m.flagDest (out.flags.map (fun z => (z.1.1 * m.n + z.1.2, z.2))))
    { mem := (s.vmem c).latch [f.table, f.other, f.idx] }
  (s.vecFinish c v, .done)

/-- The checks of gathers and scatters. -/
def gatherCheck (s : State) (c : Nat) (f : GatherF) (scatter add : Bool) : Option Status :=
  let m := f.com
  let moved (x : Fmt) : Bool := f.granule != .row || !isMsFormat x
  let tab : VOperand := ⟨f.table, if add then isWideFormat else moved, tableCols f, tableRows f, scatter⟩
  let oth : VOperand := ⟨f.other, if add then anyFormat else moved, m.n, m.r, !scatter⟩
  let idx : VOperand := ⟨f.idx, isIndexFormat, idxCols f, m.r, false⟩
  let grouped (d : VDesc) : Bool := d.loc != .sreg && (d.fmtD.scale == .mx || d.fmtD.scale == .lf)
  firstFail (vecCheck s c m [tab, oth, idx] (m.n * m.r)
    (f.granule == .unlisted || decide (2 ^ 24 < f.extent) ||
      (f.granule == .row && (grouped f.table || grouped f.other) && m.n % 32 != 0))
    (f.idx.loc != .oc || !(f.table.loc == .oc || f.table.loc == .cm)))

def execGather (c : CoreId) (f : GatherF) (s : State) : Host.Outcome State Fault Refusal :=
  .next (s.runOp c (.vec (.gather f)) (gatherCheck s c f false false) (gatherEffect c f))

/-- One element scattered to (r, c) of an unscaled table, converted or as stored, or of a row moved as it is stored. -/
def scatterOne (f : GatherF) (mem : VMem) (e : OpEnv) (i j r cc : Nat) (l : LaneIn) (mp : Bool) : Emit :=
  let cols := tableCols f
  let poison := l.poison || mp
  let flags := moveFlags l ||| flagIf mp fPoison
  if movesRaw f f.other f.table then
    ⟨rawWrite f.table r cc (rawBits mem f.other i j) ++
       rawScale f.table cols r cc ((f.other.scale mem f.other.fmtD f.com.n i j).1.getD 127#8),
     if poison then elemLines f.table cols r cc else [], [((i, j), flags)]⟩
  else
    let env : OutEnv := { vecEnv f.com e with index := fun _ _ => f.com.origin + i * f.com.n + j }
    let res : LaneRes := { out := .val l.x, poison := poison, flags := flags }
    let em := emitOne mem env f.table cols r cc res
    { em with flags := em.flags.map (fun z => ((i, j), z.2)) }

/-- A scattered row in granule ROW whose elements are converted: its groups form as those of any row. -/
def scatterRow (f : GatherF) (mem : VMem) (e : OpEnv) (i r : Nat) (cells : List (Nat × LaneRes)) : Emit :=
  let env : OutEnv := { vecEnv f.com e with index := fun _ j => f.com.origin + i * f.com.n + j }
  let em := emitRows mem env f.table f.com.n (tableRows f) r [cells.map (·.2)]
  { em with flags := em.flags.map (fun z => ((i, z.1.2), z.2)) }

/-- Flags of the lanes that write nothing. -/
def idleFlags (mem : VMem) (f : GatherF) (i : Nat) (ps : List (Nat × GatherPos)) : List (Nat × Nat) :=
  ps.filterMap (fun z =>
    let mp := flagIf (maskBit mem.oc f.com i z.1).2 fPoison
    match z.2 with
    | .pos _ _ => none
    | .bad g => some (i * f.com.n + z.1, g ||| mp)
    | .masked => some (i * f.com.n + z.1, mp))

/-- One element of a scatter into groups or blocks: its table position, its lane, its result. -/
structure ScatterCell where
  pos : Nat × Nat
  lane : Nat × Nat
  res : LaneRes

/-- Whether a table holds groups or blocks. -/
def isGrouped (f : Fmt) : Bool := f.scale == .mx || f.scale == .lf || f.scale == .ms

/-- The elements that a scatter of granule ELEMENT leaves in its table, the highest logical index of each position (R137),
and the flags of every lane. -/
def scatterCells (f : GatherF) (mem : VMem) (q : VIn) : List ScatterCell × List (Nat × Nat) :=
  let all := (List.range f.com.r).flatMap (fun i => (gatherRow f mem q i).filterMap (fun z => match z.2 with
    | .pos r cc =>
      let l := f.other.read mem q false f.com.n i z.1
      let mp := (maskBit mem.oc f.com i z.1).2
      some (⟨(r, cc), (i, z.1), { out := .val l.x, poison := l.poison || mp, flags := moveFlags l ||| flagIf mp fPoison }⟩ : ScatterCell)
    | _ => none))
  (all.reverse.foldl (fun (acc : List ScatterCell) z => if acc.any (fun y => y.pos == z.pos) then acc else z :: acc) [],
   all.map (fun z => (z.lane.1 * f.com.n + z.lane.2, z.res.flags)))

/-- SCATTER of granule ELEMENT into groups or blocks: each takes the scale that its written elements give (R524), so that
every element is read before any is written (DEDUCED, log entry 95). -/
def scatterGroups (f : GatherF) (e : OpEnv) (v : VRun) : VRun :=
  let m := f.com
  let q := vecIn m e
  let d := f.table
  let cols := tableCols f
  let z := scatterCells f v.mem q
  let num (y : ScatterCell) : Nat := d.scaleNum d.fmtD cols y.pos.1 y.pos.2
  let lane (p : Nat × Nat) : Nat := ((z.1.find? (fun y => y.pos == p)).map (fun y => y.lane.1 * m.n + y.lane.2)).getD 0
  let env : OutEnv := { vecEnv m e with index := fun r c => m.origin + lane (r, c) }
  let em := (dedupNat (z.1.map num)).foldl (fun (a : Emit) g =>
    a.then (emitGroup v.mem env d cols ((z.1.filter (fun y => num y = g)).map (fun y => (y.pos, y.res))) [])) {}
  let rows := (List.range m.r).map (fun i => gatherRow f v.mem q i)
  let idle := rows.zipIdx.flatMap (fun ps => idleFlags v.mem f ps.2 ps.1)
  let v := { v with index := v.index + (rows.map badLanes).foldl (· + ·) 0 }
  (v.emit d em).flagBytes m.flagDest (z.2 ++ em.flags.map (fun y =>
    (lane y.1, y.2 ||| ((z.2.find? (fun x => x.1 = lane y.1)).map (·.2)).getD 0)) ++ idle)

/-- SCATTER's effect: writes in ascending logical index. -/
def scatterEffect (c : Nat) (f : GatherF) (e : OpEnv) (s0 : State) : State × Outc :=
  let m := f.com
  let q := vecIn m e
  let s := s0.gatherSettle c f q false true
  let v0 : VRun := { mem := (s.vmem c).latch [f.table, f.other, f.idx] }
  if f.granule = .element ∧ isGrouped f.table.fmtD then (s.vecFinish c (scatterGroups f e v0), .done) else
  let v := (List.range m.r).foldl (fun (v : VRun) i =>
    let mem := v.mem
    let ps := gatherRow f mem q i
    let v := { v with index := v.index + badLanes ps }
    let whole : Bool := f.granule == .row && !movesRaw f f.other f.table
    let target := ps.findSome? (fun z => match z.2 with | .pos r _ => some r | _ => none)
    let v : VRun := match whole, target with
      | true, some r =>
        let cells : List (Nat × LaneRes) := ps.map (fun (z : Nat × GatherPos) =>
          let mp := (maskBit mem.oc m i z.1).2
          (z.1, match z.2 with
            | .pos _ _ =>
              let l := f.other.read mem q false m.n i z.1
              ({ out := .val l.x, poison := l.poison || mp, flags := moveFlags l ||| flagIf mp fPoison } : LaneRes)
            | _ => { out := .keep, poison := mp, flags := flagIf mp fPoison }))
        let em := scatterRow f mem e i r cells
        (v.emit f.table em).flagBytes m.flagDest (em.flags.map (fun z => (z.1.1 * m.n + z.1.2, z.2)))
      | _, _ => ps.foldl (fun (v : VRun) (z : Nat × GatherPos) => match z.2 with
        | .pos r cc =>
          let em := scatterOne f mem e i z.1 r cc (f.other.read mem q false m.n i z.1) (maskBit mem.oc m i z.1).2
          (v.emit f.table em).flagBytes m.flagDest (em.flags.map (fun y => (y.1.1 * m.n + y.1.2, y.2)))
        | _ => match target with
          | some r => if f.granule = .row ∧ (maskBit mem.oc m i z.1).2 then
              v.write f.table.inCm [] (elemLines f.table (tableCols f) r z.1) else v
          | none => v) v
    v.flagBytes m.flagDest (idleFlags mem f i ps)) v0
  (s.vecFinish c v, .done)

def execScatter (c : CoreId) (f : GatherF) (s : State) : Host.Outcome State Fault Refusal :=
  .next (s.runOp c (.vec (.scatter f)) (gatherCheck s c f true false) (scatterEffect c f))

/-- SCATTER_ADD's effect: each addition reads the table and rounds once to its format. -/
def scatterAddEffect (c : Nat) (f : GatherF) (e : OpEnv) (s0 : State) : State × Outc :=
  let m := f.com
  let q := vecIn m e
  let s := s0.gatherSettle c f q true true
  let v := (List.range m.r).foldl (fun (v : VRun) i =>
    let mem := v.mem
    let ps := gatherRow f mem q i
    let v := { v with index := v.index + badLanes ps }
    let v := ps.foldl (fun (v : VRun) z => match z.2 with
      | .pos r cc =>
        let l := f.other.read mem q false m.n i z.1
        let t := f.table.read v.mem q false (tableCols f) r cc
        let mp := (maskBit mem.oc m i z.1).2
        let lane := fpLane [l, t] (l.fp.add t.fp)
        let env : OutEnv := { vecEnv m e with index := fun _ _ => m.origin + i * m.n + z.1 }
        let em := emitOne v.mem env f.table (tableCols f) r cc
          { lane with poison := lane.poison || mp, flags := lane.flags ||| flagIf mp fPoison }
        (v.emit f.table em).flagBytes m.flagDest (em.flags.map (fun y => (i * m.n + z.1, y.2)))
      | _ => v) v
    v.flagBytes m.flagDest (idleFlags mem f i ps)) { mem := (s.vmem c).latch [f.table, f.other, f.idx] }
  (s.vecFinish c v, .done)

def execScatterAdd (c : CoreId) (f : GatherF) (s : State) : Host.Outcome State Fault Refusal :=
  .next (s.runOp c (.vec (.scatterAdd f)) (gatherCheck s c f true true) (scatterAddEffect c f))

/-! ### Accumulator access (R138, R139) -/

/-- The common fields with the extents of the tile rows and columns. -/
def AccCom (f : AccF) : VCom := { f.com with n := f.cols, r := f.rows, g := 1 }

/-- Operands of an accumulator operation. -/
def accOperands (f : AccF) (read : Bool) : List VOperand :=
  let ok : Fmt → Bool :=
    if f.form = .raw then isFp32Format
    else if read then anyFormat
    else if f.mode = .i then isInt32Format else isWideFormat
  let o (d : VDesc) : VOperand := ⟨d, ok, f.cols, f.rows, read⟩
  if f.form = .raw then [o f.op1, o f.op2] else [o f.op1]

/-- Whether ACC_WR writes all 128 x 128 elements. -/
def accWhole (oc : Sram) (f : AccF) : Bool :=
  decide (f.rows = 128 ∧ f.cols = 128) &&
  (f.com.mask.isNone || f.com.maskMode == .zero ||
    (List.range 128).all (fun i => (List.range 128).all (fun j => (maskBit oc f.com i j).1)))

/-- Checks 1 to 6 of an accumulator operation. -/
def accCheck (s : State) (c : Nat) (f : AccF) (read : Bool) : Option Status :=
  let u := s.core c
  firstFail (vecCheck s c (AccCom f) (accOperands f read) (f.rows * f.cols)
      (!decide (1 ≤ f.rows ∧ f.rows ≤ 128 ∧ 1 ≤ f.cols ∧ f.cols ≤ 128)) false ++
    [(!tileOk f.tile f.mode, vecStatus 5),
     (f.mode == .unlisted || f.form == .unlisted || (f.form == .raw && f.mode != .c) ||
       !(u.modeIs f.tile f.mode || (!read && accWhole u.oc f)), vecStatus 6)])

/-- ACC_RD's effect. -/
def accRdEffect (c : Nat) (f : AccF) (e : OpEnv) (s0 : State) : State × Outc :=
  let m := AccCom f
  let dsts := if f.form = .raw then [f.op1, f.op2] else [f.op1]
  let s := (s0.vecSettle c m dsts [] (fun _ => [])).accSettle c f.tile f.mode (tileWords f.rows f.cols)
  let u := s.core c
  let poison := u.tilePoison f.tile f.mode
  let lane (x : FVal) : LaneRes :=
    { out := .val x, poison := poison,
      flags := flagIf poison fPoison ||| flagIf x.isNan fInvalid ||| flagIf x.isInf fInf }
  let bits (w : Word32) : LaneRes := { lane (ofFp32 w) with out := .raw w.toNat }
  let v0 : VRun := { mem := (s.vmem c).latch dsts }
  let v :=
    if f.form = .raw then
      -- row by row, s and then h (R121)
      (List.range m.r).foldl (fun v i =>
        bandRows { m with flagDest := none } (vecEnv m e) f.op2 1 i (fun _ i j => bits (u.accElem f.tile f.mode i j).2)
          (bandRows m (vecEnv m e) f.op1 1 i (fun _ i j => bits (u.accElem f.tile f.mode i j).1) v)) v0
    else elemRows m (vecEnv m e) f.op1 (fun _ i j => lane (accValue f.mode (u.accElem f.tile f.mode i j))) v0
  (s.vecFinish c v, .done)

def execAccRd (c : CoreId) (f : AccF) (s : State) : Host.Outcome State Fault Refusal :=
  .next (s.runOp c (.vec (.accRd f)) (accCheck s c f true) (accRdEffect c f))

/-- ACC_WR's effect. -/
def accWrEffect (c : Nat) (f : AccF) (e : OpEnv) (s0 : State) : State × Outc :=
  let m := AccCom f
  let srcs := if f.form = .raw then [f.op1, f.op2] else [f.op1]
  let s1 := s0.vecSettle c m srcs [] (laneReads m srcs)
  let mem := (s1.vmem c).latch srcs
  let q := vecIn m e
  let whole := accWhole mem.oc f
  let written (i j : Nat) : Bool :=
    decide (i < f.rows ∧ j < f.cols) && ((maskBit mem.oc m i j).1 || m.maskMode == .zero)
  let s := if whole then s1 else s1.accSettle c f.tile f.mode (fun w =>
    written (w / 64) (w % 64 * 2) != written (w / 64) (w % 64 * 2 + 1))
  let u := s.core c
  let old := u.tilePoison f.tile f.mode
  let start := if whole then u.setMode f.tile f.mode else u
  let isInt := f.mode = .i
  let cells := (List.range f.rows).flatMap (fun i => (List.range f.cols).map (fun j => (i, j)))
  let word (l : LaneIn) : Word32 := if isInt then l.int else toFp32 l.fp
  let r := cells.foldl (fun (a : Core × Bool × VRun) p =>
    let mb := maskBit mem.oc m p.1 p.2
    let n := p.1 * f.cols + p.2
    if mb.1 then
      let l := f.op1.read mem q isInt f.cols p.1 p.2
      let h := if f.form = .raw then f.op2.read mem q false f.cols p.1 p.2 else { x := FVal.zero }
      let bad := l.poison || h.poison || mb.2
      (a.1.setAccElem f.tile f.mode p.1 p.2 (word l, toFp32 h.fp), a.2.1 || bad,
       a.2.2.flagBytes m.flagDest [(n, (if isInt then 0 else srcFlags [l, h]) ||| flagIf bad fPoison |||
         flagIf (!isInt && (l.fp.isNan || h.fp.isNan)) fInvalid)])
    else
      (if m.maskMode = .zero then a.1.setAccElem f.tile f.mode p.1 p.2 (0, 0) else a.1, a.2.1 || mb.2,
       a.2.2.flagBytes m.flagDest [(n, flagIf mb.2 fPoison)])) (start, false, { mem := mem })
  let v := r.1.setPoison f.tile f.mode (r.2.1 || (!whole && old))
  ((s.setCore c v).vecFinish c r.2.2, .done)

def execAccWr (c : CoreId) (f : AccF) (s : State) : Host.Outcome State Fault Refusal :=
  .next (s.runOp c (.vec (.accWr f)) (accCheck s c f false) (accWrEffect c f))

/-! ### GRAD_QUANT (R289) -/

/-- MS8-E5M2 and MS8-E4M3. -/
def isGradFormat (f : Fmt) : Bool := f == ⟨8, .flt e5m2, .ms⟩ || f == ⟨8, .flt e4m3, .ms⟩

/-- The destination as GRAD_QUANT writes it: its scales come from x (R37). -/
def gradDst (f : GradQuantF) : VDesc := { f.dst with supplied := .absent }

def gradCheck (s : State) (c : Nat) (f : GradQuantF) : Option Status :=
  let m := f.com
  let u := s.core c
  let src : List VOperand := match f.tile with
    | some _ => []
    | none => [⟨f.a, isFp32Format, m.n, m.r, false⟩]
  firstFail (vecCheck s c m (src ++ [⟨f.err, isBf16Format, m.n, m.r, true⟩, ⟨gradDst f, isGradFormat, m.n, m.r, true⟩])
      (m.n * m.r)
      (m.round == .towardZero || (match f.glint with | none => false | some g => !decide (g < 16)) ||
        (f.tile.isSome && !decide (m.n ≤ 128 ∧ m.r ≤ 128))) false ++
    (match f.tile with
      | none => []
      | some t => [(!tileOk t.1 t.2, vecStatus 5), (t.2 == .unlisted || !u.modeIs t.1 t.2, vecStatus 6)]))

/-- x := a + e of an element, whether poison reached it, and the flags of its reads. -/
def gradX (c : Nat) (f : GradQuantF) (s : State) (q : VIn) (mem : VMem) (i j : Nat) : FVal × Bool × Nat :=
  let u := s.core c
  let er := f.err.read mem q false f.com.n i j
  match f.tile with
  | some t =>
    let p := u.tilePoison t.1 t.2 || er.poison
    ((accValue t.2 (u.accElem t.1 t.2 i j)).add er.x, p, flagIf p fPoison)
  | none =>
    let a := f.a.read mem q false f.com.n i j
    (a.x.add er.x, a.poison || er.poison, flagIf (a.poison || er.poison) fPoison)

/-- The error terms of a band of rows from i0: for each unmasked element bf16's exact input, +0 in a non-finite block. -/
def gradErrors (f : GradQuantF) (env : OutEnv) (i0 rows : Nat) (x : Nat → Nat → Option FVal) : List ((Nat × Nat) × FVal) × Bool :=
  let d := gradDst f
  let fm := d.fmtD
  (List.range (ceilDiv f.com.n 32)).foldl (fun acc g =>
    let cells := ((List.range rows).flatMap (fun u => (List.range 32).map (fun w => (i0 + u, 32 * g + w)))).filterMap
      (fun p => if p.2 < f.com.n then (x p.1 p.2).map (fun v => (p, v)) else none)
    if cells.isEmpty then acc
    else
      let q := quantGroup fm [] none env.mode true (cells.map (fun z => ⟨z.2, env.word d z.1.1 z.1.2⟩))
      (acc.1 ++ (cells.zip q.2).map (fun z =>
         (z.1.1, if q.1 = 0xFF#8 then FVal.zero else z.1.2.sub (fm.decode [] (some q.1) z.2.1))),
       acc.2 || q.1 == 0xFF#8)) ([], false)

/-- Where GRAD_QUANT rounds stochastically its random words are those of component 4 of a shard, the gradient (R285). -/
def gradEnv (m : VCom) (e : OpEnv) : OutEnv := { vecEnv m e with index := fun i j => (vecEnv m e).index i j + 4 * 2 ^ 44 }

/-- GRAD_QUANT's effect, a band of 32 rows at a time. -/
def gradEffect (c : Nat) (f : GradQuantF) (e : OpEnv) (s0 : State) : State × Outc :=
  let m := f.com
  let srcs := f.err :: (match f.tile with | some _ => [] | none => [f.a])
  let s1 := s0.vecSettle c m srcs [] (laneReads m srcs)
  let s := match f.tile with
    | some t => s1.accSettle c t.1 t.2 (tileWords m.r m.n)
    | none => s1
  let q := vecIn m e
  let env := gradEnv m e
  let r := (List.range (ceilDiv m.r 32)).foldl (fun (a : VRun × Bool × List FVal) b =>
    let i0 := 32 * b
    let rows := min 32 (m.r - i0)
    let mem := a.1.mem
    let x (i j : Nat) : Option FVal := if (maskBit mem.oc m i j).1 then some (gradX c f s q mem i j).1 else none
    let lanes (g : Nat → Nat → FVal) (own : Bool) : List (List LaneRes) :=
      (List.range rows).map (fun ii => (List.range m.n).map (fun j =>
        let z := gradX c f s q mem (i0 + ii) j
        laneUnder m (maskBit mem.oc m (i0 + ii) j)
          { out := .val (g (i0 + ii) j), poison := z.2.1, flags := if own then z.2.2 else 0 }))
    let er := gradErrors f env i0 rows x
    let g := emitRows mem env (gradDst f) m.n m.r i0 (lanes (fun i j => (x i j).getD FVal.zero) true)
    let ev := emitRows mem { env with mode := .nearestEven, sat := none } f.err m.n m.r i0
      (lanes (fun i j => ((er.1.find? (fun z => z.1 = (i, j))).map (·.2)).getD FVal.zero) false)
    (((a.1.emit (gradDst f) g).emit f.err ev).flagBytes m.flagDest (g.flags.map (fun z => (z.1.1 * m.n + z.1.2, z.2))),
     a.2.1 || er.2,
     a.2.2 ++ (List.range rows).flatMap (fun ii => (List.range m.n).filterMap (fun j => x (i0 + ii) j)))) ({ mem := s.vmem c }, false, [])
  let t := s.vecFinish c r.1
  let t := if r.2.1 then
      match t.ctxOfCore c with
      | some x => t.modCtx x (fun v => { v with nonfinite := true })
      | none => t
    else t
  (t.glintAdd (clusterOf c) f.glint r.2.2 0 0, .done)

def execGradQuant (c : CoreId) (f : GradQuantF) (s : State) : Host.Outcome State Fault Refusal :=
  .next (s.runOp c (.vec (.gradQuant f)) (gradCheck s c f) (gradEffect c f))

end Sys2Proof.Machine
end

