-- ==== Sys2Proof/Machine/Matrix.lean ====
section
/-! DEFINITION. The matrix engine (spec/04_matrix_engine.md, the orientations of chapter 6, the sparse operands, the
output compressor and the predictor of chapter 7): MMUL, MPRELOAD, MREAD, NPRED. -/

namespace Sys2Proof.Machine

/-! ### Rate classes (Table 4-3) -/

inductive RateClass | fp4 | fp6 | fp8 | w16 | int8 | int4
  deriving DecidableEq, Repr

/-- The class of a compute format. -/
def rateClass (code : Byte) : Option RateClass :=
  match code.toNat with
  | 0x0C | 0x14 => some .fp4
  | 0x0A | 0x0B | 0x12 | 0x13 => some .fp6
  | 0x04 | 0x05 | 0x08 | 0x09 | 0x10 | 0x11 | 0x0D => some .fp8
  | 0x02 | 0x03 | 0x18 | 0x19 => some .w16
  | 0x20 | 0x22 => some .int8
  | 0x21 => some .int4
  | _ => none

def RateClass.isInt : RateClass → Bool | .int8 | .int4 => true | _ => false

/-- FP32, BF16, FP16: the stored formats that the operand quantizer reads (R94). -/
def isWide (code : Byte) : Bool := code == 0x01#8 || code == 0x02#8 || code == 0x03#8

/-- Whether the operand quantizer runs on the operand. -/
def quantizes (d : MatDesc) : Bool := d.stored != d.compute

/-- A stored and compute pair that R94 allows. -/
def pairOk (d : MatDesc) : Bool :=
  d.stored == d.compute ||
  (isWide d.stored && d.compute != 0x0D#8 && match rateClass d.compute with
    | some .fp4 | some .fp6 | some .fp8 => true
    | _ => false)

/-! ### Checks (Table 4-4) -/

/-- Check 1 for one operand: compute format of Table 4-3, pair of R94, a supplied scale where R94 requires one. -/
def matBadFormat (d : MatDesc) : Bool :=
  (rateClass d.compute).isNone || (fmtOf d.stored).isNone || !pairOk d ||
  (d.cfmt.scale == .tensor && d.supplied == .absent)

/-- A format that a sparse form accepts (Table 7-2). -/
def sparseFormat (form : SpForm) (code : Byte) : Bool :=
  match (fmtOf code).map (·.scale), rateClass code with
  | some sc, some _ => sc != .lf && (form != .spT || sc != .mx)
  | _, _ => false

/-- The format rules of a sparse A (R170). -/
def sparseBadFormat (a : MatDesc) : Option SparseF → Bool
  | none => false
  | some f => quantizes a || !sparseFormat f.form a.compute

/-- Rows of the stored tensor of an operand with L lines (rows of A, columns of B) and reduction length k. -/
def MatDims (d : MatDesc) (L k : Nat) : Nat × Nat := if isAcross d.orient then (k, L) else (L, k)

/-- Bytes of a row of c elements of a format. -/
def rowBytesOf (f : Fmt) (c : Nat) : Nat :=
  match f.scale with
  | .mx | .lf => ceilDiv c 32 * (4 * f.bits)
  | .ms => ceilDiv c 32 * blockBytes f.bits
  | _ => ceilDiv (c * f.bits) 8

/-- First byte past the region of a stored tensor of R rows and C columns. -/
def matEnd (d : MatDesc) (R C : Nat) : Nat :=
  let f := d.sfmt
  if isMirror d.orient then
    d.offset + (ceilDiv R 128 - 1) * d.pitch + ceilDiv C 128 * d.T
  else if f.scale = .ms then d.offset + (ceilDiv R 32 - 1) * d.pitch + rowBytesOf f C
  else if d.down then d.offset + (ceilDiv R 32 - 1) * d.pitch + C * (4 * f.bits)
  else d.offset + (R - 1) * d.pitch + rowBytesOf f C

/-- First byte past the scales that are read of a stored tensor; 0 where it has none. -/
def scaleEnd (d : MatDesc) (T R C : Nat) : Nat :=
  let f := d.sfmt
  if f.scale = .none ∨ f.scale = .tensor ∨ quantizes d ∨ d.supplied ≠ .absent then 0
  else if isMirror d.orient then d.scaleOff + 16 * ((ceilDiv R 128 - 1) * (d.pitch / T) + ceilDiv C 128)
  else d.scaleOff + d.scaleNum T C (R - 1) (C - 1) + 1

/-- The location of a supplied scale lies outside a memory of `size` bytes. -/
def locationBad (size : Nat) : Supplied → Bool
  | .location off => !decide (off < size)
  | _ => false

/-- Check 5 for one dense operand (R95, R97, R143, R145, R149). -/
def matBadOperand (d : MatDesc) (L k : Nat) : Bool :=
  let p := MatDims d L k
  let f := d.sfmt
  let mxlf (c : Fmt) : Bool := c.scale == .mx || c.scale == .lf
  let mx (c : Fmt) : Bool := c.scale == .mx
  d.offset % 64 != 0 || d.pitch % 64 != 0 ||
  (isMirror d.orient && (d.offset % 4096 != 0 || d.pitch % d.T != 0)) ||
  ((mxlf d.cfmt || mxlf f) && d.orient != .rowAlong) || ((mx d.cfmt || mx f) && d.axis != .alongK) ||
  decide (ocSize < matEnd d p.1 p.2) || decide (ocSize < scaleEnd d d.T p.1 p.2) || locationBad ocSize d.supplied

/-- Check 5 for the sparse fields of A (R167 to R170). -/
def sparseBadOperand (a : MatDesc) (m k : Nat) : Option SparseF → Bool
  | none => matBadOperand a m k
  | some f =>
    match f.form with
    | .spRow =>
      a.orient != .rowAlong || a.offset % 64 != 0 || a.pitch % 64 != 0 || f.metaOff % 64 != 0 || f.metaPitch % 64 != 0 ||
      decide (f.metaPitch < ceilDiv k 8) || (a.cfmt.scale == .mx && a.axis != .alongK) ||
      decide (ocSize < a.offset + (m - 1) * a.pitch + ceilDiv (ceilDiv k 4 * 2 * a.sfmt.bits) 8) ||
      decide (ocSize < f.metaOff + (m - 1) * f.metaPitch + ceilDiv k 8) ||
      decide (ocSize < scaleEnd a a.T m k) || locationBad ocSize a.supplied
    | .spT =>
      let p := MatDims a m k
      let T := a.sparseT
      !isMirror a.orient || a.offset % 4096 != 0 || a.pitch % T != 0 || f.metaOff % 64 != 0 || f.metaPitch % 2048 != 0 ||
      decide (ocSize < a.offset + (ceilDiv p.1 128 - 1) * a.pitch + ceilDiv p.2 128 * T) ||
      decide (ocSize < f.metaOff + (ceilDiv p.1 128 - 1) * f.metaPitch + ceilDiv p.2 128 * 2048) ||
      decide (ocSize < scaleEnd a T p.1 p.2) || locationBad ocSize a.supplied
    | _ => matBadOperand a m k

/-- Rounding mode, orientation and sparse fields hold listed values (check 4). -/
def roundListed (r : Round) : Bool := r != .unlisted
def orientListed (o : Orient) : Bool := o != .unlisted
def sparseListed : Option SparseF → Bool
  | none => true
  | some f => f.form != .unlisted && f.policy != .unlisted

/-- A Glint slot is 0 to 15 or none (check 6). -/
def glintOk : Option Nat → Bool
  | none => true
  | some i => decide (i < 16)

/-- Tile modes that a class allows (Table 4-3). -/
def modeFor (isInt : Bool) (m : TileMode) : Bool := if isInt then m == .i else m == .c || m == .u

/-- The codebook parts of check 1 for one operand. -/
def matBookOutside (d : MatDesc) : Bool := !bookInside d.sfmt d.codebook
def matBookBad (oc : Sram) (d : MatDesc) : Bool := !bookValid oc d.sfmt d.codebook

/-- The checks of MMUL, in the order of Table 4-4. -/
def mmulCheck (s : State) (c : Nat) (f : MmulF) : Option Status :=
  let u := s.core c
  let isInt (d : MatDesc) : Bool := ((rateClass d.compute).map RateClass.isInt).getD false
  firstFail [
    (matBadFormat f.a || matBadFormat f.b || (isInt f.a != isInt f.b) || sparseBadFormat f.a f.sparseA, mtxStatus 1),
    (matBookOutside f.a || matBookOutside f.b, mtxStatus 5),
    (matBookBad u.oc f.a || matBookBad u.oc f.b, genCodebook),
    (!tileOk f.tile f.mode, mtxStatus 2),
    (!modeFor (isInt f.a) f.mode || (f.accumulate && !u.modeIs f.tile f.mode), mtxStatus 3),
    (!decide (1 ≤ f.m ∧ f.m ≤ 128 ∧ 1 ≤ f.n ∧ f.n ≤ 128 ∧ 1 ≤ f.k ∧ f.k ≤ 16384) || !roundListed f.round ||
      !orientListed f.a.orient || !orientListed f.b.orient || !sparseListed f.sparseA, mtxStatus 4),
    (sparseBadOperand f.a f.m f.k f.sparseA || matBadOperand f.b f.n f.k, mtxStatus 5),
    (!glintOk f.glint, mtxStatus 4)]

/-! ### Operand values -/

/-- One operand element as the array sees it: its decoded value and what the quantizer met. -/
structure OpElem where
  x : FVal
  flags : CFlags := {}

/-- Stored element (r, c) of an operand, decoded without quantizing, and its scale. -/
def storedElem (oc : Sram) (d : MatDesc) (cols r c : Nat) : FVal :=
  let f := d.sfmt
  let p := d.place r c
  let sc : Option Byte :=
    if f.scale = .none ∨ quantizes d then none
    else match suppliedScale oc d.supplied with
      | some x => some x
      | none => some (oc.byte (d.scaleOff + d.scaleNum d.T cols r c))
  f.decode (readBook oc f d.codebook) sc (readElem oc.byte p.1 f.bits p.2)

/-- Rounding environment of the quantizer. -/
structure QEnv where
  mode : Round
  seed : Word64
  stepNo : Word32

/-- The random word of stored element (r, c): its index is formed with the tensor's row length (R46). -/
def matWord (e : QEnv) (d : MatDesc) (r c : Nat) : Word32 := srWord e.seed e.stepNo d.tensorId (d.origin + r * d.rowLen + c)

/-- The elements of the group or block of (r, c) that lie in a tensor of R rows and C columns. -/
def groupCells (f : Fmt) (R C r c : Nat) : List (Nat × Nat) :=
  (if f.scale = .ms then
      (List.range 32).flatMap (fun u => (List.range 32).map (fun v => (r / 32 * 32 + u, c / 32 * 32 + v)))
    else (List.range 32).map (fun v => (r, c / 32 * 32 + v))).filter (fun p => p.1 < R ∧ p.2 < C)

/-- The quantized element (r, c) of a wide operand (R94): saturate is always on. -/
def quantElem (oc : Sram) (e : QEnv) (d : MatDesc) (sup : Option Byte) (R C r c : Nat) : OpElem :=
  let f := d.cfmt
  if f.scale = .mx ∨ f.scale = .ms then
    let cells := groupCells f R C r c
    let q := quantGroup f [] sup e.mode true (cells.map (fun p => ⟨storedElem oc d C p.1 p.2, matWord e d p.1 p.2⟩))
    match (cells.zip q.2).find? (fun z => z.1 = (r, c)) with
    | some z => ⟨f.decode [] (some q.1) z.2.1, z.2.2⟩
    | none => ⟨FVal.zero, {}⟩
  else
    let q := f.encode [] sup e.mode true (matWord e d r c) (storedElem oc d C r c)
    ⟨f.decode [] sup q.1, q.2.1⟩

/-- Element of line l (row of A, column of B) at reduction index kk, pad elements +0. -/
def opElem (oc : Sram) (e : QEnv) (d : MatDesc) (sup : Option Byte) (L k l kk : Nat) : OpElem :=
  if l < L ∧ kk < k then
    let p := MatDims d L k
    let rc := if isAcross d.orient then (kk, l) else (l, kk)
    if quantizes d then quantElem oc e d sup p.1 p.2 rc.1 rc.2 else ⟨storedElem oc d p.2 rc.1 rc.2, {}⟩
  else ⟨FVal.zero, {}⟩

/-! ### Sparse operands (R166 to R173) -/

/-- Number of set bits of the low n bits. -/
def popCount (v n : Nat) : Nat := ((List.range n).filter (bitOf v)).length

/-- Metadata nibble of group g of row r in SP_ROW (R168). -/
def spRowMask (oc : Sram) (f : SparseF) (r g : Nat) : Nat :=
  let b := (oc.byte (f.metaOff + r * f.metaPitch + g / 2)).toNat
  if g % 2 = 0 then b % 16 else b / 16

/-- Metadata of the sub-block that holds stored element (r, c) in SP_T (R169). -/
def spTMask (oc : Sram) (f : SparseF) (r c : Nat) : Nat :=
  let a := f.metaOff + r / 128 * f.metaPitch + c / 128 * 2048 + mirrorSlot (r / 32 % 4) (c / 32 % 4) * 128 +
    2 * (8 * (r % 32 / 4) + c % 32 / 4)
  leNat (oc.read a 2)

/-- Two set bits in every row and every column of a 4 x 4 mask. -/
def maskTOk (m : Nat) : Bool :=
  (List.range 4).all (fun a => popCount (m / 16 ^ a) 4 = 2) &&
  (List.range 4).all (fun b => ((List.range 4).filter (fun a => bitOf m (4 * a + b))).length = 2)

/-- The decoded element of a compressed A at stored position (r, c), +0 where it is not kept. -/
def sparseElem (oc : Sram) (d : MatDesc) (f : SparseF) (cols r c : Nat) : FVal :=
  let fm := d.sfmt
  let sc : Option Byte := if fm.scale = .none then none else match suppliedScale oc d.supplied with
    | some x => some x
    | none => some (oc.byte (d.scaleOff + d.scaleNum (if f.form = .spT then d.sparseT else d.T) cols r c))
  match f.form with
  | .spRow =>
    let m := spRowMask oc f r (c / 4)
    if bitOf m (c % 4) then
      fm.decode [] sc (readElem oc.byte (d.offset + r * d.pitch) fm.bits (2 * (c / 4) + popCount m (c % 4)))
    else FVal.zero
  | _ =>
    let m := spTMask oc f r c
    let bit := 4 * (r % 4) + c % 4
    if bitOf m bit then
      let base := d.offset + r / 128 * d.pitch + c / 128 * (8 * blockBytes fm.bits) +
        mirrorSlot (r / 32 % 4) (c / 32 % 4) * (blockBytes fm.bits / 2)
      fm.decode [] sc (readElem oc.byte base fm.bits (8 * (8 * (r % 32 / 4) + c % 32 / 4) + popCount m bit))
    else FVal.zero

/-- Rank of a value in a DENSE_24 group: NaN above every number, else by magnitude, infinities above finite values. -/
def magLt (x y : FVal) : Bool :=
  match x, y with
  | .nan _, _ => false
  | _, .nan _ => true
  | .inf _, _ => false
  | _, .inf _ => true
  | .fin _ p, .fin _ q => p < q

/-- The k positions of largest magnitude of a list, ties to the lower index, in ascending order. -/
def topMags (k : Nat) (xs : List FVal) : List Nat :=
  let beaten (i : Nat) : Nat := ((List.range xs.length).filter (fun j =>
    magLt (xs.getD i FVal.zero) (xs.getD j FVal.zero) ||
    (!magLt (xs.getD j FVal.zero) (xs.getD i FVal.zero) && decide (j < i)))).length
  (List.range xs.length).filter (fun i => beaten i < k)

/-- Whether a value counts as a non-zero of a group (R171). -/
def isNonZero (x : FVal) : Bool := !x.isZero

/-- One group of a DENSE_24 operand: kept positions, and whether it violates the declaration. -/
def dense24 (xs : List FVal) : List Nat × Bool :=
  if 2 < (xs.filter isNonZero).length then (topMags 2 xs, true)
  else ((List.range xs.length).filter (fun i => isNonZero (xs.getD i FVal.zero)), false)

/-- Element of A as the array sees it, dense or sparse. -/
def elemA (oc : Sram) (e : QEnv) (f : MmulF) (sup : Option Byte) (l kk : Nat) : OpElem :=
  match f.sparseA with
  | none => opElem oc e f.a sup f.m f.k l kk
  | some sp =>
    if l < f.m ∧ kk < f.k then
      let p := MatDims f.a f.m f.k
      let rc := if isAcross f.a.orient then (kk, l) else (l, kk)
      match sp.form with
      | .spRow | .spT => ⟨sparseElem oc f.a sp p.2 rc.1 rc.2, {}⟩
      | _ =>
        let xs := (List.range 4).map (fun i => (opElem oc e f.a sup f.m f.k l (kk / 4 * 4 + i)).x)
        if (dense24 xs).1.contains (kk % 4) then ⟨xs.getD (kk % 4) FVal.zero, {}⟩ else ⟨FVal.zero, {}⟩
    else ⟨FVal.zero, {}⟩

/-- The first fault of a sparse A (R171, R172): cause, K-block, row. -/
def sparseFault (oc : Sram) (e : QEnv) (f : MmulF) (sup : Option Byte) : Option (BitVec 16 × Nat × Nat) :=
  match f.sparseA with
  | none => none
  | some sp =>
    let cells := (List.range (ceilDiv f.k 4)).flatMap (fun g => (List.range f.m).map (fun l => (g, l)))
    match sp.form with
    | .spRow => (cells.find? (fun p => popCount (spRowMask oc sp p.2 p.1) 4 ≠ 2)).map (fun p => (0x200B#16, p.1 / 8, p.2))
    | .spT =>
      (cells.find? (fun p =>
        let rc := if isAcross f.a.orient then (4 * p.1, p.2) else (p.2, 4 * p.1)
        !maskTOk (spTMask oc sp rc.1 rc.2))).map (fun p => (0x200B#16, p.1 / 8, p.2))
    | _ =>
      if sp.policy = .fault then
        (cells.find? (fun p =>
          (dense24 ((List.range 4).map (fun i => (opElem oc e f.a sup f.m f.k p.2 (4 * p.1 + i)).x))).2)).map
          (fun p => (0x200A#16, p.1 / 8, p.2))
      else none

/-- DENSE_24 groups that PRUNE prunes (R171). -/
def prunedGroups (oc : Sram) (e : QEnv) (f : MmulF) (sup : Option Byte) : Nat :=
  match f.sparseA with
  | some sp =>
    if sp.form = .dense24 ∧ sp.policy = .prune then
      (((List.range (ceilDiv f.k 4)).flatMap (fun g => (List.range f.m).map (fun l => (g, l)))).filter (fun p =>
        (dense24 ((List.range 4).map (fun i => (opElem oc e f.a sup f.m f.k p.2 (4 * p.1 + i)).x))).2)).length
    else 0
  | none => 0

/-! ### Block values (R98 to R101) -/

/-- The block value of 32 products and its flags; `wide` selects the window of R99. -/
def blockValue (wide : Bool) (ps : List FVal) : FVal × SumFlags :=
  let posInf := ps.any (fun p => p.isInf && !p.neg)
  let negInf := ps.any (fun p => p.isInf && p.neg)
  if ps.any FVal.isNan || (posInf && negInf) then (.nan false, { invalid := true })
  else if posInf then (.inf false, { inf := true })
  else if negInf then (.inf true, { inf := true })
  else if wide then
    let top := ps.foldl (fun m p => max m p.mag) 0
    if top = 0 then (FVal.zero, {})
    else
      let q := pow2 (floorLog2 top - 42)
      (FVal.ofRat false (ps.foldl (fun acc p =>
        let m := (floorNat (p.mag / q) : Rat) * q
        acc + (if p.neg then -m else m)) 0), {})
  else (FVal.ofRat false (ps.foldl (fun acc p => acc + p.rat) 0), {})

/-- The sum of one element over the K-blocks, in ascending K order (R102). -/
def sumElement (mode : TileMode) (wide : Bool) (k : Nat) (prod : Nat → FVal) (start : Word32 × Word32) :
    (Word32 × Word32) × SumFlags :=
  (List.range (ceilDiv k 32)).foldl (fun acc kb =>
    let ps := (List.range 32).map (fun t => if 32 * kb + t < k then prod (32 * kb + t) else FVal.zero)
    if mode = .i then
      let r := accStepInt acc.1.1 (ps.foldl (fun (z : Rat) (p : FVal) => z + p.rat) (0 : Rat)).floor
      ((r.1, 0), acc.2.or r.2)
    else
      let b := blockValue wide ps
      let r := accStep (mode == .c) acc.1 b.1
      (r.1, (acc.2.or b.2).or r.2)) (start, {})

/-! ### Operand overflow and recompute (R110, R111) -/

/-- K-blocks in which the quantizer saturates an element of an operand with L lines. -/
def satBlocks (k L : Nat) (el : Nat → Nat → OpElem) : List Nat :=
  (List.range (ceilDiv k 32)).filter (fun kb =>
    (List.range L).any (fun l => (List.range 32).any (fun t => (el l (32 * kb + t)).flags.sat)))

/-- A scale code raised by 2; 254 is the largest code that stands for a scale. -/
def raise2 (x : Byte) : Byte := BitVec.ofNat 8 (min 254 (x.toNat + 2))

/-- Whether a retry can raise the code. -/
def canRaise : Option Byte → Bool
  | none => false
  | some x => decide (x.toNat < 254)

/-- The scales of the pass that completes the product, the retries performed, and whether it still saturates. Where both
operands saturate in the K-block that stops the product, one retry raises the codes of both (DEDUCED, log entry 94). -/
def recompute (k m n : Nat) (elA elB : Option Byte → Nat → Nat → OpElem) :
    Nat → Nat → Option Byte → Option Byte → Option Byte × Option Byte × Nat × Bool
  | 0, done, xa, xb =>
    (xa, xb, done, !(satBlocks k m (elA xa)).isEmpty || !(satBlocks k n (elB xb)).isEmpty)
  | fuel + 1, done, xa, xb =>
    let sa := satBlocks k m (elA xa)
    let sb := satBlocks k n (elB xb)
    let usable := (if canRaise xa then sa else []) ++ (if canRaise xb then sb else [])
    match usable.foldl (fun (o : Option Nat) b => some (match o with | none => b | some x => min x b)) none with
    | none => (xa, xb, done, !sa.isEmpty || !sb.isEmpty)
    | some kb =>
      recompute k m n elA elB fuel (done + 1)
        (if sa.contains kb && canRaise xa then xa.map raise2 else xa)
        (if sb.contains kb && canRaise xb then xb.map raise2 else xb)

/-! ### Poison of what a product reads -/

/-- Byte ranges of the scales of a stored tensor of R rows and C columns: its plane, or the location of a supplied one. -/
def scaleRanges (d : MatDesc) (T R C : Nat) : List (Nat × Nat) :=
  let sEnd := scaleEnd d T R C
  (if sEnd = 0 then [] else [(d.scaleOff, sEnd - d.scaleOff)]) ++
    (match d.supplied with | .location off => [(off, 1)] | _ => [])

/-- Byte ranges of an operand: rows, scale plane, codebook, location. -/
def MatRanges (d : MatDesc) (L k : Nat) : List (Nat × Nat) :=
  let p := MatDims d L k
  let f := d.sfmt
  let rows :=
    if isMirror d.orient then
      (List.range (ceilDiv p.1 128)).map (fun P => (d.offset + P * d.pitch, ceilDiv p.2 128 * d.T))
    else if f.scale = .ms then (List.range (ceilDiv p.1 32)).map (fun P => (d.offset + P * d.pitch, rowBytesOf f p.2))
    else if d.down then (List.range (ceilDiv p.1 32)).map (fun b => (d.offset + b * d.pitch, p.2 * (4 * f.bits)))
    else (List.range p.1).map (fun r => (d.offset + r * d.pitch, rowBytesOf f p.2))
  rows ++ scaleRanges d d.T p.1 p.2 ++
    (if f.scale = .lf then [(d.codebook, 2 * bookLen f)] else [])

/-- Byte ranges of A: a compressed A holds its stored elements and its metadata. -/
def rangesA (f : MmulF) : List (Nat × Nat) :=
  match f.sparseA with
  | none => MatRanges f.a f.m f.k
  | some sp =>
    let p := MatDims f.a f.m f.k
    match sp.form with
    | .spRow =>
      (List.range f.m).map (fun r => (f.a.offset + r * f.a.pitch, ceilDiv (ceilDiv f.k 4 * 2 * f.a.sfmt.bits) 8)) ++
      (List.range f.m).map (fun r => (sp.metaOff + r * sp.metaPitch, ceilDiv f.k 8)) ++ scaleRanges f.a f.a.T p.1 p.2
    | .spT =>
      (List.range (ceilDiv p.1 128)).flatMap (fun P =>
        [(f.a.offset + P * f.a.pitch, ceilDiv p.2 128 * (8 * blockBytes f.a.sfmt.bits)),
         (sp.metaOff + P * sp.metaPitch, ceilDiv p.2 128 * 2048)]) ++ scaleRanges f.a f.a.sparseT p.1 p.2
    | _ => MatRanges f.a f.m f.k

/-- Whether any range holds a poisoned line. -/
def anyPoison (m : Sram) (rs : List (Nat × Nat)) : Bool := rs.any (fun r => m.poisoned r.1 r.2)

/-! ### MMUL (R92) -/

/-- MTX_FLAGS bits of Table 4-7 raised. -/
def raiseMtx (w : Word32) (sum : SumFlags) (sat retry poison : Bool) : Word32 :=
  w ||| BitVec.ofNat 32 (flagIf sum.invalid 2 ||| flagIf sum.inf 4 ||| flagIf sat 8 ||| flagIf retry 16 |||
    flagIf sum.isat 32 ||| flagIf poison 64)

/-- What a product computes: its elements, its flags, its retries. -/
structure Product where
  elems : List ((Nat × Nat) × (Word32 × Word32))
  flags : SumFlags
  retries : Nat
  satAfter : Bool
  xa : Option Byte
  xb : Option Byte

/-- The product of MMUL fields over the operand cache, from the tile's starting content. -/
def product (oc : Sram) (e : QEnv) (f : MmulF) (start : Nat → Nat → Word32 × Word32) : Product :=
  let elA (x : Option Byte) := elemA oc e f x
  let elB (x : Option Byte) := opElem oc e f.b x f.n f.k
  let supOf (d : MatDesc) : Option Byte := if quantizes d then suppliedScale oc d.supplied else none
  let r := recompute f.k f.m f.n elA elB 3 0 (supOf f.a) (supOf f.b)
  let wide := rateClass f.a.compute = some .w16 || rateClass f.b.compute = some .w16
  let cells := (List.range f.m).flatMap (fun i => (List.range f.n).map (fun j => (i, j)))
  let out := cells.map (fun p =>
    (p, sumElement f.mode wide f.k (fun kk => (elA r.1 p.1 kk).x.mul (elB r.2.1 p.2 kk).x) (start p.1 p.2)))
  let qf (L : Nat) (el : Nat → Nat → OpElem) : SumFlags :=
    ((List.range L).flatMap (fun l => (List.range f.k).map (fun kk => (el l kk).flags))).foldl
      (fun (a : SumFlags) g => a.or { inf := g.inf, invalid := g.invalid }) {}
  { elems := out.map (fun z => (z.1, z.2.1))
    flags := (out.foldl (fun (a : SumFlags) z => a.or z.2.2) {}).or ((qf f.m (elA r.1)).or (qf f.n (elB r.2.1)))
    retries := r.2.2.1, satAfter := r.2.2.2, xa := r.1, xb := r.2.1 }

/-- Inputs of the operand quantizer, which tap 0 counts (R50, R112). -/
def quantInputs (oc : Sram) (d : MatDesc) (L k : Nat) : List FVal :=
  if quantizes d then
    let p := MatDims d L k
    (List.range p.1).flatMap (fun r => (List.range p.2).map (fun c => storedElem oc d p.2 r c))
  else []

/-- MMUL's effect: the tile, its mode and poison, flags and counters; a sparse fault leaves the tile as it was. -/
def mmulEffect (c : Nat) (f : MmulF) (env : OpEnv) (s0 : State) : State × Outc :=
  let s1 := s0.ocSettle c (rangesA f ++ MatRanges f.b f.n f.k)
  let s := if f.accumulate then s1.accSettle c f.tile f.mode (tileWords f.m f.n)
    else if (s1.core c).modeIs f.tile f.mode then s1.accSettle c f.tile f.mode (edgeWords f.m f.n) else s1
  let u := s.core c
  let e : QEnv := ⟨f.round, env.seed, env.stepNo⟩
  let sup : Option Byte := if quantizes f.a then suppliedScale u.oc f.a.supplied else none
  match sparseFault u.oc e f sup with
  | some z =>
    (s.coreFault c z.1 0 (leBytes 1 f.tile ++ leBytes 2 z.2.1 ++ (if z.1 = 0x200A#16 then leBytes 1 z.2.2 else [])), .faulted z.1)
  | none =>
    let same := u.modeIs f.tile f.mode
    let p := product u.oc e f (fun i j => if f.accumulate then u.accElem f.tile f.mode i j else (0, 0))
    let dirty := anyPoison u.oc (rangesA f ++ MatRanges f.b f.n f.k)
    let whole := !f.accumulate && (!same || (f.m == 128 && f.n == 128))
    let poison := dirty || (!whole && u.tilePoison f.tile f.mode)
    let v := if f.accumulate then u else u.setMode f.tile f.mode
    let v := p.elems.foldl (fun v z => v.setAccElem f.tile f.mode z.1.1 z.1.2 z.2) v
    let v := v.setPoison f.tile f.mode poison
    let v := { v with
      mtxFlags := raiseMtx v.mtxFlags p.flags p.satAfter (p.retries != 0) false
      mtxQuant := bumpFld (bumpFld v.mtxQuant 31 0 p.retries) 63 32 (if p.satAfter then 1 else 0)
      sprStat := if f.sparseA.isSome then
          bumpFld (bumpFld v.sprStat 63 32 1) 31 0 (prunedGroups u.oc e f p.xa) else v.sprStat }
    ((s.setCore c v).glintAdd (clusterOf c) f.glint (quantInputs u.oc f.a f.m f.k ++ quantInputs u.oc f.b f.n f.k)
      p.retries (if p.satAfter then 1 else 0), .done)

def execMmul (c : CoreId) (f : MmulF) (s : State) : Host.Outcome State Fault Refusal :=
  .next (s.runOp c (.mat (.mmul f)) (mmulCheck s c f) (mmulEffect c f))

/-! ### MPRELOAD (R105) -/

/-- Bytes of the source of a preload. -/
def preloadBytes (f : MpreloadF) (bits : Nat) : Nat :=
  match f.kind with
  | .biasRow | .biasCol => 128 * bits / 8
  | .tile => 127 * f.pitch + 128 * bits / 8
  | _ => 0

/-- Byte ranges of the source of a preload. -/
def preloadRanges (f : MpreloadF) (bits : Nat) : List (Nat × Nat) :=
  match f.kind with
  | .biasRow | .biasCol => [(f.src.addr, 128 * bits / 8)]
  | .tile => (List.range 128).map (fun i => (f.src.addr + i * f.pitch, 128 * bits / 8))
  | _ => []

/-- FP32 and BF16 are the source formats of Table 4-5. R105 says how FP16 widens too, and no row of the table has it: an FP16
source is refused (DESIGN CHOICE, log entry 94). -/
def preloadFormat (b : Byte) : Bool := b == 0x01#8 || b == 0x02#8

def mpreloadCheck (s : State) (c : Nat) (f : MpreloadF) : Option Status :=
  let bits := ((fmtOf f.format).map (·.bits)).getD 32
  let inside : Bool := match f.src.kind with
    | .oc => decide (f.src.addr + preloadBytes f bits ≤ ocSize)
    | .cm => decide (f.src.addr + preloadBytes f bits ≤ s.cmLimit (clusterOf c))
    | _ => false
  firstFail [
    (f.kind != .zero && f.kind != .unlisted && !preloadFormat f.format, mtxStatus 1),
    (!tileOk f.tile f.mode, mtxStatus 2),
    (!(f.mode == .c || f.mode == .u), mtxStatus 3),
    (f.kind == .unlisted, mtxStatus 5),
    (f.kind != .zero && (!inside || f.src.addr % 64 != 0 || (f.kind == .tile && f.pitch % 64 != 0)), mtxStatus 5)]

/-- Byte offset of the source value of element (i, j). -/
def preloadAt (f : MpreloadF) (bits i j : Nat) : Nat :=
  match f.kind with
  | .biasRow => f.src.addr + j * bits / 8
  | .biasCol => f.src.addr + i * bits / 8
  | _ => f.src.addr + i * f.pitch + j * bits / 8

/-- MPRELOAD's effect: s of every element from the source, h +0, poison as the source's (R105). -/
def mpreloadEffect (c : Nat) (f : MpreloadF) (_ : OpEnv) (s0 : State) : State × Outc :=
  let fm := (fmtOf f.format).getD ⟨32, .flt fp32, .none⟩
  let rs := preloadRanges f fm.bits
  let k := clusterOf c
  let s := if f.src.kind = .cm then s0.cmSettle k rs else s0.ocSettle c rs
  let mem := if f.src.kind = .cm then (s.cluster k).cm else (s.core c).oc
  let val (i j : Nat) : Word32 :=
    if f.kind = .zero then 0
    else toFp32 (fm.decode [] none (readElem mem.byte (preloadAt f fm.bits i j) fm.bits 0))
  let v := (s.core c).setMode f.tile f.mode
  let cells := (List.range 128).flatMap (fun i => (List.range 128).map (fun j => (i, j)))
  let v := cells.foldl (fun v p => v.setAccElem f.tile f.mode p.1 p.2 (val p.1 p.2, 0)) v
  (s.setCore c (v.setPoison f.tile f.mode (anyPoison mem rs)), .done)

def execMpreload (c : CoreId) (f : MpreloadF) (s : State) : Host.Outcome State Fault Refusal :=
  .next (s.runOp c (.mat (.mpreload f)) (mpreloadCheck s c f) (mpreloadEffect c f))

/-! ### MREAD (R106 to R109, R150, R176 to R180) -/

def MreadFmt (f : MreadF) : Fmt := (fmtOf f.format).getD ⟨32, .flt fp32, .none⟩

/-- Rows and columns of the output as written. -/
def MreadDims (f : MreadF) : Nat × Nat := if f.transpose then (f.n, f.m) else (f.m, f.n)

/-- Whether the output lies in mirror layout: the form that a compressed output is written in decides (R169, R176; DEDUCED,
log entry 70). -/
def mreadMirrored (f : MreadF) : Bool := f.compress == .t || (f.compress == .none && f.mirror)

/-- Whether the output is grouped down its columns (R35). -/
def mreadDown (f : MreadF) : Bool := (MreadFmt f).scale == .mx && f.axis == .acrossK

/-- Rows and columns that are written: compress T writes the whole super-tile, of which what lies outside the output is pad
(R180, R38). -/
def mreadWritten (f : MreadF) : Nat × Nat := if f.compress = .t then (128, 128) else MreadDims f

/-- Where output element (r, c) lies: base byte and element number. -/
def mreadPlace (f : MreadF) (r c : Nat) : Nat × Nat :=
  let fm := MreadFmt f
  if mreadMirrored f then (f.out.addr + mirrorBlock fm.bits 0 r c, 32 * (r % 32) + c % 32)
  else if fm.scale = .ms then (f.out.addr + r / 32 * f.pitch + c / 32 * blockBytes fm.bits, 32 * (r % 32) + c % 32)
  else if mreadDown f then (f.out.addr + (downPlace fm.bits f.pitch r c).1, (downPlace fm.bits f.pitch r c).2)
  else (f.out.addr + r * f.pitch, c)

/-- Number in the scale plane of the scale of output element (r, c). -/
def mreadScaleNum (f : MreadF) (r c : Nat) : Nat :=
  let fm := MreadFmt f
  if mreadMirrored f then mirrorScale 1 r c
  else if mreadDown f then downScale (MreadDims f).2 r c
  else (if fm.scale = .ms then r / 32 else r) * ceilDiv (MreadDims f).2 32 + c / 32

/-- First bytes past the output, its scales and its metadata. -/
def mreadEnds (f : MreadF) : Nat × Nat × Nat :=
  let fm := MreadFmt f
  let p := MreadDims f
  let w := mreadWritten f
  let data :=
    if f.compress = .t then f.out.addr + 8 * blockBytes fm.bits
    else if f.compress = .row then f.out.addr + (p.1 - 1) * f.pitch + ceilDiv (ceilDiv p.2 4 * 2 * fm.bits) 8
    else if f.mirror then f.out.addr + 16 * blockBytes fm.bits
    else if mreadDown f then f.out.addr + (ceilDiv p.1 32 - 1) * f.pitch + p.2 * (4 * fm.bits)
    else if fm.scale = .ms then f.out.addr + (ceilDiv p.1 32 - 1) * f.pitch + rowBytesOf fm p.2
    else f.out.addr + (p.1 - 1) * f.pitch + rowBytesOf fm p.2
  let scales := if fm.scale = .mx ∨ fm.scale = .ms then f.scaleOff + (if mreadMirrored f then 16 else mreadScaleNum f (w.1 - 1) (w.2 - 1) + 1) else 0
  let mt := match f.compress with
    | .row => f.metaOff + (p.1 - 1) * f.metaPitch + ceilDiv p.2 8
    | .t => f.metaOff + 2048
    | _ => 0
  (data, scales, mt)

def mreadCheck (s : State) (c : Nat) (f : MreadF) : Option Status :=
  let u := s.core c
  let fm := MreadFmt f
  let size := if f.out.kind = .cm then s.cmLimit (clusterOf c) else ocSize
  let e := mreadEnds f
  let form : SpForm := if f.compress = .t then .spT else .spRow
  firstFail [
    ((fmtOf f.format).isNone || fm.scale == .lf || (fm.scale == .tensor && f.supplied == .absent) ||
      (f.compress != .none && f.compress != .unlisted && !sparseFormat form f.format), mtxStatus 1),
    (!tileOk f.tile f.mode, mtxStatus 2),
    (f.mode == .unlisted || !u.modeIs f.tile f.mode, mtxStatus 3),
    (!decide (1 ≤ f.m ∧ f.m ≤ 128 ∧ 1 ≤ f.n ∧ f.n ≤ 128) || !roundListed f.round || f.compress == .unlisted ||
      f.maskSrc == .unlisted || (f.compress == .row && f.n % 4 != 0) ||
      (f.compress == .t && (f.m % 4 != 0 || f.n % 4 != 0)), mtxStatus 4),
    (!(f.out.kind == .oc || f.out.kind == .cm) || f.out.addr % 64 != 0 || f.pitch % 64 != 0 ||
      (mreadMirrored f && (fm.scale == .mx || f.out.addr % ((if f.compress == .t then 8 else 16) * blockBytes fm.bits) != 0)) ||
      (f.compress != .none && (f.metaOff % 64 != 0 || f.metaPitch % (if f.compress == .t then 2048 else 64) != 0)) ||
      (f.compress == .row && decide (f.metaPitch < ceilDiv (MreadDims f).2 8)) ||
      decide (size < e.1) || decide (size < e.2.1) || decide (size < e.2.2) || locationBad size f.supplied, mtxStatus 5),
    (!glintOk f.glint, mtxStatus 4)]

/-- The 90 masks of two positions per row and column, in ascending value. -/
def masksT : List Nat :=
  let rows : List Nat := [3, 5, 6, 9, 10, 12]
  (rows.flatMap (fun d => rows.flatMap (fun cc => rows.flatMap (fun b => rows.map (fun a =>
    a + 16 * b + 256 * cc + 4096 * d))))).filter maskTOk

/-- The exact sum of |v| over the positions of a mask; `none` stands for an infinite sum (R178). -/
def maskSum (v : Nat → FVal) (m : Nat) : Option Rat :=
  (List.range 16).foldl (fun acc p =>
    if bitOf m p then
      match acc, v p with
      | some q, .fin _ x => some (q + x)
      | _, _ => none
    else acc) (some 0)

/-- Whether one mask sum is greater than another. -/
def sumGt (a b : Option Rat) : Bool :=
  match a, b with
  | none, some _ => true
  | some x, some y => y < x
  | _, none => false

/-- The mask that SELECT keeps of a sub-block. -/
def bestMask (v : Nat → FVal) : Nat :=
  match masksT with
  | [] => 0
  | m0 :: r => r.foldl (fun b m => if sumGt (maskSum v m) (maskSum v b) then m else b) m0

/-- The value read at (r, c), and +0 outside the output (R38). -/
def padded (f : MreadF) (v : Nat → Nat → FVal) (r c : Nat) : FVal :=
  if r < (MreadDims f).1 ∧ c < (MreadDims f).2 then v r c else FVal.zero

/-- The kept mask of a group (ROW, 4 bits) or sub-block (T, 16 bits) of the output that holds (r, c); what lies outside the
output counts as +0. -/
def keptMask (mt : Sram) (f : MreadF) (v : Nat → Nat → FVal) (r c : Nat) : Nat :=
  let v := padded f v
  let sp : SparseF := ⟨.spRow, .prune, f.metaOff, f.metaPitch⟩
  match f.compress, f.maskSrc with
  | .row, .select =>
    (topMags 2 ((List.range 4).map (fun i => v r (c / 4 * 4 + i)))).foldl (fun m i => m + 2 ^ i) 0
  | .row, _ => spRowMask mt sp r (c / 4)
  | .t, .select => bestMask (fun p => v (r / 4 * 4 + p / 4) (c / 4 * 4 + p % 4))
  | .t, _ => spTMask mt sp r c
  | _, _ => 0

/-- Whether output element (r, c) is written. -/
def keptAt (f : MreadF) (mask r c : Nat) : Bool :=
  match f.compress with
  | .row => bitOf mask (c % 4)
  | .t => bitOf mask (4 * (r % 4) + c % 4)
  | _ => true

/-- Where a kept element of a compressed output lies. -/
def keptPlace (f : MreadF) (mask r c : Nat) : Nat × Nat :=
  let fm := MreadFmt f
  match f.compress with
  | .row => (f.out.addr + r * f.pitch, 2 * (c / 4) + popCount mask (c % 4))
  | .t => (f.out.addr + mirrorSlot (r / 32 % 4) (c / 32 % 4) * (blockBytes fm.bits / 2),
           8 * (8 * (r % 32 / 4) + c % 32 / 4) + popCount mask (4 * (r % 4) + c % 4))
  | _ => mreadPlace f r c

/-- The first invalid group of a supplied metadata plane (R179, R172): its block of 32 along the row. -/
def suppliedBad (mt : Sram) (f : MreadF) : Option Nat :=
  let p := mreadWritten f
  if f.maskSrc = .supplied then
    ((List.range p.1).flatMap (fun r => (List.range (ceilDiv p.2 4)).map (fun g => (r, g)))).findSome? (fun q =>
      let m := keptMask mt f (fun _ _ => FVal.zero) q.1 (4 * q.2)
      let bad : Bool := match f.compress with
        | .row => popCount m 4 ≠ 2
        | .t => !maskTOk m
        | _ => false
      if bad then some (q.2 / 8) else none)
  else none

/-- The metadata that a SELECT compression writes. -/
def metaWrites (f : MreadF) (v : Nat → Nat → FVal) (mt : Sram) : List ByteWrite :=
  let p := mreadWritten f
  match f.compress, f.maskSrc with
  | .row, .select =>
    (List.range p.1).flatMap (fun r => (List.range (ceilDiv p.2 4)).flatMap (fun g =>
      writeElem (f.metaOff + r * f.metaPitch) 4 g (keptMask mt f v r (4 * g))))
  | .t, .select =>
    (List.range (p.1 / 4)).flatMap (fun a => (List.range (p.2 / 4)).flatMap (fun b =>
      let r := 4 * a
      let c := 4 * b
      let ad := f.metaOff + mirrorSlot (r / 32 % 4) (c / 32 % 4) * 128 + 2 * (8 * (r % 32 / 4) + c % 32 / 4)
      byteWrites ad (leBytes 2 (keptMask mt f v r c))))
  | _, _ => []

/-- The output of MREAD: gathered writes and conversion flags. `mt` is the memory of the output. -/
def mreadOut (f : MreadF) (mt : Sram) (e : QEnv) (v : Nat → Nat → FVal) : List ByteWrite × CFlags :=
  let fm := MreadFmt f
  let p := mreadWritten f
  let x := padded f v
  let sat := f.saturate.getD fm.satDefault
  let sup := if fm.scale = .none then none else suppliedScale mt f.supplied
  let word (r c : Nat) : Word32 := srWord e.seed e.stepNo f.tensorId (f.origin + r * f.rowLen + c)
  let cells := (List.range p.1).flatMap (fun r => (List.range p.2).map (fun c => (r, c)))
  let kept := (cells.map (fun q => (q, keptMask mt f v q.1 q.2))).filter (fun z => keptAt f z.2 z.1.1 z.1.2)
  let store (z : (Nat × Nat) × Nat) (bits : Nat) : List ByteWrite :=
    let a := keptPlace f z.2 z.1.1 z.1.2
    writeElem a.1 fm.bits a.2 bits
  if fm.scale = .mx ∨ fm.scale = .ms then
    let key (q : Nat × Nat) : Nat := mreadScaleNum f q.1 q.2
    (dedupNat (kept.map (fun z => key z.1))).foldl (fun acc g =>
      let mem := kept.filter (fun z => key z.1 = g)
      let q := quantGroup fm [] sup e.mode sat (mem.map (fun z => ⟨x z.1.1 z.1.2, word z.1.1 z.1.2⟩))
      (acc.1 ++ (mem.zip q.2).flatMap (fun y => store y.1 y.2.1) ++ [⟨f.scaleOff + g, 0xFF#8, q.1⟩],
       q.2.foldl (fun (a : CFlags) b => a.or b.2) acc.2)) (([], {}) : List ByteWrite × CFlags)
  else
    kept.foldl (fun acc z =>
      let q := fm.encode [] sup e.mode sat (word z.1.1 z.1.2) (x z.1.1 z.1.2)
      (acc.1 ++ store z q.1, acc.2.or q.2.1)) (([], {}) : List ByteWrite × CFlags)

/-- MREAD's effect. An infinity or NaN among the values read sets inf or invalid whatever Table 2-3 raises for the output
format, and an overflow at readout sets sat (DEDUCED from Table 4-7, log entry 94). -/
def mreadEffect (c : Nat) (f : MreadF) (env : OpEnv) (s0 : State) : State × Outc :=
  let s := s0.accSettle c f.tile f.mode (tileWords f.m f.n)
  let u := s.core c
  let k := clusterOf c
  let v (r cc : Nat) : FVal :=
    let ij := if f.transpose then (cc, r) else (r, cc)
    accValue f.mode (u.accElem f.tile f.mode ij.1 ij.2)
  let mt := if f.out.kind = .cm then (s.cluster k).cm else u.oc
  match (if f.compress = .none then none else suppliedBad mt f) with
  | some b => (s.coreFault c 0x200B#16 0 (leBytes 1 f.tile ++ leBytes 2 b), .faulted 0x200B#16)
  | none =>
    let o := mreadOut f mt ⟨f.round, env.seed, env.stepNo⟩ v
    let ws := o.1 ++ metaWrites f v mt
    let poison := u.tilePoison f.tile f.mode
    let dirty := if poison then linesOf ws else []
    let p := MreadDims f
    let vals := (List.range p.1).flatMap (fun r => (List.range p.2).map (fun cc => v r cc))
    let t := if f.out.kind = .cm then s.cmCommit k ws dirty else s.ocCommit c ws dirty
    let t := t.modCore c (fun w =>
      let w := if f.clear then w.clearTile f.tile f.mode else w
      { w with
          mtxFlags := raiseMtx w.mtxFlags ⟨o.2.inf || vals.any FVal.isInf, o.2.invalid || vals.any FVal.isNan, false⟩ o.2.sat false poison })
    (t.glintAdd k f.glint (vals.map (fun x => ofFp32 (toFp32 x))) 0 0, .done)

def execMread (c : CoreId) (f : MreadF) (s : State) : Host.Outcome State Fault Refusal :=
  .next (s.runOp c (.mat (.mread f)) (mreadCheck s c f) (mreadEffect c f))

/-! ### NPRED (R182 to R188) -/

/-- D is the row length of X. -/
def npredD (f : NpredF) : Nat := f.x.rowLen

/-- Z := X × V as an MMUL. -/
def npredFirst (f : NpredF) : MmulF :=
  ⟨f.tile, .u, false, f.t, f.rank, npredD f, f.x, f.v, .nearestEven, none, none⟩

/-- Rounds an FP32 to BF16. -/
def toBf16 (b : Word32) : FVal := bf16.decode (bf16.encode .nearestEven false 0 (ofFp32 b)).1

/-- The checks of NPRED, by those of Table 4-4 that apply to X, V and U. -/
def npredCheck (s : State) (c : Nat) (f : NpredF) : Option Status :=
  let u := s.core c
  let isInt (d : MatDesc) : Bool := ((rateClass d.compute).map RateClass.isInt).getD false
  firstFail [
    (matBadFormat f.x || matBadFormat f.v || matBadFormat f.u || isInt f.x || isInt f.v || isInt f.u, mtxStatus 1),
    (matBookOutside f.x || matBookOutside f.v || matBookOutside f.u, mtxStatus 5),
    (matBookBad u.oc f.x || matBookBad u.oc f.v || matBookBad u.oc f.u, genCodebook),
    (!decide (f.tile < 8), mtxStatus 2),
    (!decide (1 ≤ f.t ∧ f.t ≤ 128 ∧ 1 ≤ f.rank ∧ f.rank ≤ 256 ∧ 1 ≤ f.f ∧ f.f ≤ 65536 ∧ 6 ≤ f.auditLog2 ∧
        f.auditLog2 ≤ 12 ∧ 1 ≤ npredD f ∧ npredD f ≤ 16384) ||
      (ofFp32 f.tLit).lt (ofFp32 f.tPen) || !orientListed f.x.orient || !orientListed f.v.orient || !orientListed f.u.orient,
      mtxStatus 4),
    (matBadOperand f.x f.t (npredD f) || matBadOperand f.v f.rank (npredD f) || matBadOperand f.u f.f f.rank, mtxStatus 5)]

/-- The element (i, j) of a product. -/
def Product.elem (p : Product) (i j : Nat) : Word32 :=
  ((p.elems.find? (fun z => z.1 = (i, j))).map (fun z => z.2.1)).getD 0

/-- S for neurons 128 b to 128 b + 127: the BF16 rounding of Z times U, in the rule of the slower class (R99). -/
def npredSecond (oc : Sram) (e : QEnv) (f : NpredF) (z : Nat → Nat → FVal) (b : Nat) : Product :=
  let n := min 128 (f.f - 128 * b)
  let elA (_ : Option Byte) (l kk : Nat) : OpElem := if l < f.t ∧ kk < f.rank then ⟨z l kk, {}⟩ else ⟨FVal.zero, {}⟩
  let elB (x : Option Byte) (l kk : Nat) : OpElem := opElem oc e f.u x f.f f.rank (128 * b + l) kk
  let r := recompute f.rank f.t n elA elB 3 0 none (if quantizes f.u then suppliedScale oc f.u.supplied else none)
  let cells := (List.range f.t).flatMap (fun i => (List.range n).map (fun j => (i, j)))
  let out := cells.map (fun p =>
    (p, sumElement .u true f.rank (fun kk => (elA none p.1 kk).x.mul (elB r.2.1 p.2 kk).x) (0, 0)))
  let qf : SumFlags := ((List.range n).flatMap (fun l => (List.range f.rank).map (fun kk => (elB r.2.1 l kk).flags))).foldl
      (fun (a : SumFlags) g => a.or { inf := g.inf, invalid := g.invalid }) {}
  { elems := out.map (fun y => (y.1, y.2.1))
    flags := (out.foldl (fun (a : SumFlags) y => a.or y.2.2) {}).or qf
    retries := r.2.2.1, satAfter := r.2.2.2, xa := none, xb := r.2.1 }

/-- The products of NPRED: Z, then S 128 neurons at a time (R183). -/
def npredProducts (oc : Sram) (e : QEnv) (f : NpredF) : Product × List Product :=
  let p := product oc e (npredFirst f) (fun _ _ => (0, 0))
  (p, (List.range (ceilDiv f.f 128)).map (npredSecond oc e f (fun i q => toBf16 (p.elem i q))))

/-- The score of neuron n: the largest S over the tokens, NaN above every number. -/
def npredScore (f : NpredF) (ps : List Product) (n : Nat) : FVal :=
  match ps[n / 128]? with
  | none => .inf true
  | some p => (List.range f.t).foldl (fun m i =>
    let x := ofFp32 (p.elem i (n % 128))
    if m.isNan then m else if x.isNan then x else if m.lt x then x else m) (.inf true)

/-- The class of a score: 0 lit, 1 penumbra, 2 umbra. No score is at least a threshold that is a NaN (log entry 71). -/
def npredClass (f : NpredF) (x : FVal) : Nat :=
  let ge (t : Word32) : Bool := !(ofFp32 t).isNan && (x.isNan || !(x.lt (ofFp32 t)))
  if ge f.tLit then 0 else if ge f.tPen then 1 else 2

/-- Whether an umbra neuron is audited (R184). -/
def npredAudited (env : OpEnv) (f : NpredF) (n : Nat) : Bool :=
  (srWord env.seed env.stepNo f.tensorId n).toNat / 2 ^ (32 - f.auditLog2) = 0

/-- NPRED's effect: record and lists (Table 7-6), the tile at +0 in mode U, the class counts, the flags and counts of its
products (R110 to R114). Bytes of the result past the operand cache are lost (DESIGN CHOICE, log entry 71). -/
def npredEffect (c : Nat) (f : NpredF) (env : OpEnv) (s0 : State) : State × Outc :=
  let rs := MatRanges f.x f.t (npredD f) ++ MatRanges f.v f.rank (npredD f) ++ MatRanges f.u f.f f.rank
  let s := s0.ocSettle c rs
  let u := s.core c
  let e : QEnv := ⟨.nearestEven, env.seed, env.stepNo⟩
  let ps := npredProducts u.oc e f
  let all := ps.1 :: ps.2
  let cls := (List.range f.f).map (fun n => (n, npredClass f (npredScore f ps.2 n)))
  let lit := (cls.filter (fun z => z.2 = 0)).map (·.1)
  let pen := (cls.filter (fun z => z.2 = 1)).map (·.1)
  let umb := (cls.filter (fun z => z.2 = 2)).map (·.1)
  let aud := umb.filter (npredAudited env f)
  let bytes := leFields [(4, lit.length), (4, pen.length), (4, umb.length), (4, aud.length)] ++
    (lit ++ pen ++ aud).flatMap (leBytes 2)
  let ws := (byteWrites f.out bytes).filter (fun w => decide (w.addr < ocSize))
  let t := s.ocCommit c ws (if anyPoison u.oc rs then linesOf ws else [])
  (t.modCore c (fun v =>
    let v := (v.setMode f.tile .u).clearTile f.tile .u
    let sats := (all.filter (·.satAfter)).length
    let tries := (all.map (·.retries)).foldl (· + ·) 0
    { v with
        nprClass := bumpFld (bumpFld v.nprClass 63 32 lit.length) 31 0 pen.length
        mtxFlags := raiseMtx v.mtxFlags (all.foldl (fun (a : SumFlags) p => a.or p.flags) {}) (sats != 0) (tries != 0) false
        mtxQuant := bumpFld (bumpFld v.mtxQuant 31 0 tries) 63 32 sats }), .done)

def execNpred (c : CoreId) (f : NpredF) (s : State) : Host.Outcome State Fault Refusal :=
  .next (s.runOp c (.mat (.npred f)) (npredCheck s c f) (npredEffect c f))

end Sys2Proof.Machine
end

