-- ==== Sys2Proof/Machine/Pocket.lean ====
section
/-! DEFINITION. The Pocket stash (spec/06_backward_pass_and_pocket.md, R153 to R163): granules, spills, exhaustion,
STASH_PUT, STASH_GET, STASH_DROP. -/

namespace Sys2Proof.Machine

/-- Bytes of a granule (R155). -/
def granule : Nat := 4096

/-- Granules of a size. -/
def granulesOf (size : Nat) : Nat := (size + granule - 1) / granule

/-- Granules of the Pocket of a context's cluster. -/
def Ctx.pocketGranules (x : Ctx) : Nat := x.pocketBytes / granule

/-- Granules of a cluster's overflow share (R154). -/
def Ctx.shareGranules (x : Ctx) : Nat := x.ovfLen / (x.clusters.length * granule)

/-- Base VA of the share of physical cluster k. -/
def Ctx.shareBase (x : Ctx) (k : Nat) : Nat := x.ovfVa + x.clusters.findIdx (· == k) * granule * x.shareGranules

/-- Granules that entries hold, resident or spilled. -/
def Pocket.used (p : Pocket) (spilled : Bool) : List Nat :=
  (p.entries.filter (fun e => e.spilled == spilled)).flatMap (·.granules)

/-- The first n free granules of a total; `none` when too few are free. -/
def freeGranules (used : List Nat) (total n : Nat) : Option (List Nat) :=
  let free := (List.range total).filter (fun g => !used.contains g)
  if n ≤ free.length then some (free.take n) else none

/-- The registers' levels after a change of the directory (Tables 6-6, 6-7). -/
def Pocket.levelled (p : Pocket) : Pocket :=
  let r := (p.used false).length
  let o := (p.used true).length
  { p with
    level := withFld (withFld p.level 12 0 r) 28 16 (max r (fld p.level 28 16))
    ovfLevel := withFld (withFld p.ovfLevel 24 0 o) 56 32 (max o (fld p.ovfLevel 56 32)) }

/-- The pieces of an entry: granule and bytes in it. -/
def granulePieces (size : Nat) (gs : List Nat) : List (Nat × Nat) :=
  gs.zipIdx.map (fun p => (p.1, min granule (size - granule * p.2)))

/-- Where an entry's bytes lie, in order. -/
def entryLocs (x : Ctx) (k : Nat) (spilled : Bool) (size : Nat) (gs : List Nat) : List (Loc × Nat) :=
  (granulePieces size gs).map (fun p =>
    (if spilled then ⟨.va, x.shareBase k + granule * p.1⟩ else ⟨.cm, cmSize - x.pocketBytes + granule * p.1⟩, p.2))

/-- Reads a list of locations through the Pocket unit of cluster k. -/
def State.pocketRead (s : State) (x k : Nat) (ls : List (Loc × Nat)) : Except (Nat × Nat) (State × List PByte) :=
  ls.foldl (fun acc l => match acc with
    | .error e => .error e
    | .ok r => match r.1.readLoc x (16 * k) .pocket l.1 l.2 with
      | .error e => .error e
      | .ok q => .ok (q.1, r.2 ++ q.2)) (.ok (s, []))

/-- Writes bytes over a list of locations. -/
def State.pocketWrite (s : State) (x k : Nat) (ls : List (Loc × Nat)) (bs : List PByte) : Except (Nat × Nat) State :=
  (ls.foldl (fun (acc : Except (Nat × Nat) State × List PByte) l =>
    (match acc.1 with
      | .error e => .error e
      | .ok t => t.writeLoc x (16 * k) .pocket l.1 (acc.2.take l.2), acc.2.drop l.2)) (.ok s, bs)).1

/-! ### Checks (R157) -/

/-- Whether a source or destination fails check 3. -/
def State.pocketOperandBad (s : State) (c : Nat) (l : Loc) (n : Nat) : Bool :=
  l.addr % 64 != 0 || (match l.kind with
    | .oc | .cm => !s.inLocal c l n
    | .va => false
    | _ => true)

/-- The context of a core has a Pocket. -/
def State.hasPocket (s : State) (c : Nat) : Bool :=
  match s.ctxOfCore c with
  | some x => (s.ctx x).pocketKib != 0
  | none => false

/-- Whether an entry is live under a key for an operation: one that a STASH_GET has released is so for those alone that had
reached it before (Table 6-4). -/
def PocketEntry.liveFor (e : PocketEntry) (key : Word32) (me : Option (Nat × Nat)) : Bool :=
  e.key == key && (!e.released || (match me with
    | some z => e.users.any (fun u => u.core == z.1 && u.pos == z.2)
    | none => false))

/-- The live entry of a key, for an operation that arrives now. -/
def State.pocketEntry (s : State) (c : Nat) (key : Word32) : Option PocketEntry :=
  (s.cluster (clusterOf c)).pocket.entries.find? (fun e => e.liveFor key none)

/-- Core and position of operation o in flight on core c. -/
def State.userOf (s : State) (c : Nat) (o : Op) : Option (Nat × Nat) := ((s.core c).entryOf o).map (fun q => (c, q.pos))

/-- The live entry of a key for operation o of core c. -/
def State.entryFor (s : State) (c : Nat) (o : Op) (key : Word32) : Option PocketEntry :=
  (s.cluster (clusterOf c)).pocket.entries.find? (fun e => e.liveFor key (s.userOf c o))

/-- Whether a STASH_PUT of a key waits in the directory for a read to end (R159, Table 6-4). -/
def State.pocketPutting (s : State) (c : Nat) (key : Word32) : Bool :=
  (s.cluster (clusterOf c)).pocket.waiting.any (fun w => w.2.key == key)

def stashPutCheck (s : State) (c : Nat) (f : StashPutF) : Option Status :=
  firstFail [
    (!s.hasPocket c, pocketStatus 1),
    (!decide (1 ≤ f.size ∧ f.size ≤ 16777216), pocketStatus 2),
    (s.pocketOperandBad c f.src f.size, pocketStatus 3),
    ((s.pocketEntry c f.key).isSome || s.pocketPutting c f.key, pocketStatus 4)]

def stashGetCheck (s : State) (c : Nat) (f : StashGetF) : Option Status :=
  let e := s.entryFor c (.dma (.stashGet f)) f.key
  firstFail [
    (!s.hasPocket c, pocketStatus 1),
    (s.pocketOperandBad c f.dst ((e.map (·.size)).getD 0), pocketStatus 3),
    (e.isNone && !s.pocketPutting c f.key, pocketStatus 4)]

def stashDropCheck (s : State) (c : Nat) (key : Word32) : Option Status :=
  firstFail [
    (!s.hasPocket c, pocketStatus 1),
    ((s.entryFor c (.dma (.stashDrop key)) key).isNone && !s.pocketPutting c key, pocketStatus 4)]

/-! ### Spill (R158) -/

/-- How room for a new entry was found. -/
inductive Room | fits (t : State) | waits (t : State) | exhausted (t : State) | fault (t : State) (kind va : Nat) (a : Access)

/-- Spills one resident entry to the granules gs of the overflow share. -/
def State.spill (s : State) (x k : Nat) (e : PocketEntry) (gs : List Nat) : Except (Nat × Nat × Access) State :=
  let v := s.ctx x
  match s.pocketRead x k (entryLocs v k false e.size e.granules) with
  | .error z => .error (z.1, z.2, .read)
  | .ok r => match r.1.pocketWrite x k (entryLocs v k true e.size gs) r.2 with
    | .error z => .error (z.1, z.2, .write)
    | .ok t => .ok (t.modCluster k (fun u => { u with pocket := Pocket.levelled { u.pocket with
        entries := u.pocket.entries.map (fun d => if d = e then { d with spilled := true, granules := gs } else d)
        stat := bumpFld u.pocket.stat 63 32 1 } }))

/-- The resident entry with the smallest key that no STASH_GET reads. -/
def Pocket.oldest (p : Pocket) : Option PocketEntry :=
  (p.entries.filter (fun e => !e.spilled && !e.users.any (·.gets))).foldl (fun (m : Option PocketEntry) e => match m with
    | none => some e
    | some d => if e.key < d.key then some e else some d) none

/-- Spills until `need` granules are free; fuel is the number of resident entries. -/
def State.makeRoom (x k need : Nat) : Nat → State → Room
  | fuel, s =>
    let v := s.ctx x
    let p := (s.cluster k).pocket
    if (freeGranules (p.used false) v.pocketGranules need).isSome then .fits s
    else match p.oldest with
    | none => .waits s
    | some e => match freeGranules (p.used true) v.shareGranules (granulesOf e.size) with
      | none => .exhausted s
      | some gs => match s.spill x k e gs with
        | .error z => .fault s z.1 z.2.1 z.2.2
        | .ok t => match fuel with
          | 0 => .waits t
          | n + 1 => State.makeRoom x k need n t

/-! ### STASH_PUT (R156, R158 to R160) -/

/-- "stash exhausted": the context stops, the new entry is not created. -/
def State.stashExhausted (s : State) (x c : Nat) (f : StashPutF) : State :=
  let k := clusterOf c
  let p := (s.cluster k).pocket
  let l : LogArgs :=
    { cls := 2, cause := 0x2009#16, block := 0x02, inst := k,
      detail := leBytes 1 k ++ leBytes 4 f.key.toNat ++ leBytes 4 f.size ++ leBytes 4 (p.used false).length ++
        leBytes 4 ((s.ctx x).shareGranules - (p.used true).length) }
  (s.contained (some x) l).recordOutcome c (.dma (.stashPut f)) (.faulted 0x2009#16)

/-- A translation fault of the Pocket unit ends the operation (Table 10-6). -/
def State.pocketFault (s : State) (x c : Nat) (o : Op) (kind va : Nat) (a : Access) : State :=
  let k := clusterOf c
  (s.tfault x ⟨.pocket, k, kind, a, va⟩ 0x02 k none).recordOutcome c o (.faulted 0x2006#16)

/-- What an operation does with a Pocket entry once it has reached it: its key, and whether it reads. -/
def pocketUse : Op → Option (Word32 × Bool)
  | .dma (.stashGet f) => some (f.key, true)
  | .dma (.stashDrop key) => some (key, false)
  | _ => none

/-- Operations on a key that have started on the cores of cluster k: they wait for its STASH_PUT to end (Table 6-4). -/
def State.usersStarted (s : State) (k : Nat) (key : Word32) : List PocketUser :=
  (List.range 16).flatMap (fun i => (s.core (16 * k + i)).dmaF.filterMap (fun e => match pocketUse e.op with
    | some z => if e.result.isNone && z.1 == key then some ⟨16 * k + i, e.pos, z.2⟩ else none
    | none => none))

/-- The directory once an operation has reached the live entry of its key. -/
def Pocket.reached (p : Pocket) (key : Word32) (u : PocketUser) : Pocket :=
  { p with entries := p.entries.map (fun e => if e.liveFor key none then { e with users := e.users ++ [u] } else e) }

/-- The directory once an operation leaves the entry that it had reached. A released entry goes with its last user. -/
def Pocket.left (p : Pocket) (me : Nat × Nat) : Pocket :=
  { p with entries := (p.entries.map (fun e =>
      { e with users := e.users.filter (fun u => !(u.core == me.1 && u.pos == me.2)) })).filter (fun e =>
        !(e.released && e.users.isEmpty)) }

/-- Copies the source into a new entry of granules gs. -/
def State.stashStore (s : State) (x c : Nat) (f : StashPutF) (spilled : Bool) (gs : List Nat) : State :=
  let k := clusterOf c
  let o : Op := .dma (.stashPut f)
  match s.readLoc x c .stash f.src f.size with
  | .error z => s.pocketFault x c o z.1 z.2 .read
  | .ok r => match r.1.pocketWrite x k (entryLocs (s.ctx x) k spilled f.size gs) r.2 with
    | .error z => s.pocketFault x c o z.1 z.2 .write
    | .ok t =>
      (t.modCluster k (fun u => { u with pocket := Pocket.levelled { u.pocket with
        entries := u.pocket.entries ++ [⟨f.key, f.size, spilled, gs, t.usersStarted k f.key, false⟩]
        stat := if spilled then bumpFld u.pocket.stat 63 32 1 else u.pocket.stat } })).recordOutcome c o .done

/-- STASH_PUT after its checks: it ends, or waits for a read to end (R159). -/
def State.stashPut (s : State) (x c : Nat) (f : StashPutF) : State :=
  let k := clusterOf c
  let v := s.ctx x
  let p := (s.cluster k).pocket
  let need := granulesOf f.size
  if 4096 ≤ p.entries.length then s.stashExhausted x c f
  else if v.pocketGranules < need then
    match freeGranules (p.used true) v.shareGranules need with
    | none => s.stashExhausted x c f
    | some gs => s.stashStore x c f true gs
  else match State.makeRoom x k need p.entries.length s with
  | .exhausted t => t.stashExhausted x c f
  | .fault t kind va a => t.pocketFault x c (.dma (.stashPut f)) kind va a
  | .waits t => t.modCluster k (fun u => { u with pocket := { u.pocket with waiting := u.pocket.waiting ++ [(c, f)] } })
  | .fits t => match freeGranules ((t.cluster k).pocket.used false) v.pocketGranules need with
    | none => t
    | some gs => t.stashStore x c f false gs

def execStashPut (c : CoreId) (f : StashPutF) (s : State) : Host.Outcome State Fault Refusal :=
  let o : Op := .dma (.stashPut f)
  .next (if (s.cluster (clusterOf c)).pocket.waiting.contains (c.val, f) then s
    else match stashPutCheck s c f with
    | some st => (s.dropEntry c o).opRefused c (queueCode .dma) (s.opEnv c o).pos st
    | none => match s.ctxOfCore c with
      | none => s
      | some x => s.stashPut x c f)

/-- STASH_PUT_CONTINUE: a read has ended, and the first waiting STASH_PUT of the cluster goes on by R158. -/
def execStashPutContinue (k : ClusterId) (s : State) : Host.Outcome State Fault Refusal :=
  .next (match (s.cluster k).pocket.waiting, s.ctxOfCluster k with
    | w :: r, some x =>
      (s.modCluster k (fun u => { u with pocket := { u.pocket with waiting := r } })).stashPut x w.1 w.2
    | _, _ => s)

/-! ### STASH_GET and STASH_DROP (R156, R161, R162) -/

/-- The operations that reached an entry before operation o of core c. -/
def State.usersBefore (s : State) (c : Nat) (o : Op) (e : PocketEntry) : List PocketUser :=
  match s.userOf c o with
  | some z => e.users.takeWhile (fun u => !(u.core == z.1 && u.pos == z.2))
  | none => e.users

/-- The directory without the entry that is live under a key for an operation. -/
def Pocket.freed (p : Pocket) (key : Word32) (me : Option (Nat × Nat)) : Pocket :=
  Pocket.levelled { p with entries := p.entries.filter (fun e => !e.liveFor key me) }

/-- The directory once an operation has ended. -/
def Pocket.ended (p : Pocket) (me : Option (Nat × Nat)) : Pocket :=
  match me with
  | some z => Pocket.levelled (p.left z)
  | none => p

/-- The directory after an entry was copied out: a release takes effect for all that arrive from now on, and those that had
reached the entry still read it (Table 6-4). -/
def Pocket.got (p : Pocket) (e : PocketEntry) (me : Option (Nat × Nat)) (release : Bool) : Pocket :=
  let q := if e.spilled then { p with stat := bumpFld p.stat 31 0 1 } else p
  if !release then q.ended me
  else if e.users.all (fun u => me == some (u.core, u.pos)) then q.freed e.key me
  else Pocket.ended { q with entries := q.entries.map (fun d => if d.liveFor e.key me then { d with released := true } else d) } me

/-- STASH_GET's copy; with release 1 it then frees the entry. -/
def State.stashGet (s : State) (x c : Nat) (f : StashGetF) (e : PocketEntry) : State :=
  let k := clusterOf c
  let o : Op := .dma (.stashGet f)
  let me := s.userOf c o
  let stopped (t : State) : State := t.modCluster k (fun u => { u with pocket := u.pocket.ended me })
  match s.pocketRead x k (entryLocs (s.ctx x) k e.spilled e.size e.granules) with
  | .error z => (stopped s).pocketFault x c o z.1 z.2 .read
  | .ok r => match r.1.writeLoc x c .stash f.dst r.2 with
    | .error z => (stopped s).pocketFault x c o z.1 z.2 .write
    | .ok t => (t.modCluster k (fun u => { u with pocket := u.pocket.got e me f.release })).recordOutcome c o .done

/-- STASH_GET; a release waits for what reached the entry before it, and any GET for a STASH_PUT of its key (Table 6-4). -/
def execStashGet (c : CoreId) (f : StashGetF) (s : State) : Host.Outcome State Fault Refusal :=
  let o : Op := .dma (.stashGet f)
  .next (match stashGetCheck s c f with
    | some st => (s.dropEntry c o).opRefused c (queueCode .dma) (s.opEnv c o).pos st
    | none => match s.ctxOfCore c, s.entryFor c o f.key with
      | some x, some e => if f.release && !(s.usersBefore c o e).isEmpty then s else s.stashGet x c f e
      | _, _ => s)

/-- STASH_DROP; it waits for what reached the entry before it (Table 6-4). -/
def execStashDrop (c : CoreId) (key : Word32) (s : State) : Host.Outcome State Fault Refusal :=
  let o : Op := .dma (.stashDrop key)
  .next (match stashDropCheck s c key with
    | some st => (s.dropEntry c o).opRefused c (queueCode .dma) (s.opEnv c o).pos st
    | none => match s.entryFor c o key with
      | some e => if !(s.usersBefore c o e).isEmpty then s
        else (s.modCluster (clusterOf c) (fun u => { u with pocket := u.pocket.freed key (s.userOf c o) })).recordOutcome c o .done
      | none => s)

end Sys2Proof.Machine
end

