-- ==== Sys2Proof/Machine/Reduce.lean ====
section
/-! DEFINITION. Vector operations across lanes and rows (spec/05_vector_engine.md, R133 to R140): RED, SOFTMAX,
NORM_PARTIAL, and AUDIT of chapter 7 (R187). -/

namespace Sys2Proof.Machine

/-! ### Reductions (R133, R134, Table 5-8) -/

/-- One unmasked contribution to an output: FP32 value, row, logical index relative to the start of the reduced set. -/
structure RedIn where
  x : FVal
  row : Nat
  ix : Nat

/-- Exact sums of the contributions, row by row in ascending order. -/
def rowSums (xs : List (Nat × FVal)) : List FVal :=
  (dedupNat (xs.map (·.1))).map (fun i => exactSum ((xs.filter (fun p => p.1 = i)).map (·.2)))

/-- The compensated sum of contributions (R133). -/
def redSum (xs : List (Nat × FVal)) : FVal := pairValue (accRows (rowSums xs))

/-- Result of an output without contribution. -/
def redEmpty : RedKind → FVal
  | .prod => .fin false 1
  | .max | .lse => .inf true
  | .min => .inf false
  | .argmax | .argmin => FVal.ofRat false (-1)
  | _ => FVal.zero

def redIsArg : RedKind → Bool | .argmax | .argmin => true | _ => false

/-- The first extreme of a list: `better a b` says that a goes before b. -/
def redBest (better : FVal → FVal → Bool) : List RedIn → Option RedIn
  | [] => none
  | a :: r => some (r.foldl (fun b z => if better z.x b.x then z else b) a)

/-- The largest value of a list. -/
def maxOf (xs : List FVal) : FVal :=
  match xs with
  | [] => .inf true
  | a :: r => r.foldl fvMax a

/-- The results where an infinity but no NaN is present, for the summing and multiplying kinds. -/
def redInfinite (k : RedKind) (xs : List FVal) : FVal × Nat :=
  let pos := xs.any (fun x => x.isInf && !x.neg)
  let neg := xs.any (fun x => x.isInf && x.neg)
  match k with
  | .sumsq | .amax | .lse => (.inf false, fInf)
  | .prod =>
    if xs.any FVal.isZero then (.nan false, fInvalid ||| fInf)
    else (.inf (decide ((xs.filter FVal.neg).length % 2 = 1)), fInf)
  | _ => if pos && neg then (.nan false, fInvalid ||| fInf) else (.inf neg, fInf)

/-- log-sum-exp of finite values: fp32(m + ln(fp32(s + h))), contributions exp(x − m). -/
def lseOf (fw : List Word32) (xs : List (Nat × FVal)) : FVal :=
  let m := toFp32 (maxOf (xs.map (·.2)))
  let sum := redSum (xs.map (fun p => (p.1, ofFp32 (curveExp fw (f32sub (toFp32 p.2) m)))))
  ofFp32 (f32add m (curveLn fw (toFp32 sum)))

/-- One factor into a running product of finite values, one FP32 rounding a product; a product that has overflowed stays
an infinity and takes the sign of the later factors (R134). -/
def prodStep (p x : Word32) : Word32 :=
  if (ofFp32 p).isInf then toFp32 (.inf ((ofFp32 p).neg != (ofFp32 x).neg)) else f32mul p x

/-- One output: its value before the last rounding, and its flags, which with a NaN are INVALID alone (Table 5-8). -/
def reduce (fw : List Word32) (k : RedKind) (ins0 : List RedIn) : FVal × Nat :=
  let ins := if k = .lse then ins0.filter (fun z => !(z.x.isInf && z.x.neg)) else ins0
  let xs := ins.map (·.x)
  let rows := ins.map (fun z => (z.row, z.x))
  let infFlag := flagIf (xs.any FVal.isInf) fInf
  if ins.isEmpty then (redEmpty k, fEmpty)
  else match ins.find? (fun z => z.x.isNan) with
  | some z => (if redIsArg k then .fin false z.ix else .nan false, fInvalid)
  | none =>
    match k with
    | .max => (maxOf xs, infFlag)
    | .min => (match xs with | [] => FVal.zero | a :: r => r.foldl fvMin a, infFlag)
    | .argmax => (match redBest (fun a b => b.ltSigned a) ins with | some z => .fin false z.ix | none => FVal.zero, infFlag)
    | .argmin => (match redBest (fun a b => a.ltSigned b) ins with | some z => .fin false z.ix | none => FVal.zero, infFlag)
    | _ =>
      if xs.any FVal.isInf then redInfinite k xs
      else match k with
      | .amax => (maxOf (xs.map FVal.abs), 0)
      | .prod => let p := ofFp32 (xs.foldl (fun p x => prodStep p (toFp32 x)) one32); (p, flagIf p.isInf fInf)
      | .sumsq => let v := redSum (rows.map (fun p => (p.1, p.2.mul p.2))); (v, flagIf v.isInf fInf)
      | .lse => (lseOf fw rows, 0)
      | .mean => let v := redSum rows; (if v.isFin then v.div (.fin false xs.length) else v, flagIf v.isInf fInf)
      | _ => let v := redSum rows; (v, flagIf v.isInf fInf)

/-- Outputs of an axis: rows and lanes of the destination. -/
def redShape (m : VCom) (a : RedAxis) : Nat × Nat :=
  match a with
  | .lane => (m.r / m.g, 1)
  | .row => (1, m.n)
  | _ => (1, 1)

/-- The source positions of output o and their index relative to the start of the reduced set. -/
def redCells (m : VCom) (a : RedAxis) (o : Nat) : List ((Nat × Nat) × Nat) :=
  match a with
  | .lane => (List.range m.g).flatMap (fun ii => (List.range m.n).map (fun j => ((o * m.g + ii, j), ii * m.n + j)))
  | .row => (List.range m.r).map (fun i => ((i, o), i * m.n))
  | _ => (List.range m.r).flatMap (fun i => (List.range m.n).map (fun j => ((i, j), i * m.n + j)))

/-- What the lanes of a reduced set give: contributions, flags of the reads, poison of lanes and mask bits. -/
structure RedSet where
  ins : List RedIn
  flags : Nat
  poison : Bool

/-- Reads a reduced set. -/
def redRead (m : VCom) (mem : VMem) (q : VIn) (d : VDesc) (cells : List ((Nat × Nat) × Nat)) : RedSet :=
  let ls := cells.map (fun z => (z, maskBit mem.oc m z.1.1 z.1.2, d.read mem q false m.n z.1.1 z.1.2))
  let on := ls.filter (fun z => z.2.1.1)
  let poison := ls.any (fun z => z.2.1.2) || on.any (fun z => z.2.2.poison)
  ⟨on.map (fun z => ⟨z.2.2.fp, z.1.1.1, z.1.2⟩),
   flagIf (on.any (fun z => z.2.2.sat)) fSat ||| flagIf poison fPoison, poison⟩

/-- One output as a lane result. -/
def redOut (f : RedF) (mem : VMem) (q : VIn) (o : Nat) : LaneRes :=
  let z := redRead f.com mem q f.a (redCells f.com f.axis o)
  let r := reduce mem.fw f.kind z.ins
  { out := .val r.1, poison := z.poison, flags := r.2 ||| z.flags }

/-- An empty output raises EMPTY and, for its infinity, no INF (Table 5-8). -/
def emptyFlags (f : Nat) : Nat := if bitOf f 0 && bitOf f 2 then f - fInf else f

/-- Writes outputs o0, o0 + 1, … of a reduction. -/
def redEmit (f : RedF) (e : OpEnv) (v : VRun) (o0 : Nat) (outs : List LaneRes) : VRun :=
  let m := f.com
  let sh := redShape m f.axis
  let env : OutEnv := ⟨m.round, m.saturate, e.seed, e.stepNo, fun i j => m.origin + i + j⟩
  let em := if f.axis = .row then emitRows v.mem env f.dst sh.2 1 0 [outs]
    else emitRows v.mem env f.dst 1 sh.1 o0 (outs.map (fun x => [x]))
  let v := v.emit f.dst em
  let v := v.flagBytes m.flagDest (em.flags.map (fun z => (z.1.1 + z.1.2, emptyFlags z.2)))
  { v with empty := v.empty + (outs.filter (fun x => bitOf x.flags 0)).length }

/-- RED's effect: a LANE reduction takes its logical rows in order; the others read every row before they write. -/
def redEffect (c : Nat) (f : RedF) (e : OpEnv) (s0 : State) : State × Outc :=
  let m := f.com
  let s := s0.vecSettle c m [f.dst, f.a] [] (laneReads m [f.a])
  let sh := redShape m f.axis
  let q := vecIn m e
  let v0 : VRun := { mem := (s.vmem c).latch [f.dst, f.a] }
  let v :=
    if f.axis = .lane && !isMsFormat f.dst.fmtD then
      (List.range sh.1).foldl (fun v o => redEmit f e v o [redOut f v.mem q o]) v0
    else redEmit f e v0 0 ((List.range (sh.1 * sh.2)).map (redOut f v0.mem q))
  (s.vecFinish c v, .done)

def redCheck (s : State) (c : Nat) (f : RedF) : Option Status :=
  let m := f.com
  let sh := redShape { m with g := max 1 m.g } f.axis
  firstFail (vecCheck s c m [⟨f.a, anyFormat, m.n, m.r, false⟩,
      ⟨f.dst, if redIsArg f.kind then isInt32Format else anyFormat, sh.2, sh.1, true⟩] (sh.1 * sh.2)
    (f.kind == .unlisted || f.axis == .unlisted) false)

def execRed (c : CoreId) (f : RedF) (s : State) : Host.Outcome State Fault Refusal :=
  .next (s.runOp c (.vec (.red f)) (redCheck s c f) (redEffect c f))

/-! ### SOFTMAX (R135, Table 5-9) -/

/-- A logical row's outputs by position, its log-sum-exp, its flags, its poison. -/
structure SoftRow where
  out : Nat → Nat → FVal
  lse : FVal
  flags : Nat
  poison : Bool

/-- One logical row, first case of Table 5-9 that holds. -/
def softRow (f : SoftmaxF) (mem : VMem) (q : VIn) (o : Nat) : SoftRow :=
  let m := f.com
  let z := redRead m mem q f.a (redCells m .lane o)
  let xs := (z.ins.map (fun y => { y with x := ofFp32 (f32mul (toFp32 y.x) f.scale) })).filter
    (fun y => !(y.x.isInf && y.x.neg))
  let at' (g : RedIn → FVal) (i j : Nat) : FVal :=
    match xs.find? (fun y => y.ix = (i - o * m.g) * m.n + j) with
    | some y => g y
    | none => FVal.zero
  if xs.any (fun y => y.x.isNan) then ⟨fun _ _ => .nan false, .nan false, fInvalid ||| z.flags, z.poison⟩
  else
    let k := (xs.filter (fun y => y.x.isInf)).length
    if 0 < k then
      ⟨at' (fun y => if y.x.isInf then .fin false (1 / (k : Rat)) else FVal.zero), .inf false, fInf ||| z.flags, z.poison⟩
    else if xs.isEmpty then ⟨fun _ _ => FVal.zero, .inf true, fEmpty ||| z.flags, z.poison⟩
    else
      let mx := toFp32 (maxOf (xs.map (·.x)))
      let e (y : RedIn) : FVal := ofFp32 (curveExp mem.fw (f32sub (toFp32 y.x) mx))
      let sum := toFp32 (redSum (xs.map (fun y => (y.row, e y))))
      ⟨at' (fun y => (e y).div (ofFp32 sum)), ofFp32 (f32add mx (curveLn mem.fw sum)), z.flags, z.poison⟩

/-- Writes logical rows o0, …: their elements, log-sum-exp words and flag bytes. -/
def softEmit (f : SoftmaxF) (e : OpEnv) (v : VRun) (o0 : Nat) (rows : List SoftRow) : VRun :=
  let m := f.com
  let lanes := rows.zipIdx.flatMap (fun p => (List.range m.g).map (fun ii => (List.range m.n).map (fun j =>
    ({ out := .val (p.1.out ((o0 + p.2) * m.g + ii) j), poison := p.1.poison } : LaneRes))))
  let em := emitRows v.mem (vecEnv m e) f.dst m.n m.r (o0 * m.g) lanes
  let v := v.emit f.dst em
  let v : VRun := match f.lse with
    | none => v
    | some a => rows.zipIdx.foldl (fun v p =>
      let ad := a + 4 * (o0 + p.2)
      v.write false (byteWrites ad (leBytes 4 (toFp32 p.1.lse).toNat)) (if p.1.poison then linesIn ad 4 else [])) v
  let bytes := rows.zipIdx.map (fun p =>
    (o0 + p.2, ((em.flags.filter (fun z => z.1.1 / m.g = o0 + p.2)).foldl (fun a z => a ||| z.2) p.1.flags)))
  let v := v.flagBytes m.flagDest bytes
  { v with empty := v.empty + (rows.filter (fun r => bitOf r.flags 0)).length }

def softmaxEffect (c : Nat) (f : SoftmaxF) (e : OpEnv) (s0 : State) : State × Outc :=
  let m := f.com
  let s := s0.vecSettle c m [f.dst, f.a] [] (laneReads m [f.a])
  let q := vecIn m e
  let v0 : VRun := { mem := (s.vmem c).latch [f.dst, f.a] }
  let v :=
    if isMsFormat f.dst.fmtD then softEmit f e v0 0 ((List.range (m.r / m.g)).map (softRow f v0.mem q))
    else (List.range (m.r / m.g)).foldl (fun v o => softEmit f e v o [softRow f v.mem q o]) v0
  (s.vecFinish c v, .done)

def softmaxCheck (s : State) (c : Nat) (f : SoftmaxF) : Option Status :=
  let m := f.com
  firstFail (vecCheck s c m (elemOperands m anyFormat [f.a] f.dst) (m.r / max 1 m.g) false
    (match f.lse with | none => false | some a => a % 4 != 0 || !inOc a (4 * (m.r / max 1 m.g))))

def execSoftmax (c : CoreId) (f : SoftmaxF) (s : State) : Host.Outcome State Fault Refusal :=
  .next (s.runOp c (.vec (.softmax f)) (softmaxCheck s c f) (softmaxEffect c f))

/-! ### NORM_PARTIAL (R140) -/

/-- The record of one output: bytes, flags, poison. -/
def normRecord (f : NormF) (mem : VMem) (q : VIn) (o : Nat) : List Byte × Nat × Bool :=
  let m := f.com
  let cells := redCells m f.axis o
  let za := redRead m mem q f.a cells
  let zb := match f.b with
    | none => za
    | some d => redRead m mem q d cells
  let xs : List (Nat × FVal) := match f.b with
    | none => za.ins.map (fun y => (y.row, y.x))
    | some _ => (za.ins.zip zb.ins).map (fun p => (p.1.row, p.1.x.add p.2.x))
  let fin := xs.filter (fun p => p.2.isFin)
  let sh := accRows (rowSums (fin.map (fun p => (p.1, p.2.mul p.2))))
  let amax := (fin.map (fun p => p.2.mag)).foldl (fun a q => if a < q then q else a) 0
  let n := min (xs.length - fin.length) 0xFFFFFFFF
  (leFields [(4, sh.1.toNat), (4, sh.2.toNat), (4, (toFp32 (.fin false amax)).toNat), (4, n)],
   za.flags ||| zb.flags ||| flagIf (xs.any (fun p => p.2.isNan)) fInvalid |||
     flagIf (xs.any (fun p => p.2.isInf) || !(ofFp32 sh.1).isFin) fInf,
   za.poison || zb.poison)

def normEffect (c : Nat) (f : NormF) (e : OpEnv) (s0 : State) : State × Outc :=
  let m := f.com
  let srcs := f.a :: (match f.b with | none => [] | some d => [d])
  let s := s0.vecSettle c m srcs [] (laneReads m srcs)
  let sh := redShape m f.axis
  let q := vecIn m e
  let put (v : VRun) (o : Nat) (r : List Byte × Nat × Bool) : VRun :=
    let ad := f.out + 16 * o
    (v.write false (byteWrites ad r.1) (if r.2.2 then linesIn ad 16 else [])).flagBytes m.flagDest [(o, r.2.1)]
  let v0 : VRun := { mem := (s.vmem c).latch srcs }
  let v :=
    if f.axis = .lane then (List.range sh.1).foldl (fun v o => put v o (normRecord f v.mem q o)) v0
    else (List.range (sh.1 * sh.2)).foldl (fun v o => put v o (normRecord f v0.mem q o)) v0
  (s.vecFinish c v, .done)

def normCheck (s : State) (c : Nat) (f : NormF) : Option Status :=
  let m := f.com
  let sh := redShape { m with g := max 1 m.g } f.axis
  let srcs := f.a :: (match f.b with | none => [] | some d => [d])
  firstFail (vecCheck s c m (srcs.map (fun d => ⟨d, anyFormat, m.n, m.r, false⟩)) (sh.1 * sh.2)
    (f.axis == .unlisted) (f.out % 4 != 0 || !inOc f.out (16 * (sh.1 * sh.2))))

def execNormPartial (c : CoreId) (f : NormF) (s : State) : Host.Outcome State Fault Refusal :=
  .next (s.runOp c (.vec (.norm f)) (normCheck s c f) (normEffect c f))

/-! ### AUDIT (R187) -/

/-- Whether audited neuron k is a miss: any of its t outputs is above tau in magnitude or NaN. -/
def auditMiss (f : AuditF) (mem : VMem) (q : VIn) (k : Nat) : Bool :=
  (List.range f.t).any (fun i =>
    let x := (f.src.read mem q false f.nAudit i k).fp
    x.isNan || (ofFp32 f.tau).lt x.abs)

def auditEffect (c : Nat) (f : AuditF) (e : OpEnv) (s0 : State) : State × Outc :=
  let m : VCom := ⟨f.nAudit, f.t, 1, 0, none, .keep, .nearestEven, none, none⟩
  let s := s0.vecSettle c m [f.src] [] (laneReads m [f.src])
  let mem := (s.vmem c).latch [f.src]
  let q := vecIn m e
  let ls := (List.range f.t).flatMap (fun i => (List.range f.nAudit).map (fun k => f.src.read mem q false f.nAudit i k))
  let miss := ((List.range f.nAudit).filter (auditMiss f mem q)).length
  (s.modCore c (fun u => { u with
    nprAudit := bumpFld (bumpFld u.nprAudit 31 0 f.nAudit) 63 32 miss
    vecFlags := u.vecFlags ||| BitVec.ofNat 32 (srcFlags ls) }), .done)

def auditCheck (s : State) (c : Nat) (f : AuditF) : Option Status :=
  let ops : List VOperand := [⟨f.src, anyFormat, max 1 f.nAudit, f.t, false⟩]
  firstFail (vecCheck1 (s.core c).oc ops ++
    [(!decide (1 ≤ f.t ∧ f.t ≤ 128 ∧ f.nAudit ≤ 65536), vecStatus 2),
     (vecCheck3 (s.cmLimit (clusterOf c)) ops, vecStatus 3)])

def execAudit (c : CoreId) (f : AuditF) (s : State) : Host.Outcome State Fault Refusal :=
  .next (s.runOp c (.vec (.audit f)) (auditCheck s c f) (auditEffect c f))

end Sys2Proof.Machine
end

