-- ==== Sys2Proof/Machine/Queues.lean ====
section
/-! DEFINITION. The engine queues (R63 to R65): an operation starts and leaves its queue, and an operation in flight
reaches its outcome. -/

namespace Sys2Proof.Machine

/-! ### What an engine checks when an operation reaches it (R65) -/

def matCheck (s : State) (c : Nat) : MatOp → Option Status
  | .mmul f => mmulCheck s c f
  | .mpreload f => mpreloadCheck s c f
  | .mread f => mreadCheck s c f
  | .npred f => npredCheck s c f

def vectorCheck (s : State) (c : Nat) : VecOp → Option Status
  | .bin _ f => elemCheck s c f.com anyFormat [f.a, f.b] f.dst
  | .un _ f => elemCheck s c f.com anyFormat [f.a] f.dst
  | .fma f => elemCheck s c f.com anyFormat [f.a, f.b, f.c] f.dst
  | .sel f => selCheck s c f
  | .cmp _ f => cmpCheck s c f
  | .int _ f => elemCheck s c f.com isIntFormat [f.a, f.b] f.dst
  | .cvt f => cvtCheck s c f
  | .curve f => curveCheck s c f
  | .curveLoad f => curveLoadCheck s c f
  | .red f => redCheck s c f
  | .softmax f => softmaxCheck s c f
  | .gather f => gatherCheck s c f false false
  | .scatter f => gatherCheck s c f true false
  | .scatterAdd f => gatherCheck s c f true true
  | .accRd f => accCheck s c f true
  | .accWr f => accCheck s c f false
  | .norm f => normCheck s c f
  | .gradQuant f => gradCheck s c f
  | .audit f => auditCheck s c f

/-- BUF_GET's checks are the buffer pool manager's once its result address stands (R276). -/
def dmaOpCheck (s : State) (c : Nat) : DmaOp → Option Status
  | .copy f => dmaCheck s c f
  | .put f => putCheck s c f false
  | .reducePut f => putCheck s c f true
  | .get f => getCheck s c f
  | .atomic f => atomicCheck s c f
  | .flagSet f => remoteFlagCheck f
  | .stashPut f => stashPutCheck s c f
  | .stashGet f => stashGetCheck s c f
  | .stashDrop key => stashDropCheck s c key
  | .route f => routeCheck s c f
  | .routeGrad f => routeGradCheck s c f
  | .xsend f => xsendCheck s c f
  | .xrecvArm f => xrecvCheck s c f
  | .visitClear id => visitClearCheck s c id
  | .bufGet f => bufAddrCheck s c f
  | .bufRef f => poolRefCheck s ((s.ctxOfCore c).getD 16) f.handle f.n false
  | .bufPut f => poolRefCheck s ((s.ctxOfCore c).getD 16) f.handle f.n true
  | .update f => updateStartCheck s c f
  | .shardStage f => shardStageCheck s c f
  | .collStart f => collCheck s c f false
  | .beacon f => collCheck s c f true
  | .epochFence f => epochFenceCheck s c f
  | .epochSwitch _ => epochSwitchCheck s c

def syncCheck (s : State) (c : Nat) : SyncOp → Option Status
  | .flagAdd _ inc => flagAddCheck inc
  | .flagRead _ addr => flagReadCheck addr
  | .glintArm f => glintArmCheck s c f
  | .glintClose slot => glintCloseCheck s c slot
  | .glintScale slot format reg => glintScaleCheck s c slot format reg
  | _ => none

def opCheck (s : State) (c : Nat) : Op → Option Status
  | .mat o => matCheck s c o
  | .vec o => vectorCheck s c o
  | .dma o => dmaOpCheck s c o
  | .sync o => syncCheck s c o

/-! ### OPERATION_START -/

/-- Whether the entry at the head of queue q of core c starts now: the context runs or stands stopped with its queued
operations running out (R65), and is not being pre-empted; the wait is met; a place in flight and the agent are free. -/
def State.canStart (s : State) (c : Nat) (q : QueueId) (e : QEntry) : Bool :=
  let u := s.core c
  (match s.ctxOfCore c with
    | none => false
    | some x => ((s.ctx x).state == .running || (s.ctx x).state == .stopped) && (s.ctx x).preempt.isNone) &&
  !s.ras.fatal && (u.power == .idle) && e.result.isNone &&
  (match e.wait with | none => true | some w => s.waitMet (clusterOf c) w) &&
  decide ((u.inFlight q).length < inFlightSize q) && s.agentRoom c e.op

/-- An operation whose predecessors in an in-order engine are still without an outcome is checked when its own effect
takes place. -/
def Core.engineClear (u : Core) (q : QueueId) : Bool := (q == .dma) || (u.inFlight q).all (fun e => e.result.isSome)

/-- What an agent notes of an operation that starts: its place at a Pocket entry, at the router unit, or on an
update engine's list. -/
def State.noteStart (s : State) (c : Nat) (e : QEntry) : State :=
  match e.op with
  | .dma (.stashGet f) =>
    s.modCluster (clusterOf c) (fun u => { u with pocket := u.pocket.reached f.key ⟨c, e.pos, true⟩ })
  | .dma (.stashDrop key) =>
    s.modCluster (clusterOf c) (fun u => { u with pocket := u.pocket.reached key ⟨c, e.pos, false⟩ })
  | .dma (.route _) | .dma (.routeGrad _) =>
    s.modCluster (clusterOf c) (fun u => { u with rtrPending := s.atRouter (clusterOf c) ++ [(c, e.pos)] })
  | .dma (.update f) => s.modGroup f.engine (fun g => { g with updPending := g.updPending ++ [(c, e.pos)] })
  | _ => s

/-- A refused REF or PUT counts in its pool (R280). -/
def State.noteRefused (s : State) (o : Op) (st : Status) : State :=
  match o with
  | .dma (.bufRef f) | .dma (.bufPut f) => s.modPool (handlePool f.handle) (fun p => p.failed st)
  | _ => s

/-- Whether an entry is an UPDATE that suspended in its phases: it passed its checks before (R302). -/
def QEntry.resumedUpdate (e : QEntry) : Bool :=
  e.progress != 0 && (match e.op with
    | .dma (.update _) => true
    | _ => false)

/-- The head of queue q of core c starts, or its engine refuses it. -/
def State.startHead (s : State) (c : Nat) (q : QueueId) (e : QEntry) (rest : List QEntry) : State :=
  let t := s.modCore c (fun u => { u.setQueue q rest with stallReported := false, stallDue := none })
  match (if (s.core c).engineClear q && !e.resumedUpdate then opCheck s c e.op else none) with
  | some st => (t.noteRefused e.op st).opRefused c (queueCode q) e.pos st
  | none => (t.modCore c (fun u => u.setInFlight q (u.inFlight q ++ [e]))).noteStart c e

/-- OPERATION_START (R63, R64, R65). -/
def State.opStart (s : State) (c : Nat) (q : QueueId) : State :=
  match (s.core c).queue q with
  | [] => s
  | e :: rest => if s.canStart c q e then s.startHead c q e rest else s

def execOperationStart (c : CoreId) (q : QueueId) (s : State) : Host.Outcome State Fault Refusal := .next (s.opStart c q)

/-! ### OPERATION_END -/

/-- The outcome of an entry in flight: the recorded one; SEED_SET and STEP_SET end done at once (R70). -/
def QEntry.outcome (e : QEntry) : Option Outc :=
  match e.op with
  | .sync (.seedSet _) | .sync (.stepSet _) => some .done
  | _ => e.result

/-- Whether the entry at a place may end: the DMA queue ends in any order, the others in issue order (Table 3-2). -/
def endOrder (q : QueueId) (index : Nat) : Bool := (q == .dma) || (index == 0)

/-- The signal of an operation that ended done, and what waits on the flag of a PERMUTE (R64, R386). -/
def State.signalled (s : State) (c : Nat) (e : QEntry) : State :=
  match e.signal with
  | none => s
  | some g => (s.addFlag (clusterOf c) g.flag g.inc).flagsMoved (clusterOf c)

/-- OPERATION_END (R64, R65): the entry leaves its place; done signals, refused stops the core. -/
def State.opEnd (s : State) (c : Nat) (q : QueueId) (index : Nat) : State :=
  match ((s.core c).inFlight q)[index]? with
  | none => s
  | some e =>
    if !endOrder q index then s
    else match e.outcome with
      | none => s
      | some r =>
        let t := s.modCore c (fun u => u.setInFlight q ((u.inFlight q).eraseIdx index))
        match r with
        | .done => t.signalled c e
        | .refused st => t.opRefused c (queueCode q) e.pos st
        | .faulted _ => t

def execOperationEnd (c : CoreId) (q : QueueId) (index : Nat) (s : State) : Host.Outcome State Fault Refusal :=
  .next (s.opEnd c q index)

/-! ### FLAG_ADD and FLAG_SET (R69, R70) -/

/-- FLAG_ADD, and what waits on the flag of a PERMUTE (R386). -/
def execFlagAdd (c : CoreId) (flag : BitVec 16) (inc : Nat) (s : State) : Host.Outcome State Fault Refusal :=
  .next (s.runOp c (.sync (.flagAdd flag inc)) (flagAddCheck inc) (fun _ t => ((t.addFlag (clusterOf c) flag inc).flagsMoved (clusterOf c), .done)))

/-- FLAG_SET. -/
def execFlagSet (c : CoreId) (flag : BitVec 16) (value : Word32) (s : State) : Host.Outcome State Fault Refusal :=
  .next (s.runOp c (.sync (.flagSet flag value)) none (fun _ t => ((t.setFlag (clusterOf c) flag value).flagsMoved (clusterOf c), .done)))

end Sys2Proof.Machine
end

