-- ==== Sys2Proof/Machine/RunControl.lean ====
section
/-! DEFINITION. Run control and pre-emption (spec/17_firmware_mailbox_interface.md Table 17-6, R422;
spec/10_translation_faults_and_preemption.md R258, R265 to R269; spec/03_cores_queues_and_programs.md R62, R66, R81 to R83). -/

namespace Sys2Proof.Machine

/-! ### RUN_START (R62, R66, R81, R263) -/

/-- A core at context start: its context-start state, the stall configuration of Lantern's copy (R442), the stop count set
for it, and its program running where the code map gives it one. -/
def State.startCore (s : State) (x c : Nat) : State :=
  let v := s.ctx x
  s.modCore c (fun u => { u.fresh with
    stallCfg := sget 0x80000032#32 s.lantern.stallCopy c
    stopCount := v.stopFor (v.logicalCore c)
    scalar := if 0 < s.segLen c then .running else .ended })

/-- A cluster at context start: counters that a context start clears (R163, R209, R307, R391), no entry in the Pocket. -/
def Cluster.started (u : Cluster) : Cluster :=
  { u with flags := [], glint := [], routes := [], rtrPending := [], xsends := [], xrecvs := [], colls := [], carries := []
           pocket := { level := withFld 0 44 32 (fld u.pocket.level 44 32) }
           rtrChoice := 0, rtrLoss := 0, rtrAux := 0, rtrToken := 0, trnLate := 0, colStat := 0 }

/-- Starts the program of context x. -/
def State.runStart (s : State) (x : Nat) : State :=
  let v := s.ctx x
  let t := s.wakeCtx x
  let t := v.clusters.foldl (fun u k => u.modCluster k Cluster.started) t
  let t := v.cores.foldl (fun u c => u.startCore x c) t
  let t := ((v.program.map (·.flagInit)).getD []).foldl (fun (u : State) (f : BitVec 16 × Nat × Word32) =>
    match v.physical f.2.1 with
    | some k => u.setFlag k f.1 f.2.2
    | none => u) t
  t.modCtx x (fun w => { w with state := .running, faultReg := 0, faults := [], hardStop := false, stopHalted := false
                                seed := 0, stepNo := 0, nonfinite := false, fence := none, recorded := [], nakAll := false })

/-- RUN_START. -/
def execRunStart (q : Req) (ctx : Nat) (s : State) : Host.Outcome State Fault Refusal :=
  let v := s.ctx ctx
  let own := firstFail [(v.state != .loaded || v.program.isNone, ctxStatusCode 2)]
  .next (s.command (.runStart q ctx) q 0x31 8 (some ctx) own (fun t => (t.runStart ctx, stDone, [])))

/-! ### RUN_RESUME_FAULT (R258) -/

/-- A held operation may start again from its progress. -/
def QEntry.released (e : QEntry) : QEntry := { e with result := none }

/-- The operations of context x that a resumable fault held at the heads of their queues may start again. -/
def State.releaseHeld (s : State) (x : Nat) : State :=
  (s.ctx x).cores.foldl (fun t c =>
    if (t.core c).dmaQ.any (fun e => e.result.isSome) then
      t.modCore c (fun u => { u with dmaQ := u.dmaQ.map QEntry.released })
    else t) s

/-- A context that was stopped by resumable faults alone, as far as Lantern has recorded. -/
def Ctx.stoppedResumably (v : Ctx) : Bool :=
  v.state == .stopped && !v.hardStop && !v.stopHalted && !v.faults.isEmpty

/-- Every recorded fault is a NOT_MAPPED fault whose address is mapped now. -/
def State.faultsMapped (s : State) (x : Nat) : Bool :=
  (s.ctx x).faults.all (fun f => f.kind == kNotMapped && s.mapped x f.va)

/-- The context goes on. -/
def State.restart (s : State) (x : Nat) : State :=
  ((s.releaseHeld x).modCtx x (fun v => { v with state := .running, faults := [] })).resumeRecvs x

/-- RUN_RESUME_FAULT. -/
def execRunResumeFault (q : Req) (ctx : Nat) (s : State) : Host.Outcome State Fault Refusal :=
  let own := firstFail [(!((s.ctx ctx).stoppedResumably && s.faultsMapped ctx), genPrecond)]
  .next (s.command (.runResumeFault q ctx) q 0x32 8 (some ctx) own (fun t => ((t.wakeCtx ctx).restart ctx, stDone, [])))

/-! ### BISECT_STOP (R81) -/

/-- BISECT_STOP: a count for one logical core, or for the context. -/
def execBisectStop (q : Req) (ctx core count : Nat) (s : State) : Host.Outcome State Fault Refusal :=
  let v := s.ctx ctx
  let own := firstFail [
    (v.state != .loaded, ctxStatusCode 2),
    (decide (core ≠ 0xFFFF ∧ 16 * v.clusters.length ≤ core) || decide (2 ^ 48 ≤ count), genRange)]
  .next (s.command (.bisectStop q ctx core count) q 0x35 16 (some ctx) own (fun t =>
    (t.modCtx ctx (fun w => if core = 0xFFFF then { w with stopCount := count }
      else { w with coreStops := sset 0 w.coreStops core count }), stDone, [])))

/-! ### Pre-emption (R265 to R268) -/

/-- The beginning of a command that is answered later: refused now by its checks, or under way. -/
def State.begin (s : State) (c : Instr) (q : Req) (code len : Nat) (x : Option Nat) (own : Option Status) (eff : State → State) : State :=
  match cmdInfo code with
  | none => s
  | some i =>
    if !s.lantern.running then s
    else if s.mustWait q.session x then s.hold ⟨c, q.session, x, none⟩
    else match (s.commonCheck q i len x).or own with
    | some st => s.respond q.session code st []
    | none => eff s

/-- Whether an operation's host DMA parts are all unissued, nothing of their chunk has been carried out, and no message of it
exists: it suspends where the chunk begins (Table 10-9). The parts of a GET's answer are data that has arrived. -/
def State.opUnbegun (s : State) (x c : Nat) (e : QEntry) : Bool :=
  let mine (h : HostChunk) : Bool := h.core == c && h.pos == e.pos && h.ctx == x
  s.hp.chunks.any mine && s.hp.chunks.all (fun h => !mine h || (!h.issued && (h.collects || h.placed == 0))) &&
    (match e.op with | .dma (.get _) => false | .dma (.atomic _) => false | _ => true)

/-- Whether an operation that another unit carries out must come to rest before the context does: a BUF_GET finishes (Table 11-8),
an UPDATE suspends at a chunk boundary (R302). -/
def mustRest (o : Op) : Bool := match o with | .dma (.bufGet _) => true | .dma (.update _) => true | _ => false

/-- Whether an operation in flight in core c's DMA engine is under way in another unit: in transport, in the host port, armed or
sending in the router, in the collective engine, or fencing. -/
def State.underWay (s : State) (x c : Nat) (e : QEntry) : Bool :=
  let u := s.cluster (clusterOf c)
  (s.opSent x c e.pos && !s.opUnbegun x c e) || e.result.isSome ||
  (match e.op with
    | .dma (.xsend _) => u.xsends.any (fun z => z.core == c && z.pos == e.pos)
    | .dma (.xrecvArm f) => u.xrecvs.any (fun v => v.core == c && v.f == f)
    | .dma (.collStart f) => u.colls.any (fun z => z.core == c && z.f == f && !z.beacon)
    | .dma (.beacon f) => u.colls.any (fun z => z.core == c && z.f == f && z.beacon)
    | .dma (.bufGet _) => true
    | .dma (.update f) => (s.group f.engine).updating.any (fun h => h.core == c && h.pos == e.pos)
    | .dma (.epochFence f) => !f.cancel && ((s.ctx x).fence.map (·.1)) == some c
    | _ => false)

/-- The operations of core c's DMA engine that another unit does not carry out go back to the head of the queue (Table 10-9):
copies with their progress, messages not yet formed, ROUTE and ROUTE_GRAD to be issued whole. A BUF_GET finishes before its
queue stops (Table 11-8). -/
def State.requeue (s : State) (x c : Nat) : State :=
  let u := s.core c
  let back := u.dmaF.filter (fun e => !s.underWay x c e)
  if back.isEmpty then s
  else
    let t := s.modCore c (fun v => { v with
      dmaF := v.dmaF.filter (fun e => s.underWay x c e), dmaQ := back ++ v.dmaQ })
    let t := { t with hp := { t.hp with
      chunks := t.hp.chunks.filter (fun h => !(h.core == c && h.ctx == x && back.any (fun e => e.pos == h.pos))) } }
    back.foldl (fun w e => match e.op with
      | .dma (.stashGet _) | .dma (.stashDrop _) => w.modCluster (clusterOf c) (fun k => { k with pocket := k.pocket.left (c, e.pos) })
      | .dma (.stashPut f) => w.modCluster (clusterOf c) (fun k => { k with pocket := { k.pocket with
          waiting := removeFirst (· == (c, f)) k.pocket.waiting } })
      | .dma (.update f) => w.modGroup f.engine (fun g => g.leave c e.pos)
      | _ => w) t

/-- Step 2 of Table 10-10: issue stops, transport NAKs the context's arrivals, and what can be put back at once is. -/
def State.beginPreempt (s : State) (x session : Nat) (evict : Bool) (drainMs : Nat) : State :=
  let ms := if drainMs = 0 then 10 else drainMs
  let t := (s.wakeCtx x).modCtx x (fun v => { v with
    nakAll := true, preempt := some ⟨evict, s.now + ms * 1000000, session, false⟩ })
  let t := t.xpt.inbound.foldl (fun u e => match e.2 with
    | some m => if m.ctx = x then u.freeInbound e.1 m else u
    | none => u) t
  ((t.ctx x).cores.foldl (fun u c => u.requeue x c) t).pauseRecvs x

/-- PREEMPT in one of its modes. -/
def State.preempt (s : State) (c : Instr) (q : Req) (x drainMs : Nat) (evict : Bool) : State :=
  let v := s.ctx x
  let own := firstFail [
    (decide (1000 < drainMs), genRange),
    (!(v.state == .running || v.stoppedResumably) || v.hardStop, preStatus 3),
    (evict && v.saveClusters == 0, preStatus 1)]
  s.begin c q 0x33 8 (some x) own (fun t => t.beginPreempt x q.session evict drainMs)

def execPreemptSuspend (q : Req) (ctx drainMs : Nat) (s : State) : Host.Outcome State Fault Refusal :=
  .next (s.preempt (.preemptSuspend q ctx drainMs) q ctx drainMs false)
def execPreemptEvict (q : Req) (ctx drainMs : Nat) (s : State) : Host.Outcome State Fault Refusal :=
  .next (s.preempt (.preemptEvict q ctx drainMs) q ctx drainMs true)

/-- The engine class of Table 10-9 that an ended DMA operation still occupies. -/
def drainBit (o : Op) : Nat :=
  match o with
  | .dma (.route _) => 5 | .dma (.routeGrad _) => 5 | .dma (.xsend _) => 6 | .dma (.xrecvArm _) => 7
  | .dma (.collStart _) => 8 | .dma (.beacon _) => 8 | .dma (.update _) => 9 | _ => 4

/-- The engine classes of context x not at rest, one bit for each row of Table 10-9. -/
def State.drainMask (s : State) (x : Nat) : Nat :=
  let cs := (s.ctx x).cores
  let sending := s.xpt.outbound.any (fun e => match e.2 with
    | some m => m.msg.ctx == x && !m.ended && (m.msg.cells s.node e.1 m.gen.toNat).any (fun c => s.xpt.injected.contains c)
    | none => false)
  bitMask 12 (fun b =>
    match b with
    | 1 => cs.any (fun c => !(s.core c).matrixF.isEmpty)
    | 2 => cs.any (fun c => !(s.core c).vectorF.isEmpty)
    | 3 => cs.any (fun c => (s.core c).syncF.any (fun e => e.result.isSome || (match e.op with
        | .sync (.flagWait _ _) => false
        | _ => true)))
    | 10 => s.hp.chunks.any (fun h => h.ctx == x)
    | 11 => sending
    | _ => cs.any (fun c => (s.core c).dmaF.any (fun e => drainBit e.op == b && (e.result.isSome || mustRest e.op || !s.underWay x c e))))

/-- A pre-emption that ends faulted: the context is STOPPED as a contained error. -/
def State.preemptFaulted (s : State) (x : Nat) (p : Preempt) : State :=
  (s.modCtx x (fun v => { v with state := .stopped, hardStop := true, preempt := none, nakAll := false })).respond
    p.session 0x33 fltDrain []

/-- PREEMPT_DRAINED: every engine of the context is at rest. -/
def execPreemptDrained (x : CtxId) (s : State) : Host.Outcome State Fault Refusal :=
  .next (match (s.ctx x).preempt with
    | none => s
    | some p =>
      if p.saving ∨ s.drainMask x ≠ 0 then s
      else if (s.ctx x).hardStop then s.preemptFaulted x p
      else if p.evict then s.modCtx x (fun v => { v with preempt := some { p with saving := true } })
      else (s.modCtx x (fun v => { v with state := .suspended, preempt := none })).respond p.session 0x33 stDone [])

/-- PREEMPT_DRAIN_TIMEOUT: the drain limit has passed with engines not at rest (cause DRAIN_TIMEOUT). -/
def execPreemptDrainTimeout (x : CtxId) (s : State) : Host.Outcome State Fault Refusal :=
  .next (match (s.ctx x).preempt with
    | none => s
    | some p =>
      if p.saving ∨ s.now < p.deadline ∨ s.drainMask x = 0 then s
      else (s.contained (some x.val) { cls := 2, cause := 0x2010#16, status := fltDrain, detail := leBytes 2 (s.drainMask x) }).preemptFaulted
        x p)

/-- A core as the save area holds it: program and translation buffers are not saved (R265). -/
def Core.toSave (u : Core) : Core := { u with fetched := [], prog := {}, tlb := [], sramEcc := 0, pwrStat := 0, power := .idle }

/-- A core restored onto the physical core that now stands for it. -/
def Core.onto (u phys : Core) : Core := { u with tlb := phys.tlb, sramEcc := phys.sramEcc, pwrStat := phys.pwrStat, power := phys.power }

/-- A cluster's units renumbered by a map of core numbers. -/
def Cluster.renumber (u : Cluster) (g : Nat → Nat) : Cluster :=
  { u with rtrPending := u.rtrPending.map (fun p => (g p.1, p.2)), xsends := u.xsends.map (fun z => { z with core := g z.core }), xrecvs := u.xrecvs.map (fun v => { v with core := g v.core })
           colls := u.colls.map (fun z => { z with core := g z.core })
           pocket := { u.pocket with
             waiting := u.pocket.waiting.map (fun (w : Nat × StashPutF) => (g w.1, w.2))
             entries := u.pocket.entries.map (fun e => { e with users := e.users.map (fun z => { z with core := g z.core }) }) } }

/-- A cluster as the save area holds it; its cores are numbered from 0. -/
def Cluster.toSave (u : Cluster) : Cluster :=
  { (u.renumber (· % 16)) with tlb := [], banks := [], sramEcc := 0, walkStat := 0, power := .on, veil := false, offAt := 0, dozeStat := 0
                               offStat := 0, withheld := false }

/-- A cluster restored onto a physical cluster. -/
def Cluster.onto (u phys : Cluster) (k : Nat) : Cluster :=
  { (u.renumber (16 * k + ·)) with
    tlb := phys.tlb, sramEcc := phys.sramEcc, walkStat := phys.walkStat, power := phys.power, veil := phys.veil
    offAt := phys.offAt, dozeStat := phys.dozeStat, offStat := phys.offStat, withheld := phys.withheld }

/-- The saving engine reads every word of a core's memories: errors are corrected or become poison; an uncorrectable word of
data memory is a core fault (Table 9-1). -/
def State.settleCore (s : State) (c : Nat) : State :=
  let t := (List.range 8).foldl (fun u a => u.accSettle c a .u (fun _ => true)) (s.ocSettle c [(0, ocSize)])
  match t.dmBroken c [(0, dmSize)] with
  | none => t.dmSettle c [(0, dmSize)]
  | some w => (t.dmSettle c [(0, dmSize)]).coreFault c 0x2005#16 0 (leBytes 2 c ++ leBytes 4 (8 * w))

/-- It reads every word of a cluster's memories. -/
def State.settleAll (s : State) (k : Nat) : State :=
  (List.range 16).foldl (fun t i => t.settleCore (16 * k + i)) (s.cmSettle k [(0, cmSize)])

/-- Lines of the save area of one cluster. -/
def saveLines : Nat := savePerCluster / 64

/-- Poisoned 64-byte lines of the clusters of a context: cluster (logical), memory (core, or 16 for cluster memory), line. -/
def State.poisonedLines (s : State) (x : Nat) : List (Nat × Nat × Nat) :=
  let lines (m : Sram) : List Nat := m.poison.filterMap (fun e => if e.2 then some e.1 else none)
  (s.ctx x).clusters.zipIdx.flatMap (fun z =>
    (lines (s.cluster z.1).cm).map (fun l => (z.2, 16, l)) ++
    (List.range 16).flatMap (fun i => (lines (s.core (16 * z.1 + i)).oc).map (fun l => (z.2, i, l))))

/-- The line of a save area that holds a line of SRAM: the spec fixes no layout within a cluster's 51 MiB (R265). -/
def saveLine (z : Nat × Nat × Nat) : Nat := z.1 * saveLines + Config.savePlace z.2.1 z.2.2 % saveLines

/-- Poison markers at lines of the save area (R247). -/
def State.markSaved (s : State) (x : Nat) (l : List Nat) : State :=
  l.foldl (fun t n => match t.walkTables (t.ctx x).root (saveBase + 64 * n) with
    | .ok f => t.writePa (f.pa (saveBase + 64 * n)) ((t.peekLine (f.pa (saveBase + 64 * n) / 64)).1) (fun _ => true)
    | .error _ => t) s

/-- The save area after a save: the spec fixes no layout, so its bytes are free values (R265); a poisoned line is written with
a poison marker (R247). -/
def State.fillSaveArea (s : State) (x : Nat) : State :=
  ((s.lanternWrite x saveBase (s.freeBytes ((s.ctx x).saveClusters * savePerCluster))).drawn).markSaved x
    ((s.poisonedLines x).map saveLine)

/-- Whether a line of the save area holds a poison marker. -/
def State.savedPoison (s : State) (x n : Nat) : Bool :=
  match s.walkTables (s.ctx x).root (saveBase + 64 * n) with
  | .ok f => s.mem.isPoisoned (f.pa (saveBase + 64 * n) / 64)
  | .error _ => false

/-- An SRAM as it is restored: a line read from a marker is poisoned (R225, R247). -/
def Sram.restored (m : Sram) (lines : Nat) (marked : Nat → Bool) : Sram :=
  { m with poison := ((List.range lines).filter marked).foldl (fun p l => sset false p l true) m.poison }

/-- Whether the save area of context x holds any marker. -/
def State.anySavedPoison (s : State) (x : Nat) : Bool :=
  (List.range ((s.ctx x).saveClusters * saveLines / 1024)).any (fun p =>
    match s.walkTables (s.ctx x).root (saveBase + 65536 * p) with
    | .ok f => s.mem.delta.any (fun e => e.2 == poisonDelta && decide (e.1 / 1024 = f.pa (saveBase + 65536 * p) / 65536))
    | .error _ => false)

/-- Poison of the save area in the restored memories of context x's clusters. -/
def State.poisonRestored (s : State) (x : Nat) : State :=
  if s.mem.delta = [] ∨ !s.anySavedPoison x then s
  else (s.ctx x).clusters.zipIdx.foldl (fun t z =>
    (List.range 16).foldl (fun u i => u.modCore (16 * z.1 + i) (fun v =>
      { v with oc := v.oc.restored (ocSize / 64) (fun l => s.savedPoison x (saveLine (z.2, i, l))) }))
      (t.modCluster z.1 (fun v => { v with cm := v.cm.restored (cmSize / 64) (fun l => s.savedPoison x (saveLine (z.2, 16, l))) }))) s

/-- A core number of context x's logical clusters, for a fence that outlives an eviction. -/
def fenceTo (g : Nat → Nat) (f : Option (Nat × Nat)) : Option (Nat × Nat) := f.map (fun (p : Nat × Nat) => (g p.1, p.2))

/-- EVICT_SAVE_DONE: the save has ended; the clusters are cleared and freed, the context is EVICTED. An uncorrectable word of
data memory that the save met makes the pre-emption end faulted (Table 10-11). -/
def State.evicted (s0 : State) (x : Nat) (p : Preempt) : State :=
  let v := s0.ctx x
  let s := v.clusters.foldl State.settleAll s0
  if (s.ctx x).hardStop then s.preemptFaulted x p
  else
    let cores := v.cores.map (fun c => (s.core c).toSave)
    let clusters := v.clusters.map (fun k => (s.cluster k).toSave)
    let t := (s.fillSaveArea x).dropTlb x (fun _ => true)
    let t := v.clusters.foldl State.clearCluster t
    let t := t.modCtx x (fun w => { w with
      state := .evicted, preempt := none, saved := cores, savedClusters := clusters, hadClusters := v.clusters.length, clusters := []
      fence := fenceTo v.logicalCore v.fence })
    t.respond p.session 0x33 stDone []

def execEvictSaveDone (x : CtxId) (s : State) : Host.Outcome State Fault Refusal :=
  .next (match (s.ctx x).preempt with
    | none => s
    | some p => if p.saving then s.evicted x p else s)

/-! ### RESUME -/

/-- Recorded completions are applied, the NAKs stop, the engines restart; a faulting address that is still unmapped leaves the
context STOPPED (Table 10-11). -/
def State.resumed (s : State) (x : Nat) : State :=
  let v := s.ctx x
  let ok := s.faultsMapped x
  let t := s.modCtx x (fun w => { w with state := if ok then .running else .stopped, recorded := [] })
  let t := v.recorded.foldl (fun (u : State) (r : MsgOwner × BitVec 96 × MsgEnd) => u.applyEnd x r.1 r.2.1 r.2.2) t
  let t := t.modCtx x (fun w => { w with nakAll := false })
  let t := if ok then (t.releaseHeld x).modCtx x (fun w => { w with faults := [] }) else t
  if (t.ctx x).state = .running then t.resumeRecvs x else t

/-- The response of RESUME. -/
def State.resumePayload (s : State) (x : Nat) : List Byte := leFields [(2, (s.ctx x).clusterMap), (6, 0)]

/-- RESUME: at once for a suspended context; an evicted one first takes free clusters and has its state restored. -/
def execResume (q : Req) (ctx : Nat) (s : State) : Host.Outcome State Fault Refusal :=
  let v := s.ctx ctx
  let own := firstFail [
    (v.state != .suspended && (v.state != .evicted || v.fromReset), preStatus 3),
    (v.state == .evicted && decide (s.freeClusters.length < v.hadClusters), preStatus 2)]
  .next (if v.state = .evicted then
      s.begin (.resume q ctx) q 0x34 8 (some ctx) own (fun t =>
        let c := t.chooseClusters v.hadClusters
        (c.2.modCtx ctx (fun w => { w with clusters := c.1, restoring := some q.session })).wakeCtx ctx)
    else s.command (.resume q ctx) q 0x34 8 (some ctx) own (fun t =>
      let u := (t.wakeCtx ctx).resumed ctx
      (u, stDone, u.resumePayload ctx)))

/-- The saved state of context x in the clusters it has taken. -/
def State.restored (s : State) (x : Nat) : State :=
  let v := s.ctx x
  let t := (v.clusters.zip v.savedClusters).foldl (fun (u : State) (z : Nat × Cluster) =>
    u.modCluster z.1 (fun p => z.2.onto p z.1)) s
  let t := (v.cores.zip v.saved).foldl (fun (u : State) (z : Nat × Core) => u.modCore z.1 (fun p => z.2.onto p)) t
  let t := t.poisonRestored x
  t.modCtx x (fun w => { w with
    saved := [], savedClusters := [], restoring := none, fence := fenceTo (fun l => (v.physicalCore l).getD 0) v.fence })

def execEvictRestoreDone (x : CtxId) (s : State) : Host.Outcome State Fault Refusal :=
  .next (match (s.ctx x).restoring with
    | none => s
    | some n =>
      let t := (s.restored x).resumed x
      t.respond n 0x34 stDone (t.resumePayload x))

/-! ### DEBUG_READ (R83, R422) -/

/-- Bytes of the accumulator memory of a core: 8 slots of 64 KiB, each element as stored. -/
def Core.accByte (u : Core) (a : Nat) : Byte × Bool :=
  let t := u.slot (a / 65536)
  (BitVec.ofNat 8 ((sget 0 t.elems (a % 65536 / 4)).toNat / 256 ^ (a % 4)), t.poison)

/-- Size of the memory that a kind of DEBUG_READ names. The spec fixes no layout for registers, loop state and queue
contents beyond the 64 KiB of R265. -/
def debugSize (kind : Nat) : Nat :=
  match kind with
  | 1 => 65536 | 2 => dmSize | 3 => 65536 | 4 => 65536 | 5 => 1280 | 6 => ocSize | 7 => 524288 | 8 => cmSize | _ => 0

/-- The special registers of a scalar processor (R72, R62): loop_remaining0 to 3, CORE_BUNDLE_COUNT and the engines' flag and
count registers. -/
def Core.specials (u : Core) : List Word64 :=
  (List.range 4).map (levelCount u.loops) ++ [u.bundleCount, u.mtxFlags.zeroExtend 64, u.mtxQuant, u.vecFlags.zeroExtend 64,
    u.vecEvent, u.sprStat, u.nprClass, u.nprAudit]

/-- What DEBUG_READ finds of an entry of a queue. -/
def QEntry.shown (e : QEntry) : Op × Option FlagWait × Option FlagSignal × Nat × Nat := (e.op, e.wait, e.signal, e.pos, e.progress)

/-- One byte of what DEBUG_READ reads, with its poison: scalar registers lie 8 bytes each from offset 0 and the special registers
behind them, flags are the core's 64 and the cluster's 256. The layout of special registers, loop state and queue contents is
open: each byte is a free value over what is held (log entry 46). -/
def State.debugByte (s : State) (kind k c a : Nat) : Byte × Bool :=
  let u := s.core c
  match kind with
  | 1 => (if a < 256 then BitVec.ofNat 8 ((u.sreg (a / 8)).toNat / 256 ^ (a % 8)) else Config.debugSpecial u.specials (a - 256), false)
  | 2 => (u.dm.byte a, false)
  | 3 => (Config.debugLoops (u.loops.map (fun l => (l.remaining, l.first, l.last))) a, false)
  | 4 => (Config.debugQueues (allQueues.map (fun q => (u.inFlight q ++ u.queue q).map QEntry.shown)) a, false)
  | 5 => (BitVec.ofNat 8 ((if a < 256 then sget 0 u.flags (a / 4) else sget 0 (s.cluster k).flags ((a - 256) / 4)).toNat / 256 ^ (a % 4)), false)
  | 6 => (u.oc.byte a, u.oc.linePoison (a / 64))
  | 7 => u.accByte a
  | 8 => ((s.cluster k).cm.byte a, (s.cluster k).cm.linePoison (a / 64))
  | _ => (0, false)

/-- The words that DEBUG_READ reads, decoded as any read is (R224). -/
def State.debugSettle (s : State) (kind k c a n : Nat) : State :=
  match kind with
  | 2 => match s.dmBroken c [(a, n)] with
    | none => s.dmSettle c [(a, n)]
    | some w => (s.dmSettle c [(a, n)]).coreFault c 0x2005#16 0 (leBytes 2 c ++ leBytes 4 (8 * w))
  | 6 => s.ocSettle c [(a, n)]
  | 7 => (List.range 8).foldl (fun t i => t.accSettle c i .u (fun w =>
      decide (8 * (slotWords * i + w) < a + n ∧ a < 8 * (slotWords * i + w) + 8))) s
  | 8 => s.cmSettle k [(a, n)]
  | _ => s

/-- What DEBUG_READ answers: the mask of poisoned lines and the bytes. -/
def State.debugAnswer (s : State) (kind k c offset len : Nat) : State × List Byte :=
  let t := (if kind = 8 then s.wakeCluster k else s.wakeCore c).debugSettle kind k c offset len
  let bs := (List.range len).map (fun i => t.debugByte kind k c (offset + i))
  (t, leBytes 24 (lineMask offset bs) ++ bs.map (·.1))

/-- DEBUG_READ. -/
def execDebugRead (q : Req) (ctx kind cluster core offset len : Nat) (s : State) : Host.Outcome State Fault Refusal :=
  let v := s.ctx ctx
  let k := (v.physical cluster).getD 0
  let own := firstFail [
    (!decide (1 ≤ len ∧ len ≤ 8168), genRange), (!s.lantern.debug, genDebug),
    (v.state != .stopped || !s.quiescent ctx, ctxStatusCode 2),
    (!decide (1 ≤ kind ∧ kind ≤ 8) || decide (v.clusters.length ≤ cluster) || (kind != 8 && decide (16 ≤ core)) ||
      decide (debugSize kind < offset + len), genRange)]
  .next (s.command (.debugRead q ctx kind cluster core offset len) q 0x36 16 (some ctx) own (fun u =>
    let r := u.debugAnswer kind k (16 * k + core % 16) offset len
    (r.1, stDone, r.2)))

end Sys2Proof.Machine
end

