-- ==== Sys2Proof/Machine/ShardCmds.lean ====
section
/-! DEFINITION. Training-state commands (spec/17_firmware_mailbox_interface.md Table 17-8, R425;
spec/12_training_state_and_updates.md R310, R311, R314): shard tables, export and import of shards. -/

namespace Sys2Proof.Machine

/-! ### SHARD_TABLE_LOAD and SHARD_RELEASE (R314) -/

/-- Whether the epoch record of a context is FENCED. -/
def State.fencedEpoch (s : State) (x : Nat) : Bool := ((s.epochRec x).map (·.fenced)).getD false

/-- SHARD_TABLE_LOAD: the table is held for EPOCH_SWITCH. -/
def execShardTableLoad (q : Req) (ctx region offset len : Nat) (io : FarIO) (s : State) : Host.Outcome State Fault Refusal :=
  let own := firstFail [(len % 256 != 0, genRange), (!s.fencedEpoch ctx, trnStatus 2)]
  .next (s.command (.shardTableLoad q ctx region offset len io) q 0x60 24 (some ctx) own (fun t =>
    match t.farRead region offset len io with
    | (u, .error _) => (u, fltTransfer, leFields [(4, 0), (4, 0)])
    | (u, .ok bs) =>
      let rs := parseShards bs
      let epoch : Word32 := BitVec.ofNat 32 (((u.epochRec ctx).map (·.epoch)).getD 0 + 1)
      let bufs := ((u.ctx ctx).program.map (·.buffers)).getD []
      if u.shardTableOk ctx bufs epoch rs then
        (u.modCtx ctx (fun v => { v with heldTable := some (rs.map (·.1)) }), stDone, leFields [(4, rs.length), (4, 0)])
      else (u, trnStatus 1, [])))

/-- SHARD_RELEASE. -/
def execShardRelease (q : Req) (ctx : Nat) (s : State) : Host.Outcome State Fault Refusal :=
  let own := firstFail [
    (match s.epochRec ctx with | none => true | some e => e.fenced || e.prevTable == 0, trnStatus 2)]
  .next (s.command (.shardRelease q ctx) q 0x61 8 (some ctx) own (fun t => match t.epochRec ctx with
    | none => (t, fltTransfer, [])
    | some e => match t.putEpoch ctx { e with prevTable := 0 } with
      | .error _ => (t, fltTransfer, [])
      | .ok u => (u, stDone, [])))

/-! ### Shards in logical order (R310) -/

/-- The components that a shard has (Table 12-1). -/
def ShardRec.hasComp (r : ShardRec) (n : Nat) : Bool :=
  match n with
  | 0 => true | 1 => true | 2 => r.algorithm == 0 | 3 => r.algorithm == 1 | 4 => true | 5 => true | 6 => true | _ => false

/-- Bytes of an element of a component. -/
def ShardRec.elemSize (r : ShardRec) (n : Nat) : Nat :=
  match n with | 0 => 4 | 1 => 2 | 2 => 4 | 4 => 1 | 5 => 2 | 6 => formatBytes r.workFormat | _ => 4

/-- Whether a component has block scales. -/
def ShardRec.isMs (r : ShardRec) (n : Nat) : Bool := n == 4 || (n == 6 && formatIsMs r.workFormat)

/-- Elements, blocks and slices of a region. -/
def ShardRec.slices (r : ShardRec) : Nat := extProduct r.lead
def ShardRec.elements (r : ShardRec) : Nat := r.slices * r.rows * r.cols
def ShardRec.blocks (r : ShardRec) : Nat := r.slices * ceilDiv r.rows 32 * ceilDiv r.cols 32

/-- Bytes of a component in a payload. -/
def ShardRec.compLen (r : ShardRec) (n : Nat) : Nat :=
  if n = 3 then 1024 * r.chunkCount else r.elements * r.elemSize n + (if r.isMs n then r.blocks else 0)

/-- Bytes of a payload with these components, below component n. -/
def ShardRec.payloadUpTo (r : ShardRec) (comps n : Nat) : Nat := sumTo n (fun i => if bitOf comps i then r.compLen i else 0)

/-- A component of an owned shard in memory; component 3 is none. -/
def ShardRec.comp (r : ShardRec) (slot n : Nat) : Option Comp :=
  match n with
  | 0 => some r.master | 1 => some (r.moment1 slot) | 2 => some (r.moment2 slot) | 4 => some r.gradient | 5 => some r.errorTerm
  | 6 => some r.working | _ => none

/-- Chunk of a slice, row and column. -/
def ShardRec.chunkAt (r : ShardRec) (slice row col : Nat) : Nat :=
  (slice * ceilDiv r.rows 128 + row / 128) * ceilDiv r.cols 128 + col / 128

/-- Address of an element. -/
def ShardRec.elemAddr (r : ShardRec) (k : Comp) (slice row col : Nat) : Nat :=
  k.base + r.chunkAt slice row col * k.chunk + mirrorSlot (row % 128 / 32) (col % 128 / 32) * (1024 * k.size) +
    (32 * (row % 32) + col % 32) * k.size

/-- Address of the scale of the block of an element. -/
def ShardRec.scaleAddr (r : ShardRec) (base slice row col : Nat) : Nat :=
  base + 16 * r.chunkAt slice row col + mirrorSlot (row % 128 / 32) (col % 128 / 32)

/-- Reads pieces of context memory one after another. -/
def State.readPieces (s : State) (x : Nat) (ps : List (Nat × Nat)) : Except MemStop (State × List Byte) :=
  ps.foldl (fun acc p => match acc with
    | .error e => .error e
    | .ok a => match a.1.fetchVa x .update p.1 p.2 with
      | .error e => .error e
      | .ok r => .ok (r.1, a.2 ++ r.2)) (.ok (s, []))

/-- The pieces of one component in logical row-major order. -/
def ShardRec.pieces (r : ShardRec) (k : Comp) : List (Nat × Nat) :=
  (List.range r.slices).flatMap (fun z => (List.range r.rows).flatMap (fun i => (List.range (ceilDiv r.cols 32)).map (fun v =>
    (r.elemAddr k z i (32 * v), min 32 (r.cols - 32 * v) * k.size))))

/-- The pieces of its scales in block row-major order. -/
def ShardRec.scalePieces (r : ShardRec) (base : Nat) : List (Nat × Nat) :=
  (List.range r.slices).flatMap (fun z => (List.range (ceilDiv r.rows 32)).flatMap (fun u => (List.range (ceilDiv r.cols 32)).map (fun v =>
    (r.scaleAddr base z (32 * u) (32 * v), 1))))

/-- The factored moments of a chunk, +0 in pad positions. -/
def State.exportFac (s : State) (x : Nat) (r : ShardRec) (slot n : Nat) : Except MemStop (State × List Byte) := do
  let k := r.chunk n
  let a ← s.fetchVa x .update (r.factored slot n) 1024
  .ok (a.1, sliceBytes (a.2.take (4 * k.nr)) 0 512 ++ sliceBytes ((a.2.drop 512).take (4 * k.nc)) 0 512)

/-- One component of a payload. -/
def State.exportComp (s : State) (x : Nat) (r : ShardRec) (slot n : Nat) : Except MemStop (State × List Byte) :=
  match r.comp slot n with
  | none => (List.range r.chunkCount).foldl (fun acc i => match acc with
      | .error e => .error e
      | .ok a => match a.1.exportFac x r slot i with
        | .error e => .error e
        | .ok b => .ok (b.1, a.2 ++ b.2)) (.ok (s, []))
  | some k => s.readPieces x (r.pieces k ++ (match k.scales with | none => [] | some b => r.scalePieces b))

/-- The payload of an export. -/
def State.exportPayload (s : State) (x : Nat) (r : ShardRec) (slot comps : Nat) : Except MemStop (State × List Byte) :=
  ((List.range 7).filter (bitOf comps)).foldl (fun acc n => match acc with
    | .error e => .error e
    | .ok a => match a.1.exportComp x r slot n with
      | .error e => .error e
      | .ok b => .ok (b.1, a.2 ++ b.2)) (.ok (s, []))

/-- The shard header (Table 12-10). -/
def shardHeader (r : ShardRec) (c : CommitWord) (epoch comps : Nat) (payload : List Byte) : List Byte :=
  let h := [0x5A#8, 0x53#8, 0x48#8, 0x01#8] ++ leFields ([(2, 1), (1, r.rank), (1, r.algorithm), (4, r.tensorId.toNat), (4, epoch),
    (4, c.stepCount), (2, comps), (1, r.workFormat.toNat), (1, r.gradFormat.toNat), (2, r.expert), (6, 0)] ++
    (r.dims ++ r.offsets ++ r.extents).map (fun n => (6, n)) ++ [(8, payload.length), (8, c.serial)])
  h ++ shake256 (h ++ payload) 32 ++ List.replicate 32 0

/-- SHARD_EXPORT. -/
def execShardExport (q : Req) (ctx region : Nat) (components : BitVec 16) (shard offset : Nat) (io : FarIO) (s : State) :
    Host.Outcome State Fault Refusal :=
  let r := (s.ownedShard ctx shard).getD (parseShard [])
  let c := s.peekCommit ctx r
  let own := firstFail [
    ((s.ownedShard ctx shard).isNone, trnStatus 1),
    ((List.range 16).any (fun n => bitOf components.toNat n && !r.hasComp n), trnStatus 1),
    ((s.peekProgress ctx r).phase != 0, trnStatus 6), (r.tier == 1 && c.resident != c.serial, trnStatus 8)]
  let done (n : Nat) : List Byte := leFields [(8, n), (8, c.serial)]
  .next (s.command (.shardExport q ctx region components shard offset io) q 0x62 16 (some ctx) own (fun t =>
    match t.exportPayload ctx r c.momAddr components.toNat with
    | .error _ => (t, fltTransfer, done 0)
    | .ok p =>
      let file := shardHeader r c (((p.1.epochRec ctx).map (·.epoch)).getD 0) components.toNat p.2 ++ p.2
      match p.1.farWrite region offset file io with
      | (u, some n) => (u, fltTransfer, done n)
      | (u, none) => (u, stDone, done file.length)))

/-! ### SHARD_IMPORT (R311, R425) -/

/-- The region of a shard header, as a record of its own. -/
def headerRec (b : List Byte) : ShardRec :=
  { tensorId := BitVec.ofNat 32 (leAt b 8 4), kind := 1, algorithm := leAt b 7 1, workFormat := BitVec.ofNat 8 (leAt b 22 1)
    gradFormat := BitVec.ofNat 8 (leAt b 23 1), tier := 0, rank := leAt b 6 1, expert := leAt b 24 2
    epoch := BitVec.ofNat 32 (leAt b 12 4), dims := six b 32, offsets := six b 80, extents := six b 128
    stateAddr := 0, momAddr := 0, farAddr := 0, journalAddr := 0, visitAddr := 0 }

/-- A file to import. -/
structure Import where
  region : ShardRec
  comps : Nat
  payload : List Byte

/-- The payload size that the header's components have. -/
def Import.size (f : Import) : Nat := f.region.payloadUpTo f.comps 16

/-- The owned shards of the tensor. -/
def State.tensorShards (s : State) (x : Nat) (h : ShardRec) : List ShardRec :=
  ((((s.ctx x).program.map (·.shards)).getD []).filter (fun r =>
    r.kind == 1 && r.tensorId == h.tensorId && r.algorithm == h.algorithm && r.rank == h.rank && r.dims == h.dims))

/-- Whether the tensor stands in the current table, owned or as a replica. -/
def State.knowsTensor (s : State) (x : Nat) (h : ShardRec) : Bool :=
  (((s.ctx x).program.map (·.shards)).getD []).any (fun r =>
    decide (r.kind ≤ 1) && r.tensorId == h.tensorId && r.algorithm == h.algorithm && r.rank == h.rank && r.dims == h.dims)

/-- Check 4 of R311. -/
def ShardRec.regionOk (h : ShardRec) : Bool :=
  (List.range h.rank).all (fun d =>
    decide (1 ≤ h.extents.getD d 0 ∧ h.offsets.getD d 0 + h.extents.getD d 0 ≤ h.dims.getD d 0) &&
    (decide (d + 2 < h.rank) || h.offsets.getD d 0 % 128 == 0))

/-- Coordinates in the tensor of element (i, j) of a chunk. -/
def ShardRec.globalOf (r : ShardRec) (k : ChunkPos) (i j : Nat) : List Nat :=
  let loc := if r.rank = 1 then [128 * k.q + j] else sliceCoords r.lead k.slice ++ [128 * k.p + i, 128 * k.q + j]
  (loc.zip r.offsets).map (fun z => z.1 + z.2)

/-- Slice, row and column in a region of coordinates of the tensor, if they lie in it. -/
def ShardRec.localOf (h : ShardRec) (g : List Nat) : Option (Nat × Nat × Nat) :=
  let z := (g.zip (h.offsets.zip h.extents)).map (fun z => (z.1, z.2.1, z.2.2))
  if z.all (fun z => decide (z.2.1 ≤ z.1 ∧ z.1 < z.2.1 + z.2.2)) then
    let l := z.map (fun z => z.1 - z.2.1)
    let n := l.length
    some (((l.take (n - 2)).zip h.lead).foldl (fun a z => a * z.2 + z.1) 0, if n = 1 then 0 else l.getD (n - 2) 0, l.getD (n - 1) 0)
  else none

/-- Whether a shard and a region meet. -/
def ShardRec.touches (r h : ShardRec) : Bool :=
  (List.range h.rank).all (fun d =>
    decide (r.offsets.getD d 0 < h.offsets.getD d 0 + h.extents.getD d 0 ∧ h.offsets.getD d 0 < r.offsets.getD d 0 + r.extents.getD d 0))

/-- Element bits of a component at a place of the region. -/
def Import.bits (f : Import) (n : Nat) (z : Nat × Nat × Nat) : Nat :=
  let h := f.region
  leAt f.payload (h.payloadUpTo f.comps n + ((z.1 * h.rows + z.2.1) * h.cols + z.2.2) * h.elemSize n) (h.elemSize n)

/-- The scale of its block. -/
def Import.scale (f : Import) (n : Nat) (z : Nat × Nat × Nat) : Byte :=
  let h := f.region
  BitVec.ofNat 8 (leAt f.payload (h.payloadUpTo f.comps n + h.elements * h.elemSize n +
    (z.1 * ceilDiv h.rows 32 + z.2.1 / 32) * ceilDiv h.cols 32 + z.2.2 / 32) 1)

/-- The cells of a chunk that lie in the region: row, column, place in the region. -/
def Import.cells (f : Import) (r : ShardRec) (k : ChunkPos) : List (Nat × Nat × Nat × Nat × Nat) :=
  (List.range k.nr).flatMap (fun i => (List.range k.nc).filterMap (fun j =>
    (f.region.localOf (r.globalOf k i j)).map (fun z => (i, j, z))))

/-- A tile with the region's elements replaced. -/
def replaceCells (rows : List (List Nat)) (cells : List (Nat × Nat × Nat × Nat × Nat)) (g : Nat × Nat × Nat → Nat) : List (List Nat) :=
  rows.zipIdx.map (fun row => row.1.zipIdx.map (fun e =>
    match cells.find? (fun (c : Nat × Nat × Nat × Nat × Nat) => c.1 == row.2 && c.2.1 == e.2) with
    | some c => g c.2.2
    | none => e.1))

/-- Reads a tile of a component, replaces the region's elements and writes it; the new rows. -/
def State.importTile (s : State) (x : Nat) (k : Comp) (n : Nat) (p : ChunkPos) (cells : List (Nat × Nat × Nat × Nat × Nat))
    (g : Nat × Nat × Nat → Nat) : Except MemStop (State × List (List Nat)) := do
  let a ← s.readTile x .update (k.base + n * k.chunk) k.size p.nr p.nc
  let rows := replaceCells a.2.1 cells g
  let t ← a.1.writeTile x .update (k.base + n * k.chunk) k.size p.nr p.nc rows a.2.2
  .ok (t, rows)

/-- Writes the scales of the blocks that the region touches. -/
def State.importScales (s : State) (x : Nat) (k : Comp) (n : Nat) (cells : List (Nat × Nat × Nat × Nat × Nat))
    (g : Nat × Nat × Nat → Byte) : Except MemStop State :=
  match k.scales with
  | none => .ok s
  | some b => s.writeScales x .update (b + 16 * n) (cells.map (fun (c : Nat × Nat × Nat × Nat × Nat) =>
      (mirrorSlot (c.1 / 32) (c.2.1 / 32), g c.2.2))) false

/-- Values of the region's gradient in its own format. -/
def Import.value (f : Import) (fm : Fmt) (n : Nat) (z : Nat × Nat × Nat) : FVal :=
  fm.decode [] (if fm.scale = .ms then some (f.scale n z) else none) (f.bits n z)

/-- The gradient of a chunk: copied, converted where the shard's format differs, or 0 with scale 127 (log entry 49). -/
def State.importGradient (s : State) (x : Nat) (f : Import) (r : ShardRec) (n : Nat) (p : ChunkPos)
    (cells : List (Nat × Nat × Nat × Nat × Nat)) : Except MemStop State := do
  let k := r.gradient
  if !bitOf f.comps 4 then
    let a ← s.importTile x k n p cells (fun _ => 0)
    a.1.importScales x k n cells (fun _ => 127#8)
  else if f.region.gradFormat = r.gradFormat then
    let a ← s.importTile x k n p cells (f.bits 4)
    a.1.importScales x k n cells (f.scale 4)
  else
    let old ← s.readTile x .update (k.base + n * k.chunk) k.size p.nr p.nc
    let sc ← old.1.readScales x .update k n
    let vals := tileValues (fmtOr r.gradFormat) sc.2.1 old.2.1
    let new := vals.zipIdx.map (fun row => row.1.zipIdx.map (fun e =>
      match cells.find? (fun (c : Nat × Nat × Nat × Nat × Nat) => c.1 == row.2 && c.2.1 == e.2) with
      | some c => f.value (fmtOr f.region.gradFormat) 4 c.2.2
      | none => e.1))
    let z := tileQuant (fmtOr r.gradFormat) new
    let t ← sc.1.writeTile x .update (k.base + n * k.chunk) k.size p.nr p.nc z.1 old.2.2
    t.writeScales x .update ((k.scales.getD 0) + 16 * n) z.2 false

/-- The working copy of a chunk: copied, or formed from the master weights (R297). -/
def State.importWorking (s : State) (x : Nat) (f : Import) (r : ShardRec) (n : Nat) (p : ChunkPos)
    (cells : List (Nat × Nat × Nat × Nat × Nat)) (master : List (List Nat)) : Except MemStop State := do
  let k := r.working
  if bitOf f.comps 6 && f.region.workFormat == r.workFormat then
    let a ← s.importTile x k n p cells (f.bits 6)
    a.1.importScales x k n cells (f.scale 6)
  else
    let z := tileQuant (fmtOr r.workFormat) (tileValues fp32Fmt [] master)
    let t ← s.writeTile x .update (k.base + n * k.chunk) k.size p.nr p.nc z.1 false
    match k.scales with
    | none => .ok t
    | some b => t.writeScales x .update (b + 16 * n) z.2 false

/-- The factored moments of a chunk whose origin lies in the region: of the rows and columns that it covers. -/
def State.importFac (s : State) (x : Nat) (f : Import) (r : ShardRec) (slot n : Nat) (p : ChunkPos)
    (z : Nat × Nat × Nat) : Except MemStop State := do
  let h := f.region
  let raw := if bitOf f.comps 3 then sliceBytes f.payload (h.payloadUpTo f.comps 3 + 1024 * h.chunkAt z.1 z.2.1 z.2.2) 1024
    else List.replicate 1024 0
  let t ← s.putVa x .update (r.factored slot n) (raw.take (4 * min p.nr (h.rows - z.2.1)))
  t.putVa x .update (r.factored slot n + 512) ((raw.drop 512).take (4 * min p.nc (h.cols - z.2.2)))

/-- One chunk of a touched shard. -/
def State.importChunk (s : State) (x : Nat) (f : Import) (r : ShardRec) (slot n : Nat) : Except MemStop (State × Nat) := do
  let p := r.chunk n
  let cells := f.cells r p
  match cells with
  | [] => .ok (s, 0)
  | c0 :: _ =>
    let present (b : Nat) : Nat × Nat × Nat → Nat := if bitOf f.comps b then f.bits b else fun _ => 0
    let m ← (if bitOf f.comps 0 then s.importTile x r.master n p cells (f.bits 0)
      else s.importTile x r.master n p [] (fun _ => 0))
    let t ← m.1.importTile x (r.moment1 slot) n p cells (present 1)
    let t ← (if r.algorithm = 0 then (t.1.importTile x (r.moment2 slot) n p cells (present 2)).map (·.1)
      else if r.algorithm = 1 then t.1.importFac x f r slot n p c0.2.2 else .ok t.1)
    let t ← t.importGradient x f r n p cells
    let t ← t.importTile x r.errorTerm n p cells (present 5)
    let t ← t.1.importWorking x f r n p cells m.2
    .ok (t, cells.length)

/-- One touched shard: its chunks, then step_count, serial, and for a FAR shard whose resident copy was current the serial of
that copy (log entry 49). -/
def State.importShard (s : State) (x : Nat) (f : Import) (stepCount : Nat) (r : ShardRec) : Except MemStop (State × Nat) := do
  let c := s.peekCommit x r
  let a ← (List.range r.chunkCount).foldlM (fun (a : State × Nat) n => do
    let b ← a.1.importChunk x f r c.momAddr n
    .ok (b.1, a.2 + b.2)) (s, 0)
  let t ← a.1.putCommit x r { c with
    stepCount := stepCount, serial := c.serial + 1, resident := if c.resident = c.serial then c.serial + 1 else c.resident }
  .ok (t, a.2)

/-- The import of a file that was read whole: nothing is written unless everything can be (R425). -/
def State.importFile (s : State) (x : Nat) (bs : List Byte) : State × Status × List Byte :=
  let h := headerRec bs
  let f : Import := ⟨h, leAt bs 20 2, bs.drop 256⟩
  let touched := (s.tensorShards x h).filter (fun r => r.touches h)
  match firstFail [
    (sliceBytes bs 0 4 != [0x5A#8, 0x53#8, 0x48#8, 0x01#8] || leAt bs 4 2 != 1, trnStatus 9),
    (shake256 (sliceBytes bs 0 192 ++ f.payload) 32 != sliceBytes bs 192 32 || leAt bs 176 8 != f.payload.length ||
      f.size != f.payload.length, trnStatus 0x0A),
    (!s.knowsTensor x h, trnStatus 0x0B), (!h.regionOk, trnStatus 0x0C),
    (touched.any (fun r => (s.peekProgress x r).phase != 0), trnStatus 6)] with
  | some st => (s, st, [])
  | none =>
    let r := touched.foldlM (fun (a : State × Nat) r => do
      let b ← a.1.importShard x f (leAt bs 16 4) r
      .ok (b.1, a.2 + b.2)) (s, 0)
    match r with
    | .error _ => (s, fltTransfer, leBytes 8 0)
    | .ok (t, n) => (t, stDone, leBytes 8 n)

/-- SHARD_IMPORT. -/
def execShardImport (q : Req) (ctx region offset len : Nat) (io : FarIO) (s : State) : Host.Outcome State Fault Refusal :=
  .next (s.command (.shardImport q ctx region offset len io) q 0x63 24 (some ctx) none (fun t =>
    match t.farRead region offset len io with
    | (u, .error _) => (u, fltTransfer, leBytes 8 0)
    | (u, .ok bs) => u.importFile ctx bs))

end Sys2Proof.Machine
end

