-- ==== Sys2Proof/Machine/Dispatch.lean ====
section
/-! DEFINITION. The meaning of every command: one arm for each row of spec/opcode_table.json. -/

namespace Sys2Proof.Machine

def exec (i : Instr) (s : State) : Host.Outcome State Fault Refusal :=
  match i with
  | .bundleIssue c b => Sys2Proof.Machine.execBundleIssue c b s
  | .fetchMiss c line => Sys2Proof.Machine.execFetchMiss c line s
  | .loopBegin c f => Sys2Proof.Machine.execLoopBegin c f s
  | .swait c w => Sys2Proof.Machine.execSwait c w s
  | .scalarLoadStore c f => Sys2Proof.Machine.execScalarLoadStore c f s
  | .operationStart c q => Sys2Proof.Machine.execOperationStart c q s
  | .operationEnd c q index => Sys2Proof.Machine.execOperationEnd c q index s
  | .waitCycleSuspected c => Sys2Proof.Machine.execWaitCycleSuspected c s
  | .stopReached x => Sys2Proof.Machine.execStopReached x s
  | .flagWait c flag target => Sys2Proof.Machine.execFlagWait c flag target s
  | .flagAdd c flag inc => Sys2Proof.Machine.execFlagAdd c flag inc s
  | .flagSet c flag value => Sys2Proof.Machine.execFlagSet c flag value s
  | .flagRead c flag addr => Sys2Proof.Machine.execFlagRead c flag addr s
  | .seedSet c seed => Sys2Proof.Machine.execSeedSet c seed s
  | .stepSet c stepNo => Sys2Proof.Machine.execStepSet c stepNo s
  | .glintArm c f => Sys2Proof.Machine.execGlintArm c f s
  | .glintClose c slot => Sys2Proof.Machine.execGlintClose c slot s
  | .glintScale c slot format reg => Sys2Proof.Machine.execGlintScale c slot format reg s
  | .beaconMark c => Sys2Proof.Machine.execBeaconMark c s
  | .mmul c f => Sys2Proof.Machine.execMmul c f s
  | .mpreload c f => Sys2Proof.Machine.execMpreload c f s
  | .mread c f => Sys2Proof.Machine.execMread c f s
  | .npred c f => Sys2Proof.Machine.execNpred c f s
  | .add c f => Sys2Proof.Machine.execAdd c f s
  | .sub c f => Sys2Proof.Machine.execSub c f s
  | .mul c f => Sys2Proof.Machine.execMul c f s
  | .fma c f => Sys2Proof.Machine.execFma c f s
  | .min c f => Sys2Proof.Machine.execMin c f s
  | .max c f => Sys2Proof.Machine.execMax c f s
  | .abs c f => Sys2Proof.Machine.execAbs c f s
  | .neg c f => Sys2Proof.Machine.execNeg c f s
  | .copysign c f => Sys2Proof.Machine.execCopysign c f s
  | .sel c f => Sys2Proof.Machine.execSel c f s
  | .cmpEq c f => Sys2Proof.Machine.execCmpEq c f s
  | .cmpLt c f => Sys2Proof.Machine.execCmpLt c f s
  | .cmpLe c f => Sys2Proof.Machine.execCmpLe c f s
  | .cmpUnord c f => Sys2Proof.Machine.execCmpUnord c f s
  | .div c f => Sys2Proof.Machine.execDiv c f s
  | .sqrt c f => Sys2Proof.Machine.execSqrt c f s
  | .iadd c f => Sys2Proof.Machine.execIadd c f s
  | .isub c f => Sys2Proof.Machine.execIsub c f s
  | .imul c f => Sys2Proof.Machine.execImul c f s
  | .and c f => Sys2Proof.Machine.execAnd c f s
  | .or c f => Sys2Proof.Machine.execOr c f s
  | .xor c f => Sys2Proof.Machine.execXor c f s
  | .shl c f => Sys2Proof.Machine.execShl c f s
  | .shr c f => Sys2Proof.Machine.execShr c f s
  | .sar c f => Sys2Proof.Machine.execSar c f s
  | .imin c f => Sys2Proof.Machine.execImin c f s
  | .imax c f => Sys2Proof.Machine.execImax c f s
  | .cvt c f => Sys2Proof.Machine.execCvt c f s
  | .curve c f => Sys2Proof.Machine.execCurve c f s
  | .curveLoad c f => Sys2Proof.Machine.execCurveLoad c f s
  | .red c f => Sys2Proof.Machine.execRed c f s
  | .softmax c f => Sys2Proof.Machine.execSoftmax c f s
  | .gather c f => Sys2Proof.Machine.execGather c f s
  | .scatter c f => Sys2Proof.Machine.execScatter c f s
  | .scatterAdd c f => Sys2Proof.Machine.execScatterAdd c f s
  | .accRd c f => Sys2Proof.Machine.execAccRd c f s
  | .accWr c f => Sys2Proof.Machine.execAccWr c f s
  | .normPartial c f => Sys2Proof.Machine.execNormPartial c f s
  | .gradQuant c f => Sys2Proof.Machine.execGradQuant c f s
  | .audit c f => Sys2Proof.Machine.execAudit c f s
  | .dmaCopy c f => Sys2Proof.Machine.execDmaCopy c f s
  | .put c f => Sys2Proof.Machine.execPut c f s
  | .get c f => Sys2Proof.Machine.execGet c f s
  | .atomic c f => Sys2Proof.Machine.execAtomic c f s
  | .remoteFlagSet c f => Sys2Proof.Machine.execRemoteFlagSet c f s
  | .reducePut c f => Sys2Proof.Machine.execReducePut c f s
  | .messageSend index => Sys2Proof.Machine.execMessageSend index s
  | .stashPut c f => Sys2Proof.Machine.execStashPut c f s
  | .stashPutContinue k => Sys2Proof.Machine.execStashPutContinue k s
  | .stashGet c f => Sys2Proof.Machine.execStashGet c f s
  | .stashDrop c key => Sys2Proof.Machine.execStashDrop c key s
  | .route c f => Sys2Proof.Machine.execRoute c f s
  | .routeGrad c f => Sys2Proof.Machine.execRouteGrad c f s
  | .xsend c f => Sys2Proof.Machine.execXsend c f s
  | .xrecvArm c f => Sys2Proof.Machine.execXrecvArm c f s
  | .visitClear c layerId => Sys2Proof.Machine.execVisitClear c layerId s
  | .exchangeDeadline k layerId phase round => Sys2Proof.Machine.execExchangeDeadline k layerId phase round s
  | .bufGet c f => Sys2Proof.Machine.execBufGet c f s
  | .bufRef c f => Sys2Proof.Machine.execBufRef c f s
  | .bufPut c f => Sys2Proof.Machine.execBufPut c f s
  | .update c u => Sys2Proof.Machine.execUpdate c u s
  | .shardStage c f => Sys2Proof.Machine.execShardStage c f s
  | .beacon c f => Sys2Proof.Machine.execBeacon c f s
  | .epochFence c f => Sys2Proof.Machine.execEpochFence c f s
  | .epochFenceDrained x => Sys2Proof.Machine.execEpochFenceDrained x s
  | .epochFenceTimeout x => Sys2Proof.Machine.execEpochFenceTimeout x s
  | .epochSwitch c table => Sys2Proof.Machine.execEpochSwitch c table s
  | .collStart c f => Sys2Proof.Machine.execCollStart c f s
  | .stageDeadline k desc stage => Sys2Proof.Machine.execStageDeadline k desc stage s
  | .collWaitTimeout k desc stage => Sys2Proof.Machine.execCollWaitTimeout k desc stage s
  | .ringStageArm k desc stage => Sys2Proof.Machine.execRingStageArm k desc stage s
  | .ringStageSend k desc stage => Sys2Proof.Machine.execRingStageSend k desc stage s
  | .cellForward src cell => Sys2Proof.Machine.execCellForward src cell s
  | .cellArrival cell => Sys2Proof.Machine.execCellArrival cell s
  | .xchCell cell => Sys2Proof.Machine.execXchCell cell s
  | .xchReply cell => Sys2Proof.Machine.execXchReply cell s
  | .completion cell => Sys2Proof.Machine.execCompletion cell s
  | .nakRetry cell => Sys2Proof.Machine.execNakRetry cell s
  | .nakRefuse cell => Sys2Proof.Machine.execNakRefuse cell s
  | .getData cell => Sys2Proof.Machine.execGetData cell s
  | .atomicResult cell => Sys2Proof.Machine.execAtomicResult cell s
  | .resendTimeout msg => Sys2Proof.Machine.execResendTimeout msg s
  | .nakBackoffExpiry msg => Sys2Proof.Machine.execNakBackoffExpiry msg s
  | .nakLimitExpiry msg => Sys2Proof.Machine.execNakLimitExpiry msg s
  | .inboundContextTimeout index => Sys2Proof.Machine.execInboundContextTimeout index s
  | .retireExpiry index => Sys2Proof.Machine.execRetireExpiry index s
  | .outboundContextReuse msg => Sys2Proof.Machine.execOutboundContextReuse msg s
  | .frameTransmit p => Sys2Proof.Machine.execFrameTransmit p s
  | .frameReceive p w => Sys2Proof.Machine.execFrameReceive p w s
  | .replayTimeout p => Sys2Proof.Machine.execReplayTimeout p s
  | .receiverNakTimeout p => Sys2Proof.Machine.execReceiverNakTimeout p s
  | .lossOfLock p lanes => Sys2Proof.Machine.execLossOfLock p lanes s
  | .trainingTimeout p => Sys2Proof.Machine.execTrainingTimeout p s
  | .detect p locked => Sys2Proof.Machine.execDetect p locked s
  | .deskew p found => Sys2Proof.Machine.execDeskew p found s
  | .exchange p block => Sys2Proof.Machine.execExchange p block s
  | .setGen p relocked => Sys2Proof.Machine.execSetGen p relocked s
  | .eqPreset p => Sys2Proof.Machine.execEqPreset p s
  | .eqAdapt p iterations => Sys2Proof.Machine.execEqAdapt p iterations s
  | .berCheck p ber => Sys2Proof.Machine.execBerCheck p ber s
  | .delay p => Sys2Proof.Machine.execDelay p s
  | .fallback p => Sys2Proof.Machine.execFallback p s
  | .linkUp p goodFrame => Sys2Proof.Machine.execLinkUp p goodFrame s
  | .quietIdleExpiry p => Sys2Proof.Machine.execQuietIdleExpiry p s
  | .quietReqTimeout p => Sys2Proof.Machine.execQuietReqTimeout p s
  | .wakeBurst p => Sys2Proof.Machine.execWakeBurst p s
  | .lineRead pa kind upset => Sys2Proof.Machine.execLineRead pa kind upset s
  | .lineWrite pa bytes poison via => Sys2Proof.Machine.execLineWrite pa bytes poison via s
  | .lineAtomic pa op operand compare via => Sys2Proof.Machine.execLineAtomic pa op operand compare via s
  | .selfRefreshEntry g => Sys2Proof.Machine.execSelfRefreshEntry g s
  | .selfRefreshExit g => Sys2Proof.Machine.execSelfRefreshExit g s
  | .patrolScrub g upset => Sys2Proof.Machine.execPatrolScrub g upset s
  | .sramPatrolScrub m word err => Sys2Proof.Machine.execSramPatrolScrub m word err s
  | .walk x agent unit access va => Sys2Proof.Machine.execWalk x agent unit access va s
  | .hostDmaChunk engine index => Sys2Proof.Machine.execHostDmaChunk engine index s
  | .rdmaAck qp => Sys2Proof.Machine.execRdmaAck qp s
  | .rdmaAckTimeout qp => Sys2Proof.Machine.execRdmaAckTimeout qp s
  | .rdmaWriteReceive qp rkey va data => Sys2Proof.Machine.execRdmaWriteReceive qp rkey va data s
  | .rdmaReadReceive qp rkey va len => Sys2Proof.Machine.execRdmaReadReceive qp rkey va len s
  | .cnp qp => Sys2Proof.Machine.execCnp qp s
  | .rateIncrease qp => Sys2Proof.Machine.execRateIncrease qp s
  | .ethernetFrame f => Sys2Proof.Machine.execEthernetFrame f s
  | .pfcFrame quanta => Sys2Proof.Machine.execPfcFrame quanta s
  | .arpNdIcmp query => Sys2Proof.Machine.execArpNdIcmp query s
  | .lmpDatagram addr port bytes => Sys2Proof.Machine.execLmpDatagram addr port bytes s
  | .announce => Sys2Proof.Machine.execAnnounce s
  | .noticeResend session => Sys2Proof.Machine.execNoticeResend session s
  | .sessionTimeout session => Sys2Proof.Machine.execSessionTimeout session s
  | .sessionOpen q addr port version flags timeoutS nonce => Sys2Proof.Machine.execSessionOpen q addr port version flags timeoutS nonce s
  | .sessionClose q => Sys2Proof.Machine.execSessionClose q s
  | .deviceInfo q => Sys2Proof.Machine.execDeviceInfo q s
  | .deviceReset q kind => Sys2Proof.Machine.execDeviceReset q kind s
  | .ctxCreate q nClusters rtag flags => Sys2Proof.Machine.execCtxCreate q nClusters rtag flags s
  | .ctxFree q ctx => Sys2Proof.Machine.execCtxFree q ctx s
  | .ctxReset q ctx release => Sys2Proof.Machine.execCtxReset q ctx release s
  | .ctxAttach q ctx detach handle => Sys2Proof.Machine.execCtxAttach q ctx detach handle s
  | .ctxStatus q ctx => Sys2Proof.Machine.execCtxStatus q ctx s
  | .pocketCfg q ctx ovfVa ovfLen => Sys2Proof.Machine.execPocketCfg q ctx ovfVa ovfLen s
  | .map q ctx rights va len target => Sys2Proof.Machine.execMap q ctx rights va len target s
  | .unmap q ctx va len => Sys2Proof.Machine.execUnmap q ctx va len s
  | .protect q ctx rights va len => Sys2Proof.Machine.execProtect q ctx rights va len s
  | .memRead q ctx len va => Sys2Proof.Machine.execMemRead q ctx len va s
  | .memWrite q ctx va len data => Sys2Proof.Machine.execMemWrite q ctx va len data s
  | .memXfer q ctx dir region va offset len io => Sys2Proof.Machine.execMemXfer q ctx dir region va offset len io s
  | .poolCfgSet q pool ctx bufferLog2 count base => Sys2Proof.Machine.execPoolCfgSet q pool ctx bufferLog2 count base s
  | .poolCfgRemove q pool ctx => Sys2Proof.Machine.execPoolCfgRemove q pool ctx s
  | .poolQuota q pool requester limit reserve => Sys2Proof.Machine.execPoolQuota q pool requester limit reserve s
  | .regionBind q region qp rkey remote len => Sys2Proof.Machine.execRegionBind q region qp rkey remote len s
  | .regionUnbind q region => Sys2Proof.Machine.execRegionUnbind q region s
  | .memPolicy q groupMask hold arbWeight => Sys2Proof.Machine.execMemPolicy q groupMask hold arbWeight s
  | .progLoad q ctx region offset len io => Sys2Proof.Machine.execProgLoad q ctx region offset len io s
  | .runStart q ctx => Sys2Proof.Machine.execRunStart q ctx s
  | .runResumeFault q ctx => Sys2Proof.Machine.execRunResumeFault q ctx s
  | .preemptSuspend q ctx drainMs => Sys2Proof.Machine.execPreemptSuspend q ctx drainMs s
  | .preemptEvict q ctx drainMs => Sys2Proof.Machine.execPreemptEvict q ctx drainMs s
  | .preemptDrained x => Sys2Proof.Machine.execPreemptDrained x s
  | .preemptDrainTimeout x => Sys2Proof.Machine.execPreemptDrainTimeout x s
  | .evictSaveDone x => Sys2Proof.Machine.execEvictSaveDone x s
  | .resume q ctx => Sys2Proof.Machine.execResume q ctx s
  | .bisectStop q ctx core count => Sys2Proof.Machine.execBisectStop q ctx core count s
  | .debugRead q ctx kind cluster core offset len => Sys2Proof.Machine.execDebugRead q ctx kind cluster core offset len s
  | .topologyLoad q record => Sys2Proof.Machine.execTopologyLoad q record s
  | .linkCfgTrainingTable q entries => Sys2Proof.Machine.execLinkCfgTrainingTable q entries s
  | .linkCfgPortCfg q mask value => Sys2Proof.Machine.execLinkCfgPortCfg q mask value s
  | .linkCfgCreditCfg q mask value => Sys2Proof.Machine.execLinkCfgCreditCfg q mask value s
  | .linkCfgLinkExcl q value => Sys2Proof.Machine.execLinkCfgLinkExcl q value s
  | .linkCfgTimerCfg q value => Sys2Proof.Machine.execLinkCfgTimerCfg q value s
  | .linkTestEnter q f => Sys2Proof.Machine.execLinkTestEnter q f s
  | .linkTestSet q f => Sys2Proof.Machine.execLinkTestSet q f s
  | .linkTestRead q f => Sys2Proof.Machine.execLinkTestRead q f s
  | .linkTestScan q f eyes => Sys2Proof.Machine.execLinkTestScan q f eyes s
  | .linkTestLeave q f => Sys2Proof.Machine.execLinkTestLeave q f s
  | .hostPortTestReturn => Sys2Proof.Machine.execHostPortTestReturn s
  | .hpPort q value => Sys2Proof.Machine.execHpPort q value s
  | .hpAddr q ipv4 v4Prefix v6Prefix ipv6 => Sys2Proof.Machine.execHpAddr q ipv4 v4Prefix v6Prefix ipv6 s
  | .hpMacsecInstall q dir sc an ssci sci pn key salt => Sys2Proof.Machine.execHpMacsecInstall q dir sc an ssci sci pn key salt s
  | .hpMacsecRemove q dir sc an => Sys2Proof.Machine.execHpMacsecRemove q dir sc an s
  | .hpQpCreate q qp mtu t retry => Sys2Proof.Machine.execHpQpCreate q qp mtu t retry s
  | .hpQpConnect q qp mtu t retry remoteQpn psn remoteIp => Sys2Proof.Machine.execHpQpConnect q qp mtu t retry remoteQpn psn remoteIp s
  | .hpQpReset q qp => Sys2Proof.Machine.execHpQpReset q qp s
  | .hpQpDestroy q qp => Sys2Proof.Machine.execHpQpDestroy q qp s
  | .hpWindowCreate q window ctx va len => Sys2Proof.Machine.execHpWindowCreate q window ctx va len s
  | .hpWindowDestroy q window ctx => Sys2Proof.Machine.execHpWindowDestroy q window ctx s
  | .cfgRecord q ctx sect index record => Sys2Proof.Machine.execCfgRecord q ctx sect index record s
  | .shardTableLoad q ctx region offset len io => Sys2Proof.Machine.execShardTableLoad q ctx region offset len io s
  | .shardRelease q ctx => Sys2Proof.Machine.execShardRelease q ctx s
  | .shardExport q ctx region components shard offset io => Sys2Proof.Machine.execShardExport q ctx region components shard offset io s
  | .shardImport q ctx region offset len io => Sys2Proof.Machine.execShardImport q ctx region offset len io s
  | .counterRead q block inst => Sys2Proof.Machine.execCounterRead q block inst s
  | .counterClear q block inst => Sys2Proof.Machine.execCounterClear q block inst s
  | .powerPolicy q capW ceiling coreDozeUs clusterOffMs => Sys2Proof.Machine.execPowerPolicy q capW ceiling coreDozeUs clusterOffMs s
  | .powerStatus q => Sys2Proof.Machine.execPowerStatus q s
  | .logRead q fromSeq max => Sys2Proof.Machine.execLogRead q fromSeq max s
  | .logClear q upToSeq => Sys2Proof.Machine.execLogClear q upToSeq s
  | .fwStage q cls region offset len io flashOk => Sys2Proof.Machine.execFwStage q cls region offset len io flashOk s
  | .fwActivate q slot reset => Sys2Proof.Machine.execFwActivate q slot reset s
  | .fwStatus q => Sys2Proof.Machine.execFwStatus q s
  | .attest q region offset nonce io => Sys2Proof.Machine.execAttest q region offset nonce io s
  | .debugUnlock q region offset len io => Sys2Proof.Machine.execDebugUnlock q region offset len io s
  | .permit q region offset len io => Sys2Proof.Machine.execPermit q region offset len io s
  | .regRead q addr count => Sys2Proof.Machine.execRegRead q addr count s
  | .regWrite q addr value => Sys2Proof.Machine.execRegWrite q addr value s
  | .registerWrite addr value => Sys2Proof.Machine.execRegisterWrite addr value s
  | .bpmPoolCfgWrite pool value => Sys2Proof.Machine.execBpmPoolCfgWrite pool value s
  | .bpmPoolBaseWrite pool value => Sys2Proof.Machine.execBpmPoolBaseWrite pool value s
  | .bpmQuotaWrite pool requester value => Sys2Proof.Machine.execBpmQuotaWrite pool requester value s
  | .cufPortCfgWrite p value => Sys2Proof.Machine.execCufPortCfgWrite p value s
  | .cufLanePrbsCtlWrite p lane value => Sys2Proof.Machine.execCufLanePrbsCtlWrite p lane value s
  | .hpPortCfgWrite value => Sys2Proof.Machine.execHpPortCfgWrite value s
  | .bistCtlWrite value => Sys2Proof.Machine.execBistCtlWrite value s
  | .bistComplete failUnit failCount => Sys2Proof.Machine.execBistComplete failUnit failCount s
  | .memTestCtlWrite value => Sys2Proof.Machine.execMemTestCtlWrite value s
  | .memTestTransaction pa pinFail upset => Sys2Proof.Machine.execMemTestTransaction pa pinFail upset s
  | .memTestComplete => Sys2Proof.Machine.execMemTestComplete s
  | .thresholdPoll second => Sys2Proof.Machine.execThresholdPoll second s
  | .coreDoze c => Sys2Proof.Machine.execCoreDoze c s
  | .coreWake c => Sys2Proof.Machine.execCoreWake c s
  | .clusterDoze k => Sys2Proof.Machine.execClusterDoze k s
  | .clusterWake k => Sys2Proof.Machine.execClusterWake k s
  | .clusterOffEntry k => Sys2Proof.Machine.execClusterOffEntry k s
  | .clusterOffExit k => Sys2Proof.Machine.execClusterOffExit k s
  | .railUpdate => Sys2Proof.Machine.execRailUpdate s
  | .trimAdjust rates => Sys2Proof.Machine.execTrimAdjust rates s
  | .powerSample milliwatts tempsDc => Sys2Proof.Machine.execPowerSample milliwatts tempsDc s
  | .standbyApplied moduleId => Sys2Proof.Machine.execStandbyApplied moduleId s
  | .startUp f => Sys2Proof.Machine.execStartUp f s
  | .bootFailure => Sys2Proof.Machine.execBootFailure s
  | .watchdog => Sys2Proof.Machine.execWatchdog s
  | .warmReset cause => Sys2Proof.Machine.execWarmReset cause s
  | .resetN lowNs held => Sys2Proof.Machine.execResetN lowNs held s
  | .input48vLoss millivolts us => Sys2Proof.Machine.execInput48vLoss millivolts us s
  | .thermalTrip sensor tempDc => Sys2Proof.Machine.execThermalTrip sensor tempDc s
  | .refclkLoss r => Sys2Proof.Machine.execRefclkLoss r s
  | .railOutOfRegulation r => Sys2Proof.Machine.execRailOutOfRegulation r s
  | .prbsCheckerLock host port l => Sys2Proof.Machine.execPrbsCheckerLock host port l s
  | .prbsCheckerLossOfLock host port lane bits loss => Sys2Proof.Machine.execPrbsCheckerLossOfLock host port lane bits loss s
  | .hostPortLinkDown => Sys2Proof.Machine.execHostPortLinkDown s
  | .hostPortLinkUp => Sys2Proof.Machine.execHostPortLinkUp s
  | .pfcPauseExpiry priority => Sys2Proof.Machine.execPfcPauseExpiry priority s
  | .rdmaNak qp operational => Sys2Proof.Machine.execRdmaNak qp operational s
  | .rdmaReadResponse qp offset data last => Sys2Proof.Machine.execRdmaReadResponse qp offset data last s
  | .standbyLoss => Sys2Proof.Machine.execStandbyLoss s
  | .refclkReturn r => Sys2Proof.Machine.execRefclkReturn r s
  | .hardwareConsistencyCheck block inst code fabric => Sys2Proof.Machine.execHardwareConsistencyCheck block inst code fabric s
  | .railLeavesRegulation r => Sys2Proof.Machine.execRailLeavesRegulation r s
  | .railRegainsRegulation r => Sys2Proof.Machine.execRailRegainsRegulation r s
  | .input48vOutsideRange millivolts => Sys2Proof.Machine.execInput48vOutsideRange millivolts s
  | .evictRestoreDone x => Sys2Proof.Machine.execEvictRestoreDone x s

end Sys2Proof.Machine
end

