-- ==== Sys2Proof/Machine/Timers.lean ====
section
/-! DEFINITION. What an idle step finds: the commands that Lantern holds (R255, R416), and the intervals that end a wait, an
idle core and an idle cluster (R78, R435, R438). An interval starts in the nanosecond in which its conditions hold, with the
limit then in force, and runs to it whatever is written meanwhile (R19, R522); it ends where a nanosecond finds the conditions
broken (log entry 97). -/

namespace Sys2Proof.Machine

/-- A timer after a nanosecond: it runs on, starts, or stops. -/
def runTimer (due : Option Nat) (holds : Bool) (endsAt : Nat) : Option Nat :=
  if holds then some (due.getD endsAt) else none

/-- The timers of core c. -/
def State.timedCore (s : State) (c : Nat) : Core :=
  let u := s.core c
  { u with
    stallDue := runTimer u.stallDue (s.waitCycle c) (s.now + u.stallNs)
    dozeDue := runTimer u.dozeDue (u.power == .idle && (s.cluster (clusterOf c)).power == .on && s.coreIdle c) (s.now + s.dozeNs) }

/-- The timer of cluster k. -/
def State.timedCluster (s : State) (k : Nat) : Cluster :=
  let u := s.cluster k
  { u with dozeDue := runTimer u.dozeDue (u.power == .on && s.coresDoze k && !s.agentBusy k) (s.now + s.dozeNs) }

/-- The timers of the units that are listed; a core or cluster that is not has lain without power since reset. -/
def State.timed (s : State) : State :=
  let t := s.cores.foldl (fun (u : State) (e : Nat × Core) => u.setCore e.1 (s.timedCore e.1)) s
  s.clusters.foldl (fun (u : State) (e : Nat × Cluster) => u.setCluster e.1 (s.timedCluster e.1)) t

/-- One nanosecond of local time (R19). -/
def State.tick (s : State) : State := { s.timed with now := s.now + 1 }

/-! ### Held commands -/

/-- The first held command that need not wait any longer, between those ahead of it and those behind it (R255, R416). -/
def State.nextHeld (s : State) : List HeldCmd → List HeldCmd → Option (List HeldCmd × HeldCmd × List HeldCmd)
  | _, [] => none
  | ahead, h :: r =>
    if s.waitsBehind ahead h.session h.ctx ||
        (match h.range, h.ctx with | some z, some x => s.rangeBusy x z.1 z.2 | _, _ => false) then
      s.nextHeld (ahead ++ [h]) r
    else some (ahead, h, r)

/-- What becomes of a state in which a step has brought one about. -/
def thenHeld (post : List HeldCmd) : Host.Outcome State Fault Refusal → Host.Outcome State Fault Refusal
  | .next t => .next { t with lantern := { t.lantern with held := t.lantern.held ++ post } }
  | o => o

end Sys2Proof.Machine
end

