-- ==== Sys2Proof/Machine/Step.lean ====
section
/-! DEFINITION. One step: the command at the front of the queue, or one nanosecond of local time (R19, log entry 4). -/

namespace Sys2Proof.Machine

/-- Takes the command at the front of the queue and runs it on the state with the rest of the queue. With an empty queue a
command that Lantern holds executes once it need not wait (log entry 103); with none the block idles: local time advances by one
nanosecond, which finds the intervals that run (log entries 4 and 97). -/
def step (s : State) : Host.Outcome State Fault Refusal :=
  match s.pending with
  | [] => match s.nextHeld [] s.lantern.held with
    | none => .next s.tick
    | some (pre, h, post) => thenHeld post (exec h.row { s with lantern := { s.lantern with held := pre } })
  | c :: rest => exec c { s with pending := rest }

/-- The state with the command that a word spells put at the front of the queue; a word that spells none changes
nothing. -/
def State.withFetchWord (s : State) (nbits w : Nat) : State :=
  match decodeTableWord nbits w with
  | some c => { s with pending := c :: s.pending }
  | none => s

end Sys2Proof.Machine
end

