-- ==== Sys2Proof/Safety.lean ====
section
/-! DEFINITION. What a safe run of the block is, in the terms that claims use: the step answers a next state, and main
memory keeps its canonical form; what it means that a command runs, that an operation in flight ends, and that the rest of
the device stays as it was. -/

namespace Sys2Proof.Machine

/-- The step at s answers a next state: neither a fault nor a refusal. -/
def StepsOn (s : State) : Prop := ∃ t, step s = .next t

/-- The invariant of the block that every step keeps: main memory (R229, R240) is in canonical form, so that equal
memories are equal data. -/
abbrev Settled (s : State) : Prop := s.mem.wf = true

/-- A safe state: settled, and its step answers a next state. -/
def Safe (s : State) : Prop := Settled s ∧ StepsOn s

/-! ### A command runs -/

/-- `exec` answers a next state, and P holds of it. -/
def Gives (i : Instr) (s : State) (P : State → Prop) : Prop := ∃ t, exec i s = .next t ∧ P t

/-- Operation o is in flight on core c without an outcome. -/
abbrev InFlight (s : State) (c : Nat) (o : Op) : Prop := ((s.core c).entryOf o).isSome = true

/-- From s to t the first entry in flight on core c that held operation o without an outcome got outcome r; the other
entries in flight of its queue are as they were. -/
abbrev Ended (s t : State) (c : Nat) (o : Op) (r : Outc) : Prop :=
  (t.core c).inFlight o.queue =
    replaceFirst (fun e => e.op == o && e.result.isNone) (fun e => { e with result := some r }) ((s.core c).inFlight o.queue)

/-- The command that carries out an operation of core c. -/
def opRow (c : CoreId) : Op → Instr
  | .mat (.mmul f) => .mmul c f
  | .mat (.mpreload f) => .mpreload c f
  | .mat (.mread f) => .mread c f
  | .mat (.npred f) => .npred c f
  | .vec (.bin .add f) => .add c f
  | .vec (.bin .sub f) => .sub c f
  | .vec (.bin .mul f) => .mul c f
  | .vec (.bin .min f) => .min c f
  | .vec (.bin .max f) => .max c f
  | .vec (.bin .copysign f) => .copysign c f
  | .vec (.bin .div f) => .div c f
  | .vec (.un .abs f) => .abs c f
  | .vec (.un .neg f) => .neg c f
  | .vec (.un .sqrt f) => .sqrt c f
  | .vec (.fma f) => .fma c f
  | .vec (.sel f) => .sel c f
  | .vec (.cmp .eq f) => .cmpEq c f
  | .vec (.cmp .lt f) => .cmpLt c f
  | .vec (.cmp .le f) => .cmpLe c f
  | .vec (.cmp .unord f) => .cmpUnord c f
  | .vec (.int .iadd f) => .iadd c f
  | .vec (.int .isub f) => .isub c f
  | .vec (.int .imul f) => .imul c f
  | .vec (.int .and f) => .and c f
  | .vec (.int .or f) => .or c f
  | .vec (.int .xor f) => .xor c f
  | .vec (.int .shl f) => .shl c f
  | .vec (.int .shr f) => .shr c f
  | .vec (.int .sar f) => .sar c f
  | .vec (.int .imin f) => .imin c f
  | .vec (.int .imax f) => .imax c f
  | .vec (.cvt f) => .cvt c f
  | .vec (.curve f) => .curve c f
  | .vec (.curveLoad f) => .curveLoad c f
  | .vec (.red f) => .red c f
  | .vec (.softmax f) => .softmax c f
  | .vec (.gather f) => .gather c f
  | .vec (.scatter f) => .scatter c f
  | .vec (.scatterAdd f) => .scatterAdd c f
  | .vec (.accRd f) => .accRd c f
  | .vec (.accWr f) => .accWr c f
  | .vec (.norm f) => .normPartial c f
  | .vec (.gradQuant f) => .gradQuant c f
  | .vec (.audit f) => .audit c f
  | .dma (.copy f) => .dmaCopy c f
  | .dma (.put f) => .put c f
  | .dma (.get f) => .get c f
  | .dma (.atomic f) => .atomic c f
  | .dma (.flagSet f) => .remoteFlagSet c f
  | .dma (.reducePut f) => .reducePut c f
  | .dma (.stashPut f) => .stashPut c f
  | .dma (.stashGet f) => .stashGet c f
  | .dma (.stashDrop key) => .stashDrop c key
  | .dma (.route f) => .route c f
  | .dma (.routeGrad f) => .routeGrad c f
  | .dma (.xsend f) => .xsend c f
  | .dma (.xrecvArm f) => .xrecvArm c f
  | .dma (.visitClear id) => .visitClear c id
  | .dma (.bufGet f) => .bufGet c f
  | .dma (.bufRef f) => .bufRef c f
  | .dma (.bufPut f) => .bufPut c f
  | .dma (.update f) => .update c ⟨f, none⟩
  | .dma (.shardStage f) => .shardStage c f
  | .dma (.collStart f) => .collStart c f
  | .dma (.beacon f) => .beacon c f
  | .dma (.epochFence f) => .epochFence c f
  | .dma (.epochSwitch t) => .epochSwitch c t
  | .sync (.flagWait f v) => .flagWait c f v
  | .sync (.flagAdd f n) => .flagAdd c f n
  | .sync (.flagSet f v) => .flagSet c f v
  | .sync (.flagRead f a) => .flagRead c f a
  | .sync (.seedSet v) => .seedSet c v
  | .sync (.stepSet v) => .stepSet c v
  | .sync (.glintArm f) => .glintArm c f
  | .sync (.glintClose i) => .glintClose c i
  | .sync (.glintScale i f r) => .glintScale c i f r
  | .sync .beaconMark => .beaconMark c

/-- What LOOP_BEGIN, SWAIT, SCALAR_LOAD_STORE, SEED_SET and STEP_SET need to issue in a bundle of their own; no word of the
bundle holds an SRAM error. -/
abbrev IssuesAlone (s : State) (c : Nat) (b : Bundle) : Prop :=
  s.canIssue c = true ∧ (∀ l ∈ bundleLines (s.core c).offset (bundleSize b), l ∈ (s.core c).fetched) ∧
  (s.core c).prog.badIn [((s.core c).offset, bundleSize b)] = []

/-! ### What stays -/

/-- From s to t core c changed in its operand cache, accumulator memory, loaded curves, SRAM error count, the flag and count
registers of the two engines and the outcomes of its operations in flight, and in nothing else. -/
abbrev OnlyEngines (c : Nat) (s t : State) : Prop :=
  let a := s.core c
  { t.core c with
    oc := a.oc, acc := a.acc, curves := a.curves, sramEcc := a.sramEcc, mtxFlags := a.mtxFlags, mtxQuant := a.mtxQuant
    vecFlags := a.vecFlags, vecEvent := a.vecEvent, sprStat := a.sprStat, nprClass := a.nprClass, nprAudit := a.nprAudit
    matrixF := a.matrixF, vectorF := a.vectorF } = a

/-- From s to t cluster k changed in its memory, its Glint slots and their late count, and its SRAM error count, and in
nothing else. -/
abbrev OnlyClusterMemory (k : Nat) (s t : State) : Prop :=
  let b := s.cluster k
  { t.cluster k with cm := b.cm, glint := b.glint, gltLate := b.gltLate, sramEcc := b.sramEcc } = b

/-- From s to w collective z of context x on core c joined those of its cluster with the stages of its descriptor's plan, those
of them that are armed were counted, and nothing but the cluster and the context's non-finite bit changed. -/
def JoinsCollectives (s w : State) (c x : Nat) (d : CollDesc) (z : Coll) : Prop :=
  (w.cluster (clusterOf c)).colls = (s.cluster (clusterOf c)).colls ++ [z] ∧ z.core = c ∧ z.ctx = x ∧
  z.stages.map (fun g => (g.index, g.code, g.dim)) = d.plan ∧
  fld (w.cluster (clusterOf c)).colStat 31 0 =
    (fld (s.cluster (clusterOf c)).colStat 31 0 + (z.stages.filter (·.armed)).length) % 2 ^ 32 ∧
  { w.cluster (clusterOf c) with
    colls := (s.cluster (clusterOf c)).colls, colStat := (s.cluster (clusterOf c)).colStat } = s.cluster (clusterOf c) ∧
  (∀ y, (if d.op = 6 then { w.ctx y with nonfinite := (s.ctx y).nonfinite } else w.ctx y) = s.ctx y) ∧
  { w with clusters := s.clusters, ctxs := s.ctxs } = s

/-- What a remote operation needs to hand its message to transport: it has none yet and its context is not pre-empted. -/
abbrev MayAsk (s : State) (x c : Nat) (o : Op) : Prop :=
  s.ctxOfCore c = some x ∧ s.opSent x c (s.opEnv c o).pos = false ∧ s.mustSuspend x = false

/-- From s to t one message joined those that wait to be sent, and nothing but transport changed. -/
def Asked (s t : State) (m : Message) : Prop :=
  t.xpt.toSend = s.xpt.toSend ++ [m] ∧ { t with xpt := { t.xpt with toSend := s.xpt.toSend } } = s

/-- The sparse violation that a product finds in its metadata once its operands are read, if any. -/
def State.sparseViolation (s : State) (c : Nat) (f : MmulF) : Option (BitVec 16 × Nat × Nat) :=
  let oc := ((s.ocSettle c (rangesA f ++ MatRanges f.b f.n f.k)).core c).oc
  let env := s.opEnv c (.mat (.mmul f))
  sparseFault oc ⟨f.round, env.seed, env.stepNo⟩ f (if quantizes f.a then suppliedScale oc f.a.supplied else none)

/-- Everything of the device but cores, clusters and the error log is as it was. -/
abbrev SameDevice (s t : State) : Prop := { t with cores := s.cores, clusters := s.clusters, ras := s.ras } = s

/-- Every other core and every other cluster than those of core c is as it was. -/
def SameOthers (c : Nat) (s t : State) : Prop :=
  (∀ d, d ≠ c → t.core d = s.core d) ∧ (∀ k, k ≠ clusterOf c → t.cluster k = s.cluster k)

/-- A refused operation of core c at place `pos` of queue q under R65: the core issues no further bundle, the context that
ran is stopped as a contained error, and one record with the reason code is written. -/
def RefusedAt (s t : State) (c q pos : Nat) (st : Status) : Prop :=
  (t.core c).scalar = (if (s.core c).scalar = .ended then .ended else .stopped) ∧
  (∀ x, s.ctxOfCore c = some x → (s.ctx x).state = .running → (t.ctx x).state = .stopped) ∧
  t.ras.nextSeq = s.ras.nextSeq + 1 ∧
  (s.ras.log.length < logCapacity → ∃ r ∈ t.ras.log, r.seq = s.ras.nextSeq ∧ r.cause = 0x2001#16 ∧ r.status = st ∧
    r.detail = leBytes 2 c ++ leBytes 1 q ++ leBytes 8 pos)

/-- What stands at port p when the action of entry e has begun: DETECT's pattern, EQ_PRESET's preset, and for LINK_UP the frame
numbers at 0 and the partner's allotments as credits (R334). -/
def ActionBegun (t : State) (p : Nat) (e : TrainEntry) : Prop :=
  (e.action = 0 → (t.port p).pattern = e.param0.toNat) ∧ (e.action = 4 → (t.port p).firPreset = e.param0.toNat) ∧
  (e.action = 9 → (t.port p).seq = 0 ∧ (t.port p).expected = 0 ∧ (t.port p).credits = (t.port p).partnerAllot)

/-- From s to t port p moved to entry n of the training table: 62 is ACTIVE in generation g, a number without an entry is
FAILED, any other entry is entered with its retries and its time limit, and its action begins. -/
def TrainsTo (s t : State) (p n g : Nat) : Prop :=
  (n = 62 → (t.port p).state = lsActive ∧ (t.port p).gen = g % 4) ∧
  (n ≠ 62 → s.trainTable[n]? = none → (t.port p).state = lsFailed ∧ fld (t.port p).linkState 39 36 = lcTrainingFail) ∧
  (∀ e, n ≠ 62 → s.trainTable[n]? = some e → (t.port p).state = lsTraining ∧ (t.port p).entry = n % 64 ∧
    (t.port p).retriesLeft = e.retries ∧ (t.port p).entryDeadline = some (s.now + e.timeoutUs * 1000) ∧ ActionBegun t p e)

/-- From s to t the action of entry e, at which port p stood, failed: it is repeated while retries are left, and then next_fail
is entered. -/
def TrainFails (s t : State) (p : Nat) (e : TrainEntry) : Prop :=
  ((s.port p).retriesLeft ≠ 0 → (t.port p).state = lsTraining ∧ (t.port p).entry = (s.port p).entry ∧
    (t.port p).retriesLeft = (s.port p).retriesLeft - 1 ∧ (t.port p).entryDeadline = some (s.now + e.timeoutUs * 1000) ∧
    ActionBegun t p e) ∧
  ((s.port p).retriesLeft = 0 → TrainsTo s t p e.nextFail (entryGen e (s.port p)))

/-- The device after a cell addressed to this node left its buffer, as transport's request side sees it. -/
def State.atRequest (s : State) (c : Cell) : State := (s.takeCell c).retireSettle

/-- A cell of format A or X for this node whose CRC is good and whose buffer has no uncorrectable error (R222). -/
abbrev GoodCell (s : State) (c : Cell) (x : Bool) (cls : Nat) : Prop :=
  s.isHere c = true ∧ s.cellLost c = false ∧ hIsX c.hdr = x ∧ c.cls = cls ∧ Cell.crcOk c = true

/-- A message that has not been seen: no retire record and no inbound context has its identity, a context and a retire entry
are free for it, and its header's index lies within it. -/
abbrev NewMessage (s : State) (key : MsgKey) (c : Cell) (i : Nat) : Prop :=
  s.xpt.retire.find? (fun r => r.key == key) = none ∧ s.findIn key = none ∧ s.freeIn = some i ∧
  s.xpt.retire.length < retireEntries ∧ hIdx c.hdr ≤ hLast c.hdr

/-! ### Requests to Lantern -/

/-- The request of a mailbox command, its code, its payload length (Tables 17-3 to 17-9) and the context it names. POOL_QUOTA,
which names none, is not listed. -/
def mailboxRow : Instr → Option (Req × Nat × Nat × Option Nat)
  | .sessionOpen q _ _ _ _ _ _ => some (q, 0x01, 16, none)
  | .sessionClose q => some (q, 0x02, 0, none)
  | .deviceInfo q => some (q, 0x03, 0, none)
  | .deviceReset q _ => some (q, 0x04, 8, none)
  | .ctxCreate q _ _ _ => some (q, 0x10, 8, none)
  | .ctxFree q x => some (q, 0x11, 8, some x)
  | .ctxReset q x _ => some (q, 0x12, 8, some x)
  | .ctxAttach q x _ _ => some (q, 0x13, 16, some x)
  | .ctxStatus q x => some (q, 0x14, 8, some x)
  | .pocketCfg q x _ _ => some (q, 0x15, 24, some x)
  | .map q x _ _ _ _ => some (q, 0x20, 32, some x)
  | .unmap q x _ _ => some (q, 0x21, 24, some x)
  | .protect q x _ _ _ => some (q, 0x22, 24, some x)
  | .memRead q x _ _ => some (q, 0x23, 16, some x)
  | .memWrite q x _ n _ => some (q, 0x24, 16 + n, some x)
  | .memXfer q x _ _ _ _ _ _ => some (q, 0x25, 32, some x)
  | .poolCfgSet q _ x _ _ _ => some (q, 0x26, 16, some x)
  | .poolCfgRemove q _ x => some (q, 0x26, 16, some x)
  | .regionBind q _ _ _ _ _ => some (q, 0x28, 24, none)
  | .regionUnbind q _ => some (q, 0x28, 24, none)
  | .memPolicy q _ _ _ => some (q, 0x29, 8, none)
  | .progLoad q x _ _ _ _ => some (q, 0x30, 24, some x)
  | .runStart q x => some (q, 0x31, 8, some x)
  | .runResumeFault q x => some (q, 0x32, 8, some x)
  | .preemptSuspend q x _ => some (q, 0x33, 8, some x)
  | .preemptEvict q x _ => some (q, 0x33, 8, some x)
  | .resume q x => some (q, 0x34, 8, some x)
  | .bisectStop q x _ _ => some (q, 0x35, 16, some x)
  | .debugRead q x _ _ _ _ _ => some (q, 0x36, 16, some x)
  | .topologyLoad q _ => some (q, 0x40, 128, none)
  | .linkCfgTrainingTable q es => some (q, 0x41, 16 + 16 * es.length, none)
  | .linkCfgPortCfg q _ _ => some (q, 0x41, 16, none)
  | .linkCfgCreditCfg q _ _ => some (q, 0x41, 16, none)
  | .linkCfgLinkExcl q _ => some (q, 0x41, 16, none)
  | .linkCfgTimerCfg q _ => some (q, 0x41, 16, none)
  | .linkTestEnter q _ => some (q, 0x42, 16, none)
  | .linkTestSet q _ => some (q, 0x42, 16, none)
  | .linkTestRead q _ => some (q, 0x42, 16, none)
  | .linkTestScan q _ _ => some (q, 0x42, 16, none)
  | .linkTestLeave q _ => some (q, 0x42, 16, none)
  | .hpPort q _ => some (q, 0x43, 8, none)
  | .hpAddr q _ _ _ _ => some (q, 0x44, 24, none)
  | .hpMacsecInstall q _ _ _ _ _ _ _ _ => some (q, 0x45, 68, none)
  | .hpMacsecRemove q _ _ _ => some (q, 0x45, 68, none)
  | .hpQpCreate q _ _ _ _ => some (q, 0x46, 32, none)
  | .hpQpConnect q _ _ _ _ _ _ _ => some (q, 0x46, 32, none)
  | .hpQpReset q _ => some (q, 0x46, 32, none)
  | .hpQpDestroy q _ => some (q, 0x46, 32, none)
  | .hpWindowCreate q _ x _ _ => some (q, 0x47, 24, some x)
  | .hpWindowDestroy q _ x => some (q, 0x47, 24, some x)
  | .cfgRecord q x _ _ _ => some (q, 0x50, 136, some x)
  | .shardTableLoad q x _ _ _ _ => some (q, 0x60, 24, some x)
  | .shardRelease q x => some (q, 0x61, 8, some x)
  | .shardExport q x _ _ _ _ _ => some (q, 0x62, 16, some x)
  | .shardImport q x _ _ _ _ => some (q, 0x63, 24, some x)
  | .counterRead q _ _ => some (q, 0x70, 8, none)
  | .counterClear q _ _ => some (q, 0x71, 8, none)
  | .powerPolicy q _ _ _ _ => some (q, 0x80, 16, none)
  | .powerStatus q => some (q, 0x81, 0, none)
  | .logRead q _ _ => some (q, 0x90, 16, none)
  | .logClear q _ => some (q, 0x91, 8, none)
  | .fwStage q _ _ _ _ _ _ => some (q, 0xA0, 24, none)
  | .fwActivate q _ _ => some (q, 0xA1, 8, none)
  | .fwStatus q => some (q, 0xA2, 0, none)
  | .attest q _ _ _ _ => some (q, 0xB0, 48, none)
  | .debugUnlock q _ _ _ _ => some (q, 0xB1, 24, none)
  | .permit q _ _ _ _ => some (q, 0xB2, 24, none)
  | .regRead q _ _ => some (q, 0xF0, 8, none)
  | .regWrite q _ _ => some (q, 0xF1, 16, none)
  | _ => none

/-- Lantern's last response is the one to request q, with a status and a payload. -/
def Answered (t : State) (q : Req) (code : Nat) (st : Status) (p : List Byte) : Prop :=
  ∃ r, t.lantern.lastResponse = some r ∧ r.session = q.session ∧ r.command = code ∧ r.status = st ∧ r.payload = p

/-- Lantern's last response to session n, with a command, a status and a payload. -/
def AnsweredSession (t : State) (n code : Nat) (st : Status) (p : List Byte) : Prop :=
  ∃ r, t.lantern.lastResponse = some r ∧ r.session = n ∧ r.command = code ∧ r.status = st ∧ r.payload = p

/-- From s to t only Lantern and what the host port sends changed. -/
abbrev OnlyAnswer (s t : State) : Prop :=
  { t with lantern := s.lantern, hp := { t.hp with sent := s.hp.sent, held := s.hp.held } } = s

/-- Command i at s answers request q with a status and a payload, and leaves the device as u, but for what an answer writes:
the last response, what Lantern keeps of q's session, and what the host port sends. -/
def Answers (i : Instr) (q : Req) (code : Nat) (st : Status) (p : List Byte) (s u : State) : Prop :=
  Gives i s (fun t => Answered t q code st p ∧ OnlyAnswer u t ∧
    { t.lantern with sessions := u.lantern.sessions, lastResponse := u.lantern.lastResponse } = u.lantern ∧
    ∀ m, m ≠ q.session → t.session m = u.session m)

end Sys2Proof.Machine
end

