-- ==== Sys2Proof/Certificates/Slice0/Obligations.lean ====
section
/-! DEFINITION. The statements for the provers: def Obligations.<Name> : Prop, in the order of OBLIGATIONS.json. -/

open Sys2Proof Sys2Proof.Machine

/-! ### The block and its queue -/

/-- O1. One step takes the command at the front of the queue and is `exec` of it on the state with the queue's rest. With an
empty queue a command that Lantern holds runs once it need not wait; with none the block idles: local time goes on by 1 ns,
the intervals of stall monitor and doze run, and nothing else changes (DESIGN CHOICE, log entries 4, 97 and 103; R19 gives
local time). -/
def Obligations.StepRunsFrontCommand : Prop :=
  (∀ (c : Instr) (rest : List Instr) (s : State), step { s with pending := c :: rest } = exec c { s with pending := rest }) ∧
  (∀ s : State, s.pending = [] →
     (∀ pre h post, s.nextHeld [] s.lantern.held = some (pre, h, post) →
       step s = thenHeld post (exec h.row { s with lantern := { s.lantern with held := pre } })) ∧
     (s.nextHeld [] s.lantern.held = none → ∃ t, step s = .next t ∧ t.now = s.now + 1 ∧
       { t with now := s.now, cores := s.cores, clusters := s.clusters } = s ∧
       (∀ c, { t.core c with stallDue := (s.core c).stallDue, dozeDue := (s.core c).dozeDue } = s.core c) ∧
       (∀ k, { t.cluster k with dozeDue := (s.cluster k).dozeDue } = s.cluster k)))

/-- O2. No command puts a command into the queue or takes one out of it, and none moves local time (DESIGN CHOICE, log entry
4). -/
def Obligations.CommandsKeepQueueAndTime : Prop :=
  ∀ (c : Instr) (s t : State), exec c s = .next t → t.pending = s.pending ∧ t.now = s.now

/-- O3. Every step keeps main memory in canonical form (R229, R240): whatever command runs, equal memories stay equal data.
-/
def Obligations.EveryStepKeepsMemorySettled : Prop :=
  ∀ s t : State, Settled s → step s = .next t → Settled t

/-- O4. After reset main memory is in canonical form, every byte reads 0 and no line is poisoned. The reset values that the
field maps give: core, cluster, group, channel, pool and port registers and the queue of log records. It rests on choices of
the model where the spec leaves them: log entry 1. -/
def Obligations.ResetHoldsStatedValues : Prop :=
  (Settled State.reset ∧ (∀ a, sget 0 State.reset.mem.bytes a = 0) ∧ (∀ l, State.reset.mem.deltaOf l = 0)) ∧
  ((∀ c, (State.reset.core c).bundleCount = 0 ∧ (State.reset.core c).stallCfg = 0x80000032#32 ∧
     (State.reset.core c).mtxFlags = 0 ∧ (State.reset.core c).mtxQuant = 0 ∧ (State.reset.core c).vecFlags = 0 ∧
     (State.reset.core c).vecEvent = 0 ∧ (State.reset.core c).sprStat = 0 ∧ (State.reset.core c).sramEcc = 0) ∧
   (∀ k id, State.reset.flag k id = 0) ∧
   (∀ g, (State.reset.group g).arbWeight = 0x00013468#32 ∧ (State.reset.group g).srCfg = 0x80000064#32 ∧
     (State.reset.group g).scrubCfg = 0x80000018#32 ∧ (State.reset.group g).updCount = 0) ∧
   (∀ n, (State.reset.channel n).eccCount = 0) ∧
   (∀ p, (State.reset.pool p).enabled = false ∧ (State.reset.pool p).grants = 0) ∧
   (∀ p, (State.reset.port p).linkErr = 0 ∧ (State.reset.port p).pmStat = 0) ∧
   (∀ x, (State.reset.ctx x).state = .free) ∧ State.reset.pending = [] ∧ State.reset.ras.log = [])

/-! ### The program model (chapter 3) -/

/-- O5. A bundle whose queues have room, whose flags are valid and whose slots pass the hazard check issues whole: its
scalar slots act, each operation enters its queue behind the waiting ones with its wait and signal, and the bundle count
goes up by 1 (R61, R62). The upsets that the row carries have struck before it, and its words have been read. A bundle whose
scalar slots raise a fault is not covered here. A bundle that names a full queue does not issue: the scalar processor stalls
and nothing else changes (R61). A bundle with a word that cannot be corrected does not issue either: its line is fetched
again and counts as corrected (R222, R224). Commands that complete here: bundleIssue. It rests on choices of the model where
the spec leaves them: log entries 92 and 101. -/
def Obligations.BundleIssuesWholeOrStalls : Prop :=
  (∀ (c : CoreId) (b : Bundle) (ups : List Upset) (r : State) (x : Nat) (z : Slots),
     let u := r.upset c ups
     let s := u.progSettle c [((u.core c).offset, bundleSize b)]
     b.wf = true → s.ctxOfCore c = some x → s.canIssue c = true → (u.core c).brokenLine b = none →
     (∀ l ∈ bundleLines (s.core c).offset (bundleSize b), l ∈ (s.core c).fetched) →
     (s.core c).hasRoom b = true → (∀ o ∈ bundleOps b, slotRefusal c o = none) →
     (∃ hz, (s.core c).hazards (bundleOps b) = .ok hz) →
     scalarSlots c ((s.core c).offset + bundleSize b) b.scalar { st := s } = .ok z →
     Gives (.bundleIssue c ⟨b, ups⟩) r (fun t =>
       (t.core c).bundleCount = (s.core c).bundleCount + 1 ∧
       (∀ q, ((t.core c).queue q).map (fun e => (e.op, e.wait, e.signal)) =
         ((s.core c).queue q).map (fun e => (e.op, e.wait, e.signal)) ++
           ((bundleOps b).filter (fun o => o.op.queue = q)).map (fun o => (o.op, o.wait, o.signal))) ∧
       (∀ q, (t.core c).inFlight q = (s.core c).inFlight q) ∧
       (t.core c).sregs = (z.st.core c).sregs ∧ t.mem = z.st.mem)) ∧
  (∀ (c : CoreId) (b : Bundle) (ups : List Upset) (r : State),
     let u := r.upset c ups
     let s := u.progSettle c [((u.core c).offset, bundleSize b)]
     b.wf = true → u.canIssue c = true →
     (∀ l ∈ bundleLines (u.core c).offset (bundleSize b), l ∈ (u.core c).fetched) →
     ((u.core c).brokenLine b = none → (u.core c).hasRoom b = false →
       exec (.bundleIssue c ⟨b, ups⟩) r = .next (s.setCore c { s.core c with scalar := .stalledFull })) ∧
     (∀ l, (u.core c).brokenLine b = some l → Gives (.bundleIssue c ⟨b, ups⟩) r (fun t =>
       l ∉ (t.core c).fetched ∧ (t.core c).scalar = .fetchStall l ∧
       (t.core c).sramEcc = bumpFld (u.core c).sramEcc 31 0 1 ∧ (t.core c).bundleCount = (u.core c).bundleCount ∧
       (∀ q, (t.core c).queue q = (u.core c).queue q) ∧ t.mem = r.mem)))

/-- O6. A bundle with an operation that is refused at issue does not issue at all: no queue, scalar register or count moves,
and the refusal takes its course (R61, R65, R68). It rests on choices of the model where the spec leaves them: log entry
101. -/
def Obligations.RefusalAtIssueLeavesBundleUnissued : Prop :=
  ∀ (c : CoreId) (b : Bundle) (ups : List Upset) (r : State) (o : OpSlot) (st : Status),
    let u := r.upset c ups
    let s := u.progSettle c [((u.core c).offset, bundleSize b)]
    b.wf = true → s.canIssue c = true → (u.core c).brokenLine b = none →
    (∀ l ∈ bundleLines (s.core c).offset (bundleSize b), l ∈ (s.core c).fetched) →
    (s.core c).hasRoom b = true → (bundleOps b).find? (fun p => (slotRefusal c p).isSome) = some o →
    slotRefusal c o = some st →
    Gives (.bundleIssue c ⟨b, ups⟩) r (fun t =>
      RefusedAt s t c (queueCode o.op.queue) ((s.core c).bundleCount.toNat + 1) st ∧
      (t.core c).bundleCount = (s.core c).bundleCount ∧ (t.core c).sregs = (s.core c).sregs ∧
      (∀ q, (t.core c).queue q = (s.core c).queue q) ∧ t.mem = s.mem)

/-- O7. LOOP_BEGIN reads its count once; a count above 0 enters a level with that count whose body starts behind the bundle,
a count of 0 skips the body (stated where no outer level is active) (R71, R72). A body that would end at an odd place is no
LOOP_BEGIN (R60). A fifth nested LOOP_BEGIN is not executed: the core faults and its bundle does not issue (R73, Table 3-4).
Commands that complete here: loopBegin. It rests on choices of the model where the spec leaves them: log entries 8 and 92.
-/
def Obligations.LoopBeginEntersOrSkips : Prop :=
  (∀ (c : CoreId) (f : LoopF) (s u : State) (n : Word32),
     (f.last % 2 = 0 → IssuesAlone s c (scalarBundle [.loopBegin f]) → (s.core c).loops.length < 4 →
       s.loopCount c f.count = .ok (u, n) →
       Gives (.loopBegin c f) s (fun t =>
         (t.core c).bundleCount = (s.core c).bundleCount + 1 ∧
         (n ≠ 0 → (t.core c).loops = (s.core c).loops ++ [⟨n, (s.core c).offset + 6, f.last⟩] ∧
           (t.core c).offset = (s.core c).offset + 6) ∧
         (n = 0 → (s.core c).loops = [] → (t.core c).loops = [] ∧ (t.core c).offset = f.last))) ∧
     (f.last % 2 = 1 → exec (.loopBegin c f) s = .refused .illFormed)) ∧
  (∀ (c : CoreId) (f : LoopF) (s : State) (x : Nat),
     f.last % 2 = 0 → IssuesAlone s c (scalarBundle [.loopBegin f]) → s.ctxOfCore c = some x → 4 ≤ (s.core c).loops.length →
     ∃ t, exec (.loopBegin c f) s = .next t ∧ (t.core c).loops = (s.core c).loops ∧
       (t.core c).bundleCount = (s.core c).bundleCount ∧ (t.ctx x).state = .stopped ∧ t.ras.nextSeq = s.ras.nextSeq + 1)

/-- O8. SWAIT issues and holds issue on its flag; a scalar store writes 8 bytes of its register, a scalar load reads 8 (R68,
R260). SEED_SET and STEP_SET take effect when their bundle issues (R70). Commands that complete here: swait,
scalarLoadStore, seedSet, stepSet. It rests on choices of the model where the spec leaves them: log entry 8. -/
def Obligations.ScalarSlotsAct : Prop :=
  (∀ (c : CoreId) (s : State),
     (∀ w : FlagWait, IssuesAlone s c (scalarBundle [.swait w]) → flagWaitOk c w.flag = true → (s.core c).stopCount = 0 →
       Gives (.swait c w) s (fun t => (t.core c).scalar = .swait w ∧
         (t.core c).bundleCount = (s.core c).bundleCount + 1 ∧ t.mem = s.mem)) ∧
     (∀ (f : ScalarMemF) (u : State) (bs : List Byte), IssuesAlone s c (scalarBundle [.mem f]) → f.store = false →
       s.scalarLoad c f.loc 8 = .ok (u, bs) →
       Gives (.scalarLoadStore c f) s (fun t => (t.core c).sreg f.reg = BitVec.ofNat 64 (leNat bs) ∧
         (∀ r, r % 32 ≠ f.reg % 32 → (t.core c).sreg r = (s.core c).sreg r) ∧ t.mem = u.mem)) ∧
     (∀ (f : ScalarMemF) (u : State), IssuesAlone s c (scalarBundle [.mem f]) → f.store = true →
       s.scalarStore c f.loc (leBytes 8 ((s.core c).sreg f.reg).toNat) = .ok u →
       Gives (.scalarLoadStore c f) s (fun t => t.mem = u.mem ∧ (t.core c).dm = (u.core c).dm ∧
         (t.core c).sregs = (s.core c).sregs ∧ (t.cluster (clusterOf c)).cm = (u.cluster (clusterOf c)).cm))) ∧
  (∀ (c : CoreId) (s : State) (x : Nat), s.ctxOfCore c = some x →
     (∀ v : Word64, IssuesAlone s c (syncBundle (.seedSet v)) → (s.core c).syncQ.length < 16 →
       Gives (.seedSet c v) s (fun t => (t.ctx x).seed = v ∧ (t.ctx x).stepNo = (s.ctx x).stepNo ∧
         (∀ e ∈ (t.core c).syncQ.getLast?, e.op = .sync (.seedSet v) ∧ e.seed = v) ∧
         (t.core c).bundleCount = (s.core c).bundleCount + 1)) ∧
     (∀ v : Word32, IssuesAlone s c (syncBundle (.stepSet v)) → (s.core c).syncQ.length < 16 →
       Gives (.stepSet c v) s (fun t => (t.ctx x).stepNo = v ∧ (t.ctx x).seed = (s.ctx x).seed ∧
         (∀ e ∈ (t.core c).syncQ.getLast?, e.op = .sync (.stepSet v) ∧ e.stepNo = v) ∧
         (t.core c).bundleCount = (s.core c).bundleCount + 1)))

/-- O9. An operation at the head of its queue whose wait is met starts: it leaves the queue for an in-flight place, and the
operations behind it stay in issue order (R63, R64); one that its engine refuses changes nothing of its engine and takes the
course of R65. An UPDATE that suspended in its phases has passed its checks before (R302). A waiting operation does not
start, and neither does one behind it (R64). Commands that complete here: operationStart. It rests on choices of the model
where the spec leaves them: log entries 6, 10 and 14. -/
def Obligations.HeadOfQueueStartsOrWaits : Prop :=
  (∀ (c : CoreId) (q : QueueId) (s : State) (e : QEntry) (rest : List QEntry),
     (s.core c).queue q = e :: rest → s.canStart c q e = true →
     (((s.core c).engineClear q = true → e.resumedUpdate = false → opCheck s c e.op = none) →
       Gives (.operationStart c q) s (fun t => (t.core c).queue q = rest ∧
         (t.core c).inFlight q = (s.core c).inFlight q ++ [e] ∧ (t.core c).stallReported = false ∧
         (∀ p, p ≠ q → (t.core c).queue p = (s.core c).queue p ∧ (t.core c).inFlight p = (s.core c).inFlight p) ∧
         (t.core c).sregs = (s.core c).sregs ∧ t.mem = s.mem)) ∧
     (∀ st, (s.core c).engineClear q = true → e.resumedUpdate = false → opCheck s c e.op = some st →
       Gives (.operationStart c q) s (fun t => RefusedAt s t c (queueCode q) e.pos st ∧ (t.core c).queue q = rest ∧
         (t.core c).inFlight q = (s.core c).inFlight q ∧ t.mem = s.mem))) ∧
  (∀ (c : CoreId) (q : QueueId) (s : State) (e : QEntry) (rest : List QEntry) (w : FlagWait),
     (s.core c).queue q = e :: rest → e.wait = some w → (s.flag (clusterOf c) w.flag).toNat < w.target.toNat →
     exec (.operationStart c q) s = .next s)

/-- O10. An operation that ends done leaves its place and increases the flag of its signal; one that ended refused or
faulted does not signal (R64, R69). PERMUTE collectives, which a flag of the cluster may move on, are kept apart. Commands
that complete here: operationEnd. It rests on choices of the model where the spec leaves them: log entry 6. -/
def Obligations.OperationEndSignals : Prop :=
  ∀ (c : CoreId) (q : QueueId) (i : Nat) (s : State) (e : QEntry) (r : Outc),
    ((s.core c).inFlight q)[i]? = some e → endOrder q i = true → e.outcome = some r →
    (∀ z ∈ (s.cluster (clusterOf c)).colls, (s.collDesc z.ctx z.f.desc).map (·.op) ≠ some 4) →
    Gives (.operationEnd c q i) s (fun t =>
      (t.core c).inFlight q = ((s.core c).inFlight q).eraseIdx i ∧
      (∀ g, e.signal = some g → flagIdOk g.flag = true → r = .done →
        (t.flag (clusterOf c) g.flag).toNat = min ((s.flag (clusterOf c) g.flag).toNat + g.inc) 0xFFFFFFFF) ∧
      ((r ≠ .done ∨ e.signal = none) → ∀ k id, t.flag k id = s.flag k id) ∧
      (∀ k id, (∀ g, e.signal = some g → ¬ (id = g.flag ∧ k = clusterOf c)) → k < 16 → flagIdOk id = true →
        (∀ g, e.signal = some g → flagIdOk g.flag = true) → t.flag k id = s.flag k id) ∧
      (t.core c).sregs = (s.core c).sregs ∧ t.mem = s.mem)

/-- O11. The stall monitor's report, once the conditions have held for longer than the limit, writes a record, latches, and
changes no queue, flag or register of the core beside waking it (R79). A second report waits until a queue of the core has
started an operation (R79). Commands that complete here: waitCycleSuspected. It rests on choices of the model where the spec
leaves them: log entries 74 and 97. -/
def Obligations.StallReportChangesNothingOfTheCore : Prop :=
  (∀ (c : CoreId) (s : State), s.waitCycle c = true → s.stallPassed c = true → fld32 (s.core c).stallCfg 31 31 = 1 →
     (s.core c).stallReported = false → (s.cluster (clusterOf c)).power ≠ .off →
     Gives (.waitCycleSuspected c) s (fun t => s.ras.nextSeq < t.ras.nextSeq ∧ (t.core c).stallReported = true ∧
       { t.core c with stallReported := (s.core c).stallReported, power := (s.core c).power, pwrStat := (s.core c).pwrStat
                       dozeDue := (s.core c).dozeDue } = s.core c ∧
       (∀ d, d ≠ c.val → t.core d = s.core d) ∧ (∀ k id, t.flag k id = s.flag k id) ∧ t.mem = s.mem)) ∧
  (∀ (c : CoreId) (s : State), (s.core c).stallReported = true → exec (.waitCycleSuspected c) s = .next s)

/-- O12. A RUNNING context that is quiescent with a core halted at its stop count becomes STOPPED (R81, R82); a line that
arrives lets issue go on (R59). Commands that complete here: fetchMiss, stopReached. It rests on choices of the model where
the spec leaves them: log entries 3 and 75. -/
def Obligations.StopReachedAndFetchArrival : Prop :=
  (∀ (x : CtxId) (s : State), (s.ctx x).state = .running → s.quiescent x = true →
    (s.ctx x).cores.any (fun c => (s.core c).scalar == .halted) = true →
    Gives (.stopReached x) s (fun t => (t.ctx x).state = .stopped ∧ (t.ctx x).stopHalted = true ∧
      (∀ y, y ≠ x.val → t.ctx y = s.ctx y) ∧ (∀ d, t.core d = s.core d) ∧ t.mem = s.mem)) ∧
  (∀ (c : CoreId) (line : Nat) (s : State) (x pa : Nat) (seg : Nat × List Byte), s.ctxOfCore c = some x →
    s.segment c = some seg → (s.core c).scalar = .fetchStall line →
    s.translate x .fetch .fetch (seg.1 + 256 * line) = .ok pa →
    Gives (.fetchMiss c line) s (fun t => line ∈ (t.core c).fetched ∧ (t.core c).scalar = .running ∧
      { t.core c with fetched := (s.core c).fetched, scalar := (s.core c).scalar, prog := (s.core c).prog } = s.core c ∧
      t.mem = s.mem))

/-! ### Sync operations and Glint (R69, R70, R51 to R55, R290) -/

/-- O13. FLAG_ADD adds and stays at 0xFFFF_FFFF with the flag's bit in CLU_FLAG_OVF; FLAG_SET sets; both end done and leave
every other flag (R69, R70). PERMUTE collectives, which a flag of the cluster may move on, are kept apart. FLAG_WAIT ends
done once the flag's value, compared unsigned, is at least the target, and until then nothing changes; FLAG_READ writes the
flag's value as 4 bytes into data memory and leaves every other byte of it (R70). The word that it writes holds no
uncorrectable error. Commands that complete here: flagWait, flagAdd, flagSet, flagRead. It rests on choices of the model
where the spec leaves them: log entry 6. -/
def Obligations.FlagOperationsAct : Prop :=
  (∀ (c : CoreId) (flag : BitVec 16) (s : State), flagIdOk flag = true →
     (∀ z ∈ (s.cluster (clusterOf c)).colls, (s.collDesc z.ctx z.f.desc).map (·.op) ≠ some 4) →
     (∀ n : Nat, 1 ≤ n → n ≤ 65535 → InFlight s c (.sync (.flagAdd flag n)) →
       Gives (.flagAdd c flag n) s (fun t =>
         (t.flag (clusterOf c) flag).toNat = min ((s.flag (clusterOf c) flag).toNat + n) 0xFFFFFFFF ∧
         (0xFFFFFFFF < (s.flag (clusterOf c) flag).toNat + n →
           bitOf (sget 0 (t.cluster (clusterOf c)).flagOvf (flagOvfWord flag)).toNat (flagIndex flag % 64) = true) ∧
         ((s.flag (clusterOf c) flag).toNat + n ≤ 0xFFFFFFFF →
           (t.cluster (clusterOf c)).flagOvf = (s.cluster (clusterOf c)).flagOvf) ∧
         (∀ k id, flagIdOk id = true → (k, id) ≠ (clusterOf c, flag) → k < 16 → t.flag k id = s.flag k id) ∧
         Ended s t c (.sync (.flagAdd flag n)) .done ∧ t.mem = s.mem)) ∧
     (∀ v : Word32, InFlight s c (.sync (.flagSet flag v)) →
       Gives (.flagSet c flag v) s (fun t => t.flag (clusterOf c) flag = v ∧
         (∀ k id, flagIdOk id = true → (k, id) ≠ (clusterOf c, flag) → k < 16 → t.flag k id = s.flag k id) ∧
         Ended s t c (.sync (.flagSet flag v)) .done ∧ t.mem = s.mem))) ∧
  (∀ (c : CoreId) (flag : BitVec 16) (s : State),
     (∀ v : Word32, InFlight s c (.sync (.flagWait flag v)) →
       (v.toNat ≤ (s.flag (clusterOf c) flag).toNat →
         Gives (.flagWait c flag v) s (fun t => Ended s t c (.sync (.flagWait flag v)) .done ∧
           (∀ k id, t.flag k id = s.flag k id) ∧ t.mem = s.mem)) ∧
       ((s.flag (clusterOf c) flag).toNat < v.toNat → exec (.flagWait c flag v) s = .next s)) ∧
     (∀ a : Nat, InFlight s c (.sync (.flagRead flag a)) → a % 4 = 0 → a + 4 ≤ 65536 →
       (∀ e ∈ (s.core c).dm.badIn [(a / 8 * 8, 8)], e.2 ≠ .double) →
       Gives (.flagRead c flag a) s (fun t =>
         (t.core c).dm.read a 4 = leBytes 4 (s.flag (clusterOf c) flag).toNat ∧
         (∀ b, b < a ∨ a + 4 ≤ b → (t.core c).dm.byte b = (s.core c).dm.byte b) ∧
         Ended s t c (.sync (.flagRead flag a)) .done ∧ t.mem = s.mem)))

/-- O14. GLINT_ARM clears a slot's counts and arms it; GLINT_CLOSE writes the record and disarms the slot; GLINT_SCALE
returns the scale code; BEACON_MARK sets the context's non-finite bit (R51, R53, R55, R290). Each whose checks pass ends
done. Commands that complete here: glintArm, glintClose, glintScale, beaconMark. It rests on choices of the model where the
spec leaves them: log entries 6 and 64. -/
def Obligations.GlintSlotOperations : Prop :=
  ∀ (c : CoreId) (s : State),
    (∀ f : GlintArmF, InFlight s c (.sync (.glintArm f)) → glintArmCheck s c f = none →
      Gives (.glintArm c f) s (fun t => Ended s t c (.sync (.glintArm f)) .done ∧ t.mem = s.mem ∧
        (let g := sget {} (t.cluster (clusterOf c)).glint f.slot
         g.armed = true ∧ g.tensorId = f.tensorId ∧ g.tap = f.tap ∧ g.format = f.format ∧ g.amax = 0 ∧ g.bins = [] ∧
           g.record = f.record) ∧
        (∀ i, i ≠ f.slot → sget {} (t.cluster (clusterOf c)).glint i = sget {} (s.cluster (clusterOf c)).glint i))) ∧
    (∀ (slot x : Nat) (u : State), InFlight s c (.sync (.glintClose slot)) → glintCloseCheck s c slot = none →
      s.ctxOfCore c = some x →
      s.writeVa x .scalar (sget {} (s.cluster (clusterOf c)).glint slot).record
        ((sget {} (s.cluster (clusterOf c)).glint slot).toBytes (s.opEnv c (.sync (.glintClose slot))).stepNo) false = .ok u →
      Gives (.glintClose c slot) s (fun t => Ended s t c (.sync (.glintClose slot)) .done ∧ t.mem = u.mem ∧
        (sget {} (t.cluster (clusterOf c)).glint slot).armed = false)) ∧
    (∀ (slot reg : Nat) (format : Byte) (f : Fmt), InFlight s c (.sync (.glintScale slot format reg)) →
      glintScaleCheck s c slot format reg = none → fmtOf format = some f →
      Gives (.glintScale c slot format reg) s (fun t => Ended s t c (.sync (.glintScale slot format reg)) .done ∧
        (t.core c).sreg reg = (glintScaleCode (sget {} (s.cluster (clusterOf c)).glint slot) f).zeroExtend 64 ∧
        (∀ r, r % 32 ≠ reg % 32 → (t.core c).sreg r = (s.core c).sreg r) ∧ t.mem = s.mem)) ∧
    (∀ x : Nat, InFlight s c (.sync .beaconMark) → s.ctxOfCore c = some x →
      Gives (.beaconMark c) s (fun t => Ended s t c (.sync .beaconMark) .done ∧ (t.ctx x).nonfinite = true ∧
        (∀ y, y ≠ x → t.ctx y = s.ctx y) ∧ t.mem = s.mem))

/-! ### Numbers (chapter 2) -/

/-- O15. A value that a floating-point element represents converts to its own code, whatever the rounding mode, the random
word and the saturation, and raises no flag (R31, R44, R47). -/
def Obligations.RepresentableValuesConvertExactly : Prop :=
  ∀ f ∈ [fp32, bf16, fp16, e4m3, e5m2, e3m2, e2m3, e2m1], ∀ (neg sat : Bool) (mode : Round) (w : Word32) (code : Nat),
    code ≤ f.maxCode → f.encode mode sat w (.fin neg (f.magOf code)) = (f.bits neg code, {}) ∧
      f.decode (f.bits neg code) = .fin neg (f.magOf code)

/-- O16. The scale that an MX or MS group chooses makes no element exceed the element range, whatever its largest finite
magnitude, as long as the scale exponents reach it (R37). -/
def Obligations.ChosenScaleFitsGroup : Prop :=
  ∀ (code : Byte) (f : Fmt) (amax : Rat), fmtOf code = some f → (f.scale = .mx ∨ f.scale = .ms) → 0 < amax →
    amax ≤ f.elemMax * pow2 127 → amax / e8m0 (chooseScale f [] amax) ≤ f.elemMax

/-- O17. Rounding takes one of the two neighbouring numbers; an exact number stays; round to zero never goes up; stochastic
rounding goes up exactly where the 32-bit fraction and the random word carry (R42, R46, R47). -/
def Obligations.RoundingTakesANeighbour : Prop :=
  ∀ (mode : Round) (w : Word32) (t : Rat), 0 ≤ t →
    (roundNat mode w t = floorNat t ∨ roundNat mode w t = floorNat t + 1) ∧
    (t = floorNat t → roundNat mode w t = floorNat t) ∧ roundNat .towardZero w t = floorNat t ∧
    (roundNat .stochastic w t = floorNat t + 1 ↔ 2 ^ 32 ≤ floorNat ((t - floorNat t) * 2 ^ 32) + w.toNat)

/-! ### The matrix and vector engines (chapters 4, 5, 7) -/

/-- O18. Every vector operation that passes its checks ends done and changes nothing but its engine's memories, flags and
counts and the error log; GRAD_QUANT may set the context's non-finite bit beside (R141, R289). Commands that complete here:
add, sub, mul, fma, min, max, abs, neg, copysign, sel, cmpEq, cmpLt, cmpLe, cmpUnord, div, sqrt, iadd, isub, imul, and, or,
xor, shl, shr, sar, imin, imax, cvt, curve, curveLoad, red, softmax, gather, scatter, scatterAdd, accRd, accWr, normPartial,
gradQuant, audit. It rests on choices of the model where the spec leaves them: log entries 6 and 16. -/
def Obligations.VectorOperationsEndDone : Prop :=
  ∀ (c : CoreId) (o : VecOp) (s : State), InFlight s c (.vec o) → vectorCheck s c o = none →
    Gives (opRow c (.vec o)) s (fun t => Ended s t c (.vec o) .done ∧ OnlyEngines c s t ∧
      OnlyClusterMemory (clusterOf c) s t ∧ SameOthers c s t ∧ SameDevice s { t with ctxs := s.ctxs } ∧
      (∀ x, { t.ctx x with nonfinite := (s.ctx x).nonfinite } = s.ctx x) ∧
      ((∀ f, o ≠ .gradQuant f) → t.ctxs = s.ctxs))

/-- O19. Vector operations leave the values of the accumulators but for ACC_WR, and their check bits and poison too but for
ACC_RD and GRAD_QUANT, which read them (R224); the curves but for CURVE_LOAD; and all of them the matrix engine's flags and
counts (R126, R129, R136). A refused vector operation changes nothing of its engine: no memory, accumulator, flag or count
(R8, R141). It rests on choices of the model where the spec leaves them: log entry 6. -/
def Obligations.VectorOperationsFrame : Prop :=
  (∀ (c : CoreId) (o : VecOp) (s : State), vectorCheck s c o = none →
     Gives (opRow c (.vec o)) s (fun t =>
       ((∀ f, o ≠ .accWr f) → ∀ i, ((t.core c).slot i).elems = ((s.core c).slot i).elems ∧
         ((t.core c).slot i).mode = ((s.core c).slot i).mode) ∧
       ((∀ f, o ≠ .accWr f ∧ o ≠ .accRd f) → (∀ f, o ≠ .gradQuant f) → (t.core c).acc = (s.core c).acc) ∧
       ((∀ f, o ≠ .curveLoad f) → (t.core c).curves = (s.core c).curves) ∧
       ((∀ f, o ≠ .audit f) → (t.core c).nprAudit = (s.core c).nprAudit) ∧
       (t.core c).mtxFlags = (s.core c).mtxFlags ∧ (t.core c).mtxQuant = (s.core c).mtxQuant ∧
       (t.core c).matrixF = (s.core c).matrixF ∧ t.mem = s.mem ∧
       (∀ n, (s.core c).vecFlags.getLsbD n = true → (t.core c).vecFlags.getLsbD n = true))) ∧
  (∀ (c : CoreId) (o : VecOp) (s : State) (e : QEntry) (st : Status), (s.core c).entryOf (.vec o) = some e →
     vectorCheck s c o = some st →
     Gives (opRow c (.vec o)) s (fun t => RefusedAt s t c 1 e.pos st ∧
       { t.core c with scalar := (s.core c).scalar, vectorF := (s.core c).vectorF } = s.core c ∧
       (∀ k, t.cluster k = s.cluster k) ∧ t.mem = s.mem))

/-- O20. Every matrix operation that passes its checks, and whose sparse metadata obey the structure (R171 to R179), ends
done and changes nothing but its engine's memories, flags and counts and the error log (R95, R105, R107). Commands that
complete here: mmul, mpreload, mread, npred. It rests on choices of the model where the spec leaves them: log entries 6, 68
and 70. -/
def Obligations.MatrixOperationsEndDone : Prop :=
  ∀ (c : CoreId) (o : MatOp) (s : State), InFlight s c (.mat o) → matCheck s c o = none →
    (∀ f, o = .mmul f → s.sparseViolation c f = none) →
    (∀ f, o = .mread f → f.compress = .none ∨
      suppliedBad (if f.out.kind = .cm then (s.cluster (clusterOf c)).cm else (s.core c).oc) f = none) →
    Gives (opRow c (.mat o)) s (fun t => Ended s t c (.mat o) .done ∧ OnlyEngines c s t ∧
      OnlyClusterMemory (clusterOf c) s t ∧ SameOthers c s t ∧ SameDevice s t)

/-- O21. A product leaves every accumulator slot that its tile does not occupy, and an accumulating product every element of
its tile outside the M by N result; vector flags, curves and data memory stay (R91, R92). Commands that complete here: mmul.
It rests on choices of the model where the spec leaves them: log entry 6. -/
def Obligations.ProductTouchesItsTileOnly : Prop :=
  ∀ (c : CoreId) (f : MmulF) (s : State), mmulCheck s c f = none →
    Gives (.mmul c f) s (fun t =>
      (∀ i, i ∉ tileSlots f.tile f.mode → ((t.core c).slot i).elems = ((s.core c).slot i).elems ∧
        ((t.core c).slot i).poison = ((s.core c).slot i).poison) ∧
      (f.accumulate = true → ∀ i j, i < 128 → j < 128 → (f.m ≤ i ∨ f.n ≤ j) →
        (t.core c).accElem f.tile f.mode i j = (s.core c).accElem f.tile f.mode i j) ∧
      (t.core c).vecFlags = (s.core c).vecFlags ∧ (t.core c).curves = (s.core c).curves ∧
      (t.core c).dm = (s.core c).dm ∧ t.mem = s.mem)

/-- O22. Sparse metadata that break the structure end the product faulted: the tile keeps its content, no signal is due, and
the core faults with one record (R171, R172, R77). Stated where no word that the product reads holds an SRAM error. It rests
on choices of the model where the spec leaves them: log entry 6. -/
def Obligations.SparseViolationFaultsProduct : Prop :=
  ∀ (c : CoreId) (f : MmulF) (s : State) (x : Nat) (v : BitVec 16 × Nat × Nat), InFlight s c (.mat (.mmul f)) →
    mmulCheck s c f = none → s.sparseViolation c f = some v → s.ctxOfCore c = some x → (s.ctx x).state = .running →
    (s.core c).oc.bad = [] → (∀ i, ((s.core c).slot i).bad = []) →
    Gives (.mmul c f) s (fun t => Ended s t c (.mat (.mmul f)) (.faulted v.1) ∧ (t.core c).acc = (s.core c).acc ∧
      (t.ctx x).state = .stopped ∧ t.ras.nextSeq = s.ras.nextSeq + 1 ∧ (∀ k id, t.flag k id = s.flag k id))

/-! ### Copies and remote operations (chapters 10, 14) -/

/-- O23. A plain copy from cluster memory to the operand cache moves its bytes, ends done and leaves every other byte of
both memories (R259, R523). A copy whose field checks fail moves no byte (R523). Commands that complete here: dmaCopy. It
rests on choices of the model where the spec leaves them: log entry 6. -/
def Obligations.LocalCopyMovesItsBytes : Prop :=
  (∀ (c : CoreId) (s : State) (x a b n : Nat), s.ctxOfCore c = some x → s.mustSuspend x = false → 1 ≤ n → n ≤ 65536 →
     let f : DmaF := ⟨⟨.cm, a⟩, ⟨.oc, b⟩, 1, n, 0, 0, []⟩
     InFlight s c (.dma (.copy f)) → (s.opEnv c (.dma (.copy f))).progress = 0 → dmaCheck s c f = none →
     Gives (.dmaCopy c f) s (fun t => Ended s t c (.dma (.copy f)) .done ∧
       (∀ i, i < n → (t.core c).oc.byte (b + i) = (s.cluster (clusterOf c)).cm.byte (a + i)) ∧
       (∀ i, i < b ∨ b + n ≤ i → (t.core c).oc.byte i = (s.core c).oc.byte i) ∧
       (∀ i, (t.cluster (clusterOf c)).cm.byte i = (s.cluster (clusterOf c)).cm.byte i) ∧ t.mem = s.mem)) ∧
  (∀ (c : CoreId) (f : DmaF) (s : State) (e : QEntry) (st : Status), (s.core c).entryOf (.dma (.copy f)) = some e →
     dmaCheck s c f = some st →
     st = genRange ∧ Gives (.dmaCopy c f) s (fun t => RefusedAt s t c 2 e.pos genRange ∧
       { t.core c with scalar := (s.core c).scalar, dmaF := (s.core c).dmaF } = s.core c ∧
       (∀ k, t.cluster k = s.cluster k) ∧ t.mem = s.mem))

/-- O24. PUT and REDUCE_PUT from a local memory, GET, ATOMIC and remote FLAG_SET hand one message to transport, whose header
names the destination, the kind and the remote tag; the operation stays in flight (R365, Tables 14-2, 14-8). Commands that
complete here: put, get, atomic, remoteFlagSet, reducePut. It rests on choices of the model where the spec leaves them: log
entries 6 and 28. -/
def Obligations.RemoteOperationsFormMessages : Prop :=
  ∀ (c : CoreId) (s : State) (x : Nat),
    (∀ f : PutF, MayAsk s x c (.dma (.put f)) → putCheck s c f false = none → (f.src.kind = .oc ∨ f.src.kind = .cm) →
      Gives (.put c f) s (fun t => ∃ m ps, m = putMessage (reqClass f.cls) f.dest.toNat f.rtag 0 0 f.va x ps
          (.op ((s.ctx x).logicalCore c) (s.opEnv c (.dma (.put f))).pos) ∧ ps.length = f.len ∧
        t.xpt.toSend = s.xpt.toSend ++ [m] ∧ t.mem = s.mem ∧ (t.core c).dmaF = (s.core c).dmaF)) ∧
    (∀ f : PutF, MayAsk s x c (.dma (.reducePut f)) → putCheck s c f true = none → (f.src.kind = .oc ∨ f.src.kind = .cm) →
      Gives (.reducePut c f) s (fun t => ∃ m ps, m = putMessage (reqClass f.cls) f.dest.toNat f.rtag 4 f.fmt f.va x ps
          (.op ((s.ctx x).logicalCore c) (s.opEnv c (.dma (.reducePut f))).pos) ∧ ps.length = f.len ∧
        t.xpt.toSend = s.xpt.toSend ++ [m] ∧ t.mem = s.mem ∧ (t.core c).dmaF = (s.core c).dmaF)) ∧
    (∀ f : GetF, MayAsk s x c (.dma (.get f)) → getCheck s c f = none → f.dst.kind ≠ .va →
      Gives (.get c f) s (fun t => ∃ m, Asked s t m ∧ hDest m.hdr = f.dest.toNat ∧ aKind m.hdr = 1 ∧
        aRtag m.hdr = f.rtag ∧ m.payloads = [(leFields [(8, f.va), (4, f.len), (36, 0)], false)])) ∧
    (∀ f : AtomicF, MayAsk s x c (.dma (.atomic f)) → atomicCheck s c f = none → f.dst.kind ≠ .va →
      Gives (.atomic c f) s (fun t => ∃ m, Asked s t m ∧ hDest m.hdr = f.dest.toNat ∧ aKind m.hdr = 2 ∧
        aRtag m.hdr = f.rtag ∧ m.cls = clReq)) ∧
    (∀ f : RemoteFlagF, MayAsk s x c (.dma (.flagSet f)) → remoteFlagCheck f = none →
      Gives (.remoteFlagSet c f) s (fun t => ∃ m, Asked s t m ∧ hDest m.hdr = f.dest.toNat ∧ aKind m.hdr = 3 ∧
        aRtag m.hdr = f.rtag ∧ m.cls = clReq))

/-! ### The Pocket and the buffer pools (chapters 6, 11) -/

/-- O25. STASH_PUT with room creates the entry and ends done; STASH_DROP frees its entry once those that reached it before
have ended; STASH_GET copies an entry out and, with release, frees it for all that arrive after; STASH_PUT_CONTINUE runs the
first waiting STASH_PUT (R156 to R162). Commands that complete here: stashPut, stashPutContinue, stashGet, stashDrop. It
rests on choices of the model where the spec leaves them: log entries 6, 73 and 99. -/
def Obligations.PocketOperations : Prop :=
  (∀ (c : CoreId) (f : StashPutF) (s u v : State) (x : Nat) (gs : List Nat) (bs : List PByte),
    InFlight s c (.dma (.stashPut f)) → (s.cluster (clusterOf c)).pocket.waiting.contains (c.val, f) = false →
    stashPutCheck s c f = none → s.ctxOfCore c = some x → (s.cluster (clusterOf c)).pocket.entries.length < 4096 →
    granulesOf f.size ≤ (s.ctx x).pocketGranules →
    freeGranules ((s.cluster (clusterOf c)).pocket.used false) (s.ctx x).pocketGranules (granulesOf f.size) = some gs →
    s.readLoc x c .stash f.src f.size = .ok (u, bs) →
    u.pocketWrite x (clusterOf c) (entryLocs (s.ctx x) (clusterOf c) false f.size gs) bs = .ok v →
    Gives (.stashPut c f) s (fun t => Ended s t c (.dma (.stashPut f)) .done ∧ t.mem = v.mem ∧
      (t.cluster (clusterOf c)).pocket.entries =
        (s.cluster (clusterOf c)).pocket.entries ++
          [⟨f.key, f.size, false, gs, v.usersStarted (clusterOf c) f.key, false⟩])) ∧
  (∀ (k : ClusterId) (s : State) (x : Nat) (w : Nat × StashPutF) (r : List (Nat × StashPutF)),
    (s.cluster k).pocket.waiting = w :: r → s.ctxOfCluster k = some x →
    exec (.stashPutContinue k) s =
      .next ((s.modCluster k (fun u => { u with pocket := { u.pocket with waiting := r } })).stashPut x w.1 w.2)) ∧
  (∀ (c : CoreId) (f : StashGetF) (s u v : State) (x : Nat) (e : PocketEntry) (bs : List PByte),
    InFlight s c (.dma (.stashGet f)) → stashGetCheck s c f = none → s.ctxOfCore c = some x →
    s.entryFor c (.dma (.stashGet f)) f.key = some e → (f.release = true → s.usersBefore c (.dma (.stashGet f)) e = []) →
    s.pocketRead x (clusterOf c) (entryLocs (s.ctx x) (clusterOf c) e.spilled e.size e.granules) = .ok (u, bs) →
    u.writeLoc x c .stash f.dst bs = .ok v →
    Gives (.stashGet c f) s (fun t => Ended s t c (.dma (.stashGet f)) .done ∧ t.mem = v.mem ∧
      (f.release = true → t.pocketEntry c f.key = none) ∧
      (f.release = false → e.released = false → (t.pocketEntry c f.key).isSome = true))) ∧
  (∀ (c : CoreId) (key : Word32) (s : State) (e : PocketEntry), InFlight s c (.dma (.stashDrop key)) →
    stashDropCheck s c key = none → s.entryFor c (.dma (.stashDrop key)) key = some e →
    s.usersBefore c (.dma (.stashDrop key)) e = [] →
    Gives (.stashDrop c key) s (fun t => Ended s t c (.dma (.stashDrop key)) .done ∧ t.pocketEntry c key = none ∧
      (∀ d, d ≠ key → t.pocketEntry c d = s.pocketEntry c d) ∧ t.mem = s.mem))

/-- O26. BUF_GET that the manager grants lists an allocation with one reference and writes the result record; one that it
answers BPM_EMPTY, BPM_QUOTA or BPM_RESERVED still ends done, with a handle of 0; BUF_REF adds to the count and BUF_PUT
takes from it, and the last one releases the allocation (R274, R276, R279, R280). Commands that complete here: bufGet,
bufRef, bufPut. It rests on choices of the model where the spec leaves them: log entries 6 and 89. -/
def Obligations.BufferOperations : Prop :=
  ∀ (c : CoreId) (s : State),
    (∀ (f : BufGetF) (x i : Nat), InFlight s c (.dma (.bufGet f)) → bufAddrCheck s c f = none → f.result.kind = .cm →
      s.ctxOfCore c = some x → poolGetCheck s x f.pool f.size f.requester = none →
      (s.pool f.pool).block (spanLog2Of f.size (s.pool f.pool).log2) = some i →
      Gives (.bufGet c f) s (fun t => Ended s t c (.dma (.bufGet f)) .done ∧
        (t.pool f.pool).allocs = (s.pool f.pool).allocs ++ [⟨i, spanLog2Of f.size (s.pool f.pool).log2, 1, f.requester⟩] ∧
        (t.cluster (clusterOf c)).cm.read (f.result.addr + 4) 2 = [0, 0] ∧
        (t.cluster (clusterOf c)).cm.read (f.result.addr + 8) 8 =
          leBytes 8 ((s.pool f.pool).base.toNat + i * 2 ^ (s.pool f.pool).log2) ∧ t.mem = s.mem)) ∧
    (∀ (f : BufGetF) (x : Nat) (st : Status), InFlight s c (.dma (.bufGet f)) → bufAddrCheck s c f = none →
      f.result.kind = .cm → s.ctxOfCore c = some x → poolGetCheck s x f.pool f.size f.requester = some st →
      bufAnswered st = true →
      Gives (.bufGet c f) s (fun t => Ended s t c (.dma (.bufGet f)) .done ∧
        (t.pool f.pool).allocs = (s.pool f.pool).allocs ∧
        (t.cluster (clusterOf c)).cm.read f.result.addr 6 = leBytes 4 0 ++ leBytes 2 st.toNat)) ∧
    (∀ (f : BufCountF) (x : Nat) (a : Alloc), InFlight s c (.dma (.bufRef f)) → s.ctxOfCore c = some x →
      poolRefCheck s x f.handle f.n false = none → (s.pool (handlePool f.handle)).live f.handle = some a →
      Gives (.bufRef c f) s (fun t => Ended s t c (.dma (.bufRef f)) .done ∧
        (t.pool (handlePool f.handle)).allocs = (s.pool (handlePool f.handle)).allocs.map (fun b =>
          if b.index = a.index then { b with refs := a.refs + f.n } else b) ∧ t.mem = s.mem)) ∧
    (∀ (f : BufCountF) (x : Nat) (a : Alloc), InFlight s c (.dma (.bufPut f)) → s.ctxOfCore c = some x →
      poolRefCheck s x f.handle f.n true = none → (s.pool (handlePool f.handle)).live f.handle = some a →
      Gives (.bufPut c f) s (fun t => Ended s t c (.dma (.bufPut f)) .done ∧
        (f.n < a.refs → (t.pool (handlePool f.handle)).allocs = (s.pool (handlePool f.handle)).allocs.map (fun b =>
          if b.index = a.index then { b with refs := a.refs - f.n } else b)) ∧
        (f.n = a.refs → (t.pool (handlePool f.handle)).allocs =
          (s.pool (handlePool f.handle)).allocs.filter (fun b => b.index != a.index)) ∧ t.mem = s.mem))

/-! ### The router (chapter 8) -/

/-- O27. ROUTE, ROUTE_GRAD and VISIT_CLEAR write what they compute to context memory and end done; ROUTE is remembered for
its layer, exchange record and round. ROUTE and ROUTE_GRAD run in the order in which they arrived at their router unit
(R193, R195, R217, R219). Commands that complete here: route, routeGrad, visitClear. It rests on choices of the model where
the spec leaves them: log entries 6, 20 and 77. -/
def Obligations.RouterOperationsEndDone : Prop :=
  ∀ (c : CoreId) (s : State) (x : Nat), s.ctxOfCore c = some x →
    (∀ (f : RouteF) (z : Nat × RouterRec) (u v : State) (map : List Nat) (ts : List Token8),
      InFlight s c (.dma (.route f)) → s.routerTurn c (.dma (.route f)) = true → routeCheck s c f = none → s.routerRec x f.layerId = some z →
      s.routeInputs x c z.2 f = .ok (u, map, ts) →
      (let placed := placeAll z.2 f.round ts
       let d := u.drawRuns x z.2 placed.1 placed.2
       d.1.putAll x .routeOp (routeWrites s.node z.2 f map placed.1 d.2.1 (d.2.2.map (gated s.firmwareSet z.2))) = .ok v) →
      Gives (.route c f) s (fun t => Ended s t c (.dma (.route f)) .done ∧ t.mem = v.mem ∧
        (x, f) ∈ (t.cluster (clusterOf c)).routes)) ∧
    (∀ (f : RouteGradF) (z : Nat × RouterRec) (u : State), InFlight s c (.dma (.routeGrad f)) →
      s.routerTurn c (.dma (.routeGrad f)) = true → routeGradCheck s c f = none → s.routerRec x f.layerId = some z → s.routeGrad x c z.2 f = .ok u →
      Gives (.routeGrad c f) s (fun t => Ended s t c (.dma (.routeGrad f)) .done ∧ t.mem = u.mem)) ∧
    (∀ (id : Word32) (z : Nat × RouterRec) (u : State), InFlight s c (.dma (.visitClear id)) →
      s.routerRec x id = some z →
      s.putVa x .exchange z.2.visitArray (List.replicate (4 * z.2.nLocal) 0) = .ok u →
      Gives (.visitClear c id) s (fun t => Ended s t c (.dma (.visitClear id)) .done ∧ t.mem = u.mem))

/-- O28. XSEND hands the messages of its runs to transport and is kept with them; without a message it ends done. XRECV_ARM
arms a receive with its deadline while none of its experts is ready. A deadline that passes ends the receive and stops the
context with a record (R213 to R216). Commands that complete here: xsend, xrecvArm, exchangeDeadline. It rests on choices of
the model where the spec leaves them: log entries 6, 10 and 20. -/
def Obligations.ExchangeOperations : Prop :=
  (∀ (c : CoreId) (f : XsendF) (s u : State) (x pos : Nat) (r : RouterRec) (ms : List Message),
    InFlight s c (.dma (.xsend f)) → xsendCheck s c f = none → s.ctxOfCore c = some x →
    s.routerRec x f.layerId = some (pos, r) →
    (s.cluster (clusterOf c)).xsends.any (fun z => z.core == c.val && z.pos == (s.opEnv c (.dma (.xsend f))).pos && z.f == f) =
      false →
    s.xsendMessages x c pos r f (.xsend ((s.ctx x).logicalCore c) (s.opEnv c (.dma (.xsend f))).pos) = .ok (u, ms) →
    Gives (.xsend c f) s (fun t =>
      (ms = [] → Ended s t c (.dma (.xsend f)) .done) ∧
      (ms ≠ [] → t.xpt.toSend = u.xpt.toSend ++ ms ∧
        ∃ z ∈ (t.cluster (clusterOf c)).xsends, z.core = c.val ∧ z.f = f ∧ z.left.length = ms.length))) ∧
  (∀ (c : CoreId) (f : XrecvF) (s u : State) (x pos : Nat) (r : RouterRec) (v : XRecv),
    (s.cluster (clusterOf c)).xrecvs = [] → xrecvCheck s c f = none → s.ctxOfCore c = some x →
    s.routerRec x f.layerId = some (pos, r) → s.arm x c pos r f = .ok (u, some v) →
    (∀ i ∈ recvExperts r f, v.newlyReady r i = false) → recvExperts r f ≠ [] →
    Gives (.xrecvArm c f) s (fun t => ∃ w ∈ (t.cluster (clusterOf c)).xrecvs, w.f = f ∧ w.core = c.val ∧
      w.deadline = (if f.deadlineMs = 0 then none else some (s.now + f.deadlineMs * 1000000)) ∧ t.mem = u.mem)) ∧
  (∀ (k : ClusterId) (layer : Word32) (phase : Phase) (round : Nat) (s : State) (v : XRecv) (d : Nat) (r : Nat × RouterRec),
    (s.cluster k).xrecvs.find? (fun v => v.f.layerId == layer && v.f.phase == phase && v.f.round == round) = some v →
    v.deadline = some d → s.routerRec v.ctx layer = some r → d ≤ s.now → v.paused = none →
    (s.ctx v.ctx).state = .running →
    Gives (.exchangeDeadline k layer phase round) s (fun t => (t.ctx v.ctx).state = .stopped ∧
      s.ras.nextSeq < t.ras.nextSeq ∧ v ∉ (t.cluster k).xrecvs ∧ t.mem = s.mem))

/-! ### Training and collectives (chapters 12, 15) -/

/-- O29. UPDATE whose memory is mapped ends done whatever its status and counts in UPD_COUNT (R291, R303). It begins with
its decision as the first of its engine's list, or goes on from the point where its engine stands; a row that carries fewer
pieces than are left leaves it there, and one that meets a pre-emption at a chunk boundary leaves it at the head of its
queue (R302). Commands that complete here: update. It rests on choices of the model where the spec leaves them: log entries
6, 24 and 79. -/
def Obligations.UpdateEndsDone : Prop :=
  ∀ (c : CoreId) (f : UpdateF) (pieces : Option Nat) (held : Option UpdHold) (s v w : State) (x : Nat) (r : ShardRec)
    (d : State × UpdNext),
    let o : Op := .dma (.update f)
    let env := s.opEnv c o
    let n := pieces.getD r.allPieces
    let u : UpdRun := ⟨x, c, f.engine, r, env.seed⟩
    InFlight s c o → s.ctxOfCore c = some x → s.ownedShard x f.shard = some r → (s.group f.engine).updating = held →
    (∀ h, held = some h → h.core = c.val ∧ h.pos = env.pos) →
    (held = none → (s.group f.engine).updPending.head? = some (c.val, env.pos) ∧ s.mustSuspend x = false) →
    (s.modGroup f.engine (fun g => g.leave c env.pos)).updStart u f env held = .ok d →
    (∀ st rec freed, updOn u n d = .ok (v, .ended st rec freed) →
      v.putVa x .update f.result (updRecord st rec (v.peekCommit x r).stepCount (v.peekCommit x r).serial freed) = .ok w →
      Gives (.update c ⟨f, pieces⟩) s (fun t => Ended s t c o .done ∧ t.mem = w.mem ∧
        (t.group f.engine).updCount = updCounted (w.group f.engine).updCount st rec ∧
        (c.val, env.pos) ∉ (t.group f.engine).updPending ∧ (t.group f.engine).updating = none)) ∧
    (∀ h, updOn u n d = .ok (v, .going h) →
      Gives (.update c ⟨f, pieces⟩) s (fun t => t.mem = v.mem ∧ (t.group f.engine).updating = some h ∧
        (t.core c).dmaF = (s.core c).dmaF)) ∧
    (∀ h, updOn u n d = .ok (v, .suspends h) → v.updSettle x c r f (.suspends h) = .ok w →
      Gives (.update c ⟨f, pieces⟩) s (fun t => t.mem = w.mem ∧ (t.group f.engine).updating = none ∧
        ∃ e, (s.core c).entryOf o = some e ∧ (t.core c).dmaQ = { e with progress := h.progress } :: (s.core c).dmaQ))

/-- O30. SHARD_STAGE runs its two copies from its progress; EPOCH_FENCE writes the fenced epoch record and waits, and ends
done once no update runs and every started stage has drained; a fence that is cancelled ends done; a fence that waits too
long stops the context; EPOCH_SWITCH raises the epoch and makes the held table current (R308, R313, R314). Commands that
complete here: shardStage, epochFence, epochFenceDrained, epochFenceTimeout, epochSwitch. It rests on choices of the model
where the spec leaves them: log entries 6 and 80. -/
def Obligations.EpochOperations : Prop :=
  (∀ (c : CoreId) (f : ShardStageF) (s : State) (x : Nat) (r : ShardRec), shardStageCheck s c f = none →
    s.ctxOfCore c = some x → s.ownedShard x f.shard = some r →
    exec (.shardStage c f) s = .next (s.stage x c r f (s.opEnv c (.dma (.shardStage f))).pos
      (s.opEnv c (.dma (.shardStage f))).progress)) ∧
  (∀ (c : CoreId) (f : FenceF) (s u : State) (x : Nat) (e : EpochRec), InFlight s c (.dma (.epochFence f)) →
    s.ctxOfCore c = some x → (s.ctx x).fence = none → epochFenceCheck s c f = none → s.epochRec x = some e →
    s.putEpoch x { e with fenced := !f.cancel } = .ok u →
    Gives (.epochFence c f) s (fun t => t.mem = u.mem ∧
      (f.cancel = true → Ended s t c (.dma (.epochFence f)) .done ∧ (t.ctx x).heldTable = none) ∧
      (f.cancel = false → (t.ctx x).fence = some (c.val, s.now + f.limitMs * 1000000) ∧
        (t.core c).dmaF = (s.core c).dmaF))) ∧
  (∀ (x : CtxId) (s : State) (c : Nat) (o : Op), s.fenceOp x = some (c, o) → s.noUpdate x = true →
    s.stagesDrained x = true →
    Gives (.epochFenceDrained x) s (fun t => Ended s t c o .done ∧ (t.ctx x).fence = none ∧
      (∀ k ∈ (s.ctx x).clusters, ∀ z ∈ (t.cluster k).carries, z.ctx ≠ x.val) ∧ t.mem = s.mem)) ∧
  (∀ (x : CtxId) (s : State) (c d deadline : Nat) (o : Op), s.fenceOp x = some (c, o) → (s.ctx x).fence = some (d, deadline) →
    deadline ≤ s.now → (s.ctx x).state = .running →
    Gives (.epochFenceTimeout x) s (fun t => (t.ctx x).state = .stopped ∧ (t.ctx x).fence = none ∧
      Ended s t c o (.faulted 0x200F#16) ∧ t.ras.nextSeq = s.ras.nextSeq + 1 ∧ t.mem = s.mem)) ∧
  (∀ (c : CoreId) (table : Nat) (s u : State) (x : Nat) (e : EpochRec) (rs : List ShardRec),
    InFlight s c (.dma (.epochSwitch table)) → epochSwitchCheck s c = none → s.ctxOfCore c = some x →
    s.epochRec x = some e → (s.ctx x).heldTable = some rs →
    s.putEpoch x ⟨(e.epoch + 1) % 2 ^ 32, false, table, e.epoch, e.table⟩ = .ok u →
    Gives (.epochSwitch c table) s (fun t => Ended s t c (.dma (.epochSwitch table)) .done ∧ t.mem = u.mem ∧
      (t.ctx x).heldTable = none ∧ (t.ctx x).switched = some (table, rs) ∧
      (∀ p, (t.ctx x).program = some p → p.shards = rs)))

/-- O31. COLL_START and BEACON that pass their checks join the collectives of their cluster with all stages of their plan
and the stages armed then counted, make their first sends and go as far as they can; a Beacon collective takes the context's
non-finite bit and clears it in one action (R374, R379, R304). Another collective of the descriptor, a core that no context
holds and a check that fails keep them from it. Commands that complete here: beacon, collStart. It rests on choices of the
model where the spec leaves them: log entry 6. -/
def Obligations.CollectivesStart : Prop :=
  ∀ (c : CoreId) (f : CollF) (s u : State) (x : Nat) (d : CollDesc), s.ctxOfCore c = some x → s.collDesc x f.desc = some d →
    (InFlight s c (.dma (.collStart f)) → (∀ z ∈ (s.cluster (clusterOf c)).colls, z.op ≠ .dma (.collStart f)) →
      collCheck s c f false = none →
      let z := s.newColl x c f (d.op == 6) d (s.opEnv c (.dma (.collStart f))).stepNo
      JoinsCollectives s (s.joined z d) c x d z ∧
      ((s.joined z d).collFirst (clusterOf c) z d = .ok u → exec (.collStart c f) s = .next (u.collGo x f.desc))) ∧
    (InFlight s c (.dma (.beacon f)) → (∀ z ∈ (s.cluster (clusterOf c)).colls, z.op ≠ .dma (.beacon f)) →
      collCheck s c f true = none →
      let z := s.newColl x c f true d (s.opEnv c (.dma (.beacon f))).stepNo
      JoinsCollectives s (s.joined z d) c x d z ∧ z.nonfinite = (s.ctx x).nonfinite ∧
      ((s.joined z d).ctx x).nonfinite = false ∧
      ((s.joined z d).collFirst (clusterOf c) z d = .ok u → exec (.beacon c f) s = .next (u.collGo x f.desc)) ∧
      ∃ v, exec (.beacon c f) s = .next (State.collGo v x f.desc) ∧ v.mem = s.mem ∧
        (v.cluster (clusterOf c)).colls = (s.cluster (clusterOf c)).colls ++
          [z.ownPart 0 0 1 z.nonfinite ((d.members + 7) / 8 + 4) (beaconData z) s.now d.deadlineUs])

/-- O32. A stage whose deadline passes closes with the contributions present, and the collective goes on; one that waits too
long for its members ends the collective and stops the context (R381, R382). A ring stage arms with its wait and sends its
credit to the member before; it sends its messages to the member behind once it has the credit (R388). Commands that
complete here: stageDeadline, collWaitTimeout, ringStageArm, ringStageSend. It rests on choices of the model where the spec
leaves them: log entry 26. -/
def Obligations.CollectiveEventsAct : Prop :=
  ((∀ (k : ClusterId) (desc stage : Nat) (s u : State) (z : Coll) (st : Stage) (d : CollDesc) (due : Nat),
     (s.cluster k).colls.find? (fun z => z.f.desc == desc) = some z → z.stage stage = some st → s.collDesc z.ctx desc = some d →
     st.deadline = some due → due ≤ s.now → st.closed = false → d.timed st = true → s.mustSuspend z.ctx = false →
     (s.ctx z.ctx).state = .running → s.closeStage k z d st = .ok u →
     exec (.stageDeadline k desc stage) s = .next (u.collGo z.ctx desc)) ∧
   (∀ (k : ClusterId) (desc stage : Nat) (s : State) (z : Coll) (st : Stage) (due : Nat),
     (s.cluster k).colls.find? (fun z => z.f.desc == desc) = some z → z.stage stage = some st → st.closed = false →
     st.waitUntil = some due → due ≤ s.now → s.mustSuspend z.ctx = false → (s.ctx z.ctx).state = .running →
     Gives (.collWaitTimeout k desc stage) s (fun t => (t.ctx z.ctx).state = .stopped ∧ s.ras.nextSeq < t.ras.nextSeq ∧
       (∀ y ∈ (t.cluster k).colls, y.ctx ≠ z.ctx ∨ y.f.desc ≠ z.f.desc)))) ∧
  (∀ (k : ClusterId) (desc stage : Nat) (s : State) (z : Coll) (st prev : Stage) (d : CollDesc),
     (s.cluster k).colls.find? (fun z => z.f.desc == desc) = some z → z.stage stage = some st → z.stage (stage - 1) = some prev →
     s.collDesc z.ctx desc = some d → st.code = codeRing → s.mustSuspend z.ctx = false →
     (st.armed = false → stage ≤ (s.flag k d.flagB).toNat + 2 → prev.sent = true → prev.outstanding = 0 →
       Gives (.ringStageArm k desc stage) s (fun t => t.mem = s.mem ∧ ∃ m, t.xpt.toSend = s.xpt.toSend ++ [m] ∧ m.cls = clCol ∧
         hDest m.hdr = (s.members z.ctx d).getD ((s.ownPos z.ctx d + d.members - 1) % d.members) 0 % 65536)) ∧
     (2 ≤ stage → st.sent = false → st.credit = true → s.ringReady k z d stage = true →
       ∃ (u : State) (ms : List Message), u.xpt.toSend = s.xpt.toSend ++ ms ∧ ms ≠ [] ∧
         (∀ m ∈ ms, m.cls = clCol ∧ hDest m.hdr = (s.members z.ctx d).getD ((s.ownPos z.ctx d + 1) % d.members) 0 % 65536) ∧
         exec (.ringStageSend k desc stage) s = .next (u.collGo z.ctx desc)))

/-! ### Transport (chapter 14) -/

/-- O33. A message that starts, in its turn among those of its operation, takes an outbound context in generation 0, sends
all its cells and starts its resend timer; a resend raises the generation and sends all cells again; with the resend limit
reached the message ends faulted (R359, R361). A retry-later NAK starts the back-off and doubles the next one up to 10 ms;
once it is over the message is sent again in the next generation; with the NAK limit reached it ends faulted (R362).
Commands that complete here: messageSend, nakRetry, resendTimeout, nakBackoffExpiry, nakLimitExpiry. It rests on choices of
the model where the spec leaves them: log entry 27. -/
def Obligations.MessagesAreSentAndResent : Prop :=
  ((∀ (i : Nat) (s : State) (m : Message) (id : Nat), s.xpt.toSend[i]? = some m → s.xpt.topo.isSome = true →
     s.freeOutbound = some id → s.mayStart m = true → s.inTurn m = true →
     Gives (.messageSend i) s (fun t => t.xpt.toSend = s.xpt.toSend.eraseIdx i ∧
       t.xpt.injected = s.xpt.injected ++ m.cells s.node id 0 ∧
       (∃ w, t.activeOut id = some w ∧ w.msg = m ∧ w.gen = 0 ∧ w.resends = 0 ∧ w.backoffUs = 10 ∧
         w.resendAt = some (s.now + s.xpt.resendNs)) ∧ t.mem = s.mem)) ∧
   (∀ (id : Nat) (s : State) (m : OutMsg) (due : Nat), s.activeOut id = some m → m.resendAt = some due → due ≤ s.now →
     (m.resends < s.xpt.resendLimit → Gives (.resendTimeout id) s (fun t =>
       t.xpt.injected = s.xpt.injected ++ m.msg.cells s.node id (m.gen + 1).toNat ∧
       t.activeOut id = some { m with gen := m.gen + 1, resends := m.resends + 1, backoffAt := none,
                                      resendAt := some (s.now + s.xpt.resendNs) } ∧
       t.xpt.msgStat = bumpFld s.xpt.msgStat 31 16 1)) ∧
     (s.xpt.resendLimit ≤ m.resends → exec (.resendTimeout id) s = .next (s.msgEnd id m .faulted)))) ∧
  ((∀ (c : Cell) (s : State) (id : Nat) (m : OutMsg), GoodCell s c false clRsp → replyKind c.hdr = 1 →
     (s.takeCell c).replyTo c.hdr = some (id, m) → m.backoffAt = none → hGen c.hdr = m.gen.toNat →
     Gives (.nakRetry c) s (fun t => t.activeOut id = some { m with
       resendAt := none, backoffAt := some (s.now + m.backoffUs * 1000), backoffUs := min (2 * m.backoffUs) 10000
       nakAt := m.nakAt.or (some (s.now + s.xpt.nakNs)) } ∧ t.mem = s.mem)) ∧
   (∀ (id : Nat) (s : State) (m : OutMsg) (due : Nat), s.activeOut id = some m → m.backoffAt = some due → due ≤ s.now →
     Gives (.nakBackoffExpiry id) s (fun t =>
       t.xpt.injected = s.xpt.injected ++ m.msg.cells s.node id (m.gen + 1).toNat ∧
       t.activeOut id = some { m with gen := m.gen + 1, backoffAt := none, resendAt := some (s.now + s.xpt.resendNs) })) ∧
   (∀ (id : Nat) (s : State) (m : OutMsg) (due : Nat), s.activeOut id = some m → m.nakAt = some due → due ≤ s.now →
     exec (.nakLimitExpiry id) s = .next (s.msgEnd id m .faulted)))

/-- O34. Replies end their messages: COMPLETION done, NAK_REFUSE refused with its reason, the last answer cell of a GET or
an ATOMIC done once its data stand at the destination (R351, R353, R365). Commands that complete here: xchReply, completion,
nakRefuse, getData, atomicResult. -/
def Obligations.RepliesEndMessages : Prop :=
  ∀ (c : Cell) (s : State) (id : Nat) (m : OutMsg), (s.takeCell c).replyTo c.hdr = some (id, m) →
    (GoodCell s c true clRsp → xReply c.hdr = true → replyKind c.hdr = 0 →
      exec (.xchReply c) s = .next ((s.takeCell c).msgEnd id m .done)) ∧
    (GoodCell s c false clRsp → replyKind c.hdr = 0 → m.msg.isKind 1 = false → m.msg.isKind 2 = false →
      exec (.completion c) s = .next ((s.takeCell c).msgEnd id m .done)) ∧
    (GoodCell s c false clRsp → replyKind c.hdr = 2 →
      exec (.nakRefuse c) s = .next ((s.takeCell c).msgEnd id m (.refused (replyCode c.hdr)))) ∧
    (∀ (dst : Loc) (len lc pos core : Nat) (u : State), GoodCell s c false clRsp → m.msg.getDst = some (dst, len) →
      m.msg.owner = .op lc pos → 1 ≤ len → hLast c.hdr = 0 → hIdx c.hdr = 0 → hGen c.hdr = m.getGen.toNat → m.gotIdx = [] →
      (s.ctx m.msg.ctx).physicalCore lc = some core →
      (s.takeCell c).landData m.msg.ctx core pos dst ((sliceBytes c.payload 0 len).map (fun b => (b, aPoison c.hdr))) = .ok u →
      (replyKind c.hdr = 3 → len ≤ 48 → m.msg.isKind 1 = true →
        exec (.getData c) s = .next (u.msgEnd id { m with gotIdx := [0] } .done)) ∧
      (replyKind c.hdr = 4 → len = 8 → m.msg.isKind 2 = true →
        exec (.atomicResult c) s = .next (u.msgEnd id { m with gotIdx := [0] } .done)))

/-- O35. A message of an operation that reaches its outcome counts in XPT_MSG_STAT, records the outcome in the operation's
entry, and leaves its context reusable retire_us later; then OUTBOUND_CONTEXT_REUSE frees it (R359, R363). An inbound
context that hears nothing for twice the resend time is freed and its bytes stay; a format-A retire record lapses after its
time (R360, R363). Commands that complete here: inboundContextTimeout, retireExpiry, outboundContextReuse. It rests on
choices of the model where the spec leaves them: log entry 29. -/
def Obligations.MessageTablesAct : Prop :=
  ((∀ (s : State) (id lc pos c : Nat) (m : OutMsg), m.msg.owner = .op lc pos → s.mustSuspend m.msg.ctx = false →
     (s.ctx m.msg.ctx).physicalCore lc = some c → s.hp.chunks = [] →
     (s.msgEnd id m .done).xpt.msgStat = bumpFld s.xpt.msgStat 63 32 1 ∧
     (s.msgEnd id m .faulted).xpt.msgStat = bumpFld s.xpt.msgStat 15 8 1 ∧
     (∀ code, (s.msgEnd id m (.refused code)).xpt.msgStat = bumpFld s.xpt.msgStat 7 0 1) ∧
     (∀ r, ∃ w, sget none (s.msgEnd id m r).xpt.outbound id = some w ∧ w.ended = true ∧ w.reuseAt = s.now + s.xpt.retireNs) ∧
     ((s.msgEnd id m .done).core c).dmaF =
       replaceFirst (fun e => e.pos == pos && e.result.isNone) (fun e => { e with result := some .done }) (s.core c).dmaF ∧
     (∀ code, ((s.msgEnd id m (.refused code)).core c).dmaF = replaceFirst (fun e => e.pos == pos && e.result.isNone)
       (fun e => { e with result := some (.refused (nakStatus code)) }) (s.core c).dmaF)) ∧
   (∀ (id : Nat) (s : State) (m : OutMsg), sget none s.xpt.outbound id = some m → m.ended = true → m.reuseAt ≤ s.now →
     Gives (.outboundContextReuse id) s (fun t => sget none t.xpt.outbound id = none ∧
       (∀ j, j ≠ id → sget none t.xpt.outbound j = sget none s.xpt.outbound j) ∧ t.mem = s.mem))) ∧
  ((∀ (i : Nat) (s : State) (m : InMsg), sget none s.xpt.inbound i = some m → m.reply = none →
     m.lapseAt ≤ s.now →
     Gives (.inboundContextTimeout i) s (fun t => sget none t.xpt.inbound i = none ∧
       t.xpt.staging = s.xpt.staging - m.reserve ∧ t.mem = s.mem)) ∧
   (∀ (i : Nat) (s : State) (r : Retire) (due : Nat), s.xpt.retire[i]? = some r → r.lapse = some due → due ≤ s.now →
     (∀ e ∈ s.xpt.inbound, ∀ m, e.2 = some m → m.reply = none) →
     Gives (.retireExpiry i) s (fun t => t.xpt.retire = s.xpt.retire.eraseIdx i ∧ t.xpt.inbound = s.xpt.inbound ∧ t.mem = s.mem)))

/-- O36. Request cells act at their target: FLAG_SET sets or adds, a PUT's cells write their bytes and its last one is
answered, a GET is answered with its data, an ATOMIC with the old value, a REDUCE_PUT of one cell adds its elements; a
collective's credit or one-cell contribution reaches its stage; a reply ends its message; a management cell enters the ring
or is discarded; an unknown tag is refused, a context that does not run is answered retry-later, a bad CRC is counted and a
cell on an uncorrectable word is dropped (R222, R351, R352, R358, R360, R365, R366, R368, R388). Commands that complete
here: cellArrival. It rests on choices of the model where the spec leaves them: log entries 27 and 100. -/
def Obligations.RequestCellsAct : Prop :=
  ∀ (c : Cell) (s : State) (x i : Nat),
    let u := s.atRequest c
    let h := c.hdr
    let p := c.payload
    let key : MsgKey := .a (BitVec.ofNat 16 (aSrc h)) (aMsg h)
    let word := leAt p 0 8
    let valid := bitsOf word 53 48
    let done := replyA u.node h 0 0 0 0 [] false
    let data := sliceBytes p 8 (if aIdx h = aLast h then valid else 40)
    let got (m : InMsg) : InMsg := { m with got := m.got ++ [hIdx h], lapseAt := u.now + 2 * u.xpt.resendNs }
    (s.isHere c = true → hIsX h = false → c.cls < 6 →
      (s.cellLost c = true → exec (.cellArrival c) s = .next u) ∧
      (s.cellLost c = false → Cell.crcOk c = false →
        Gives (.cellArrival c) s (fun t => t.xpt.dropStat = bumpFld s.xpt.dropStat 63 48 1 ∧ t.mem = s.mem))) ∧
    (GoodCell s c false clRsp → exec (.cellArrival c) s = .next (u.reply c)) ∧
    (GoodCell s c false clMgt → Gives (.cellArrival c) s (fun t => t.mem = s.mem ∧
      t.xpt.mgtRing = (if u.xpt.mgtRing.length < mgtRingCells then u.xpt.mgtRing ++ [c] else u.xpt.mgtRing))) ∧
    (GoodCell s c false c.cls → c.cls = clReq ∨ c.cls = clBlk ∨ c.cls = clCol →
      (u.ctxOfTag (aRtag h) = none → u.xpt.retire.find? (fun r => r.key == key) = none →
        exec (.cellArrival c) s = .next (u.nakA c 2 ncNoTag)) ∧
      (u.ctxOfTag (aRtag h) = some x → u.naksAll x = true → exec (.cellArrival c) s = .next (u.nakA c 1 ncSuspended))) ∧
    (GoodCell s c false c.cls → c.cls = clReq ∨ c.cls = clBlk → u.ctxOfTag (aRtag h) = some x → u.naksAll x = false →
      (NewMessage u key c i → hLast h = 0 →
        (∀ k, aKind h = 3 → aPoison h = false → flagIdOk (BitVec.ofNat 16 (leAt p 1 2)) = true →
          (u.ctx x).physical (leAt p 0 1) = some k → (u.cluster k).colls = [] →
          (leAt p 3 1 = 0 → Gives (.cellArrival c) s (fun t => done ∈ t.xpt.injected ∧ t.mem = s.mem ∧
            t.flag k (BitVec.ofNat 16 (leAt p 1 2)) = BitVec.ofNat 32 (leAt p 4 4))) ∧
          (leAt p 3 1 = 1 → 1 ≤ leAt p 4 4 → leAt p 4 4 ≤ 65535 →
            Gives (.cellArrival c) s (fun t => done ∈ t.xpt.injected ∧ t.mem = s.mem ∧
              t.flag k (BitVec.ofNat 16 (leAt p 1 2)) =
                (u.addFlag k (BitVec.ofNat 16 (leAt p 1 2)) (leAt p 4 4)).flag k (BitVec.ofNat 16 (leAt p 1 2))))) ∧
        (∀ r : State × List PByte, aKind h = 1 → 1 ≤ leAt p 8 4 → leAt p 8 4 ≤ 196608 →
          u.translateMsg x .inbound .read word (leAt p 8 4) = .ok () →
          u.readLoc x 0 .inbound ⟨.va, word⟩ (leAt p 8 4) = .ok r →
          Gives (.cellArrival c) s (fun t => t.mem = r.1.mem ∧ (∃ e ∈ t.xpt.retire, e.key = key ∧ e.reply = c) ∧
            t.xpt.injected = r.1.xpt.injected ++ (payloads48 r.2).zipIdx.map (fun q =>
              replyA u.node h 3 0 q.2 ((payloads48 r.2).length - 1) q.1.1 q.1.2))) ∧
        (∀ (pa : Nat) (v : State) (old : Word64), aKind h = 2 → aPoison h = false → word % 8 = 0 → leAt p 8 1 ≤ 2 →
          u.translateMsg x .inbound .atomic word 8 = .ok () → u.translate x .inbound .atomic word = .ok pa →
          u.atomicPa pa (leAt p 8 1) (BitVec.ofNat 64 (leAt p 16 8)) (BitVec.ofNat 64 (leAt p 24 8)) [] = (v, some old) →
          Gives (.cellArrival c) s (fun t => t.mem = v.mem ∧
            replyA u.node h 4 0 0 0 (leBytes 8 old.toNat) false ∈ t.xpt.injected)) ∧
        (∀ v : State, aKind h = 4 → 1 ≤ valid → valid ≤ 40 → bitsOf word 55 54 ≠ 3 → aIdx h = aLast h →
          bitsOf word 47 0 % reduceBytes (bitsOf word 55 54) = 0 → valid % reduceBytes (bitsOf word 55 54) = 0 →
          u.xpt.staging + valid ≤ reduceStaging → u.translateMsg x .inbound .write (bitsOf word 47 0) valid = .ok () →
          (let w := { u with xpt := { u.xpt with staging := u.xpt.staging + valid } }
           let m := { got (newIn u key x h (bitsOf word 47 0) valid valid) with
                      reserve := valid, staged := [(aIdx h, data)], stagedPoison := aPoison h }
           w.reduceInto m (bitsOf word 55 54) = .ok v) →
          Gives (.cellArrival c) s (fun t => done ∈ t.xpt.injected ∧ t.mem = v.mem))) ∧
      (∀ (v : State), aKind h = 0 → NewMessage u key c i → 1 ≤ valid → valid ≤ 40 →
        (let base := (bitsOf word 47 0 + 2 ^ 48 - 40 * aIdx h) % 2 ^ 48
         u.translateMsg x .inbound .write base (bytes40 h valid) = .ok () →
         u.writeVa x .inbound (bitsOf word 47 0) data (aPoison h) = .ok v →
         Gives (.cellArrival c) s (fun t => t.mem = v.mem ∧ (hLast h = 0 → done ∈ t.xpt.injected) ∧
           (0 < hLast h → sget none t.xpt.inbound i = some (got (newIn u key x h base (bytes40 h valid) valid)))))) ∧
      (∀ (v : State) (m : InMsg), aKind h = 0 → u.xpt.retire.find? (fun r => r.key == key) = none →
        u.findIn key = some (i, m) → m.ctx = x → m.reply = none → m.nak = none → m.last = hLast h → hIdx h ≤ m.last →
        hGen h = m.gen.toNat → u.xpt.retire.length < retireEntries →
        u.writeVa x .inbound (bitsOf word 47 0) (sliceBytes p 8 (if aIdx h = aLast h then m.validLast else 40)) (aPoison h) = .ok v →
        Gives (.cellArrival c) s (fun t => t.mem = v.mem ∧
          (m.got.length < m.last → sget none t.xpt.inbound i = some (got m)) ∧
          (m.got.length = m.last → done ∈ t.xpt.injected ∧ sget none t.xpt.inbound i = none ∧
            ∃ e ∈ t.xpt.retire, e.key = m.key)))) ∧
    (GoodCell s c false clCol → u.ctxOfTag (aRtag h) = some x → u.naksAll x = false → NewMessage u key c i → hLast h = 0 →
      u.epochNak x (aKind h / 8) = none →
      (∀ (y k desc stage : Nat), u.colAdmit x h word = .credit y k desc stage →
        exec (.cellArrival c) s = .next (((u.ringCredit y k desc stage).inject [done]).retire i (got (newIn u key x h 0 0 0)) done)) ∧
      (∀ (y : Nat) (k : ColSink) (v : State), u.colAdmit x h word = .sink y k → (k.fate = 2 ∨ k.inCm = true) →
        aKind h % 8 ≠ codeBeacon → aIdx h = aLast h →
        u.colPlace x k false word (sliceBytes p 8 (landValid word)) (aPoison h) = .ok v →
        (let m := got { newIn u key x h 0 0 (landValid word) with col := some k }
         exec (.cellArrival c) s = .next (((v.colComplete x (aSrc h) k (landOffset word - 40 * aIdx h) (bytes40 h (landValid word))
           (stagedBytes m)).inject [done]).retire i m done))))

/-- O37. A cell of an exchange message that its armed receive takes is placed and counted; a cell for which no record of its
tag and layer stands is an orphan (R360, R367). A forwarded cell joins the chosen channel of the chosen port; a destination
outside the torus or without a candidate link is counted as unroutable and the cell is dropped; one whose buffer word cannot
be corrected is lost where it stands (R222, R355 to R357). Commands that complete here: cellForward, xchCell. -/
def Obligations.ExchangeAndForwardedCellsAct : Prop :=
  (∀ (c : Cell) (s : State),
     let u := s.atRequest c
     let h := c.hdr
     (GoodCell s c true clXch → xReply h = false → u.xDest h = none →
       exec (.xchCell c) s = .next u.orphan) ∧
     (∀ (x y i d : Nat) (r : RouterRec) (v : XRecv) (map nodes : List Nat) (w : State) (m : InMsg),
       GoodCell s c true clXch → xReply h = false → u.xDest h = some d → u.ctxOfTag (xRtag h) = some x → u.naksAll x = false →
       NewMessage u (xKey h) c i → u.xchAdmit h = .fine x y r v → xK h ≠ 511 → u.layerTables x r = some (map, nodes) →
       u.translateMsg x .inboundPinned .write (v.base r map h + xK h * rowsPerMessage r * r.rowPitch)
         (msgRows r (xLast h) * r.rowPitch) = .ok () →
       u.placeCell (newIn u (xKey h) x h (v.base r map h + xK h * rowsPerMessage r * r.rowPitch)
         (msgRows r (xLast h) * r.rowPitch) 0) c = .ok (w, m) → m.got = [] → m.last = hLast h →
       (let n := { m with got := [hIdx h], lapseAt := u.now + 2 * u.xpt.resendNs }
        (0 < hLast h → Gives (.xchCell c) s (fun t => t.mem = w.mem ∧ sget none t.xpt.inbound i = some n)) ∧
        (hLast h = 0 → exec (.xchCell c) s = .next (w.finish i n c))))) ∧
  (∀ (src : Option (PortId × Nat)) (c : Cell) (s u : State) (t : Topology), s.xpt.topo = some t → s.leave src c = some u →
     hDest c.hdr ≠ t.node.toNat →
     (s.lostAt src c = true → exec (.cellForward src c) s = .next u) ∧
     (s.lostAt src c = false → (t.nodes ≤ hDest c.hdr ∨ s.candidates t (hDest c.hdr) = []) →
       Gives (.cellForward src c) s (fun v => v.xpt.dropStat = bumpFld s.xpt.dropStat 47 32 1 ∧ v.mem = s.mem ∧
         (∀ p, (v.port p).waiting = (s.port p).waiting))) ∧
     (∀ p vc, s.lostAt src c = false → hDest c.hdr < t.nodes → s.candidates t (hDest c.hdr) ≠ [] → s.chooseLink t c = some (p, vc) →
       Gives (.cellForward src c) s (fun v => (v.port p).waiting = (s.port p).waiting ++ [⟨vc, c⟩] ∧ v.mem = s.mem ∧
         (∀ q, q ≠ p → (v.port q).waiting = (s.port q).waiting))))

/-! ### Cuff ports (chapter 13) -/

/-- O38. A successful training action moves the port to next_ok of its entry; a failed one, or one that takes too long, is
repeated while retries are left and then goes to next_fail; each action begins as the table says when its entry is entered
or repeated (R333, R334). EXCHANGE sends the port's own capability block, takes the partner's node, port, generations and
allotments and scrambler seeds and negotiates the highest common generation; FALLBACK lowers the target and negotiates
again; without a common generation the port fails (R334, R335). Commands that complete here: trainingTimeout, detect,
deskew, exchange, setGen, eqPreset, eqAdapt, berCheck, delay, fallback, linkUp. It rests on choices of the model where the
spec leaves them: log entries 59 and 104. -/
def Obligations.TrainingActionsMoveOn : Prop :=
  (∀ (p : PortId) (s : State) (e : TrainEntry), s.trainEntry p = some e → (s.port p).entryAt ≤ s.now →
     let ok (i : Instr) := Gives i s (fun t => TrainsTo s t p e.nextOk (entryGen e (s.port p)))
     let fails (i : Instr) := Gives i s (fun t => TrainFails s t p e)
     (e.action = 0 → ok (.detect p true) ∧ fails (.detect p false) ∧
       Gives (.detect p true) s (fun t => fld (t.port p).linkState 35 32 = 15)) ∧
     (e.action = 1 → ∀ n reversed inverted,
       (n ≤ e.param0.toNat → Gives (.deskew p ⟨n, reversed, inverted⟩) s (fun t => TrainsTo s t p e.nextOk (entryGen e (s.port p)) ∧
         (t.port p).reversed = reversed ∧ (t.port p).inverted = inverted)) ∧
       (e.param0.toNat < n → fails (.deskew p ⟨n, reversed, inverted⟩))) ∧
     (e.action = 3 → ok (.setGen p true) ∧ fails (.setGen p false)) ∧
     (e.action = 4 → ok (.eqPreset p)) ∧
     (e.action = 5 → fails (.eqAdapt p none) ∧
       (∀ n, n ≤ e.param0.toNat → Gives (.eqAdapt p (some n)) s (fun t => TrainsTo s t p e.nextOk (entryGen e (s.port p)) ∧
         (t.port p).equalised = entryGen e (s.port p))) ∧
       (∀ n, e.param0.toNat < n → fails (.eqAdapt p (some n)))) ∧
     (e.action = 6 → (s.port p).entryAt + e.param0.toNat * 1000 ≤ s.now → ∀ ber,
       (ber.all (fun r => ratioAtMost r e.param1) = true → ok (.berCheck p ber)) ∧
       (ber.all (fun r => ratioAtMost r e.param1) = false → fails (.berCheck p ber))) ∧
     (e.action = 7 → (s.port p).entryAt + e.param0.toNat * 1000 ≤ s.now → ok (.delay p)) ∧
     (e.action = 9 → ok (.linkUp p true) ∧ fails (.linkUp p false)) ∧
     (∀ due, (s.port p).entryDeadline = some due → due ≤ s.now → fails (.trainingTimeout p))) ∧
  (∀ (p : PortId) (s : State) (e : TrainEntry), s.trainEntry p = some e →
     (∀ b : CapBlock, e.action = 2 →
       (∀ g, negotiatedGen (s.port p).genMask b.genMask.toNat (s.port p).target = some g →
         Gives (.exchange p (some b)) s (fun t => TrainsTo s t p e.nextOk (if e.gen = 0 then g else e.gen) ∧
           (t.port p).negotiated = g ∧ (t.port p).partnerMask = b.genMask ∧ (t.port p).partnerAllot = allotments b.allot ∧
           (t.port p).seeds = b.seeds ∧ (t.port p).sentBlock = some (s.ownBlock p) ∧
           fld (t.port p).linkState 15 0 = b.node.toNat ∧ fld (t.port p).linkState 20 16 = b.port % 32)) ∧
       (negotiatedGen (s.port p).genMask b.genMask.toNat (s.port p).target = none →
         Gives (.exchange p (some b)) s (fun t => (t.port p).state = lsFailed ∧
           fld (t.port p).linkState 39 36 = lcNoCommonGen))) ∧
     (e.action = 2 → Gives (.exchange p none) s (fun t => TrainFails s t p e ∧ (t.port p).sentBlock = some (s.ownBlock p))) ∧
     (e.action = 8 → 2 ≤ (s.port p).target →
       (∀ g, negotiatedGen (s.port p).genMask (s.port p).partnerMask.toNat ((s.port p).target - 1) = some g →
         Gives (.fallback p) s (fun t => TrainsTo s t p e.nextOk (if e.gen = 0 then g else e.gen) ∧ (t.port p).negotiated = g ∧
           (t.port p).target = (s.port p).target - 1)) ∧
       (negotiatedGen (s.port p).genMask (s.port p).partnerMask.toNat ((s.port p).target - 1) = none →
         Gives (.fallback p) s (fun t => (t.port p).state = lsFailed ∧
           fld (t.port p).linkState 39 36 = lcNoCommonGen))))

/-- O39. Loss of lock resets an ACTIVE or Quiet link: what the replay buffer and the channels held is gone, cells but for
those on uncorrectable words go back to transport, training begins at entry 0 with the configuration written since, and
link_resets counts (R332, R337, R338). Commands that complete here: lossOfLock. -/
def Obligations.LossOfLockResetsLink : Prop :=
  ∀ (p : PortId) (lanes : BitVec 4) (s : State), ((s.port p).state = lsActive ∨ (s.port p).state = lsQuiet) →
    Gives (.lossOfLock p lanes) s (fun t => TrainsTo s t p 0 0 ∧ (t.port p).replay = [] ∧ (t.port p).waiting = [] ∧
      (t.port p).input = [] ∧ (t.port p).credits = [] ∧ (t.port p).inForce = (s.port p).cfg ∧
      (t.port p).linkErr = bumpFld (s.port p).linkErr 7 0 1 ∧
      t.xpt.injected = s.xpt.injected ++ (without (s.port p).input (s.port p).struck ++ (s.port p).waiting).map (·.cell) ∧ t.mem = s.mem ∧
      (s.trainTable ≠ [] → fld (t.port p).linkState 39 36 = lcLossOfLock))

/-- O40. Frames go over the lanes scrambled, and are put straight and descrambled before they are decoded (R319). A
transmitted frame that carries cells or credit returns takes the next sequence number and is kept for replay, any other
takes none; a replay sends the kept body again. A received frame in order is accepted, one out of order or bad is not and
asks for a replay (R322 to R326). The replay timer starts a replay from the oldest body, or after 8 replays resets the link;
the receiver asks again when its replay does not come (R325, R326). Commands that complete here: frameTransmit,
frameReceive, replayTimeout, receiverNakTimeout. It rests on choices of the model where the spec leaves them: log entries
30, 101 and 104. -/
def Obligations.FramesAreSequenced : Prop :=
  (∀ (p : PortId) (s : State) (g : Nat), s.frameGen p = some g →
     (let u := s.port p
      let r := Port.pickCells s.classWeights 4 u
      let z := Port.pickReturns 2 r.2
      u.replaying = none → u.replay.length < replayBodies →
      Gives (.frameTransmit p) s (fun t =>
       ((r.1 ≠ [] ∨ z.1 ≠ []) → (t.port p).seq = u.seq + 1 ∧ (t.port p).waiting = z.2.waiting ∧
         ∃ body, (t.port p).replay = u.replay ++ [(u.seq, body)] ∧ (t.port p).lastFrame = wireFrame g body ∧
           (t.port p).lines = (List.range 4).map (laneSymbols g (scrambled (wireFrame g body) 0 u.txScr).1)) ∧
       (r.1 = [] → z.1 = [] → (t.port p).seq = u.seq ∧ (t.port p).replay = u.replay))) ∧
     (∀ q body, (s.port p).replaying = some q → (s.port p).replay.find? (fun b => b.1 == q) = some (q, body) →
       Gives (.frameTransmit p) s (fun t => (t.port p).seq = (s.port p).seq ∧ (t.port p).replay = (s.port p).replay ∧
         (t.port p).lastFrame = wireFrame g
           (refreshBody body ((s.port p).expected - 1) (s.port p).nakDue (s.port p).pmDue))) ∧
     (∀ wire struck, decodeFrame g ((s.port p).descrambled wire).1 = none →
       Gives (.frameReceive p ⟨wire, struck⟩) s (fun t => (t.port p).nakDue = true ∧ (t.port p).input = (s.port p).input ∧
         (t.port p).expected = (s.port p).expected ∧ (t.port p).linkErr = bumpFld (s.port p).linkErr 31 20 1)) ∧
     (∀ wire struck body n, (s.port p).state = lsActive → decodeFrame g ((s.port p).descrambled wire).1 = some (body, n) →
       (bodyCells body).any (fun z => decide (18 ≤ z.vc)) = false →
       lcFld (bodyWord body) 48 48 = 0 → lcFld (bodyWord body) 50 49 = 0 →
       (lcFld (bodyWord body) 3 0 ≠ 0 ∨ bodyReturns body ≠ []) →
       (BitVec.ofNat 12 (lcFld (bodyWord body) 35 24) = (s.port p).expected → (s.port p).overfilled body = false →
         Gives (.frameReceive p ⟨wire, struck⟩) s (fun t => (t.port p).input = (s.port p).input ++ bodyCells body ∧
           (t.port p).expected = (s.port p).expected + 1 ∧ (t.port p).nakAt = none)) ∧
       (BitVec.ofNat 12 (lcFld (bodyWord body) 35 24) ≠ (s.port p).expected →
         Gives (.frameReceive p ⟨wire, struck⟩) s (fun t => (t.port p).input = (s.port p).input ∧
           (t.port p).expected = (s.port p).expected ∧ (t.port p).nakDue = true)))) ∧
  (∀ (p : PortId) (s : State) (due : Nat), (s.port p).state = lsActive → due ≤ s.now →
     (∀ b rest, (s.port p).replayAt = some due → (s.port p).replay = b :: rest →
       ((s.port p).replays < 8 → Gives (.replayTimeout p) s (fun t => (t.port p).replaying = some b.1 ∧
         (t.port p).replays = (s.port p).replays + 1 ∧ (t.port p).replay = (s.port p).replay ∧
         (t.port p).linkErr = bumpFld (s.port p).linkErr 19 8 1)) ∧
       (8 ≤ (s.port p).replays → exec (.replayTimeout p) s = .next (s.linkReset p lcRetryLimit))) ∧
     ((s.port p).nakAt = some due → Gives (.receiverNakTimeout p) s (fun t => (t.port p).nakDue = true ∧
       (t.port p).nakAt = some (s.now + (s.port p).replayNs) ∧ (t.port p).expected = (s.port p).expected)))

/-- O41. An idle port asks for Quiet when nothing refuses it, and counts a refusal with its reason, a running test or scan
among them; a request that is not answered counts as refused by the partner; a wake burst makes a Quiet port ACTIVE (R339,
R341, Table 13-10). A write of CUF_PORT_CFG with a valid value is kept for the next training; clearing enable turns the port
off, setting it starts training; an invalid value changes nothing. A checker of a port in TEST starts with cleared counts,
locks on 128 bits that it predicts, and counts the bits and errors of its time in lock when it loses lock by 64 errors
within 1,024 bits, or when it is written anew (R337, R340, R342, R343, R393). Commands that complete here: quietIdleExpiry,
quietReqTimeout, wakeBurst, cufPortCfgWrite, cufLanePrbsCtlWrite, prbsCheckerLock, prbsCheckerLossOfLock. It rests on
choices of the model where the spec leaves them: log entries 47 and 81. -/
def Obligations.PortQuietAndRegistersAct : Prop :=
  (∀ (p : PortId) (s : State),
     (((s.port p).state = lsActive ∨ (s.port p).state = lsTest) → (s.port p).pm = .none → (s.port p).idleSince + (s.port p).idleNs ≤ s.now →
       ((s.port p).quietRefuser s.now = none → Gives (.quietIdleExpiry p) s (fun t => (t.port p).pm = .requested ∧
         (t.port p).pmDue = 1 ∧ (t.port p).pmStat = (s.port p).pmStat)) ∧
       (∀ r, (s.port p).quietRefuser s.now = some r → Gives (.quietIdleExpiry p) s (fun t => (t.port p).pm = .none ∧
         fld (t.port p).pmStat 17 4 = min (fld (s.port p).pmStat 17 4 + 1) 16383 ∧
         (r ≠ 0 → fld (t.port p).pmStat 3 0 = r))) ∧
       ((s.port p).replay = [] → (s.port p).returns = [] → ((s.port p).state = lsTest ∨ s.now < (s.port p).scanUntil) →
         Gives (.quietIdleExpiry p) s (fun t => fld (t.port p).pmStat 3 0 = 4))) ∧
     (∀ due, (s.port p).pmAt = some due → due ≤ s.now → (s.port p).pm = .requested →
       Gives (.quietReqTimeout p) s (fun t => (t.port p).pm = .none ∧ fld (t.port p).pmStat 3 0 = 3 ∧
         fld (t.port p).pmStat 17 4 = min (fld (s.port p).pmStat 17 4 + 1) 16383)) ∧
     ((s.port p).state = lsQuiet → Gives (.wakeBurst p) s (fun t => (t.port p).state = lsActive ∧
       (t.port p).gen = (s.port p).gen))) ∧
  ((∀ (p : PortId) (v : Word64) (s : State), let w : Word32 := BitVec.ofNat 32 v.toNat
     ((fld32 w 26 24 ≠ 0 ∨ fld32 w 11 8 ≠ 0 ∨ fld32 w 30 28 = 0 ∨ fld32 w 23 12 = 0 ∨ fld32 w 7 0 = 0) →
       exec (.cufPortCfgWrite p v) s = .next s) ∧
     (fld32 w 26 24 = 0 → fld32 w 11 8 = 0 → fld32 w 30 28 ≠ 0 → fld32 w 23 12 ≠ 0 → fld32 w 7 0 ≠ 0 →
       Gives (.cufPortCfgWrite p v) s (fun t => (t.port p).cfg = w ∧
         (bitOf w.toNat 31 = (s.port p).enabled → (t.port p).inForce = (s.port p).inForce ∧
           (t.port p).linkState = (s.port p).linkState) ∧
         (bitOf w.toNat 31 = false → (s.port p).enabled = true → (t.port p).state = lsOff) ∧
         (bitOf w.toNat 31 = true → (s.port p).enabled = false → s.lantern.limited = false → TrainsTo s t p 0 0 ∧
           (t.port p).inForce = w)))) ∧
   (∀ (p : PortId) (lane : Fin 4) (v : Word64) (s : State), let w : Word32 := BitVec.ofNat 32 v.toNat
     prbsCtlReserved w = false → fld32 w 27 25 ≤ 4 → (s.port p).state = lsTest →
     Gives (.cufLanePrbsCtlWrite p lane v) s (fun t =>
       (bitOf w.toNat 30 = true → sget 0 (t.port p).prbs lane = 0 ∧
         fld32 (sget prbsCtlDefault (t.port p).prbsCtl lane) 29 29 = 0) ∧
       (bitOf w.toNat 30 = false → (t.port p).prbs = ((s.prbsNow false p lane).1.port p).prbs ∧
         fld32 (sget prbsCtlDefault (t.port p).prbsCtl lane) 29 29 = 0) ∧
       (t.port p).linkState = (s.port p).linkState)) ∧
   (∀ (p : PortId) (lane bits errors span : Nat) (stream : List Bool) (s : State), lane < 4 →
     ((s.port p).state = lsTest → bitOf (sget prbsCtlDefault (s.port p).prbsCtl lane).toNat 30 = true →
       prbsLocks (sget prbsCtlDefault (s.port p).prbsCtl lane) stream = true →
       Gives (.prbsCheckerLock false p ⟨lane, stream⟩) s (fun t =>
         fld32 (sget prbsCtlDefault (t.port p).prbsCtl lane) 29 29 = 1 ∧ (t.port p).prbs = (s.port p).prbs)) ∧
     (fld32 (sget prbsCtlDefault (s.port p).prbsCtl lane) 29 29 = 1 → 64 ≤ span → span ≤ 1024 →
       Gives (.prbsCheckerLossOfLock false p lane bits ⟨errors, span⟩) s (fun t =>
         fld32 (sget prbsCtlDefault (t.port p).prbsCtl lane) 29 29 = 0 ∧
         sget 0 (t.port p).prbs lane =
           prbsCount (sget 0 (s.port p).prbs lane) (sget 0 (s.port p).prbsRest lane) bits errors))))

/-! ### The memory system (chapter 9) -/

/-- O42. A read of a clean line of an awake group changes nothing of main memory; an ATOMIC stores its result and on a
poisoned line stores nothing (R234, R243). A request to a group in self-refresh holds a slot of its kind, or waits on the
mesh for one, with its reply space reserved, and takes effect when the group leaves self-refresh (R26, R233, R236). A group
whose idle time has run out enters self-refresh and counts it, or counts why it does not; an exit ends it, and the
transaction that has waited takes effect. The scrubs read the next line of their pass and the next word, and correct a
single error; a double error in a memory of the firmware is fatal (R222, R224, R226, R236 to R238, R245). Commands that
complete here: lineRead, lineAtomic, selfRefreshEntry, selfRefreshExit, patrolScrub, sramPatrolScrub. It rests on choices of
the model where the spec leaves them: log entries 12, 13 and 96. -/
def Obligations.MemoryLinesAndScrubsAct : Prop :=
  (∀ (pa : Nat) (k : Traffic) (s : State), pa < lpddrEnd →
     let ch := channelOf (64 * (pa / 64))
     let g := groupOf ch
     (s.mem.deltaOf (pa / 64) = 0 → (s.group g).selfRefresh = false →
       Gives (.lineRead pa k []) s (fun t => t.mem = s.mem ∧ (t.group g).selfRefresh = false)) ∧
     (∀ (op : Nat) (v w : Word64), pa % 8 = 0 → op < 3 → (s.group g).selfRefresh = false →
       (s.mem.deltaOf (pa / 64) = 0 → Gives (.lineAtomic pa op v w ⟨k, []⟩) s (fun t =>
         leAt (t.mem.line (pa / 64)) (pa % 64) 8 =
           (atomicResult64 op (BitVec.ofNat 64 (leAt (s.mem.line (pa / 64)) (pa % 64) 8)) v w).toNat ∧
         (∀ a, a < pa ∨ pa + 8 ≤ a → sget 0 t.mem.bytes a = sget 0 s.mem.bytes a) ∧ (∀ l, t.mem.deltaOf l = s.mem.deltaOf l))) ∧
       (s.mem.deltaOf (pa / 64) = poisonDelta → Gives (.lineAtomic pa op v w ⟨k, []⟩) s (fun t =>
         (∀ a, sget 0 t.mem.bytes a = sget 0 s.mem.bytes a) ∧ (∀ l, t.mem.deltaOf l = s.mem.deltaOf l)))) ∧
     (∀ (n : Nat) (ups : List (Nat × BitVec 16)), trafficNumber k = some n → (s.group g).selfRefresh = true →
       let waits (i : Instr) (a : LineAct) : Prop := Gives i s (fun t => t.mem = s.mem ∧ (t.group g).selfRefresh = true ∧
         t.mesh.replySpace = s.mesh.replySpace + 1 ∧
         ((s.channel ch).room n = true → (t.channel ch).slots = (s.channel ch).slots ++ [⟨n, pa / 64, a⟩]) ∧
         ((s.channel ch).room n = false → t.mesh.memReq = s.mesh.memReq ++ [⟨n, pa / 64, a⟩]))
       waits (.lineRead pa k ups) (.read ups) ∧
       (∀ bs poison, bs ≠ [] → pa % 64 + bs.length ≤ 64 →
         waits (.lineWrite pa bs poison ⟨k, ups⟩) (.write (pa % 64) bs poison ups)) ∧
       (∀ op v w, pa % 8 = 0 → op < 3 → waits (.lineAtomic pa op v w ⟨k, ups⟩) (.atomic (pa % 64) op v w ups)))) ∧
  ((∀ (g : GroupId) (s : State), (s.group g).selfRefresh = false → bitOf (s.group g).srCfg.toNat 31 = true →
     dueBy (s.group g).srDue s.now = true →
     (srRefuser s g = 0 → Gives (.selfRefreshEntry g) s (fun t => (t.group g).selfRefresh = true ∧
       (t.group g).srStat = bumpFld (s.group g).srStat 63 32 1 ∧ t.mem = s.mem)) ∧
     (srRefuser s g ≠ 0 → Gives (.selfRefreshEntry g) s (fun t => (t.group g).selfRefresh = false ∧
       fld (t.group g).srStat 15 4 = min (fld (s.group g).srStat 15 4 + 1) 4095 ∧
       fld (t.group g).srStat 3 0 = srRefuser s g ∧ t.mem = s.mem))) ∧
   (∀ (g : GroupId) (s : State), s.mesh.memReq = [] →
     ((∀ i, i < 8 → (s.channel (8 * g + i)).slots = []) → Gives (.selfRefreshExit g) s (fun t => (t.group g).selfRefresh = false ∧
       (∀ h, h ≠ g.val → t.group h = s.group h) ∧ t.mem = s.mem)) ∧
     (∀ (j : Nat) (x : Txn), (s.group g).selfRefresh = true → j < 8 → (s.channel (8 * g + j)).slots = [x] → x.kind < 5 →
       (∀ i, i < 8 → i ≠ j → (s.channel (8 * g + i)).slots = []) →
       Gives (.selfRefreshExit g) s (fun t => (t.group g).selfRefresh = false ∧ t.mem = (s.act x).mem ∧
         (t.channel (8 * g + j)).slots = []))) ∧
   (∀ (g : GroupId) (s : State), (s.group g).selfRefresh = false → bitOf (s.group g).scrubCfg.toNat 31 = true →
     s.mem.deltaOf (scrubLine g (s.group g).scrubNext) = 0 →
     Gives (.patrolScrub g []) s (fun t => t.mem = s.mem ∧
       (t.group g).scrubNext = (if (s.group g).scrubNext + 1 < 8 * channelLines then (s.group g).scrubNext + 1 else 0))) ∧
   (∀ (k : ClusterId) (word : Nat) (s : State), (s.cluster k).power = .on → 8 * word < cmSize →
     sget none (s.cluster k).cm.bad word = none →
     Gives (.sramPatrolScrub (.cluster k) word (some .single)) s (fun t =>
       (t.cluster k).cm.bytes = (s.cluster k).cm.bytes ∧ sget none (t.cluster k).cm.bad word = none ∧ t.mem = s.mem)) ∧
   (∀ (word : Nat) (s : State),
     (8 * word < 2 ^ 21 → sget none s.lantern.sram.bad word = none →
       Gives (.sramPatrolScrub .lantern word (some .single)) s (fun t => t.lantern.sram.bytes = s.lantern.sram.bytes ∧
         sget none t.lantern.sram.bad word = none ∧ t.ras.fatal = s.ras.fatal) ∧
       Gives (.sramPatrolScrub .lantern word (some .double)) s (fun t => t.ras.fatal = true)) ∧
     (8 * word < 2 ^ 18 → sget none s.power.wardrobe.bad word = none →
       Gives (.sramPatrolScrub .wardrobe word (some .single)) s (fun t => t.power.wardrobe.bytes = s.power.wardrobe.bytes ∧
         sget none t.power.wardrobe.bad word = none ∧ t.ras.fatal = s.ras.fatal) ∧
       Gives (.sramPatrolScrub .wardrobe word (some .double)) s (fun t => t.ras.fatal = true))))

/-- O43. A walk fills the buffers that serve its agent, so that the page then hits, and counts; a page that they hold is not
walked for; a page that is not mapped for an agent of a core or cluster stops the running context with one record; an
inbound agent's stops nothing (R253, R257, R261). Commands that complete here: walk. It rests on choices of the model where
the spec leaves them: log entries 31 and 100. -/
def Obligations.WalkFillsOrFaults : Prop :=
  ∀ (x : CtxId) (agent : Agent) (unit : Nat) (access : Access) (va : Word64) (s : State),
    (s.ctx x).state ≠ .free → va.toNat < 2 ^ 48 →
    (s.tlbHit x agent unit (va.toNat / 65536) = true → Gives (.walk x agent unit access va) s (fun t =>
      t.tlbHit x agent unit (va.toNat / 65536) = true ∧ t.mem = s.mem ∧ ∀ k, (t.cluster k).walkStat = (s.cluster k).walkStat)) ∧
    (s.tlbHit x agent unit (va.toNat / 65536) = false →
      (∀ f, s.lookup x agent access va.toNat = .ok f →
        Gives (.walk x agent unit access va) s (fun t => t.tlbHit x agent unit (va.toNat / 65536) = true ∧
          (∀ k, walkCluster agent unit = some k →
            (t.cluster k).walkStat = bumpFld (s.cluster k).walkStat 63 32 1))) ∧
      (∀ e, s.lookup x agent access va.toNat = .error e →
        (agentInbound agent = false → (s.ctx x).state = .running →
          Gives (.walk x agent unit access va) s (fun t => (t.ctx x).state = .stopped ∧ s.ras.nextSeq < t.ras.nextSeq ∧
            ∀ k, walkCluster agent unit = some k →
              (t.cluster k).walkStat = bumpFld (bumpFld (s.cluster k).walkStat 63 32 1) 31 0 1)) ∧
        (agentInbound agent = true →
          Gives (.walk x agent unit access va) s (fun t => (t.ctx x).state = (s.ctx x).state))))

/-! ### The host port (chapter 16) -/

/-- O44. A received frame that passes its checks fills the buffer, a bad one is counted and dropped; PFC pauses a priority
and quanta of 0 or time end the pause, and what was held goes out; the port answers ARP for its own address (R394 to R398).
The port loses its link, comes up again when its mode is trained, and returns from its test; HP_PORT_CFG takes a valid
value, and a change of mode takes the port down while no queue pair is busy (R393, R397, R424). Commands that complete here:
ethernetFrame, pfcFrame, arpNdIcmp, hostPortTestReturn, hpPortCfgWrite, hostPortLinkDown, hostPortLinkUp, pfcPauseExpiry. It
rests on choices of the model where the spec leaves them: log entry 58. -/
def Obligations.HostPortFramesAndLinkAct : Prop :=
  ((∀ (f : EthFrame) (s : State), s.hp.linkUp = true →
     ((f.len < 64 ∨ 9216 < f.len ∨ f.fcsOk = false) →
       Gives (.ethernetFrame f) s (fun t => t.hp.discards = s.hp.discards + 1 ∧ t.hp.bufferFill = s.hp.bufferFill)) ∧
     (64 ≤ f.len → f.len ≤ 9216 → f.fcsOk = true → f.pause = false → s.secOk f = true →
       s.hp.bufferFill + f.len ≤ bufferBytes →
       Gives (.ethernetFrame f) s (fun t => f.len ≤ t.hp.bufferFill ∧ t.hp.bufferFill ≤ s.hp.bufferFill + f.len ∧
         t.hp.discards = s.hp.discards ∧ t.mem = s.mem))) ∧
   (∀ (p : Fin 8) (n : Nat) (s : State), 0 < n → n ≤ 65535 →
     Gives (.pfcFrame (List.replicate p.val none ++ [some n])) s (fun t => t.paused p = true ∧
       sget 0 t.hp.pauseUntil p = s.now + n * 512000 / s.hpRate + 1 ∧ t.hp.sent = s.hp.sent)) ∧
   (∀ (p : Fin 8) (s : State),
     Gives (.pfcFrame (List.replicate p.val none ++ [some 0])) s (fun t => t.paused p = false ∧
       t.hp.sent = s.hp.sent ++ (s.hp.held.filter (fun h => h.1 == p.val)).map (·.2))) ∧
   (∀ (p : Fin 8) (s : State), s.paused p = true → sget 0 s.hp.pauseUntil p ≤ s.now →
     Gives (.pfcPauseExpiry p) s (fun t => t.paused p = false ∧
       t.hp.sent = s.hp.sent ++ (s.hp.held.filter (fun h => h.1 == p.val)).map (·.2))) ∧
   (∀ (ip : Word32) (s : State), s.hpOpen = true → s.paused 0 = false → s.hp.ipv4 ≠ 0 →
     (ip = s.hp.ipv4 → Gives (.arpNdIcmp (.arp ip)) s (fun t =>
       t.hp.sent = s.hp.sent ++ [(skAnswer, 0 :: macBytes s.hp.mac)] ∧ t.mem = s.mem)) ∧
     (ip ≠ s.hp.ipv4 → exec (.arpNdIcmp (.arp ip)) s = .next s))) ∧
  (∀ (s : State),
     Gives .hostPortLinkDown s (fun t => t.hp.linkUp = false ∧ { t.hp with linkUp := s.hp.linkUp } = s.hp ∧ t.mem = s.mem) ∧
     (s.lantern.running = true → s.hp.testUntil = none → s.pins.refSerdes = true →
       Gives .hostPortLinkUp s (fun t => t.hp.linkUp = true ∧ { t.hp with linkUp := s.hp.linkUp } = s.hp)) ∧
     (∀ due, s.hp.testUntil = some due → due ≤ s.now →
       Gives .hostPortTestReturn s (fun t => t.hp.testUntil = none ∧ t.hp.linkUp = true)) ∧
     (∀ v : Word64, let w : Word32 := BitVec.ofNat 32 v.toNat
       hpCfgReserved w = false → fld32 w 2 0 ≤ 4 → fld32 w 26 24 ≠ fld32 w 22 20 →
       (fld32 w 2 0 = s.hpMode → Gives (.hpPortCfgWrite v) s (fun t => t.hp.cfg = w ∧ t.hp.linkUp = s.hp.linkUp)) ∧
       (fld32 w 2 0 ≠ s.hpMode → s.qpBusy = false →
         Gives (.hpPortCfgWrite v) s (fun t => t.hp.cfg = w ∧ t.hp.linkUp = false)) ∧
       (fld32 w 2 0 ≠ s.hpMode → s.qpBusy = true → exec (.hpPortCfgWrite v) s = .next s)))

/-- O45. Host DMA: an engine translates the far side of a chunk and issues it on its region's queue pair; an acknowledged
write reaches the far region; a response's bytes land at their place; a lost acknowledgement is retried until the queue pair
fails; a NAK fails it (R401, R403). A responder window takes a remote write and answers a remote read; an access outside
every window is refused with a NAK and placed nowhere. A CNP halves the rate down to 1 Gbit/s, and without one it rises
again (R400, R404). Commands that complete here: hostDmaChunk, rdmaAck, rdmaAckTimeout, rdmaWriteReceive, rdmaReadReceive,
cnp, rateIncrease, rdmaNak, rdmaReadResponse. It rests on choices of the model where the spec leaves them: log entries 43
and 65. -/
def Obligations.RemoteMemoryAccessActs : Prop :=
  ((∀ (e : Fin 8) (i j pa : Nat) (s : State) (g : HostChunk),
     let h := { g with engine := e.val, far := pa, region := (farRegionOf pa).1 }
     s.hp.chunks[i]? = some g → g.issued = false →
     s.hp.chunks.any (fun z => z.issued && z.engine == e.val) = false → s.paused s.rocePcp = false →
     (g.collects = true → g.placed ≠ g.len) → s.farSide { g with engine := e.val } = .ok pa →
     s.chunkQp h = some j → (s.qp j).state = .connected →
     (g.toFar = false →
       Gives (.hostDmaChunk e i) s (fun t => t.hp.chunks = s.hp.chunks.eraseIdx i ++ [{ h with issued := true, qp := j }] ∧
         (t.qp j).psn = (s.qp j).psn + 1 ∧ (t.qp j).ackAt.isSome = true ∧ t.mem = s.mem)) ∧
     (∀ r : State × List PByte, g.toFar = true → s.chunkSource h = .ok r → r.2.any (·.2) = false →
       Gives (.hostDmaChunk e i) s (fun t =>
         t.hp.chunks = r.1.hp.chunks.eraseIdx i ++ [{ h with issued := true, qp := j, data := r.2.map (·.1) }] ∧
         (t.qp j).psn = (s.qp j).psn + 1 ∧ (t.qp j).ackAt.isSome = true ∧ t.mem = r.1.mem))) ∧
   (∀ (q : Nat) (s : State) (h : HostChunk), s.oldestOn q = some h → (s.qp q).state = .connected →
     (h.toFar = true ∨ h.placed = h.len) →
     exec (.rdmaAck q) s = .next (s.chunkComplete h h.data)) ∧
   (∀ (q off : Nat) (data : List Byte) (s u : State) (h : HostChunk), s.oldestOn q = some h → (s.qp q).state = .connected →
     h.toFar = false → off + data.length ≤ h.len →
     (h.near.kind ≠ .unlisted → s.chunkLands h off data = .ok u →
       Gives (.rdmaReadResponse q off data false) s (fun t => t.mem = u.mem ∧ (∀ c, t.core c = u.core c)) ∧
       exec (.rdmaReadResponse q off data true) s = .next (u.chunkComplete h h.data)) ∧
     (h.near.kind = .unlisted →
       Gives (.rdmaReadResponse q off data false) s (fun t => { t with hp := { t.hp with chunks := s.hp.chunks } } = s) ∧
       exec (.rdmaReadResponse q off data true) s =
         .next (s.chunkComplete h (patchBytes (sliceBytes h.data 0 h.len) off data)))) ∧
   (∀ (q due : Nat) (s : State), (s.qp q).state = .connected → (s.qp q).ackAt = some due → due ≤ s.now →
     (∀ n, (s.qp q).retriesLeft = n + 1 → Gives (.rdmaAckTimeout q) s (fun t => (t.qp q).retriesLeft = n ∧
       (t.qp q).state = .connected ∧ (t.qp q).ackAt = some (s.now + (s.qp q).timeoutNs) ∧ t.hp.chunks = s.hp.chunks)) ∧
     ((s.qp q).retriesLeft = 0 → Gives (.rdmaAckTimeout q) s (fun t => (t.qp q).state = .error))) ∧
   (∀ (q : Nat) (b : Bool) (s : State), (s.qp q).state = .connected →
     Gives (.rdmaNak q b) s (fun t => (t.qp q).state = .error))) ∧
  ((∀ (q : Nat) (rkey : Word32) (va : Nat) (data : List Byte) (s : State), (s.qp q).state = .connected →
     (∀ (w : Window) (u : State), s.windowFor rkey va data.length = some w → s.writeVa w.ctx .hostDma va data false = .ok u →
       Gives (.rdmaWriteReceive q rkey va data) s (fun t => t.mem = u.mem ∧ t.hp.windowRefusals = s.hp.windowRefusals)) ∧
     (s.windowFor rkey va data.length = none →
       Gives (.rdmaWriteReceive q rkey va data) s (fun t => t.mem = s.mem ∧ t.hp.windowRefusals = s.hp.windowRefusals + 1))) ∧
   (∀ (q : Nat) (rkey : Word32) (va len : Nat) (s : State), (s.qp q).state = .connected →
     (∀ (w : Window) (r : State × List Byte × Bool), s.windowFor rkey va len = some w → s.readVa w.ctx .hostDma va len = .ok r →
       r.2.2 = false → s.hpOpen = true → s.paused s.rocePcp = false →
       Gives (.rdmaReadReceive q rkey va len) s (fun t => t.mem = r.1.mem ∧
         t.hp.sent = s.hp.sent ++ [(skRdma, leBytes 2 q ++ r.2.1)])) ∧
     (s.windowFor rkey va len = none →
       Gives (.rdmaReadReceive q rkey va len) s (fun t => t.mem = s.mem ∧ t.hp.windowRefusals = s.hp.windowRefusals + 1))) ∧
   (∀ (q : Nat) (s : State), (s.qp q).state = .connected →
     Gives (.cnp q) s (fun t => (t.qp q).rate = max 1000 ((s.qp q).rate / 2) ∧ (t.qp q).cnpAt = some s.now) ∧
     (∀ since, (s.qp q).cnpAt = some since → since + 55000 ≤ s.now →
       Gives (.rateIncrease q) s (fun t => (t.qp q).rate = min s.hpRate ((s.qp q).rate + s.hpRate / 20)))))

/-! ### Lantern's mailbox (chapters 16, 17) -/

/-- O46. A request that fails a common check is answered with that status and changes nothing else (R8, R414, R416). -/
def Obligations.RefusedRequestsChangeNothing : Prop :=
  ∀ (i : Instr) (q : Req) (code len : Nat) (x : Option Nat) (info : CmdInfo) (st : Status) (s : State),
    mailboxRow i = some (q, code, len, x) → cmdInfo code = some info → s.lantern.running = true →
    s.mustWait q.session x = false → s.commonCheck q info len x = some st →
    Gives i s (fun t => Answered t q code st [] ∧ OnlyAnswer s t)

/-- O47. Sessions: SESSION_OPEN adds one and answers its number and timeout, and answers as the first did to a repeat within
10 s, and discards an open of a version that it does not serve; SESSION_CLOSE and the timeout end it; DEVICE_INFO answers
the record; DEVICE_RESET answers and is due 10 ms later (R410 to R412, R418). Lantern announces itself with its device
record when it is due and next after 1 s or 30 s, sends the notices that are due again, counts a datagram that is none or
comes from elsewhere than its session's host, and answers a request of a session that it does not know with GEN_NO_SESSION
(R399, R405 to R408, R410). A datagram of a session is heard; its acknowledgement frees the responses kept up to its number.
Commands that complete here: lmpDatagram, announce, noticeResend, sessionTimeout, sessionOpen, sessionClose, deviceInfo,
deviceReset. It rests on choices of the model where the spec leaves them: log entries 39 and 40. -/
def Obligations.SessionsAndDatagramsAct : Prop :=
  ((∀ (q : Req) (addr port version : Nat) (flags : BitVec 16) (timeoutS : Nat) (nonce : Word64) (s : State),
     s.lantern.running = true →
     (s.servesVersion version = false → exec (.sessionOpen q addr port version flags timeoutS nonce) s =
       .next { s with lantern := { s.lantern with discards := s.lantern.discards + 1 } }) ∧
     (s.servesVersion version = true → s.accepts q 0x01 16 none = true →
     let secs := if timeoutS = 0 then 60 else timeoutS
     let answer (n secs' : Nat) : List Byte := leFields [(2, n), (2, 0), (2, secs'), (2, 0)]
     (∀ n z, s.recentOpen addr port nonce = some n → s.session n = some z →
       Answers (.sessionOpen q addr port version flags timeoutS nonce) q 0x01 stDone (answer n z.timeoutS) s s) ∧
     (s.recentOpen addr port nonce = none → flags.toNat ≤ 1 → timeoutS ≤ 3600 → s.lantern.sessions.length < 64 →
       (bitOf flags.toNat 0 = true → (s.lantern.sessions.filter (·.admin)).length < 4) →
       let n := nextNumber (s.lantern.sessions.map (·.number)) 65 s.lantern.nextSession
       Gives (.sessionOpen q addr port version flags timeoutS nonce) s (fun t => Answered t q 0x01 stDone (answer n secs) ∧
         OnlyAnswer s t ∧ ∃ z ∈ t.lantern.sessions, z.number = n ∧ z.addr = addr ∧ z.port = port ∧ z.version = version ∧
           z.admin = bitOf flags.toNat 0 ∧ z.timeoutS = secs ∧ z.heardAt = s.now)))) ∧
   (∀ (q : Req) (s : State), s.accepts q 0x02 0 none = true →
     Gives (.sessionClose q) s (fun t => t.session q.session = none ∧ (∀ m, m ≠ q.session → t.session m = s.session m) ∧
       Answered t q 0x02 stDone [] ∧ (∀ x, x < 16 → q.session ∉ (t.ctx x).sessions) ∧ OnlyAnswer s { t with ctxs := s.ctxs })) ∧
   (∀ (n : Nat) (z : Session) (s : State), s.session n = some z → z.heardAt + z.timeoutS * 1000000000 ≤ s.now →
     Gives (.sessionTimeout n) s (fun t => t.session n = none ∧ (∀ m, m ≠ n → t.session m = s.session m) ∧
       (∀ x, x < 16 → n ∉ (t.ctx x).sessions))) ∧
   (∀ (q : Req) (s : State), s.accepts q 0x03 0 none = true → Answers (.deviceInfo q) q 0x03 stDone s.deviceInfo s s) ∧
   (∀ (q : Req) (kind : Nat) (s : State), s.accepts q 0x04 8 none = true →
     (kind ≠ 0 → Answers (.deviceReset q kind) q 0x04 genRange [] s s) ∧
     Answers (.deviceReset q 0) q 0x04 stDone [] s
       { s with lantern := { s.lantern with resetAt := some (s.now + 10000000), resetCause := 3 } })) ∧
  ((∀ s : State, s.lantern.running = true → s.lantern.announceAt ≤ s.now →
     Gives .announce s (fun t => OnlyAnswer s t ∧
       t.lantern.announceAt = s.now + (if s.lantern.everOpened then 30000000000 else 1000000000) ∧
       (s.hpOpen = true → s.paused s.lmpPcp = false →
         t.hp.sent = s.hp.sent ++ s.announcements))) ∧
   (∀ (n : Nat) (z : Session) (s : State), s.session n = some z →
     Gives (.noticeResend n) s (fun t => OnlyAnswer s t ∧ (∀ y, t.session n = some y → ∀ m ∈ y.notices, s.now < m.resendAt) ∧
       (s.hpOpen = true → s.paused s.lmpPcp = false → t.hp.sent =
         s.hp.sent ++ (z.notices.filter (fun m => decide (m.resendAt ≤ s.now))).map (fun m => (skLmp, noticeBytes z m))))) ∧
   (∀ (addr port : Nat) (bs : List Byte) (s : State), s.lantern.running = true → s.hp.linkUp = true → s.lantern.recovery = false →
     let drop : State := { s with lantern := { s.lantern with discards := s.lantern.discards + 1 } }
     (parseLmp bs = none → exec (.lmpDatagram addr port bs) s = .next drop) ∧
     (∀ d : Lmp, parseLmp bs = some d →
       (s.session d.session = none → d.type = 0 → (d.session ≠ 0 ∨ (d.command ≠ 1 ∧ d.command ≠ 3)) →
         Gives (.lmpDatagram addr port bs) s (fun t => OnlyAnswer s t ∧
           { t.lantern with lastResponse := s.lantern.lastResponse } = s.lantern ∧
           t.lantern.lastResponse = some ⟨d.session, d.seq, d.command, genNoSession, []⟩ ∧
           (s.hpOpen = true → s.paused s.lmpPcp = false → t.hp.sent =
             s.hp.sent ++ [(skLmp, lmpBytes d.version 1 d.session d.command d.seq 0 genNoSession.toNat [])]))) ∧
       (s.session d.session = none → (d.type ≠ 0 ∨ (d.session = 0 ∧ (d.command = 1 ∨ d.command = 3))) →
         exec (.lmpDatagram addr port bs) s = .next s) ∧
       (∀ z, s.session d.session = some z → (z.addr ≠ addr ∨ z.port ≠ port ∨ z.version ≠ d.version) →
         exec (.lmpDatagram addr port bs) s = .next drop) ∧
       (∀ z, s.session d.session = some z → z.addr = addr → z.port = port → z.version = d.version →
         (d.type = 0 → exec (.lmpDatagram addr port bs) s =
           .next ((s.modSessions (fun y => y.number == d.session) (fun y => { y with heardAt := s.now })).lmpRequest
             { z with heardAt := s.now } d)) ∧
         (d.type = 2 → d.version = 2 → Gives (.lmpDatagram addr port bs) s (fun t => ∃ y, t.session d.session = some y ∧
           y.heardAt = s.now ∧ y.kept = z.kept.filter (fun r => decide (d.ack < r.seq))))))))

/-- O48. Contexts: CTX_CREATE sets up a LOADED context on n clusters and answers its number, clusters, handle and save area;
CTX_RESET leaves it LOADED without a program, CTX_FREE frees it; CTX_ATTACH attaches and detaches the session, CTX_STATUS
answers the record, POCKET_CFG sets the overflow range (R249, R256, R413, R466). MAP, UNMAP and PROTECT change the tables of
their context, and an UNMAP waits for the accesses of its range; MEM_READ, MEM_WRITE and MEM_XFER move its bytes (R252,
R255, R420, R421, R403). Commands that complete here: ctxCreate, ctxFree, ctxReset, ctxAttach, ctxStatus, pocketCfg, map,
unmap, protect, memRead, memWrite, memXfer. It rests on choices of the model where the spec leaves them: log entries 32, 34,
41, 102 and 103. -/
def Obligations.ContextAndMemoryCommandsAct : Prop :=
  ((∀ (q : Req) (n rtag : Nat) (flags : BitVec 16) (s : State), s.accepts q 0x10 8 none = true → flags.toNat ≤ 1 →
     let free := (List.range 16).filter (fun x => (s.ctx x).state == .free)
     let x := free.getD (Config.freeNat s.freeCtr % free.length) 0
     let save := bitOf flags.toNat 0
     free ≠ [] → 1 ≤ n → n ≤ 16 → n ≤ s.freeClusters.length → rtag ≤ 15 →
     (∀ y, y < 16 → (s.ctx y).state ≠ .free → (s.ctx y).rtag ≠ rtag) →
     (s.drawn.createCtx x q.session n rtag save = none → Answers (.ctxCreate q n rtag flags) q 0x10 (mapStatus 7) [] s s) ∧
     (∀ u, s.drawn.createCtx x q.session n rtag save = some u →
       x < 16 ∧ (s.ctx x).state = .free ∧ (u.ctx x).state = .loaded ∧ (u.ctx x).rtag = rtag ∧ (u.ctx x).clusters.length = n ∧
       (∀ k ∈ (u.ctx x).clusters, k ∈ s.freeClusters) ∧ (u.ctx x).sessions = [q.session] ∧
       Answers (.ctxCreate q n rtag flags) q 0x10 stDone (leFields [(1, x), (1, 0),
         (2, bitMask 16 (fun k => (u.ctx x).clusters.contains k)), (4, 0), (8, (u.ctx x).handle.toNat),
         (8, if save then saveBase else 0)]) s u)) ∧
   (∀ (q : Req) (x : Nat) (s : State), s.accepts q 0x11 8 (some x) = true →
     (s.freeCtx x).ctx x = {} ∧ Answers (.ctxFree q x) q 0x11 stDone [] s (s.freeCtx x)) ∧
   (∀ (q : Req) (x release : Nat) (s : State), s.accepts q 0x12 8 (some x) = true → release ≤ 1 →
     ((s.ctx x).state = .evicted → (s.ctx x).hadClusters ≤ s.freeClusters.length) →
     let v := if (s.ctx x).state = .evicted then
       s.modCtx x (fun w => { w with clusters := s.freeClusters.take (s.ctx x).hadClusters }) else s
     let u := v.resetCtx x (release == 1)
     (u.ctx x).state = .loaded ∧ (u.ctx x).rtag = (s.ctx x).rtag ∧ (u.ctx x).handle = (s.ctx x).handle ∧ (u.ctx x).program = none ∧
     Answers (.ctxReset q x release) q 0x12 stDone [] s u) ∧
   (∀ (q : Req) (x : Nat) (s : State), s.accepts q 0x13 16 (some x) = true →
     (((s.ctx x).sessions.contains q.session = true ∨ (s.ctx x).sessions.length < 4) →
       Answers (.ctxAttach q x 0 (s.ctx x).handle) q 0x13 stDone [] s (s.modCtx x (fun v => { v with
         sessions := if v.sessions.contains q.session then v.sessions else v.sessions ++ [q.session] }))) ∧
     Answers (.ctxAttach q x 1 (s.ctx x).handle) q 0x13 stDone [] s
       (s.modCtx x (fun v => { v with sessions := v.sessions.filter (· != q.session) })) ∧
     (∀ h, h ≠ (s.ctx x).handle → Answers (.ctxAttach q x 0 h) q 0x13 (ctxStatusCode 4) [] s s)) ∧
   (∀ (q : Req) (x : Nat) (s : State), s.accepts q 0x14 8 (some x) = true →
     Answers (.ctxStatus q x) q 0x14 stDone (leFields [(1, (s.ctx x).state.number),
       (1, (s.ctx x).clusters.length), (2, (s.ctx x).clusterMap), (4, (s.ctx x).stepNo.toNat), (8, (s.ctx x).faultReg.toNat)]) s s) ∧
   (∀ (q : Req) (x va len : Nat) (s : State), s.accepts q 0x15 24 (some x) = true → (s.ctx x).state = .loaded →
     len % 65536 = 0 → len ≤ 64 * 2 ^ 30 → vaBeyond va = false → s.rangePinned x va len = true →
     Answers (.pocketCfg q x va len) q 0x15 stDone [] s (s.modCtx x (fun v => { v with ovfVa := va, ovfLen := len })))) ∧
  ((∀ (q : Req) (x : Nat) (rights : BitVec 16) (va len target : Nat) (s : State), s.accepts q 0x20 32 (some x) = true →
     va % 65536 = 0 → len % 65536 = 0 → 65536 ≤ len → va + len ≤ saveBase → rightsBad rights.toNat = false →
     s.noneMapped x va len = true →
     let far := bitOf rights.toNat 6
     let done (m : Option State) : Prop :=
       (m = none → Answers (.map q x rights va len target) q 0x20 (mapStatus 7) [] s s) ∧
       (∀ u, m = some u → Answers (.map q x rights va len target) q 0x20 stDone
         (leBytes 8 (match u.walkTables (u.ctx x).root va with | .ok f => f.pa va | .error _ => 0)) s u)
     (far = true → target % 65536 = 0 → s.farTarget target len = true → done (s.mapFar x rights.toNat va len target)) ∧
     (far = false → target = 0 → done (s.mapNear x rights.toNat va len))) ∧
   (∀ (q : Req) (x va len : Nat) (s : State), s.accepts q 0x21 24 (some x) = true → rangeMisaligned va len = false →
     vaBeyond va = false → s.allMapped x va len = true → s.anyLeaf x va len ptePinned = false →
     (s.rangeBusy x va len = true → exec (.unmap q x va len) s =
       .next (s.hold ⟨.unmap q x va len, q.session, some x, some (va, len)⟩)) ∧
     (∀ u, s.rangeBusy x va len = false → s.unmapRange x va len = some u → Answers (.unmap q x va len) q 0x21 stDone [] s u)) ∧
   (∀ (q : Req) (x : Nat) (rights : BitVec 16) (va len : Nat) (s u : State), s.accepts q 0x22 24 (some x) = true →
     rangeMisaligned va len = false → vaBeyond va = false → s.allMapped x va len = true → rightsBad rights.toNat = false →
     s.anyLeaf x va len (fun e => ptePinned e != bitOf rights.toNat 7 || pteFar e != bitOf rights.toNat 6) = false →
     s.anyLeaf x va len (fun e => ptePinned e && reduces e rights.toNat) = false →
     (s.anyLeaf x va len (fun e => reduces e rights.toNat) = true → s.rangeBusy x va len = false) →
     s.rewrite x va len (fun e => withFld e 8 3 (rights.toNat / 8)) = some u →
     Answers (.protect q x rights va len) q 0x22 stDone [] s
       (u.dropTlb x (fun p => decide (va / 65536 ≤ p ∧ p < (va + len) / 65536)))) ∧
   (∀ (q : Req) (x va len : Nat) (ps : List (Nat × Nat)) (s : State), s.accepts q 0x23 16 (some x) = true → 1 ≤ len → len ≤ 8168 →
     s.translateRange x .scalar .read va len = .ok ps →
     let r := s.readMarked ps
     Answers (.memRead q x len va) q 0x23 stDone (leBytes 24 (lineMask va r.2) ++ r.2.map (·.1)) s r.1) ∧
   (∀ (q : Req) (x va len : Nat) (data : List Byte) (s u : State), s.accepts q 0x24 (16 + len) (some x) = true → 1 ≤ len →
     len ≤ 8176 → s.writeVa x .scalar va (sliceBytes data 0 len) false = .ok u →
     Answers (.memWrite q x va len data) q 0x24 stDone [] s u) ∧
   (∀ (q : Req) (x dir region va offset len p : Nat) (io : FarIO) (s u : State) (fails : Bool), s.accepts q 0x25 32 (some x) = true →
     dir ≤ 1 → va + len ≤ saveBase →
     State.xfer x dir region va offset len io ((len + chunkBytes - 1) / chunkBytes) 0 s = (u, p, fails) →
     Answers (.memXfer q x dir region va offset len io) q 0x25 (if fails then fltTransfer else stDone) (leBytes 8 p) s u))

/-- O49. PROG_LOAD answers what the loading gives; RUN_START starts every core of a LOADED context at its first bundle with
seed and step number 0; RUN_RESUME_FAULT lets a resumably stopped context whose pages are mapped run on, BISECT_STOP sets a
stop count, DEBUG_READ answers a mask of poisoned lines and the bytes asked for; CFG_RECORD replaces one record (R62, R66,
R81, R83, R258, R422). Pre-emption: PREEMPT makes transport turn the context's arrivals away and sets the drain limit; the
drained context is SUSPENDED, or EVICTED once its save has ended; a drain that takes too long, or a word of data memory that
its save finds uncorrectable, leaves it STOPPED; the answer comes then; RESUME lets it go on (R265 to R268). Commands that
complete here: progLoad, runStart, runResumeFault, preemptSuspend, preemptEvict, preemptDrained, preemptDrainTimeout,
evictSaveDone, resume, bisectStop, debugRead, cfgRecord, evictRestoreDone. It rests on choices of the model where the spec
leaves them: log entries 35 to 38, 46, 93 and 102. -/
def Obligations.RunControlCommandsAct : Prop :=
  ((∀ (q : Req) (x region offset len : Nat) (io : FarIO) (s u v : State) (bs p : List Byte) (st : Status),
     s.accepts q 0x30 24 (some x) = true → (s.ctx x).state = .loaded → (s.ctx x).program = none →
     s.farRead region offset len io = (u, .ok bs) → u.loadProgram x bs = (v, st, p) →
     Answers (.progLoad q x region offset len io) q 0x30 st p s v) ∧
   (∀ (q : Req) (x : Nat) (s : State), s.accepts q 0x31 8 (some x) = true → (s.ctx x).state = .loaded →
     (s.ctx x).program.isSome = true →
     let u := s.runStart x
     (u.ctx x).state = .running ∧ (u.ctx x).seed = 0 ∧ (u.ctx x).stepNo = 0 ∧
     (∀ c ∈ (s.ctx x).cores, (u.core c).offset = 0 ∧ (u.core c).bundleCount = 0 ∧ (u.core c).loops = []) ∧
     Answers (.runStart q x) q 0x31 stDone [] s u) ∧
   (∀ (q : Req) (x : Nat) (s : State), s.accepts q 0x32 8 (some x) = true → (s.ctx x).stoppedResumably = true →
     s.faultsMapped x = true →
     let u := (s.wakeCtx x).restart x
     (u.ctx x).state = .running ∧ (u.ctx x).faults = [] ∧ Answers (.runResumeFault q x) q 0x32 stDone [] s u) ∧
   (∀ (q : Req) (x core count : Nat) (s : State), s.accepts q 0x35 16 (some x) = true → (s.ctx x).state = .loaded → count < 2 ^ 48 →
     (core = 0xFFFF → Answers (.bisectStop q x core count) q 0x35 stDone [] s (s.modCtx x (fun v => { v with stopCount := count }))) ∧
     (core ≠ 0xFFFF → core < 16 * (s.ctx x).clusters.length → Answers (.bisectStop q x core count) q 0x35 stDone [] s
       (s.modCtx x (fun v => { v with coreStops := sset 0 v.coreStops core count })))) ∧
   (∀ (q : Req) (x kind cluster core offset len : Nat) (s : State), s.accepts q 0x36 16 (some x) = true → 1 ≤ len → len ≤ 8168 →
     s.lantern.debug = true → (s.ctx x).state = .stopped → s.quiescent x = true → 1 ≤ kind → kind ≤ 8 →
     cluster < (s.ctx x).clusters.length → (kind ≠ 8 → core < 16) → offset + len ≤ debugSize kind →
     let k := ((s.ctx x).physical cluster).getD 0
     let r := s.debugAnswer kind k (16 * k + core % 16) offset len
     r.2.length = 24 + len ∧ r.1.mem = s.mem ∧ Answers (.debugRead q x kind cluster core offset len) q 0x36 stDone r.2 s r.1) ∧
   (∀ (q : Req) (x index : Nat) (record : List Byte) (p : Program) (s : State), s.accepts q 0x50 136 (some x) = true →
     (s.ctx x).program = some p → (s.ctx x).state ≠ .running →
     (index < p.colls.length → s.activeColl x index = none →
       collOk record s.xpt.topo p.buffers (s.memContent x) (cmSize - (s.ctx x).pocketBytes) = true →
       Answers (.cfgRecord q x 7 index record) q 0x50 stDone [] s (s.modCtx x (fun v => { v with
         program := some { p with colls := p.colls.set index (parseColl record) } }))) ∧
     (index < p.routers.length → (∀ k, k < 16 → ∀ w ∈ (s.cluster k).xrecvs, w.ctx ≠ x ∨ w.layer ≠ index) →
       (parseRouter record).ok record p.buffers = true →
       (∀ z ∈ p.routers.zipIdx, z.2 = index ∨ z.1.layerId ≠ (parseRouter record).layerId) →
       Answers (.cfgRecord q x 8 index record) q 0x50 stDone [] s (s.modCtx x (fun v => { v with
         program := some { p with routers := p.routers.set index (parseRouter record) } }))))) ∧
  ((∀ (q : Req) (x drainMs : Nat) (s : State), s.accepts q 0x33 8 (some x) = true → drainMs ≤ 1000 →
     (s.ctx x).state = .running → (s.ctx x).hardStop = false →
     let due := s.now + (if drainMs = 0 then 10 else drainMs) * 1000000
     Gives (.preemptSuspend q x drainMs) s (fun t => (t.ctx x).nakAll = true ∧ t.mem = s.mem ∧
       (t.ctx x).preempt = some ⟨false, due, q.session, false⟩) ∧
     ((s.ctx x).saveClusters ≠ 0 → Gives (.preemptEvict q x drainMs) s (fun t => (t.ctx x).nakAll = true ∧ t.mem = s.mem ∧
       (t.ctx x).preempt = some ⟨true, due, q.session, false⟩))) ∧
   (∀ (x : CtxId) (p : Preempt) (s : State), (s.ctx x).preempt = some p → p.saving = false → s.drainMask x = 0 →
     (s.ctx x).hardStop = false →
     (p.evict = false → Gives (.preemptDrained x) s (fun t => (t.ctx x).state = .suspended ∧ (t.ctx x).preempt = none ∧
       AnsweredSession t p.session 0x33 stDone [] ∧ t.mem = s.mem)) ∧
     (p.evict = true → Gives (.preemptDrained x) s (fun t => (t.ctx x).preempt = some { p with saving := true }))) ∧
   (∀ (x : CtxId) (p : Preempt) (s : State), (s.ctx x).preempt = some p → p.saving = false → s.drainMask x ≠ 0 →
     p.deadline ≤ s.now →
     Gives (.preemptDrainTimeout x) s (fun t => (t.ctx x).state = .stopped ∧ (t.ctx x).preempt = none ∧
       t.ras.nextSeq = s.ras.nextSeq + 1 ∧ AnsweredSession t p.session 0x33 fltDrain [] ∧ t.mem = s.mem)) ∧
   (∀ (x : CtxId) (p : Preempt) (s : State), (s.ctx x).preempt = some p → p.saving = true →
     let u := (s.ctx x).clusters.foldl State.settleAll s
     ((u.ctx x).hardStop = false → Gives (.evictSaveDone x) s (fun t => (t.ctx x).state = .evicted ∧ (t.ctx x).clusters = [] ∧
       (t.ctx x).hadClusters = (s.ctx x).clusters.length ∧ (t.ctx x).preempt = none ∧ AnsweredSession t p.session 0x33 stDone [])) ∧
     ((u.ctx x).hardStop = true → Gives (.evictSaveDone x) s (fun t => (t.ctx x).state = .stopped ∧ (t.ctx x).preempt = none ∧
       AnsweredSession t p.session 0x33 fltDrain []))) ∧
   (∀ (q : Req) (x : Nat) (s : State), s.accepts q 0x34 8 (some x) = true →
     ((s.ctx x).state = .suspended → exec (.resume q x) s =
       .next (((s.wakeCtx x).resumed x).respond q.session 0x34 stDone (((s.wakeCtx x).resumed x).resumePayload x))) ∧
     ((s.ctx x).state = .evicted → (s.ctx x).fromReset = false → (s.ctx x).hadClusters ≤ s.freeClusters.length →
       Gives (.resume q x) s (fun t => (t.ctx x).restoring = some q.session ∧
         (t.ctx x).clusters.length = (s.ctx x).hadClusters))) ∧
   (∀ (x : CtxId) (n : Nat) (s : State), (s.ctx x).restoring = some n →
     exec (.evictRestoreDone x) s =
       .next (((s.restored x).resumed x).respond n 0x34 stDone (((s.restored x).resumed x).resumePayload x))))

/-- O50. SHARD_TABLE_LOAD holds a checked table under a FENCED epoch; SHARD_RELEASE lets the previous table go; SHARD_EXPORT
writes header and payload to its region; SHARD_IMPORT answers what the import gives (R310, R311, R314, R425). Commands that
complete here: shardTableLoad, shardRelease, shardExport, shardImport. It rests on choices of the model where the spec
leaves them: log entries 22, 49 and 61. -/
def Obligations.ShardCommandsAct : Prop :=
  (∀ (q : Req) (x region offset len : Nat) (io : FarIO) (s u : State) (bs : List Byte), s.accepts q 0x60 24 (some x) = true →
    len % 256 = 0 → s.fencedEpoch x = true → s.farRead region offset len io = (u, .ok bs) →
    u.shardTableOk x (((u.ctx x).program.map (·.buffers)).getD [])
      (BitVec.ofNat 32 (((u.epochRec x).map (·.epoch)).getD 0 + 1)) (parseShards bs) = true →
    Answers (.shardTableLoad q x region offset len io) q 0x60 stDone (leFields [(4, (parseShards bs).length), (4, 0)]) s
      (u.modCtx x (fun v => { v with heldTable := some ((parseShards bs).map (·.1)) }))) ∧
  (∀ (q : Req) (x : Nat) (e : EpochRec) (s u : State), s.accepts q 0x61 8 (some x) = true → s.epochRec x = some e →
    e.fenced = false → e.prevTable ≠ 0 → s.putEpoch x { e with prevTable := 0 } = .ok u →
    Answers (.shardRelease q x) q 0x61 stDone [] s u) ∧
  (∀ (q : Req) (x region : Nat) (comps : BitVec 16) (shard offset : Nat) (io : FarIO) (r : ShardRec) (s v w : State) (bs : List Byte),
    s.accepts q 0x62 16 (some x) = true → s.ownedShard x shard = some r →
    (∀ n, n < 16 → bitOf comps.toNat n = true → r.hasComp n = true) → (s.peekProgress x r).phase = 0 →
    (r.tier = 1 → (s.peekCommit x r).resident = (s.peekCommit x r).serial) →
    s.exportPayload x r (s.peekCommit x r).momAddr comps.toNat = .ok (v, bs) →
    let file := shardHeader r (s.peekCommit x r) (((v.epochRec x).map (·.epoch)).getD 0) comps.toNat bs ++ bs
    v.farWrite region offset file io = (w, none) →
    Answers (.shardExport q x region comps shard offset io) q 0x62 stDone
      (leFields [(8, file.length), (8, (s.peekCommit x r).serial)]) s w) ∧
  (∀ (q : Req) (x region offset len : Nat) (io : FarIO) (s u v : State) (bs p : List Byte) (st : Status),
    s.accepts q 0x63 24 (some x) = true → s.farRead region offset len io = (u, .ok bs) → u.importFile x bs = (v, st, p) →
    Answers (.shardImport q x region offset len io) q 0x63 st p s v)

/-- O51. TOPOLOGY_LOAD and LINK_CFG write the record, the training table and the port and transport registers they name;
LINK_TEST takes a port into TEST, programs, reads and scans its lanes, with Quiet held off while it scans, and leaves TEST
for training (R342 to R344, R348, R364, R369). Commands that complete here: topologyLoad, linkCfgTrainingTable,
linkCfgPortCfg, linkCfgCreditCfg, linkCfgLinkExcl, linkCfgTimerCfg, linkTestEnter, linkTestSet, linkTestRead, linkTestScan,
linkTestLeave. It rests on choices of the model where the spec leaves them: log entries 47 and 81. -/
def Obligations.FabricCommandsAct : Prop :=
  (∀ (q : Req) (record : List Byte) (s : State), s.accepts q 0x40 128 none = true → (parseTopology record).ok = true →
    s.xpt.outbound = [] → s.xpt.inbound = [] →
    Answers (.topologyLoad q record) q 0x40 stDone [] s { s with xpt := { s.xpt with topo := some (parseTopology record) } }) ∧
  (∀ (q : Req) (es : List TrainEntry) (s : State), s.accepts q 0x41 (16 + 16 * es.length) none = true → 1 ≤ es.length →
    es.length ≤ 62 → (∀ e ∈ es, e.retries ≤ 15 ∧ e.timeoutUs ≠ 0) → trainTableBad es = false →
    (∀ p, p < 24 → (s.port p).state = lsOff ∨ (s.port p).state = lsFailed) →
    Answers (.linkCfgTrainingTable q es) q 0x41 stDone [] s { s with trainTable := es }) ∧
  (∀ (q : Req) (mask : Word32) (value : Word64) (s : State), s.accepts q 0x41 16 none = true →
    ((s.writePortCfg 0 (value.truncate 32)).1 = stDone → Gives (.linkCfgPortCfg q mask value) s (fun t =>
      (∀ p, p < 24 → bitOf mask.toNat p = true → (t.port p).cfg = value.truncate 32) ∧
      (∀ p, bitOf mask.toNat p = false → t.port p = s.port p) ∧ Answered t q 0x41 stDone [])) ∧
    ((s.writeCreditCfg 0 value).1 = stDone → Gives (.linkCfgCreditCfg q mask value) s (fun t =>
      (∀ p, p < 24 → bitOf mask.toNat p = true → (t.port p).creditCfg = value) ∧
      (∀ p, bitOf mask.toNat p = false → t.port p = s.port p) ∧ Answered t q 0x41 stDone [])) ∧
    ((s.writeLinkExcl (value.truncate 32)).1 = stDone → Answers (.linkCfgLinkExcl q value) q 0x41 stDone [] s
      { s with xpt := { s.xpt with linkExcl := value.truncate 32 } }) ∧
    ((s.writeTimerCfg value).1 = stDone → Answers (.linkCfgTimerCfg q value) q 0x41 stDone [] s
      { s with xpt := { s.xpt with timerCfg := value } })) ∧
  (∀ (q : Req) (f : LinkTestF) (s : State), s.accepts q 0x42 16 none = true → testRangeBad f = false →
    let open' := s.freeBytes (8 * (testLanes f).length)
    (f.side = 0 → ((s.drawn.enterTest f.port).port f.port).state = lsTest ∧
      Answers (.linkTestEnter q f) q 0x42 stDone open' s (s.drawn.enterTest f.port)) ∧
    (f.side = 1 → s.qpBusy = false → Gives (.linkTestEnter q f) s (fun t => t.hp.linkUp = false ∧
      t.hp.testUntil = some (s.now + f.dwellUs * 1000) ∧ Answered t q 0x42 stDone open')) ∧
    (s.inTest f = true →
      (f.side = 0 → ∀ l ∈ testLanes f, fld32 (sget prbsCtlDefault ((s.drawn.testProgram f).port f.port).prbsCtl l) 27 25 = f.pattern) ∧
      (f.side = 1 → ∀ l ∈ testLanes f, fld32 (sget prbsCtlDefault (s.drawn.testProgram f).hp.prbsCtl l) 27 25 = f.pattern) ∧
      Answers (.linkTestSet q f) q 0x42 stDone open' s (s.drawn.testProgram f)) ∧
    ((f.side = 0 → s.inTest f = true) → (s.testCounts f).2.length = 8 * (testLanes f).length ∧
      Answers (.linkTestRead q f) q 0x42 stDone (s.testCounts f).2 s (s.testCounts f).1) ∧
    (∀ eyes, (f.side = 0 → (s.port f.port).state = lsActive ∨ (s.port f.port).state = lsQuiet ∨ (s.port f.port).state = lsTest) →
      (f.side = 1 → s.inTest f = true) →
      (f.side = 0 → ((s.scanned f eyes).port f.port).state ≠ lsQuiet ∧ ((s.scanned f eyes).port f.port).pm = .none) ∧
      Answers (.linkTestScan q f eyes) q 0x42 stDone ((scanLanes f eyes).flatMap (eyeRecord (scanTarget f) (s.pam4 f))) s
        (s.scanned f eyes)) ∧
    (f.side = 0 → (s.port f.port).enabled = true → Gives (.linkTestLeave q f) s (fun t => TrainsTo s t f.port 0 0 ∧
      Answered t q 0x42 stDone open')) ∧
    (f.side = 1 → Gives (.linkTestLeave q f) s (fun t => t.hp.testUntil = none ∧ t.hp.linkUp = true ∧
      (∀ l, l < 8 → s.hp.testUntil.isSome = true → fld32 (sget prbsCtlDefault t.hp.prbsCtl l) 29 29 = 0) ∧
      Answered t q 0x42 stDone open')))

/-- O52. The host-port commands write mode, addresses and MACsec keys, and make, connect, reset and remove queue pairs and
windows; the pool, region and policy commands write what they carry (R25, R270, R277, R396, R398, R400, R402, R404).
Commands that complete here: poolCfgSet, poolCfgRemove, poolQuota, regionBind, regionUnbind, memPolicy, hpPort, hpAddr,
hpMacsecInstall, hpMacsecRemove, hpQpCreate, hpQpConnect, hpQpReset, hpQpDestroy, hpWindowCreate, hpWindowDestroy. It rests
on choices of the model where the spec leaves them: log entries 44, 48 and 58. -/
def Obligations.SetupCommandsAct : Prop :=
  (∀ (q : Req) (w : Word32) (s : State), s.accepts q 0x43 8 none = true → (s.writeHpCfg w).1 = stDone →
    Gives (.hpPort q w) s (fun t => t.hp.cfg = w ∧ Answered t q 0x43 stDone [])) ∧
  (∀ (q : Req) (v4 : Word32) (p4 p6 : Byte) (v6 : BitVec 128) (s : State), s.accepts q 0x44 24 none = true →
    Answers (.hpAddr q v4 p4 p6 v6) q 0x44 stDone [] s
      { s with hp := { s.hp with ipv4 := v4, v4Prefix := p4, ipv6 := v6, v6Prefix := p6 } }) ∧
  (∀ (q : Req) (dir sc an : Nat) (ssci : Word32) (sci pn : Word64) (key : BitVec 256) (salt : BitVec 96) (s : State),
    s.accepts q 0x45 68 none = true → dir ≤ 1 → sc ≤ 3 → an ≤ 3 →
    ((∀ k ∈ s.hp.keys, k.onChannel dir sc = true → k.sci = sci) →
      (s.hp.keys.filter (fun k => k.onChannel dir sc && k.an != an)).length < 2 →
      Answers (.hpMacsecInstall q dir sc an ssci sci pn key salt) q 0x45 stDone [] s { s with hp := { s.hp with
        keys := s.hp.keys.filter (fun k => !(k.onChannel dir sc && k.an == an)) ++ [⟨dir, sc, an, ssci, sci, pn, key, salt⟩] } }) ∧
    Answers (.hpMacsecRemove q dir sc an) q 0x45 stDone [] s { s with hp := { s.hp with
      keys := s.hp.keys.filter (fun k => !(k.onChannel dir sc && k.an == an)) } }) ∧
  (∀ (q : Req) (i mtu d retry : Nat) (s : State), s.accepts q 0x46 32 none = true → qpRangeBad mtu d retry = false → i ≤ 1023 →
    ((s.qp i).state = .absent → Gives (.hpQpCreate q i mtu d retry) s (fun t => (t.qp i).state = .created ∧
      (t.qp i).mtu = mtu ∧ (t.qp i).t = qpTimeout d ∧ (t.qp i).retry = retry ∧ Answered t q 0x46 stDone (t.qp i).payload ∧
      (∀ j, j ≠ i → t.qp j = s.qp j))) ∧
    ((s.qp i).state = .created → ∀ (n psn : Word32) (ip : BitVec 128), Gives (.hpQpConnect q i mtu d retry n psn ip) s (fun t =>
      (t.qp i).state = .connected ∧ (t.qp i).remoteQpn = n ∧ (t.qp i).remotePsn = psn ∧ (t.qp i).rate = s.hpRate ∧
      Answered t q 0x46 stDone (t.qp i).payload))) ∧
  (∀ (q : Req) (i : Nat) (s : State), s.accepts q 0x46 32 none = true → i ≤ 1023 → (s.qp i).state ≠ .absent →
    Gives (.hpQpReset q i) s (fun t => (t.qp i).state = .created ∧ Answered t q 0x46 stDone (t.qp i).payload) ∧
    (s.hp.regions.any (fun e => (e.2.map (·.qp)) == some i) = false →
      Answers (.hpQpDestroy q i) q 0x46 stDone (s.qp i).payload s (s.setQp i {}))) ∧
  (∀ (q : Req) (w x va len : Nat) (s : State), s.accepts q 0x47 24 (some x) = true → w ≤ 255 →
    ((s.windowCtx w = none ∨ s.windowCtx w = some x) → vaBeyond va = false → va + len ≤ saveBase → s.rangePinned x va len = true →
      Gives (.hpWindowCreate q w x va len) s (fun t => ∃ k, sget none t.hp.windows w = some ⟨x, va, len, k⟩ ∧
        Answered t q 0x47 stDone (leFields [(4, k.toNat), (4, 0)]))) ∧
    (∀ z, sget none s.hp.windows w = some z → z.ctx = x → Answers (.hpWindowDestroy q w x) q 0x47 stDone
      (leFields [(4, z.rkey.toNat), (4, 0)]) s { s with hp := { s.hp with windows := sset none s.hp.windows w none } })) ∧
  (∀ (q : Req) (p x : Nat) (s : State), s.accepts q 0x26 16 (some x) = true → p < 64 → (s.pool p).allocs = [] →
    ((s.pool p).enabled = true → (s.pool p).owner = x) →
    (∀ log2 count base, 12 ≤ log2 → log2 ≤ 22 → 1 ≤ count → count ≤ 65536 →
      poolSetCheck s p x (BitVec.ofNat 32 (2 ^ 31 + x % 16 * 2 ^ 24 + log2 % 32 * 2 ^ 16 + (count - 1) % 65536)) base = none →
      Answers (.poolCfgSet q p x log2 count base) q 0x26 stDone [] s (s.modPool p (fun v => v.configured
        (BitVec.ofNat 32 (2 ^ 31 + x % 16 * 2 ^ 24 + log2 % 32 * 2 ^ 16 + (count - 1) % 65536)) (BitVec.ofNat 64 base)))) ∧
    Gives (.poolCfgRemove q p x) s (fun t => (t.pool p).enabled = false ∧ (∀ r, t.pool r = (if r = p then t.pool p else s.pool r)) ∧
      Answered t q 0x26 stDone [])) ∧
  (∀ (q : Req) (p req limit reserve : Nat) (s : State), p < 64 → (s.pool p).enabled = true →
    s.accepts q 0x27 16 (some (s.pool p).owner) = true → req ≤ 31 → quotaCheck (s.pool p) req limit reserve = none →
    Answers (.poolQuota q p req limit reserve) q 0x27 stDone [] s (s.modPool p (fun v => v.withQuota req limit reserve))) ∧
  (∀ (q : Req) (region qp len : Nat) (rkey : Word32) (remote : Word64) (s : State), s.accepts q 0x28 24 none = true → region ≤ 255 →
    s.regionMapped region = false →
    (len % 65536 = 0 → len ≤ 32 * 2 ^ 30 → qp ≤ 1023 → (s.qp qp).state = .connected →
      Answers (.regionBind q region qp rkey remote len) q 0x28 stDone [] s
        { s with hp := { s.hp with regions := sset none s.hp.regions region (some ⟨qp, rkey, remote.toNat, len⟩) } }) ∧
    Answers (.regionUnbind q region) q 0x28 stDone [] s { s with hp := { s.hp with regions := sset none s.hp.regions region none } }) ∧
  (∀ (q : Req) (mask : BitVec 16) (hold : Nat) (w : Word32) (s : State), s.accepts q 0x29 8 none = true → hold ≤ 1 →
    fld32 w 31 20 = 0 → arbWeightBad w = false →
    Gives (.memPolicy q mask hold w) s (fun t => Answered t q 0x29 stDone [] ∧
      (∀ g, g < 16 → bitOf mask.toNat g = true → (t.group g).arbWeight = w ∧ (t.group g).hold = (hold == 1)) ∧
      (∀ g, g < 16 → bitOf mask.toNat g = false → t.group g = s.group g)))

/-- O53. Counters, the power policy, the log and the register window are read and written by their commands (R426, R428,
R490). FW_STAGE stores an image that passes the checks of R477 in the slot that is not running; FW_ACTIVATE selects a valid,
tested set; ATTEST writes the signed report; DEBUG_UNLOCK and PERMIT act on a token that passes R483 (R456 to R459, R480 to
R485). Commands that complete here: counterRead, counterClear, powerPolicy, powerStatus, logRead, logClear, fwStage,
fwActivate, fwStatus, attest, debugUnlock, permit, regRead, regWrite. It rests on choices of the model where the spec leaves
them: log entries 50, 51 and 55. -/
def Obligations.ManagementCommandsAct : Prop :=
  ((∀ (q : Req) (b i : Nat) (s : State), regCount b i ≠ 0 → i < 2048 →
     (s.accepts q 0x70 8 none = true →
       (((s.session q.session).map (·.admin)).getD false = true ∨ s.attachedHolds q.session b i = true) →
       (s.regReads b i 0 (regCount b i)).2.length = 8 * regCount b i ∧
       Answers (.counterRead q b i) q 0x70 stDone (s.regReads b i 0 (regCount b i)).2 s (s.regReads b i 0 (regCount b i)).1) ∧
     (s.accepts q 0x71 8 none = true → i ≠ 0xFFFF →
       Answers (.counterClear q b i) q 0x71 stDone [] s (s.clearCounters b i)) ∧
     (s.accepts q 0x71 8 none = true →
       Answers (.counterClear q b 0xFFFF) q 0x71 stDone [] s ((blockInsts b).foldl (fun u j => u.clearCounters b j) s))) ∧
   (∀ (q : Req) (cap ceiling coreUs offMs : Nat) (s : State), s.accepts q 0x80 16 none = true → 200 ≤ cap → cap ≤ 850 →
     ceiling ≤ 2 → coreUs ≤ 1000000 → offMs ≤ 60000 →
     Gives (.powerPolicy q cap ceiling coreUs offMs) s (fun t => fld32 t.power.capCfg 9 0 = cap ∧
       fld32 t.power.capCfg 11 10 = ceiling ∧ (coreUs ≠ 0 → fld t.power.cfg 51 32 = coreUs) ∧
       (offMs ≠ 0 → fld t.power.cfg 31 16 = offMs) ∧ Answered t q 0x80 stDone [])) ∧
   (∀ (q : Req) (s : State), s.accepts q 0x81 0 none = true →
     s.powerRecord.length = 24 ∧ Answers (.powerStatus q) q 0x81 stDone s.powerRecord s s) ∧
   (∀ (q : Req) (n max : Nat) (s : State), s.accepts q 0x90 16 none = true → 1 ≤ max → max ≤ 127 →
     let recs := (s.ras.log.filter (fun r => decide (n ≤ r.seq))).take max
     Answers (.logRead q n max) q 0x90 stDone
       (leFields [(8, (recs.getLast?.map (·.seq + 1)).getD n), (1, recs.length), (7, 0)] ++ recs.flatMap LogRec.toBytes) s s) ∧
   (∀ (q : Req) (n : Nat) (s : State), s.accepts q 0x91 8 none = true →
     Answers (.logClear q n) q 0x91 stDone []
       s { s with ras := { s.ras with log := s.ras.log.filter (fun r => decide (n < r.seq)) } }) ∧
   (∀ (q : Req) (addr : Word32) (count : Nat) (s : State), s.accepts q 0xF0 8 none = true → 1 ≤ count → count ≤ 1023 →
     fld32 addr 2 0 = 0 → addrIndex addr + count ≤ regCount (addrBlock addr) (addrInst addr) →
     let r := s.regReads (addrBlock addr) (addrInst addr) (addrIndex addr) count
     r.2.length = 8 * count ∧ r.1.mem = s.mem ∧ Answers (.regRead q addr count) q 0xF0 stDone r.2 s r.1) ∧
   (∀ (q : Req) (addr : Word32) (v : Word64) (s : State), s.accepts q 0xF1 16 none = true →
     ((s.regWrite addr v).1 = stDone → Answers (.regWrite q addr v) q 0xF1 stDone [] s (s.regWrite addr v).2) ∧
     ((s.regWrite addr v).1 ≠ stDone → Answers (.regWrite q addr v) q 0xF1 (s.regWrite addr v).1 [] s s))) ∧
  ((∀ (q : Req) (cls region offset len : Nat) (io : FarIO) (s u : State) (bs : List Byte), s.accepts q 0xA0 24 none = true →
     cls ≤ 3 → s.farRead region offset len io = (u, .ok bs) → s.imageCheck cls (parseImage bs).1 (parseImage bs).2 = none →
     (cls = 3 → (parseImage bs).1.entries.any (fun e => bitOf e.2.2.2.toNat 1) = true) →
     Gives (.fwStage q cls region offset len io true) s (fun t => t.imageAt s.otherSlot cls = some (parseImage bs).1 ∧
       (∀ k, k ≠ cls → k < 4 → t.imageAt s.otherSlot k = s.imageAt s.otherSlot k) ∧
       Answered t q 0xA0 stDone (leFields [(1, (u.putImage cls none).2), (3, 0), (4, (parseImage bs).1.version.toNat)]))) ∧
   (∀ (q : Req) (z : Nat) (s : State), s.accepts q 0xA1 8 none = true → z ≤ 1 → s.setValid z = true → s.testedSet z = true →
     Gives (.fwActivate q z 0) s (fun t => t.flash = (s.selectSlot z).flash ∧ Answered t q 0xA1 stDone []) ∧
     Gives (.fwActivate q z 1) s (fun t => t.flash = (s.selectSlot z).flash ∧ t.lantern.resetAt = some (s.now + 10000000) ∧
       t.lantern.resetCause = 4 ∧ Answered t q 0xA1 stDone [])) ∧
   (∀ (q : Req) (s : State), s.accepts q 0xA2 0 none = true →
     s.fwRecord.length = 72 ∧ Answers (.fwStatus q) q 0xA2 stDone s.fwRecord s s) ∧
   (∀ (q : Req) (region offset : Nat) (nonce : BitVec 256) (io : FarIO) (s u : State), s.accepts q 0xB0 48 none = true →
     s.farWrite region offset (s.report nonce) io = (u, none) →
     Answers (.attest q region offset nonce io) q 0xB0 stDone (leFields [(4, (s.report nonce).length), (4, 0)]) s u) ∧
   (∀ (q : Req) (region offset : Nat) (io : FarIO) (s u : State) (bs : List Byte), s.farRead region offset tokenBytes io = (u, .ok bs) →
     (s.accepts q 0xB1 24 none = true → s.tokenCheck [2] bs = none →
       Gives (.debugUnlock q region offset tokenBytes io) s (fun t => t.lantern.debug = true ∧ Answered t q 0xB1 stDone [])) ∧
     (s.accepts q 0xB2 24 none = true → s.tokenCheck [1, 3, 4] bs = none →
       Gives (.permit q region offset tokenBytes io) s (fun t => parseToken bs ∈ t.clasp.permits ∧ Answered t q 0xB2 stDone []))))

/-! ### Registers, reliability, power and resets (chapters 17 to 22) -/

/-- O54. A register write that its rule refuses changes nothing; write 1 to clear takes the ones; the pool registers and
quotas take a checked value; the self-test and the pattern test start, step and end; the poll clears what it has noted; a
failed consistency check is fatal (R12, R14, R270, R277, R490, R491, R494, R498 to R501). Commands that complete here:
registerWrite, bpmPoolCfgWrite, bpmPoolBaseWrite, bpmQuotaWrite, bistCtlWrite, bistComplete, memTestCtlWrite,
memTestTransaction, memTestComplete, thresholdPoll, hardwareConsistencyCheck. It rests on choices of the model where the
spec leaves them: log entries 15, 17 and 19. -/
def Obligations.RegistersAndTestsAct : Prop :=
  (∀ (a : Word32) (v : Word64) (s : State), (s.regWrite a v).1 ≠ stDone → exec (.registerWrite a v) s = .next s) ∧
  (∀ (a w : Word32) (c : CoreId) (s : State), addrBlock a = 0x01 → addrInst a = c.val → addrIndex a = 2 → fld32 a 2 0 = 0 →
    fld32 w 31 7 = 0 →
    Gives (.registerWrite a (w.zeroExtend 64)) s (fun t => (t.core c).mtxFlags = (s.core c).mtxFlags &&& ~~~(w &&& 0x7E#32) ∧
      t.mem = s.mem)) ∧
  (∀ (p : Fin 64) (v : Word64) (s : State),
    ((s.writePoolCfg p v).1 ≠ stDone → exec (.bpmPoolCfgWrite p v) s = .next s) ∧
    (fld32 (v.truncate 32) 30 28 = 0 → fld32 (v.truncate 32) 23 21 = 0 →
      poolSetCheck s p (fld32 (v.truncate 32) 27 24) (v.truncate 32) (s.pool p).base.toNat = none →
      Gives (.bpmPoolCfgWrite p v) s (fun t => t.pool p = (s.pool p).configured (v.truncate 32) (s.pool p).base)) ∧
    (fld v 63 48 = 0 → fld v 15 0 = 0 → poolSetCheck s p (s.pool p).owner (s.pool p).cfg v.toNat = none →
      Gives (.bpmPoolBaseWrite p v) s (fun t => t.pool p =
        (if (s.pool p).enabled then (s.pool p).configured (s.pool p).cfg v else { s.pool p with base := v }))) ∧
    (∀ r : Fin 32, fld v 63 51 = 0 → quotaCheck (s.pool p) r (fld v 33 17) (fld v 16 0) = none →
      Gives (.bpmQuotaWrite p r v) s (fun t => t.pool p = (s.pool p).withQuota r (fld v 33 17) (fld v 16 0)))) ∧
  (∀ (v : Word64) (s : State), let w : Word32 := v.truncate 32
    fld32 w 21 16 = 0 → bitOf w.toNat 31 = true → s.ras.bistRun = none → s.ctxOfCluster (fld32 w 27 24) = none →
    Gives (.bistCtlWrite v) s (fun t => t.ras.bistRun = some (fld32 w 27 24) ∧ fld32 t.ras.bist 31 31 = 1 ∧ t.mem = s.mem)) ∧
  (∀ (u n k : Nat) (s : State), s.ras.bistRun = some k →
    Gives (.bistComplete u n) s (fun t => t.ras.bistRun = none ∧ fld32 t.ras.bist 31 31 = 0 ∧
      (t.cluster k).withheld = (n != 0) ∧ fld32 t.ras.bist 23 22 = (if n = 0 then 1 else 2))) ∧
  (∀ (v : Word64) (s : State), fld v 59 48 = 0 → fld v 47 32 ≠ 0 → fld v 62 60 ≤ 3 → bitOf v.toNat 63 = true → s.ras.memRun = none →
    Gives (.memTestCtlWrite v) s (fun t => t.ras.memRun = some (fld v 47 32) ∧ t.ras.testLines = 0 ∧
      fld t.ras.memTest 63 63 = 1 ∧ t.mem = s.mem)) ∧
  (∀ (pa mask : Nat) (pins : BitVec 24) (s : State), s.ras.memRun = some mask → bitOf mask (channelOf (64 * (pa / 64)) / 8) = true →
    pa < lpddrEnd → Gives (.memTestTransaction pa pins []) s (fun t => t.ras.testLines = s.ras.testLines + 1 ∧
      (pins ≠ 0 → fld (t.channel (channelOf (64 * (pa / 64)))).testResult 39 16 =
        (fld (s.channel (channelOf (64 * (pa / 64)))).testResult 39 16 ||| pins.toNat)))) ∧
  (∀ s : State, s.ras.memRun.isSome = true →
    Gives .memTestComplete s (fun t => t.ras.memRun = none ∧ fld t.ras.memTest 63 63 = 0 ∧ t.mem = s.mem)) ∧
  (∀ s : State, s.lantern.running = true →
    Gives (.thresholdPoll false) s (fun t => (∀ n, n < 128 → fld (t.channel n).eccLast 63 63 = 0) ∧ t.mem = s.mem) ∧
    exec (.thresholdPoll true) s = .next ((List.range 128).foldl State.pollChannel s).sampleAll) ∧
  (∀ (b : Byte) (inst code : BitVec 16) (fabric : Bool) (s : State),
    Gives (.hardwareConsistencyCheck b inst code fabric) s (fun t => t.ras.fatal = true ∧ t.ras.nextSeq = s.ras.nextSeq + 1 ∧
      t.pins.alertLow = true ∧ (∀ x, x < 16 → (s.ctx x).state ≠ .free → (t.ctx x).state = .stopped) ∧ t.mem = s.mem))

/-- O55. A core that has stayed idle for its time dozes, a cluster whose cores have dozed for theirs dozes and goes Off when
nothing refuses it, and each refusal is counted with its reason and starts the time again; a wake ends it or aborts an entry
under way, and the exit from Off leaves the cluster in Doze. A rail moves by at most 5 mV in a step; the trim stays within
30 mV; a sample over the power cap lowers each limit (R434 to R446, R449 to R453). Commands that complete here: coreDoze,
coreWake, clusterDoze, clusterWake, clusterOffEntry, clusterOffExit, railUpdate, trimAdjust, powerSample. It rests on
choices of the model where the spec leaves them: log entries 13, 14, 18 and 97. -/
def Obligations.PowerStatesAct : Prop :=
  (∀ (c : CoreId) (s : State), dueBy (s.core c).dozeDue s.now = false → exec (.coreDoze c) s = .next s) ∧
  (∀ (c : CoreId) (s : State), (s.core c).power = .idle → (s.cluster (clusterOf c)).power = .on → s.coreIdle c = true →
    dueBy (s.core c).dozeDue s.now = true →
    let r := firstRefuser (!bitOf s.power.cfg.toNat 63) (s.testing (clusterOf c)) (s.rail (railOf (clusterOf c))).stepping false false 0x01
    (r = none → Gives (.coreDoze c) s (fun t => (t.core c).power = .doze ∧ (t.core c).pwrStat = statEntered (s.core c).pwrStat ∧
      (t.core c).dozeDue = none)) ∧
    (∀ z, r = some z → Gives (.coreDoze c) s (fun t => (t.core c).power = .idle ∧
      (t.core c).pwrStat = statRefused (s.core c).pwrStat z ∧ (t.core c).dozeDue = some (s.now + s.dozeNs)))) ∧
  (∀ (c : CoreId) (s : State), (s.core c).power = .doze → (s.cluster (clusterOf c)).power ≠ .off →
    Gives (.coreWake c) s (fun t => (t.core c).power = .idle ∧ (t.cluster (clusterOf c)).power = .on ∧
      { t.core c with power := .doze, dozeDue := (s.core c).dozeDue } = s.core c ∧ t.mem = s.mem)) ∧
  (∀ (c : CoreId) (s : State), s.dozeEntering c = true → Gives (.coreWake c) s (fun t => (t.core c).power = .idle ∧
    (t.core c).dozeDue = none ∧ (t.core c).pwrStat = bumpFld (s.core c).pwrStat 31 22 1 ∧ t.mem = s.mem)) ∧
  (∀ (k : ClusterId) (s : State), dueBy (s.cluster k).dozeDue s.now = false → exec (.clusterDoze k) s = .next s) ∧
  (∀ (k : ClusterId) (s : State), (s.cluster k).power = .on → (∀ c, c < 16 → (s.core (16 * k.val + c)).power = .doze) →
    dueBy (s.cluster k).dozeDue s.now = true →
    let r := firstRefuser (!bitOf s.power.cfg.toNat 62) (s.testing k) (s.rail (railOf k)).stepping (s.agentBusy k) false 0x02
    (r = none → Gives (.clusterDoze k) s (fun t => (t.cluster k).power = .doze ∧ (t.cluster k).offAt = s.now + s.offNs)) ∧
    (∀ z, r = some z → Gives (.clusterDoze k) s (fun t => (t.cluster k).power = .on ∧
      (t.cluster k).dozeStat = statRefused (s.cluster k).dozeStat z ∧ (t.cluster k).dozeDue = some (s.now + s.dozeNs)))) ∧
  (∀ (k : ClusterId) (s : State), (s.cluster k).power = .doze →
    Gives (.clusterWake k) s (fun t => (t.cluster k).power = .on ∧
      { t.cluster k with power := .doze, offStat := (s.cluster k).offStat } = s.cluster k ∧
      (t.cluster k).offStat = if s.offEntering k then bumpFld (s.cluster k).offStat 31 22 1 else (s.cluster k).offStat) ∧
    ((s.cluster k).offAt ≤ s.now →
      let r := firstRefuser (!bitOf s.power.cfg.toNat 61) (s.testing k) false (s.agentBusy k) (s.ctxOfCluster k).isSome 0x02
      (r = none → Gives (.clusterOffEntry k) s (fun t => (t.cluster k).power = .off ∧ (t.cluster k).veil = true ∧
        (t.cluster k).cm = {} ∧ (∀ c, c < 16 → t.core (16 * k.val + c) = {}))) ∧
      (∀ z, r = some z → Gives (.clusterOffEntry k) s (fun t => (t.cluster k).power = .doze ∧
        (t.cluster k).offStat = statRefused (s.cluster k).offStat z)))) ∧
  (∀ (k : ClusterId) (s : State), (s.cluster k).power = .off →
    Gives (.clusterOffExit k) s (fun t => (t.cluster k).power = .doze ∧ (t.cluster k).veil = false ∧
      (∀ c, c < 16 → (t.core (16 * k.val + c)).power = .doze) ∧ t.mem = s.mem)) ∧
  (∀ s : State, Gives .railUpdate s (fun t => ∀ q, q < 4 →
    ((s.rail q).up = true → (t.rail q).mv ≤ (s.rail q).mv + 5 ∧ (s.rail q).mv ≤ (t.rail q).mv + 5 ∧
      (s.anyPaced = true → (t.rail q).mv ≤ (s.rail q).mv)) ∧
    ((s.rail q).up = false → t.rail q = s.rail q))) ∧
  (∀ (rates : List Nat) (s : State), rates.length = 4 →
    Gives (.trimAdjust rates) s (fun t => ∀ q, q < 4 → (s.rail q).up = true → (t.rail q).rate = rates.getD q 0 ∧
      (-30 ≤ (s.rail q).trim → (s.rail q).trim ≤ 30 → -30 ≤ (t.rail q).trim ∧ (t.rail q).trim ≤ 30))) ∧
  (∀ (mw : Nat) (temps : List Int) (s : State), Gives (.powerSample mw temps) s (fun t => t.power.inputMw = mw ∧
    (∀ q, q < 4 → (t.rail q).tempDc = s.quadrantTemp q temps) ∧
    (1000 * fld32 s.power.capCfg 9 0 < mw → ∀ q, q < 4 → s.quadrantTemp q temps ≤ 10 * (fld32 s.power.capCfg 22 16 : Int) →
      (t.rail q).vLimit = max 620 ((s.rail q).vLimit - 5))))

/-- O56. A start that reaches its last step runs Lantern from the chosen slot; one that finds nothing to run holds; the
recovery strap starts the recovery service. Every reset takes the SoC supply down and records its cause; a warm one keeps
valid main memory, a cold one does not (R460, R463, R465 to R470, R516). Commands that complete here: standbyApplied,
startUp, bootFailure, watchdog, warmReset, resetN, input48vLoss, standbyLoss. It rests on choices of the model where the
spec leaves them: log entries 53, 54 and 96. -/
def Obligations.StartsAndResetsAct : Prop :=
  (∀ (f : StartF) (s : State), s.startReady = true →
    (bitOf s.pins.strap.toNat 0 = true → Gives (.startUp f) s (fun t => t.lantern.recovery = true ∧ t.power.vsoc = true)) ∧
    (bitOf s.pins.strap.toNat 0 = false →
      ((s.rampUp.enrol.newBoot).bootChoice = .hold → Gives (.startUp f) s (fun t => t.pins.holding = true ∧
        t.lantern.running = s.lantern.running)) ∧
      (∀ z p, (s.rampUp.enrol.newBoot).bootChoice = .slot z p → f.reachesNine = true →
        Gives (.startUp f) s (fun t => t.lantern.running = true ∧ t.lantern.activeSlot = z ∧ t.power.vsoc = true ∧
          t.hp.linkUp = true)))) ∧
  (∀ (c : Fin 16) (s : State), s.pins.standby = true → (c.val = 2 ∨ c.val = 5 ∨ c.val = 6) →
    Gives (.warmReset c) s (fun t => t.power.vsoc = false ∧ fld t.power.rstCause 19 16 = c.val ∧
      (s.clasp.memoryValid = true → t.mem = s.completeAccepted.mem) ∧
      (s.clasp.memoryValid = true → s.channels = [] → t.mem = s.mem) ∧ (s.clasp.memoryValid = false → t.mem = {}))) ∧
  (∀ (c : Fin 16) (due : Nat) (s : State), s.pins.standby = true → (c.val = 3 ∨ c.val = 4) → s.lantern.resetAt = some due →
    due ≤ s.now → s.lantern.resetCause = c.val →
    Gives (.warmReset c) s (fun t => t.power.vsoc = false ∧ fld t.power.rstCause 19 16 = c.val ∧ t.lantern.running = false)) ∧
  (∀ (n : Nat) (s : State), s.pins.standby = true → s.pins.resetN = true →
    Gives (.resetN n true) s (fun t => t.power.vsoc = false ∧ t.pins.resetN = false ∧ fld t.power.rstCause 19 16 = 2) ∧
    (n < 100 → Gives (.resetN n false) s (fun t => t.power.vsoc = s.power.vsoc ∧ t.cores = s.cores ∧ t.mem = s.mem))) ∧
  (∀ s : State, s.power.vsoc = true → s.lantern.running = false → 4 ≤ s.bootStage → s.bootStage ≤ 8 →
    Gives .bootFailure s (fun t => t.power.vsoc = false ∧ fld t.power.rstCause 19 16 = 6)) ∧
  (∀ s : State, s.power.vsoc = true → s.lantern.running = true → s.lantern.recovery = false →
    Gives .watchdog s (fun t => t.power.vsoc = false ∧ fld t.power.rstCause 19 16 = 5)) ∧
  (∀ (m : Fin 8) (s : State), Gives (.standbyApplied m) s (fun t => t.pins.standby = true ∧ t.pins.moduleId.toNat = m.val ∧
    t.power.vsoc = false ∧ t.mem = {})) ∧
  (∀ s : State, Gives .standbyLoss s (fun t => t.pins.standby = false ∧ t.power.vsoc = false ∧ t.mem = {} ∧ t.flash = s.flash)) ∧
  (∀ (mv us : Nat) (s : State), mv ≤ 66000 → 1000 < us → (mv < 38000 ∨ 62000 < mv) →
    Gives (.input48vLoss mv us) s (fun t => t.power.vsoc = false ∧ fld t.power.rstCause 19 16 = 1 ∧ t.mem = {} ∧
      t.flash = s.flash))

/-- O57. Above 66 V the model stops, because the spec says only that the module may be damaged; elsewhere the input is
followed by ALERT_N. A thermal trip takes the core rails down and is fatal; the reference clocks and the rails do what R508
to R515 say. Commands that complete here: input48vLoss, thermalTrip, refclkLoss, railOutOfRegulation, refclkReturn,
railLeavesRegulation, railRegainsRegulation, input48vOutsideRange. It rests on choices of the model where the spec leaves
them: log entry 9. -/
def Obligations.ModulePinsAct : Prop :=
  (∀ (mv us : Nat) (s : State), 66000 < mv → exec (.input48vLoss mv us) s = .fault .beyondRatings ∧
    exec (.input48vOutsideRange mv) s = .fault .beyondRatings) ∧
  (∀ (mv : Nat) (s : State), mv ≤ 66000 → Gives (.input48vOutsideRange mv) s (fun t => t.pins.input48 = mv ∧
    ((mv < 40000 ∨ 60000 < mv) → t.pins.alertLow = true) ∧ t.mem = s.mem)) ∧
  (∀ (k : ClusterId) (d : Int) (s : State), 1100 ≤ d → s.power.vsoc = true →
    Gives (.thermalTrip k d) s (fun t => t.pins.thermTripLow = true ∧ t.ras.fatal = true ∧ t.pins.pwrOk = false ∧
      (∀ q, q < 4 → (t.rail q).up = false) ∧ (∀ j, j < 16 → (t.cluster j).power = .off) ∧ t.mem = s.mem)) ∧
  (∀ s : State,
    Gives (.refclkLoss .serdes) s (fun t => t.pins.refSerdes = false ∧ t.hp.linkUp = false ∧ t.pins.alertLow = true ∧
      (∀ p, p < 24 → ((s.port p).state = lsActive ∨ (s.port p).state = lsQuiet) →
        (t.port p).linkErr = bumpFld (s.port p).linkErr 7 0 1)) ∧
    (s.power.vsoc = true → Gives (.refclkLoss .sys) s (fun t => t.pins.refSys = false ∧ t.ras.fatal = true ∧
      t.ras.nextSeq = s.ras.nextSeq + 1)) ∧
    Gives (.refclkReturn .serdes) s (fun t => t.pins.refSerdes = true ∧ t.pins.refSys = s.pins.refSys) ∧
    Gives (.refclkReturn .sys) s (fun t => t.pins.refSys = true ∧ t.pins.refSerdes = s.pins.refSerdes)) ∧
  (∀ (r : Rail) (s : State),
    (s.power.vsoc = true →
      Gives (.railLeavesRegulation r) s (fun t => t.pins.pwrOk = false ∧ railNo r ∈ t.pins.railsOut ∧ t.mem = s.mem) ∧
      Gives (.railOutOfRegulation r) s (fun t => t.pins.pwrOk = false ∧ t.ras.fatal = true ∧ t.ras.nextSeq = s.ras.nextSeq + 1)) ∧
    Gives (.railRegainsRegulation r) s (fun t => railNo r ∉ t.pins.railsOut ∧
      (s.power.vsoc = true → (∀ q, q < 4 → (s.rail q).up = true) → (∀ n ∈ s.pins.railsOut, n = railNo r) → t.pins.pwrOk = true)))

/-! ### Rules stated whole: R235, R275, R356 -/

/-- O58. A write of fewer than 64 bytes merges its bytes into what its read of the line gives: every other byte of the line
is what the read gave, and the line is written back poisoned where the read found it poisoned or uncorrectable (or the
written bytes are poisoned, R247), else clean; the write ends done. A write of a whole line with clean data leaves a clean
line, whatever the line held before. What the array has changed since (ups) counts as that read finds it; the group is
awake. No byte and no poison of another line changes (R235). Commands that complete here: lineWrite. -/
def Obligations.LineWritesMergeAndKeepPoison : Prop :=
  ∀ (pa : Nat) (bs : List Byte) (poison : Bool) (k : Traffic) (ups : List (Nat × BitVec 16)) (s : State), pa < lpddrEnd → bs ≠ [] →
    pa % 64 + bs.length ≤ 64 → (s.group (groupOf (channelOf (64 * (pa / 64))))).selfRefresh = false →
    let l := pa / 64
    let read := s.fetchLine l ups
    let found := classify (syndromes (deltaErr (s.mem.deltaOf l) ++ ups.map (fun p => (p.1, p.2.toNat))))
    Gives (.lineWrite pa bs poison ⟨k, ups⟩) s (fun t =>
      (∀ i, i < bs.length → sget 0 t.mem.bytes (pa + i) = bs.getD i 0) ∧
      (∀ a, (a < 64 * l ∨ 64 * l + 64 ≤ a) → sget 0 t.mem.bytes a = sget 0 s.mem.bytes a) ∧
      (∀ m, m ≠ l → t.mem.deltaOf m = s.mem.deltaOf m) ∧
      (bs.length < 64 →
        (∀ i, i < 64 → (i < pa % 64 ∨ pa % 64 + bs.length ≤ i) → sget 0 t.mem.bytes (64 * l + i) = read.2.1.getD i 0) ∧
        t.mem.deltaOf l = (if poison = true ∨ read.2.2 = true then poisonDelta else 0) ∧
        (read.2.2 = true ↔ found ∈ [LineClass.poisoned, LineClass.uncorrectable] ∨ ∃ e, found = .markerCorrected e)) ∧
      (bs.length = 64 → poison = false → t.mem.deltaOf l = 0))

/-- O59. A request for buffers never waits: BUF_GET on a good result address ends done, or is refused, at once. With its
other checks passed and no aligned free block it is answered BPM_EMPTY and nothing of the pool but its count of failures
changes, even when enough buffers are free (R275; R276 has the refusal end BUF_GET done, with the reason in its record).
Commands that complete here: bufGet. It rests on choices of the model where the spec leaves them: log entry 6. -/
def Obligations.BufferRequestNeverWaits : Prop :=
  ∀ (c : CoreId) (f : BufGetF) (s : State) (x : Nat) (e : QEntry), (s.core c).entryOf (.dma (.bufGet f)) = some e →
    bufAddrCheck s c f = none → f.result.kind = .cm → s.ctxOfCore c = some x →
    Gives (.bufGet c f) s (fun t => t.mem = s.mem ∧
      (Ended s t c (.dma (.bufGet f)) .done ∨ ∃ st, RefusedAt s t c 2 e.pos st) ∧
      (let p := s.pool f.pool
       let sp := spanLog2Of f.size p.log2
       f.pool < 64 → p.enabled = true → p.owner = x → 1 ≤ f.size → sp ≤ 4 → f.requester < 32 →
         p.held f.requester + 2 ^ sp ≤ p.limit f.requester → 2 ^ sp + p.shortfall f.requester ≤ p.free → p.block sp = none →
         Ended s t c (.dma (.bufGet f)) .done ∧ { t.pool f.pool with fail := p.fail } = p ∧
           (∀ q, q ≠ f.pool → t.pool q = s.pool q) ∧
           (t.cluster (clusterOf c)).cm.read f.result.addr 6 = leBytes 4 0 ++ leBytes 2 (bpmStatus 9).toNat))

/-- O60. A cell takes the adaptive channel of its class (vc = 3c, Table 13-3) on the candidate port whose credit counter for
that channel is above 0 and whose occupancy, the partner's allotment minus the counter, is lowest; ties go to the lower port
number (R356). Commands that complete here: cellForward. -/
def Obligations.AdaptiveChannelOfLowestOccupancy : Prop :=
  ∀ (src : Option (PortId × Nat)) (c : Cell) (s u : State) (t : Topology) (q : Nat), s.xpt.topo = some t → s.leave src c = some u →
    hDest c.hdr ≠ t.node.toNat → s.lostAt src c = false → hDest c.hdr < t.nodes → q ∈ s.candidates t (hDest c.hdr) →
    0 < sget 0 (s.port q).credits (3 * c.cls) →
    ∃ p ∈ s.candidates t (hDest c.hdr), 0 < sget 0 (s.port p).credits (3 * c.cls) ∧
      (∀ r ∈ s.candidates t (hDest c.hdr), 0 < sget 0 (s.port r).credits (3 * c.cls) →
        (s.port p).occupancy (3 * c.cls) ≤ (s.port r).occupancy (3 * c.cls) ∧
        ((s.port r).occupancy (3 * c.cls) = (s.port p).occupancy (3 * c.cls) → p ≤ r)) ∧
      Gives (.cellForward src c) s (fun v => (v.port p).waiting = (s.port p).waiting ++ [⟨3 * c.cls, c⟩] ∧ v.mem = s.mem)
end

