-- ==== Sys2Proof/Laws/Sparse.lean ====
section
/-! SUPPORT. The laws of the sparse tables (`sget`, `sset`, `Sparse.wf`): a read after a write gives the value written, a write
leaves every other number alone, and every write keeps the canonical form. -/

namespace Sys2Proof.Machine

variable {α : Type} [DecidableEq α]

omit [DecidableEq α] in
theorem sget_nil (d : α) (k : Nat) : sget d [] k = d := rfl

omit [DecidableEq α] in
theorem sget_filter_ne (d : α) (m : Sparse α) {k j : Nat} (h : j ≠ k) :
    sget d (m.filter (fun e => e.1 ≠ k)) j = sget d m j := by
  induction m with
  | nil => rfl
  | cons a r ih =>
    by_cases ha : a.1 = k
    · have hj : a.1 ≠ j := fun e => h (e.symm.trans ha)
      rw [List.filter_cons_of_neg (by simpa using ha), ih]
      simp [sget, hj]
    · rw [List.filter_cons_of_pos (by simpa using ha)]
      simp only [sget]
      rw [ih]

omit [DecidableEq α] in
theorem sget_sinsert_other (d v : α) (m : Sparse α) {k j : Nat} (h : j ≠ k) : sget d (sinsert k v m) j = sget d m j := by
  induction m with
  | nil => simp [sinsert, sget, Ne.symm h]
  | cons a r ih =>
    by_cases hk : k < a.1
    · simp [sinsert, sget, hk, Ne.symm h]
    · simp [sinsert, sget, hk, ih]

omit [DecidableEq α] in
theorem sget_sinsert_same (d v : α) (m : Sparse α) (k : Nat) (h : ∀ e ∈ m, e.1 ≠ k) : sget d (sinsert k v m) k = v := by
  induction m with
  | nil => simp [sinsert, sget]
  | cons a r ih =>
    have ha : a.1 ≠ k := h a List.mem_cons_self
    by_cases hk : k < a.1
    · simp [sinsert, sget, hk]
    · simp [sinsert, sget, hk, ha, ih (fun e he => h e (List.mem_cons_of_mem _ he))]

omit [DecidableEq α] in
theorem sget_of_absent (d : α) (m : Sparse α) (k : Nat) (h : ∀ e ∈ m, e.1 ≠ k) : sget d m k = d := by
  induction m with
  | nil => rfl
  | cons a r ih => simp [sget, h a List.mem_cons_self, ih (fun e he => h e (List.mem_cons_of_mem _ he))]

omit [DecidableEq α] in
theorem absent_of_filter (m : Sparse α) (k : Nat) : ∀ e ∈ m.filter (fun e => e.1 ≠ k), e.1 ≠ k := by
  intro e he
  simpa using (List.mem_filter.mp he).2

/-- A read after a write gives the value written. -/
@[simp] theorem sget_sset_same (d : α) (m : Sparse α) (k : Nat) (v : α) : sget d (sset d m k v) k = v := by
  unfold sset
  split
  · rename_i h
    rw [h]
    exact sget_of_absent d _ k (absent_of_filter m k)
  · exact sget_sinsert_same d v _ k (absent_of_filter m k)

/-- A write leaves every other number alone. -/
@[simp] theorem sget_sset_other (d : α) (m : Sparse α) {k j : Nat} (v : α) (h : j ≠ k) :
    sget d (sset d m k v) j = sget d m j := by
  unfold sset
  split
  · exact sget_filter_ne d m h
  · rw [sget_sinsert_other d v _ h, sget_filter_ne d m h]

theorem sget_sset (d : α) (m : Sparse α) (k j : Nat) (v : α) : sget d (sset d m k v) j = if j = k then v else sget d m j := by
  split
  · rename_i h
    rw [h, sget_sset_same]
  · rename_i h
    exact sget_sset_other d m v h

/-! ### The canonical form -/

omit [DecidableEq α] in
theorem mem_sinsert {k : Nat} {v : α} {m : Sparse α} {e : Nat × α} (h : e ∈ sinsert k v m) : e = (k, v) ∨ e ∈ m := by
  induction m with
  | nil => simpa [sinsert] using h
  | cons a r ih =>
    by_cases hk : k < a.1
    · simp only [sinsert, hk, if_true] at h
      exact List.mem_cons.mp h
    · simp only [sinsert, hk, if_false] at h
      rcases List.mem_cons.mp h with h | h
      · exact .inr (h ▸ List.mem_cons_self)
      · exact (ih h).imp id (List.mem_cons_of_mem _)

omit [DecidableEq α] in
theorem sorted_sinsert (k : Nat) (v : α) (m : Sparse α) (hs : m.Pairwise (fun a b => a.1 < b.1)) (h : ∀ e ∈ m, e.1 ≠ k) :
    (sinsert k v m).Pairwise (fun a b => a.1 < b.1) := by
  induction m with
  | nil => simp [sinsert]
  | cons a r ih =>
    have hr := List.pairwise_cons.mp hs
    have ha : a.1 ≠ k := h a List.mem_cons_self
    by_cases hk : k < a.1
    · simp only [sinsert, hk, if_true]
      refine List.pairwise_cons.mpr ⟨fun e he => ?_, hs⟩
      rcases List.mem_cons.mp he with he | he
      · exact he ▸ hk
      · exact Nat.lt_trans hk (hr.1 e he)
    · simp only [sinsert, hk, if_false]
      refine List.pairwise_cons.mpr ⟨fun e he => ?_, ih hr.2 (fun e he => h e (List.mem_cons_of_mem _ he))⟩
      rcases mem_sinsert he with he | he
      · rw [he]
        exact Nat.lt_of_le_of_ne (Nat.not_lt.mp hk) ha
      · exact hr.1 e he

theorem Sparse.wf_iff (d : α) (m : Sparse α) :
    Sparse.wf d m = true ↔ m.Pairwise (fun a b => a.1 < b.1) ∧ ∀ e ∈ m, e.2 ≠ d := by
  simp [Sparse.wf]

@[simp] theorem Sparse.wf_nil (d : α) : Sparse.wf d [] = true := by simp [Sparse.wf]

/-- Every write keeps the canonical form. -/
theorem Sparse.wf_sset (d : α) (m : Sparse α) (k : Nat) (v : α) (h : Sparse.wf d m = true) :
    Sparse.wf d (sset d m k v) = true := by
  rw [Sparse.wf_iff] at h ⊢
  have hf : (m.filter (fun e => e.1 ≠ k)).Pairwise (fun a b => a.1 < b.1) ∧ ∀ e ∈ m.filter (fun e => e.1 ≠ k), e.2 ≠ d :=
    ⟨h.1.filter _, fun e he => h.2 e (List.mem_filter.mp he).1⟩
  unfold sset
  split
  · exact hf
  · rename_i hv
    refine ⟨sorted_sinsert k v _ hf.1 (absent_of_filter m k), fun e he => ?_⟩
    rcases mem_sinsert he with he | he
    · exact he ▸ hv
    · exact hf.2 e he

end Sys2Proof.Machine
end

