-- ==== Sys2Proof/Laws/State.lean ====
section
/-! SUPPORT. The laws of the state updates: for each named update, each field of the state that it leaves, and what it gives
for the unit that it writes. -/

namespace Sys2Proof.Machine

variable (s : State)

/-! ### Core updates -/

section
variable (k : Nat) (v : Core)

@[simp] theorem State.setCore_pending : (s.setCore k v).pending = s.pending := rfl
@[simp] theorem State.setCore_freeCtr : (s.setCore k v).freeCtr = s.freeCtr := rfl
@[simp] theorem State.setCore_now : (s.setCore k v).now = s.now := rfl
@[simp] theorem State.setCore_clusters : (s.setCore k v).clusters = s.clusters := rfl
@[simp] theorem State.setCore_groups : (s.setCore k v).groups = s.groups := rfl
@[simp] theorem State.setCore_channels : (s.setCore k v).channels = s.channels := rfl
@[simp] theorem State.setCore_mem : (s.setCore k v).mem = s.mem := rfl
@[simp] theorem State.setCore_ctxs : (s.setCore k v).ctxs = s.ctxs := rfl
@[simp] theorem State.setCore_pools : (s.setCore k v).pools = s.pools := rfl
@[simp] theorem State.setCore_ports : (s.setCore k v).ports = s.ports := rfl
@[simp] theorem State.setCore_trainTable : (s.setCore k v).trainTable = s.trainTable := rfl
@[simp] theorem State.setCore_xpt : (s.setCore k v).xpt = s.xpt := rfl
@[simp] theorem State.setCore_hp : (s.setCore k v).hp = s.hp := rfl
@[simp] theorem State.setCore_lantern : (s.setCore k v).lantern = s.lantern := rfl
@[simp] theorem State.setCore_flash : (s.setCore k v).flash = s.flash := rfl
@[simp] theorem State.setCore_clasp : (s.setCore k v).clasp = s.clasp := rfl
@[simp] theorem State.setCore_power : (s.setCore k v).power = s.power := rfl
@[simp] theorem State.setCore_ras : (s.setCore k v).ras = s.ras := rfl
@[simp] theorem State.setCore_pins : (s.setCore k v).pins = s.pins := rfl
@[simp] theorem State.setCore_cluster (j : Nat) : (s.setCore k v).cluster j = s.cluster j := rfl
@[simp] theorem State.setCore_group (j : Nat) : (s.setCore k v).group j = s.group j := rfl
@[simp] theorem State.setCore_channel (j : Nat) : (s.setCore k v).channel j = s.channel j := rfl
@[simp] theorem State.setCore_ctx (j : Nat) : (s.setCore k v).ctx j = s.ctx j := rfl
@[simp] theorem State.setCore_pool (j : Nat) : (s.setCore k v).pool j = s.pool j := rfl
@[simp] theorem State.setCore_port (j : Nat) : (s.setCore k v).port j = s.port j := rfl

end

section
variable (k : Nat) (g : Core → Core)

@[simp] theorem State.modCore_pending : (s.modCore k g).pending = s.pending := rfl
@[simp] theorem State.modCore_freeCtr : (s.modCore k g).freeCtr = s.freeCtr := rfl
@[simp] theorem State.modCore_now : (s.modCore k g).now = s.now := rfl
@[simp] theorem State.modCore_clusters : (s.modCore k g).clusters = s.clusters := rfl
@[simp] theorem State.modCore_groups : (s.modCore k g).groups = s.groups := rfl
@[simp] theorem State.modCore_channels : (s.modCore k g).channels = s.channels := rfl
@[simp] theorem State.modCore_mem : (s.modCore k g).mem = s.mem := rfl
@[simp] theorem State.modCore_ctxs : (s.modCore k g).ctxs = s.ctxs := rfl
@[simp] theorem State.modCore_pools : (s.modCore k g).pools = s.pools := rfl
@[simp] theorem State.modCore_ports : (s.modCore k g).ports = s.ports := rfl
@[simp] theorem State.modCore_trainTable : (s.modCore k g).trainTable = s.trainTable := rfl
@[simp] theorem State.modCore_xpt : (s.modCore k g).xpt = s.xpt := rfl
@[simp] theorem State.modCore_hp : (s.modCore k g).hp = s.hp := rfl
@[simp] theorem State.modCore_lantern : (s.modCore k g).lantern = s.lantern := rfl
@[simp] theorem State.modCore_flash : (s.modCore k g).flash = s.flash := rfl
@[simp] theorem State.modCore_clasp : (s.modCore k g).clasp = s.clasp := rfl
@[simp] theorem State.modCore_power : (s.modCore k g).power = s.power := rfl
@[simp] theorem State.modCore_ras : (s.modCore k g).ras = s.ras := rfl
@[simp] theorem State.modCore_pins : (s.modCore k g).pins = s.pins := rfl
@[simp] theorem State.modCore_cluster (j : Nat) : (s.modCore k g).cluster j = s.cluster j := rfl
@[simp] theorem State.modCore_group (j : Nat) : (s.modCore k g).group j = s.group j := rfl
@[simp] theorem State.modCore_channel (j : Nat) : (s.modCore k g).channel j = s.channel j := rfl
@[simp] theorem State.modCore_ctx (j : Nat) : (s.modCore k g).ctx j = s.ctx j := rfl
@[simp] theorem State.modCore_pool (j : Nat) : (s.modCore k g).pool j = s.pool j := rfl
@[simp] theorem State.modCore_port (j : Nat) : (s.modCore k g).port j = s.port j := rfl

end

@[simp] theorem State.setCore_core_same (k : Nat) (v : Core) : (s.setCore k v).core k = v := sget_sset_same _ _ _ _

@[simp] theorem State.setCore_core_other {k j : Nat} (v : Core) (h : j ≠ k) : (s.setCore k v).core j = s.core j :=
  sget_sset_other _ _ _ h

theorem State.setCore_core (k j : Nat) (v : Core) : (s.setCore k v).core j = if j = k then v else s.core j :=
  sget_sset _ _ _ _ _

@[simp] theorem State.modCore_core_same (k : Nat) (g : Core → Core) : (s.modCore k g).core k = g (s.core k) :=
  sget_sset_same _ _ _ _

@[simp] theorem State.modCore_core_other {k j : Nat} (g : Core → Core) (h : j ≠ k) : (s.modCore k g).core j = s.core j :=
  sget_sset_other _ _ _ h

theorem State.modCore_core (k j : Nat) (g : Core → Core) :
    (s.modCore k g).core j = if j = k then g (s.core k) else s.core j := sget_sset _ _ _ _ _

/-! ### Cluster updates -/

section
variable (k : Nat) (v : Cluster)

@[simp] theorem State.setCluster_pending : (s.setCluster k v).pending = s.pending := rfl
@[simp] theorem State.setCluster_freeCtr : (s.setCluster k v).freeCtr = s.freeCtr := rfl
@[simp] theorem State.setCluster_now : (s.setCluster k v).now = s.now := rfl
@[simp] theorem State.setCluster_cores : (s.setCluster k v).cores = s.cores := rfl
@[simp] theorem State.setCluster_groups : (s.setCluster k v).groups = s.groups := rfl
@[simp] theorem State.setCluster_channels : (s.setCluster k v).channels = s.channels := rfl
@[simp] theorem State.setCluster_mem : (s.setCluster k v).mem = s.mem := rfl
@[simp] theorem State.setCluster_ctxs : (s.setCluster k v).ctxs = s.ctxs := rfl
@[simp] theorem State.setCluster_pools : (s.setCluster k v).pools = s.pools := rfl
@[simp] theorem State.setCluster_ports : (s.setCluster k v).ports = s.ports := rfl
@[simp] theorem State.setCluster_trainTable : (s.setCluster k v).trainTable = s.trainTable := rfl
@[simp] theorem State.setCluster_xpt : (s.setCluster k v).xpt = s.xpt := rfl
@[simp] theorem State.setCluster_hp : (s.setCluster k v).hp = s.hp := rfl
@[simp] theorem State.setCluster_lantern : (s.setCluster k v).lantern = s.lantern := rfl
@[simp] theorem State.setCluster_flash : (s.setCluster k v).flash = s.flash := rfl
@[simp] theorem State.setCluster_clasp : (s.setCluster k v).clasp = s.clasp := rfl
@[simp] theorem State.setCluster_power : (s.setCluster k v).power = s.power := rfl
@[simp] theorem State.setCluster_ras : (s.setCluster k v).ras = s.ras := rfl
@[simp] theorem State.setCluster_pins : (s.setCluster k v).pins = s.pins := rfl
@[simp] theorem State.setCluster_core (j : Nat) : (s.setCluster k v).core j = s.core j := rfl
@[simp] theorem State.setCluster_group (j : Nat) : (s.setCluster k v).group j = s.group j := rfl
@[simp] theorem State.setCluster_channel (j : Nat) : (s.setCluster k v).channel j = s.channel j := rfl
@[simp] theorem State.setCluster_ctx (j : Nat) : (s.setCluster k v).ctx j = s.ctx j := rfl
@[simp] theorem State.setCluster_pool (j : Nat) : (s.setCluster k v).pool j = s.pool j := rfl
@[simp] theorem State.setCluster_port (j : Nat) : (s.setCluster k v).port j = s.port j := rfl

end

section
variable (k : Nat) (g : Cluster → Cluster)

@[simp] theorem State.modCluster_pending : (s.modCluster k g).pending = s.pending := rfl
@[simp] theorem State.modCluster_freeCtr : (s.modCluster k g).freeCtr = s.freeCtr := rfl
@[simp] theorem State.modCluster_now : (s.modCluster k g).now = s.now := rfl
@[simp] theorem State.modCluster_cores : (s.modCluster k g).cores = s.cores := rfl
@[simp] theorem State.modCluster_groups : (s.modCluster k g).groups = s.groups := rfl
@[simp] theorem State.modCluster_channels : (s.modCluster k g).channels = s.channels := rfl
@[simp] theorem State.modCluster_mem : (s.modCluster k g).mem = s.mem := rfl
@[simp] theorem State.modCluster_ctxs : (s.modCluster k g).ctxs = s.ctxs := rfl
@[simp] theorem State.modCluster_pools : (s.modCluster k g).pools = s.pools := rfl
@[simp] theorem State.modCluster_ports : (s.modCluster k g).ports = s.ports := rfl
@[simp] theorem State.modCluster_trainTable : (s.modCluster k g).trainTable = s.trainTable := rfl
@[simp] theorem State.modCluster_xpt : (s.modCluster k g).xpt = s.xpt := rfl
@[simp] theorem State.modCluster_hp : (s.modCluster k g).hp = s.hp := rfl
@[simp] theorem State.modCluster_lantern : (s.modCluster k g).lantern = s.lantern := rfl
@[simp] theorem State.modCluster_flash : (s.modCluster k g).flash = s.flash := rfl
@[simp] theorem State.modCluster_clasp : (s.modCluster k g).clasp = s.clasp := rfl
@[simp] theorem State.modCluster_power : (s.modCluster k g).power = s.power := rfl
@[simp] theorem State.modCluster_ras : (s.modCluster k g).ras = s.ras := rfl
@[simp] theorem State.modCluster_pins : (s.modCluster k g).pins = s.pins := rfl
@[simp] theorem State.modCluster_core (j : Nat) : (s.modCluster k g).core j = s.core j := rfl
@[simp] theorem State.modCluster_group (j : Nat) : (s.modCluster k g).group j = s.group j := rfl
@[simp] theorem State.modCluster_channel (j : Nat) : (s.modCluster k g).channel j = s.channel j := rfl
@[simp] theorem State.modCluster_ctx (j : Nat) : (s.modCluster k g).ctx j = s.ctx j := rfl
@[simp] theorem State.modCluster_pool (j : Nat) : (s.modCluster k g).pool j = s.pool j := rfl
@[simp] theorem State.modCluster_port (j : Nat) : (s.modCluster k g).port j = s.port j := rfl

end

@[simp] theorem State.setCluster_cluster_same (k : Nat) (v : Cluster) : (s.setCluster k v).cluster k = v := sget_sset_same _ _ _ _

@[simp] theorem State.setCluster_cluster_other {k j : Nat} (v : Cluster) (h : j ≠ k) : (s.setCluster k v).cluster j = s.cluster j :=
  sget_sset_other _ _ _ h

theorem State.setCluster_cluster (k j : Nat) (v : Cluster) : (s.setCluster k v).cluster j = if j = k then v else s.cluster j :=
  sget_sset _ _ _ _ _

@[simp] theorem State.modCluster_cluster_same (k : Nat) (g : Cluster → Cluster) : (s.modCluster k g).cluster k = g (s.cluster k) :=
  sget_sset_same _ _ _ _

@[simp] theorem State.modCluster_cluster_other {k j : Nat} (g : Cluster → Cluster) (h : j ≠ k) : (s.modCluster k g).cluster j = s.cluster j :=
  sget_sset_other _ _ _ h

theorem State.modCluster_cluster (k j : Nat) (g : Cluster → Cluster) :
    (s.modCluster k g).cluster j = if j = k then g (s.cluster k) else s.cluster j := sget_sset _ _ _ _ _

/-! ### Group updates -/

section
variable (k : Nat) (v : Group)

@[simp] theorem State.setGroup_pending : (s.setGroup k v).pending = s.pending := rfl
@[simp] theorem State.setGroup_freeCtr : (s.setGroup k v).freeCtr = s.freeCtr := rfl
@[simp] theorem State.setGroup_now : (s.setGroup k v).now = s.now := rfl
@[simp] theorem State.setGroup_cores : (s.setGroup k v).cores = s.cores := rfl
@[simp] theorem State.setGroup_clusters : (s.setGroup k v).clusters = s.clusters := rfl
@[simp] theorem State.setGroup_channels : (s.setGroup k v).channels = s.channels := rfl
@[simp] theorem State.setGroup_mem : (s.setGroup k v).mem = s.mem := rfl
@[simp] theorem State.setGroup_ctxs : (s.setGroup k v).ctxs = s.ctxs := rfl
@[simp] theorem State.setGroup_pools : (s.setGroup k v).pools = s.pools := rfl
@[simp] theorem State.setGroup_ports : (s.setGroup k v).ports = s.ports := rfl
@[simp] theorem State.setGroup_trainTable : (s.setGroup k v).trainTable = s.trainTable := rfl
@[simp] theorem State.setGroup_xpt : (s.setGroup k v).xpt = s.xpt := rfl
@[simp] theorem State.setGroup_hp : (s.setGroup k v).hp = s.hp := rfl
@[simp] theorem State.setGroup_lantern : (s.setGroup k v).lantern = s.lantern := rfl
@[simp] theorem State.setGroup_flash : (s.setGroup k v).flash = s.flash := rfl
@[simp] theorem State.setGroup_clasp : (s.setGroup k v).clasp = s.clasp := rfl
@[simp] theorem State.setGroup_power : (s.setGroup k v).power = s.power := rfl
@[simp] theorem State.setGroup_ras : (s.setGroup k v).ras = s.ras := rfl
@[simp] theorem State.setGroup_pins : (s.setGroup k v).pins = s.pins := rfl
@[simp] theorem State.setGroup_core (j : Nat) : (s.setGroup k v).core j = s.core j := rfl
@[simp] theorem State.setGroup_cluster (j : Nat) : (s.setGroup k v).cluster j = s.cluster j := rfl
@[simp] theorem State.setGroup_channel (j : Nat) : (s.setGroup k v).channel j = s.channel j := rfl
@[simp] theorem State.setGroup_ctx (j : Nat) : (s.setGroup k v).ctx j = s.ctx j := rfl
@[simp] theorem State.setGroup_pool (j : Nat) : (s.setGroup k v).pool j = s.pool j := rfl
@[simp] theorem State.setGroup_port (j : Nat) : (s.setGroup k v).port j = s.port j := rfl

end

section
variable (k : Nat) (g : Group → Group)

@[simp] theorem State.modGroup_pending : (s.modGroup k g).pending = s.pending := rfl
@[simp] theorem State.modGroup_freeCtr : (s.modGroup k g).freeCtr = s.freeCtr := rfl
@[simp] theorem State.modGroup_now : (s.modGroup k g).now = s.now := rfl
@[simp] theorem State.modGroup_cores : (s.modGroup k g).cores = s.cores := rfl
@[simp] theorem State.modGroup_clusters : (s.modGroup k g).clusters = s.clusters := rfl
@[simp] theorem State.modGroup_channels : (s.modGroup k g).channels = s.channels := rfl
@[simp] theorem State.modGroup_mem : (s.modGroup k g).mem = s.mem := rfl
@[simp] theorem State.modGroup_ctxs : (s.modGroup k g).ctxs = s.ctxs := rfl
@[simp] theorem State.modGroup_pools : (s.modGroup k g).pools = s.pools := rfl
@[simp] theorem State.modGroup_ports : (s.modGroup k g).ports = s.ports := rfl
@[simp] theorem State.modGroup_trainTable : (s.modGroup k g).trainTable = s.trainTable := rfl
@[simp] theorem State.modGroup_xpt : (s.modGroup k g).xpt = s.xpt := rfl
@[simp] theorem State.modGroup_hp : (s.modGroup k g).hp = s.hp := rfl
@[simp] theorem State.modGroup_lantern : (s.modGroup k g).lantern = s.lantern := rfl
@[simp] theorem State.modGroup_flash : (s.modGroup k g).flash = s.flash := rfl
@[simp] theorem State.modGroup_clasp : (s.modGroup k g).clasp = s.clasp := rfl
@[simp] theorem State.modGroup_power : (s.modGroup k g).power = s.power := rfl
@[simp] theorem State.modGroup_ras : (s.modGroup k g).ras = s.ras := rfl
@[simp] theorem State.modGroup_pins : (s.modGroup k g).pins = s.pins := rfl
@[simp] theorem State.modGroup_core (j : Nat) : (s.modGroup k g).core j = s.core j := rfl
@[simp] theorem State.modGroup_cluster (j : Nat) : (s.modGroup k g).cluster j = s.cluster j := rfl
@[simp] theorem State.modGroup_channel (j : Nat) : (s.modGroup k g).channel j = s.channel j := rfl
@[simp] theorem State.modGroup_ctx (j : Nat) : (s.modGroup k g).ctx j = s.ctx j := rfl
@[simp] theorem State.modGroup_pool (j : Nat) : (s.modGroup k g).pool j = s.pool j := rfl
@[simp] theorem State.modGroup_port (j : Nat) : (s.modGroup k g).port j = s.port j := rfl

end

@[simp] theorem State.setGroup_group_same (k : Nat) (v : Group) : (s.setGroup k v).group k = v := sget_sset_same _ _ _ _

@[simp] theorem State.setGroup_group_other {k j : Nat} (v : Group) (h : j ≠ k) : (s.setGroup k v).group j = s.group j :=
  sget_sset_other _ _ _ h

theorem State.setGroup_group (k j : Nat) (v : Group) : (s.setGroup k v).group j = if j = k then v else s.group j :=
  sget_sset _ _ _ _ _

@[simp] theorem State.modGroup_group_same (k : Nat) (g : Group → Group) : (s.modGroup k g).group k = g (s.group k) :=
  sget_sset_same _ _ _ _

@[simp] theorem State.modGroup_group_other {k j : Nat} (g : Group → Group) (h : j ≠ k) : (s.modGroup k g).group j = s.group j :=
  sget_sset_other _ _ _ h

theorem State.modGroup_group (k j : Nat) (g : Group → Group) :
    (s.modGroup k g).group j = if j = k then g (s.group k) else s.group j := sget_sset _ _ _ _ _

/-! ### Channel updates -/

section
variable (k : Nat) (v : Channel)

@[simp] theorem State.setChannel_pending : (s.setChannel k v).pending = s.pending := rfl
@[simp] theorem State.setChannel_freeCtr : (s.setChannel k v).freeCtr = s.freeCtr := rfl
@[simp] theorem State.setChannel_now : (s.setChannel k v).now = s.now := rfl
@[simp] theorem State.setChannel_cores : (s.setChannel k v).cores = s.cores := rfl
@[simp] theorem State.setChannel_clusters : (s.setChannel k v).clusters = s.clusters := rfl
@[simp] theorem State.setChannel_groups : (s.setChannel k v).groups = s.groups := rfl
@[simp] theorem State.setChannel_mem : (s.setChannel k v).mem = s.mem := rfl
@[simp] theorem State.setChannel_ctxs : (s.setChannel k v).ctxs = s.ctxs := rfl
@[simp] theorem State.setChannel_pools : (s.setChannel k v).pools = s.pools := rfl
@[simp] theorem State.setChannel_ports : (s.setChannel k v).ports = s.ports := rfl
@[simp] theorem State.setChannel_trainTable : (s.setChannel k v).trainTable = s.trainTable := rfl
@[simp] theorem State.setChannel_xpt : (s.setChannel k v).xpt = s.xpt := rfl
@[simp] theorem State.setChannel_hp : (s.setChannel k v).hp = s.hp := rfl
@[simp] theorem State.setChannel_lantern : (s.setChannel k v).lantern = s.lantern := rfl
@[simp] theorem State.setChannel_flash : (s.setChannel k v).flash = s.flash := rfl
@[simp] theorem State.setChannel_clasp : (s.setChannel k v).clasp = s.clasp := rfl
@[simp] theorem State.setChannel_power : (s.setChannel k v).power = s.power := rfl
@[simp] theorem State.setChannel_ras : (s.setChannel k v).ras = s.ras := rfl
@[simp] theorem State.setChannel_pins : (s.setChannel k v).pins = s.pins := rfl
@[simp] theorem State.setChannel_core (j : Nat) : (s.setChannel k v).core j = s.core j := rfl
@[simp] theorem State.setChannel_cluster (j : Nat) : (s.setChannel k v).cluster j = s.cluster j := rfl
@[simp] theorem State.setChannel_group (j : Nat) : (s.setChannel k v).group j = s.group j := rfl
@[simp] theorem State.setChannel_ctx (j : Nat) : (s.setChannel k v).ctx j = s.ctx j := rfl
@[simp] theorem State.setChannel_pool (j : Nat) : (s.setChannel k v).pool j = s.pool j := rfl
@[simp] theorem State.setChannel_port (j : Nat) : (s.setChannel k v).port j = s.port j := rfl

end

section
variable (k : Nat) (g : Channel → Channel)

@[simp] theorem State.modChannel_pending : (s.modChannel k g).pending = s.pending := rfl
@[simp] theorem State.modChannel_freeCtr : (s.modChannel k g).freeCtr = s.freeCtr := rfl
@[simp] theorem State.modChannel_now : (s.modChannel k g).now = s.now := rfl
@[simp] theorem State.modChannel_cores : (s.modChannel k g).cores = s.cores := rfl
@[simp] theorem State.modChannel_clusters : (s.modChannel k g).clusters = s.clusters := rfl
@[simp] theorem State.modChannel_groups : (s.modChannel k g).groups = s.groups := rfl
@[simp] theorem State.modChannel_mem : (s.modChannel k g).mem = s.mem := rfl
@[simp] theorem State.modChannel_ctxs : (s.modChannel k g).ctxs = s.ctxs := rfl
@[simp] theorem State.modChannel_pools : (s.modChannel k g).pools = s.pools := rfl
@[simp] theorem State.modChannel_ports : (s.modChannel k g).ports = s.ports := rfl
@[simp] theorem State.modChannel_trainTable : (s.modChannel k g).trainTable = s.trainTable := rfl
@[simp] theorem State.modChannel_xpt : (s.modChannel k g).xpt = s.xpt := rfl
@[simp] theorem State.modChannel_hp : (s.modChannel k g).hp = s.hp := rfl
@[simp] theorem State.modChannel_lantern : (s.modChannel k g).lantern = s.lantern := rfl
@[simp] theorem State.modChannel_flash : (s.modChannel k g).flash = s.flash := rfl
@[simp] theorem State.modChannel_clasp : (s.modChannel k g).clasp = s.clasp := rfl
@[simp] theorem State.modChannel_power : (s.modChannel k g).power = s.power := rfl
@[simp] theorem State.modChannel_ras : (s.modChannel k g).ras = s.ras := rfl
@[simp] theorem State.modChannel_pins : (s.modChannel k g).pins = s.pins := rfl
@[simp] theorem State.modChannel_core (j : Nat) : (s.modChannel k g).core j = s.core j := rfl
@[simp] theorem State.modChannel_cluster (j : Nat) : (s.modChannel k g).cluster j = s.cluster j := rfl
@[simp] theorem State.modChannel_group (j : Nat) : (s.modChannel k g).group j = s.group j := rfl
@[simp] theorem State.modChannel_ctx (j : Nat) : (s.modChannel k g).ctx j = s.ctx j := rfl
@[simp] theorem State.modChannel_pool (j : Nat) : (s.modChannel k g).pool j = s.pool j := rfl
@[simp] theorem State.modChannel_port (j : Nat) : (s.modChannel k g).port j = s.port j := rfl

end

@[simp] theorem State.setChannel_channel_same (k : Nat) (v : Channel) : (s.setChannel k v).channel k = v := sget_sset_same _ _ _ _

@[simp] theorem State.setChannel_channel_other {k j : Nat} (v : Channel) (h : j ≠ k) : (s.setChannel k v).channel j = s.channel j :=
  sget_sset_other _ _ _ h

theorem State.setChannel_channel (k j : Nat) (v : Channel) : (s.setChannel k v).channel j = if j = k then v else s.channel j :=
  sget_sset _ _ _ _ _

@[simp] theorem State.modChannel_channel_same (k : Nat) (g : Channel → Channel) : (s.modChannel k g).channel k = g (s.channel k) :=
  sget_sset_same _ _ _ _

@[simp] theorem State.modChannel_channel_other {k j : Nat} (g : Channel → Channel) (h : j ≠ k) : (s.modChannel k g).channel j = s.channel j :=
  sget_sset_other _ _ _ h

theorem State.modChannel_channel (k j : Nat) (g : Channel → Channel) :
    (s.modChannel k g).channel j = if j = k then g (s.channel k) else s.channel j := sget_sset _ _ _ _ _

/-! ### Ctx updates -/

section
variable (k : Nat) (v : Ctx)

@[simp] theorem State.setCtx_pending : (s.setCtx k v).pending = s.pending := rfl
@[simp] theorem State.setCtx_freeCtr : (s.setCtx k v).freeCtr = s.freeCtr := rfl
@[simp] theorem State.setCtx_now : (s.setCtx k v).now = s.now := rfl
@[simp] theorem State.setCtx_cores : (s.setCtx k v).cores = s.cores := rfl
@[simp] theorem State.setCtx_clusters : (s.setCtx k v).clusters = s.clusters := rfl
@[simp] theorem State.setCtx_groups : (s.setCtx k v).groups = s.groups := rfl
@[simp] theorem State.setCtx_channels : (s.setCtx k v).channels = s.channels := rfl
@[simp] theorem State.setCtx_mem : (s.setCtx k v).mem = s.mem := rfl
@[simp] theorem State.setCtx_pools : (s.setCtx k v).pools = s.pools := rfl
@[simp] theorem State.setCtx_ports : (s.setCtx k v).ports = s.ports := rfl
@[simp] theorem State.setCtx_trainTable : (s.setCtx k v).trainTable = s.trainTable := rfl
@[simp] theorem State.setCtx_xpt : (s.setCtx k v).xpt = s.xpt := rfl
@[simp] theorem State.setCtx_hp : (s.setCtx k v).hp = s.hp := rfl
@[simp] theorem State.setCtx_lantern : (s.setCtx k v).lantern = s.lantern := rfl
@[simp] theorem State.setCtx_flash : (s.setCtx k v).flash = s.flash := rfl
@[simp] theorem State.setCtx_clasp : (s.setCtx k v).clasp = s.clasp := rfl
@[simp] theorem State.setCtx_power : (s.setCtx k v).power = s.power := rfl
@[simp] theorem State.setCtx_ras : (s.setCtx k v).ras = s.ras := rfl
@[simp] theorem State.setCtx_pins : (s.setCtx k v).pins = s.pins := rfl
@[simp] theorem State.setCtx_core (j : Nat) : (s.setCtx k v).core j = s.core j := rfl
@[simp] theorem State.setCtx_cluster (j : Nat) : (s.setCtx k v).cluster j = s.cluster j := rfl
@[simp] theorem State.setCtx_group (j : Nat) : (s.setCtx k v).group j = s.group j := rfl
@[simp] theorem State.setCtx_channel (j : Nat) : (s.setCtx k v).channel j = s.channel j := rfl
@[simp] theorem State.setCtx_pool (j : Nat) : (s.setCtx k v).pool j = s.pool j := rfl
@[simp] theorem State.setCtx_port (j : Nat) : (s.setCtx k v).port j = s.port j := rfl

end

section
variable (k : Nat) (g : Ctx → Ctx)

@[simp] theorem State.modCtx_pending : (s.modCtx k g).pending = s.pending := rfl
@[simp] theorem State.modCtx_freeCtr : (s.modCtx k g).freeCtr = s.freeCtr := rfl
@[simp] theorem State.modCtx_now : (s.modCtx k g).now = s.now := rfl
@[simp] theorem State.modCtx_cores : (s.modCtx k g).cores = s.cores := rfl
@[simp] theorem State.modCtx_clusters : (s.modCtx k g).clusters = s.clusters := rfl
@[simp] theorem State.modCtx_groups : (s.modCtx k g).groups = s.groups := rfl
@[simp] theorem State.modCtx_channels : (s.modCtx k g).channels = s.channels := rfl
@[simp] theorem State.modCtx_mem : (s.modCtx k g).mem = s.mem := rfl
@[simp] theorem State.modCtx_pools : (s.modCtx k g).pools = s.pools := rfl
@[simp] theorem State.modCtx_ports : (s.modCtx k g).ports = s.ports := rfl
@[simp] theorem State.modCtx_trainTable : (s.modCtx k g).trainTable = s.trainTable := rfl
@[simp] theorem State.modCtx_xpt : (s.modCtx k g).xpt = s.xpt := rfl
@[simp] theorem State.modCtx_hp : (s.modCtx k g).hp = s.hp := rfl
@[simp] theorem State.modCtx_lantern : (s.modCtx k g).lantern = s.lantern := rfl
@[simp] theorem State.modCtx_flash : (s.modCtx k g).flash = s.flash := rfl
@[simp] theorem State.modCtx_clasp : (s.modCtx k g).clasp = s.clasp := rfl
@[simp] theorem State.modCtx_power : (s.modCtx k g).power = s.power := rfl
@[simp] theorem State.modCtx_ras : (s.modCtx k g).ras = s.ras := rfl
@[simp] theorem State.modCtx_pins : (s.modCtx k g).pins = s.pins := rfl
@[simp] theorem State.modCtx_core (j : Nat) : (s.modCtx k g).core j = s.core j := rfl
@[simp] theorem State.modCtx_cluster (j : Nat) : (s.modCtx k g).cluster j = s.cluster j := rfl
@[simp] theorem State.modCtx_group (j : Nat) : (s.modCtx k g).group j = s.group j := rfl
@[simp] theorem State.modCtx_channel (j : Nat) : (s.modCtx k g).channel j = s.channel j := rfl
@[simp] theorem State.modCtx_pool (j : Nat) : (s.modCtx k g).pool j = s.pool j := rfl
@[simp] theorem State.modCtx_port (j : Nat) : (s.modCtx k g).port j = s.port j := rfl

end

@[simp] theorem State.setCtx_ctx_same (k : Nat) (v : Ctx) : (s.setCtx k v).ctx k = v := sget_sset_same _ _ _ _

@[simp] theorem State.setCtx_ctx_other {k j : Nat} (v : Ctx) (h : j ≠ k) : (s.setCtx k v).ctx j = s.ctx j :=
  sget_sset_other _ _ _ h

theorem State.setCtx_ctx (k j : Nat) (v : Ctx) : (s.setCtx k v).ctx j = if j = k then v else s.ctx j :=
  sget_sset _ _ _ _ _

@[simp] theorem State.modCtx_ctx_same (k : Nat) (g : Ctx → Ctx) : (s.modCtx k g).ctx k = g (s.ctx k) :=
  sget_sset_same _ _ _ _

@[simp] theorem State.modCtx_ctx_other {k j : Nat} (g : Ctx → Ctx) (h : j ≠ k) : (s.modCtx k g).ctx j = s.ctx j :=
  sget_sset_other _ _ _ h

theorem State.modCtx_ctx (k j : Nat) (g : Ctx → Ctx) :
    (s.modCtx k g).ctx j = if j = k then g (s.ctx k) else s.ctx j := sget_sset _ _ _ _ _

/-! ### Pool updates -/

section
variable (k : Nat) (v : Pool)

@[simp] theorem State.setPool_pending : (s.setPool k v).pending = s.pending := rfl
@[simp] theorem State.setPool_freeCtr : (s.setPool k v).freeCtr = s.freeCtr := rfl
@[simp] theorem State.setPool_now : (s.setPool k v).now = s.now := rfl
@[simp] theorem State.setPool_cores : (s.setPool k v).cores = s.cores := rfl
@[simp] theorem State.setPool_clusters : (s.setPool k v).clusters = s.clusters := rfl
@[simp] theorem State.setPool_groups : (s.setPool k v).groups = s.groups := rfl
@[simp] theorem State.setPool_channels : (s.setPool k v).channels = s.channels := rfl
@[simp] theorem State.setPool_mem : (s.setPool k v).mem = s.mem := rfl
@[simp] theorem State.setPool_ctxs : (s.setPool k v).ctxs = s.ctxs := rfl
@[simp] theorem State.setPool_ports : (s.setPool k v).ports = s.ports := rfl
@[simp] theorem State.setPool_trainTable : (s.setPool k v).trainTable = s.trainTable := rfl
@[simp] theorem State.setPool_xpt : (s.setPool k v).xpt = s.xpt := rfl
@[simp] theorem State.setPool_hp : (s.setPool k v).hp = s.hp := rfl
@[simp] theorem State.setPool_lantern : (s.setPool k v).lantern = s.lantern := rfl
@[simp] theorem State.setPool_flash : (s.setPool k v).flash = s.flash := rfl
@[simp] theorem State.setPool_clasp : (s.setPool k v).clasp = s.clasp := rfl
@[simp] theorem State.setPool_power : (s.setPool k v).power = s.power := rfl
@[simp] theorem State.setPool_ras : (s.setPool k v).ras = s.ras := rfl
@[simp] theorem State.setPool_pins : (s.setPool k v).pins = s.pins := rfl
@[simp] theorem State.setPool_core (j : Nat) : (s.setPool k v).core j = s.core j := rfl
@[simp] theorem State.setPool_cluster (j : Nat) : (s.setPool k v).cluster j = s.cluster j := rfl
@[simp] theorem State.setPool_group (j : Nat) : (s.setPool k v).group j = s.group j := rfl
@[simp] theorem State.setPool_channel (j : Nat) : (s.setPool k v).channel j = s.channel j := rfl
@[simp] theorem State.setPool_ctx (j : Nat) : (s.setPool k v).ctx j = s.ctx j := rfl
@[simp] theorem State.setPool_port (j : Nat) : (s.setPool k v).port j = s.port j := rfl

end

section
variable (k : Nat) (g : Pool → Pool)

@[simp] theorem State.modPool_pending : (s.modPool k g).pending = s.pending := rfl
@[simp] theorem State.modPool_freeCtr : (s.modPool k g).freeCtr = s.freeCtr := rfl
@[simp] theorem State.modPool_now : (s.modPool k g).now = s.now := rfl
@[simp] theorem State.modPool_cores : (s.modPool k g).cores = s.cores := rfl
@[simp] theorem State.modPool_clusters : (s.modPool k g).clusters = s.clusters := rfl
@[simp] theorem State.modPool_groups : (s.modPool k g).groups = s.groups := rfl
@[simp] theorem State.modPool_channels : (s.modPool k g).channels = s.channels := rfl
@[simp] theorem State.modPool_mem : (s.modPool k g).mem = s.mem := rfl
@[simp] theorem State.modPool_ctxs : (s.modPool k g).ctxs = s.ctxs := rfl
@[simp] theorem State.modPool_ports : (s.modPool k g).ports = s.ports := rfl
@[simp] theorem State.modPool_trainTable : (s.modPool k g).trainTable = s.trainTable := rfl
@[simp] theorem State.modPool_xpt : (s.modPool k g).xpt = s.xpt := rfl
@[simp] theorem State.modPool_hp : (s.modPool k g).hp = s.hp := rfl
@[simp] theorem State.modPool_lantern : (s.modPool k g).lantern = s.lantern := rfl
@[simp] theorem State.modPool_flash : (s.modPool k g).flash = s.flash := rfl
@[simp] theorem State.modPool_clasp : (s.modPool k g).clasp = s.clasp := rfl
@[simp] theorem State.modPool_power : (s.modPool k g).power = s.power := rfl
@[simp] theorem State.modPool_ras : (s.modPool k g).ras = s.ras := rfl
@[simp] theorem State.modPool_pins : (s.modPool k g).pins = s.pins := rfl
@[simp] theorem State.modPool_core (j : Nat) : (s.modPool k g).core j = s.core j := rfl
@[simp] theorem State.modPool_cluster (j : Nat) : (s.modPool k g).cluster j = s.cluster j := rfl
@[simp] theorem State.modPool_group (j : Nat) : (s.modPool k g).group j = s.group j := rfl
@[simp] theorem State.modPool_channel (j : Nat) : (s.modPool k g).channel j = s.channel j := rfl
@[simp] theorem State.modPool_ctx (j : Nat) : (s.modPool k g).ctx j = s.ctx j := rfl
@[simp] theorem State.modPool_port (j : Nat) : (s.modPool k g).port j = s.port j := rfl

end

@[simp] theorem State.setPool_pool_same (k : Nat) (v : Pool) : (s.setPool k v).pool k = v := sget_sset_same _ _ _ _

@[simp] theorem State.setPool_pool_other {k j : Nat} (v : Pool) (h : j ≠ k) : (s.setPool k v).pool j = s.pool j :=
  sget_sset_other _ _ _ h

theorem State.setPool_pool (k j : Nat) (v : Pool) : (s.setPool k v).pool j = if j = k then v else s.pool j :=
  sget_sset _ _ _ _ _

@[simp] theorem State.modPool_pool_same (k : Nat) (g : Pool → Pool) : (s.modPool k g).pool k = g (s.pool k) :=
  sget_sset_same _ _ _ _

@[simp] theorem State.modPool_pool_other {k j : Nat} (g : Pool → Pool) (h : j ≠ k) : (s.modPool k g).pool j = s.pool j :=
  sget_sset_other _ _ _ h

theorem State.modPool_pool (k j : Nat) (g : Pool → Pool) :
    (s.modPool k g).pool j = if j = k then g (s.pool k) else s.pool j := sget_sset _ _ _ _ _

/-! ### Port updates -/

section
variable (k : Nat) (v : Port)

@[simp] theorem State.setPort_pending : (s.setPort k v).pending = s.pending := rfl
@[simp] theorem State.setPort_freeCtr : (s.setPort k v).freeCtr = s.freeCtr := rfl
@[simp] theorem State.setPort_now : (s.setPort k v).now = s.now := rfl
@[simp] theorem State.setPort_cores : (s.setPort k v).cores = s.cores := rfl
@[simp] theorem State.setPort_clusters : (s.setPort k v).clusters = s.clusters := rfl
@[simp] theorem State.setPort_groups : (s.setPort k v).groups = s.groups := rfl
@[simp] theorem State.setPort_channels : (s.setPort k v).channels = s.channels := rfl
@[simp] theorem State.setPort_mem : (s.setPort k v).mem = s.mem := rfl
@[simp] theorem State.setPort_ctxs : (s.setPort k v).ctxs = s.ctxs := rfl
@[simp] theorem State.setPort_pools : (s.setPort k v).pools = s.pools := rfl
@[simp] theorem State.setPort_trainTable : (s.setPort k v).trainTable = s.trainTable := rfl
@[simp] theorem State.setPort_xpt : (s.setPort k v).xpt = s.xpt := rfl
@[simp] theorem State.setPort_hp : (s.setPort k v).hp = s.hp := rfl
@[simp] theorem State.setPort_lantern : (s.setPort k v).lantern = s.lantern := rfl
@[simp] theorem State.setPort_flash : (s.setPort k v).flash = s.flash := rfl
@[simp] theorem State.setPort_clasp : (s.setPort k v).clasp = s.clasp := rfl
@[simp] theorem State.setPort_power : (s.setPort k v).power = s.power := rfl
@[simp] theorem State.setPort_ras : (s.setPort k v).ras = s.ras := rfl
@[simp] theorem State.setPort_pins : (s.setPort k v).pins = s.pins := rfl
@[simp] theorem State.setPort_core (j : Nat) : (s.setPort k v).core j = s.core j := rfl
@[simp] theorem State.setPort_cluster (j : Nat) : (s.setPort k v).cluster j = s.cluster j := rfl
@[simp] theorem State.setPort_group (j : Nat) : (s.setPort k v).group j = s.group j := rfl
@[simp] theorem State.setPort_channel (j : Nat) : (s.setPort k v).channel j = s.channel j := rfl
@[simp] theorem State.setPort_ctx (j : Nat) : (s.setPort k v).ctx j = s.ctx j := rfl
@[simp] theorem State.setPort_pool (j : Nat) : (s.setPort k v).pool j = s.pool j := rfl

end

section
variable (k : Nat) (g : Port → Port)

@[simp] theorem State.modPort_pending : (s.modPort k g).pending = s.pending := rfl
@[simp] theorem State.modPort_freeCtr : (s.modPort k g).freeCtr = s.freeCtr := rfl
@[simp] theorem State.modPort_now : (s.modPort k g).now = s.now := rfl
@[simp] theorem State.modPort_cores : (s.modPort k g).cores = s.cores := rfl
@[simp] theorem State.modPort_clusters : (s.modPort k g).clusters = s.clusters := rfl
@[simp] theorem State.modPort_groups : (s.modPort k g).groups = s.groups := rfl
@[simp] theorem State.modPort_channels : (s.modPort k g).channels = s.channels := rfl
@[simp] theorem State.modPort_mem : (s.modPort k g).mem = s.mem := rfl
@[simp] theorem State.modPort_ctxs : (s.modPort k g).ctxs = s.ctxs := rfl
@[simp] theorem State.modPort_pools : (s.modPort k g).pools = s.pools := rfl
@[simp] theorem State.modPort_trainTable : (s.modPort k g).trainTable = s.trainTable := rfl
@[simp] theorem State.modPort_xpt : (s.modPort k g).xpt = s.xpt := rfl
@[simp] theorem State.modPort_hp : (s.modPort k g).hp = s.hp := rfl
@[simp] theorem State.modPort_lantern : (s.modPort k g).lantern = s.lantern := rfl
@[simp] theorem State.modPort_flash : (s.modPort k g).flash = s.flash := rfl
@[simp] theorem State.modPort_clasp : (s.modPort k g).clasp = s.clasp := rfl
@[simp] theorem State.modPort_power : (s.modPort k g).power = s.power := rfl
@[simp] theorem State.modPort_ras : (s.modPort k g).ras = s.ras := rfl
@[simp] theorem State.modPort_pins : (s.modPort k g).pins = s.pins := rfl
@[simp] theorem State.modPort_core (j : Nat) : (s.modPort k g).core j = s.core j := rfl
@[simp] theorem State.modPort_cluster (j : Nat) : (s.modPort k g).cluster j = s.cluster j := rfl
@[simp] theorem State.modPort_group (j : Nat) : (s.modPort k g).group j = s.group j := rfl
@[simp] theorem State.modPort_channel (j : Nat) : (s.modPort k g).channel j = s.channel j := rfl
@[simp] theorem State.modPort_ctx (j : Nat) : (s.modPort k g).ctx j = s.ctx j := rfl
@[simp] theorem State.modPort_pool (j : Nat) : (s.modPort k g).pool j = s.pool j := rfl

end

@[simp] theorem State.setPort_port_same (k : Nat) (v : Port) : (s.setPort k v).port k = v := sget_sset_same _ _ _ _

@[simp] theorem State.setPort_port_other {k j : Nat} (v : Port) (h : j ≠ k) : (s.setPort k v).port j = s.port j :=
  sget_sset_other _ _ _ h

theorem State.setPort_port (k j : Nat) (v : Port) : (s.setPort k v).port j = if j = k then v else s.port j :=
  sget_sset _ _ _ _ _

@[simp] theorem State.modPort_port_same (k : Nat) (g : Port → Port) : (s.modPort k g).port k = g (s.port k) :=
  sget_sset_same _ _ _ _

@[simp] theorem State.modPort_port_other {k j : Nat} (g : Port → Port) (h : j ≠ k) : (s.modPort k g).port j = s.port j :=
  sget_sset_other _ _ _ h

theorem State.modPort_port (k j : Nat) (g : Port → Port) :
    (s.modPort k g).port j = if j = k then g (s.port k) else s.port j := sget_sset _ _ _ _ _

/-! ### Drawing a free value -/

section

@[simp] theorem State.drawn_pending : (s.drawn).pending = s.pending := rfl
@[simp] theorem State.drawn_now : (s.drawn).now = s.now := rfl
@[simp] theorem State.drawn_cores : (s.drawn).cores = s.cores := rfl
@[simp] theorem State.drawn_clusters : (s.drawn).clusters = s.clusters := rfl
@[simp] theorem State.drawn_groups : (s.drawn).groups = s.groups := rfl
@[simp] theorem State.drawn_channels : (s.drawn).channels = s.channels := rfl
@[simp] theorem State.drawn_mem : (s.drawn).mem = s.mem := rfl
@[simp] theorem State.drawn_ctxs : (s.drawn).ctxs = s.ctxs := rfl
@[simp] theorem State.drawn_pools : (s.drawn).pools = s.pools := rfl
@[simp] theorem State.drawn_ports : (s.drawn).ports = s.ports := rfl
@[simp] theorem State.drawn_trainTable : (s.drawn).trainTable = s.trainTable := rfl
@[simp] theorem State.drawn_xpt : (s.drawn).xpt = s.xpt := rfl
@[simp] theorem State.drawn_hp : (s.drawn).hp = s.hp := rfl
@[simp] theorem State.drawn_lantern : (s.drawn).lantern = s.lantern := rfl
@[simp] theorem State.drawn_flash : (s.drawn).flash = s.flash := rfl
@[simp] theorem State.drawn_clasp : (s.drawn).clasp = s.clasp := rfl
@[simp] theorem State.drawn_power : (s.drawn).power = s.power := rfl
@[simp] theorem State.drawn_ras : (s.drawn).ras = s.ras := rfl
@[simp] theorem State.drawn_pins : (s.drawn).pins = s.pins := rfl
@[simp] theorem State.drawn_core (j : Nat) : (s.drawn).core j = s.core j := rfl
@[simp] theorem State.drawn_cluster (j : Nat) : (s.drawn).cluster j = s.cluster j := rfl
@[simp] theorem State.drawn_group (j : Nat) : (s.drawn).group j = s.group j := rfl
@[simp] theorem State.drawn_channel (j : Nat) : (s.drawn).channel j = s.channel j := rfl
@[simp] theorem State.drawn_ctx (j : Nat) : (s.drawn).ctx j = s.ctx j := rfl
@[simp] theorem State.drawn_pool (j : Nat) : (s.drawn).pool j = s.pool j := rfl
@[simp] theorem State.drawn_port (j : Nat) : (s.drawn).port j = s.port j := rfl

end

@[simp] theorem State.drawn_freeCtr : s.drawn.freeCtr = s.freeCtr + 1 := rfl

/-! ### The error log -/

section
variable (l : LogArgs)

@[simp] theorem State.log_pending : (s.log l).pending = s.pending := rfl
@[simp] theorem State.log_freeCtr : (s.log l).freeCtr = s.freeCtr := rfl
@[simp] theorem State.log_now : (s.log l).now = s.now := rfl
@[simp] theorem State.log_cores : (s.log l).cores = s.cores := rfl
@[simp] theorem State.log_clusters : (s.log l).clusters = s.clusters := rfl
@[simp] theorem State.log_groups : (s.log l).groups = s.groups := rfl
@[simp] theorem State.log_channels : (s.log l).channels = s.channels := rfl
@[simp] theorem State.log_mem : (s.log l).mem = s.mem := rfl
@[simp] theorem State.log_ctxs : (s.log l).ctxs = s.ctxs := rfl
@[simp] theorem State.log_pools : (s.log l).pools = s.pools := rfl
@[simp] theorem State.log_ports : (s.log l).ports = s.ports := rfl
@[simp] theorem State.log_trainTable : (s.log l).trainTable = s.trainTable := rfl
@[simp] theorem State.log_xpt : (s.log l).xpt = s.xpt := rfl
@[simp] theorem State.log_hp : (s.log l).hp = s.hp := rfl
@[simp] theorem State.log_lantern : (s.log l).lantern = s.lantern := rfl
@[simp] theorem State.log_flash : (s.log l).flash = s.flash := rfl
@[simp] theorem State.log_clasp : (s.log l).clasp = s.clasp := rfl
@[simp] theorem State.log_power : (s.log l).power = s.power := rfl
@[simp] theorem State.log_pins : (s.log l).pins = s.pins := rfl
@[simp] theorem State.log_core (j : Nat) : (s.log l).core j = s.core j := rfl
@[simp] theorem State.log_cluster (j : Nat) : (s.log l).cluster j = s.cluster j := rfl
@[simp] theorem State.log_group (j : Nat) : (s.log l).group j = s.group j := rfl
@[simp] theorem State.log_channel (j : Nat) : (s.log l).channel j = s.channel j := rfl
@[simp] theorem State.log_ctx (j : Nat) : (s.log l).ctx j = s.ctx j := rfl
@[simp] theorem State.log_pool (j : Nat) : (s.log l).pool j = s.pool j := rfl
@[simp] theorem State.log_port (j : Nat) : (s.log l).port j = s.port j := rfl

end

/-! ### Deferred errors -/

section
variable (l : LogArgs)

@[simp] theorem State.deferred_pending : (s.deferred l).pending = s.pending := rfl
@[simp] theorem State.deferred_freeCtr : (s.deferred l).freeCtr = s.freeCtr := rfl
@[simp] theorem State.deferred_now : (s.deferred l).now = s.now := rfl
@[simp] theorem State.deferred_cores : (s.deferred l).cores = s.cores := rfl
@[simp] theorem State.deferred_clusters : (s.deferred l).clusters = s.clusters := rfl
@[simp] theorem State.deferred_groups : (s.deferred l).groups = s.groups := rfl
@[simp] theorem State.deferred_channels : (s.deferred l).channels = s.channels := rfl
@[simp] theorem State.deferred_mem : (s.deferred l).mem = s.mem := rfl
@[simp] theorem State.deferred_ctxs : (s.deferred l).ctxs = s.ctxs := rfl
@[simp] theorem State.deferred_pools : (s.deferred l).pools = s.pools := rfl
@[simp] theorem State.deferred_ports : (s.deferred l).ports = s.ports := rfl
@[simp] theorem State.deferred_trainTable : (s.deferred l).trainTable = s.trainTable := rfl
@[simp] theorem State.deferred_xpt : (s.deferred l).xpt = s.xpt := rfl
@[simp] theorem State.deferred_hp : (s.deferred l).hp = s.hp := rfl
@[simp] theorem State.deferred_lantern : (s.deferred l).lantern = s.lantern := rfl
@[simp] theorem State.deferred_flash : (s.deferred l).flash = s.flash := rfl
@[simp] theorem State.deferred_clasp : (s.deferred l).clasp = s.clasp := rfl
@[simp] theorem State.deferred_power : (s.deferred l).power = s.power := rfl
@[simp] theorem State.deferred_pins : (s.deferred l).pins = s.pins := rfl
@[simp] theorem State.deferred_core (j : Nat) : (s.deferred l).core j = s.core j := rfl
@[simp] theorem State.deferred_cluster (j : Nat) : (s.deferred l).cluster j = s.cluster j := rfl
@[simp] theorem State.deferred_group (j : Nat) : (s.deferred l).group j = s.group j := rfl
@[simp] theorem State.deferred_channel (j : Nat) : (s.deferred l).channel j = s.channel j := rfl
@[simp] theorem State.deferred_ctx (j : Nat) : (s.deferred l).ctx j = s.ctx j := rfl
@[simp] theorem State.deferred_pool (j : Nat) : (s.deferred l).pool j = s.pool j := rfl
@[simp] theorem State.deferred_port (j : Nat) : (s.deferred l).port j = s.port j := rfl

end

/-! ### Corrected errors -/

section
variable (l : LogArgs)

@[simp] theorem State.corrected_pending : (s.corrected l).pending = s.pending := rfl
@[simp] theorem State.corrected_freeCtr : (s.corrected l).freeCtr = s.freeCtr := rfl
@[simp] theorem State.corrected_now : (s.corrected l).now = s.now := rfl
@[simp] theorem State.corrected_cores : (s.corrected l).cores = s.cores := rfl
@[simp] theorem State.corrected_clusters : (s.corrected l).clusters = s.clusters := rfl
@[simp] theorem State.corrected_groups : (s.corrected l).groups = s.groups := rfl
@[simp] theorem State.corrected_channels : (s.corrected l).channels = s.channels := rfl
@[simp] theorem State.corrected_mem : (s.corrected l).mem = s.mem := rfl
@[simp] theorem State.corrected_ctxs : (s.corrected l).ctxs = s.ctxs := rfl
@[simp] theorem State.corrected_pools : (s.corrected l).pools = s.pools := rfl
@[simp] theorem State.corrected_ports : (s.corrected l).ports = s.ports := rfl
@[simp] theorem State.corrected_trainTable : (s.corrected l).trainTable = s.trainTable := rfl
@[simp] theorem State.corrected_xpt : (s.corrected l).xpt = s.xpt := rfl
@[simp] theorem State.corrected_hp : (s.corrected l).hp = s.hp := rfl
@[simp] theorem State.corrected_lantern : (s.corrected l).lantern = s.lantern := rfl
@[simp] theorem State.corrected_flash : (s.corrected l).flash = s.flash := rfl
@[simp] theorem State.corrected_clasp : (s.corrected l).clasp = s.clasp := rfl
@[simp] theorem State.corrected_power : (s.corrected l).power = s.power := rfl
@[simp] theorem State.corrected_pins : (s.corrected l).pins = s.pins := rfl
@[simp] theorem State.corrected_core (j : Nat) : (s.corrected l).core j = s.core j := rfl
@[simp] theorem State.corrected_cluster (j : Nat) : (s.corrected l).cluster j = s.cluster j := rfl
@[simp] theorem State.corrected_group (j : Nat) : (s.corrected l).group j = s.group j := rfl
@[simp] theorem State.corrected_channel (j : Nat) : (s.corrected l).channel j = s.channel j := rfl
@[simp] theorem State.corrected_ctx (j : Nat) : (s.corrected l).ctx j = s.ctx j := rfl
@[simp] theorem State.corrected_pool (j : Nat) : (s.corrected l).pool j = s.pool j := rfl
@[simp] theorem State.corrected_port (j : Nat) : (s.corrected l).port j = s.port j := rfl

end

/-! ### Sessions -/

section
variable (p : Session → Bool) (g : Session → Session)

@[simp] theorem State.modSessions_pending : (s.modSessions p g).pending = s.pending := rfl
@[simp] theorem State.modSessions_freeCtr : (s.modSessions p g).freeCtr = s.freeCtr := rfl
@[simp] theorem State.modSessions_now : (s.modSessions p g).now = s.now := rfl
@[simp] theorem State.modSessions_cores : (s.modSessions p g).cores = s.cores := rfl
@[simp] theorem State.modSessions_clusters : (s.modSessions p g).clusters = s.clusters := rfl
@[simp] theorem State.modSessions_groups : (s.modSessions p g).groups = s.groups := rfl
@[simp] theorem State.modSessions_channels : (s.modSessions p g).channels = s.channels := rfl
@[simp] theorem State.modSessions_mem : (s.modSessions p g).mem = s.mem := rfl
@[simp] theorem State.modSessions_ctxs : (s.modSessions p g).ctxs = s.ctxs := rfl
@[simp] theorem State.modSessions_pools : (s.modSessions p g).pools = s.pools := rfl
@[simp] theorem State.modSessions_ports : (s.modSessions p g).ports = s.ports := rfl
@[simp] theorem State.modSessions_trainTable : (s.modSessions p g).trainTable = s.trainTable := rfl
@[simp] theorem State.modSessions_xpt : (s.modSessions p g).xpt = s.xpt := rfl
@[simp] theorem State.modSessions_hp : (s.modSessions p g).hp = s.hp := rfl
@[simp] theorem State.modSessions_flash : (s.modSessions p g).flash = s.flash := rfl
@[simp] theorem State.modSessions_clasp : (s.modSessions p g).clasp = s.clasp := rfl
@[simp] theorem State.modSessions_power : (s.modSessions p g).power = s.power := rfl
@[simp] theorem State.modSessions_ras : (s.modSessions p g).ras = s.ras := rfl
@[simp] theorem State.modSessions_pins : (s.modSessions p g).pins = s.pins := rfl
@[simp] theorem State.modSessions_core (j : Nat) : (s.modSessions p g).core j = s.core j := rfl
@[simp] theorem State.modSessions_cluster (j : Nat) : (s.modSessions p g).cluster j = s.cluster j := rfl
@[simp] theorem State.modSessions_group (j : Nat) : (s.modSessions p g).group j = s.group j := rfl
@[simp] theorem State.modSessions_channel (j : Nat) : (s.modSessions p g).channel j = s.channel j := rfl
@[simp] theorem State.modSessions_ctx (j : Nat) : (s.modSessions p g).ctx j = s.ctx j := rfl
@[simp] theorem State.modSessions_pool (j : Nat) : (s.modSessions p g).pool j = s.pool j := rfl
@[simp] theorem State.modSessions_port (j : Nat) : (s.modSessions p g).port j = s.port j := rfl

end

/-! ### Notices to a context's sessions -/

section
variable (x kind : Nat) (body : List Byte)

@[simp] theorem State.noticeCtx_pending : (s.noticeCtx x kind body).pending = s.pending := rfl
@[simp] theorem State.noticeCtx_freeCtr : (s.noticeCtx x kind body).freeCtr = s.freeCtr := rfl
@[simp] theorem State.noticeCtx_now : (s.noticeCtx x kind body).now = s.now := rfl
@[simp] theorem State.noticeCtx_cores : (s.noticeCtx x kind body).cores = s.cores := rfl
@[simp] theorem State.noticeCtx_clusters : (s.noticeCtx x kind body).clusters = s.clusters := rfl
@[simp] theorem State.noticeCtx_groups : (s.noticeCtx x kind body).groups = s.groups := rfl
@[simp] theorem State.noticeCtx_channels : (s.noticeCtx x kind body).channels = s.channels := rfl
@[simp] theorem State.noticeCtx_mem : (s.noticeCtx x kind body).mem = s.mem := rfl
@[simp] theorem State.noticeCtx_ctxs : (s.noticeCtx x kind body).ctxs = s.ctxs := rfl
@[simp] theorem State.noticeCtx_pools : (s.noticeCtx x kind body).pools = s.pools := rfl
@[simp] theorem State.noticeCtx_ports : (s.noticeCtx x kind body).ports = s.ports := rfl
@[simp] theorem State.noticeCtx_trainTable : (s.noticeCtx x kind body).trainTable = s.trainTable := rfl
@[simp] theorem State.noticeCtx_xpt : (s.noticeCtx x kind body).xpt = s.xpt := rfl
@[simp] theorem State.noticeCtx_hp : (s.noticeCtx x kind body).hp = s.hp := rfl
@[simp] theorem State.noticeCtx_flash : (s.noticeCtx x kind body).flash = s.flash := rfl
@[simp] theorem State.noticeCtx_clasp : (s.noticeCtx x kind body).clasp = s.clasp := rfl
@[simp] theorem State.noticeCtx_power : (s.noticeCtx x kind body).power = s.power := rfl
@[simp] theorem State.noticeCtx_ras : (s.noticeCtx x kind body).ras = s.ras := rfl
@[simp] theorem State.noticeCtx_pins : (s.noticeCtx x kind body).pins = s.pins := rfl
@[simp] theorem State.noticeCtx_core (j : Nat) : (s.noticeCtx x kind body).core j = s.core j := rfl
@[simp] theorem State.noticeCtx_cluster (j : Nat) : (s.noticeCtx x kind body).cluster j = s.cluster j := rfl
@[simp] theorem State.noticeCtx_group (j : Nat) : (s.noticeCtx x kind body).group j = s.group j := rfl
@[simp] theorem State.noticeCtx_channel (j : Nat) : (s.noticeCtx x kind body).channel j = s.channel j := rfl
@[simp] theorem State.noticeCtx_ctx (j : Nat) : (s.noticeCtx x kind body).ctx j = s.ctx j := rfl
@[simp] theorem State.noticeCtx_pool (j : Nat) : (s.noticeCtx x kind body).pool j = s.pool j := rfl
@[simp] theorem State.noticeCtx_port (j : Nat) : (s.noticeCtx x kind body).port j = s.port j := rfl

end

/-! ### Notices to the admin sessions -/

section
variable (kind : Nat) (body : List Byte)

@[simp] theorem State.noticeDev_pending : (s.noticeDev kind body).pending = s.pending := rfl
@[simp] theorem State.noticeDev_freeCtr : (s.noticeDev kind body).freeCtr = s.freeCtr := rfl
@[simp] theorem State.noticeDev_now : (s.noticeDev kind body).now = s.now := rfl
@[simp] theorem State.noticeDev_cores : (s.noticeDev kind body).cores = s.cores := rfl
@[simp] theorem State.noticeDev_clusters : (s.noticeDev kind body).clusters = s.clusters := rfl
@[simp] theorem State.noticeDev_groups : (s.noticeDev kind body).groups = s.groups := rfl
@[simp] theorem State.noticeDev_channels : (s.noticeDev kind body).channels = s.channels := rfl
@[simp] theorem State.noticeDev_mem : (s.noticeDev kind body).mem = s.mem := rfl
@[simp] theorem State.noticeDev_ctxs : (s.noticeDev kind body).ctxs = s.ctxs := rfl
@[simp] theorem State.noticeDev_pools : (s.noticeDev kind body).pools = s.pools := rfl
@[simp] theorem State.noticeDev_ports : (s.noticeDev kind body).ports = s.ports := rfl
@[simp] theorem State.noticeDev_trainTable : (s.noticeDev kind body).trainTable = s.trainTable := rfl
@[simp] theorem State.noticeDev_xpt : (s.noticeDev kind body).xpt = s.xpt := rfl
@[simp] theorem State.noticeDev_hp : (s.noticeDev kind body).hp = s.hp := rfl
@[simp] theorem State.noticeDev_flash : (s.noticeDev kind body).flash = s.flash := rfl
@[simp] theorem State.noticeDev_clasp : (s.noticeDev kind body).clasp = s.clasp := rfl
@[simp] theorem State.noticeDev_power : (s.noticeDev kind body).power = s.power := rfl
@[simp] theorem State.noticeDev_ras : (s.noticeDev kind body).ras = s.ras := rfl
@[simp] theorem State.noticeDev_pins : (s.noticeDev kind body).pins = s.pins := rfl
@[simp] theorem State.noticeDev_core (j : Nat) : (s.noticeDev kind body).core j = s.core j := rfl
@[simp] theorem State.noticeDev_cluster (j : Nat) : (s.noticeDev kind body).cluster j = s.cluster j := rfl
@[simp] theorem State.noticeDev_group (j : Nat) : (s.noticeDev kind body).group j = s.group j := rfl
@[simp] theorem State.noticeDev_channel (j : Nat) : (s.noticeDev kind body).channel j = s.channel j := rfl
@[simp] theorem State.noticeDev_ctx (j : Nat) : (s.noticeDev kind body).ctx j = s.ctx j := rfl
@[simp] theorem State.noticeDev_pool (j : Nat) : (s.noticeDev kind body).pool j = s.pool j := rfl
@[simp] theorem State.noticeDev_port (j : Nat) : (s.noticeDev kind body).port j = s.port j := rfl

end

end Sys2Proof.Machine
end

