-- ==== Sys2Proof/Laws/Memory.lean ====
section
/-! SUPPORT. The laws of main memory: a read after a write gives the bytes written, a write leaves every other byte alone,
every memory operation keeps the canonical form, and a memory operation writes only main memory, the registers of its
channels and groups, and the error log. -/

namespace Sys2Proof.Machine

/-! ### The data bytes -/

theorem sget_foldl_sset (bs : List Byte) (pa n a : Nat) (m : Sparse Byte) :
    sget 0 ((bs.zipIdx n).foldl (fun t e => sset 0 t (pa + e.2) e.1) m) a =
      if pa + n ≤ a ∧ a < pa + n + bs.length then bs.getD (a - (pa + n)) 0 else sget 0 m a := by
  induction bs generalizing n m with
  | nil => rw [if_neg (by simp only [List.length_nil]; omega)]; rfl
  | cons b r ih =>
    rw [List.zipIdx_cons, List.foldl_cons, ih, sget_sset]
    rcases Nat.lt_trichotomy a (pa + n) with h | h | h
    · rw [if_neg (by omega), if_neg (by omega), if_neg (by omega)]
    · subst h
      rw [if_neg (by omega), if_pos rfl, if_pos (by simp)]
      simp
    · by_cases hb : a < pa + n + (r.length + 1)
      · rw [if_pos (by omega), if_pos (by simp; omega), show a - (pa + n) = a - (pa + (n + 1)) + 1 from by omega,
          List.getD_cons_succ]
      · rw [if_neg (by omega), if_neg (by omega), if_neg (by simp; omega)]

/-- A byte after `putBytes`: the byte written inside the range, else the byte before. -/
theorem MainMem.putBytes_byte (m : MainMem) (pa a : Nat) (bs : List Byte) :
    sget 0 (m.putBytes pa bs).bytes a = if pa ≤ a ∧ a < pa + bs.length then bs.getD (a - pa) 0 else sget 0 m.bytes a :=
  sget_foldl_sset bs pa 0 a m.bytes

@[simp] theorem MainMem.putBytes_delta (m : MainMem) (pa : Nat) (bs : List Byte) : (m.putBytes pa bs).delta = m.delta := rfl
@[simp] theorem MainMem.putBytes_deltaOf (m : MainMem) (pa l : Nat) (bs : List Byte) :
    (m.putBytes pa bs).deltaOf l = m.deltaOf l := rfl
@[simp] theorem MainMem.putDelta_bytes (m : MainMem) (l : Nat) (d : Word64) : (m.putDelta l d).bytes = m.bytes := rfl
theorem MainMem.putDelta_deltaOf (m : MainMem) (l k : Nat) (d : Word64) :
    (m.putDelta l d).deltaOf k = if k = l then d else m.deltaOf k := sget_sset _ _ _ _ _

/-! ### The canonical form -/

theorem wf_foldl_sset (bs : List (Byte × Nat)) (pa : Nat) (m : Sparse Byte) (h : Sparse.wf 0 m = true) :
    Sparse.wf 0 (bs.foldl (fun t e => sset 0 t (pa + e.2) e.1) m) = true := by
  induction bs generalizing m with
  | nil => exact h
  | cons b r ih => exact ih _ (Sparse.wf_sset _ _ _ _ h)

theorem MainMem.wf_iff (m : MainMem) : m.wf = true ↔ Sparse.wf 0 m.bytes = true ∧ Sparse.wf 0 m.delta = true := by
  simp [MainMem.wf]

theorem MainMem.wf_putBytes (m : MainMem) (pa : Nat) (bs : List Byte) (h : m.wf = true) : (m.putBytes pa bs).wf = true := by
  rw [MainMem.wf_iff] at h ⊢
  exact ⟨wf_foldl_sset _ _ _ h.1, h.2⟩

theorem MainMem.wf_putDelta (m : MainMem) (l : Nat) (d : Word64) (h : m.wf = true) : (m.putDelta l d).wf = true := by
  rw [MainMem.wf_iff] at h ⊢
  exact ⟨h.1, Sparse.wf_sset _ _ _ _ h.2⟩

theorem MainMem.wf_reset : State.reset.mem.wf = true := rfl

/-! ### What a memory operation writes -/

/-- `t` is `s` but for main memory, channel and group registers, the mesh and the error log. -/
def MemOnly (s t : State) : Prop :=
  { t with mem := s.mem, channels := s.channels, groups := s.groups, ras := s.ras, mesh := s.mesh } = s

theorem MemOnly.eq {s t : State} (h : MemOnly s t) :
    { t with mem := s.mem, channels := s.channels, groups := s.groups, ras := s.ras, mesh := s.mesh } = s := h

theorem MemOnly.refl (s : State) : MemOnly s s := rfl

theorem MemOnly.trans {s t u : State} (h : MemOnly s t) (k : MemOnly t u) : MemOnly s u := by
  unfold MemOnly at *
  rw [← k] at h
  exact h

theorem MemOnly.cores {s t : State} (h : MemOnly s t) : t.cores = s.cores := (congrArg State.cores h.eq :)
theorem MemOnly.clusters {s t : State} (h : MemOnly s t) : t.clusters = s.clusters := (congrArg State.clusters h.eq :)
theorem MemOnly.ctxs {s t : State} (h : MemOnly s t) : t.ctxs = s.ctxs := (congrArg State.ctxs h.eq :)
theorem MemOnly.pools {s t : State} (h : MemOnly s t) : t.pools = s.pools := (congrArg State.pools h.eq :)
theorem MemOnly.ports {s t : State} (h : MemOnly s t) : t.ports = s.ports := (congrArg State.ports h.eq :)
theorem MemOnly.xpt {s t : State} (h : MemOnly s t) : t.xpt = s.xpt := (congrArg State.xpt h.eq :)
theorem MemOnly.hp {s t : State} (h : MemOnly s t) : t.hp = s.hp := (congrArg State.hp h.eq :)
theorem MemOnly.lantern {s t : State} (h : MemOnly s t) : t.lantern = s.lantern := (congrArg State.lantern h.eq :)
theorem MemOnly.flash {s t : State} (h : MemOnly s t) : t.flash = s.flash := (congrArg State.flash h.eq :)
theorem MemOnly.clasp {s t : State} (h : MemOnly s t) : t.clasp = s.clasp := (congrArg State.clasp h.eq :)
theorem MemOnly.power {s t : State} (h : MemOnly s t) : t.power = s.power := (congrArg State.power h.eq :)
theorem MemOnly.pins {s t : State} (h : MemOnly s t) : t.pins = s.pins := (congrArg State.pins h.eq :)
theorem MemOnly.pending {s t : State} (h : MemOnly s t) : t.pending = s.pending := (congrArg State.pending h.eq :)
theorem MemOnly.now {s t : State} (h : MemOnly s t) : t.now = s.now := (congrArg State.now h.eq :)
theorem MemOnly.freeCtr {s t : State} (h : MemOnly s t) : t.freeCtr = s.freeCtr := (congrArg State.freeCtr h.eq :)

/-- `t` is `s` but for main memory, channels, the mesh and the error log, and main memory keeps its form: all that a
transaction on lines of an awake group can do. -/
def LineOnly (s t : State) : Prop :=
  { t with mem := s.mem, channels := s.channels, ras := s.ras, mesh := s.mesh } = s ∧ (s.mem.wf = true → t.mem.wf = true)

theorem LineOnly.refl (s : State) : LineOnly s s := ⟨rfl, id⟩

theorem LineOnly.trans {s t u : State} (h : LineOnly s t) (k : LineOnly t u) : LineOnly s u := by
  obtain ⟨h, hw⟩ := h
  obtain ⟨k, kw⟩ := k
  refine ⟨?_, kw ∘ hw⟩
  rw [← k] at h
  exact h

theorem LineOnly.memOnly {s t : State} (h : LineOnly s t) : MemOnly s t := by
  have := h.1
  unfold MemOnly
  rw [← congrArg State.groups this]
  exact this

theorem LineOnly.groups {s t : State} (h : LineOnly s t) : t.groups = s.groups := (congrArg State.groups h.1 :)

/-- A change that does not reach main memory, but only channels, the mesh and the error log. -/
theorem LineOnly.of_eq {s t : State} (h : { t with mem := s.mem, channels := s.channels, ras := s.ras, mesh := s.mesh } = s)
    (m : t.mem = s.mem) : LineOnly s t := ⟨h, fun w => m ▸ w⟩

theorem LineOnly.withMem (s : State) (m : MainMem) (w : s.mem.wf = true → m.wf = true) : LineOnly s { s with mem := m } := ⟨rfl, w⟩
theorem LineOnly.withMesh (s : State) (m : Mesh) : LineOnly s { s with mesh := m } := .of_eq rfl rfl
theorem LineOnly.setChannel (s : State) (k : Nat) (v : Channel) : LineOnly s (s.setChannel k v) := .of_eq rfl rfl
theorem LineOnly.modChannel (s : State) (k : Nat) (g : Channel → Channel) : LineOnly s (s.modChannel k g) := .of_eq rfl rfl
theorem LineOnly.deferred (s : State) (l : LogArgs) : LineOnly s (s.deferred l) := .of_eq rfl rfl

theorem State.readLine_quiet (s : State) (l : Nat) (u : List (Nat × BitVec 16)) (h : u = [] ∧ s.mem.deltaOf l = 0) :
    s.readLine l u = (s, s.mem.line l, false) := by
  unfold State.readLine
  exact if_pos h

/-- All that a read of a line can change. -/
theorem State.readLine_lineOnly (s : State) (l : Nat) (u : List (Nat × BitVec 16)) : LineOnly s (s.readLine l u).1 := by
  have put (bs : List Byte) (d e : Word64) (h : s.mem.wf = true) :
      (if d = e then (if bs = s.mem.line l then s.mem else s.mem.putBytes (64 * l) bs)
        else (if bs = s.mem.line l then s.mem else s.mem.putBytes (64 * l) bs).putDelta l d).wf = true := by
    split <;> split <;> first | exact h | apply MainMem.wf_putDelta | skip
    all_goals first | exact h | exact MainMem.wf_putBytes _ _ _ h
  unfold State.readLine
  dsimp only
  split
  · exact .refl s
  · split
    · exact .withMem _ _ (put _ _ _)
    · exact (LineOnly.withMem _ _ (put _ _ _)).trans (.modChannel _ _ _)
    · exact (LineOnly.withMem _ _ (put _ _ _)).trans (.modChannel _ _ _)
    · exact (LineOnly.withMem _ _ (put _ _ _)).trans (.modChannel _ _ _)
    · exact ((LineOnly.withMem _ _ (put _ _ _)).trans (.modChannel _ _ _)).trans (.deferred _ _)

/-- All that a write to a line can change. -/
theorem State.mergeLine_lineOnly (s : State) (l off : Nat) (bs : List Byte) (p : Bool) (u : List (Nat × BitVec 16)) :
    LineOnly s (s.mergeLine l off bs p u) := by
  unfold State.mergeLine
  split
  · exact .withMem _ _ (fun h => MainMem.wf_putDelta _ _ _ (MainMem.wf_putBytes _ _ _ h))
  · exact (s.readLine_lineOnly l u).trans
      (.withMem _ _ (fun h => MainMem.wf_putDelta _ _ _ (MainMem.wf_putBytes _ _ _ h)))

theorem State.atomicLine_lineOnly (s : State) (l off op : Nat) (v c : Word64) (u : List (Nat × BitVec 16)) :
    LineOnly s (s.atomicLine l off op v c u).1 := by
  unfold State.atomicLine
  dsimp only
  split
  · exact s.readLine_lineOnly l u
  · exact (s.readLine_lineOnly l u).trans (State.mergeLine_lineOnly _ _ _ _ _ _)

/-- All that a transaction can change. -/
theorem State.act_lineOnly (s : State) (t : Txn) : LineOnly s (s.act t) := by
  unfold State.act
  split
  · exact s.readLine_lineOnly _ _
  · exact s.mergeLine_lineOnly _ _ _ _ _
  · exact s.atomicLine_lineOnly _ _ _ _ _ _

/-- A property of the state that each step of a fold keeps. -/
theorem foldl_keeps {α β : Type} (P : β → Prop) (f : β → α → β) (l : List α) (b : β) (h : P b)
    (k : ∀ b a, P b → P (f b a)) : P (l.foldl f b) := by
  induction l generalizing b with
  | nil => exact h
  | cons a r ih => exact ih _ (k _ _ h)


theorem State.admit_lineOnly (s : State) (ch : Nat) : LineOnly s (s.takeSlots ch) :=
  foldl_keeps (LineOnly s) _ _ _ (.refl s) (fun b a h => by
    split
    · exact h.trans (.of_eq rfl rfl)
    · exact h)

theorem State.turn_lineOnly (s : State) (ch : Nat) : LineOnly s (s.turn ch) := by
  unfold State.turn
  dsimp only
  split
  · exact .refl s
  · exact (foldl_keeps (LineOnly s) State.act _ _ (.setChannel _ _ _) (fun b a k => k.trans (b.act_lineOnly a))).trans
      (.withMesh _ _)

theorem State.drain_lineOnly (ch n : Nat) (s : State) : LineOnly s (State.drain ch n s) := by
  induction n generalizing s with
  | zero => exact .refl s
  | succ n ih =>
    unfold State.drain
    split
    · exact .refl s
    · exact ((s.turn_lineOnly ch).trans (State.admit_lineOnly _ _)).trans (ih _)

theorem MemOnly.setGroup (s : State) (g : Nat) (v : Group) : MemOnly s (s.setGroup g v) := rfl

/-- A transaction restarts a group's idle timer, and keeps everything else. -/
theorem State.touched_cases (s : State) (g : Nat) : s.touched g = s ∨
    ∃ d w, s.touched g = s.setGroup g { s.group g with srDue := d, srStat := w } := by
  unfold State.touched
  dsimp only
  split
  · exact .inr ⟨_, _, rfl⟩
  · split
    · exact .inl rfl
    · exact .inr ⟨_, (s.group g).srStat, rfl⟩

theorem State.touched_memOnly (s : State) (g : Nat) : MemOnly s (s.touched g) := by
  obtain h | ⟨d, w, h⟩ := s.touched_cases g <;> rw [h]
  · exact .refl s
  · exact .setGroup _ _ _

@[simp] theorem State.touched_mem (s : State) (g : Nat) : (s.touched g).mem = s.mem := by
  obtain h | ⟨d, w, h⟩ := s.touched_cases g
  · rw [h]
  · rw [h]; rfl

@[simp] theorem State.touched_selfRefresh (s : State) (g : Nat) :
    ((s.touched g).group g).selfRefresh = (s.group g).selfRefresh := by
  obtain h | ⟨d, w, h⟩ := s.touched_cases g <;> rw [h]
  simp

theorem State.drainGroup_lineOnly (s : State) (g : Nat) : LineOnly s (s.drainGroup g) :=
  foldl_keeps (LineOnly s) _ _ _ (.refl s) (fun b a h => by
    split
    · exact h
    · exact h.trans (State.drain_lineOnly _ _ _))

/-- Nothing happens to a group on whose channels nothing waits. -/
theorem State.drainGroup_quiet (s : State) (g : Nat) (h : ∀ i < 8, s.txnCount (8 * g + i) = 0) : s.drainGroup g = s := by
  unfold State.drainGroup
  have keep (l : List Nat) (k : ∀ i ∈ l, i < 8) : l.foldl (fun (u : State) i => if u.txnCount (8 * g + i) = 0 then u
        else State.drain (8 * g + i) (u.txnCount (8 * g + i)) u) s = s := by
    induction l with
    | nil => rfl
    | cons i r ih =>
      rw [List.foldl_cons, if_pos (h i (k i (List.mem_cons_self ..)))]
      exact ih (fun j m => k j (List.mem_cons_of_mem _ m))
  exact keep _ (fun i m => List.mem_range.1 m)

theorem State.srExit_memOnly (s : State) (g : Nat) : MemOnly s (s.srExit g) :=
  ((MemOnly.setGroup s g _).trans (State.drainGroup_lineOnly _ g).memOnly).trans (State.touched_memOnly _ g)

theorem State.srExit_wf (s : State) (g : Nat) (h : s.mem.wf = true) : (s.srExit g).mem.wf = true := by
  unfold State.srExit
  rw [State.touched_mem]
  exact (State.drainGroup_lineOnly _ g).2 h

/-- After an exit the group is awake. -/
theorem State.srExit_selfRefresh (s : State) (g : Nat) : ((s.srExit g).group g).selfRefresh = false := by
  unfold State.srExit
  rw [State.touched_selfRefresh]
  simp only [State.group, (State.drainGroup_lineOnly _ g).groups]
  simp [State.modGroup, State.setGroup, State.group]

/-- An exit on which nothing waited leaves main memory as it was. -/
theorem State.srExit_quiet (s : State) (g : Nat) (h : ∀ i < 8, s.txnCount (8 * g + i) = 0) :
    s.srExit g = (s.modGroup g (fun v => { v with selfRefresh := false })).touched g := by
  unfold State.srExit
  rw [State.drainGroup_quiet]
  exact h

theorem State.awake_memOnly (s : State) (l : Nat) : MemOnly s (s.awake l) := by
  unfold State.awake
  dsimp only
  split
  · exact s.srExit_memOnly _
  · exact s.touched_memOnly _

theorem State.awake_wf (s : State) (l : Nat) (h : s.mem.wf = true) : (s.awake l).mem.wf = true := by
  unfold State.awake
  dsimp only
  split
  · exact s.srExit_wf _ h
  · rwa [State.touched_mem]

/-- The group that holds line l is awake after it. -/
theorem State.awake_selfRefresh (s : State) (l : Nat) :
    ((s.awake l).group (groupOf (channelOf (64 * l)))).selfRefresh = false := by
  unfold State.awake
  dsimp only
  split
  · exact s.srExit_selfRefresh _
  · rename_i h
    rw [State.touched_selfRefresh]
    simpa using h

/-- Where the group of line l is awake already, main memory stays as it is. -/
theorem State.awake_mem (s : State) (l : Nat) (h : (s.group (groupOf (channelOf (64 * l)))).selfRefresh = false) :
    (s.awake l).mem = s.mem := by
  unfold State.awake
  simp [h]

theorem State.fetchLine_memOnly (s : State) (l : Nat) (u : List (Nat × BitVec 16)) : MemOnly s (s.fetchLine l u).1 :=
  (s.awake_memOnly l).trans (State.readLine_lineOnly _ l u).memOnly

theorem State.fetchLine_wf (s : State) (l : Nat) (u : List (Nat × BitVec 16)) (h : s.mem.wf = true) :
    (s.fetchLine l u).1.mem.wf = true :=
  (State.readLine_lineOnly _ l u).2 (s.awake_wf l h)

/-- A read of a clean line that no upset reached gives its bytes, and does no more than wake the line's group. -/
theorem State.fetchLine_clean (s : State) (l : Nat) (h : (s.awake l).mem.deltaOf l = 0) :
    s.fetchLine l [] = (s.awake l, (s.awake l).mem.line l, false) :=
  State.readLine_quiet _ _ _ ⟨rfl, h⟩

theorem State.storeLine_memOnly (s : State) (l off : Nat) (bs : List Byte) (p : Bool) (u : List (Nat × BitVec 16)) :
    MemOnly s (s.storeLine l off bs p u) :=
  (s.awake_memOnly l).trans (State.mergeLine_lineOnly _ _ _ _ _ _).memOnly

theorem State.storeLine_wf (s : State) (l off : Nat) (bs : List Byte) (p : Bool) (u : List (Nat × BitVec 16))
    (h : s.mem.wf = true) : (s.storeLine l off bs p u).mem.wf = true :=
  (State.mergeLine_lineOnly _ _ _ _ _ _).2 (s.awake_wf l h)

/-- A store of a whole line stores its bytes there. -/
theorem State.storeLine_whole (s : State) (l : Nat) (bs : List Byte) (p : Bool) (u : List (Nat × BitVec 16))
    (h : bs.length = 64) : (s.storeLine l 0 bs p u).mem =
      ((s.awake l).mem.putBytes (64 * l) bs).putDelta l (if p then poisonDelta else 0) := by
  simp [State.storeLine, State.mergeLine, h]

theorem State.readPa_memOnly (s : State) (pa n : Nat) : MemOnly s (s.readPa pa n).1 :=
  foldl_keeps (fun acc : State × List Byte × Bool => MemOnly s acc.1) _ _ _ (.refl s) (fun _ _ h => h.trans (State.fetchLine_memOnly _ _ _))

theorem State.readPa_wf (s : State) (pa n : Nat) (h : s.mem.wf = true) : (s.readPa pa n).1.mem.wf = true :=
  foldl_keeps (fun acc : State × List Byte × Bool => acc.1.mem.wf = true) _ _ _ h
    (fun _ _ h => State.fetchLine_wf _ _ _ h)

theorem State.writePa_memOnly (s : State) (pa : Nat) (bs : List Byte) (p : Nat → Bool) : MemOnly s (s.writePa pa bs p) :=
  foldl_keeps (fun acc : State × List Byte => MemOnly s acc.1) _ _ _ (.refl s)
    (fun _ _ h => h.trans (State.storeLine_memOnly _ _ _ _ _ _))

theorem State.writePa_wf (s : State) (pa : Nat) (bs : List Byte) (p : Nat → Bool) (h : s.mem.wf = true) :
    (s.writePa pa bs p).mem.wf = true :=
  foldl_keeps (fun acc : State × List Byte => acc.1.mem.wf = true) _ _ _ h
    (fun _ _ h => State.storeLine_wf _ _ _ _ _ _ h)

theorem State.atomicPa_memOnly (s : State) (pa op : Nat) (v c : Word64) (u : List (Nat × BitVec 16)) :
    MemOnly s (s.atomicPa pa op v c u).1 :=
  (s.awake_memOnly _).trans (State.atomicLine_lineOnly _ _ _ _ _ _ _).memOnly

theorem State.atomicPa_wf (s : State) (pa op : Nat) (v c : Word64) (u : List (Nat × BitVec 16)) (h : s.mem.wf = true) :
    (s.atomicPa pa op v c u).1.mem.wf = true :=
  (State.atomicLine_lineOnly _ _ _ _ _ _ _).2 (s.awake_wf _ h)

theorem State.lineRequest_memOnly (s : State) (t : Txn) : MemOnly s (s.lineRequest t) := by
  unfold State.lineRequest
  dsimp only
  split
  · exact (s.touched_memOnly _).trans (State.act_lineOnly _ _).memOnly
  · split <;> rfl

theorem State.lineRequest_wf (s : State) (t : Txn) (h : s.mem.wf = true) : (s.lineRequest t).mem.wf = true := by
  unfold State.lineRequest
  dsimp only
  split
  · exact (State.act_lineOnly _ _).2 (by rwa [State.touched_mem])
  · split <;> exact h

/-! ### A read after a write of a clean range -/

/-- The line that a clean line store leaves behind reads back without poison. -/
theorem State.fetchLine_after_storeLine (s : State) (l : Nat) (bs : List Byte) (u : List (Nat × BitVec 16))
    (h : bs.length = 64) : ((s.storeLine l 0 bs false u).fetchLine l []).2 = (bs, false) := by
  have e : ((s.storeLine l 0 bs false u).awake l).mem = (s.storeLine l 0 bs false u).mem := by
    apply State.awake_mem
    have g := (State.mergeLine_lineOnly (s.awake l) l 0 bs false u).groups
    show (sget _ (State.mergeLine _ _ _ _ _ _).groups _).selfRefresh = false
    rw [g]
    exact s.awake_selfRefresh l
  rw [State.fetchLine_clean]
  · show (((s.storeLine l 0 bs false u).awake l).mem.line l, false) = (bs, false)
    rw [e, State.storeLine_whole s l bs false u h]
    congr 1
    apply List.ext_getElem
    · simp [MainMem.line, h]
    · intro i hi hj
      simp only [MainMem.line, List.getElem_map, List.getElem_range, MainMem.putDelta_bytes, MainMem.putBytes_byte]
      rw [if_pos (by omega), Nat.add_sub_cancel_left]
      simp [hj]
  · rw [e, State.storeLine_whole s l bs false u h]
    simp [MainMem.putDelta_deltaOf]

end Sys2Proof.Machine
end

