-- ==== Sys2Proof/Laws/Ops.lean ====
section
/-! SUPPORT. What each shared operation can do: the first failing check, errors, queues and in-flight places, the command of
an operation, translation, reads and writes by virtual address. -/

namespace Sys2Proof.Machine

variable (s : State)

/-! ### Checks (R8) -/

/-- No check fails. -/
theorem firstFail_eq_none (l : List (Bool × Status)) : firstFail l = none ↔ ∀ e ∈ l, e.1 = false := by
  induction l with
  | nil => simp [firstFail]
  | cons a r ih =>
    obtain ⟨b, st⟩ := a
    cases b <;> simp [firstFail, ih]

/-- A refusal is the code of a failing check before which none fails. -/
theorem firstFail_eq_some (l : List (Bool × Status)) (st : Status) (h : firstFail l = some st) :
    ∃ p q, l = p ++ (true, st) :: q ∧ ∀ e ∈ p, e.1 = false := by
  induction l with
  | nil => cases h
  | cons a r ih =>
    obtain ⟨b, t⟩ := a
    cases b with
    | true => exact ⟨[], r, by simpa [firstFail] using h, by simp⟩
    | false =>
      obtain ⟨p, q, e, k⟩ := ih h
      exact ⟨(false, t) :: p, q, by simp [e], by simpa using k⟩

/-! ### A contained error (R488): contexts, error log and sessions change, nothing else -/

@[simp] theorem State.contained_pending (x : Option Nat) (l : LogArgs) : (s.contained x l).pending = s.pending := by cases x <;> rfl
@[simp] theorem State.contained_freeCtr (x : Option Nat) (l : LogArgs) : (s.contained x l).freeCtr = s.freeCtr := by cases x <;> rfl
@[simp] theorem State.contained_now (x : Option Nat) (l : LogArgs) : (s.contained x l).now = s.now := by cases x <;> rfl
@[simp] theorem State.contained_cores (x : Option Nat) (l : LogArgs) : (s.contained x l).cores = s.cores := by cases x <;> rfl
@[simp] theorem State.contained_clusters (x : Option Nat) (l : LogArgs) : (s.contained x l).clusters = s.clusters := by cases x <;> rfl
@[simp] theorem State.contained_groups (x : Option Nat) (l : LogArgs) : (s.contained x l).groups = s.groups := by cases x <;> rfl
@[simp] theorem State.contained_channels (x : Option Nat) (l : LogArgs) : (s.contained x l).channels = s.channels := by cases x <;> rfl
@[simp] theorem State.contained_mem (x : Option Nat) (l : LogArgs) : (s.contained x l).mem = s.mem := by cases x <;> rfl
@[simp] theorem State.contained_pools (x : Option Nat) (l : LogArgs) : (s.contained x l).pools = s.pools := by cases x <;> rfl
@[simp] theorem State.contained_ports (x : Option Nat) (l : LogArgs) : (s.contained x l).ports = s.ports := by cases x <;> rfl
@[simp] theorem State.contained_trainTable (x : Option Nat) (l : LogArgs) : (s.contained x l).trainTable = s.trainTable := by cases x <;> rfl
@[simp] theorem State.contained_xpt (x : Option Nat) (l : LogArgs) : (s.contained x l).xpt = s.xpt := by cases x <;> rfl
@[simp] theorem State.contained_hp (x : Option Nat) (l : LogArgs) : (s.contained x l).hp = s.hp := by cases x <;> rfl
@[simp] theorem State.contained_flash (x : Option Nat) (l : LogArgs) : (s.contained x l).flash = s.flash := by cases x <;> rfl
@[simp] theorem State.contained_clasp (x : Option Nat) (l : LogArgs) : (s.contained x l).clasp = s.clasp := by cases x <;> rfl
@[simp] theorem State.contained_power (x : Option Nat) (l : LogArgs) : (s.contained x l).power = s.power := by cases x <;> rfl
@[simp] theorem State.contained_pins (x : Option Nat) (l : LogArgs) : (s.contained x l).pins = s.pins := by cases x <;> rfl
@[simp] theorem State.contained_core (x : Option Nat) (l : LogArgs) (j : Nat) : (s.contained x l).core j = s.core j := by cases x <;> rfl
@[simp] theorem State.contained_cluster (x : Option Nat) (l : LogArgs) (j : Nat) : (s.contained x l).cluster j = s.cluster j := by cases x <;> rfl
@[simp] theorem State.contained_group (x : Option Nat) (l : LogArgs) (j : Nat) : (s.contained x l).group j = s.group j := by cases x <;> rfl
@[simp] theorem State.contained_channel (x : Option Nat) (l : LogArgs) (j : Nat) : (s.contained x l).channel j = s.channel j := by cases x <;> rfl
@[simp] theorem State.contained_pool (x : Option Nat) (l : LogArgs) (j : Nat) : (s.contained x l).pool j = s.pool j := by cases x <;> rfl
@[simp] theorem State.contained_port (x : Option Nat) (l : LogArgs) (j : Nat) : (s.contained x l).port j = s.port j := by cases x <;> rfl

theorem State.contained_ctx_other (x : Nat) (l : LogArgs) {y : Nat} (h : y ≠ x) : (s.contained (some x) l).ctx y = s.ctx y :=
  sget_sset_other _ _ _ h

/-- The context of a contained error is STOPPED where it was RUNNING or STOPPED, and keeps another state. -/
theorem State.contained_ctx_same (x : Nat) (l : LogArgs) : (s.contained (some x) l).ctx x =
    { s.ctx x with state := if (s.ctx x).state = .running ∨ (s.ctx x).state = .stopped then .stopped else (s.ctx x).state,
                   hardStop := true } := sget_sset_same _ _ _ _

/-! ### A core fault and a refusal (R65, R77) -/

@[simp] theorem State.coreFault_pending (c : Nat) (cause : BitVec 16) (st : Status) (d : List Byte) : (s.coreFault c cause st d).pending = s.pending := by
  unfold State.coreFault; simp
@[simp] theorem State.coreFault_freeCtr (c : Nat) (cause : BitVec 16) (st : Status) (d : List Byte) : (s.coreFault c cause st d).freeCtr = s.freeCtr := by
  unfold State.coreFault; simp
@[simp] theorem State.coreFault_now (c : Nat) (cause : BitVec 16) (st : Status) (d : List Byte) : (s.coreFault c cause st d).now = s.now := by
  unfold State.coreFault; simp
@[simp] theorem State.coreFault_clusters (c : Nat) (cause : BitVec 16) (st : Status) (d : List Byte) : (s.coreFault c cause st d).clusters = s.clusters := by
  unfold State.coreFault; simp
@[simp] theorem State.coreFault_groups (c : Nat) (cause : BitVec 16) (st : Status) (d : List Byte) : (s.coreFault c cause st d).groups = s.groups := by
  unfold State.coreFault; simp
@[simp] theorem State.coreFault_channels (c : Nat) (cause : BitVec 16) (st : Status) (d : List Byte) : (s.coreFault c cause st d).channels = s.channels := by
  unfold State.coreFault; simp
@[simp] theorem State.coreFault_mem (c : Nat) (cause : BitVec 16) (st : Status) (d : List Byte) : (s.coreFault c cause st d).mem = s.mem := by
  unfold State.coreFault; simp
@[simp] theorem State.coreFault_pools (c : Nat) (cause : BitVec 16) (st : Status) (d : List Byte) : (s.coreFault c cause st d).pools = s.pools := by
  unfold State.coreFault; simp
@[simp] theorem State.coreFault_ports (c : Nat) (cause : BitVec 16) (st : Status) (d : List Byte) : (s.coreFault c cause st d).ports = s.ports := by
  unfold State.coreFault; simp
@[simp] theorem State.coreFault_trainTable (c : Nat) (cause : BitVec 16) (st : Status) (d : List Byte) : (s.coreFault c cause st d).trainTable = s.trainTable := by
  unfold State.coreFault; simp
@[simp] theorem State.coreFault_xpt (c : Nat) (cause : BitVec 16) (st : Status) (d : List Byte) : (s.coreFault c cause st d).xpt = s.xpt := by
  unfold State.coreFault; simp
@[simp] theorem State.coreFault_hp (c : Nat) (cause : BitVec 16) (st : Status) (d : List Byte) : (s.coreFault c cause st d).hp = s.hp := by
  unfold State.coreFault; simp
@[simp] theorem State.coreFault_flash (c : Nat) (cause : BitVec 16) (st : Status) (d : List Byte) : (s.coreFault c cause st d).flash = s.flash := by
  unfold State.coreFault; simp
@[simp] theorem State.coreFault_clasp (c : Nat) (cause : BitVec 16) (st : Status) (d : List Byte) : (s.coreFault c cause st d).clasp = s.clasp := by
  unfold State.coreFault; simp
@[simp] theorem State.coreFault_power (c : Nat) (cause : BitVec 16) (st : Status) (d : List Byte) : (s.coreFault c cause st d).power = s.power := by
  unfold State.coreFault; simp
@[simp] theorem State.coreFault_pins (c : Nat) (cause : BitVec 16) (st : Status) (d : List Byte) : (s.coreFault c cause st d).pins = s.pins := by
  unfold State.coreFault; simp
@[simp] theorem State.coreFault_cluster (c : Nat) (cause : BitVec 16) (st : Status) (d : List Byte) (j : Nat) : (s.coreFault c cause st d).cluster j = s.cluster j := by
  unfold State.coreFault; simp
@[simp] theorem State.coreFault_group (c : Nat) (cause : BitVec 16) (st : Status) (d : List Byte) (j : Nat) : (s.coreFault c cause st d).group j = s.group j := by
  unfold State.coreFault; simp
@[simp] theorem State.coreFault_channel (c : Nat) (cause : BitVec 16) (st : Status) (d : List Byte) (j : Nat) : (s.coreFault c cause st d).channel j = s.channel j := by
  unfold State.coreFault; simp
@[simp] theorem State.coreFault_pool (c : Nat) (cause : BitVec 16) (st : Status) (d : List Byte) (j : Nat) : (s.coreFault c cause st d).pool j = s.pool j := by
  unfold State.coreFault; simp
@[simp] theorem State.coreFault_port (c : Nat) (cause : BitVec 16) (st : Status) (d : List Byte) (j : Nat) : (s.coreFault c cause st d).port j = s.port j := by
  unfold State.coreFault; simp

@[simp] theorem State.coreFault_core_other (c : Nat) (cause : BitVec 16) (st : Status) (d : List Byte) {j : Nat} (h : j ≠ c) :
    (s.coreFault c cause st d).core j = s.core j := by
  unfold State.coreFault; simp [h]

/-- Of the faulted core only its scalar processor's state changes. -/
theorem State.coreFault_core_same (c : Nat) (cause : BitVec 16) (st : Status) (d : List Byte) :
    (s.coreFault c cause st d).core c =
      { s.core c with scalar := if (s.core c).scalar = .ended then .ended else .stopped } := by
  unfold State.coreFault; simp

/-! ### Queues and in-flight places -/

@[simp] theorem Core.inFlight_setInFlight (u : Core) (p q : QueueId) (l : List QEntry) :
    (u.setInFlight q l).inFlight p = if p = q then l else u.inFlight p := by cases p <;> cases q <;> rfl
@[simp] theorem Core.queue_setInFlight (u : Core) (p q : QueueId) (l : List QEntry) :
    (u.setInFlight q l).queue p = u.queue p := by cases p <;> cases q <;> rfl
@[simp] theorem Core.queue_setQueue (u : Core) (p q : QueueId) (l : List QEntry) :
    (u.setQueue q l).queue p = if p = q then l else u.queue p := by cases p <;> cases q <;> rfl
@[simp] theorem Core.inFlight_setQueue (u : Core) (p q : QueueId) (l : List QEntry) :
    (u.setQueue q l).inFlight p = u.inFlight p := by cases p <;> cases q <;> rfl

theorem length_replaceFirst {α : Type} (p : α → Bool) (f : α → α) (l : List α) : (replaceFirst p f l).length = l.length := by
  induction l with
  | nil => rfl
  | cons a r ih => unfold replaceFirst; split <;> simp [ih]

theorem length_removeFirst_le {α : Type} (p : α → Bool) (l : List α) : (removeFirst p l).length ≤ l.length := by
  induction l with
  | nil => exact Nat.le_refl _
  | cons a r ih => 
    unfold removeFirst
    split
    · simp
    · simpa using ih

/-! ### The outcome of an operation -/

@[simp] theorem State.recordOutcome_pending (c : Nat) (o : Op) (r : Outc) : (s.recordOutcome c o r).pending = s.pending := rfl
@[simp] theorem State.recordOutcome_freeCtr (c : Nat) (o : Op) (r : Outc) : (s.recordOutcome c o r).freeCtr = s.freeCtr := rfl
@[simp] theorem State.recordOutcome_now (c : Nat) (o : Op) (r : Outc) : (s.recordOutcome c o r).now = s.now := rfl
@[simp] theorem State.recordOutcome_clusters (c : Nat) (o : Op) (r : Outc) : (s.recordOutcome c o r).clusters = s.clusters := rfl
@[simp] theorem State.recordOutcome_groups (c : Nat) (o : Op) (r : Outc) : (s.recordOutcome c o r).groups = s.groups := rfl
@[simp] theorem State.recordOutcome_channels (c : Nat) (o : Op) (r : Outc) : (s.recordOutcome c o r).channels = s.channels := rfl
@[simp] theorem State.recordOutcome_mem (c : Nat) (o : Op) (r : Outc) : (s.recordOutcome c o r).mem = s.mem := rfl
@[simp] theorem State.recordOutcome_ctxs (c : Nat) (o : Op) (r : Outc) : (s.recordOutcome c o r).ctxs = s.ctxs := rfl
@[simp] theorem State.recordOutcome_pools (c : Nat) (o : Op) (r : Outc) : (s.recordOutcome c o r).pools = s.pools := rfl
@[simp] theorem State.recordOutcome_ports (c : Nat) (o : Op) (r : Outc) : (s.recordOutcome c o r).ports = s.ports := rfl
@[simp] theorem State.recordOutcome_trainTable (c : Nat) (o : Op) (r : Outc) : (s.recordOutcome c o r).trainTable = s.trainTable := rfl
@[simp] theorem State.recordOutcome_xpt (c : Nat) (o : Op) (r : Outc) : (s.recordOutcome c o r).xpt = s.xpt := rfl
@[simp] theorem State.recordOutcome_hp (c : Nat) (o : Op) (r : Outc) : (s.recordOutcome c o r).hp = s.hp := rfl
@[simp] theorem State.recordOutcome_lantern (c : Nat) (o : Op) (r : Outc) : (s.recordOutcome c o r).lantern = s.lantern := rfl
@[simp] theorem State.recordOutcome_flash (c : Nat) (o : Op) (r : Outc) : (s.recordOutcome c o r).flash = s.flash := rfl
@[simp] theorem State.recordOutcome_clasp (c : Nat) (o : Op) (r : Outc) : (s.recordOutcome c o r).clasp = s.clasp := rfl
@[simp] theorem State.recordOutcome_power (c : Nat) (o : Op) (r : Outc) : (s.recordOutcome c o r).power = s.power := rfl
@[simp] theorem State.recordOutcome_ras (c : Nat) (o : Op) (r : Outc) : (s.recordOutcome c o r).ras = s.ras := rfl
@[simp] theorem State.recordOutcome_pins (c : Nat) (o : Op) (r : Outc) : (s.recordOutcome c o r).pins = s.pins := rfl
@[simp] theorem State.recordOutcome_cluster (c : Nat) (o : Op) (r : Outc) (j : Nat) : (s.recordOutcome c o r).cluster j = s.cluster j := rfl
@[simp] theorem State.recordOutcome_group (c : Nat) (o : Op) (r : Outc) (j : Nat) : (s.recordOutcome c o r).group j = s.group j := rfl
@[simp] theorem State.recordOutcome_channel (c : Nat) (o : Op) (r : Outc) (j : Nat) : (s.recordOutcome c o r).channel j = s.channel j := rfl
@[simp] theorem State.recordOutcome_ctx (c : Nat) (o : Op) (r : Outc) (j : Nat) : (s.recordOutcome c o r).ctx j = s.ctx j := rfl
@[simp] theorem State.recordOutcome_pool (c : Nat) (o : Op) (r : Outc) (j : Nat) : (s.recordOutcome c o r).pool j = s.pool j := rfl
@[simp] theorem State.recordOutcome_port (c : Nat) (o : Op) (r : Outc) (j : Nat) : (s.recordOutcome c o r).port j = s.port j := rfl

@[simp] theorem State.recordOutcome_core_other (c : Nat) (o : Op) (r : Outc) {j : Nat} (h : j ≠ c) : (s.recordOutcome c o r).core j = s.core j :=
  sget_sset_other _ _ _ h

@[simp] theorem State.dropEntry_pending (c : Nat) (o : Op) : (s.dropEntry c o).pending = s.pending := rfl
@[simp] theorem State.dropEntry_freeCtr (c : Nat) (o : Op) : (s.dropEntry c o).freeCtr = s.freeCtr := rfl
@[simp] theorem State.dropEntry_now (c : Nat) (o : Op) : (s.dropEntry c o).now = s.now := rfl
@[simp] theorem State.dropEntry_clusters (c : Nat) (o : Op) : (s.dropEntry c o).clusters = s.clusters := rfl
@[simp] theorem State.dropEntry_groups (c : Nat) (o : Op) : (s.dropEntry c o).groups = s.groups := rfl
@[simp] theorem State.dropEntry_channels (c : Nat) (o : Op) : (s.dropEntry c o).channels = s.channels := rfl
@[simp] theorem State.dropEntry_mem (c : Nat) (o : Op) : (s.dropEntry c o).mem = s.mem := rfl
@[simp] theorem State.dropEntry_ctxs (c : Nat) (o : Op) : (s.dropEntry c o).ctxs = s.ctxs := rfl
@[simp] theorem State.dropEntry_pools (c : Nat) (o : Op) : (s.dropEntry c o).pools = s.pools := rfl
@[simp] theorem State.dropEntry_ports (c : Nat) (o : Op) : (s.dropEntry c o).ports = s.ports := rfl
@[simp] theorem State.dropEntry_trainTable (c : Nat) (o : Op) : (s.dropEntry c o).trainTable = s.trainTable := rfl
@[simp] theorem State.dropEntry_xpt (c : Nat) (o : Op) : (s.dropEntry c o).xpt = s.xpt := rfl
@[simp] theorem State.dropEntry_hp (c : Nat) (o : Op) : (s.dropEntry c o).hp = s.hp := rfl
@[simp] theorem State.dropEntry_lantern (c : Nat) (o : Op) : (s.dropEntry c o).lantern = s.lantern := rfl
@[simp] theorem State.dropEntry_flash (c : Nat) (o : Op) : (s.dropEntry c o).flash = s.flash := rfl
@[simp] theorem State.dropEntry_clasp (c : Nat) (o : Op) : (s.dropEntry c o).clasp = s.clasp := rfl
@[simp] theorem State.dropEntry_power (c : Nat) (o : Op) : (s.dropEntry c o).power = s.power := rfl
@[simp] theorem State.dropEntry_ras (c : Nat) (o : Op) : (s.dropEntry c o).ras = s.ras := rfl
@[simp] theorem State.dropEntry_pins (c : Nat) (o : Op) : (s.dropEntry c o).pins = s.pins := rfl
@[simp] theorem State.dropEntry_cluster (c : Nat) (o : Op) (j : Nat) : (s.dropEntry c o).cluster j = s.cluster j := rfl
@[simp] theorem State.dropEntry_group (c : Nat) (o : Op) (j : Nat) : (s.dropEntry c o).group j = s.group j := rfl
@[simp] theorem State.dropEntry_channel (c : Nat) (o : Op) (j : Nat) : (s.dropEntry c o).channel j = s.channel j := rfl
@[simp] theorem State.dropEntry_ctx (c : Nat) (o : Op) (j : Nat) : (s.dropEntry c o).ctx j = s.ctx j := rfl
@[simp] theorem State.dropEntry_pool (c : Nat) (o : Op) (j : Nat) : (s.dropEntry c o).pool j = s.pool j := rfl
@[simp] theorem State.dropEntry_port (c : Nat) (o : Op) (j : Nat) : (s.dropEntry c o).port j = s.port j := rfl

@[simp] theorem State.dropEntry_core_other (c : Nat) (o : Op) {j : Nat} (h : j ≠ c) : (s.dropEntry c o).core j = s.core j :=
  sget_sset_other _ _ _ h

@[simp] theorem State.holdEntry_pending (c : Nat) (o : Op) (n : Nat) (k : BitVec 16) : (s.holdEntry c o n k).pending = s.pending := rfl
@[simp] theorem State.holdEntry_freeCtr (c : Nat) (o : Op) (n : Nat) (k : BitVec 16) : (s.holdEntry c o n k).freeCtr = s.freeCtr := rfl
@[simp] theorem State.holdEntry_now (c : Nat) (o : Op) (n : Nat) (k : BitVec 16) : (s.holdEntry c o n k).now = s.now := rfl
@[simp] theorem State.holdEntry_clusters (c : Nat) (o : Op) (n : Nat) (k : BitVec 16) : (s.holdEntry c o n k).clusters = s.clusters := rfl
@[simp] theorem State.holdEntry_groups (c : Nat) (o : Op) (n : Nat) (k : BitVec 16) : (s.holdEntry c o n k).groups = s.groups := rfl
@[simp] theorem State.holdEntry_channels (c : Nat) (o : Op) (n : Nat) (k : BitVec 16) : (s.holdEntry c o n k).channels = s.channels := rfl
@[simp] theorem State.holdEntry_mem (c : Nat) (o : Op) (n : Nat) (k : BitVec 16) : (s.holdEntry c o n k).mem = s.mem := rfl
@[simp] theorem State.holdEntry_ctxs (c : Nat) (o : Op) (n : Nat) (k : BitVec 16) : (s.holdEntry c o n k).ctxs = s.ctxs := rfl
@[simp] theorem State.holdEntry_pools (c : Nat) (o : Op) (n : Nat) (k : BitVec 16) : (s.holdEntry c o n k).pools = s.pools := rfl
@[simp] theorem State.holdEntry_ports (c : Nat) (o : Op) (n : Nat) (k : BitVec 16) : (s.holdEntry c o n k).ports = s.ports := rfl
@[simp] theorem State.holdEntry_trainTable (c : Nat) (o : Op) (n : Nat) (k : BitVec 16) : (s.holdEntry c o n k).trainTable = s.trainTable := rfl
@[simp] theorem State.holdEntry_xpt (c : Nat) (o : Op) (n : Nat) (k : BitVec 16) : (s.holdEntry c o n k).xpt = s.xpt := rfl
@[simp] theorem State.holdEntry_hp (c : Nat) (o : Op) (n : Nat) (k : BitVec 16) : (s.holdEntry c o n k).hp = s.hp := rfl
@[simp] theorem State.holdEntry_lantern (c : Nat) (o : Op) (n : Nat) (k : BitVec 16) : (s.holdEntry c o n k).lantern = s.lantern := rfl
@[simp] theorem State.holdEntry_flash (c : Nat) (o : Op) (n : Nat) (k : BitVec 16) : (s.holdEntry c o n k).flash = s.flash := rfl
@[simp] theorem State.holdEntry_clasp (c : Nat) (o : Op) (n : Nat) (k : BitVec 16) : (s.holdEntry c o n k).clasp = s.clasp := rfl
@[simp] theorem State.holdEntry_power (c : Nat) (o : Op) (n : Nat) (k : BitVec 16) : (s.holdEntry c o n k).power = s.power := rfl
@[simp] theorem State.holdEntry_ras (c : Nat) (o : Op) (n : Nat) (k : BitVec 16) : (s.holdEntry c o n k).ras = s.ras := rfl
@[simp] theorem State.holdEntry_pins (c : Nat) (o : Op) (n : Nat) (k : BitVec 16) : (s.holdEntry c o n k).pins = s.pins := rfl
@[simp] theorem State.holdEntry_cluster (c : Nat) (o : Op) (n : Nat) (k : BitVec 16) (j : Nat) : (s.holdEntry c o n k).cluster j = s.cluster j := rfl
@[simp] theorem State.holdEntry_group (c : Nat) (o : Op) (n : Nat) (k : BitVec 16) (j : Nat) : (s.holdEntry c o n k).group j = s.group j := rfl
@[simp] theorem State.holdEntry_channel (c : Nat) (o : Op) (n : Nat) (k : BitVec 16) (j : Nat) : (s.holdEntry c o n k).channel j = s.channel j := rfl
@[simp] theorem State.holdEntry_ctx (c : Nat) (o : Op) (n : Nat) (k : BitVec 16) (j : Nat) : (s.holdEntry c o n k).ctx j = s.ctx j := rfl
@[simp] theorem State.holdEntry_pool (c : Nat) (o : Op) (n : Nat) (k : BitVec 16) (j : Nat) : (s.holdEntry c o n k).pool j = s.pool j := rfl
@[simp] theorem State.holdEntry_port (c : Nat) (o : Op) (n : Nat) (k : BitVec 16) (j : Nat) : (s.holdEntry c o n k).port j = s.port j := rfl

@[simp] theorem State.holdEntry_core_other (c : Nat) (o : Op) (n : Nat) (k : BitVec 16) {j : Nat} (h : j ≠ c) : (s.holdEntry c o n k).core j = s.core j :=
  sget_sset_other _ _ _ h

/-- Recording an outcome changes one entry in flight. -/
theorem State.recordOutcome_inFlight (c : Nat) (o : Op) (r : Outc) : ((s.recordOutcome c o r).core c).inFlight o.queue =
    replaceFirst (fun e => e.op == o && e.result.isNone) (fun e => { e with result := some r })
      ((s.core c).inFlight o.queue) := by
  unfold State.recordOutcome; simp

@[simp] theorem State.recordOutcome_queue (c : Nat) (o : Op) (r : Outc) (q : QueueId) :
    ((s.recordOutcome c o r).core c).queue q = (s.core c).queue q := by
  unfold State.recordOutcome; simp

/-- The command of an operation whose turn has come and whose checks pass: its effect, then its outcome in its entry. -/
theorem State.runOp_none (c : Nat) (o : Op) (eff : OpEnv → State → State × Outc) (h : (s.core c).behind o = false) :
    s.runOp c o none eff = (eff (s.opEnv c o) s).1.recordOutcome c o (eff (s.opEnv c o) s).2 := by
  simp [State.runOp, h]

/-- The command of a refused operation whose turn has come: its entry goes and the refusal takes its course; the effect does
not take place. -/
theorem State.runOp_some (c : Nat) (o : Op) (st : Status) (eff : OpEnv → State → State × Outc)
    (h : (s.core c).behind o = false) :
    s.runOp c o (some st) eff = (s.dropEntry c o).opRefused c (queueCode o.queue) (s.opEnv c o).pos st := by
  simp [State.runOp, h]

/-- The command of an operation that stands behind another in its engine changes nothing (R63). -/
theorem State.runOp_behind (c : Nat) (o : Op) (k : Option Status) (eff : OpEnv → State → State × Outc)
    (h : (s.core c).behind o = true) : s.runOp c o k eff = s := by
  simp [State.runOp, h]

/-- An operation whose entry a command may work for stands behind none. -/
theorem Core.behind_of_entryOf (u : Core) (o : Op) (h : (u.entryOf o).isSome = true) : u.behind o = false := by
  unfold Core.entryOf at h
  split at h
  · simp at h
  · simpa using ‹¬u.behind o = true›

/-- A refused operation leaves main memory. -/
theorem State.runOp_some_mem (c : Nat) (o : Op) (st : Status) (eff : OpEnv → State → State × Outc) :
    (s.runOp c o (some st) eff).mem = s.mem := by
  by_cases h : (s.core c).behind o = true
  · rw [State.runOp_behind s c o _ eff h]
  rw [State.runOp_some s c o st eff (by simpa using h)]
  unfold State.opRefused
  simp

/-! ### Translation (R251, R254) -/

/-- A translation that succeeds: the address is below 2^48, the context has a table, the walk reached a leaf, and the
checks of R254 all passed. -/
theorem State.lookup_ok {s : State} {x : Nat} {agent : Agent} {access : Access} {va : Nat} {f : Leaf}
    (h : s.lookup x agent access va = .ok f) :
    va < 2 ^ 48 ∧ (s.ctx x).root ≠ 0 ∧ s.walkTables (s.ctx x).root va = .ok f ∧ paRegion (f.pa va) ≠ .reserved ∧
      paRegion (f.pa va) ≠ .firmware ∧ s.farUnbound (f.pa va) = false ∧ permits f.entry access (agentInbound agent) = true ∧
      (pteFar f.entry = true → agentFar agent = true) ∧ (agentPinned agent = true → ptePinned f.entry = true) := by
  unfold State.lookup at h
  split at h
  · cases h
  rename_i h1
  split at h
  · cases h
  rename_i h2
  split at h
  · cases h
  rename_i g hg
  split at h
  · cases h
  rename_i h3
  split at h
  · cases h
  rename_i h4
  split at h
  · cases h
  rename_i h5
  split at h
  · cases h
  rename_i h6
  cases h
  simp only [not_or, Bool.not_eq_true, Bool.not_eq_false, Bool.not_eq_true', Bool.and_eq_true, not_and] at h3 h4 h5 h6
  exact ⟨by omega, h2, hg, h3.1, h3.2.1, h3.2.2, by simpa using h4, fun a => by simpa using h5 a, fun a => by simpa using h6 a⟩

/-! ### Reads and writes by virtual address -/

/-- A read by virtual address writes main memory and its registers only (corrected lines, error counts). -/
theorem State.readVa_memOnly {s : State} {x : Nat} {agent : Agent} {va n : Nat} {r : State × List Byte × Bool}
    (h : s.readVa x agent va n = .ok r) : MemOnly s r.1 := by
  unfold State.readVa at h
  split at h
  · cases h
  · cases h
    exact foldl_keeps (fun acc : State × List Byte × Bool => MemOnly s acc.1) _ _ _ (.refl s)
      (fun _ _ h => h.trans (State.readPa_memOnly _ _ _))

theorem State.readVa_wf {s : State} {x : Nat} {agent : Agent} {va n : Nat} {r : State × List Byte × Bool}
    (h : s.readVa x agent va n = .ok r) (k : s.mem.wf = true) : r.1.mem.wf = true := by
  unfold State.readVa at h
  split at h
  · cases h
  · cases h
    exact foldl_keeps (fun acc : State × List Byte × Bool => acc.1.mem.wf = true) _ _ _ k
      (fun _ _ h => State.readPa_wf _ _ _ h)

/-- A write by virtual address writes main memory and its registers only. -/
theorem State.writeVa_memOnly {s t : State} {x : Nat} {agent : Agent} {va : Nat} {bs : List Byte} {p : Bool}
    (h : s.writeVa x agent va bs p = .ok t) : MemOnly s t := by
  unfold State.writeVa at h
  split at h
  · cases h
  · cases h
    exact foldl_keeps (fun acc : State × List Byte => MemOnly s acc.1) _ _ _ (.refl s)
      (fun _ _ h => h.trans (State.writePa_memOnly _ _ _ _))

theorem State.writeVa_wf {s t : State} {x : Nat} {agent : Agent} {va : Nat} {bs : List Byte} {p : Bool}
    (h : s.writeVa x agent va bs p = .ok t) (k : s.mem.wf = true) : t.mem.wf = true := by
  unfold State.writeVa at h
  split at h
  · cases h
  · cases h
    exact foldl_keeps (fun acc : State × List Byte => acc.1.mem.wf = true) _ _ _ k
      (fun _ _ h => State.writePa_wf _ _ _ _ h)

/-- The counters of a fault's walk leave main memory alone. -/
@[simp] theorem State.faultWalk_mem (x : Nat) (f : TFault) : (s.faultWalk x f).mem = s.mem := by
  unfold State.faultWalk State.walkStarted State.walkFailed
  split
  · rfl
  · split <;> split <;> simp

/-- What a translation fault leaves: main memory is not written. -/
theorem State.tfault_mem (x : Nat) (f : TFault) (block inst : Nat) (progress : Option Nat) :
    (s.tfault x f block inst progress).mem = s.mem := by
  have waits (t : State) (g : XRecv → XRecv) (h : Coll → Coll) : (t.modWaits x g h).mem = t.mem := by
    unfold State.modWaits
    exact foldl_keeps (fun u : State => u.mem = t.mem) _ _ _ rfl (fun u k h => by
      split
      · simpa using h
      · exact h)
  unfold State.tfault
  dsimp only
  split
  · simp [State.pauseRecvs, waits]
  · simp

/-! ### The CRC of cells and frames -/

/-- One byte of a CRC register's run. -/
theorem crcRun_cons (poly : Word32) (b : Byte) (r : List Byte) (c : Word32) :
    crcRun poly (b :: r) c = crcRun poly r (crcShift poly 8 (c ^^^ b.zeroExtend 32)) := by
  rw [crcRun]
  split
  · rename_i h
    rw [show crcShift poly 8 (c ^^^ b.zeroExtend 32) = 0 from BitVec.eq_of_toNat_eq (by simpa using h)]
  · rename_i k h
    rw [show BitVec.ofNat 32 (k + 1) = crcShift poly 8 (c ^^^ b.zeroExtend 32) from
      BitVec.eq_of_toNat_eq (by rw [BitVec.toNat_ofNat, ← Nat.succ_eq_add_one, ← h, Nat.mod_eq_of_lt (BitVec.isLt _)])]

end Sys2Proof.Machine
end

