-- ==== Sys2Proof/Laws/Command.lean ====
section
/-! SUPPORT. What a mailbox command can do: it waits, it is refused with nothing but its response, or it acts and is answered;
and what its response leaves. -/

namespace Sys2Proof.Machine

variable (s : State)

/-- A mailbox command changes nothing (an unknown code, Lantern not running), is held behind one that is under way, is answered with
the code of a failed check, or has its effect and is answered with what that gives. -/
theorem State.command_cases (c : Instr) (q : Req) (code len : Nat) (x : Option Nat) (own : Option Status)
    (eff : State → State × Status × List Byte) :
    s.command c q code len x own eff = s ∨
    (s.mustWait q.session x = true ∧ s.command c q code len x own eff = s.hold ⟨c, q.session, x, none⟩) ∨
    (∃ (i : CmdInfo) (st : Status), cmdInfo code = some i ∧ (s.commonCheck q i len x).or own = some st ∧
      s.command c q code len x own eff = s.respond q.session code st []) ∨
    (∃ i : CmdInfo, cmdInfo code = some i ∧ s.commonCheck q i len x = none ∧ own = none ∧
      s.command c q code len x own eff = (eff s).1.respond q.session code (eff s).2.1 (eff s).2.2) := by
  unfold State.command
  split
  · exact .inl rfl
  · rename_i i hi
    split
    · exact .inl rfl
    · split
      · rename_i hw
        exact .inr (.inl ⟨hw, rfl⟩)
      · split
        · rename_i st hs
          exact .inr (.inr (.inl ⟨i, st, hi, hs, rfl⟩))
        · rename_i hn
          rw [Option.or_eq_none_iff] at hn
          exact .inr (.inr (.inr ⟨i, hi, hn.1, hn.2, rfl⟩))

/-- A command that its checks pass, with Lantern running and nothing to wait for. -/
theorem State.command_served {c : Instr} {q : Req} {code len : Nat} {x : Option Nat} {i : CmdInfo}
    (eff : State → State × Status × List Byte) (hi : cmdInfo code = some i) (hr : s.lantern.running = true)
    (hw : s.mustWait q.session x = false) (hc : s.commonCheck q i len x = none) :
    s.command c q code len x none eff = (eff s).1.respond q.session code (eff s).2.1 (eff s).2.2 := by
  unfold State.command
  simp [hi, hr, hw, hc]

/-- A command held behind another changes Lantern's list of held commands only. -/
theorem State.hold_frame (h : HeldCmd) : { s.hold h with lantern := s.lantern } = s := rfl

/-- A datagram sent or held back changes the host port only. -/
theorem State.hpSend_frame (pcp kind : Nat) (bs : List Byte) : { s.hpSend pcp kind bs with hp := s.hp } = s := by
  unfold State.hpSend
  split
  · rfl
  · split <;> rfl

/-- A response writes Lantern's and the host port's state only. -/
theorem State.respond_frame (n code : Nat) (st : Status) (bs : List Byte) :
    { s.respond n code st bs with lantern := s.lantern, hp := s.hp } = s := by
  unfold State.respond
  split
  · dsimp only
    split
    · exact congrArg (fun u : State => { u with lantern := s.lantern, hp := s.hp }) (State.hpSend_frame _ _ _ _)
    · rfl
  · exact congrArg (fun u : State => { u with lantern := s.lantern, hp := s.hp }) (State.hpSend_frame _ _ _ _)

theorem State.respond_mem (n code : Nat) (st : Status) (bs : List Byte) : (s.respond n code st bs).mem = s.mem :=
  (congrArg State.mem (s.respond_frame n code st bs) :)
theorem State.respond_ctxs (n code : Nat) (st : Status) (bs : List Byte) : (s.respond n code st bs).ctxs = s.ctxs :=
  (congrArg State.ctxs (s.respond_frame n code st bs) :)
theorem State.respond_cores (n code : Nat) (st : Status) (bs : List Byte) : (s.respond n code st bs).cores = s.cores :=
  (congrArg State.cores (s.respond_frame n code st bs) :)

end Sys2Proof.Machine
end

