-- ==== Sys2Proof/Laws/Answers.lean ====
section
/-! SUPPORT. What an answer to a mailbox request leaves, and when a command answers. -/

namespace Sys2Proof.Machine

variable (s : State)

@[simp] theorem State.hpSend_lantern (pcp kind : Nat) (bs : List Byte) : (s.hpSend pcp kind bs).lantern = s.lantern := by
  unfold State.hpSend
  split
  · rfl
  · split <;> rfl

/-- Only what the host port sends, or holds back, changes. -/
theorem State.hpSend_sent (pcp kind : Nat) (bs : List Byte) :
    { s.hpSend pcp kind bs with hp := { (s.hpSend pcp kind bs).hp with sent := s.hp.sent, held := s.hp.held } } = s := by
  unfold State.hpSend
  split
  · rfl
  · split <;> rfl

/-- A session keeps its number under a change that keeps it; the others are as they were. -/
theorem State.session_modSessions (n m : Nat) (f : Session → Session) (hf : ∀ z, (f z).number = z.number) (h : m ≠ n) :
    (s.modSessions (fun y => y.number == n) f).session m = s.session m := by
  simp only [State.session, State.modSessions]
  induction s.lantern.sessions with
  | nil => rfl
  | cons a l ih =>
    have hn : ((if (a.number == n) = true then f a else a).number == m) = (a.number == m) := by
      split
      · rw [hf]
      · rfl
    rw [List.map_cons, List.find?_cons, List.find?_cons, hn, ih]
    split
    · rename_i hm
      have ha : ¬ (a.number == n) = true := fun e => h ((beq_iff_eq.mp hm).symm.trans (beq_iff_eq.mp e))
      rw [if_neg ha]
    · rfl

/-- A response is the last one; it changes what Lantern keeps of its session and what the host port sends, and nothing else. -/
theorem State.respond_answers (q : Req) (code : Nat) (st : Status) (p : List Byte) :
    let t := s.respond q.session code st p
    Answered t q code st p ∧ OnlyAnswer s t ∧
      { t.lantern with sessions := s.lantern.sessions, lastResponse := s.lantern.lastResponse } = s.lantern ∧
      ∀ m, m ≠ q.session → t.session m = s.session m := by
  unfold State.respond
  split
  · dsimp only
    split
    · refine ⟨?_, ?_, ?_, ?_⟩
      · unfold Answered
        simp only [State.sendResponse, State.hpSend_lantern]
        exact ⟨_, rfl, rfl, rfl, rfl, rfl⟩
      · exact congrArg (fun u : State => { u with lantern := s.lantern }) (State.hpSend_sent _ _ _ _)
      · simp only [State.sendResponse, State.hpSend_lantern]
      · intro m _
        simp only [State.sendResponse, State.session, State.hpSend_lantern]
    · exact ⟨⟨_, rfl, rfl, rfl, rfl, rfl⟩, rfl, rfl, fun _ _ => rfl⟩
  · rename_i z _
    refine ⟨?_, ?_, ?_, ?_⟩
    · unfold Answered
      simp only [State.sendResponse, State.hpSend_lantern]
      exact ⟨_, rfl, rfl, rfl, rfl, rfl⟩
    · exact congrArg (fun u : State => { u with lantern := s.lantern }) (State.hpSend_sent _ _ _ _)
    · simp only [State.sendResponse, State.hpSend_lantern]; rfl
    · intro m hm
      simp only [State.sendResponse, State.session, State.hpSend_lantern]
      refine State.session_modSessions s q.session m _ ?_ hm
      intro y; rfl

/-- A command that its common checks pass and that need not wait is answered with its own check's code, or has its effect and
is answered with what that gives. -/
theorem State.command_answers {i c : Instr} {q : Req} {code len : Nat} {x : Option Nat} {own : Option Status}
    {eff : State → State × Status × List Byte} (hi : exec i s = .next (s.command c q code len x own eff))
    (ha : s.accepts q code len x = true) :
    (∀ st, own = some st → Answers i q code st [] s s) ∧
    (own = none → Answers i q code (eff s).2.1 (eff s).2.2 s (eff s).1) := by
  unfold State.accepts at ha
  split at ha
  · cases ha
  · rename_i z hz
    simp only [Bool.and_eq_true, Bool.not_eq_true', Option.isNone_iff_eq_none] at ha
    obtain ⟨⟨hr, hw⟩, hc⟩ := ha
    unfold State.command at hi
    simp only [hz, hr, hw, hc, Bool.not_true, Bool.false_eq_true, if_false, Option.none_or] at hi
    constructor
    · rintro st rfl
      exact ⟨_, hi, s.respond_answers q code st []⟩
    · rintro rfl
      exact ⟨_, hi, (eff s).1.respond_answers q code _ _⟩

end Sys2Proof.Machine
end

