-- ==== Sys2Proof/Laws/Bytes.lean ====
section
/-! SUPPORT. Laws of byte lists: lengths, fields of appended lists, little-endian numbers. -/

namespace Sys2Proof.Machine

@[simp] theorem length_leBytes (n v : Nat) : (leBytes n v).length = n := by
  induction n generalizing v with
  | zero => rfl
  | succ n ih => simp [leBytes, ih]

@[simp] theorem length_sliceBytes (bs : List Byte) (off n : Nat) : (sliceBytes bs off n).length = n := by
  simp only [sliceBytes, List.length_append, List.length_take, List.length_drop, List.length_replicate]
  omega

@[simp] theorem length_leFields (fs : List (Nat × Nat)) : (leFields fs).length = (fs.map (·.1)).sum := by
  induction fs with
  | nil => rfl
  | cons f r ih => rw [leFields, List.flatMap_cons, List.length_append, length_leBytes, ← leFields, ih]; rfl

theorem sliceBytes_append_left (a b : List Byte) (off n : Nat) (h : off + n ≤ a.length) :
    sliceBytes (a ++ b) off n = sliceBytes a off n := by
  unfold sliceBytes
  rw [List.drop_append_of_le_length (by omega), List.take_append_of_le_length (by simp; omega)]

theorem sliceBytes_append_right (a b : List Byte) (off n : Nat) (ho : off = a.length) (hn : n = b.length) :
    sliceBytes (a ++ b) off n = b := by
  subst ho hn
  simp [sliceBytes]

theorem leAt_append_left (a b : List Byte) (off n : Nat) (h : off + n ≤ a.length) : leAt (a ++ b) off n = leAt a off n := by
  rw [leAt, sliceBytes_append_left a b off n h, leAt]

/-- A number that fits its bytes is read back. -/
theorem leNat_leBytes (n v : Nat) : leNat (leBytes n v) = v % 256 ^ n := by
  induction n generalizing v with
  | zero => simp [leBytes, leNat, Nat.mod_one]
  | succ n ih =>
    simp only [leBytes, leNat, ih, BitVec.toNat_ofNat]
    rw [show 256 ^ (n + 1) = 256 * 256 ^ n from by rw [Nat.pow_succ, Nat.mul_comm], Nat.mod_mul]

end Sys2Proof.Machine
end

