-- ==== Sys2Proof/Tests/Slice0.lean ====
section
/-! SUPPORT. Tests: ill-formed commands that WellFormed refuses, and for each statement of Obligations.lean witnesses: a small
state and operands that meet its hypotheses, with the main values of the next state. -/

namespace Sys2Proof.Tests

open Sys2Proof.Machine

set_option Elab.async false

/-! ### Helpers -/

/-- The state after a command, or the state itself where it stops. -/
def after (i : Instr) (s : State) : State := match exec i s with | .next t => t | _ => s

/-- A session of an administrator. -/
def sess : Session :=
  { number := 1, addr := 0x0A000001, port := 5000, version := 2, admin := true, timeoutS := 60, nonce := 7, openedAt := 0, heardAt := 0
    expected := 1, requests := [], kept := [], noticeSeq := 0, notices := [], noticesLost := 0 }

/-- A program of one 64-byte segment, which every core runs. -/
def prog : Program := { segments := [(0x20000000, List.replicate 64 0)], codeMap := List.replicate 16 0 }

/-- Page tables of context 0: VA 512 MiB to 1 GiB is a pinned block with every right, 1 GiB to 1.5 GiB a block that is not
pinned, 1.5 GiB to 2 GiB a far block in region 0. -/
def pages : MainMem :=
  ((({} : MainMem).putBytes 0x17F00000000 (leBytes 8 0x17F00010001)).putBytes 0x17F00010008
    (leBytes 8 (0x20000000 + 0x1BB))).putBytes 0x17F00010010 (leBytes 8 (0x40000000 + 0x1B) ++ leBytes 8 (0x80000000000 + 0x5B))

/-- A device at work: context 0 runs on cluster 0 for session 1, and core 0 issues. -/
def dev : State :=
  { State.reset with
    now := 1000000
    lantern := { running := true, sessions := [sess] }
    power := { vsoc := true, coldNext := false }
    pins := { pwrOk := true }
    mem := pages
    ctxs := [(0, { state := .running, clusters := [0], rtag := 3, handle := 7, sessions := [1], root := 0x17F00000000
                   program := some prog, maps := [(0x20000000, 0x20000000, 0x20000000), (0x40000000, 0x20000000, 0x40000000)] })]
    cores := [(0, { scalar := .running, fetched := [0] })] }

/-- dev with core 0, context 0 or cluster 0 changed. -/
def onCore (f : Core → Core) : State := dev.modCore 0 f
def onCtx (f : Ctx → Ctx) : State := dev.modCtx 0 f
def onCluster (f : Cluster → Cluster) : State := dev.modCluster 0 f

/-- An entry of a queue. -/
def entry (o : Op) (w : Option FlagWait) (g : Option FlagSignal) : QEntry :=
  { op := o, wait := w, signal := g, pos := 1, seed := 0, stepNo := 0, regs := [], progress := 0, result := none }

/-- dev with one operation in flight on core 0. -/
def flying (o : Op) : State := onCore (fun u => u.setInFlight o.queue [entry o none none])

/-- One operation in flight on core 0 of a state. -/
def fly (o : Op) (s : State) : State := s.modCore 0 (fun u => u.setInFlight o.queue [entry o none none])

/-! ### The block, reset and issue (statements on chapter 3) -/

theorem test_step_front : (step { dev with pending := [.wakeBurst 3, .announce] }) = exec (.wakeBurst 3) { dev with pending := [.announce] } :=
  rfl

theorem test_reset_settled : Settled State.reset := by decide +kernel

theorem witness_settled : Settled dev := by decide +kernel

/-- A bundle with a scalar slot and a sync slot. -/
def addBundle : Bundle := ⟨[.setImm 3 5], none, none, none, some ⟨.sync (.flagAdd 0x0001#16 2), none, none⟩⟩

theorem witness_bundle_issue :
    let u := dev.upset 0 []
    let s := u.progSettle 0 [((u.core 0).offset, bundleSize addBundle)]
    addBundle.wf = true ∧ s.ctxOfCore 0 = some 0 ∧ s.canIssue 0 = true ∧ (u.core 0).brokenLine addBundle = none ∧
    (∀ l ∈ bundleLines (s.core 0).offset (bundleSize addBundle), l ∈ (s.core 0).fetched) ∧
    (s.core 0).hasRoom addBundle = true ∧ (∀ o ∈ bundleOps addBundle, slotRefusal 0 o = none) ∧
    ((s.core 0).hazards (bundleOps addBundle)).isOk = true ∧
    (scalarSlots 0 ((s.core 0).offset + bundleSize addBundle) addBundle.scalar { st := s }).isOk = true ∧
    ((after (.bundleIssue 0 ⟨addBundle, []⟩) dev).core 0).sreg 3 = 5 ∧
    ((after (.bundleIssue 0 ⟨addBundle, []⟩) dev).core 0).syncQ.length = 1 := by decide +kernel

/-- dev with the sync queue full. -/
def fullSync : State := onCore (fun u => { u with syncQ := List.replicate 16 (entry (.sync .beaconMark) none none) })

theorem witness_bundle_full_queue :
    addBundle.wf = true ∧ fullSync.canIssue 0 = true ∧
    (∀ l ∈ bundleLines (fullSync.core 0).offset (bundleSize addBundle), l ∈ (fullSync.core 0).fetched) ∧
    (fullSync.core 0).brokenLine addBundle = none ∧ (fullSync.core 0).hasRoom addBundle = false ∧
    ((after (.bundleIssue 0 ⟨addBundle, []⟩) fullSync).core 0).scalar = .stalledFull := by decide +kernel

/-- Upsets that strike the first word of the code: one bit is corrected, two bits break the line. -/
def struckWord (e : WordErr) : List Upset := [⟨.programBuffer, 0, e⟩]

theorem witness_bundle_broken_line :
    let u := dev.upset 0 (struckWord .double)
    u.canIssue 0 = true ∧ (∀ l ∈ bundleLines (u.core 0).offset (bundleSize addBundle), l ∈ (u.core 0).fetched) ∧
    (u.core 0).brokenLine addBundle = some 0 ∧
    ((after (.bundleIssue 0 ⟨addBundle, struckWord .double⟩) dev).core 0).scalar = .fetchStall 0 ∧
    ((after (.bundleIssue 0 ⟨addBundle, struckWord .single⟩) dev).core 0).sreg 3 = 5 ∧
    ((after (.bundleIssue 0 ⟨addBundle, struckWord .single⟩) dev).core 0).sramEcc = 1 := by decide +kernel

/-- An operation that waits on a flag of another core. -/
def badSlot : OpSlot := ⟨.dma (.stashDrop 1), some ⟨0x0101#16, 1⟩, none⟩

theorem witness_refusal_at_issue :
    let b : Bundle := ⟨[.setImm 3 5], none, none, some badSlot, none⟩
    b.wf = true ∧ dev.canIssue 0 = true ∧ (dev.core 0).brokenLine b = none ∧
    (∀ l ∈ bundleLines (dev.core 0).offset (bundleSize b), l ∈ (dev.core 0).fetched) ∧ (dev.core 0).hasRoom b = true ∧
    (bundleOps b).find? (fun p => (slotRefusal 0 p).isSome) = some badSlot ∧ slotRefusal 0 badSlot = some genFlag ∧
    ((after (.bundleIssue 0 ⟨b, []⟩) dev).core 0).scalar = .stopped ∧ ((after (.bundleIssue 0 ⟨b, []⟩) dev).ctx 0).state = .stopped := by
  decide +kernel

theorem witness_loop_begin :
    let f : LoopF := ⟨.imm 3, 40⟩
    let z : LoopF := ⟨.imm 0, 40⟩
    IssuesAlone dev 0 (scalarBundle [.loopBegin f]) ∧ IssuesAlone dev 0 (scalarBundle [.loopBegin z]) ∧
    (dev.core 0).loops.length < 4 ∧ (dev.loopCount 0 f.count).isOk = true ∧ (dev.core 0).loops = [] ∧
    f.last % 2 = 0 ∧ (match exec (.loopBegin 0 ⟨.imm 3, 41⟩) dev with | .refused .illFormed => true | _ => false) = true ∧
    ((after (.loopBegin 0 f) dev).core 0).loops = [⟨3, 6, 40⟩] ∧ ((after (.loopBegin 0 z) dev).core 0).offset = 40 := by
  decide +kernel

theorem witness_loop_nesting :
    let s := onCore (fun u => { u with loops := List.replicate 4 ⟨1, 0, 60⟩ })
    IssuesAlone s 0 (scalarBundle [.loopBegin ⟨.imm 1, 20⟩]) ∧ s.ctxOfCore 0 = some 0 ∧ 4 ≤ (s.core 0).loops.length ∧
    ((after (.loopBegin 0 ⟨.imm 1, 20⟩) s).ctx 0).state = .stopped := by decide +kernel

theorem witness_swait :
    let w : FlagWait := ⟨0x8005#16, 1⟩
    IssuesAlone dev 0 (scalarBundle [.swait w]) ∧ flagWaitOk 0 w.flag = true ∧ (dev.core 0).stopCount = 0 ∧
    ((after (.swait 0 w) dev).core 0).scalar = .swait w := by decide +kernel

/-- A scalar load and a scalar store by VA. -/
def sLoad : ScalarMemF := ⟨false, 4, ⟨.va, 0x20000010⟩⟩
def sStore : ScalarMemF := ⟨true, 4, ⟨.va, 0x20000010⟩⟩

theorem witness_scalar_memory :
    IssuesAlone dev 0 (scalarBundle [.mem sLoad]) ∧ sLoad.store = false ∧ (dev.scalarLoad 0 sLoad.loc 8).isOk = true ∧
    IssuesAlone dev 0 (scalarBundle [.mem sStore]) ∧ sStore.store = true ∧
    (dev.scalarStore 0 sStore.loc (leBytes 8 ((dev.core 0).sreg sStore.reg).toNat)).isOk = true ∧
    (let s := onCore (fun u => u.setSreg 4 0x0102#64)
     (after (.scalarLoadStore 0 sStore) s).mem.line (0x20000000 / 64) =
       List.replicate 16 0 ++ [0x02#8, 0x01#8] ++ List.replicate 46 0) := by decide +kernel

theorem witness_seed_step :
    IssuesAlone dev 0 (syncBundle (.seedSet 9)) ∧ IssuesAlone dev 0 (syncBundle (.stepSet 9)) ∧ dev.ctxOfCore 0 = some 0 ∧
    (dev.core 0).syncQ.length < 16 ∧ ((after (.seedSet 0 9) dev).ctx 0).seed = 9 ∧ ((after (.stepSet 0 9) dev).ctx 0).stepNo = 9 := by
  decide +kernel

/-- A DMA operation whose fields pass, and one whose copy has no bytes. -/
def copyOp : Op := .dma (.copy ⟨⟨.cm, 64⟩, ⟨.oc, 128⟩, 1, 8, 0, 0, []⟩)
def emptyCopy : Op := .dma (.copy ⟨⟨.cm, 64⟩, ⟨.oc, 128⟩, 1, 0, 0, 0, []⟩)
def queued (e : QEntry) : State := onCore (fun u => u.setQueue e.op.queue [e])

theorem witness_head_starts :
    let s := queued (entry copyOp none none)
    (s.core 0).queue .dma = [entry copyOp none none] ∧ s.canStart 0 .dma (entry copyOp none none) = true ∧
    (s.core 0).engineClear .dma = true ∧ opCheck s 0 copyOp = none ∧
    ((after (.operationStart 0 .dma) s).core 0).dmaF.length = 1 := by decide +kernel

theorem witness_head_refused :
    let s := queued (entry emptyCopy none none)
    (s.core 0).queue .dma = [entry emptyCopy none none] ∧ s.canStart 0 .dma (entry emptyCopy none none) = true ∧
    (s.core 0).engineClear .dma = true ∧ opCheck s 0 emptyCopy = some genRange ∧
    ((after (.operationStart 0 .dma) s).core 0).scalar = .stopped := by decide +kernel

theorem witness_head_waits :
    let e := entry copyOp (some ⟨0x8005#16, 1⟩) none
    let s := queued e
    (s.core 0).queue .dma = [e] ∧ e.wait = some ⟨0x8005#16, 1⟩ ∧ (s.flag 0 0x8005#16).toNat < 1 := by decide +kernel

/-- An operation in flight with an outcome. -/
def endedOp (r : Outc) : QEntry := { entry copyOp none (some ⟨0x8005#16, 255⟩) with result := some r }
def endedSt (r : Outc) : State := onCore (fun u => { u with dmaF := [endedOp r] })

theorem witness_operation_end :
    (((endedSt .done).core 0).inFlight .dma)[0]? = some (endedOp .done) ∧ endOrder .dma 0 = true ∧
    (endedOp .done).outcome = some .done ∧ ((endedSt .done).cluster 0).colls = [] ∧
    ((after (.operationEnd 0 .dma 0) (endedSt .done)).flag 0 0x8005#16) = 255 ∧
    (endedOp (.faulted 3)).outcome = some (.faulted 3) ∧
    ((after (.operationEnd 0 .dma 0) (endedSt (.faulted 3))).flag 0 0x8005#16) = 0 := by decide +kernel

/-- Core 0 waits on a flag that nothing in progress sets. -/
def stuck : State := onCore (fun u => { u with scalar := .swait ⟨0x0001#16, 1⟩, stallDue := some 0 })

theorem witness_stall_report :
    stuck.waitCycle 0 = true ∧ stuck.stallPassed 0 = true ∧ fld32 (stuck.core 0).stallCfg 31 31 = 1 ∧ (stuck.core 0).stallReported = false ∧
    (stuck.cluster 0).power ≠ .off ∧ ((after (.waitCycleSuspected 0) stuck).core 0).stallReported = true ∧
    (after (.waitCycleSuspected 0) stuck).ras.nextSeq = 2 := by decide +kernel

theorem witness_second_stall_report :
    let s := onCore (fun u => { u with stallReported := true })
    (s.core 0).stallReported = true ∧ (after (.waitCycleSuspected 0) s).ras.nextSeq = s.ras.nextSeq := by decide +kernel

theorem witness_stop_reached :
    let s := onCore (fun u => { u with scalar := .halted })
    (s.ctx 0).state = .running ∧ s.quiescent 0 = true ∧ (s.ctx 0).cores.any (fun c => (s.core c).scalar == .halted) = true ∧
    ((after (.stopReached 0) s).ctx 0).state = .stopped := by decide +kernel

theorem witness_fetch :
    let s := onCore (fun u => { u with scalar := .fetchStall 0, fetched := [] })
    s.ctxOfCore 0 = some 0 ∧ s.segment 0 = some (0x20000000, List.replicate 64 0) ∧ (s.core 0).scalar = .fetchStall 0 ∧
    s.translate 0 .fetch .fetch (0x20000000 + 256 * 0) = .ok 0x20000000 ∧
    ((after (.fetchMiss 0 0) s).core 0).fetched = [0] := by decide +kernel

/-! ### Sync operations and Glint -/

theorem witness_flag_add :
    let o : Op := .sync (.flagAdd 0x8005#16 65535)
    let s := (fly o dev).setFlag 0 0x8005#16 0xFFFFFFF0#32
    flagIdOk 0x8005#16 = true ∧ (s.cluster (clusterOf 0)).colls = [] ∧ InFlight s 0 o ∧ (after (.flagAdd 0 0x8005#16 65535) s).flag 0 0x8005#16 = 0xFFFFFFFF#32 ∧
    InFlight (flying o) 0 o ∧ (after (.flagAdd 0 0x8005#16 65535) (flying o)).flag 0 0x8005#16 = 65535 ∧
    bitOf (sget 0 ((after (.flagAdd 0 0x8005#16 65535) s).cluster 0).flagOvf (flagOvfWord 0x8005#16)).toNat
      (flagIndex 0x8005#16 % 64) = true := by decide +kernel

theorem witness_flag_set :
    let o : Op := .sync (.flagSet 0x0001#16 9)
    flagIdOk 0x0001#16 = true ∧ ((flying o).cluster (clusterOf 0)).colls = [] ∧ InFlight (flying o) 0 o ∧ (after (.flagSet 0 0x0001#16 9) (flying o)).flag 0 0x0001#16 = 9 := by decide +kernel

theorem witness_flag_wait :
    let o : Op := .sync (.flagWait 0x0001#16 2)
    let s := (flying o).setFlag 0 0x0001#16 2
    InFlight s 0 o ∧ (2 : Word32).toNat ≤ (s.flag (clusterOf 0) 0x0001#16).toNat ∧
    Ended s (after (.flagWait 0 0x0001#16 2) s) 0 o .done ∧ ((flying o).flag (clusterOf 0) 0x0001#16).toNat < (2 : Word32).toNat := by
  decide +kernel

theorem witness_flag_read :
    let o : Op := .sync (.flagRead 0x0001#16 65532)
    let s := (flying o).setFlag 0 0x0001#16 0x01020304#32
    InFlight s 0 o ∧ 65532 % 4 = 0 ∧ 65532 + 4 ≤ 65536 ∧ (∀ e ∈ (s.core 0).dm.badIn [(65532 / 8 * 8, 8)], e.2 ≠ .double) ∧
    ((after (.flagRead 0 0x0001#16 65532) s).core 0).dm.read 65532 4 = [4, 3, 2, 1] := by decide +kernel

/-- A Glint slot to arm, and dev with it armed. -/
def armF : GlintArmF := ⟨15, 77, 1, 0x01, 16, 3, 0x20000040⟩
def armedDev : State := onCluster (fun u => { u with glint := sset {} u.glint 15 (armed {} armF) })

theorem witness_glint_arm :
    InFlight (flying (.sync (.glintArm armF))) 0 (.sync (.glintArm armF)) ∧
    glintArmCheck (flying (.sync (.glintArm armF))) 0 armF = none ∧
    (sget {} ((after (.glintArm 0 armF) (flying (.sync (.glintArm armF)))).cluster 0).glint 15).armed = true := by decide +kernel

theorem witness_glint_close :
    let o : Op := .sync (.glintClose 15)
    let s := fly o armedDev
    InFlight s 0 o ∧ glintCloseCheck s 0 15 = none ∧ s.ctxOfCore 0 = some 0 ∧
    (s.writeVa 0 .scalar (sget {} (s.cluster 0).glint 15).record
      ((sget {} (s.cluster 0).glint 15).toBytes (s.opEnv 0 o).stepNo) false).isOk = true ∧
    (sget {} ((after (.glintClose 0 15) s).cluster 0).glint 15).armed = false := by decide +kernel

theorem witness_glint_scale :
    let o : Op := .sync (.glintScale 15 0x01 4)
    let s := fly o (onCluster (fun u => { u with glint := [(15, { history := [0x43E00000#32], tensorId := 77, hist := 4, format := 0x01 })] }))
    InFlight s 0 o ∧ glintScaleCheck s 0 15 0x01 4 = none ∧ (fmtOf 0x01).isSome = true ∧
    Ended s (after (.glintScale 0 15 0x01 4) s) 0 o .done := by decide +kernel

theorem witness_beacon_mark :
    let o : Op := .sync .beaconMark
    InFlight (flying o) 0 o ∧ (flying o).ctxOfCore 0 = some 0 ∧ ((after (.beaconMark 0) (flying o)).ctx 0).nonfinite = true := by
  decide +kernel

/-! ### Numbers -/

theorem witness_numbers :
    fp32.maxCode ≤ fp32.maxCode ∧ e4m3.encode .stochastic false 5 (.fin true (e4m3.magOf e4m3.maxCode)) = (e4m3.bits true e4m3.maxCode, {}) ∧
    ((fmtOf 0x08).map (·.scale)) = some .mx ∧ ((fmtOf 0x14).map (·.scale)) = some .ms ∧ (0 : Rat) < 449 ∧
    (449 : Rat) ≤ ((fmtOf 0x08).getD ⟨32, .flt fp32, .none⟩).elemMax * pow2 127 ∧
    (449 : Rat) / e8m0 (chooseScale ((fmtOf 0x08).getD ⟨32, .flt fp32, .none⟩) [] 449) ≤ 448 ∧
    (0 : Rat) ≤ 5 / 2 ∧ roundNat .nearestEven 0 (5 / 2) = 2 ∧ roundNat .towardZero 0 (7 / 2) = 3 ∧
    roundNat .stochastic 0x80000000#32 (5 / 2) = 3 := by decide +kernel

/-! ### Vector and matrix engines -/

/-- A common part for rows of 32 elements, and operands of the operand cache. -/
def com : VCom := ⟨32, 1, 1, 0, none, .keep, .nearestEven, none, none⟩
def vd (off : Nat) (fmt : Byte) : VDesc := ⟨.oc, off, fmt, 1, 4096, 8192, .absent, 0, 0, 0⟩
def binF : VBin := ⟨com, vd 0 1, vd 128 1, vd 256 1⟩
def intF : VBin := ⟨com, vd 0 0x24, vd 128 0x24, vd 256 0x24⟩
def cmpF : VCmp := ⟨com, vd 0 1, vd 128 1, 256⟩
def gatF : GatherF := ⟨com, .element, vd 0 1, 64, vd 4096 0x24, vd 256 1⟩
def accF : AccF := ⟨com, 0, .u, 2, 4, .value, vd 0 1, vd 128 1⟩

/-- One operation for every row of the vector queue. -/
def vecOps : List VecOp :=
  ([BinOp.add, .sub, .mul, .min, .max, .copysign, .div].map (VecOp.bin · binF)) ++
  ([UnOp.abs, .neg, .sqrt].map (VecOp.un · ⟨com, vd 0 1, vd 256 1⟩)) ++
  [.fma ⟨com, vd 0 1, vd 128 1, vd 256 1, vd 384 1⟩, .sel ⟨com, 512, vd 0 1, vd 128 1, vd 256 1⟩] ++
  ([CmpOp.eq, .lt, .le, .unord].map (VecOp.cmp · cmpF)) ++
  ([IntOp.iadd, .isub, .imul, .and, .or, .xor, .shl, .shr, .sar, .imin, .imax].map (VecOp.int · intF)) ++
  [.cvt ⟨com, vd 0 1, vd 256 0x08, none⟩, .curve ⟨com, 0, vd 0 1, vd 256 1⟩, .red ⟨com, .sum, .lane, vd 0 1, vd 256 1⟩,
   .softmax ⟨com, 0x3F800000#32, vd 0 1, vd 256 1, none⟩, .gather gatF, .scatter gatF, .scatterAdd gatF, .accRd accF, .accWr accF,
   .norm ⟨com, .lane, vd 0 1, none, 512⟩, .gradQuant ⟨com, none, vd 0 1, vd 256 2, vd 4096 0x10, none⟩, .audit ⟨1, 8, vd 0 1, 0⟩]

theorem witness_vector_operations : vecOps.all (fun o => (vectorCheck dev 0 o).isNone) = true := by decide +kernel

/-- A valid curve table: −1 to 1, every coefficient 0. -/
def curveBytes : List Byte := leBytes 4 0xBF800000 ++ leBytes 4 0x3F800000
def curveDev : State := onCore (fun u => { u with oc := u.oc.commit (byteWrites 0 curveBytes) [] })

theorem witness_curve_load : vectorCheck curveDev 0 (.curveLoad ⟨8, 0⟩) = none := by decide +kernel

theorem witness_vector_done :
    let s := flying (.vec (.bin .add binF))
    InFlight s 0 (.vec (.bin .add binF)) ∧ vectorCheck s 0 (.bin .add binF) = none ∧
    Ended s (after (.add 0 binF) s) 0 (.vec (.bin .add binF)) .done := by decide +kernel

/-- The same operation with a format that no table lists. -/
def badBin : VBin := { binF with a := vd 0 0x06 }

theorem witness_vector_refused :
    let s := flying (.vec (.bin .add badBin))
    ((s.core 0).entryOf (.vec (.bin .add badBin))).isSome = true ∧ vectorCheck s 0 (.bin .add badBin) = some (vecStatus 1) ∧
    ((after (.add 0 badBin) s).core 0).vectorF = [] := by decide +kernel

/-- A BF16 operand of 4 rows at an offset of the operand cache. -/
def md (off : Nat) : MatDesc := ⟨off, 2, 2, .rowAlong, .alongK, 64, 0, .absent, 0, 0, 4, 0⟩
def mmulF : MmulF := ⟨1, .u, false, 2, 2, 4, md 0, md 4096, .nearestEven, none, none⟩
def mreadF : MreadF := ⟨1, .u, 2, 2, ⟨.oc, 8192⟩, 1, 64, false, 0, .absent, 0, 0, 2, .alongK, .nearestEven, none, false, false, .none, .select, 0, 64, none⟩
def npredF : NpredF := ⟨2, md 0, md 4096, md 8192, 1, 4, 4, 0, 0, 6, 0, 16384⟩

/-- One operation for every row of the matrix queue. -/
def matOps : List MatOp := [.mmul mmulF, .mpreload ⟨2, .c, .zero, ⟨.oc, 0⟩, 1, 64⟩, .mread mreadF, .npred npredF]

theorem witness_matrix_operations :
    matOps.all (fun o => (matCheck dev 0 o).isNone) = true ∧ dev.sparseViolation 0 mmulF = none ∧ mreadF.compress = .none := by
  decide +kernel

/-- dev with 1.0 in A[0][0] and 2.0 in B[0][0]. -/
def matDev : State := onCore (fun u => { u with oc := u.oc.commit (byteWrites 0 [0x80#8, 0x3F#8] ++ byteWrites 4096 [0x00#8, 0x40#8]) [] })

theorem witness_product :
    let s := fly (.mat (.mmul mmulF)) matDev
    InFlight s 0 (.mat (.mmul mmulF)) ∧ mmulCheck s 0 mmulF = none ∧ Ended s (after (.mmul 0 mmulF) s) 0 (.mat (.mmul mmulF)) .done ∧
    ((after (.mmul 0 mmulF) s).core 0).accElem 1 .u 0 0 = (0x40000000#32, 0) ∧
    ((after (.mmul 0 mmulF) s).core 0).accElem 1 .u 1 1 = (0, 0) := by decide +kernel

/-- A sparse product whose metadata are 0, so that no group keeps two values. -/
def sparseF : MmulF := { mmulF with sparseA := some ⟨.spRow, .prune, 12288, 64⟩ }

theorem witness_sparse_violation :
    let s := flying (.mat (.mmul sparseF))
    InFlight s 0 (.mat (.mmul sparseF)) ∧ mmulCheck s 0 sparseF = none ∧ s.sparseViolation 0 sparseF = some (0x200B#16, 0, 0) ∧
    s.ctxOfCore 0 = some 0 ∧ (s.ctx 0).state = .running ∧ (s.core 0).oc.bad = [] ∧
    (s.core 0).acc = [] ∧
    ((after (.mmul 0 sparseF) s).ctx 0).state = .stopped := by decide +kernel

/-! ### Copies and remote operations -/

/-- A copy of the last 8 bytes of a chunk. -/
def copyF : DmaF := ⟨⟨.cm, 64⟩, ⟨.oc, 128⟩, 1, 8, 0, 0, []⟩

theorem witness_copy :
    let s := (flying (.dma (.copy copyF))).modCluster 0 (fun u => { u with cm := u.cm.commit (byteWrites 71 [9#8]) [] })
    s.ctxOfCore 0 = some 0 ∧ s.mustSuspend 0 = false ∧ InFlight s 0 (.dma (.copy copyF)) ∧
    (s.opEnv 0 (.dma (.copy copyF))).progress = 0 ∧ dmaCheck s 0 copyF = none ∧
    ((after (.dmaCopy 0 copyF) s).core 0).oc.byte 135 = 9 := by decide +kernel

theorem witness_copy_refused :
    (((flying emptyCopy).core 0).entryOf emptyCopy).isSome = true ∧
    dmaCheck (flying emptyCopy) 0 ⟨⟨.cm, 64⟩, ⟨.oc, 128⟩, 1, 0, 0, 0, []⟩ = some genRange := by decide +kernel

def putF : PutF := ⟨.req, 7, 15, ⟨.cm, 0⟩, 163840, 0x20000000, 0⟩
def getF : GetF := ⟨.blk, 7, 2, 0x20000000, 196608, ⟨.cm, 0⟩⟩
def atomicF : AtomicF := ⟨7, 2, 0x20000008, 2, 1, 0, ⟨.dm, 65528⟩⟩
def rflagF : RemoteFlagF := ⟨7, 2, 255, 0x8005#16, 1, 65535⟩

theorem witness_remote :
    (let o : Op := .dma (.put { putF with len := 40 })
     MayAsk (flying o) 0 0 o ∧ ((after (.put 0 { putF with len := 40 }) (flying o)).xpt.toSend.length = 1)) ∧
    putCheck dev 0 putF false = none ∧ putCheck dev 0 putF true = none ∧
    (let o : Op := .dma (.reducePut { putF with len := 40 })
     MayAsk (flying o) 0 0 o ∧ ((after (.reducePut 0 { putF with len := 40 }) (flying o)).xpt.toSend.length = 1)) ∧
    (let o : Op := .dma (.get getF)
     MayAsk (flying o) 0 0 o ∧ getCheck (flying o) 0 getF = none ∧ ((after (.get 0 getF) (flying o)).xpt.toSend.length = 1)) ∧
    (let o : Op := .dma (.atomic atomicF)
     MayAsk (flying o) 0 0 o ∧ atomicCheck (flying o) 0 atomicF = none ∧ ((after (.atomic 0 atomicF) (flying o)).xpt.toSend.length = 1)) ∧
    (let o : Op := .dma (.flagSet rflagF)
     MayAsk (flying o) 0 0 o ∧ remoteFlagCheck rflagF = none ∧ ((after (.remoteFlagSet 0 rflagF) (flying o)).xpt.toSend.length = 1)) := by
  decide +kernel

/-! ### The Pocket -/

def spF : StashPutF := ⟨5, ⟨.oc, 0⟩, 64⟩
def sgF : StashGetF := ⟨5, ⟨.oc, 64⟩, true⟩

/-- dev with a Pocket of 64 KiB. -/
def pocketDev : State := onCtx (fun v => { v with pocketKib := 64 })
def stashed : State := pocketDev.modCluster 0 (fun u => { u with pocket := { u.pocket with entries := [⟨5, 100, false, [3], [], false⟩] } })

theorem witness_stash_put :
    let s := fly (.dma (.stashPut spF)) pocketDev
    InFlight s 0 (.dma (.stashPut spF)) ∧ (s.cluster 0).pocket.waiting.contains (0, spF) = false ∧ stashPutCheck s 0 spF = none ∧
    s.ctxOfCore 0 = some 0 ∧ (s.cluster 0).pocket.entries.length < 4096 ∧ granulesOf spF.size ≤ (s.ctx 0).pocketGranules ∧
    freeGranules ((s.cluster 0).pocket.used false) (s.ctx 0).pocketGranules (granulesOf spF.size) = some [0] ∧
    (match s.readLoc 0 0 .stash spF.src spF.size with
      | .ok r => (r.1.pocketWrite 0 0 (entryLocs (s.ctx 0) 0 false spF.size [0]) r.2).isOk
      | .error _ => false) = true ∧
    ((after (.stashPut 0 spF) s).cluster 0).pocket.entries.map (·.granules) = [[0]] := by decide +kernel

theorem witness_stash_continue :
    let s := (fly (.dma (.stashPut spF)) pocketDev).modCluster 0 (fun u => { u with pocket := { u.pocket with waiting := [(0, spF)] } })
    (s.cluster 0).pocket.waiting = (0, spF) :: [] ∧ s.ctxOfCluster 0 = some 0 ∧
    ((after (.stashPutContinue 0) s).cluster 0).pocket.waiting = [] := by decide +kernel

theorem witness_stash_get :
    let s := fly (.dma (.stashGet sgF)) stashed
    InFlight s 0 (.dma (.stashGet sgF)) ∧ stashGetCheck s 0 sgF = none ∧ s.ctxOfCore 0 = some 0 ∧
    s.entryFor 0 (.dma (.stashGet sgF)) 5 = some ⟨5, 100, false, [3], [], false⟩ ∧
    s.usersBefore 0 (.dma (.stashGet sgF)) ⟨5, 100, false, [3], [], false⟩ = [] ∧
    (match s.pocketRead 0 0 (entryLocs (s.ctx 0) 0 false 100 [3]) with
      | .ok r => (r.1.writeLoc 0 0 .stash sgF.dst r.2).isOk
      | .error _ => false) = true ∧ (after (.stashGet 0 sgF) s).pocketEntry 0 5 = none ∧
    Ended s (after (.stashGet 0 sgF) s) 0 (.dma (.stashGet sgF)) .done := by decide +kernel

theorem witness_stash_drop :
    let s := fly (.dma (.stashDrop 5)) stashed
    InFlight s 0 (.dma (.stashDrop 5)) ∧ stashDropCheck s 0 5 = none ∧
    s.entryFor 0 (.dma (.stashDrop 5)) 5 = some ⟨5, 100, false, [3], [], false⟩ ∧
    s.usersBefore 0 (.dma (.stashDrop 5)) ⟨5, 100, false, [3], [], false⟩ = [] ∧
    (after (.stashDrop 0 5) s).pocketEntry 0 5 = none := by decide +kernel

/-! ### Buffer pools -/

/-- dev with pool 63 of 4 buffers of 4 KiB; buffers 1 and 3 are out to identity 31. -/
def poolP : Pool :=
  { cfg := 0x800C0003#32, base := 0x20010000#64, quota := [(31, 0x0000000A00000000#64)], allocs := [⟨1, 0, 1, 31⟩, ⟨3, 0, 2, 31⟩] }
def poolDev : State := { dev with pools := [(63, poolP)] }
def bgF : BufGetF := ⟨63, 4096, 31, ⟨.cm, 64⟩⟩
def bg2F : BufGetF := ⟨63, 8192, 31, ⟨.cm, 64⟩⟩

theorem witness_buf_get :
    let s := fly (.dma (.bufGet bgF)) poolDev
    InFlight s 0 (.dma (.bufGet bgF)) ∧ bufAddrCheck s 0 bgF = none ∧ s.ctxOfCore 0 = some 0 ∧ poolGetCheck s 0 63 4096 31 = none ∧
    (s.pool 63).block (spanLog2Of 4096 (s.pool 63).log2) = some 0 ∧
    ((after (.bufGet 0 bgF) s).pool 63).allocs.length = 3 := by decide +kernel

theorem witness_buf_scattered :
    let s := fly (.dma (.bufGet bg2F)) poolDev
    let p := s.pool 63
    InFlight s 0 (.dma (.bufGet bg2F)) ∧ bufAddrCheck s 0 bg2F = none ∧ poolGetCheck s 0 63 8192 31 = some (bpmStatus 9) ∧
    bufAnswered (bpmStatus 9) = true ∧ p.enabled = true ∧ p.owner = 0 ∧ spanLog2Of 8192 p.log2 = 1 ∧
    p.held 31 + 2 ^ 1 ≤ p.limit 31 ∧ 2 ^ 1 + p.shortfall 31 ≤ p.free ∧ p.block 1 = none ∧
    ((after (.bufGet 0 bg2F) s).cluster 0).cm.read 64 6 = leBytes 4 0 ++ leBytes 2 (bpmStatus 9).toNat := by decide +kernel

theorem witness_buf_count :
    let f : BufCountF := ⟨makeHandle 63 0 0 3, 1⟩
    let g : BufCountF := ⟨makeHandle 63 0 0 3, 2⟩
    let s := fly (.dma (.bufRef f)) poolDev
    let t := fly (.dma (.bufPut g)) poolDev
    InFlight s 0 (.dma (.bufRef f)) ∧ poolRefCheck s 0 f.handle 1 false = none ∧ (s.pool (handlePool f.handle)).live f.handle = some ⟨3, 0, 2, 31⟩ ∧
    ((after (.bufRef 0 f) s).pool 63).allocs = [⟨1, 0, 1, 31⟩, ⟨3, 0, 3, 31⟩] ∧
    InFlight t 0 (.dma (.bufPut g)) ∧ poolRefCheck t 0 g.handle 2 true = none ∧
    ((after (.bufPut 0 g) t).pool 63).allocs = [⟨1, 0, 1, 31⟩] ∧
    poolRefCheck (fly (.dma (.bufPut f)) poolDev) 0 f.handle 1 true = none ∧
    ((after (.bufPut 0 f) (fly (.dma (.bufPut f)) poolDev)).pool 63).allocs = [⟨1, 0, 1, 31⟩, ⟨3, 0, 1, 31⟩] := by decide +kernel

/-! ### The router and the exchange -/

/-- A layer of two experts, both owned here, of one source, and policy "drop". -/
def layer0 : RouterRec :=
  { layerId := 9, nExperts := 2, topK := 1, scoreFn := 1, policy := 0, renorm := false, spillDepth := 0, nShawl := 0, hidden := 32
    fwdFormat := 2, bwdFormat := 2, capacity := 4, nSources := 1, nLocal := 2, routeScale := 0x3F800000#32, shawlScale := 0
    rowPitch := 64, poolId := 0, requester := 0, expertMap := 0x20001000, sourceNodes := 0x20002000, bias := 0
    combRegion := 0x20100000, recvRegion := 0x20200000, zeroRow := 0x20300000, shawlRegion := 0, shawlStride := 0
    visitArray := 0x20003000 }

/-- dev with that layer; expert 1 has the local index 1. -/
def routeDev : State :=
  { onCtx (fun v => { v with program := some { prog with routers := [layer0] } }) with
    mem := pages.putBytes 0x20001006 [1#8] }

/-- A token whose logits are no numbers. -/
def routeF : RouteF := ⟨9, 0, 1, ⟨.cm, 0⟩, 0x02#8, 64, 1, 0, 0x20010000, 0x20011000, 0x20012000, 0x20013000⟩
def noNumbers (s : State) : State :=
  s.modCluster 0 (fun u => { u with cm := u.cm.commit (byteWrites 0 [0xC0#8, 0x7F#8, 0xC0#8, 0x7F#8]) [] })

theorem witness_route :
    let s := fly (.dma (.route routeF)) (noNumbers routeDev)
    InFlight s 0 (.dma (.route routeF)) ∧ routeCheck s 0 routeF = none ∧ s.routerRec 0 9 = some (0, layer0) ∧
    (match s.routeInputs 0 0 layer0 routeF with
      | .error _ => false
      | .ok (u, map, ts) =>
        let placed := placeAll layer0 1 ts
        let d := u.drawRuns 0 layer0 placed.1 placed.2
        (d.1.putAll 0 .routeOp (routeWrites s.node layer0 routeF map placed.1 d.2.1 (d.2.2.map (gated s.firmwareSet layer0)))).isOk) = true ∧
    Ended s (after (.route 0 routeF) s) 0 (.dma (.route routeF)) .done ∧
    (after (.route 0 routeF) s).peekVa 0 .routeOp 0x20011000 16 = some (leFields [(4, 0), (4, 0), (8, 1024 * 2 ^ 48)]) := by
  decide +kernel

def gradF : RouteGradF := ⟨9, ⟨.cm, 0⟩, 0x02#8, 64, 1, 0, 0x20011000, 0x20014000, 0x20015000⟩

theorem witness_route_grad :
    let s := fly (.dma (.routeGrad gradF)) (noNumbers routeDev)
    InFlight s 0 (.dma (.routeGrad gradF)) ∧ routeGradCheck s 0 gradF = none ∧ (s.routeGrad 0 0 layer0 gradF).isOk = true ∧
    Ended s (after (.routeGrad 0 gradF) s) 0 (.dma (.routeGrad gradF)) .done := by decide +kernel

theorem witness_visit_clear :
    let s := fly (.dma (.visitClear 9)) { routeDev with mem := routeDev.mem.putBytes 0x20003004 [5#8] }
    InFlight s 0 (.dma (.visitClear 9)) ∧ s.routerRec 0 9 = some (0, layer0) ∧
    (s.putVa 0 .exchange layer0.visitArray (List.replicate 8 0)).isOk = true ∧
    (after (.visitClear 0 9) s).peekVa 0 .exchange 0x20003000 8 = some (List.replicate 8 0) := by decide +kernel

def xsF : XsendF := ⟨9, .fd, 1, 3, 0, 0x20013000, 0, none⟩

theorem witness_xsend :
    let s := fly (.dma (.xsend xsF)) routeDev
    let b := fly (.dma (.xsend { xsF with phase := .bd })) routeDev
    InFlight s 0 (.dma (.xsend xsF)) ∧ xsendCheck s 0 xsF = none ∧ (s.cluster 0).xsends = [] ∧
    (s.xsendMessages 0 0 0 layer0 xsF (.xsend 0 1)).isOk = true ∧ (after (.xsend 0 xsF) s).xpt.toSend.length = 1 ∧
    (b.xsendMessages 0 0 0 layer0 { xsF with phase := .bd } (.xsend 0 1)).isOk = true ∧
    Ended b (after (.xsend 0 { xsF with phase := .bd }) b) 0 (.dma (.xsend { xsF with phase := .bd })) .done := by decide +kernel

def xrF : XrecvF := ⟨9, .fd, 1, 3, 0, 0x20016000, 0x8004#16, 0x20017000, 7⟩
/-- dev with that receive armed, and its deadline 1 ns away. -/
def armed : State :=
  after (.xrecvArm 0 xrF) (fly (.dma (.xrecvArm xrF)) routeDev)

theorem witness_xrecv :
    let s := fly (.dma (.xrecvArm xrF)) routeDev
    (s.cluster 0).xrecvs = [] ∧ xrecvCheck s 0 xrF = none ∧ recvExperts layer0 xrF ≠ [] ∧
    (match s.arm 0 0 0 layer0 xrF with
      | .ok (_, some v) => (recvExperts layer0 xrF).all (fun i => !v.newlyReady layer0 i)
      | _ => false) = true ∧
    (armed.cluster 0).xrecvs.map (·.deadline) = [some 8000000] := by decide +kernel

theorem witness_exchange_deadline :
    let s := { armed with now := 8000000 }
    ((s.cluster 0).xrecvs.find? (fun v => v.f.layerId == 9 && v.f.phase == .fd && v.f.round == 1)).map (fun v => (v.deadline, v.paused)) =
      some (some 8000000, none) ∧ (s.routerRec 0 9).isSome = true ∧ (s.ctx 0).state = .running ∧
    ((after (.exchangeDeadline 0 9 .fd 1) s).ctx 0).state = .stopped ∧
    ((after (.exchangeDeadline 0 9 .fd 1) s).cluster 0).xrecvs = [] := by decide +kernel

/-! ### Training -/

/-- An owned shard of one element in 12.000 format with the sign algorithm, the job record, and the moments' size. -/
def shard0 : ShardRec :=
  { tensorId := 5, kind := 1, algorithm := 2, workFormat := 0x02#8, gradFormat := 0x10#8, tier := 1, rank := 1, expert := 0xFFFF
    epoch := 4, dims := [1, 0, 0, 0, 0, 0, 0, 0], offsets := List.replicate 8 0, extents := [1, 0, 0, 0, 0, 0, 0, 0]
    stateAddr := 0x20400000, momAddr := 0x20500000, farAddr := 0x60000000, journalAddr := 0x20600000, visitAddr := 0 }
def job0 : ShardRec :=
  { shard0 with kind := 3, stateAddr := 0x20700000, momAddr := 0x10000, farAddr := 0, journalAddr := 0 }
def trainProg : Program := { prog with shards := [shard0, job0] }

/-- dev with that table and an epoch record of epoch 4. -/
def trainDev : State :=
  { onCtx (fun v => { v with program := some trainProg }) with
    mem := pages.putBytes 0x20700000 (EpochRec.toBytes ⟨4, false, 0x20780000, 0, 0⟩) }

def updF : UpdateF := ⟨0, 2, 0x20800000, 0x20800040, 0x20510000, 0x20800080⟩
/-- An UPDATE in flight whose Beacon record says "skip". -/
def updDev : State :=
  (fly (.dma (.update updF)) { trainDev with mem := trainDev.mem.putBytes 0x20800044 [1#8] }).modGroup 2 (fun g =>
    { g with updPending := [(0, 1)] })

/-- What its UPDATE works with on engine 2. -/
def updRun : UpdRun := ⟨0, 0, 2, shard0, 0⟩

/-- Where n pieces of the UPDATE in flight leave it, from its decision or from the point where the engine stands. -/
def updLeft (s : State) (n : Nat) (held : Option UpdHold) : Option (State × UpdNext) :=
  match (s.modGroup 2 (fun g => g.leave 0 1)).updStart updRun updF (s.opEnv 0 (.dma (.update updF))) held with
  | .error _ => none
  | .ok d => match updOn updRun n d with
    | .error _ => none
    | .ok z => some z

theorem witness_update :
    InFlight updDev 0 (.dma (.update updF)) ∧ updDev.ownedShard 0 0 = some shard0 ∧ (updDev.group 2).updating = none ∧
    (updDev.group 2).updPending.head? = some (0, 1) ∧ updDev.mustSuspend 0 = false ∧
    (match updLeft updDev shard0.allPieces none with
      | some (v, .ended .skipped false 0) => (v.putVa 0 .update updF.result (updRecord .skipped false 0 0 0)).isOk
      | _ => false) = true ∧
    Ended updDev (after (.update 0 ⟨updF, none⟩) updDev) 0 (.dma (.update updF)) .done ∧
    ((after (.update 0 ⟨updF, none⟩) updDev).group 2).updCount = 4096 := by decide +kernel

/-- The same UPDATE with its Beacon record fine and its moments resident, at the first chunk of MOMENTS. -/
def updHeld : State :=
  after (.update 0 ⟨updF, (some 0)⟩) ((fly (.dma (.update updF)) { trainDev with
    mem := (trainDev.mem.putBytes 0x20600000 (CommitWord.toBytes ⟨7, 0x20500000, 7, 4, 7, 7, 7⟩)).putBytes 0x20800040 [0#8] }).modGroup 2
      (fun g => { g with updPending := [(0, 1)] }))

/-- dev pre-empted while that UPDATE stands there. -/
def updPreempted : State := updHeld.modCtx 0 (fun v => { v with preempt := some ⟨false, 2000000, 1, false⟩ })

theorem witness_update_pieces :
    (match (updHeld.group 2).updating with
      | none => false
      | some h => h.core == 0 && h.pos == 1 && h.point == .moments 0 && h.word.phase == 1 && h.word.target == 8 &&
        (match updLeft updPreempted 1 (some h) with
          | some (v, .suspends g) => g == h && (v.updSettle 0 0 shard0 updF (.suspends g)).isOk
          | _ => false)) = true ∧
    InFlight updHeld 0 (.dma (.update updF)) ∧
    ((after (.update 0 ⟨updF, (some 1)⟩) updPreempted).group 2).updating = none ∧
    ((after (.update 0 ⟨updF, (some 1)⟩) updPreempted).core 0).dmaQ.map (·.progress) = [1] := by decide +kernel

def fenceF : FenceF := ⟨100, false⟩
def fencing : State := after (.epochFence 0 fenceF) (fly (.dma (.epochFence fenceF)) trainDev)
def fenced : State := { trainDev with mem := trainDev.mem.putBytes 0x20700004 [1#8] }

theorem witness_stage :
    let f : ShardStageF := ⟨0, .toNear⟩
    let s := fly (.dma (.shardStage f)) { trainDev with
      mem := trainDev.mem.putBytes 0x20600000 (CommitWord.toBytes ⟨7, 0x20500000, 7, 4, 7, 6, 7⟩)
      hp := { regions := [(0, some ⟨3, 1, 0, 0x40000000⟩)] } }
    shardStageCheck s 0 f = none ∧ s.ctxOfCore 0 = some 0 ∧ s.ownedShard 0 0 = some shard0 ∧
    (after (.shardStage 0 f) s).hp.chunks.length = 1 := by decide +kernel

theorem witness_epoch_fence :
    let s := fly (.dma (.epochFence fenceF)) trainDev
    let c := fly (.dma (.epochFence ⟨100, true⟩)) fenced
    InFlight s 0 (.dma (.epochFence fenceF)) ∧ (s.ctx 0).fence = none ∧ epochFenceCheck s 0 fenceF = none ∧
    s.epochRec 0 = some ⟨4, false, 0x20780000, 0, 0⟩ ∧ (s.putEpoch 0 ⟨4, true, 0x20780000, 0, 0⟩).isOk = true ∧
    (fencing.ctx 0).fence = some (0, 101000000) ∧ fencing.epochRec 0 = some ⟨4, true, 0x20780000, 0, 0⟩ ∧
    InFlight c 0 (.dma (.epochFence ⟨100, true⟩)) ∧ epochFenceCheck c 0 ⟨100, true⟩ = none ∧
    Ended c (after (.epochFence 0 ⟨100, true⟩) c) 0 (.dma (.epochFence ⟨100, true⟩)) .done := by decide +kernel

theorem witness_fence_ends :
    fencing.fenceOp 0 = some (0, .dma (.epochFence fenceF)) ∧ fencing.noUpdate 0 = true ∧ fencing.stagesDrained 0 = true ∧
    ((after (.epochFenceDrained 0) fencing).ctx 0).fence = none ∧ (fencing.ctx 0).state = .running ∧
    ((after (.epochFenceTimeout 0) { fencing with now := 101000000 }).ctx 0).state = .stopped := by decide +kernel

theorem witness_epoch_switch :
    let s := (fly (.dma (.epochSwitch 0x20790000)) fenced).modCtx 0 (fun v => { v with
      program := some { trainProg with buffers := [⟨1, 2, 0, 0x1000, 0x20700000⟩] }, heldTable := some [{ job0 with epoch := 5 }] })
    InFlight s 0 (.dma (.epochSwitch 0x20790000)) ∧ epochSwitchCheck s 0 = none ∧ (s.ctx 0).heldTable.isSome = true ∧
    s.epochRec 0 = some ⟨4, true, 0x20780000, 0, 0⟩ ∧
    (after (.epochSwitch 0 0x20790000) s).epochRec 0 = some ⟨5, false, 0x20790000, 4, 0x20780000⟩ := by decide +kernel

/-! ### Collectives -/

/-- A Beacon collective of two members on one line, and a ring of three with flags 4 and 5; their member lists follow each
other. -/
def beaconD : CollDesc :=
  { op := 6, dims := 1, policy := 1, wireFormat := 2, destKind := 0, destFormat := 2, deadlineUs := 50, waitMs := 9, ringMode := 0
    members := 2, extents := [2], maxHops := [1], maxClass := [0], chunks := 0, aux := 0, memberList := 0x20900000, staging := 0
    stagingBytes := 0, errorBuf := 0, carryBuf := 0, permuteList := 0, permuteCount := 0, flagA := 0x8004#16, flagB := 0x8005#16
    ringOffset := 0 }
def ringD : CollDesc :=
  { beaconD with op := 5, ringMode := 1, members := 3, extents := [3], aux := 64, memberList := 0x20900040 }

/-- dev with both; this node has the address 0. -/
def collDev : State :=
  { onCtx (fun v => { v with program := some { prog with colls := [beaconD, ringD] }, nonfinite := true }) with
    mem := (pages.putBytes 0x20900002 [7#8]).putBytes 0x20900042 [8#8, 0#8, 9#8] }

def beaconF : CollF := ⟨0, 0, 0x20A00000, 0, 0x20A00080⟩
def ringF : CollF := ⟨1, 0x20A00100, 0, 0, 0x20A00180⟩
def beaconRun : State := after (.beacon 0 beaconF) (fly (.dma (.beacon beaconF)) collDev)
def ringRun : State := after (.collStart 0 ringF) (fly (.dma (.collStart ringF)) collDev)

theorem witness_collectives_start :
    let s := fly (.dma (.beacon beaconF)) collDev
    let r := fly (.dma (.collStart ringF)) collDev
    (s.cluster 0).colls = [] ∧ collCheck s 0 beaconF true = none ∧ s.collDesc 0 0 = some beaconD ∧
    (beaconRun.cluster 0).colls.map (·.nonfinite) = [true] ∧ (beaconRun.ctx 0).nonfinite = false ∧
    collCheck r 0 ringF false = none ∧ r.collDesc 0 1 = some ringD ∧
    ringRun.xpt.toSend.map (fun m => (hDest m.hdr, m.cls)) = [(8, clCol)] ∧ (ringRun.ctx 0).nonfinite = true := by decide +kernel

theorem witness_stage_deadline :
    let s := { beaconRun with now := 1050000 }
    ((s.cluster 0).colls.find? (fun z => z.f.desc == 0)).map (fun z => (z.stage 0).map (fun st => (st.deadline, st.closed, beaconD.timed st))) =
      some (some (some 1050000, false, true)) ∧ s.mustSuspend 0 = false ∧ (s.ctx 0).state = .running ∧
    (((s.cluster 0).colls.head?).map (fun z => (z.stage 0).map (fun st => (s.closeStage 0 z beaconD st).isOk))) = some (some true) ∧
    (after (.stageDeadline 0 0 0) s).xpt.toSend.map (fun m => hDest m.hdr) = [7] := by decide +kernel

theorem witness_wait_timeout :
    let s := { ringRun with now := 10000000 }
    ((s.cluster 0).colls.find? (fun z => z.f.desc == 1)).map (fun z => (z.stage 2).map (fun st => (st.waitUntil, st.closed))) =
      some (some (some 10000000, false)) ∧ s.mustSuspend 0 = false ∧
    ((after (.collWaitTimeout 0 1 2) s).ctx 0).state = .stopped ∧ ((after (.collWaitTimeout 0 1 2) s).cluster 0).colls = [] := by
  decide +kernel

/-- The ring with stage 1 over and stage 2 sent, and flag_b at 1. -/
def ringMid : State :=
  (ringRun.modColl 0 0 1 (fun z => (z.modStage 1 (fun g => { g with closed := true })).modStage 2 (fun g => { g with sent := true }))).addFlag
    0 0x8005#16 1

theorem witness_ring :
    let z := ringMid.activeColl 0 1
    let s := ringMid.modColl 0 0 1 (fun z => z.modStage 2 (fun g => { g with sent := false }))
    z.map (fun z => ((z.2.stage 3).map (·.armed), (z.2.stage 2).map (fun g => (g.sent, g.outstanding)))) = some (some false, some (true, 0)) ∧
    (after (.ringStageArm 0 1 3) ringMid).xpt.toSend.map (fun m => hDest m.hdr) = [8, 9] ∧
    ((s.activeColl 0 1).map (fun z => s.ringReady 0 z.2 ringD 2)) = some true ∧
    (after (.ringStageSend 0 1 2) s).xpt.toSend.map (fun m => hDest m.hdr) = [8, 8] := by decide +kernel

/-! ### Transport -/

/-- Node 1 of a ring of four; port 2 is ACTIVE toward node 2. -/
def ring4 : Topology := { dims := 1, node := 1, extents := [4], ports := [(15, 0), (15, 0), (0, 0)], weights := [] }
def netDev : State :=
  { dev with xpt := { topo := some ring4 }, ports := [(2, { linkState := 0x40000002, credits := [(0, 5)] })] }

/-- A FLAG_SET to node 2, and the outbound context that carries it. -/
def msg1 : Message := flagMessage 2 3 0 0x8005#16 1 9 0 (.op 0 1)
def out1 : OutMsg := ⟨msg1, 0, 0, 10, some 2000000, none, none, [], 0, false, 0⟩
/-- A FLAG_SET in flight, sent in outbound context 5. -/
def sent : State := (fly (.dma (.flagSet ⟨2, 3, 0, 0x8005#16, 1, 9⟩)) netDev).putOut 5 (some out1)

/-- A device with no outbound context in use has one free, whichever the free choice names. -/
theorem freeOutbound_of_empty (s : State) (h : s.xpt.outbound = []) : s.freeOutbound.isSome = true := by
  unfold State.freeOutbound outboundContexts
  rw [h, List.find?_isSome]
  exact ⟨Config.freeNat s.freeCtr % 8192, List.mem_map.mpr ⟨0, List.mem_range.mpr (by decide), by simp⟩, rfl⟩

theorem witness_message_send :
    let s := { netDev with xpt := { netDev.xpt with toSend := [msg1] } }
    s.xpt.toSend[0]? = some msg1 ∧ s.xpt.topo.isSome = true ∧ s.freeOutbound.isSome = true ∧ s.mayStart msg1 = true ∧
    s.inTurn msg1 = true :=
  ⟨by decide +kernel, by decide +kernel, freeOutbound_of_empty _ rfl, by decide +kernel, by decide +kernel⟩

theorem witness_resend :
    let s := { sent with now := 2000000 }
    let l := { sent with now := 2000000, xpt := { sent.xpt with outbound := [(5, some { out1 with resends := 6 })] } }
    s.activeOut 5 = some out1 ∧ out1.resends < s.xpt.resendLimit ∧ (after (.resendTimeout 5) s).xpt.msgStat = 65536 ∧
    (after (.resendTimeout 5) s).xpt.injected.map (fun c => hGen c.hdr) = [1] ∧
    l.activeOut 5 = some { out1 with resends := 6 } ∧ l.xpt.resendLimit ≤ 6 ∧
    ((after (.resendTimeout 5) l).core 0).dmaF.map (·.result) = [some (.faulted 0)] := by decide +kernel

/-- A reply to that message from node 2. -/
def reply1 (kind code : Nat) : Cell :=
  replyA 2 (setHf (setHf msg1.hdr 78 63 1) 62 50 5) kind code 0 0 [] false
/-- The same device with a cell in port 2's input buffer. -/
def withCell (s : State) (c : Cell) : State := s.modPort 2 (fun p => { p with input := [⟨3, c⟩] })

theorem witness_nak_retry :
    let c := reply1 1 0x20
    let s := withCell sent c
    let b := { after (.nakRetry c) s with now := 2000000 }
    GoodCell s c false clRsp ∧ replyKind c.hdr = 1 ∧ (s.takeCell c).replyTo c.hdr = some (5, out1) ∧ hGen c.hdr = out1.gen.toNat ∧
    (b.activeOut 5).map (fun m => (m.backoffAt, m.backoffUs)) = some (some 1010000, 20) ∧
    (after (.nakBackoffExpiry 5) b).xpt.injected.length = 1 ∧
    ((b.activeOut 5).bind (·.nakAt)) = some 1001000000 ∧
    ((after (.nakLimitExpiry 5) { b with now := 1001000000 }).core 0).dmaF.map (·.result) = [some (.faulted 0)] := by decide +kernel

theorem witness_replies :
    (let c := reply1 0 0
     let s := withCell sent c
     GoodCell s c false clRsp ∧ replyKind c.hdr = 0 ∧ (s.takeCell c).replyTo c.hdr = some (5, out1) ∧
     ((after (.completion c) s).core 0).dmaF.map (·.result) = [some .done] ∧ ((after (.completion c) s).port 2).input = []) ∧
    (let c := reply1 2 0x10
     let s := withCell sent c
     GoodCell s c false clRsp ∧ replyKind c.hdr = 2 ∧ (s.takeCell c).replyTo c.hdr = some (5, out1) ∧
     ((after (.nakRefuse c) s).core 0).dmaF.map (·.result) = [some (.refused (xptStatus 0x10))]) := by decide +kernel

/-- A GET or an ATOMIC of 8 bytes to data memory, in flight in outbound context 5. -/
def asked (kind : Nat) : OutMsg :=
  { out1 with msg := { msg1 with hdr := headerA 2 kind 3 0, getDst := some (⟨.dm, 16⟩, 8) } }
def asking (o : Op) (kind : Nat) : State := (fly o netDev).putOut 5 (some (asked kind))
def getOp : Op := .dma (.get ⟨.req, 2, 3, 0x20000000, 8, ⟨.dm, 16⟩⟩)
def atomicOp : Op := .dma (.atomic ⟨2, 3, 0x20000000, 0, 1, 0, ⟨.dm, 16⟩⟩)
def data1 (kind : Nat) : Cell := replyA 2 (setHf (setHf (headerA 2 kind 3 0) 78 63 1) 62 50 5) (kind + 2) 0 0 0 [7#8] false

theorem witness_get_data :
    let c := data1 1
    let s := withCell (asking getOp 1) c
    GoodCell s c false clRsp ∧ replyKind c.hdr = 3 ∧ (s.takeCell c).replyTo c.hdr = some (5, asked 1) ∧
    (asked 1).msg.isKind 1 = true ∧ hLast c.hdr = 0 ∧ hIdx c.hdr = 0 ∧ hGen c.hdr = 0 ∧ (s.ctx 0).physicalCore 0 = some 0 ∧
    ((s.takeCell c).landData 0 0 1 ⟨.dm, 16⟩ ((sliceBytes c.payload 0 8).map (fun b => (b, false)))).isOk = true ∧
    ((after (.getData c) s).core 0).dmaF.map (·.result) = [some .done] := by decide +kernel

theorem witness_atomic_result :
    let c := data1 2
    let s := withCell (asking atomicOp 2) c
    GoodCell s c false clRsp ∧ replyKind c.hdr = 4 ∧ (s.takeCell c).replyTo c.hdr = some (5, asked 2) ∧
    (asked 2).msg.isKind 2 = true ∧ ((after (.atomicResult c) s).core 0).dmaF.map (·.result) = [some .done] ∧
    ((after (.atomicResult c) s).core 0).dm.byte 16 = 7 := by decide +kernel

/-- The data message of a run in flight, and its completion from node 2. -/
def xhdr : BitVec 96 := headerX netDev 0 0 xsF 2 0 1 0
def xout : OutMsg := { out1 with msg := ⟨clXch, xhdr, 0, [], none, .xsend 0 1⟩ }

theorem witness_xch_reply :
    let c := replyX 1 xhdr 0 0
    let s := withCell ((netDev.putOut 5 (some xout)).modCluster 0 (fun u => { u with xsends := [⟨0, 0, 1, xsF, [(1, 0)], none, none⟩] })) c
    GoodCell s c true clRsp ∧ xReply c.hdr = true ∧ replyKind c.hdr = 0 ∧ (s.takeCell c).replyTo c.hdr = some (5, xout) ∧
    ((after (.xchReply c) s).cluster 0).xsends = [] := by decide +kernel

theorem witness_message_tables :
    let ended : OutMsg := { out1 with ended := true, reuseAt := 1000000 }
    let im : InMsg := { newIn netDev (.a 2 9) 0 msg1.hdr 0 0 0 with lapseAt := 1000000 }
    let s := { netDev with xpt := { netDev.xpt with
      outbound := [(5, some ended)], inbound := [(0, some im)], retire := [⟨.a 2 8, 0, reply1 0 0, false, some 1000000⟩] } }
    out1.msg.owner = .op 0 1 ∧ sent.mustSuspend 0 = false ∧ (sent.ctx 0).physicalCore 0 = some 0 ∧ sent.hp.chunks = [] ∧
    sget none s.xpt.outbound 5 = some ended ∧ sget none (after (.outboundContextReuse 5) s).xpt.outbound 5 = none ∧
    sget none s.xpt.inbound 0 = some im ∧ im.reply = none ∧ im.lapseAt ≤ s.now ∧
    sget none (after (.inboundContextTimeout 0) s).xpt.inbound 0 = none ∧ (after (.retireExpiry 0) s).xpt.retire = [] := by
  decide +kernel

/-- The one cell of a message from node 2 to context 0. -/
def cellOf (m : Message) : Cell := ((({ m with hdr := setHf m.hdr 94 79 1 } : Message).cells 2 9 0)).headD (mkCell 0 0 [])
def flagCell (mode : Nat) : Cell := cellOf (flagMessage 1 3 0 0x8005#16 mode 9 0 .none)
def putCell : Cell := cellOf (putMessage clReq 1 3 0 0 0x20000010 0 (marked false [1#8, 2#8, 3#8]) .none)
def getCell : Cell := cellOf ⟨clReq, headerA 1 1 3 0, 0, [(leFields [(8, 0x20000010), (4, 100), (36, 0)], false)], none, .none⟩

def atomicCell : Cell :=
  cellOf ⟨clReq, headerA 1 2 3 0, 0, [(leFields [(8, 0x20000010), (8, 0), (8, 5), (24, 0)], false)], none, .none⟩
def reduceCell : Cell := cellOf (putMessage clReq 1 3 4 0 0x20000010 0 (marked false (leBytes 8 0)) .none)

/-- What makes a request cell of context 0 a new message that its context takes. -/
abbrev Taken (c : Cell) (s : State) : Prop :=
  GoodCell s c false clReq ∧ (s.atRequest c).ctxOfTag (aRtag c.hdr) = some 0 ∧ (s.atRequest c).naksAll 0 = false ∧
  NewMessage (s.atRequest c) (.a 2 9) c 0

theorem witness_flag_cells :
    (let c := flagCell 0
     let s := withCell netDev c
     Taken c s ∧ hLast c.hdr = 0 ∧ aKind c.hdr = 3 ∧ aPoison c.hdr = false ∧
     flagIdOk (BitVec.ofNat 16 (leAt c.payload 1 2)) = true ∧ ((s.atRequest c).ctx 0).physical (leAt c.payload 0 1) = some 0 ∧
     ((s.atRequest c).cluster 0).colls = [] ∧ leAt c.payload 3 1 = 0 ∧ (after (.cellArrival c) s).flag 0 0x8005#16 = 9) ∧
    (let c := flagCell 1
     let s := withCell netDev c
     Taken c s ∧ leAt c.payload 3 1 = 1 ∧ leAt c.payload 4 4 = 9 ∧ (after (.cellArrival c) s).flag 0 0x8005#16 = 9) := by
  decide +kernel

/-- The outcome of a translation as a Bool. -/
def fine {α : Type} (e : Except α Unit) : Bool := match e with | .ok () => true | .error _ => false

theorem witness_get_and_atomic_cells :
    (let c := getCell
     let s := withCell netDev c
     let u := s.atRequest c
     Taken c s ∧ aKind c.hdr = 1 ∧ leAt c.payload 8 4 = 100 ∧ fine (u.translateMsg 0 .inbound .read 0x20000010 100) = true ∧
     (u.readLoc 0 0 .inbound ⟨.va, 0x20000010⟩ 100).isOk = true ∧ (after (.cellArrival c) s).xpt.injected.length = 3) ∧
    (let c := atomicCell
     let s := withCell netDev c
     let u := s.atRequest c
     Taken c s ∧ aKind c.hdr = 2 ∧ aPoison c.hdr = false ∧ leAt c.payload 0 8 = 0x20000010 ∧ leAt c.payload 8 1 = 0 ∧
     fine (u.translateMsg 0 .inbound .atomic 0x20000010 8) = true ∧
     (match u.translate 0 .inbound .atomic 0x20000010 with
       | .ok pa => (u.atomicPa pa 0 5 0 []).2 == some 0
       | .error _ => false) = true ∧
     sget 0 (after (.cellArrival c) s).mem.bytes 0x20000010 = 5) := by decide +kernel

theorem witness_reduce_cell :
    let c := reduceCell
    let s := withCell netDev c
    let u := s.atRequest c
    let m : InMsg := newIn u (.a 2 9) 0 c.hdr 0x20000010 8 8
    Taken c s ∧ aKind c.hdr = 4 ∧ bitsOf (leAt c.payload 0 8) 53 48 = 8 ∧ bitsOf (leAt c.payload 0 8) 55 54 = 0 ∧
    bitsOf (leAt c.payload 0 8) 47 0 % reduceBytes 0 = 0 ∧ u.xpt.staging + 8 ≤ reduceStaging ∧
    fine (u.translateMsg 0 .inbound .write 0x20000010 8) = true ∧
    (({ u with xpt := { u.xpt with staging := u.xpt.staging + 8 } } : State).reduceInto
      { m with got := m.got ++ [0], lapseAt := u.now + 2 * u.xpt.resendNs, reserve := 8, staged := [(0, sliceBytes c.payload 8 8)]
               stagedPoison := false } 0).isOk = true ∧
    (after (.cellArrival c) s).xpt.injected.length = 1 := by decide +kernel

/-- The cells of a PUT of 42 bytes, and the device with the second one after the first. -/
def putCells : List Cell :=
  (({ putMessage clReq 1 3 0 0 0x20000010 0 (marked false (List.replicate 41 1#8 ++ [9#8])) .none with
      hdr := setHf (headerA 1 0 3 0) 94 79 1 } : Message).cells 2 9 0)
def putFirst : Cell := putCells.headD putCell
def putSecond : Cell := putCells.getLastD putCell
def halfPut : State := withCell (after (.cellArrival putFirst) (withCell netDev putFirst)) putSecond

theorem witness_put_cells :
    (let c := putCell
     let s := withCell netDev c
     let u := s.atRequest c
     Taken c s ∧ aKind c.hdr = 0 ∧ bitsOf (leAt c.payload 0 8) 53 48 = 3 ∧
     fine (u.translateMsg 0 .inbound .write 0x20000010 (bytes40 c.hdr 3)) = true ∧
     (u.writeVa 0 .inbound 0x20000010 [1#8, 2#8, 3#8] false).isOk = true ∧
     [0x20000010, 0x20000012].map (sget 0 (after (.cellArrival c) s).mem.bytes) = [1#8, 3#8]) ∧
    Taken putFirst (withCell netDev putFirst) ∧ hLast putFirst.hdr = 1 ∧
    (let c := putSecond
     let u := halfPut.atRequest c
     GoodCell halfPut c false clReq ∧ u.xpt.retire = [] ∧
     (match u.findIn (.a 2 9) with
       | some (i, m) => i == 0 && m.ctx == 0 && m.reply.isNone && m.nak.isNone && m.last == hLast c.hdr &&
         decide (hIdx c.hdr ≤ m.last) && hGen c.hdr == m.gen.toNat && m.got.length == m.last &&
         (u.writeVa 0 .inbound (bitsOf (leAt c.payload 0 8) 47 0) (sliceBytes c.payload 8 m.validLast) false).isOk
       | none => false) = true ∧
     sget 0 (after (.cellArrival c) halfPut).mem.bytes 0x20000039 = 9 ∧
     sget none (after (.cellArrival c) halfPut).xpt.inbound 0 = none) := by decide +kernel

/-- A device with collectives under way, on the ring. -/
def onNet (s : State) : State := { s with xpt := { topo := some { ring4 with node := 0 } }, ports := netDev.ports }
def creditCell : Cell := mkCell clCol (headerA 0 codeCredit 3 (1 + 2 * 128)) []
/-- A contribution of an older step. -/
def lateCell : Cell := mkCell clCol (headerA 0 codeRing 3 (1 + 2 * 128 + 2 * 2048)) (leBytes 8 (8 * 2 ^ 40))

theorem witness_collective_cells :
    (let c := creditCell
     let s := withCell (onNet ringRun) c
     let u := s.atRequest c
     GoodCell s c false clCol ∧ u.ctxOfTag (aRtag c.hdr) = some 0 ∧ u.naksAll 0 = false ∧ NewMessage u (.a 0 0) c 0 ∧ hLast c.hdr = 0 ∧
     u.epochNak 0 (aKind c.hdr / 8) = none ∧
     (match u.colAdmit 0 c.hdr 0 with | .credit y k d st => (y, k, d, st) == (0, 0, 1, 2) | _ => false) = true ∧
     (after (.cellArrival c) s).xpt.retire.length = 1) ∧
    (let c := lateCell
     let s := withCell (onNet ringRun) c
     let u := s.atRequest c
     GoodCell s c false clCol ∧ NewMessage u (.a 0 0) c 0 ∧ u.epochNak 0 (aKind c.hdr / 8) = none ∧ aKind c.hdr % 8 ≠ codeBeacon ∧
     aIdx c.hdr = aLast c.hdr ∧
     (match u.colAdmit 0 c.hdr (leAt c.payload 0 8) with
       | .sink y k => y == 0 && k.fate == 2 && (u.colPlace 0 k false (leAt c.payload 0 8) (sliceBytes c.payload 8 8) false).isOk
       | _ => false) = true ∧
     (after (.cellArrival c) s).xpt.retire.length = 1) := by decide +kernel

theorem witness_other_cells :
    (let c := { flagCell 0 with crc := 0 }
     let s := withCell netDev c
     s.isHere c = true ∧ hIsX c.hdr = false ∧ s.cellLost c = false ∧ Cell.crcOk c = false ∧
     (after (.cellArrival c) s).xpt.dropStat = 2 ^ 48) ∧
    (let c := flagCell 0
     let s := (withCell netDev c).modPort 2 (fun p => { p with struck := p.input })
     s.isHere c = true ∧ s.cellLost c = true ∧ ((after (.cellArrival c) s).port 2).input = []) ∧
    (let c := mkCell clMgt (headerA 1 0 0 0) []
     let s := withCell netDev c
     GoodCell s c false clMgt ∧ (s.atRequest c).xpt.mgtRing.length < mgtRingCells ∧ (after (.cellArrival c) s).xpt.mgtRing = [c]) ∧
    (let c := reply1 0 0
     let s := withCell sent c
     GoodCell s c false clRsp ∧ ((after (.cellArrival c) s).core 0).dmaF.map (·.result) = [some .done]) ∧
    (let c := cellOf (flagMessage 1 4 0 0x8005#16 0 9 0 .none)
     let s := withCell netDev c
     GoodCell s c false clReq ∧ (s.atRequest c).ctxOfTag (aRtag c.hdr) = none ∧ (s.atRequest c).xpt.retire = [] ∧
     (after (.cellArrival c) s).xpt.injected = [replyA 1 c.hdr 2 ncNoTag 0 0 [] false]) ∧
    (let c := flagCell 0
     let s := withCell (netDev.modCtx 0 (fun v => { v with state := .loaded })) c
     GoodCell s c false clReq ∧ (s.atRequest c).ctxOfTag (aRtag c.hdr) = some 0 ∧ (s.atRequest c).naksAll 0 = true ∧
     (after (.cellArrival c) s).xpt.injected.length + (after (.cellArrival c) s).xpt.naks.length = 1) := by decide +kernel

/-- The first of two cells of rows for expert 1, with a receive armed for it. -/
def rowsDev : State :=
  { (armed.modCluster 0 (fun u => { u with xrecvs := u.xrecvs.map (fun v => { v with counted := [0], counts := [(1, 4)] }) })) with
    xpt := netDev.xpt
    mem := (routeDev.mem.putBytes 0x20001000 [1#8]).putBytes 0x20001004 [1#8, 0#8, 1#8] }
def rowsCell : Cell := mkCell clXch (setHf (headerX netDev 0 0 xsF 1 0 1 0) 12 1 3) [5#8]

theorem witness_exchange_cell :
    let c := rowsCell
    let s := withCell rowsDev c
    let u := s.atRequest c
    GoodCell s c true clXch ∧ xReply c.hdr = false ∧ u.xDest c.hdr = some 0 ∧ u.ctxOfTag (xRtag c.hdr) = some 0 ∧
    NewMessage u (xKey c.hdr) c 0 ∧
    (match u.xchAdmit c.hdr with
      | .fine x _ r v => x == 0 && decide (xK c.hdr ≠ 511) && (u.layerTables 0 r).isSome &&
        fine (u.translateMsg 0 .inboundPinned .write (v.base r [1, 65537] c.hdr) 192) &&
        (match u.placeCell (newIn u (xKey c.hdr) 0 c.hdr (v.base r [1, 65537] c.hdr) 192 0) c with
          | .ok z => z.2.got == [] && z.2.last == hLast c.hdr && decide (0 < hLast c.hdr)
          | .error _ => false)
      | _ => false) = true ∧
    ((sget none (after (.xchCell c) s).xpt.inbound 0).map (·.got)) = some [0] ∧
    (let o := mkCell clXch (setHf rowsCell.hdr 78 75 9) []
     let z := withCell rowsDev o
     GoodCell z o true clXch ∧ (z.atRequest o).xDest o.hdr = none ∧ (after (.xchCell o) z).xpt.dropStat = 2 ^ 20) := by
  decide +kernel

theorem witness_cell_forward :
    let c := mkCell clReq (headerA 2 3 3 0) []
    let f := mkCell clReq (headerA 0 3 3 0) []
    let s := { netDev with xpt := { netDev.xpt with injected := [c, f] } }
    let z := (withCell netDev c).modPort 2 (fun p => { p with struck := p.input })
    s.xpt.topo = some ring4 ∧ (s.leave none c).isSome = true ∧ s.lostAt none c = false ∧ hDest c.hdr ≠ ring4.node.toNat ∧
    (z.leave (some (2, 3)) c).isSome = true ∧ z.lostAt (some (2, 3)) c = true ∧
    ((after (.cellForward (some (2, 3)) c) z).port 2).input = [] ∧ hDest c.hdr < ring4.nodes ∧ s.candidates ring4 2 = [2] ∧
    s.chooseLink ring4 c = some (2, 0) ∧ ((after (.cellForward none c) s).port 2).waiting = [⟨0, c⟩] ∧
    (s.leave none f).isSome = true ∧ s.candidates ring4 0 = [] ∧ (after (.cellForward none f) s).xpt.dropStat = 2 ^ 32 := by
  decide +kernel

/-! ### Cuff ports -/

/-- dev with port 2 in TRAINING at the one entry of a table: action a, 64 as its first parameter, its deadline now. -/
def training (a : Nat) (u : Port) : State :=
  { dev with trainTable := [⟨a, 0, 3, 100, 62, 0, 64, 0x3F800000#32⟩], ports := [(2, { u with
      linkState := 0x20000000, retriesLeft := 1, entryAt := 0, entryDeadline := some 1000000 })] }

/-- Port 2 after a command. -/
def port2 (i : Instr) (s : State) : Port := (after i s).port 2

theorem witness_training :
    (∀ a ∈ [0, 1, 3, 4, 5, 6, 7, 9], ((training a {}).trainEntry 2).map (·.action) = some a ∧ ((training a {}).port 2).entryAt = 0) ∧
    (port2 (.detect 2 true) (training 0 {})).state = lsActive ∧ (port2 (.detect 2 false) (training 0 {})).retriesLeft = 0 ∧
    (port2 (.deskew 2 ⟨64, true, 5#4⟩) (training 1 {})).state = lsActive ∧ (port2 (.deskew 2 ⟨65, true, 5#4⟩) (training 1 {})).state = lsTraining ∧
    (port2 (.setGen 2 true) (training 3 {})).state = lsActive ∧ (port2 (.eqPreset 2) (training 4 {})).state = lsActive ∧
    (port2 (.eqAdapt 2 none) (training 5 {})).state = lsTraining ∧ (port2 (.eqAdapt 2 (some 64)) (training 5 {})).state = lsActive ∧
    (port2 (.eqAdapt 2 (some 65)) (training 5 {})).state = lsTraining ∧
    [0, 0x3F800000#32].all (fun r => ratioAtMost r 0x3F800000#32) = true ∧ ratioAtMost 0x40000000#32 0x3F800000#32 = false ∧
    (port2 (.berCheck 2 [0, 0x3F800000#32, 0, 0]) (training 6 {})).state = lsActive ∧
    (port2 (.berCheck 2 [0, 0x40000000#32, 0, 0]) (training 6 {})).state = lsTraining ∧
    (port2 (.delay 2) (training 7 {})).state = lsActive ∧
    (port2 (.linkUp 2 true) (training 9 {})).state = lsActive ∧ (port2 (.linkUp 2 false) (training 9 {})).retriesLeft = 0 ∧
    (port2 (.trainingTimeout 2) (training 0 {})).retriesLeft = 0 := by decide +kernel

def capBlock (mask : BitVec 3) : CapBlock := ⟨2, 7, mask, [3, 3, 3, 3, 3, 3], []⟩

theorem witness_exchange_and_fallback :
    let e := training 2 {}
    let f := training 8 { partnerMask := 3#3 }
    let n := training 8 { partnerMask := 4#3 }
    ((e.trainEntry 2).map (·.action)) = some 2 ∧ negotiatedGen (e.port 2).genMask 3 (e.port 2).target = some 2 ∧
    (port2 (.exchange 2 (some (capBlock 3#3))) e).negotiated = 2 ∧ (port2 (.exchange 2 (some (capBlock 3#3))) e).gen = 2 ∧
    negotiatedGen (e.port 2).genMask 0 (e.port 2).target = none ∧
    (port2 (.exchange 2 (some (capBlock 0#3))) e).state = lsFailed ∧ (port2 (.exchange 2 none) e).retriesLeft = 0 ∧
    (port2 (.exchange 2 none) e).sentBlock.isSome = true ∧
    ((f.trainEntry 2).map (·.action)) = some 8 ∧ (f.port 2).target = 3 ∧
    negotiatedGen (f.port 2).genMask (f.port 2).partnerMask.toNat 2 = some 2 ∧ (port2 (.fallback 2) f).target = 2 ∧
    negotiatedGen (n.port 2).genMask (n.port 2).partnerMask.toNat 2 = none ∧ (port2 (.fallback 2) n).state = lsFailed := by decide +kernel

/-- The actions of the default table, as Table 13-7 names them (codes of Table 13-6). -/
theorem test_default_training_table : State.reset.trainTable.map (·.action) = [0, 1, 2, 3, 4, 5, 6, 8, 9] := by decide +kernel

theorem witness_loss_of_lock :
    (netDev.port 2).state = lsActive ∧ netDev.trainTable ≠ [] ∧
    (let z := netDev.modPort 2 (fun u => { u with input := [⟨0, mkCell clReq 0 []⟩, ⟨1, mkCell clReq 1 []⟩], struck := [⟨0, mkCell clReq 0 []⟩] })
     (after (.lossOfLock 2 1#4) z).xpt.injected = [mkCell clReq 1 []]) ∧ (port2 (.lossOfLock 2 1#4) netDev).state = lsTraining ∧
    fld (port2 (.lossOfLock 2 1#4) netDev).linkState 39 36 = lcLossOfLock := by decide +kernel

/-- A cell that waits at port 2, and the body of the frame that carries it. -/
def waitCell : VcCell := ⟨0, mkCell clReq (headerA 2 3 3 0) [1#8]⟩
def waiting : State := netDev.modPort 2 (fun u => { u with waiting := [waitCell] })
def body1 (seq : BitVec 12) : List Byte := frameBody [waitCell] (controlWord [waitCell] seq 0 false 0 [])

theorem witness_frame_transmit :
    let t := after (.frameTransmit 2) waiting
    let r := t.modPort 2 (fun u => { u with replaying := some 0 })
    waiting.frameGen 2 = some (waiting.port 2).gen ∧ (waiting.port 2).replaying = none ∧ (waiting.port 2).replay.length < replayBodies ∧
    (Port.pickCells waiting.classWeights 4 (waiting.port 2)).1 = [waitCell] ∧ (t.port 2).seq = 1 ∧ (t.port 2).waiting = [] ∧
    (t.port 2).replay.map (·.1) = [0] ∧ (port2 (.frameTransmit 2) netDev).seq = 0 ∧
    ((r.port 2).replay.find? (fun b => b.1 == 0)).isSome = true ∧ (port2 (.frameTransmit 2) r).seq = 1 ∧
    (port2 (.frameTransmit 2) r).lastFrame = (t.port 2).lastFrame := by decide +kernel

theorem witness_frame_receive :
    let s := netDev.modPort 2 (fun u => { u with allot := [(0, 2)], rxScr := [1, 2, 3, 4] })
    let w (seq : BitVec 12) : List Byte := (scrambled (body1 seq) 0 [1, 2, 3, 4]).1
    s.frameGen 2 = some (s.port 2).gen ∧ decodeFrame (s.port 2).gen ((s.port 2).descrambled []).1 = none ∧
    (port2 (.frameReceive 2 ⟨[], []⟩) s).nakDue = true ∧
    decodeFrame (s.port 2).gen ((s.port 2).descrambled (w 0)).1 = some (body1 0, 0) ∧ (bodyCells (body1 0)).map (·.vc) = [0] ∧
    lcFld (bodyWord (body1 0)) 48 48 = 0 ∧ lcFld (bodyWord (body1 0)) 50 49 = 0 ∧ lcFld (bodyWord (body1 0)) 3 0 = 1 ∧
    lcFld (bodyWord (body1 0)) 35 24 = 0 ∧ (s.port 2).overfilled (body1 0) = false ∧
    (port2 (.frameReceive 2 ⟨(w 0), []⟩) s).input = bodyCells (body1 0) ∧ (port2 (.frameReceive 2 ⟨(w 0), []⟩) s).expected = 1 ∧
    lcFld (bodyWord (body1 3)) 35 24 = 3 ∧ (port2 (.frameReceive 2 ⟨(w 3), []⟩) s).nakDue = true ∧
    (port2 (.frameReceive 2 ⟨(w 3), []⟩) s).expected = 0 := by decide +kernel

theorem witness_frame_timers :
    let s := netDev.modPort 2 (fun u => { u with replayAt := some 1000000, replay := [(7, [])], nakAt := some 1000000 })
    let l := s.modPort 2 (fun u => { u with replays := 8 })
    (s.port 2).replayAt = some 1000000 ∧ s.now = 1000000 ∧ (port2 (.replayTimeout 2) s).replaying = some 7 ∧
    (port2 (.replayTimeout 2) s).replays = 1 ∧ (port2 (.replayTimeout 2) l).state = lsTraining ∧
    (port2 (.receiverNakTimeout 2) s).nakDue = true := by decide +kernel

theorem witness_quiet :
    let r := netDev.modPort 2 (fun u => { u with returns := [(3, 1)] })
    let q := { after (.quietIdleExpiry 2) netDev with now := 2000000 }
    (netDev.port 2).pm = .none ∧ (netDev.port 2).idleSince + (netDev.port 2).idleNs ≤ netDev.now ∧
    (netDev.port 2).quietRefuser netDev.now = none ∧ (q.port 2).pm = .requested ∧ (r.port 2).quietRefuser r.now = some 2 ∧
    (let z := netDev.modPort 2 (fun u => { u with scanUntil := 2000000 })
     (z.port 2).replay = [] ∧ (z.port 2).returns = [] ∧ z.now < (z.port 2).scanUntil ∧
     fld (port2 (.quietIdleExpiry 2) z).pmStat 3 0 = 4) ∧
    fld (port2 (.quietIdleExpiry 2) r).pmStat 3 0 = 2 ∧ (((q.port 2).pmAt).map (fun t => decide (t ≤ q.now))) = some true ∧
    fld (port2 (.quietReqTimeout 2) q).pmStat 3 0 = 3 ∧
    (let z := netDev.modPort 2 (fun u => u.setState lsQuiet 2)
     (z.port 2).state = lsQuiet ∧ (port2 (.wakeBurst 2) z).state = lsActive ∧ (port2 (.wakeBurst 2) z).gen = 2) := by decide +kernel

theorem witness_port_registers :
    let off := netDev.modPort 2 (fun u => { u with cfg := 0x78014004#32 })
    let test := netDev.modPort 2 (fun u => u.setState lsTest 1)
    let run := after (.cufLanePrbsCtlWrite 2 3 0x40000000) test
    let bits := prbsStream 0 (List.replicate 7 true) 128
    let lock := after (.prbsCheckerLock false 2 ⟨3, bits⟩) run
    (after (.cufPortCfgWrite 2 0xF8014000) netDev).ports = netDev.ports ∧ (port2 (.cufPortCfgWrite 2 0xF8014008) netDev).cfg = 0xF8014008#32 ∧
    (port2 (.cufPortCfgWrite 2 0x78014004) netDev).state = lsOff ∧ (port2 (.cufPortCfgWrite 2 0xF8014004) off).state = lsTraining ∧
    prbsCtlReserved 0x40000000#32 = false ∧ (test.port 2).state = lsTest ∧
    fld32 (sget prbsCtlDefault (run.port 2).prbsCtl 3) 30 30 = 1 ∧ fld32 (sget prbsCtlDefault (lock.port 2).prbsCtl 3) 29 29 = 1 ∧
    prbsLocks (sget prbsCtlDefault (run.port 2).prbsCtl 3) bits = true ∧
    sget 0 (port2 (.prbsCheckerLossOfLock false 2 3 4096 ⟨70, 1000⟩) lock).prbs 3 = 0x4000046 ∧
    fld32 (sget prbsCtlDefault (port2 (.cufLanePrbsCtlWrite 2 3 0) lock).prbsCtl 3) 29 29 = 0 := by decide +kernel

/-! ### The memory system -/

theorem witness_memory_lines :
    let t := after (.lineAtomic 0x100008 0 5 0 ⟨.dma, []⟩) dev
    dev.mem.deltaOf (0x100008 / 64) = 0 ∧ (after (.lineRead 0x100008 .dma []) dev).mem = dev.mem ∧
    leAt (t.mem.line (0x100008 / 64)) 8 8 = 5 ∧
    (let p := { dev with mem := { dev.mem with delta := [(0x100008 / 64, poisonDelta)] } }
     p.mem.deltaOf (0x100008 / 64) = poisonDelta ∧ (p.group (groupOf (channelOf 0x100000))).selfRefresh = false ∧ sget 0 (after (.lineAtomic 0x100008 0 5 0 ⟨.dma, []⟩) p).mem.bytes 0x100008 = 0) := by
  decide +kernel

theorem witness_self_refresh :
    let s := dev.modGroup 3 (fun g => { g with srCfg := g.srCfg ||| 0x80000000#32, scrubDue := 2000000, srDue := some 1000000 })
    let h := s.modGroup 3 (fun g => { g with hold := true })
    (s.group 3).selfRefresh = false ∧ bitOf (s.group 3).srCfg.toNat 31 = true ∧
    dueBy (s.group 3).srDue s.now = true ∧ srRefuser s 3 = 0 ∧
    ((after (.selfRefreshEntry 3) s).group 3).selfRefresh = true ∧ srRefuser h 3 = 3 ∧
    ((after (.selfRefreshEntry 3) h).group 3).selfRefresh = false ∧
    ((after (.selfRefreshExit 3) (after (.selfRefreshEntry 3) s)).group 3).selfRefresh = false := by decide +kernel

/-- Every group in self-refresh, and a line's group and channel. -/
def resting : State := (List.range 16).foldl (fun t g => t.modGroup g (fun v => { v with selfRefresh := true })) dev
def restCh : Nat := channelOf 0x100000

theorem witness_waiting_transaction :
    let w := after (.lineWrite 0x100000 [7#8] false ⟨.dma, []⟩) resting
    trafficNumber .dma = some 0 ∧ (resting.group (groupOf restCh)).selfRefresh = true ∧ (resting.channel restCh).room 0 = true ∧
    w.mem = dev.mem ∧ (w.channel restCh).slots = [⟨0, 0x100000 / 64, .write 0 [7#8] false []⟩] ∧ w.mesh.memReq = [] ∧
    (List.range 8).all (fun i => 8 * groupOf restCh + i == restCh || (w.channel (8 * groupOf restCh + i)).slots == []) = true ∧
    sget 0 (w.act ⟨0, 0x100000 / 64, .write 0 [7#8] false []⟩).mem.bytes 0x100000 = 7 ∧
    (let f := resting.modChannel restCh (fun v => { v with slots := List.replicate 64 ⟨0, 0, .read []⟩ })
     (f.channel restCh).room 0 = false ∧ (after (.lineRead 0x100000 .dma []) f).mesh.memReq.length = 1) := by decide +kernel

theorem witness_scrubs :
    (dev.group 3).selfRefresh = false ∧ bitOf (dev.group 3).scrubCfg.toNat 31 = true ∧
    dev.mem.deltaOf (scrubLine 3 (dev.group 3).scrubNext) = 0 ∧ ((after (.patrolScrub 3 []) dev).group 3).scrubNext = 1 ∧
    (dev.cluster 2).power = .on ∧ sget none (dev.cluster 2).cm.bad 9 = none ∧
    ((after (.sramPatrolScrub (.cluster 2) 9 (some .single)) dev).cluster 2).cm.bad = [] ∧
    sget none dev.lantern.sram.bad 9 = none ∧ (after (.sramPatrolScrub .lantern 9 (some .single)) dev).ras.fatal = false ∧
    (after (.sramPatrolScrub .lantern 9 (some .double)) dev).ras.fatal = true ∧ sget none dev.power.wardrobe.bad 9 = none ∧
    (after (.sramPatrolScrub .wardrobe 9 (some .double)) dev).ras.fatal = true := by decide +kernel

theorem witness_walk :
    dev.tlbHit 0 .coreDma 3 (0x20000000 / 65536) = false ∧ (dev.ctx 0).state = .running ∧
    (dev.lookup 0 .coreDma .read 0x20000000).isOk = true ∧
    (after (.walk 0 .coreDma 3 .read 0x20000000) dev).tlbHit 0 .coreDma 3 (0x20000000 / 65536) = true ∧
    (after (.walk 0 .coreDma 3 .read 0x20000000) (after (.walk 0 .coreDma 3 .read 0x20000000) dev)).clusters =
      (after (.walk 0 .coreDma 3 .read 0x20000000) dev).clusters ∧
    dev.tlbHit 0 .coreDma 3 (0x90000000 / 65536) = false ∧ (dev.lookup 0 .coreDma .read 0x90000000).isOk = false ∧
    ((after (.walk 0 .coreDma 3 .read 0x90000000) dev).ctx 0).state = .stopped ∧ agentInbound .inbound = true ∧
    dev.tlbHit 0 .inbound 0 (0x90000000 / 65536) = false ∧ (dev.lookup 0 .inbound .read 0x90000000).isOk = false ∧
    ((after (.walk 0 .inbound 0 .read 0x90000000) dev).ctx 0).state = .running := by decide +kernel

/-! ### The host port -/

/-- dev with the host port up, its address 10.0.0.2 and queue pair 1 connected. -/
def hostDev : State :=
  { dev with hp := { linkUp := true, ipv4 := 0x0A000002#32, mac := 0x02A1B2C3D4E5#48, bufferFill := 100
                     qps := [(1, { state := .connected, retriesLeft := 7, rate := 1000, retry := 7, t := 1 })]
                     regions := [(0, some ⟨1, 0x55#32, 0, 0x40000000⟩)], windows := [(0, some ⟨0, 0x20000000, 4096, 9⟩)] } }

theorem witness_frames :
    let good : EthFrame := ⟨64, true, false, some 3, none, none⟩
    let bad : EthFrame := ⟨63, true, false, none, none, none⟩
    hostDev.hp.linkUp = true ∧ good.len = 64 ∧ hostDev.secOk good = true ∧ hostDev.hp.bufferFill + 64 ≤ bufferBytes ∧
    bad.len < 64 ∧ (after (.ethernetFrame bad) hostDev).hp.discards = 1 := by decide +kernel

theorem witness_pauses :
    let p := after (.pfcFrame (List.replicate 7 none ++ [some 65535])) hostDev
    let q := { p with now := 2000000000, hp := { p.hp with held := [(7, 0, [1])] } }
    p.paused 7 = true ∧ p.paused 3 = false ∧ q.paused 7 = true ∧ sget 0 q.hp.pauseUntil 7 ≤ q.now ∧
    (after (.pfcPauseExpiry 7) q).paused 7 = false ∧ (after (.pfcPauseExpiry 7) q).hp.sent = [(0, [1])] ∧
    (after (.pfcFrame (List.replicate 7 none ++ [some 0])) q).hp.sent = [(0, [1])] := by decide +kernel

theorem witness_arp :
    hostDev.hpOpen = true ∧ hostDev.paused 0 = false ∧ hostDev.hp.ipv4 ≠ 0 ∧
    (after (.arpNdIcmp (.arp 0x0A000002#32)) hostDev).hp.sent = [(skAnswer, [0#8, 0x02#8, 0xA1#8, 0xB2#8, 0xC3#8, 0xD4#8, 0xE5#8])] ∧
    (after (.arpNdIcmp (.arp 0x0A000003#32)) hostDev).hp = hostDev.hp := by decide +kernel

theorem witness_host_link :
    let d := after .hostPortLinkDown hostDev
    let t := { hostDev with hp := { hostDev.hp with testUntil := some 1000000, linkUp := false } }
    let b := { hostDev with hp := { hostDev.hp with chunks := [⟨0, 1, 0, true, ⟨.cm, 0⟩, 0, 0, none, 8, 0, 1, 0, true, 0, 0, []⟩] } }
    d.hp.linkUp = false ∧ d.lantern.running = true ∧ d.hp.testUntil = none ∧ d.pins.refSerdes = true ∧
    (after .hostPortLinkUp d).hp.linkUp = true ∧ (after .hostPortTestReturn t).hp.linkUp = true ∧
    hpCfgReserved 0x03600000#32 = false ∧ fld32 0x03600001#32 2 0 ≠ hostDev.hpMode ∧ hostDev.qpBusy = false ∧ b.qpBusy = true ∧
    (after (.hpPortCfgWrite 0x03600001) hostDev).hp.linkUp = false ∧ (after (.hpPortCfgWrite 0x04600000) hostDev).hp.linkUp = true ∧
    (after (.hpPortCfgWrite 0x03600001) b).hp = b.hp := by decide +kernel

/-- A chunk that reads 8 bytes of the far region to cluster memory, and one that writes 8 bytes. -/
def readChunk : HostChunk := ⟨0, 1, 0, false, ⟨.cm, 64⟩, 0x80000000000, 0x60000000, none, 8, 0, 0, 0, false, 0, 0, []⟩
def writeChunk : HostChunk := { readChunk with toFar := true, issued := true, qp := 1, data := [3#8] }
def chunkDev (h : HostChunk) : State := { hostDev with hp := { hostDev.hp with chunks := [h] } }

theorem witness_host_dma :
    let s := chunkDev readChunk
    let i := after (.hostDmaChunk 4 0) s
    let w := chunkDev writeChunk
    readChunk.collects = false ∧ s.paused s.rocePcp = false ∧
    (match s.farSide { readChunk with engine := 4 } with | .ok pa => pa == 0x80000000000 | .error _ => false) = true ∧
    s.chunkQp readChunk = some 1 ∧ (s.qp 1).state = .connected ∧
    i.hp.chunks.map (fun h => (h.issued, h.engine, h.qp)) = [(true, 4, 1)] ∧ (i.qp 1).ackAt = some 1008192 ∧
    w.oldestOn 1 = some writeChunk ∧ writeChunk.toFar = true ∧ (after (.rdmaAck 1) w).hp.farOut = [(0, 0, [3#8])] ∧
    i.oldestOn 1 = some { readChunk with issued := true, engine := 4, qp := 1 } ∧
    (i.chunkLands { readChunk with issued := true, engine := 4, qp := 1 } 0 [1#8, 2#8, 3#8, 4#8, 5#8, 6#8, 7#8, 8#8]).isOk = true ∧
    (after (.rdmaReadResponse 1 0 [1#8, 2#8, 3#8, 4#8, 5#8, 6#8, 7#8, 8#8] true) i).hp.chunks = [] ∧
    ((after (.rdmaReadResponse 1 0 [1#8, 2#8, 3#8, 4#8, 5#8, 6#8, 7#8, 8#8] false) i).cluster 0).cm.byte 71 = 8 := by decide +kernel

theorem witness_host_dma_write :
    let h : HostChunk := { readChunk with toFar := true }
    let s := chunkDev h
    let z := { readChunk with near := ⟨.unlisted, 0⟩, relay := some 0x60000100, issued := true, qp := 1 }
    (match s.farSide { h with engine := 4 } with | .ok pa => pa == 0x80000000000 | .error _ => false) = true ∧
    (match s.chunkSource { h with engine := 4 } with | .ok r => !r.2.any (·.2) | .error _ => false) = true ∧
    (after (.hostDmaChunk 4 0) s).hp.chunks.map (fun g => (g.issued, g.qp, g.data.length)) = [(true, 1, 8)] ∧
    (chunkDev z).oldestOn 1 = some z ∧
    (after (.rdmaReadResponse 1 0 [1#8, 2#8] false) (chunkDev z)).hp.chunks.map (fun g => g.data.length) = [8] := by decide +kernel

theorem witness_queue_pair :
    let s := hostDev.setQp 1 { hostDev.qp 1 with ackAt := some 1000000 }
    let l := s.setQp 1 { s.qp 1 with retriesLeft := 0 }
    (s.qp 1).state = .connected ∧ ((after (.rdmaAckTimeout 1) s).qp 1).retriesLeft = 6 ∧
    ((after (.rdmaAckTimeout 1) l).qp 1).state = .error ∧ ((after (.rdmaNak 1 true) s).qp 1).state = .error ∧
    ((after (.cnp 1) s).qp 1).rate = 1000 ∧
    ((after (.rateIncrease 1) { after (.cnp 1) s with now := 1055000 }).qp 1).rate = 81000 := by decide +kernel

theorem witness_windows :
    (hostDev.windowFor 9 0x20000FF8 8).isSome = true ∧ hostDev.windowFor 9 0x20000FF9 8 = none ∧
    (hostDev.writeVa 0 .hostDma 0x20000FF8 [1#8, 2#8, 3#8, 4#8, 5#8, 6#8, 7#8, 8#8] false).isOk = true ∧
    sget 0 (after (.rdmaWriteReceive 1 9 0x20000FF8 [1#8, 2#8, 3#8, 4#8, 5#8, 6#8, 7#8, 8#8]) hostDev).mem.bytes 0x20000FFF = 8 ∧
    (after (.rdmaWriteReceive 1 9 0x20000FF9 [1#8, 2#8, 3#8, 4#8, 5#8, 6#8, 7#8, 8#8]) hostDev).hp.windowRefusals = 1 ∧
    (match hostDev.readVa 0 .hostDma 0x20000FF8 8 with | .ok r => !r.2.2 | .error _ => false) = true ∧
    hostDev.hpOpen = true ∧ hostDev.paused hostDev.rocePcp = false ∧
    (after (.rdmaReadReceive 1 9 0x20000FF8 8) hostDev).hp.sent = [(skRdma, [1#8, 0#8, 0#8, 0#8, 0#8, 0#8, 0#8, 0#8, 0#8, 0#8])] ∧
    (after (.rdmaReadReceive 1 9 0x20000FF9 8) hostDev).hp.windowRefusals = 1 := by decide +kernel

/-! ### Sessions, contexts and memory -/

/-- A request of session 1 with a payload of n bytes. -/
def rq (n : Nat) : Req := ⟨1, n, 0⟩

/-- The status of the last response. -/
def answer (s : State) : Option Status := s.lantern.lastResponse.map (·.status)

theorem witness_refused_request :
    let i : Instr := .ctxStatus ⟨1, 7, 0⟩ 0
    mailboxRow i = some (⟨1, 7, 0⟩, 0x14, 8, some 0) ∧ (cmdInfo 0x14).isSome = true ∧ hostDev.lantern.running = true ∧
    hostDev.mustWait 1 (some 0) = false ∧ ((cmdInfo 0x14).bind (fun f => hostDev.commonCheck ⟨1, 7, 0⟩ f 8 (some 0))) = some genLength ∧
    answer (after i hostDev) = some genLength := by decide +kernel

theorem witness_sessions :
    let o := after (.sessionOpen ⟨0, 16, 0⟩ 0x0A000009 77 2 1 3600 5) hostDev
    let e := { hostDev with now := 60000000000 }
    hostDev.accepts ⟨0, 16, 0⟩ 0x01 16 none = true ∧ hostDev.recentOpen 0x0A000009 77 5 = none ∧
    (hostDev.lantern.sessions.filter (·.admin)).length = 1 ∧ o.lantern.sessions.length = 2 ∧ answer o = some stDone ∧
    hostDev.accepts (rq 0) 0x02 0 none = true ∧ (after (.sessionClose (rq 0)) hostDev).lantern.sessions = [] ∧
    e.session 1 = some sess ∧ sess.heardAt + sess.timeoutS * 1000000000 ≤ e.now ∧
    (after (.sessionTimeout 1) e).lantern.sessions = [] ∧
    hostDev.accepts (rq 0) 0x03 0 none = true ∧
    hostDev.accepts (rq 8) 0x04 8 none = true ∧ (after (.deviceReset (rq 8) 0) hostDev).lantern.resetAt = some 11000000 := by
  decide +kernel

/-- A datagram of version 1 that asks DEVICE_INFO of a session. -/
def datagram (session : Nat) : List Byte :=
  leFields [(2, 0x4D4C), (1, 1), (1, 0), (2, session), (2, 3), (2, 1), (2, 0), (2, 0), (2, 0)]

theorem witness_datagrams :
    let a := { hostDev with lantern := { hostDev.lantern with announceAt := 1000000 } }
    let n := hostDev.modSessions (fun _ => true) (fun z => { z with notices := [⟨1, 4, 0, 0, [], 1000000⟩], version := 1 })
    a.lantern.announceAt ≤ a.now ∧ a.hpOpen = true ∧ a.paused a.lmpPcp = false ∧ (after .announce a).hp.sent.length = 2 ∧
    (n.session 1).isSome = true ∧ (after (.noticeResend 1) n).hp.sent.length = 1 ∧
    (parseLmp []).isNone = true ∧ (after (.lmpDatagram 1 2 []) hostDev).lantern.discards = 1 ∧
    hostDev.lantern.recovery = false ∧ ((parseLmp (datagram 9)).map (fun d => (d.type, d.session))) = some (0, 9) ∧
    hostDev.session 9 = none ∧ answer (after (.lmpDatagram 1 2 (datagram 9)) hostDev) = some genNoSession ∧
    ((parseLmp (datagram 1)).map (fun d => (d.type, d.session, d.version))) = some (0, 1, 1) ∧
    ((n.session 1).map (fun z => (z.addr, z.port, z.version))) = some (0x0A000001, 5000, 1) := by decide +kernel

/-- dev with context 0 in a state. -/
def ctxDev (st : CtxState) : State := hostDev.modCtx 0 (fun v => { v with state := st })

theorem witness_contexts :
    let l := ctxDev .loaded
    let st := ctxDev .stopped
    hostDev.accepts (rq 8) 0x10 8 none = true ∧ (hostDev.ctx 5).state = .free ∧ hostDev.freeClusters.length = 15 ∧
    (List.range 16).all (fun y => (hostDev.ctx y).state == .free || (hostDev.ctx y).rtag != 15) = true ∧
    l.accepts (rq 8) 0x11 8 (some 0) = true ∧ (after (.ctxFree (rq 8) 0) l).ctx 0 = {} ∧
    st.accepts (rq 8) 0x12 8 (some 0) = true ∧ (st.ctx 0).state ≠ .evicted ∧
    ((after (.ctxReset (rq 8) 0 1) st).ctx 0).state = .loaded ∧ ((after (.ctxReset (rq 8) 0 1) st).ctx 0).program = none ∧
    hostDev.accepts (rq 16) 0x13 16 (some 0) = true ∧ answer (after (.ctxAttach (rq 16) 0 0 7) hostDev) = some stDone ∧
    ((after (.ctxAttach (rq 16) 0 1 7) hostDev).ctx 0).sessions = [] ∧
    hostDev.accepts (rq 8) 0x14 8 (some 0) = true ∧ answer (after (.ctxStatus (rq 8) 0) hostDev) = some stDone ∧
    l.accepts (rq 24) 0x15 24 (some 0) = true ∧ l.rangePinned 0 0x20000000 65536 = true ∧
    ((after (.pocketCfg (rq 24) 0 0x20000000 65536) l).ctx 0).ovfLen = 65536 := by decide +kernel

/-- An EVICTED context that gets its clusters back. -/
theorem witness_reset_evicted :
    let s := hostDev.modCtx 0 (fun v => { v with state := .evicted, clusters := [], hadClusters := 1 })
    s.accepts (rq 8) 0x12 8 (some 0) = true ∧ (s.ctx 0).hadClusters ≤ s.freeClusters.length ∧
    ((after (.ctxReset (rq 8) 0 0) s).ctx 0).state = .loaded ∧ ((after (.ctxReset (rq 8) 0 0) s).ctx 0).clusters.length = 1 := by
  decide +kernel

/-- dev with a table of pages at 2 GiB whose first page is mapped for reading and writing. -/
def pageDev : State :=
  { hostDev with
    mem := (hostDev.mem.putBytes 0x17F00010020 (leBytes 8 0x17F00020001)).putBytes 0x17F00020000 (leBytes 8 (0x30000000 + 0x1B)) }

theorem witness_memory_commands :
    let s := pageDev
    let u := after (.unmap (rq 24) 0 0x80000000 65536) s
    s.accepts (rq 24) 0x21 24 (some 0) = true ∧ rangeMisaligned 0x80000000 65536 = false ∧ s.allMapped 0 0x80000000 65536 = true ∧
    s.anyLeaf 0 0x80000000 65536 ptePinned = false ∧ s.rangeBusy 0 0x80000000 65536 = false ∧
    (s.unmapRange 0 0x80000000 65536).isSome = true ∧ answer u = some stDone ∧
    (s.lookup 0 .scalar .read 0x80000000).isOk = true ∧ (u.lookup 0 .scalar .read 0x80000000).isOk = false ∧
    s.accepts (rq 24) 0x22 24 (some 0) = true ∧ rightsBad 0x08 = false ∧
    s.anyLeaf 0 0x80000000 65536 (fun e => ptePinned e != bitOf 0x08 7 || pteFar e != bitOf 0x08 6) = false ∧
    (s.rewrite 0 0x80000000 65536 (fun e => withFld e 8 3 1)).isSome = true ∧
    answer (after (.protect (rq 24) 0 0x08 0x80000000 65536) s) = some stDone := by decide +kernel

theorem witness_memory_access :
    let s := pageDev
    let io : FarIO := ⟨[9#8, 8#8], 0⟩
    s.accepts (rq 16) 0x23 16 (some 0) = true ∧ (s.translateRange 0 .scalar .read 0x40000010 8).isOk = true ∧
    s.accepts (rq 17) 0x24 17 (some 0) = true ∧ (s.writeVa 0 .scalar 0x40000010 [7#8] false).isOk = true ∧
    sget 0 (after (.memWrite (rq 17) 0 0x40000010 1 [7#8]) s).mem.bytes 0x40000010 = 7 ∧
    s.accepts (rq 32) 0x25 32 (some 0) = true ∧ (State.xfer 0 0 0 0x40000010 0 2 io 1 0 s).2 = (2, false) ∧
    sget 0 (after (.memXfer (rq 32) 0 0 0 0x40000010 0 2 io) s).mem.bytes 0x40000011 = 8 := by decide +kernel

/-- Vacant memory is found wherever the free choice points. -/
theorem placeFree_of_vacant (used : List (Nat × Nat)) (lo hi align n pick : Nat) (h : isVacant used lo hi lo n = true) :
    (placeFree used lo hi align n pick).isSome = true := by
  unfold placeFree
  rw [List.find?_isSome]
  exact ⟨lo, by simp, h⟩

theorem takeNear_of_vacant (s : State) (n align : Nat) (h : isVacant s.nearUsed 0 firmwareBase 0 n = true) :
    ∃ a, s.takeNear n align = some (a, s.drawn) := by
  unfold State.takeNear
  cases hp : placeFree s.nearUsed 0 firmwareBase align n (Config.freeNat s.freeCtr) with
  | none => simpa [hp] using placeFree_of_vacant _ _ _ align _ (Config.freeNat s.freeCtr) h
  | some a => exact ⟨a, rfl⟩

theorem putPage_pageDev (e : Word64) : (pageDev.drawn.putPage 0 0x80010000 e).isSome = true := by rfl

theorem witness_map_near :
    pageDev.accepts (rq 32) 0x20 32 (some 0) = true ∧ rightsBad 0x18 = false ∧ pageDev.noneMapped 0 0x80010000 65536 = true ∧
    bitOf 0x18 6 = false ∧ (pageDev.mapNear 0 0x18 0x80010000 65536).isSome = true := by
  refine ⟨by decide +kernel, by decide +kernel, by decide +kernel, by decide +kernel, ?_⟩
  obtain ⟨a, ha⟩ := takeNear_of_vacant pageDev 65536 65536 (by decide +kernel)
  obtain ⟨t, ht⟩ := Option.isSome_iff_exists.mp (putPage_pageDev (leafEntry 0x18 a))
  have hs : spans29 0x80010000 65536 = [(0x80010000, 65536)] := by decide +kernel
  have hp : (pagePieces 0x80010000 65536).map (·.1) = [0x80010000] := by decide +kernel
  have hb : ¬(65536 : Nat) = blockBytes29 := by decide
  simp [State.mapNear, hs, eachSome, State.mapNearSpan, hb, hp, State.mapNearPage, ha, ht]

theorem witness_map_far :
    let s := pageDev
    s.accepts (rq 32) 0x20 32 (some 0) = true ∧ rightsBad 0x58 = false ∧ s.noneMapped 0 0x80010000 65536 = true ∧
    bitOf 0x58 6 = true ∧ s.farTarget 0x80000010000 65536 = true ∧ (s.mapFar 0 0x58 0x80010000 65536 0x80000010000).isSome = true ∧
    answer (after (.map (rq 32) 0 0x58 0x80010000 65536 0x80000010000) s) = some stDone := by decide +kernel

/-- A device whose contexts hold nothing of the firmware region has room for a page table. -/
theorem newTable_of_none (s : State) (x : Nat) (h : s.firmwareUsed = []) : (s.newTable x).isSome = true := by
  unfold State.newTable
  rw [Option.isSome_map, h]
  exact placeFree_of_vacant _ _ _ _ _ _ (by decide +kernel)

/-- A context without page tables and mappings takes nothing of the firmware region. -/
theorem firmwareUsed_setCtx (s : State) (x : Nat) (v : Ctx) (hv : v.tables = [] ∧ v.maps = [])
    (h : ∀ y, (s.ctx y).tables = [] ∧ ∀ m ∈ (s.ctx y).maps, m.2.2 < firmwareBase) : (s.setCtx x v).firmwareUsed = [] := by
  have hc : ∀ y, ((s.setCtx x v).ctx y).tables = [] ∧ ∀ m ∈ ((s.setCtx x v).ctx y).maps, m.2.2 < firmwareBase := by
    intro y
    unfold State.ctx State.setCtx
    rw [sget_sset]
    split
    · simp [hv.1, hv.2]
    · exact h y
  unfold State.firmwareUsed
  rw [List.flatMap_eq_nil_iff]
  intro y _
  simp only [(hc y).1, List.map_nil, List.nil_append, List.filterMap_eq_nil_iff, ite_eq_right_iff, reduceCtorEq, imp_false]
  intro m hm
  have := (hc y).2 m hm
  omega

theorem hostDev_firmware (y : Nat) : (hostDev.ctx y).tables = [] ∧ ∀ m ∈ (hostDev.ctx y).maps, m.2.2 < firmwareBase := by
  simp only [State.ctx, hostDev, dev, sget]
  split <;> simp [firmwareBase]

theorem witness_ctx_create :
    (∃ x, x < 16 ∧ (hostDev.ctx x).state = .free) ∧
    ∀ x, (hostDev.drawn.createCtx x 1 2 15 (bitOf (0 : BitVec 16).toNat 0)).isSome = true := by
  refine ⟨⟨5, by decide, by decide +kernel⟩, fun x => ?_⟩
  obtain ⟨z, hz⟩ := Option.isSome_iff_exists.mp
    (newTable_of_none _ x (firmwareUsed_setCtx (hostDev.drawn.chooseClusters 2).2.drawn x
      { state := .loaded, clusters := (hostDev.drawn.chooseClusters 2).1, rtag := 15
        handle := Config.freeWord64 (hostDev.drawn.chooseClusters 2).2.freeCtr, sessions := [1], saveClusters := 0 } ⟨rfl, rfl⟩
      hostDev_firmware))
  have hb : bitOf (0 : BitVec 16).toNat 0 = false := by decide
  simp only [State.createCtx, hb, Bool.false_eq_true, if_false]
  rw [hz]
  rfl

/-- The other answers of these commands: a session that holds a context already, a wrong handle, an attach that is repeated. -/
theorem witness_context_answers :
    let h : HeldCmd := ⟨.unmap (rq 24) 0 0x80000000 65536, 1, some 0, some (0x80000000, 65536)⟩
    let s := pageDev
    let b := { s with hp := { s.hp with chunks := [⟨0, 1, 0, false, ⟨.va, 0x80000040⟩, 0, 0x60000000, none, 8, 0, 1, 0, true, 0, 0, []⟩] } }
    answer (after (.ctxAttach (rq 16) 0 0 8) s) = some (ctxStatusCode 4) ∧ (s.ctx 0).sessions.contains 1 = true ∧
    answer (after (.deviceReset (rq 8) 1) s) = some genRange ∧
    b.accepts (rq 24) 0x21 24 (some 0) = true ∧ b.rangeBusy 0 0x80000000 65536 = true ∧
    (after (.unmap (rq 24) 0 0x80000000 65536) b).lantern.held = [h] ∧
    (let d := { s with lantern := { s.lantern with held := [h] } }
     d.pending = [] ∧ d.nextHeld [] d.lantern.held = some ([], h, []) ∧
     (match step d with | .next t => answer t == some stDone && t.lantern.held == [] | _ => false) = true ∧
     s.nextHeld [] s.lantern.held = none) := by decide +kernel

theorem witness_session_answers :
    let o := after (.sessionOpen ⟨0, 16, 0⟩ 0x0A000009 77 2 1 3600 5) hostDev
    let n := hostDev.modSessions (fun _ => true) (fun z => { z with kept := [⟨1, 3, 3, stDone, []⟩] })
    let ack := lmpBytes 2 2 1 0 0 2 0 []
    (o.recentOpen 0x0A000009 77 5).isSome = true ∧
    (after (.sessionOpen ⟨0, 16, 0⟩ 0x0A000009 77 2 1 3600 5) o).lantern.sessions.length = 2 ∧
    ((parseLmp ack).map (fun d => (d.type, d.session, d.version, d.ack))) = some (2, 1, 2, 2) ∧
    ((n.session 1).map (fun z => (z.addr, z.port, z.version))) = some (0x0A000001, 5000, 2) ∧
    (((after (.lmpDatagram 0x0A000001 5000 ack) n).session 1).map (fun z => (z.heardAt, z.kept.length))) = some (1000000, 1) ∧
    ((parseLmp (datagram 1)).map (·.type)) = some 0 := by decide +kernel

/-! ### Run control -/

/-- A read of region 0 that brings bytes. -/
theorem farRead_bound (s : State) (region offset n i : Nat) (io : FarIO) (h : s.regionQp region offset n = some i)
    (hn : n ≤ io.bytes.length) : s.farRead region offset n io = (s, .ok (io.bytes.take n)) := by
  simp [State.farRead, h, hn]

theorem witness_prog_load :
    let s := (ctxDev .loaded).modCtx 0 (fun v => { v with program := none })
    let io : FarIO := ⟨List.replicate 64 0#8, 0⟩
    s.accepts (rq 24) 0x30 24 (some 0) = true ∧ (s.ctx 0).state = .loaded ∧ (s.ctx 0).program = none ∧
    s.farRead 0 0 64 io = (s, .ok (List.replicate 64 0#8)) ∧
    answer (after (.progLoad (rq 24) 0 0 0 64 io) s) = some (zpcStatus 1) := by
  refine ⟨by decide +kernel, by decide +kernel, by decide +kernel, farRead_bound _ 0 0 64 1 _ (by decide +kernel) (by decide), ?_⟩
  decide +kernel

theorem witness_run_start :
    let s := ctxDev .loaded
    s.accepts (rq 8) 0x31 8 (some 0) = true ∧ (s.ctx 0).program.isSome = true ∧
    ((after (.runStart (rq 8) 0) s).core 3).scalar = .running ∧
    s.accepts (rq 16) 0x35 16 (some 0) = true ∧ 16 ≤ 16 * (s.ctx 0).clusters.length ∧
    ((after (.runStart (rq 8) 0) (after (.bisectStop (rq 16) 0 3 9) s)).core 3).stopCount = 9 ∧
    ((after (.bisectStop (rq 16) 0 0xFFFF 8) s).ctx 0).stopCount = 8 := by decide +kernel

theorem witness_resume_fault :
    let s := (ctxDev .stopped).modCtx 0 (fun v => { v with faults := [⟨2, 0, kNotMapped, 0, 0x40000000⟩] })
    s.accepts (rq 8) 0x32 8 (some 0) = true ∧ (s.ctx 0).stoppedResumably = true ∧ s.faultsMapped 0 = true ∧
    ((after (.runResumeFault (rq 8) 0) s).ctx 0).state = .running := by decide +kernel

theorem witness_debug_read :
    let s := { ctxDev .stopped with cores := [(0, { sregs := [(0, 0x0102#64)] })]
                                    lantern := { hostDev.lantern with debug := true } }
    s.accepts (rq 16) 0x36 16 (some 0) = true ∧ s.lantern.debug = true ∧ (s.ctx 0).state = .stopped ∧ s.quiescent 0 = true ∧
    (s.ctx 0).clusters.length = 1 ∧ debugSize 1 = 65536 ∧ debugSize 8 = 25165824 ∧
    (after (.debugRead (rq 16) 0 1 0 0 0 2) s).lantern.lastResponse.map (fun r => r.payload.drop 24) = some [2#8, 1#8] := by
  decide +kernel

/-- Table 15-2 as bytes: a Beacon of two members on one line. -/
def beaconBytes : List Byte :=
  leFields [(1, 6), (1, 1), (4, 0), (2, 50), (2, 9), (2, 0), (4, 2), (2, 2), (2, 1), (2, 1), (2, 1), (2, 1), (2, 1), (6, 1), (6, 0),
    (4, 1), (4, 0), (8, 0x20900000), (64, 0)] ++ List.replicate 8 0#8

theorem witness_cfg_record :
    let p : Program := { prog with buffers := [⟨1, 2, 0, 0x1000, 0x20900000⟩], colls := [beaconD] }
    let s := { (ctxDev .loaded).modCtx 0 (fun v => { v with program := some p }) with
      mem := pages.putBytes 0x20900002 [7#8], xpt := { topo := some ⟨1, 0, [2, 1, 1, 1, 1, 1], [(0, 0)], [1]⟩ } }
    s.accepts (rq 136) 0x50 136 (some 0) = true ∧ (s.ctx 0).program = some p ∧ s.activeColl 0 0 = none ∧
    collOk beaconBytes s.xpt.topo p.buffers (s.memContent 0) (cmSize - (s.ctx 0).pocketBytes) = true ∧ beaconBytes.length = 128 ∧
    ((after (.cfgRecord (rq 136) 0 7 0 beaconBytes) s).ctx 0).program.map (·.colls) = some [parseColl beaconBytes] ∧
    (parseColl beaconBytes).memberList = 0x20900000 := by decide +kernel

/-- dev under pre-emption, to suspend or to evict, saving or not. -/
def preDev (evict saving : Bool) : State :=
  hostDev.modCtx 0 (fun v => { v with nakAll := true, saveClusters := 1, preempt := some ⟨evict, 1000000, 1, saving⟩ })

theorem witness_preempt :
    let s := hostDev.modCtx 0 (fun v => { v with saveClusters := 1 })
    let o : Op := .mat (.mread mreadF)
    let b := fly o (preDev false false)
    s.accepts (rq 8) 0x33 8 (some 0) = true ∧ (s.ctx 0).hardStop = false ∧ (s.ctx 0).saveClusters ≠ 0 ∧
    ((after (.preemptSuspend (rq 8) 0 0) s).ctx 0).preempt = some ⟨false, 11000000, 1, false⟩ ∧
    ((after (.preemptEvict (rq 8) 0 7) s).ctx 0).preempt = some ⟨true, 8000000, 1, false⟩ ∧
    (preDev false false).drainMask 0 = 0 ∧ ((preDev false false).ctx 0).preempt = some ⟨false, 1000000, 1, false⟩ ∧
    ((after (.preemptDrained 0) (preDev false false)).ctx 0).state = .suspended ∧
    ((after (.preemptDrained 0) (preDev true false)).ctx 0).preempt = some ⟨true, 1000000, 1, true⟩ ∧
    b.drainMask 0 ≠ 0 ∧ 1000000 ≤ b.now ∧ ((after (.preemptDrainTimeout 0) b).ctx 0).state = .stopped ∧
    answer (after (.preemptDrainTimeout 0) b) = some fltDrain := by decide +kernel

theorem witness_save_and_resume :
    let e := preDev true true
    let u := ctxDev .suspended
    let v := hostDev.modCtx 0 (fun v => { v with state := .evicted, clusters := [], hadClusters := 1 })
    let r := hostDev.modCtx 0 (fun v => { v with state := .evicted, restoring := some 1, saved := [{ offset := 64 }], savedClusters := [{}] })
    (e.ctx 0).preempt = some ⟨true, 1000000, 1, true⟩ ∧
    u.accepts (rq 8) 0x34 8 (some 0) = true ∧ ((after (.resume (rq 8) 0) u).ctx 0).state = .running ∧
    v.accepts (rq 8) 0x34 8 (some 0) = true ∧ (v.ctx 0).fromReset = false ∧ (v.ctx 0).hadClusters ≤ v.freeClusters.length ∧
    (r.ctx 0).restoring = some 1 ∧ ((after (.evictRestoreDone 0) r).core 0).offset = 64 ∧
    ((after (.evictRestoreDone 0) r).ctx 0).state = .running ∧
    (let b := e.modCore 0 (fun w => { w with dm := { w.dm with bad := [(3, some .double)] } })
     let u := (b.ctx 0).clusters.foldl State.settleAll b
     (u.ctx 0).hardStop = true ∧ ((after (.evictSaveDone 0) b).ctx 0).state = .stopped ∧
     answer (after (.evictSaveDone 0) b) = some fltDrain) := by decide +kernel

/-! ### Shards -/

/-- The job record of epoch 5, and hostDev with a FENCED epoch 4. -/
def jobBytes : List Byte :=
  leFields [(4, 5), (1, 3), (7, 0), (4, 5), (144, 0), (8, 0x20700000), (8, 0x10000), (80, 0)]
def fencedHost : State :=
  { fenced with hp := hostDev.hp }.modCtx 0 (fun v => { v with program := some { trainProg with buffers := [⟨1, 2, 0, 0x1000, 0x20700000⟩] } })

theorem witness_shard_table :
    let s := fencedHost
    let io : FarIO := ⟨jobBytes, 0⟩
    s.accepts (rq 24) 0x60 24 (some 0) = true ∧ s.fencedEpoch 0 = true ∧
    s.farRead 0 0 256 io = (s, .ok jobBytes) ∧
    s.shardTableOk 0 (((s.ctx 0).program.map (·.buffers)).getD [])
      (BitVec.ofNat 32 (((s.epochRec 0).map (·.epoch)).getD 0 + 1)) (parseShards jobBytes) = true ∧
    ((after (.shardTableLoad (rq 24) 0 0 0 256 io) s).ctx 0).heldTable.map (·.map (·.kind)) = some [3] := by
  refine ⟨by decide +kernel, by decide +kernel, ?_, by decide +kernel, by decide +kernel⟩
  rw [farRead_bound _ 0 0 256 1 _ (by decide +kernel) (by decide +kernel),
    show (FarIO.bytes ⟨jobBytes, 0⟩).take 256 = jobBytes from by decide +kernel]

theorem witness_shard_release :
    let e : EpochRec := ⟨4, false, 0x20780000, 3, 0x20770000⟩
    let s := { trainDev with hp := hostDev.hp, mem := trainDev.mem.putBytes 0x20700000 e.toBytes }
    s.accepts (rq 8) 0x61 8 (some 0) = true ∧ s.epochRec 0 = some e ∧ (s.putEpoch 0 { e with prevTable := 0 }).isOk = true ∧
    (after (.shardRelease (rq 8) 0) s).epochRec 0 = some { e with prevTable := 0 } := by decide +kernel

theorem farWrite_whole (s : State) (region offset i : Nat) (bs : List Byte) (io : FarIO)
    (h : s.regionQp region offset bs.length = some i) (hn : bs.length ≤ io.accepted) :
    ∃ w, s.farWrite region offset bs io = (w, none) := by
  simp [State.farWrite, h, Nat.min_eq_left hn]

theorem witness_shard_export :
    let s := { trainDev with hp := hostDev.hp }
    s.accepts (rq 16) 0x62 16 (some 0) = true ∧ s.ownedShard 0 0 = some shard0 ∧ (s.peekProgress 0 shard0).phase = 0 ∧
    (s.peekCommit 0 shard0).resident = (s.peekCommit 0 shard0).serial ∧
    s.exportPayload 0 shard0 (s.peekCommit 0 shard0).momAddr 0 = .ok (s, []) ∧
    (shardHeader shard0 (s.peekCommit 0 shard0) (((s.epochRec 0).map EpochRec.epoch).getD 0) 0 [] ++ []).length = 256 ∧
    s.regionQp 0 0 256 = some 1 := by
  refine ⟨by decide +kernel, by decide +kernel, by decide +kernel, by decide +kernel, rfl, by decide +kernel, by decide +kernel⟩

theorem witness_shard_import :
    let s := { trainDev with hp := hostDev.hp }
    s.accepts (rq 24) 0x63 24 (some 0) = true ∧ s.regionQp 0 0 256 = some 1 ∧
    (s.importFile 0 (List.replicate 256 0)).2.1 = trnStatus 9 ∧
    answer (after (.shardImport (rq 24) 0 0 0 256 ⟨List.replicate 256 0, 0⟩) s) = some (trnStatus 9) := by decide +kernel

/-! ### Topology, link configuration, link tests -/

/-- Two nodes on one dimension, this one 0, port 0 towards the other. -/
def topoBytes : List Byte :=
  leFields [(1, 1), (1, 0), (2, 0), (2, 2), (2, 1), (2, 1), (2, 1), (2, 1), (2, 1)] ++ leFields ((2, 0) :: List.replicate 23 (2, 15)) ++
    leFields (List.replicate 6 (1, 1)) ++ List.replicate 58 0

theorem witness_topology :
    hostDev.accepts (rq 128) 0x40 128 none = true ∧ topoBytes.length = 128 ∧ (parseTopology topoBytes).ok = true ∧
    hostDev.xpt.outbound = [] ∧ hostDev.xpt.inbound = [] ∧ (parseTopology topoBytes).nodes = 2 ∧
    (after (.topologyLoad (rq 128) topoBytes) hostDev).xpt.topo.map (·.ports.take 2) = some [(0, 0), (15, 0)] := by decide +kernel

theorem witness_link_cfg :
    let e : TrainEntry := ⟨0, 0, 0, 100, 62, 63, 0, 0⟩
    let c := leNat [8#8, 0#8, 8#8, 0#8, 8#8, 0#8]
    let s := { hostDev with ports := (List.range 24).map (fun p => (p, { linkState := 0xA0000000 })) }
    s.accepts (rq 32) 0x41 (16 + 16 * [e].length) none = true ∧ trainTableBad [e] = false ∧
    (List.range 24).all (fun p => (s.port p).state == lsFailed) = true ∧
    (after (.linkCfgTrainingTable (rq 32) [e]) s).trainTable = [e] ∧
    hostDev.accepts (rq 16) 0x41 16 none = true ∧
    (hostDev.writePortCfg 0 (((({} : Port).cfg).zeroExtend 64 : Word64).truncate 32)).1 = stDone ∧
    (hostDev.writeCreditCfg 0 ({} : Port).creditCfg).1 = stDone ∧ c = 0x000800080008 ∧
    (hostDev.writeLinkExcl ((0x000003#64 : Word64).truncate 32)).1 = stDone ∧
    (after (.linkCfgLinkExcl (rq 16) 3) hostDev).xpt.linkExcl = 3 ∧
    (hostDev.writeTimerCfg 0x03E8060001500029#64).1 = stDone ∧
    (after (.linkCfgTimerCfg (rq 16) 0x03E8060001500029#64) hostDev).xpt.timerCfg = 0x03E8060001500029#64 := by decide +kernel

theorem witness_link_test :
    let f : LinkTestF := ⟨0, 2, 1, 3, 0, 2, 0⟩
    let h : LinkTestF := ⟨1, 0, 1, 3, 0, 50, 0⟩
    let t := hostDev.modPort 2 (fun p => p.setState lsTest 1)
    let g := t.modPort 2 (fun p => { p with cfg := withFld32 p.cfg 31 31 1 })
    hostDev.accepts (rq 16) 0x42 16 none = true ∧ testRangeBad f = false ∧ testRangeBad h = false ∧ testLanes f = [0, 1] ∧
    ((after (.linkTestEnter (rq 16) f) hostDev).port 2).state = lsTest ∧ hostDev.qpBusy = false ∧
    (after (.linkTestEnter (rq 16) h) hostDev).hp.testUntil = some 1050000 ∧
    t.inTest f = true ∧ fld32 (sget prbsCtlDefault ((after (.linkTestSet (rq 16) f) t).port 2).prbsCtl 1) 27 25 = 1 ∧
    answer (after (.linkTestRead (rq 16) f) t) = some stDone ∧
    (let e : Eye := ⟨[0, 0x3F800000#32], [0, 0, 0x3F800000#32], [0], [0x3F800000#32]⟩
     answer (after (.linkTestScan (rq 16) f [[e], []]) t) = some stDone ∧
     (after (.linkTestScan (rq 16) f [[e], []]) t).lantern.lastResponse.map (fun r => r.payload.take 8) =
       some [1#8, 2#8, 2#8, 0#8, 0#8, 0#8, 0xFF#8, 0#8] ∧
     ((after (.linkTestScan (rq 16) f [[e], []]) t).port 2).scanUntil = 1000000 + 1000 * 2 * 7) ∧
    (t.port 2).enabled = true ∧ answer (after (.linkTestLeave (rq 16) f) g) = some stDone ∧
    (after (.linkTestLeave (rq 16) h) hostDev).hp.testUntil = none := by decide +kernel

/-! ### The host port's set-up, pools, regions -/

theorem witness_host_setup :
    let c := hostDev.setQp 5 { state := .created }
    hostDev.accepts (rq 8) 0x43 8 none = true ∧ (hostDev.writeHpCfg 0x03600001).1 = stDone ∧
    (after (.hpPort (rq 8) 0x03600001) hostDev).hp.cfg = 0x03600001 ∧
    hostDev.accepts (rq 24) 0x44 24 none = true ∧ (after (.hpAddr (rq 24) 9 24 64 1) hostDev).hp.ipv4 = 9 ∧
    hostDev.accepts (rq 68) 0x45 68 none = true ∧ hostDev.hp.keys = [] ∧
    (after (.hpMacsecInstall (rq 68) 1 2 3 0 7 1 5 6) hostDev).hp.keys.map (·.key) = [5] ∧
    (after (.hpMacsecRemove (rq 68) 1 2 3) (after (.hpMacsecInstall (rq 68) 1 2 3 0 7 1 5 6) hostDev)).hp.keys = [] ∧
    hostDev.accepts (rq 32) 0x46 32 none = true ∧ qpRangeBad 2 0 7 = false ∧ (hostDev.qp 5).state = .absent ∧
    ((after (.hpQpCreate (rq 32) 5 2 0 7) hostDev).qp 5).t = 14 ∧ (c.qp 5).state = .created ∧ c.accepts (rq 32) 0x46 32 none = true ∧
    ((after (.hpQpConnect (rq 32) 5 2 0 7 88 99 0) c).qp 5).remoteQpn = 88 ∧ ((after (.hpQpReset (rq 32) 1) hostDev).qp 1).state = .created ∧
    c.hp.regions.any (fun e => (e.2.map (·.qp)) == some 5) = false ∧ (after (.hpQpDestroy (rq 32) 5) c).qp 5 = {} := by decide +kernel

theorem witness_windows_set :
    hostDev.accepts (rq 24) 0x47 24 (some 0) = true ∧ hostDev.windowCtx 3 = none ∧ vaBeyond 0x20000000 = false ∧
    hostDev.rangePinned 0 0x20000000 4096 = true ∧ answer (after (.hpWindowCreate (rq 24) 3 0 0x20000000 4096) hostDev) = some stDone ∧
    hostDev.windowCtx 0 = some 0 ∧ (after (.hpWindowDestroy (rq 24) 0 0) hostDev).hp.windows = [] := by decide +kernel

theorem witness_pools_set :
    let s := { hostDev with pools := [(63, { cfg := 0x800C0001#32, base := 0x20000000#64 })] }
    s.accepts (rq 16) 0x26 16 (some 0) = true ∧ (s.pool 63).allocs = [] ∧ (s.pool 63).enabled = true ∧ (s.pool 63).owner = 0 ∧
    poolSetCheck s 63 0 0x80100003#32 0x20000000 = none ∧
    (after (.poolCfgSet (rq 16) 63 0 16 4 0x20000000) s).pools.map (fun e => e.2.cfg) = [0x80100003#32] ∧
    ((after (.poolCfgRemove (rq 16) 63 0) s).pool 63).enabled = false ∧
    s.accepts (rq 16) 0x27 16 (some 0) = true ∧ quotaCheck (s.pool 63) 31 2 1 = none ∧
    ((after (.poolQuota (rq 16) 63 31 2 1) s).pool 63).limit 31 = 2 := by decide +kernel

theorem witness_regions_set :
    hostDev.accepts (rq 24) 0x28 24 none = true ∧ hostDev.regionMapped 9 = false ∧ (hostDev.qp 1).state = .connected ∧
    sget none (after (.regionBind (rq 24) 9 1 5 6 65536) hostDev).hp.regions 9 = some ⟨1, 5, 6, 65536⟩ ∧
    (after (.regionUnbind (rq 24) 0) hostDev).hp.regions = [] ∧
    hostDev.accepts (rq 8) 0x29 8 none = true ∧ fld32 0x00013469#32 31 20 = 0 ∧ arbWeightBad 0x00013469 = false ∧
    ((after (.memPolicy (rq 8) 0x8001 1 0x00013469) hostDev).group 15).arbWeight = 0x00013469 ∧
    ((after (.memPolicy (rq 8) 0x8001 1 0x00013469) hostDev).group 1).hold = false := by decide +kernel

/-! ### Management -/

theorem witness_management :
    let l : LogRec := ⟨3, 0, 1, 9, 0, 0, 0, 0, 0, 0, 0, []⟩
    let s := { hostDev with ras := { log := [l], nextSeq := 4 } }
    regCount 0x01 0 ≠ 0 ∧ s.accepts (rq 8) 0x70 8 none = true ∧ ((s.session 1).map (·.admin)).getD false = true ∧
    answer (after (.counterRead (rq 8) 1 0) s) = some stDone ∧ s.accepts (rq 8) 0x71 8 none = true ∧
    s.accepts (rq 16) 0x80 16 none = true ∧ fld32 (after (.powerPolicy (rq 16) 700 1 9 20) s).power.capCfg 9 0 = 700 ∧
    s.accepts (rq 0) 0x81 0 none = true ∧ answer (after (.powerStatus (rq 0)) s) = some stDone ∧
    s.accepts (rq 16) 0x90 16 none = true ∧
    (after (.logRead (rq 16) 2 1) s).lantern.lastResponse.map (fun r => (r.payload.head?, r.payload.length)) = some (some 4#8, 80) ∧
    s.accepts (rq 8) 0x91 8 none = true ∧ (after (.logClear (rq 8) 3) s).ras.log = [] ∧
    s.accepts (rq 8) 0xF0 8 none = true ∧ addrIndex 0x01000000#32 + 1 ≤ regCount (addrBlock 0x01000000#32) (addrInst 0x01000000#32) ∧
    answer (after (.regRead (rq 8) 0x01000000 1) s) = some stDone ∧ s.accepts (rq 16) 0xF1 16 none = true ∧
    (s.regWrite 0x01000010#32 2#64).1 = stDone ∧ (s.regWrite 0x01000010#32 0x80#64).1 = genReserved := by decide +kernel

theorem length_slhSignature (n : Nat) (key msg : List Byte) : (slhSignature n key msg).length = n := by simp [slhSignature]

theorem slhVerify_genuine (n : Nat) (key msg : List Byte) : slhVerify key msg (slhSignature n key msg) = true := by
  simp [slhVerify, length_slhSignature]

theorem verifies_vendor (s : State) (n : Nat) (msg : List Byte) : s.verifies 0 msg (slhSignature n Config.vendorKey msg) = true := by
  simp [State.verifies, State.publicKey, hashes, vendorKeyHash, slhVerify_genuine]

/-- The header of a Clasp image with an empty body and one signature. -/
def imageHead : List Byte :=
  [0x48#8, 0x49#8, 0x4D#8, 0x01#8, 0#8, 1#8, 0#8, 0#8] ++ leFields [(4, 9), (4, 2), (1, 0), (7, 0), (8, 0)] ++ shake256 [] 64 ++
    List.replicate 32 0
def imageSig : List Byte := slhSignature sigBytes Config.vendorKey imageHead
def imageEntry : List Byte := List.replicate 8 0 ++ imageSig
def imageFile : List Byte := imageHead ++ imageEntry

theorem imageHead_facts :
    imageHead.length = 128 ∧ leAt imageHead 4 1 = 0 ∧ leAt imageHead 5 1 = 1 ∧ leAt imageHead 6 2 = 0 ∧ leAt imageHead 8 4 = 9 ∧
    leAt imageHead 12 4 = 2 ∧ leAt imageHead 16 1 = 0 ∧ leAt imageHead 17 7 = 0 ∧ leAt imageHead 24 8 = 0 ∧ leAt imageHead 96 32 = 0 ∧
    sliceBytes imageHead 0 4 = [0x48#8, 0x49#8, 0x4D#8, 0x01#8] ∧ sliceBytes imageHead 32 64 = shake256 [] 64 ∧
    sliceBytes imageHead 0 128 = imageHead := by decide +kernel

theorem length_imageFile : imageFile.length = 29928 := by
  simp [imageFile, imageEntry, imageSig, length_slhSignature, imageHead_facts.1, sigBytes]

theorem witness_fw_stage :
    hostDev.accepts (rq 24) 0xA0 24 none = true ∧ hostDev.farRead 0 0 29928 ⟨imageFile, 0⟩ = (hostDev, .ok imageFile) ∧
    hostDev.imageCheck 0 (parseImage imageFile).1 (parseImage imageFile).2 = none := by
  refine ⟨by decide +kernel, ?_, ?_⟩
  · rw [farRead_bound _ 0 0 29928 1 _ (by decide +kernel) (by rw [length_imageFile])]
    rw [List.take_of_length_le (by rw [length_imageFile])]
  · obtain ⟨hl, h4, h5, h6, h8, h12, h16, h17, h24, h96, hm, hd, hh⟩ := imageHead_facts
    have hs : imageEntry.length = 29800 := by simp [imageEntry, imageSig, length_slhSignature, sigBytes]
    have e (o n : Nat) (h : o + n ≤ 128) : leAt imageFile o n = leAt imageHead o n := leAt_append_left _ _ o n (by rw [hl]; exact h)
    have e' (o n : Nat) (h : o + n ≤ 128) : sliceBytes imageFile o n = sliceBytes imageHead o n :=
      sliceBytes_append_left _ _ o n (by rw [hl]; exact h)
    have hent : sliceBytes imageFile 128 29800 = imageEntry :=
      sliceBytes_append_right _ _ _ _ hl.symm hs.symm
    have hsig : sliceBytes imageEntry 8 sigBytes = imageSig :=
      sliceBytes_append_right _ _ _ _ (by simp) (by simp [imageSig, length_slhSignature])
    have k0 : leAt imageEntry 0 1 = 0 := by
      rw [imageEntry, leAt_append_left _ _ _ _ (by decide)]; decide
    have k1 : leAt imageEntry 1 7 = 0 := by
      rw [imageEntry, leAt_append_left _ _ _ _ (by decide)]; decide
    have hb : sliceBytes imageHead 128 0 = [] := by simp [sliceBytes]
    have hv : hostDev.verifies 0 imageHead imageSig = true := verifies_vendor hostDev _ _
    have ho : hostDev.owned = false := by decide +kernel
    have hr : sget 0 hostDev.clasp.rollback 0 = 0 := by decide +kernel
    have hz : ∀ i : Image, i.sigs = [(0, imageSig)] → i.header = imageHead → hostDev.signedBy i 0 = true := by
      intro i h1 h2
      simp [State.signedBy, h1, h2, hv]
    simp [State.imageCheck, firstFail, parseImage, e, e', h4, h5, h6, h8, h12, h16, h17, h24, h96, hm, hd, hh, hb, hent, k0, k1, hsig,
      length_imageFile, flashRegion, sigEntryBytes, ho, hr, State.signaturesOk, hz, bitOf]

theorem shipped_valid (s : State) (z cls : Nat) (hc : cls < 4) (ho : s.owned = false) (hr : s.clasp.rollback = [])
    (hi : s.imageAt z cls = some (shippedImage z cls)) : s.imageValid z cls = true := by
  have h4 : cls ≠ 4 := by omega
  simp [State.imageValid, hi, State.imageCheck, firstFail, shippedImage, ho, hr, sget, State.signaturesOk, State.signedBy, bitOf, h4]

/-- The set that every slot holds as shipped is valid and tested. -/
theorem shipped_set (s : State) (z : Nat) (ho : s.owned = false) (hr : s.clasp.rollback = [])
    (h : ∀ cls, cls < 4 → s.imageAt z cls = some (shippedImage z cls)) : s.setValid z = true ∧ s.testedSet z = true := by
  have v (cls : Nat) (hc : cls < 4) := shipped_valid s z cls hc ho hr (h cls hc)
  exact ⟨by simp [State.setValid, v], by simp [State.testedSet, State.slotVersion, v, h, shippedImage, bitOf]⟩

theorem witness_fw_activate :
    hostDev.accepts (rq 8) 0xA1 8 none = true ∧ (hostDev.setValid 1 = true ∧ hostDev.testedSet 1 = true) ∧
    hostDev.accepts (rq 0) 0xA2 0 none = true := by
  refine ⟨by decide +kernel, shipped_set hostDev 1 (by decide +kernel) rfl (fun cls hc => ?_), by decide +kernel⟩
  obtain rfl | rfl | rfl | rfl : cls = 0 ∨ cls = 1 ∨ cls = 2 ∨ cls = 3 := by omega
  all_goals rfl

/-! ### Attestation and tokens -/

theorem length_reportHead (s : State) (nonce : BitVec 256) (h : s.clasp.measurements = []) : (s.reportHead nonce).length = 256 := by
  simp [State.reportHead, h, List.range_succ]

theorem witness_attest (nonce : BitVec 256) :
    hostDev.accepts (rq 48) 0xB0 48 none = true ∧
    ∃ w, hostDev.farWrite 0 0 (hostDev.report nonce) ⟨[], 35920⟩ = (w, none) := by
  have hh : (hostDev.report nonce).length = 35920 := by
    rw [State.report, List.length_append, length_slhSignature, length_reportHead _ _ rfl]
  refine ⟨by decide +kernel, farWrite_whole _ _ _ 1 _ _ ?_ (Nat.le_of_eq hh)⟩
  rw [hh]
  decide +kernel

/-- A token of a kind, for this device, signed by the vendor. -/
def tokenFront (kind : Byte) : List Byte := [0x54#8, 0x4B#8, 0x4E#8, 0x01#8, kind, 0#8, 0#8, 0#8]
def tokenHead (kind : Byte) : List Byte := tokenFront kind ++ (leBytes 16 Config.uid.toNat ++ List.replicate 232 0)
def tokenSig (kind : Byte) : List Byte := slhSignature sigBytes Config.vendorKey (tokenHead kind)
def token (kind : Byte) : List Byte := tokenHead kind ++ tokenSig kind

theorem length_tokenHead (kind : Byte) : (tokenHead kind).length = 256 := by
  simp only [tokenHead, tokenFront, List.length_append, List.length_cons, List.length_nil, length_leBytes, List.length_replicate]

theorem leAt_tokenFront (kind : Byte) (o n : Nat) (h : o + n ≤ 8) : leAt (token kind) o n = leAt (tokenFront kind) o n := by
  rw [token, leAt_append_left _ _ _ _ (by rw [length_tokenHead]; omega), tokenHead, leAt_append_left _ _ _ _ (by simp [tokenFront]; omega)]

theorem token_parts (kind : Byte) :
    (parseToken (token kind)).kind = kind.toNat ∧ (parseToken (token kind)).keyId = 0 ∧ (parseToken (token kind)).uid = Config.uid ∧
    (parseToken (token kind)).nonce = 0 ∧ sliceBytes (token kind) 0 256 = tokenHead kind ∧
    sliceBytes (token kind) 256 sigBytes = tokenSig kind ∧ sliceBytes (token kind) 0 4 = [0x54#8, 0x4B#8, 0x4E#8, 0x01#8] := by
  have hl := length_tokenHead kind
  have hd : sliceBytes (token kind) 0 256 = tokenHead kind := by
    rw [token, sliceBytes_append_left _ _ _ _ (by omega)]
    have := sliceBytes_append_right [] (tokenHead kind) 0 256 rfl hl.symm
    simpa using this
  refine ⟨?_, ?_, ?_, ?_, hd, ?_, ?_⟩
  · have h : leAt (token kind) 4 1 = kind.toNat := by
      rw [leAt_tokenFront _ _ _ (by omega)]
      simp [leAt, sliceBytes, tokenFront, leNat]
    exact h
  · have h : leAt (token kind) 5 1 = 0 := by
      rw [leAt_tokenFront _ _ _ (by omega)]
      simp [leAt, sliceBytes, tokenFront, leNat]
    exact h
  · have h : leAt (token kind) 8 16 = Config.uid.toNat := by
      rw [token, leAt_append_left _ _ _ _ (by omega), tokenHead, leAt]
      have : sliceBytes (tokenFront kind ++ (leBytes 16 Config.uid.toNat ++ List.replicate 232 0)) 8 16 = leBytes 16 Config.uid.toNat := by
        rw [← List.append_assoc, sliceBytes_append_left _ _ _ _ (by simp [tokenFront])]
        exact sliceBytes_append_right _ _ _ _ rfl (by simp)
      rw [this, leNat_leBytes]
      exact Nat.mod_eq_of_lt Config.uid.isLt
    show BitVec.ofNat 128 (leAt (token kind) 8 16) = Config.uid
    rw [h, BitVec.ofNat_toNat, BitVec.setWidth_eq]
  · have h : leAt (token kind) 24 32 = 0 := by
      have hz : (tokenFront kind ++ leBytes 16 Config.uid.toNat).length = 24 := by simp [tokenFront]
      rw [token, leAt_append_left _ _ _ _ (by omega), tokenHead, ← List.append_assoc, leAt]
      have : sliceBytes ((tokenFront kind ++ leBytes 16 Config.uid.toNat) ++ List.replicate 232 0) 24 32 = List.replicate 32 (0 : Byte) := by
        rw [show List.replicate 232 (0 : Byte) = List.replicate 32 0 ++ List.replicate 200 0 from rfl, ← List.append_assoc,
          sliceBytes_append_left _ _ _ _ (by simp [tokenFront])]
        exact sliceBytes_append_right _ _ _ _ hz.symm rfl
      rw [this]
      decide
    show BitVec.ofNat 256 (leAt (token kind) 24 32) = 0
    rw [h]
    rfl
  · exact sliceBytes_append_right _ _ _ _ (by rw [hl]) (by simp [tokenSig, length_slhSignature])
  · rw [token, sliceBytes_append_left _ _ _ _ (by omega), tokenHead, sliceBytes_append_left _ _ _ _ (by simp [tokenFront])]
    rfl

theorem length_token (kind : Byte) : (token kind).length = tokenBytes := by
  simp [token, length_tokenHead, tokenSig, length_slhSignature, sigBytes, tokenBytes]

theorem witness_tokens :
    hostDev.farRead 0 0 tokenBytes ⟨token 2#8, 0⟩ = (hostDev, .ok (token 2#8)) ∧ hostDev.accepts (rq 24) 0xB1 24 none = true ∧
    hostDev.tokenCheck [2] (token 2#8) = none ∧ hostDev.accepts (rq 24) 0xB2 24 none = true ∧
    hostDev.tokenCheck [1, 3, 4] (token 1#8) = none := by
  have ho : hostDev.owned = false := by decide +kernel
  have hf : hostDev.clasp.debugDisable = false := rfl
  have hv (k : Byte) : hostDev.verifies 0 (tokenHead k) (tokenSig k) = true := verifies_vendor _ _ _
  refine ⟨?_, by decide +kernel, ?_, by decide +kernel, ?_⟩
  · rw [farRead_bound _ 0 0 tokenBytes 1 _ (by decide +kernel) (by rw [length_token]),
      List.take_of_length_le (by rw [length_token])]
  · obtain ⟨h1, h2, h3, h4, h5, h6, h7⟩ := token_parts 2#8
    simp [State.tokenCheck, firstFail, h1, h2, h3, h4, h5, h6, h7, State.tokenKey, State.tokenState, ho, hf, hv]
  · obtain ⟨h1, h2, h3, h4, h5, h6, h7⟩ := token_parts 1#8
    simp [State.tokenCheck, firstFail, h1, h2, h3, h4, h5, h6, h7, State.tokenKey, State.tokenState, ho, hv]

/-! ### Registers, tests, errors -/

theorem witness_registers :
    let p := { hostDev with pools := [(63, { cfg := 0x800C0001#32, base := 0x20000000#64 })] }
    let m := onCore (fun u => { u with mtxFlags := 0x7E })
    (dev.regWrite 0x01000010#32 0x80#64).1 ≠ stDone ∧ addrBlock 0x01000010#32 = 0x01 ∧ addrInst 0x01000010#32 = 0 ∧
    addrIndex 0x01000010#32 = 2 ∧ fld32 0x01000010#32 2 0 = 0 ∧ fld32 0x00000002#32 31 7 = 0 ∧
    ((after (.registerWrite 0x01000010#32 2#64) m).core 0).mtxFlags = 0x7C ∧
    poolSetCheck p 63 0 0x80100003#32 0x20000000 = none ∧
    ((after (.bpmPoolCfgWrite 63 0x80100003#64) p).pool 63).count = 4 ∧ (p.writePoolCfg 63 0x90100003#64).1 ≠ stDone ∧
    poolSetCheck p 63 0 0x800C0001#32 0x20010000 = none ∧
    ((after (.bpmPoolBaseWrite 63 0x20010000#64) p).pool 63).base = 0x20010000 ∧
    (let d := { hostDev with pools := [(63, { quota := [(31, 0x40001#64)] })] }
     (d.pool 63).enabled = false ∧ poolSetCheck d 63 (d.pool 63).owner (d.pool 63).cfg 0x20010000 = none ∧
     ((after (.bpmPoolBaseWrite 63 0x20010000#64) d).pool 63).reserve 31 = 1) ∧
    quotaCheck (p.pool 63) 31 2 1 = none ∧ ((after (.bpmQuotaWrite 63 31 0x40001#64) p).pool 63).reserve 31 = 1 := by decide +kernel

theorem witness_self_tests :
    let b := after (.bistCtlWrite 0x85000000#64) dev
    let m := after (.memTestCtlWrite 0x8000000100000000#64) dev
    dev.ras.bistRun = none ∧ dev.ctxOfCluster 5 = none ∧ b.ras.bistRun = some 5 ∧
    ((after (.bistComplete 0 3) b).cluster 5).withheld = true ∧ fld32 (after (.bistComplete 0 0) b).ras.bist 23 22 = 1 ∧
    dev.ras.memRun = none ∧ m.ras.memRun = some 1 ∧ channelOf 0 / 8 = 0 ∧
    fld ((after (.memTestTransaction 0 5#24 []) m).channel (channelOf 0)).testResult 39 16 = 5 ∧
    (after .memTestComplete m).ras.memRun = none ∧ dev.lantern.running = true ∧
    fld ((after (.thresholdPoll false) (dev.modChannel 127 (fun c => { c with eccLast := 0x8000000000000000#64 }))).channel 127).eccLast 63 63 = 0 ∧
    (dev.ctx 0).state ≠ .free ∧ ((after (.hardwareConsistencyCheck 9 3 1 false) dev).ctx 0).state = .stopped := by decide +kernel

/-! ### Power -/

/-- dev whose cluster 1, which no context holds, has all cores in Doze. -/
def dozing (f : Cluster → Cluster) : State :=
  State.modCluster { dev with cores := dev.cores ++ (List.range 16).map (fun i => (16 + i, { power := .doze })) } 1 f
/-- A state without low-power entries enabled. -/
def noDoze (s : State) : State := { s with power := { s.power with cfg := 0x0000001400320000#64 } }

theorem witness_doze :
    let idle := dev.modCore 16 (fun u => { u with dozeDue := some 1000000 })
    let on := dozing (fun u => { u with dozeDue := some 1000000 })
    let dz := dozing (fun u => { u with power := .doze })
    let off := dozing (fun u => { u with power := .off, veil := true })
    (idle.core 16).power = .idle ∧ (idle.cluster 1).power = .on ∧ idle.coreIdle 16 = true ∧ dueBy (idle.core 16).dozeDue idle.now = true ∧
    idle.coreRefuser 1 = none ∧ dueBy (dev.core 16).dozeDue dev.now = false ∧
    ((after (.coreDoze 16) idle).core 16).power = .doze ∧ ((after (.coreDoze 16) (noDoze idle)).core 16).pwrStat = 0x10C1 ∧
    (on.core 16).power = .doze ∧ ((after (.coreWake 16) on).core 16).power = .idle ∧ idle.dozeEntering 16 = true ∧
    ((after (.coreWake 16) idle).core 16).pwrStat = 0x400000 ∧
    (List.range 16).all (fun c => (on.core (16 + c)).power == .doze) = true ∧ dueBy (on.cluster 1).dozeDue on.now = true ∧
    ((after (.clusterDoze 1) on).cluster 1).power = .doze ∧ ((after (.clusterDoze 1) on).cluster 1).offAt = 51000000 ∧
    ((after (.clusterDoze 1) (noDoze on)).cluster 1).dozeStat = 0x10C1 ∧ (dz.cluster 1).power = .doze ∧
    (dz.cluster 1).offAt ≤ dz.now ∧ ((after (.clusterOffEntry 1) dz).cluster 1).power = .off ∧
    ((after (.clusterOffEntry 1) (noDoze dz)).cluster 1).power = .doze ∧
    (off.cluster 1).power = .off ∧ ((after (.clusterOffExit 1) off).cluster 1).veil = false := by decide +kernel

theorem witness_power_sample :
    let s := { dev with power := { dev.power with rails := [(0, { up := true })] } }
    (s.rail 0).up = true ∧ (s.rail 1).up = false ∧ fld32 s.power.capCfg 9 0 = 850 ∧
    ((s.powerSampled 850001 (List.replicate 16 500)).rail 0).vLimit = 845 ∧
    ((s.powerSampled 850001 (List.replicate 16 951)).rail 0).vLimit = 840 ∧
    ((after (.trimAdjust [0, 0, 0, 0]) s).rail 0).trim = 5 := by decide +kernel

/-! ### Starts and resets -/

def coldDev : State := State.reset
def started : State := coldDev.rampUp.enrol.newBoot

/-- What a start reads of the flash and of Clasp, with no word of Wardrobe struck. -/
abbrev Unstruck (s t : State) : Prop := t.flash = s.flash ∧ t.clasp = s.clasp ∧ t.power.wardrobe.bad = []

theorem unstruck_foldl (l : List Nat) (f : State → Nat → State)
    (hf : ∀ s k, s.power.wardrobe.bad = [] → Unstruck s (f s k)) (s : State) (h : s.power.wardrobe.bad = []) : Unstruck s (l.foldl f s) := by
  induction l generalizing s with
  | nil => exact ⟨rfl, rfl, h⟩
  | cons a r ih =>
    obtain ⟨h1, h2, h3⟩ := hf s a h
    obtain ⟨g1, g2, g3⟩ := ih _ h3
    exact ⟨g1.trans h1, g2.trans h2, g3⟩

theorem wardrobeSettle_clean (s : State) (ranges : List (Nat × Nat)) (h : s.power.wardrobe.bad = []) : s.wardrobeSettle ranges = s := by
  simp [State.wardrobeSettle, Sram.badIn, h]

theorem unstruck_modCore (s : State) (c : Nat) (f : Core → Core) (h : s.power.wardrobe.bad = []) : Unstruck s (s.modCore c f) :=
  ⟨rfl, rfl, h⟩

theorem unstruck_modCluster (s : State) (k : Nat) (f : Cluster → Cluster) (h : s.power.wardrobe.bad = []) :
    Unstruck s (s.modCluster k f) := ⟨rfl, rfl, h⟩

theorem unstruck_trans {s t u : State} (h : Unstruck s t) (g : Unstruck t u) : Unstruck s u :=
  ⟨g.1.trans h.1, g.2.1.trans h.2.1, g.2.2⟩

theorem unstruck_restoreSave (s : State) (k : Nat) (h : s.power.wardrobe.bad = []) : Unstruck s (s.restoreSave k) := by
  unfold State.restoreSave
  simp only [wardrobeSettle_clean s _ h]
  generalize s.saved = v
  split
  · have g := unstruck_modCluster s k (fun u => { u with sramEcc := v k 16, walkStat := v k 24 }) h
    exact unstruck_trans g (unstruck_foldl _ _ (fun t c ht => unstruck_modCore t _ _ ht) _ g.2.2)
  · exact ⟨rfl, rfl, h⟩

theorem unstruck_offExit (s : State) (k : Nat) (h : s.power.wardrobe.bad = []) : Unstruck s (s.offExit k) := by
  unfold State.offExit State.dozing
  have g := unstruck_restoreSave s k h
  have l := unstruck_trans g (unstruck_foldl (List.range 16)
    (fun t c => t.modCore (16 * k + c) (fun u => { u with power := .doze, dozeDue := none })) (fun t c ht => unstruck_modCore t _ _ ht) _ g.2.2)
  exact unstruck_trans l (unstruck_modCluster _ _ _ l.2.2)

theorem rampUp_keeps (s : State) (h : s.power.wardrobe.bad = []) : s.rampUp.flash = s.flash ∧ s.rampUp.clasp = s.clasp := by
  unfold State.rampUp
  obtain ⟨a, b, _⟩ := unstruck_foldl (List.range 16) State.offExit unstruck_offExit
    { s with
      power := { s.power with
        vsoc := true
        rails := (List.range 4).foldl (fun m q => sset {} m q { s.rail q with mv := 750, vWant := 750, up := true }) s.power.rails
        strapReg := BitVec.ofNat 32 (s.pins.moduleId.toNat * 512 + s.pins.strap.toNat * 16) }
      pins := { s.pins with pwrOk := true, coolWait := false } } h
  exact ⟨a, b⟩

theorem enrol_none (s : State) (h : s.clasp.permits = []) : s.enrol.flash = s.flash ∧ s.enrol.clasp = { s.clasp with permits := [] } := by
  simp [State.enrol, h]

theorem newBoot_keeps (s : State) : s.newBoot.flash = s.flash ∧ s.newBoot.clasp.ownerHash = s.clasp.ownerHash ∧
    s.newBoot.clasp.rollback = s.clasp.rollback ∧ s.newBoot.clasp.failures = s.clasp.failures := ⟨rfl, rfl, rfl, rfl⟩

theorem started_flash : started.flash = shippedFlash ∧ started.clasp.ownerHash = [] ∧ started.clasp.rollback = [] ∧
    started.clasp.failures = [] := by
  obtain ⟨a, b⟩ := rampUp_keeps coldDev rfl
  obtain ⟨c, d⟩ := enrol_none coldDev.rampUp (by rw [b]; rfl)
  obtain ⟨e, f, g, h⟩ := newBoot_keeps coldDev.rampUp.enrol
  rw [b] at d
  rw [d] at f g h
  exact ⟨e.trans (c.trans a), f, g, h⟩

theorem witness_boot_choice : coldDev.startReady = true ∧ started.bootChoice = .slot 0 false := by
  obtain ⟨h1, h2, h3, h4⟩ := started_flash
  have h (cls : Nat) (hc : cls < 4) : started.imageAt 0 cls = some (shippedImage 0 cls) := by
    rw [State.imageAt, h1]
    obtain rfl | rfl | rfl | rfl : cls = 0 ∨ cls = 1 ∨ cls = 2 ∨ cls = 3 := by omega
    all_goals rfl
  have ho : started.owned = false := by simp [State.owned, State.ownerValid, State.enrolled, h2, sget]
  obtain ⟨hv, ht⟩ := shipped_set started 0 ho h3 h
  have hs : started.bootOrder = [0, 1] := by
    rw [State.bootOrder, State.selectedSlot, h1]
    rfl
  exact ⟨by decide +kernel, by simp [State.bootChoice, hs, hv, ht, h4, sget]⟩

theorem witness_starts :
    let r := { coldDev with pins := { coldDev.pins with strap := 1 } }
    let e := { coldDev with flash := {} }
    let f : StartF := ⟨true, none, true⟩
    r.startReady = true ∧ bitOf r.pins.strap.toNat 0 = true ∧ (after (.startUp f) r).lantern.recovery = true ∧
    e.startReady = true ∧ ((e.rampUp.enrol.newBoot).bootChoice = .hold) ∧ (after (.startUp f) e).pins.holding = true := by decide +kernel

theorem witness_resets :
    let v := { dev with clasp := { memoryValid := true } }
    let d := { dev with lantern := { dev.lantern with resetAt := some 1000000, resetCause := 4 } }
    let b := { dev with lantern := {}, power := { dev.power with bootStatus := 0x00000500 } }
    dev.pins.standby = true ∧ (after (.warmReset 5) v).mem = dev.mem ∧ (after (.warmReset 5) dev).mem = {} ∧
    fld (after (.warmReset 4) d).power.rstCause 19 16 = 4 ∧ 1000000 ≤ d.now ∧
    dev.pins.resetN = true ∧ (after (.resetN 1000 true) dev).pins.resetN = false ∧ (after (.resetN 99 false) dev).power.vsoc = true ∧
    b.power.vsoc = true ∧ b.lantern.running = false ∧ b.bootStage = 5 ∧ fld (after .bootFailure b).power.rstCause 19 16 = 6 ∧
    dev.power.vsoc = true ∧ dev.lantern.running = true ∧ dev.lantern.recovery = false ∧
    fld (after .watchdog dev).power.rstCause 19 16 = 5 ∧
    (after (.standbyApplied 5) dev).pins.moduleId = 5 ∧ (after .standbyLoss dev).pins.standby = false ∧
    fld (after (.input48vLoss 37999 1001) dev).power.rstCause 19 16 = 1 := by decide +kernel

/-! ### The module's pins -/

theorem witness_beyond_ratings : exec (.input48vOutsideRange 66001) dev = .fault .beyondRatings := rfl

theorem witness_pins :
    let s := dev.modPort 2 (fun u => u.setState lsActive 0)
    (after (.input48vOutsideRange 66000) dev).pins.alertLow = true ∧
    dev.power.vsoc = true ∧ (after (.thermalTrip 15 1100) dev).pins.thermTripLow = true ∧
    (s.port 2).state = lsActive ∧ fld ((after (.refclkLoss .serdes) s).port 2).linkErr 7 0 = 1 ∧
    (after (.refclkLoss .sys) dev).ras.fatal = true ∧ (after (.refclkReturn .sys) (after (.refclkLoss .sys) dev)).pins.refSys = true ∧
    (after (.railLeavesRegulation .lpddr) dev).pins.pwrOk = false ∧ (after (.railOutOfRegulation .vsoc) dev).ras.fatal = true ∧
    (after (.railRegainsRegulation .lpddr) (after (.railLeavesRegulation .lpddr) dev)).pins.railsOut = [] := by decide +kernel

/-! ### Rules stated whole, and the step -/

theorem witness_line_write :
    let s := { dev with mem := dev.mem.putBytes 0x40000000 [1#8, 2#8, 3#8] }
    let t := after (.lineWrite 0x40000001 [9#8] false ⟨.dma, []⟩) s
    0x40000001 < lpddrEnd ∧ sget 0 t.mem.bytes 0x40000001 = 9 ∧ sget 0 t.mem.bytes 0x40000002 = 3 ∧
    t.mem.deltaOf (0x40000000 / 64) = 0 ∧
    (let p := after (.lineWrite 0x40000001 [9#8] true ⟨.dma, []⟩) s
     p.mem.deltaOf (0x40000000 / 64) = poisonDelta ∧
       (after (.lineWrite 0x40000002 [9#8] false ⟨.dma, []⟩) p).mem.deltaOf (0x40000000 / 64) = poisonDelta ∧
       (after (.lineWrite 0x40000000 (List.replicate 64 7#8) false ⟨.dma, []⟩) p).mem.deltaOf (0x40000000 / 64) = 0) := by decide +kernel

theorem witness_adaptive_channel :
    let c := mkCell clReq (headerA 2 3 3 0) []
    let s := { netDev with xpt := { netDev.xpt with injected := [c] } }
    s.xpt.topo = some ring4 ∧ (s.leave none c).isSome = true ∧ hDest c.hdr ≠ ring4.node.toNat ∧ hDest c.hdr < ring4.nodes ∧
    2 ∈ s.candidates ring4 (hDest c.hdr) ∧ 0 < sget 0 (s.port 2).credits (3 * c.cls) := by decide +kernel

theorem witness_step :
    dev.pending = [] ∧ step dev = .next { dev with now := dev.now + 1 } ∧
    step { dev with pending := [.standbyLoss, .fwStatus (rq 0)] } = exec .standbyLoss { dev with pending := [.fwStatus (rq 0)] } :=
  ⟨rfl, rfl, rfl⟩

/-! ### Ill-formed commands -/

/-- A bundle without slots. -/
def noSlots : Bundle := ⟨[], none, none, none, none⟩
def opOf (o : Op) : OpSlot := ⟨o, none, none⟩
def syncOp : Op := .sync (.seedSet 0)

theorem smoke_bundle :
    Instr.wf (.bundleIssue 0 ⟨noSlots, []⟩) = true ∧ Instr.wf (.loopBegin 0 ⟨.imm 1, 41⟩) = false ∧
    Instr.wf (.bundleIssue 0 ⟨{ noSlots with scalar := [.loopBegin ⟨.imm 1, 41⟩] }, []⟩) = false ∧
    Instr.wf (.bundleIssue 0 ⟨{ noSlots with scalar := [.setImm 0 0, .setImm 1 0, .setImm 2 0] }, []⟩) = false ∧
    Instr.wf (.bundleIssue 0 ⟨{ noSlots with matrix := some (opOf syncOp) }, []⟩) = false ∧
    Instr.wf (.bundleIssue 0 ⟨{ noSlots with vector := some (opOf syncOp) }, []⟩) = false ∧
    Instr.wf (.bundleIssue 0 ⟨{ noSlots with dma := some (opOf syncOp) }, []⟩) = false ∧
    Instr.wf (.bundleIssue 0 ⟨{ noSlots with sync := some (opOf (.mat (.npred npredF))) }, []⟩) = false ∧
    Instr.wf (.bundleIssue 0 ⟨{ noSlots with sync := some ⟨syncOp, some ⟨0, 1⟩, none⟩ }, []⟩) = false ∧
    Instr.wf (.bundleIssue 0 ⟨{ noSlots with sync := some ⟨syncOp, none, some ⟨0, 1⟩⟩ }, []⟩) = false := by decide +kernel

/-- A cell with 47 payload bytes, and one of a class that Table 13-3 does not have. -/
def shortCell : Cell := ⟨0, 0, List.replicate 47 0, 0⟩
def classSix : Cell := ⟨6, 0, List.replicate 48 0, 0⟩

theorem smoke_cells :
    [shortCell, classSix].all (fun c => [Instr.cellForward none c, .cellArrival c, .xchCell c, .xchReply c, .completion c, .nakRetry c,
      .nakRefuse c, .getData c, .atomicResult c].all (fun i => !i.wf)) = true := by decide +kernel

theorem smoke_records :
    let b : CapBlock := { node := 0, port := 0, genMask := 0, allot := List.replicate 6 1, seeds := List.replicate 4 0 }
    Instr.wf (.exchange 0 (some b)) = true ∧ Instr.wf (.exchange 0 (some { b with allot := [1] })) = false ∧
    Instr.wf (.exchange 0 (some { b with seeds := [1] })) = false ∧ Instr.wf (.berCheck 0 [1, 2, 3]) = false ∧
    Instr.wf (.lineWrite 0 [] false ⟨.dma, []⟩) = false ∧ Instr.wf (.lineWrite 63 [1#8, 2#8] false ⟨.dma, []⟩) = false ∧
    Instr.wf (.topologyLoad ⟨1, 0, 0⟩ []) = false ∧ Instr.wf (.cfgRecord ⟨1, 0, 0⟩ 0 7 0 []) = false ∧
    Instr.wf (.pfcFrame []) = false ∧ Instr.wf (.powerSample 0 []) = false ∧ Instr.wf (.trimAdjust []) = false ∧
    Instr.wf (.memWrite ⟨1, 0, 0⟩ 0 0 1 []) = false := by decide +kernel

end Sys2Proof.Tests
end

section
/-! PROOFS. Line writes (R235): what a read of a line leaves in memory and returns by its class (Table 9-7), what bytes merged
into the line do to it, and from both the rule of O58. -/

namespace Sys2Proof.Machine

/-! ### Lines as lists of 64 bytes -/

@[simp] theorem MainMem.line_length (m : MainMem) (l : Nat) : (m.line l).length = 64 := by simp [MainMem.line]

theorem MainMem.line_getD (m : MainMem) (l : Nat) {i : Nat} (h : i < 64) : (m.line l).getD i 0 = sget 0 m.bytes (64 * l + i) := by
  simp [MainMem.line, List.getD, h]

@[simp] theorem xorSymbols_length (bs : List Byte) (e : List (Nat × Nat)) : (xorSymbols bs e).length = bs.length := by
  simp [xorSymbols]

/-! ### Memory in which one line was written again -/

/-- `m'` is `m` but for line l, which holds the data bytes `bs`, under whatever check symbols. -/
structure RewritesLine (m m' : MainMem) (l : Nat) (bs : List Byte) : Prop where
  inside : ∀ i, i < 64 → sget 0 m'.bytes (64 * l + i) = bs.getD i 0
  outside : ∀ a, (a < 64 * l ∨ 64 * l + 64 ≤ a) → sget 0 m'.bytes a = sget 0 m.bytes a
  otherDelta : ∀ k, k ≠ l → m'.deltaOf k = m.deltaOf k

section
variable {m m' : MainMem} {l off : Nat} {x bs : List Byte}

theorem RewritesLine.refl (m : MainMem) (l : Nat) : RewritesLine m m l (m.line l) :=
  ⟨fun _ h => (m.line_getD l h).symm, fun _ _ => rfl, fun _ _ => rfl⟩

theorem RewritesLine.putLine (m : MainMem) (l : Nat) (h : bs.length = 64) : RewritesLine m (m.putBytes (64 * l) bs) l bs where
  inside i hi := by rw [MainMem.putBytes_byte, if_pos (by omega), Nat.add_sub_cancel_left]
  outside a ha := by rw [MainMem.putBytes_byte, if_neg (by omega)]
  otherDelta _ _ := MainMem.putBytes_deltaOf _ _ _ _

theorem RewritesLine.putDelta (h : RewritesLine m m' l x) (d : Word64) : RewritesLine m (m'.putDelta l d) l x where
  inside := h.inside
  outside := h.outside
  otherDelta k hk := by rw [MainMem.putDelta_deltaOf, if_neg hk, h.otherDelta k hk]

/-- The write-back of a read: it leaves out the bytes, or the check symbols, that are stored already. -/
theorem RewritesLine.writeBack (m : MainMem) (l : Nat) (d e : Word64) (h : bs.length = 64) :
    RewritesLine m (if d = e then (if bs = m.line l then m else m.putBytes (64 * l) bs)
      else (if bs = m.line l then m else m.putBytes (64 * l) bs).putDelta l d) l bs := by
  have data : RewritesLine m (if bs = m.line l then m else m.putBytes (64 * l) bs) l bs := by
    split
    next same => exact same ▸ .refl m l
    next => exact .putLine m l h
  split
  · exact data
  · exact data.putDelta d

/-- Bytes merged into a line stand at their place in it. -/
theorem MainMem.merged_inside (m : MainMem) (d : Word64) {a i : Nat} (ha : a = 64 * l + off + i) (hi : i < bs.length) :
    sget 0 ((m.putBytes (64 * l + off) bs).putDelta l d).bytes a = bs.getD i 0 := by
  rw [ha, MainMem.putDelta_bytes, MainMem.putBytes_byte, if_pos (by omega), Nat.add_sub_cancel_left]

/-- The bytes of the line that the merge does not name are those of the line before it. -/
theorem RewritesLine.merged_kept (h : RewritesLine m m' l x) (d : Word64) {i : Nat} (hi : i < 64)
    (ho : i < off ∨ off + bs.length ≤ i) :
    sget 0 ((m'.putBytes (64 * l + off) bs).putDelta l d).bytes (64 * l + i) = x.getD i 0 := by
  rw [MainMem.putDelta_bytes, MainMem.putBytes_byte, if_neg (by omega), h.inside i hi]

/-- A merge within the line reaches no byte of another line. -/
theorem RewritesLine.merged_outside (h : RewritesLine m m' l x) (d : Word64) (fit : off + bs.length ≤ 64) {a : Nat}
    (ha : a < 64 * l ∨ 64 * l + 64 ≤ a) :
    sget 0 ((m'.putBytes (64 * l + off) bs).putDelta l d).bytes a = sget 0 m.bytes a := by
  rw [MainMem.putDelta_bytes, MainMem.putBytes_byte, if_neg (by omega), h.outside a ha]

/-- A merge changes the check symbols of no other line. -/
theorem RewritesLine.merged_otherDelta (h : RewritesLine m m' l x) (d : Word64) {k : Nat} (hk : k ≠ l) :
    ((m'.putBytes (64 * l + off) bs).putDelta l d).deltaOf k = m.deltaOf k := by
  rw [MainMem.putDelta_deltaOf, if_neg hk, MainMem.putBytes_deltaOf, h.otherDelta k hk]

end

/-! ### What a read finds (R243, Table 9-7) -/

/-- The class of line l of memory m under the upsets that its read finds. -/
def MainMem.classOf (m : MainMem) (l : Nat) (ups : List (Nat × BitVec 16)) : LineClass :=
  classify (syndromes (deltaErr (m.deltaOf l) ++ ups.map (fun p => (p.1, p.2.toNat))))

/-- Whether a read of a line of this class returns it poisoned: cases 2, 4 and 5. -/
def LineClass.readsPoisoned : LineClass → Bool
  | .clean | .corrected _ => false
  | .poisoned | .markerCorrected _ | .uncorrectable => true

theorem LineClass.readsPoisoned_iff (c : LineClass) :
    c.readsPoisoned = true ↔ c ∈ [LineClass.poisoned, LineClass.uncorrectable] ∨ ∃ e, c = .markerCorrected e := by
  cases c <;> simp [LineClass.readsPoisoned]

/-- Check symbols that agree with the data, and no upset: no error. -/
theorem MainMem.classOf_undisturbed (m : MainMem) (l : Nat) (h : m.deltaOf l = 0) : m.classOf l [] = .clean := by
  have zero : syndromes (deltaErr 0) = [0, 0, 0, 0] := by decide
  unfold MainMem.classOf
  rw [h, List.map_nil, List.append_nil, zero, classify]
  exact if_pos rfl

/-- A read leaves the line with the data bytes that it returns, and every other line as it was; it returns poison by the
line's class. -/
theorem State.readLine_rewrites (s : State) (l : Nat) (ups : List (Nat × BitVec 16)) :
    RewritesLine s.mem (s.readLine l ups).1.mem l (s.readLine l ups).2.1 ∧
      (s.readLine l ups).2.2 = (s.mem.classOf l ups).readsPoisoned := by
  by_cases quiet : ups = [] ∧ s.mem.deltaOf l = 0
  · obtain ⟨rfl, hd⟩ := quiet
    rw [s.readLine_quiet l [] ⟨rfl, hd⟩, s.mem.classOf_undisturbed l hd]
    exact ⟨.refl _ _, rfl⟩
  · unfold State.readLine MainMem.classOf
    rw [if_neg quiet]
    dsimp only
    split
    next clean => rw [clean]; exact ⟨.writeBack _ _ _ _ (by simp), rfl⟩
    next poisoned => rw [poisoned]; exact ⟨.writeBack _ _ _ _ (by simp), rfl⟩
    next e corrected => rw [corrected]; exact ⟨.writeBack _ _ _ _ (by simp), rfl⟩
    next e marker => rw [marker]; exact ⟨.writeBack _ _ _ _ (by simp), rfl⟩
    next uncorrectable => rw [uncorrectable]; exact ⟨.writeBack _ _ _ _ (by simp), rfl⟩

/-! ### A write of one line in an awake group -/

/-- A store of fewer than 64 bytes merges them into what a read of the line leaves, and poisons the line where the bytes or
that read are poisoned. -/
theorem State.storeLine_part (s : State) (l off : Nat) (bs : List Byte) (p : Bool) (ups : List (Nat × BitVec 16))
    (h : bs.length < 64) : (s.storeLine l off bs p ups).mem =
      ((s.fetchLine l ups).1.mem.putBytes (64 * l + off) bs).putDelta l
        (if p = true ∨ (s.fetchLine l ups).2.2 = true then poisonDelta else 0) := by
  unfold State.storeLine State.mergeLine
  rw [if_neg (by omega)]
  simp only [Bool.or_eq_true]
  rfl

/-- In an awake group a read on behalf of an agent is a read of memory as it stands. -/
theorem State.fetchLine_rewrites (s : State) (l : Nat) (ups : List (Nat × BitVec 16))
    (awake : (s.group (groupOf (channelOf (64 * l)))).selfRefresh = false) :
    RewritesLine s.mem (s.fetchLine l ups).1.mem l (s.fetchLine l ups).2.1 ∧
      (s.fetchLine l ups).2.2 = (s.mem.classOf l ups).readsPoisoned := by
  rw [← s.awake_mem l awake]
  exact (s.awake l).readLine_rewrites l ups

/-- In an awake group a transaction takes effect at once, under every traffic kind. -/
theorem State.lineRow_awake (s : State) (k : Traffic) (l : Nat) (a : LineAct)
    (awake : (s.group (groupOf (channelOf (64 * l)))).selfRefresh = false) :
    ∃ n, s.lineRow k l a = (s.awake l).act ⟨n, l, a⟩ := by
  unfold State.lineRow
  split
  next n _ => exact ⟨n, by simp [State.lineRequest, State.awake, awake]⟩
  next => exact ⟨0, rfl⟩

/-- LINE_WRITE to an awake group is a store of its bytes in their line. -/
theorem exec_lineWrite_awake (pa : Nat) (bs : List Byte) (p : Bool) (via : LineVia) (s : State) (hpa : pa < lpddrEnd)
    (hbs : bs ≠ []) (fit : pa % 64 + bs.length ≤ 64)
    (awake : (s.group (groupOf (channelOf (64 * (pa / 64))))).selfRefresh = false) :
    exec (.lineWrite pa bs p via) s = .next (s.storeLine (pa / 64) (pa % 64) bs p via.upset) := by
  obtain ⟨n, run⟩ := s.lineRow_awake via.kind (pa / 64) (.write (pa % 64) bs p via.upset) awake
  have arm : exec (.lineWrite pa bs p via) s = execLineWrite pa bs p via s := rfl
  rw [arm, execLineWrite, if_pos (by simp [inLpddr, hpa, hbs, fit]), run]
  rfl

/-- Settles O58: the store is a merge into the line as the read leaves it, or, of a whole line, into the line as it stands. -/
theorem lineWritesMergeAndKeepPoison : Obligations.LineWritesMergeAndKeepPoison := by
  intro pa bs poison k ups s hpa hbs fit awake l read found
  refine ⟨_, exec_lineWrite_awake pa bs poison ⟨k, ups⟩ s hpa hbs fit awake, ?_⟩
  dsimp only
  have place : pa = 64 * l + pa % 64 := (Nat.div_add_mod pa 64).symm
  rcases Nat.lt_or_ge bs.length 64 with part | whole
  · obtain ⟨line, poisoned⟩ := s.fetchLine_rewrites l ups awake
    rw [s.storeLine_part l _ bs poison ups part]
    refine ⟨fun i hi => MainMem.merged_inside _ _ (by omega) hi, fun a ha => line.merged_outside _ fit ha,
      fun m hm => line.merged_otherDelta _ hm, fun _ => ⟨fun i hi ho => line.merged_kept _ hi ho, ?_, ?_⟩, fun whole => by omega⟩
    · rw [MainMem.putDelta_deltaOf, if_pos rfl]
    · exact poisoned ▸ LineClass.readsPoisoned_iff _
  · have start : pa % 64 = 0 := by omega
    have line := RewritesLine.refl s.mem l
    rw [start, s.storeLine_whole l bs poison ups (by omega), s.awake_mem l awake, ← Nat.add_zero (64 * l)]
    refine ⟨fun i hi => MainMem.merged_inside _ _ (by omega) hi, fun a ha => line.merged_outside _ (by omega) ha,
      fun m hm => line.merged_otherDelta _ hm, fun part => by omega, fun _ clean => ?_⟩
    rw [MainMem.putDelta_deltaOf, if_pos rfl, if_neg (by simp [clean])]

end Sys2Proof.Machine
end

section
/-! PROOFS. A request for buffers (R274 to R276): what a refusal under R65 leaves, what a record stored in cluster memory reads
back and leaves, what the manager's answer changes, and from these the rule of O59. -/

namespace Sys2Proof.Machine

/-! ### A refused operation (R65) -/

/-- The environment of an operation in flight is that of its entry (R70). -/
theorem State.opEnv_of_entryOf (s : State) (c : Nat) (o : Op) {e : QEntry} (h : (s.core c).entryOf o = some e) :
    s.opEnv c o = ⟨e.seed, e.stepNo, e.regs, e.pos, e.progress⟩ := by
  unfold State.opEnv
  rw [h]

/-- An error whose detail fits its record takes one record. -/
theorem State.log_ras_short (s : State) (l : LogArgs) (h : l.detail.length ≤ 22) :
    (s.log l).ras = s.ras.push (s.logRecord l) := by
  have rest : l.detail.drop 22 = [] := List.drop_eq_nil_of_le h
  have pieces (n : Nat) : pieces40 n [] = [] := by cases n <;> rfl
  unfold State.log
  simp [rest, pieces]

/-- A contained error writes its own record, and no other. -/
theorem State.contained_ras (s : State) (x : Option Nat) (l : LogArgs) :
    (s.contained x l).ras = (s.log { l with cls := 2, ctx := x }).ras := by cases x <;> rfl

theorem Ras.push_nextSeq (a : Ras) (r : LogRec) : (a.push r).nextSeq = a.nextSeq + 1 := by
  unfold Ras.push
  split <;> rfl

/-- A log that is not full takes a record as it is. -/
theorem Ras.mem_push (a : Ras) (r : LogRec) (h : a.log.length < logCapacity) : r ∈ (a.push r).log := by
  unfold Ras.push
  rw [if_pos h]
  simp

/-- A core fault whose detail fits one record puts that record into the log (R77). -/
theorem State.coreFault_ras (s : State) (c : Nat) (cause : BitVec 16) (st : Status) (d : List Byte) (h : d.length ≤ 22) :
    ∃ r : LogRec, (s.coreFault c cause st d).ras = s.ras.push r ∧ r.seq = s.ras.nextSeq ∧ r.cause = cause ∧ r.status = st ∧
      r.detail = d := by
  unfold State.coreFault
  rw [State.contained_ras, State.log_ras_short _ _ h]
  exact ⟨_, rfl, rfl, rfl, rfl, List.take_of_length_le h⟩

/-- What `opRefused` does is what R65 says of a refused operation. -/
theorem State.opRefused_refusedAt (s : State) (c q pos : Nat) (st : Status) :
    RefusedAt s (s.opRefused c q pos st) c q pos st := by
  obtain ⟨r, ras, number, cause, reason, detail⟩ :=
    s.coreFault_ras c 0x2001#16 st (leBytes 2 c ++ leBytes 1 q ++ leBytes 8 pos) (by simp)
  unfold State.opRefused
  refine ⟨by rw [State.coreFault_core_same], fun x ran running => ?_, ?_, fun room => ⟨r, ?_, number, cause, reason, detail⟩⟩
  · unfold State.coreFault
    rw [ran, State.contained_ctx_same, State.modCore_ctx, running]
    rfl
  · rw [ras, Ras.push_nextSeq]
  · rw [ras]
    exact s.ras.mem_push r room

/-- A refusal after changes that leave the core's scalar processor, the contexts and the error log. -/
theorem RefusedAt.of_before {s u t : State} {c q pos : Nat} {st : Status} (h : RefusedAt u t c q pos st)
    (scalar : (u.core c).scalar = (s.core c).scalar) (ctxs : u.ctxs = s.ctxs) (ras : u.ras = s.ras) :
    RefusedAt s t c q pos st := by
  have ctx (x : Nat) : u.ctx x = s.ctx x := by rw [State.ctx, ctxs, State.ctx]
  have ran : u.ctxOfCore c = s.ctxOfCore c := by simp only [State.ctxOfCore, State.ctxOfCluster, ctx]
  simpa only [RefusedAt, scalar, ctx, ran, ras] using h

/-- Leaving its in-flight place is no matter of the scalar processor. -/
theorem State.dropEntry_scalar (s : State) (c : Nat) (o : Op) : ((s.dropEntry c o).core c).scalar = (s.core c).scalar := by
  unfold State.dropEntry
  rw [State.modCore_core_same]
  cases o.queue <;> rfl

/-! ### Bytes stored in an on-die memory (R224, R225) -/

/-- The bytes of an operation's gathered writes are stored one after another. -/
theorem Sram.commit_byteWrites_bytes (m : Sram) (a : Nat) (bs : List Byte) (dirty : List Nat) :
    (m.commit (byteWrites a bs) dirty).bytes = bs.zipIdx.foldl (fun t e => sset 0 t (a + e.2) e.1) m.bytes := by
  have full (b : Byte) : b &&& 255#8 = b := BitVec.and_allOnes
  have stored (w : Sram) (e : Byte × Nat) : (w.put ⟨a + e.2, 0xFF#8, e.1⟩).bytes = sset 0 w.bytes (a + e.2) e.1 := by
    simp [Sram.put, full]
  have run := List.foldl_hom Sram.bytes (g₁ := fun w e => w.put ⟨a + e.2, 0xFF#8, e.1⟩) 
    (g₂ := fun t e => sset 0 t (a + e.2) e.1) (l := bs.zipIdx) (init := m) (fun w e => (stored w e).symm)
  rw [run, byteWrites, Sram.commit, List.foldl_map]

theorem Sram.commit_byteWrites_byte (m : Sram) (a i : Nat) (bs : List Byte) (dirty : List Nat) :
    (m.commit (byteWrites a bs) dirty).byte i = if a ≤ i ∧ i < a + bs.length then bs.getD (i - a) 0 else m.byte i := by
  rw [Sram.byte, Sram.commit_byteWrites_bytes]
  exact sget_foldl_sset bs a 0 i m.bytes

/-- A record reads back from where it was stored. -/
theorem Sram.read_commit_byteWrites (m : Sram) (a n : Nat) (bs : List Byte) (dirty : List Nat) (h : n ≤ bs.length) :
    (m.commit (byteWrites a bs) dirty).read a n = bs.take n := by
  refine List.ext_getElem (by simp [Sram.read, h]) fun i hi _ => ?_
  have within : i < bs.length := Nat.lt_of_lt_of_le (by simpa [Sram.read] using hi) h
  simp [Sram.read, Sram.commit_byteWrites_byte, within]

/-! ### Writes into cluster memory: the cluster and the error log change, nothing else -/

/-- From s to t nothing changed but clusters and the error log. -/
def OnlyClustersAndLog (s t : State) : Prop := { t with clusters := s.clusters, ras := s.ras } = s

section
variable {s t : State} (h : OnlyClustersAndLog s t)
include h

theorem OnlyClustersAndLog.mem_eq : t.mem = s.mem := (congrArg State.mem h :)
theorem OnlyClustersAndLog.core_eq (c : Nat) : t.core c = s.core c := (congrArg (State.core · c) h :)
theorem OnlyClustersAndLog.pool_eq (p : Nat) : t.pool p = s.pool p := (congrArg (State.pool · p) h :)

end

/-- The deferred records of uncorrectable words are all that their logging writes. -/
theorem State.logSram_onlyLog (s : State) (block inst kind : Nat) (hit : List (Nat × WordErr)) :
    { s.logSram block inst kind hit with ras := s.ras } = s :=
  foldl_keeps (fun t : State => { t with ras := s.ras } = s) _ _ _ rfl (fun _ _ h => h)

theorem State.logSram_cluster (s : State) (block inst kind k : Nat) (hit : List (Nat × WordErr)) :
    (s.logSram block inst kind hit).cluster k = s.cluster k :=
  (congrArg (State.cluster · k) (s.logSram_onlyLog block inst kind hit) :)

theorem State.cmSettle_only (s : State) (k : Nat) (ranges : List (Nat × Nat)) : OnlyClustersAndLog s (s.cmSettle k ranges) := by
  unfold State.cmSettle OnlyClustersAndLog
  dsimp only
  split
  · rfl
  · exact congrArg (fun t : State => { t with clusters := s.clusters }) (State.logSram_onlyLog _ 2 k 5 _)

/-- Reading marked words changes no byte of them (R224). -/
theorem State.cmSettle_bytes (s : State) (k : Nat) (ranges : List (Nat × Nat)) :
    ((s.cmSettle k ranges).cluster k).cm.bytes = (s.cluster k).cm.bytes := by
  unfold State.cmSettle
  dsimp only
  split
  · rfl
  · rw [State.logSram_cluster, State.modCluster_cluster_same]
    rfl

theorem State.cmCommit_only (s : State) (k : Nat) (ws : List ByteWrite) (dirty : List Nat) :
    OnlyClustersAndLog s (s.cmCommit k ws dirty) :=
  s.cmSettle_only k (partialWords ws)

/-- A record reads back from where it was stored in cluster memory. -/
theorem State.cmCommit_read (s : State) (k a n : Nat) (bs : List Byte) (dirty : List Nat) (h : n ≤ bs.length) :
    ((s.cmCommit k (byteWrites a bs) dirty).cluster k).cm.read a n = bs.take n := by
  unfold State.cmCommit
  rw [State.modCluster_cluster_same]
  exact Sram.read_commit_byteWrites _ a n bs dirty h

/-! ### The manager's answer (R274, R275) -/

/-- The manager changes pools, and nothing else. -/
theorem State.poolGet_onlyPools (s : State) (x pool size req : Nat) :
    { (s.poolGet x pool size req).1 with pools := s.pools } = s := by
  unfold State.poolGet
  dsimp only
  split
  next st _ => split <;> rfl
  next => split <;> rfl

/-- A request refused of an existing pool is counted there. -/
theorem State.poolGet_refused (s : State) {x pool size req : Nat} {st : Status} (hp : pool < 64)
    (h : poolGetCheck s x pool size req = some st) :
    s.poolGet x pool size req = (s.modPool pool (fun p => p.failed st), .error st) := by
  unfold State.poolGet
  rw [h]
  exact congrArg (·, _) (if_pos hp)

/-- A request that passes every check but that for a block is refused with BPM_EMPTY (Table 11-4). -/
theorem poolGetCheck_noBlock {s : State} {x pool size req : Nat} (hp : pool < 64) (enabled : (s.pool pool).enabled = true)
    (owner : (s.pool pool).owner = x) (hsize : 1 ≤ size) (span : spanLog2Of size (s.pool pool).log2 ≤ 4) (hreq : req < 32)
    (quota : (s.pool pool).held req + 2 ^ spanLog2Of size (s.pool pool).log2 ≤ (s.pool pool).limit req)
    (reserve : 2 ^ spanLog2Of size (s.pool pool).log2 + (s.pool pool).shortfall req ≤ (s.pool pool).free)
    (noBlock : (s.pool pool).block (spanLog2Of size (s.pool pool).log2) = none) :
    poolGetCheck s x pool size req = some (bpmStatus 9) := by
  simp [poolGetCheck, firstFail, hp, enabled, owner, hsize, span, hreq, Nat.not_lt.mpr quota, Nat.not_lt.mpr reserve, noBlock]

/-- A refusal changes nothing of the pool but its counts of failures (Table 11-7). -/
theorem Pool.failed_onlyFail (p : Pool) (st : Status) : { p.failed st with fail := p.fail } = p := by
  unfold Pool.failed
  split_ifs <;> rfl

/-! ### BUF_GET (R276) -/

/-- The device once record `bs` stands at the result address in cluster memory and the request ended done. -/
def State.bufReplied (s : State) (c : Nat) (f : BufGetF) (bs : List Byte) : State :=
  (s.cmCommit (clusterOf c) (byteWrites f.result.addr bs) []).recordOutcome c (.dma (.bufGet f)) .done

theorem State.bufReplied_mem (s : State) (c : Nat) (f : BufGetF) (bs : List Byte) : (s.bufReplied c f bs).mem = s.mem :=
  (s.cmCommit_only _ _ []).mem_eq

theorem State.bufReplied_pool (s : State) (c : Nat) (f : BufGetF) (bs : List Byte) (q : Nat) :
    (s.bufReplied c f bs).pool q = s.pool q :=
  (s.cmCommit_only _ _ []).pool_eq q

theorem State.bufReplied_ended (s : State) (c : Nat) (f : BufGetF) (bs : List Byte) :
    Ended s (s.bufReplied c f bs) c (.dma (.bufGet f)) .done := by
  have same := (s.cmCommit_only (clusterOf c) (byteWrites f.result.addr bs) []).core_eq c
  rw [State.bufReplied, Ended, State.recordOutcome_inFlight, same]

theorem State.bufReplied_read (s : State) (c : Nat) (f : BufGetF) {bs : List Byte} {n : Nat} (h : n ≤ bs.length) :
    ((s.bufReplied c f bs).cluster (clusterOf c)).cm.read f.result.addr n = bs.take n :=
  s.cmCommit_read (clusterOf c) f.result.addr n bs [] h

/-- The record of a refusal: a handle of 0, the reason, and zeros. -/
theorem bufRecord_error_take (st : Status) : (bufRecord (.error st)).take 6 = leBytes 4 0 ++ leBytes 2 st.toNat := rfl

/-- Where BUF_GET's result lies in cluster memory, the manager's answer is replied in its record, or its refusal that a
record does not carry refuses the operation. -/
theorem State.bufGet_cases (s : State) {c x : Nat} {f : BufGetF} {e : QEntry}
    (he : (s.core c).entryOf (.dma (.bufGet f)) = some e) (addr : bufAddrCheck s c f = none) (cm : f.result.kind = .cm)
    (hx : s.ctxOfCore c = some x) :
    let r := s.poolGet x f.pool f.size f.requester
    s.bufGet c f = r.1.bufReplied c f (bufRecord r.2) ∨
      ∃ st, r.2 = .error st ∧ bufAnswered st = false ∧
        s.bufGet c f = (r.1.dropEntry c (.dma (.bufGet f))).opRefused c 2 e.pos st := by
  have store (t : State) (bs : List Byte) : t.storeDmCm c f.result bs =
      (t.cmCommit (clusterOf c) (byteWrites f.result.addr bs) [], .done) := if_neg (by simp [cm])
  unfold State.bufGet
  simp only [addr, hx, s.opEnv_of_entryOf c _ he, store, Option.getD_some]
  split
  next st answer =>
    by_cases carried : bufAnswered st = true
    · rw [if_pos carried]
      exact .inl rfl
    · rw [if_neg carried]
      exact .inr ⟨st, answer, by simpa using carried, rfl⟩
  next v _ => exact .inl rfl

/-- BUF_GET whose request finds no block: the pool counts a failure, and the record carries BPM_EMPTY (R275). -/
theorem State.bufGet_empty (s : State) {c x : Nat} {f : BufGetF} {e : QEntry}
    (he : (s.core c).entryOf (.dma (.bufGet f)) = some e) (addr : bufAddrCheck s c f = none) (cm : f.result.kind = .cm)
    (hx : s.ctxOfCore c = some x) (hp : f.pool < 64) (h : poolGetCheck s x f.pool f.size f.requester = some (bpmStatus 9)) :
    s.bufGet c f =
      (s.modPool f.pool (fun p => p.failed (bpmStatus 9))).bufReplied c f (bufRecord (.error (bpmStatus 9))) := by
  have answer := s.poolGet_refused hp h
  rcases s.bufGet_cases he addr cm hx with replied | ⟨st, refused, uncarried, -⟩
  · rw [replied, answer]
  · rw [answer] at refused
    cases refused
    exact absurd uncarried (by decide)

/-- Settles O59: whatever the manager answers, the operation ends done with its record or is refused under R65; without a
block it is the former, with BPM_EMPTY. -/
theorem bufferRequestNeverWaits : Obligations.BufferRequestNeverWaits := by
  intro c f s x e he addr cm hx
  have pools := s.poolGet_onlyPools x f.pool f.size f.requester
  have core : (s.poolGet x f.pool f.size f.requester).1.core c = s.core c := (congrArg (State.core · c) pools :)
  have mem : (s.poolGet x f.pool f.size f.requester).1.mem = s.mem := (congrArg State.mem pools :)
  refine ⟨s.bufGet c f, rfl, ?_, ?_, ?_⟩
  · rcases s.bufGet_cases he addr cm hx with replied | ⟨st, -, -, refused⟩
    · rw [replied, State.bufReplied_mem, mem]
    · rw [refused, State.opRefused, State.coreFault_mem, State.dropEntry_mem, mem]
  · rcases s.bufGet_cases he addr cm hx with replied | ⟨st, -, -, refused⟩
    · exact .inl (by rw [Ended, replied, State.bufReplied_ended, core])
    · refine .inr ⟨st, refused ▸ (State.opRefused_refusedAt _ _ _ _ _).of_before ?_ ?_ ?_⟩
      · rw [State.dropEntry_scalar, core]
      · exact (congrArg State.ctxs pools :)
      · exact (congrArg State.ras pools :)
  · intro p sp hp enabled owner size span req quota reserve noBlock
    rw [s.bufGet_empty he addr cm hx hp (poolGetCheck_noBlock hp enabled owner size span req quota reserve noBlock)]
    refine ⟨State.bufReplied_ended _ c f _, ?_, fun q other => ?_, ?_⟩
    · rw [State.bufReplied_pool, State.modPool_pool_same]
      exact p.failed_onlyFail _
    · rw [State.bufReplied_pool, State.modPool_pool_other _ _ other]
    · rw [State.bufReplied_read _ _ _ (by simp [bufRecord]), bufRecord_error_take]

end Sys2Proof.Machine
end

section
/-! PROOFS. The channel that a cell leaves on (R356): the port chosen in a list in ascending order, what leaving its place
and joining a port's queue do to the queues, and from these the rule of O60. -/

namespace Sys2Proof.Machine

/-! ### The port of lowest occupancy -/

/-- The choice of a port is the library's `List.argmin`, which keeps the first of equals. -/
theorem State.bestPort_eq_argmin (s : State) (vc : Nat) (ps : List Nat) :
    s.bestPort vc ps =
      (ps.filter (fun p => decide (0 < sget 0 (s.port p).credits vc))).argmin (fun p => (s.port p).occupancy vc) := by
  unfold State.bestPort List.argmin
  congr 1
  funext b p
  cases b <;> rfl

theorem State.exists_bestPort (s : State) {vc q : Nat} {ps : List Nat} (hq : q ∈ ps)
    (credit : 0 < sget 0 (s.port q).credits vc) : ∃ p, s.bestPort vc ps = some p := by
  rw [← Option.ne_none_iff_exists', State.bestPort_eq_argmin, Ne, List.argmin_eq_none]
  exact List.ne_nil_of_mem (List.mem_filter.2 ⟨hq, decide_eq_true credit⟩)

/-- In an ascending list, the element found first is the lower one. -/
theorem le_of_idxOf_le {l : List Nat} (sorted : l.SortedLT) {p r : Nat} (hp : p ∈ l) (hr : r ∈ l)
    (h : l.idxOf p ≤ l.idxOf r) : p ≤ r := by
  have := sorted.getElem_le_getElem_iff (hi := List.idxOf_lt_length_of_mem hp) (hj := List.idxOf_lt_length_of_mem hr)
  simpa using this.2 h

/-- The chosen port has credit, no other with credit is less occupied, and an equally occupied one has no lower number. -/
theorem State.bestPort_least (s : State) {vc p : Nat} {ps : List Nat} (sorted : ps.SortedLT) (h : s.bestPort vc ps = some p) :
    p ∈ ps ∧ 0 < sget 0 (s.port p).credits vc ∧
      ∀ r ∈ ps, 0 < sget 0 (s.port r).credits vc →
        (s.port p).occupancy vc ≤ (s.port r).occupancy vc ∧
        ((s.port r).occupancy vc = (s.port p).occupancy vc → p ≤ r) := by
  rw [State.bestPort_eq_argmin] at h
  obtain ⟨hp, least, first⟩ := List.argmin_eq_some_iff.1 h
  obtain ⟨listed, credit⟩ := List.mem_filter.1 hp
  refine ⟨listed, of_decide_eq_true credit, fun r hr creditR => ?_⟩
  have eligible : r ∈ ps.filter (fun p => decide (0 < sget 0 (s.port p).credits vc)) :=
    List.mem_filter.2 ⟨hr, decide_eq_true creditR⟩
  exact ⟨least r eligible, fun tie =>
    le_of_idxOf_le (sorted.pairwise.filter _).sortedLT hp eligible (first r eligible tie.le)⟩

theorem State.candidates_sortedLT (s : State) (t : Topology) (dest : Nat) : (s.candidates t dest).SortedLT :=
  (List.pairwise_lt_range.filter _).sortedLT

/-- A candidate with adaptive credit is taken before any escape channel (R356, R357). -/
theorem State.chooseLink_adaptive (s : State) (t : Topology) (c : Cell) {p : Nat}
    (h : s.bestPort (3 * c.cls) (s.candidates t (hDest c.hdr)) = some p) : s.chooseLink t c = some (p, 3 * c.cls) := by
  unfold State.chooseLink
  simp only [h]

/-! ### A cell leaves its place and joins a queue -/

@[simp] theorem Port.enqueue_waiting (v : Port) (z : VcCell) : (v.enqueue z).waiting = v.waiting ++ [z] := by
  unfold Port.enqueue
  split <;> rfl

/-- A cell leaves one of transport's queues or the input buffer of one port. -/
theorem State.leave_cases {s u : State} {src : Option (PortId × Nat)} {c : Cell} (h : s.leave src c = some u) :
    (∃ x, u = { s with xpt := x }) ∨
      ∃ p input struck returns, u = s.setPort p { s.port p with input := input, struck := struck, returns := returns } := by
  unfold State.leave at h
  split at h
  next =>
    split at h
    · exact .inl ⟨_, (Option.some.inj h).symm⟩
    · split at h
      · exact .inl ⟨_, (Option.some.inj h).symm⟩
      · exact absurd h nofun
  next p vc =>
    dsimp only at h
    split at h
    · exact .inr ⟨p, _, _, _, (Option.some.inj h).symm⟩
    · exact absurd h nofun

theorem State.leave_mem {s u : State} {src : Option (PortId × Nat)} {c : Cell} (h : s.leave src c = some u) : u.mem = s.mem := by
  rcases State.leave_cases h with ⟨_, rfl⟩ | ⟨_, _, _, _, rfl⟩ <;> rfl

theorem State.leave_waiting {s u : State} {src : Option (PortId × Nat)} {c : Cell} (h : s.leave src c = some u) (k : Nat) :
    (u.port k).waiting = (s.port k).waiting := by
  rcases State.leave_cases h with ⟨_, rfl⟩ | ⟨p, _, _, _, rfl⟩
  · rfl
  · rw [State.setPort_port]
    split
    next same => rw [same]
    next => rfl

/-- CELL_FORWARD of a cell that may take a channel: it leaves its place and joins the chosen port's queue. -/
theorem exec_cellForward_chosen {src : Option (PortId × Nat)} {c : Cell} {s u : State} {t : Topology} {p vc : Nat}
    (topo : s.xpt.topo = some t) (left : s.leave src c = some u) (other : hDest c.hdr ≠ t.node.toNat)
    (kept : s.lostAt src c = false) (inside : hDest c.hdr < t.nodes) (candidate : s.candidates t (hDest c.hdr) ≠ [])
    (chosen : s.chooseLink t c = some (p, vc)) :
    exec (.cellForward src c) s = .next (u.modPort p (fun v => v.enqueue ⟨vc, c⟩)) := by
  have arm : exec (.cellForward src c) s = execCellForward src c s := rfl
  have routable : ¬ (t.nodes ≤ hDest c.hdr ∨ s.candidates t (hDest c.hdr) = []) :=
    not_or.2 ⟨Nat.not_le.2 inside, candidate⟩
  rw [arm]
  simp [execCellForward, topo, left, other, kept, routable, chosen]

/-- Settles O60: the port chosen among the candidates, which stand in ascending order, is the least occupied and of equals the
lowest, and the cell joins its queue. -/
theorem adaptiveChannelOfLowestOccupancy : Obligations.AdaptiveChannelOfLowestOccupancy := by
  intro src c s u t q topo left other kept inside hq credit
  obtain ⟨p, best⟩ := s.exists_bestPort hq credit
  obtain ⟨hp, creditP, least⟩ := s.bestPort_least (s.candidates_sortedLT t _) best
  refine ⟨p, hp, creditP, least, _, exec_cellForward_chosen topo left other kept inside (List.ne_nil_of_mem hq)
    (s.chooseLink_adaptive t c best), ?_, ?_⟩
  · rw [State.modPort_port_same, Port.enqueue_waiting, State.leave_waiting left]
  · rw [State.modPort_mem, State.leave_mem left]

end Sys2Proof.Machine
end
section
/-! PROOFS. What every command keeps: the queue, local time and the canonical form of main memory (`Keeps`). A lemma for each
function of the model that answers a state, named after it, in the order of the model's files; `Keeps.exec` puts those of the
commands together, and O2, O3 and O1 follow from it. O4 reads the reset state. -/

namespace Sys2Proof.Machine

/-- From s to t the queue of commands and local time stand, and main memory keeps its canonical form. -/
structure Keeps (s t : State) : Prop where
  pending : t.pending = s.pending
  now : t.now = s.now
  settled : Settled s → Settled t

namespace Keeps
variable {s t u : State}

theorem refl (s : State) : Keeps s s := ⟨rfl, rfl, id⟩

theorem trans (h : Keeps s t) (k : Keeps t u) : Keeps s u :=
  ⟨k.pending.trans h.pending, k.now.trans h.now, k.settled ∘ h.settled⟩

/-- A change of other fields than the queue, local time and main memory. -/
theorem record {fc co cl gr ch me ct po pr tt xp hp la fl cs pw ra pi} (h : Keeps s t) :
    Keeps s (State.mk t.pending fc t.now co cl gr ch me t.mem ct po pr tt xp hp la fl cs pw ra pi) := ⟨h.1, h.2, h.3⟩

theorem of_lineOnly (h : LineOnly s t) : Keeps s t :=
  ⟨(congrArg State.pending h.1 :), (congrArg State.now h.1 :), h.2⟩

theorem ite {c : Prop} {d : Decidable c} (h : Keeps s t) (k : Keeps s u) : Keeps s (if c then t else u) := by
  split
  · exact h
  · exact k

theorem foldl {α : Type} {f : State → α → State} {l : List α} (h : Keeps s t) (k : ∀ u a, Keeps s u → Keeps s (f u a)) :
    Keeps s (l.foldl f t) := foldl_keeps (Keeps s) _ _ _ h k

theorem foldl_fst {α β : Type} {f : State × β → α → State × β} {l : List α} {b : State × β} (h : Keeps s b.1)
    (k : ∀ u a,
      Keeps s u.1 → Keeps s (f u a).1) : Keeps s (l.foldl f b).1 := foldl_keeps (fun p : State × β => Keeps s p.1) _ _ _ h k

/-- A computation that answers a state: the state that it answers, if any, keeps what s keeps. -/
theorem foldl_ok {α ε : Type} {f : Except ε State → α → Except ε State} {l : List α} {b : Except ε State}
    (e : l.foldl f b = .ok u) (h : ∀ v, b = .ok v → Keeps s v)
    (k : ∀ r a, (∀ v, r = .ok v → Keeps s v) → ∀ v, f r a = .ok v → Keeps s v) : Keeps s u :=
  foldl_keeps (fun r : Except ε State => ∀ v, r = .ok v → Keeps s v) _ _ _ h k u e

theorem foldl_ok_fst {α β ε : Type} {f : Except ε (State × β) → α → Except ε (State × β)} {l : List α}
    {b : Except ε (State × β)} {u : State × β} (e : l.foldl f b = .ok u) (h : ∀ v, b = .ok v → Keeps s v.1)
    (k : ∀ r a, (∀ v, r = .ok v → Keeps s v.1) → ∀ v, f r a = .ok v → Keeps s v.1) : Keeps s u.1 :=
  foldl_keeps (fun r : Except ε (State × β) => ∀ v, r = .ok v → Keeps s v.1) _ _ _ h k u e

theorem foldlM_ok {α ε : Type} {f : State → α → Except ε State} {l : List α} (e : l.foldlM f t = .ok u) (h : Keeps s t)
    (k : ∀ v a w, Keeps s v → f v a = .ok w → Keeps s w) : Keeps s u := by
  induction l generalizing t with
  | nil => cases e; exact h
  | cons a l ih =>
    rw [List.foldlM_cons] at e
    cases hf : f t a with
    | error x => rw [hf] at e; cases e
    | ok v => rw [hf] at e; exact ih e (k _ _ _ h hf)

theorem foldlM_ok_fst {α β ε : Type} {f : State × β → α → Except ε (State × β)} {l : List α} {t u : State × β}
    (e : l.foldlM f t = .ok u) (h : Keeps s t.1) (k : ∀ v a w, Keeps s v.1 → f v a = .ok w → Keeps s w.1) : Keeps s u.1 := by
  induction l generalizing t with
  | nil => cases e; exact h
  | cons a l ih =>
    rw [List.foldlM_cons] at e
    cases hf : f t a with
    | error x => rw [hf] at e; cases e
    | ok v => rw [hf] at e; exact ih e (k _ _ _ h hf)

end Keeps

theorem except_bind_ok {α β ε : Type} (x : Except ε α) (f : α → Except ε β) (b : β) :
    (x >>= f) = .ok b ↔ ∃ a, x = .ok a ∧ f a = .ok b := by
  cases x with
  | error e => exact ⟨nofun, nofun⟩
  | ok a => exact ⟨fun h => ⟨a, rfl, h⟩, fun ⟨_, h, k⟩ => Except.ok.inj h ▸ k⟩

theorem option_bind_some {α β : Type} (x : Option α) (f : α → Option β) (b : β) :
    (x >>= f) = some b ↔ ∃ a, x = some a ∧ f a = some b := Option.bind_eq_some_iff

theorem except_bind_error {α β ε : Type} (x : Except ε α) (f : α → Except ε β) (z : ε) :
    (x >>= f) = .error z ↔ x = .error z ∨ ∃ a, x = .ok a ∧ f a = .error z := by
  cases x with
  | error e => exact ⟨fun h => .inl (Except.error.inj h ▸ rfl), fun h => h.elim (fun h => Except.error.inj h ▸ rfl) nofun⟩
  | ok a => exact ⟨fun h => .inr ⟨a, rfl, h⟩, fun h => h.elim nofun fun ⟨_, h, k⟩ => Except.ok.inj h ▸ k⟩

theorem except_map_ok {α β ε : Type} (x : Except ε α) (f : α → β) (b : β) : x.map f = .ok b ↔ ∃ a, x = .ok a ∧ f a = b := by
  cases x with
  | error e => exact ⟨nofun, nofun⟩
  | ok a => exact ⟨fun h => ⟨a, rfl, Except.ok.inj h⟩, fun ⟨_, h, k⟩ => Except.ok.inj h ▸ congrArg Except.ok k⟩

theorem held_ok {α : Type} (s : State) (r : Except MemStop α) (a : α) : s.held r = .ok a ↔ r = .ok a := by
  cases r with
  | error e => exact ⟨nofun, nofun⟩
  | ok b => exact ⟨fun h => congrArg Except.ok (Except.ok.inj h), fun h => congrArg Except.ok (Except.ok.inj h)⟩

theorem held_error {α : Type} (s : State) (r : Except MemStop α) (z : State × MemStop) (h : s.held r = .error z) : z.1 = s
    := by
  cases r with
  | error e => cases h; rfl
  | ok b => cases h

/-- The state in which a first cell is answered, admitted or dropped. -/
def Admit.state : Admit → State
  | .nak _ _ t => t
  | .go t _ => t
  | .drop t => t

/-- The state that room for an entry, or the lack of it, leaves. -/
def Room.state : Room → State
  | .fits t => t
  | .waits t => t
  | .exhausted t => t
  | .fault t _ _ _ => t

theorem Sparse.wf_filter {α : Type} [DecidableEq α] {d : α} {m : Sparse α} (p : Nat × α → Bool) (h : Sparse.wf d m = true) :
    Sparse.wf d (m.filter p) = true := by
  rw [Sparse.wf_iff] at h ⊢
  exact ⟨h.1.filter p, fun e he => h.2 e (List.mem_of_mem_filter he)⟩

/-- Main memory without the bytes and check symbols of some places stays in canonical form. -/
theorem MainMem.wf_filter {m : MainMem} {p : Nat × Byte → Bool} {q : Nat × Word64 → Bool} (h : m.wf = true) :
    MainMem.wf { bytes := m.bytes.filter p, delta := m.delta.filter q } = true := by
  simp only [MainMem.wf, Bool.and_eq_true] at h ⊢
  exact ⟨Sparse.wf_filter p h.1, Sparse.wf_filter q h.2⟩

section
variable {s t u : State}

/-! ### Ops.lean -/

theorem Keeps.setCore (h : Keeps s t) {c v} : Keeps s (State.setCore t c v) := by
  grind [State.setCore, Keeps.record]

theorem Keeps.modCore (h : Keeps s t) {c f} : Keeps s (State.modCore t c f) := by
  grind [State.modCore, Keeps.setCore]

theorem Keeps.setCluster (h : Keeps s t) {k v} : Keeps s (State.setCluster t k v) := by
  grind [State.setCluster, Keeps.record]

theorem Keeps.modCluster (h : Keeps s t) {k f} : Keeps s (State.modCluster t k f) := by
  grind [State.modCluster, Keeps.setCluster]

theorem Keeps.setGroup (h : Keeps s t) {g v} : Keeps s (State.setGroup t g v) := by
  grind [State.setGroup, Keeps.record]

theorem Keeps.modGroup (h : Keeps s t) {g f} : Keeps s (State.modGroup t g f) := by
  grind [State.modGroup, Keeps.setGroup]

theorem Keeps.setChannel (h : Keeps s t) {n v} : Keeps s (State.setChannel t n v) := by
  grind [State.setChannel, Keeps.record]

theorem Keeps.modChannel (h : Keeps s t) {n f} : Keeps s (State.modChannel t n f) := by
  grind [State.modChannel, Keeps.setChannel]

theorem Keeps.setCtx (h : Keeps s t) {x v} : Keeps s (State.setCtx t x v) := by
  grind [State.setCtx, Keeps.record]

theorem Keeps.modCtx (h : Keeps s t) {x f} : Keeps s (State.modCtx t x f) := by
  grind [State.modCtx, Keeps.setCtx]

theorem Keeps.setPool (h : Keeps s t) {p v} : Keeps s (State.setPool t p v) := by
  grind [State.setPool, Keeps.record]

theorem Keeps.modPool (h : Keeps s t) {p f} : Keeps s (State.modPool t p f) := by
  grind [State.modPool, Keeps.setPool]

theorem Keeps.setPort (h : Keeps s t) {p v} : Keeps s (State.setPort t p v) := by
  grind [State.setPort, Keeps.record]

theorem Keeps.modPort (h : Keeps s t) {p f} : Keeps s (State.modPort t p f) := by
  grind [State.modPort, Keeps.setPort]

theorem Keeps.drawn (h : Keeps s t) : Keeps s (State.drawn t) := by
  grind [State.drawn, Keeps.record]

theorem Keeps.log (h : Keeps s t) {l} : Keeps s (State.log t l) := by
  grind [State.log, Keeps.foldl, Keeps.foldl_fst, Keeps.record]

theorem Keeps.modSessions (h : Keeps s t) {p f} : Keeps s (State.modSessions t p f) := by
  grind [State.modSessions, Keeps.record]

theorem Keeps.noticeCtx (h : Keeps s t) {x kind body} : Keeps s (State.noticeCtx t x kind body) := by
  grind [State.noticeCtx, Keeps.modSessions]

theorem Keeps.noticeDev (h : Keeps s t) {kind body} : Keeps s (State.noticeDev t kind body) := by
  grind [State.noticeDev, Keeps.modSessions]

theorem Keeps.contained (h : Keeps s t) {x l} : Keeps s (State.contained t x l) := by
  unfold State.contained
  grind [Keeps.log, Keeps.noticeCtx, Keeps.modCtx]

theorem Keeps.deferred (h : Keeps s t) {l} : Keeps s (State.deferred t l) := by
  grind [State.deferred, Keeps.log]

theorem Keeps.corrected (h : Keeps s t) {l} : Keeps s (State.corrected t l) := by
  grind [State.corrected, Keeps.log]

theorem Keeps.fatalError (h : Keeps s t) {l fabric} : Keeps s (State.fatalError t l fabric) := by
  grind [State.fatalError, Keeps.log, Keeps.modCtx, Keeps.modCore, Keeps.modPort, Keeps.noticeDev, Keeps.foldl,
    Keeps.foldl_fst, Keeps.record]

/-! ### Flags.lean -/

theorem Keeps.setFlag (h : Keeps s t) {k id v} : Keeps s (State.setFlag t k id v) := by
  grind [State.setFlag, Keeps.modCluster, Keeps.modCore]

theorem Keeps.setFlagOvf (h : Keeps s t) {k id} : Keeps s (State.setFlagOvf t k id) := by
  grind [State.setFlagOvf, Keeps.modCluster]

theorem Keeps.addFlag (h : Keeps s t) {k id n} : Keeps s (State.addFlag t k id n) := by
  grind [State.addFlag, Keeps.setFlag, Keeps.setFlagOvf]

/-! ### Memory.lean -/

theorem Keeps.readLine (h : Keeps s t) {l upset} : Keeps s (State.readLine t l upset).1 :=
  h.trans (.of_lineOnly (t.readLine_lineOnly l upset))

theorem Keeps.mergeLine (h : Keeps s t) {l off bs poison upset} : Keeps s (State.mergeLine t l off bs poison upset) :=
  h.trans (.of_lineOnly (t.mergeLine_lineOnly l off bs poison upset))

theorem Keeps.atomicLine (h : Keeps s t) {l off op operand compare upset} : Keeps s (State.atomicLine t l off op operand
    compare upset).1 := by
  grind [State.atomicLine, Keeps.readLine, Keeps.mergeLine]

theorem Keeps.act (h : Keeps s t) {a0} : Keeps s (State.act t a0) := by
  grind [State.act, Keeps.readLine, Keeps.mergeLine, Keeps.atomicLine]

theorem Keeps.takeSlots (h : Keeps s t) {ch} : Keeps s (State.takeSlots t ch) := by
  grind [State.takeSlots, Keeps.modChannel, Keeps.foldl, Keeps.foldl_fst, Keeps.record]

theorem Keeps.turn (h : Keeps s t) {ch} : Keeps s (State.turn t ch) := by
  grind [State.turn, Keeps.act, Keeps.setChannel, Keeps.foldl, Keeps.foldl_fst, Keeps.record]

theorem Keeps.drain (h : Keeps s t) {ch n} : Keeps s (State.drain ch n t) :=
  h.trans (.of_lineOnly (State.drain_lineOnly ch n t))

theorem Keeps.touched (h : Keeps s t) {g} : Keeps s (State.touched t g) := by
  grind [State.touched, Keeps.setGroup]

theorem Keeps.drainGroup (h : Keeps s t) {g} : Keeps s (State.drainGroup t g) := by
  grind [State.drainGroup, Keeps.drain, Keeps.foldl, Keeps.foldl_fst]

theorem Keeps.srExit (h : Keeps s t) {g} : Keeps s (State.srExit t g) := by
  grind [State.srExit, Keeps.touched, Keeps.drainGroup, Keeps.modGroup]

theorem Keeps.awake (h : Keeps s t) {l} : Keeps s (State.awake t l) := by
  grind [State.awake, Keeps.srExit, Keeps.touched]

theorem Keeps.lineRequest (h : Keeps s t) {a0} : Keeps s (State.lineRequest t a0) := by
  grind [State.lineRequest, Keeps.act, Keeps.touched, Keeps.modChannel, Keeps.record]

theorem Keeps.fetchLine (h : Keeps s t) {l upset} : Keeps s (State.fetchLine t l upset).1 := by
  grind [State.fetchLine, Keeps.readLine, Keeps.awake]

theorem Keeps.storeLine (h : Keeps s t) {l off bs poison upset} : Keeps s (State.storeLine t l off bs poison upset) := by
  grind [State.storeLine, Keeps.mergeLine, Keeps.awake]

theorem Keeps.readPa (h : Keeps s t) {pa n} : Keeps s (State.readPa t pa n).1 := by
  grind [State.readPa, Keeps.fetchLine, Keeps.foldl, Keeps.foldl_fst]

theorem Keeps.writePa (h : Keeps s t) {pa bs poison} : Keeps s (State.writePa t pa bs poison) := by
  grind [State.writePa, Keeps.storeLine, Keeps.foldl, Keeps.foldl_fst]

theorem Keeps.writePaClean (h : Keeps s t) {pa bs} : Keeps s (State.writePaClean t pa bs) := by
  grind [State.writePaClean, Keeps.writePa]

theorem Keeps.atomicPa (h : Keeps s t) {pa op operand compare upset} : Keeps s (State.atomicPa t pa op operand compare
    upset).1 := by
  grind [State.atomicPa, Keeps.atomicLine, Keeps.awake]

/-! ### Translate.lean -/

theorem Keeps.readVa (h : Keeps s t) {x agent va n} {r} (e : State.readVa t x agent va n = .ok r) : Keeps s r.1 := by
  grind [State.readVa, Keeps.readPa, Keeps.foldl, Keeps.foldl_fst]

theorem Keeps.writeVa (h : Keeps s t) {x agent va bs poison}
    (e : State.writeVa t x agent va bs poison = .ok u) : Keeps s u := by
  grind [State.writeVa, Keeps.writePa, Keeps.foldl, Keeps.foldl_fst]

theorem Keeps.modWaits (h : Keeps s t) {x g a2} : Keeps s (State.modWaits t x g a2) := by
  grind [State.modWaits, Keeps.modCluster, Keeps.foldl, Keeps.foldl_fst]

theorem Keeps.pauseRecvs (h : Keeps s t) {x} : Keeps s (State.pauseRecvs t x) := by
  grind [State.pauseRecvs, Keeps.modWaits]

theorem Keeps.resumeRecvs (h : Keeps s t) {x} : Keeps s (State.resumeRecvs t x) := by
  grind [State.resumeRecvs, Keeps.modWaits]

theorem Keeps.tlbCore (h : Keeps s t) {c a1} : Keeps s (State.tlbCore t c a1) := by
  grind [State.tlbCore, Keeps.modCore]

theorem Keeps.tlbPut (h : Keeps s t) {a0 unit a2} : Keeps s (State.tlbPut t a0 unit a2) := by
  unfold State.tlbPut
  grind [Keeps.modCluster, Keeps.tlbCore, Keeps.modGroup, Keeps.record]

theorem Keeps.tlbRefill (h : Keeps s t) {x a1 unit page} : Keeps s (State.tlbRefill t x a1 unit page) := by
  unfold State.tlbRefill
  grind [Keeps.tlbCore]

theorem Keeps.walkStarted (h : Keeps s t) {a0 unit} : Keeps s (State.walkStarted t a0 unit) := by
  grind [State.walkStarted, Keeps.modCluster]

theorem Keeps.walkFailed (h : Keeps s t) {a0 unit} : Keeps s (State.walkFailed t a0 unit) := by
  grind [State.walkFailed, Keeps.modCluster]

theorem Keeps.faultWalk (h : Keeps s t) {x f} : Keeps s (State.faultWalk t x f) := by
  grind [State.faultWalk, Keeps.walkFailed, Keeps.walkStarted]

theorem Keeps.tfault (h : Keeps s t) {x f block inst progress} : Keeps s (State.tfault t x f block inst progress) := by
  grind [State.tfault, Keeps.modCtx, Keeps.faultWalk, Keeps.noticeCtx, Keeps.pauseRecvs, Keeps.log, Keeps.contained]

/-! ### Engine.lean -/

theorem Keeps.recordOutcome (h : Keeps s t) {c o a2} : Keeps s (State.recordOutcome t c o a2) := by
  grind [State.recordOutcome, Keeps.modCore]

theorem Keeps.dropEntry (h : Keeps s t) {c o} : Keeps s (State.dropEntry t c o) := by
  grind [State.dropEntry, Keeps.modCore]

theorem Keeps.holdEntry (h : Keeps s t) {c o progress cause} : Keeps s (State.holdEntry t c o progress cause) := by
  grind [State.holdEntry, Keeps.modCore]

theorem Keeps.coreFault (h : Keeps s t) {c cause status detail} : Keeps s (State.coreFault t c cause status detail) := by
  grind [State.coreFault, Keeps.contained, Keeps.modCore]

theorem Keeps.opRefused (h : Keeps s t) {c q pos st} : Keeps s (State.opRefused t c q pos st) := by
  grind [State.opRefused, Keeps.coreFault]

theorem Keeps.runOp (h : Keeps s t) {c o check eff} (k : ∀ env,
  Keeps s (eff env t).1) : Keeps s (State.runOp t c o check eff) := by
  unfold State.runOp
  grind [Keeps.opRefused, Keeps.dropEntry, Keeps.recordOutcome]

theorem Keeps.logSram (h : Keeps s t) {block inst kind hit} : Keeps s (State.logSram t block inst kind hit) := by
  grind [State.logSram, Keeps.deferred, Keeps.foldl, Keeps.foldl_fst]

theorem Keeps.ocSettle (h : Keeps s t) {c ranges} : Keeps s (State.ocSettle t c ranges) := by
  grind [State.ocSettle, Keeps.logSram, Keeps.modCore]

theorem Keeps.cmSettle (h : Keeps s t) {k ranges} : Keeps s (State.cmSettle t k ranges) := by
  grind [State.cmSettle, Keeps.logSram, Keeps.modCluster]

theorem Keeps.dmSettle (h : Keeps s t) {c ranges} : Keeps s (State.dmSettle t c ranges) := by
  grind [State.dmSettle, Keeps.modCore]

theorem Keeps.ocCommit (h : Keeps s t) {c ws dirty} : Keeps s (State.ocCommit t c ws dirty) := by
  grind [State.ocCommit, Keeps.modCore, Keeps.ocSettle]

theorem Keeps.cmCommit (h : Keeps s t) {k ws dirty} : Keeps s (State.cmCommit t k ws dirty) := by
  grind [State.cmCommit, Keeps.modCluster, Keeps.cmSettle]

theorem Keeps.dmCommit (h : Keeps s t) {c ws} : Keeps s (State.dmCommit t c ws) := by
  grind [State.dmCommit, Keeps.modCore, Keeps.dmSettle]

theorem Keeps.storeDm (h : Keeps s t) {c a1 bs} : Keeps s (State.storeDm t c a1 bs).1 := by
  grind [State.storeDm, Keeps.dmCommit, Keeps.coreFault]

theorem Keeps.progSettle (h : Keeps s t) {c ranges} : Keeps s (State.progSettle t c ranges) := by
  grind [State.progSettle, Keeps.modCore]

theorem Keeps.upset (h : Keeps s t) {c l} : Keeps s (State.upset t c l) := by
  grind [State.upset, Keeps.modCore, Keeps.foldl, Keeps.foldl_fst]

theorem Keeps.bankTurn (h : Keeps s t) {k a1 a2 n} : Keeps s (State.bankTurn t k a1 a2 n) := by
  grind [State.bankTurn, Keeps.modCluster, Keeps.foldl, Keeps.foldl_fst]

/-! ### Copy.lean -/

theorem Keeps.readPlace (h : Keeps s t) {c p n} : Keeps s (State.readPlace t c p n).1 := by
  unfold State.readPlace
  grind [Keeps.ocSettle, Keeps.cmSettle, Keeps.dmSettle, Keeps.fetchLine, Keeps.foldl, Keeps.foldl_fst]

theorem Keeps.writePlace (h : Keeps s t) {c p bs} : Keeps s (State.writePlace t c p bs) := by
  unfold State.writePlace
  grind [Keeps.ocCommit, Keeps.cmCommit, Keeps.dmCommit, Keeps.writePa, Keeps.foldl, Keeps.foldl_fst]

theorem Keeps.readPlaces (h : Keeps s t) {c ps} : Keeps s (State.readPlaces t c ps).1 := by
  grind [State.readPlaces, Keeps.readPlace, Keeps.foldl, Keeps.foldl_fst]

theorem Keeps.writePlaces (h : Keeps s t) {c ps bs} : Keeps s (State.writePlaces t c ps bs) := by
  grind [State.writePlaces, Keeps.writePlace, Keeps.foldl, Keeps.foldl_fst]

theorem Keeps.readLoc (h : Keeps s t) {x c agent l n} {r} (e : State.readLoc t x c agent l n = .ok r) : Keeps s r.1 := by
  grind [State.readLoc, Keeps.readPlaces]

theorem Keeps.writeLoc (h : Keeps s t) {x c agent l bs} (e : State.writeLoc t x c agent l bs = .ok u) : Keeps s u := by
  grind [State.writeLoc, Keeps.writePlaces]

/-! ### Dma.lean -/

theorem Keeps.partBanks (h : Keeps s t) {c q} : Keeps s (State.partBanks t c q) := by
  grind [State.partBanks, Keeps.bankTurn]

theorem Keeps.movePart (h : Keeps s t) {c q} (e : State.movePart t c q = .ok u) : Keeps s u := by
  grind [State.movePart, Keeps.readPlace, Keeps.partBanks, Keeps.writePlace]

theorem Keeps.moveParts (h : Keeps s t) {c qs} (e : State.moveParts t c qs = .ok u) : Keeps s u := by
  unfold State.moveParts at e
  exact foldl_ok e (by grind) (by grind [→ Keeps.movePart, Keeps.foldl, Keeps.foldl_fst])

theorem Keeps.overlapCopy (h : Keeps s t) {x c agent f n} : Keeps s (State.overlapCopy t x c agent f n) := by
  grind [State.overlapCopy, → Keeps.readLoc, → Keeps.writeLoc, Keeps.foldl, Keeps.foldl_fst, Keeps.record]

theorem Keeps.suspendEntry (h : Keeps s t) {c o progress} : Keeps s (State.suspendEntry t c o progress) := by
  grind [State.suspendEntry, Keeps.modCore]

theorem Keeps.noteProgress (h : Keeps s t) {c o progress} : Keeps s (State.noteProgress t c o progress) := by
  grind [State.noteProgress, Keeps.modCore]

theorem Keeps.dmaFault (h : Keeps s t) {x c o f progress} : Keeps s (State.dmaFault t x c o f progress) := by
  grind [State.dmaFault, Keeps.tfault, Keeps.holdEntry, Keeps.recordOutcome]

theorem Keeps.chunkStop (h : Keeps s t) {x c agent unit o a5 progress} : Keeps s (State.chunkStop t x c agent unit o a5
    progress) := by
  unfold State.chunkStop
  grind [Keeps.dmaFault, Keeps.recordOutcome, Keeps.contained, Keeps.coreFault, Keeps.dmSettle]

theorem Keeps.copyFrom (h : Keeps s t) {x c o f pos n p} : Keeps s (State.copyFrom x c o f pos n p t) := by
  induction n generalizing p t with
  | zero => exact h.recordOutcome
  | succ n ih => grind [State.copyFrom, Keeps.suspendEntry, Keeps.chunkStop, → Keeps.moveParts, Keeps.noteProgress,
    Keeps.record]

theorem Keeps.dmaCopy (h : Keeps s t) {x c f a3} : Keeps s (State.dmaCopy t x c f a3) := by
  grind [State.dmaCopy, Keeps.copyFrom, Keeps.overlapCopy]

theorem Keeps.execDmaCopy (h : Keeps s t) {c f} (e : execDmaCopy c f t = .next u) : Keeps s u := by
  grind [execDmaCopy, Keeps.opRefused, Keeps.dropEntry, Keeps.dmaCopy]

/-! ### Accum.lean -/

theorem Keeps.accSettle (h : Keeps s t) {c tile m p} : Keeps s (State.accSettle t c tile m p) := by
  grind [State.accSettle, Keeps.logSram, Keeps.modCore, Keeps.foldl, Keeps.foldl_fst]

/-! ### Pools.lean -/

theorem Keeps.poolGet (h : Keeps s t) {x pool size req} : Keeps s (State.poolGet t x pool size req).1 := by
  grind [State.poolGet, Keeps.modPool, Keeps.setPool]

theorem Keeps.poolCount (h : Keeps s t) {a0 f} : Keeps s (State.poolCount t a0 f) := by
  grind [State.poolCount, Keeps.modPool]

theorem Keeps.poolGiveBack (h : Keeps s t) {pool va} : Keeps s (State.poolGiveBack t pool va) := by
  grind [State.poolGiveBack, Keeps.modPool]

theorem Keeps.storeDmCm (h : Keeps s t) {c l bs} : Keeps s (State.storeDmCm t c l bs).1 := by
  grind [State.storeDmCm, Keeps.storeDm, Keeps.cmCommit]

theorem Keeps.bufGet (h : Keeps s t) {c f} : Keeps s (State.bufGet t c f) := by
  grind [State.bufGet, Keeps.opRefused, Keeps.dropEntry, Keeps.poolGet, Keeps.storeDmCm, Keeps.recordOutcome]

theorem Keeps.execBufGet (h : Keeps s t) {c f} (e : execBufGet c f t = .next u) : Keeps s u := by
  grind [execBufGet, Keeps.bufGet]

theorem Keeps.bufRefused (h : Keeps s t) {c o a2 st} : Keeps s (State.bufRefused t c o a2 st) := by
  grind [State.bufRefused, Keeps.opRefused, Keeps.dropEntry, Keeps.modPool]

theorem Keeps.execBufRef (h : Keeps s t) {c f} (e : execBufRef c f t = .next u) : Keeps s u := by
  grind [execBufRef, Keeps.bufRefused, Keeps.recordOutcome, Keeps.poolCount]

theorem Keeps.execBufPut (h : Keeps s t) {c f} (e : execBufPut c f t = .next u) : Keeps s u := by
  grind [execBufPut, Keeps.bufRefused, Keeps.recordOutcome, Keeps.poolCount]

theorem Keeps.writePoolCfg (h : Keeps s t) {pool v} : Keeps s (State.writePoolCfg t pool v).2 := by
  grind [State.writePoolCfg, Keeps.modPool]

theorem Keeps.writePoolBase (h : Keeps s t) {pool v} : Keeps s (State.writePoolBase t pool v).2 := by
  grind [State.writePoolBase, Keeps.modPool]

theorem Keeps.writeQuota (h : Keeps s t) {pool req v} : Keeps s (State.writeQuota t pool req v).2 := by
  grind [State.writeQuota, Keeps.modPool]

theorem Keeps.execBpmPoolCfgWrite (h : Keeps s t) {pool value}
    (e : execBpmPoolCfgWrite pool value t = .next u) : Keeps s u := by
  grind [execBpmPoolCfgWrite, Keeps.writePoolCfg]

theorem Keeps.execBpmPoolBaseWrite (h : Keeps s t) {pool value}
    (e : execBpmPoolBaseWrite pool value t = .next u) : Keeps s u := by
  grind [execBpmPoolBaseWrite, Keeps.writePoolBase]

theorem Keeps.execBpmQuotaWrite (h : Keeps s t) {pool requester value}
    (e : execBpmQuotaWrite pool requester value t = .next u) : Keeps s u := by
  grind [execBpmQuotaWrite, Keeps.writeQuota]

theorem Keeps.freePools (h : Keeps s t) {x} : Keeps s (State.freePools t x) := by
  grind [State.freePools, Keeps.modPool, Keeps.foldl, Keeps.foldl_fst]

/-! ### Router.lean -/

theorem Keeps.fetchVa (h : Keeps s t) {x agent va n} {r} (e : State.fetchVa t x agent va n = .ok r) : Keeps s r.1 := by
  grind [State.fetchVa, → Keeps.readVa]

theorem Keeps.putVa (h : Keeps s t) {x agent va bs} (e : State.putVa t x agent va bs = .ok u) : Keeps s u := by
  grind [State.putVa, → Keeps.writeVa]

theorem Keeps.memStop (h : Keeps s t) {x c o agent unit block inst a7} : Keeps s (State.memStop t x c o agent unit block
    inst a7) := by
  unfold State.memStop
  grind [Keeps.tfault, Keeps.holdEntry, Keeps.recordOutcome, Keeps.contained]

theorem Keeps.drawRuns (h : Keeps s t) {x a1 counts ts} : Keeps s (State.drawRuns t x a1 counts ts).1 := by
  grind [State.drawRuns, Keeps.poolGet, Keeps.foldl, Keeps.foldl_fst]

theorem Keeps.releaseRuns (h : Keeps s t) {pool bufs} : Keeps s (State.releaseRuns t pool bufs) := by
  grind [State.releaseRuns, Keeps.poolGiveBack, Keeps.foldl, Keeps.foldl_fst]

theorem Keeps.putAll (h : Keeps s t) {x agent ws} (e : State.putAll t x agent ws = .ok u) : Keeps s u := by
  unfold State.putAll at e
  exact foldl_ok e (by grind) (by grind [→ Keeps.putVa, Keeps.foldl, Keeps.foldl_fst])

theorem Keeps.logitRows (h : Keeps s t) {x c l a3 pitch a5 is} {r}
    (e : State.logitRows t x c l a3 pitch a5 is = .ok r) : Keeps s r.1 := by
  unfold State.logitRows at e
  exact foldl_ok_fst e (by grind) (by grind [→ Keeps.readLoc, Keeps.foldl, Keeps.foldl_fst])

theorem Keeps.routeInputs (h : Keeps s t) {x c a2 f} {r} (e : State.routeInputs t x c a2 f = .ok r) : Keeps s r.1 := by
  grind [State.routeInputs, → Keeps.fetchVa, → Keeps.logitRows, except_bind_ok]

theorem Keeps.route (h : Keeps s t) {x c r f} : Keeps s (State.route t x c r f) := by
  unfold State.route
  dsimp only
  split
  · exact h.memStop
  · rename_i hr
    have k := h.routeInputs hr
    split
    · exact k.drawRuns.releaseRuns.memStop
    · exact (k.drawRuns.putAll ‹_›).modCluster.recordOutcome

theorem Keeps.execRoute (h : Keeps s t) {c f} (e : execRoute c f t = .next u) : Keeps s u := by
  grind [execRoute, Keeps.opRefused, Keeps.dropEntry, Keeps.route]

theorem Keeps.routeGrad (h : Keeps s t) {x c a2 f} (e : State.routeGrad t x c a2 f = .ok u) : Keeps s u := by
  grind [State.routeGrad, → Keeps.logitRows, → Keeps.fetchVa, → Keeps.putVa, except_bind_ok]

theorem Keeps.execRouteGrad (h : Keeps s t) {c f} (e : execRouteGrad c f t = .next u) : Keeps s u := by
  cases e
  grind [Keeps.opRefused, Keeps.dropEntry, → Keeps.routeGrad, Keeps.memStop, Keeps.recordOutcome]

theorem Keeps.execVisitClear (h : Keeps s t) {c layerId} (e : execVisitClear c layerId t = .next u) : Keeps s u := by
  cases e
  grind [Keeps.opRefused, Keeps.dropEntry, → Keeps.putVa, Keeps.memStop, Keeps.recordOutcome]

/-! ### Shards.lean -/

theorem Keeps.putEpoch (h : Keeps s t) {x a1} (e : State.putEpoch t x a1 = .ok u) : Keeps s u := by
  grind [State.putEpoch, → Keeps.putVa]

theorem Keeps.putProgress (h : Keeps s t) {x a1 a2} (e : State.putProgress t x a1 a2 = .ok u) : Keeps s u := by
  grind [State.putProgress, → Keeps.putVa]

theorem Keeps.putCommit (h : Keeps s t) {x a1 a2} (e : State.putCommit t x a1 a2 = .ok u) : Keeps s u := by
  grind [State.putCommit, → Keeps.putVa]

theorem Keeps.readTile (h : Keeps s t) {x agent base size nr nc r} (e : State.readTile t x agent base size nr nc = .ok r) :
    Keeps s r.1 := by
  unfold State.readTile at e
  refine foldl_ok_fst e (by grind) fun a i ha v hv => ?_
  dsimp only at hv
  split at hv
  · cases hv
  · split at hv
    · cases hv
    · rename_i row
      cases hv
      exact foldl_ok_fst (u := ‹State × List Nat × Bool›) row (fun w hw => by cases hw; exact ha _ rfl) (by grind [→
          Keeps.readVa])

theorem Keeps.writeTile (h : Keeps s t) {x agent base size nr nc rows poison}
    (e : State.writeTile t x agent base size nr nc rows poison = .ok u) : Keeps s u := by
  unfold State.writeTile at e
  exact foldl_ok e (by grind) (by grind [→ Keeps.writeVa, Keeps.foldl, Keeps.foldl_fst])

theorem Keeps.readScales (h : Keeps s t) {x agent k n} {r} (e : State.readScales t x agent k n = .ok r) : Keeps s r.1 := by
  grind [State.readScales, → Keeps.readVa]

theorem Keeps.writeScales (h : Keeps s t) {x agent base slots poison}
    (e : State.writeScales t x agent base slots poison = .ok u) : Keeps s u := by
  unfold State.writeScales at e
  exact foldl_ok e (by grind) (by grind [→ Keeps.writeVa, Keeps.foldl, Keeps.foldl_fst])

theorem Keeps.newJournal (h : Keeps s t) {x a1} (e : State.newJournal t x a1 = .ok u) : Keeps s u := by
  grind [State.newJournal, → Keeps.putCommit, → Keeps.putProgress, except_bind_ok]

theorem Keeps.loadShards (h : Keeps s t) {x} (e : State.loadShards t x = .ok u) : Keeps s u := by
  unfold State.loadShards at e
  split at e
  · cases e; exact h
  · simp only [except_bind_ok] at e
    obtain ⟨old, h1, e⟩ := e
    have k1 := h.fetchVa h1
    split at e <;> simp only [except_bind_ok] at e
    · obtain ⟨s1, h2, e⟩ := e
      cases h2
      exact foldlM_ok e k1.modCtx (by grind [→ Keeps.newJournal])
    · obtain ⟨s1, h2, e⟩ := e
      exact foldlM_ok e (k1.putVa h2).modCtx (by grind [→ Keeps.newJournal])

/-! ### Cells.lean -/

theorem Keeps.queueMsgs (h : Keeps s t) {ms} : Keeps s (State.queueMsgs t ms) := by
  grind [State.queueMsgs, Keeps.record]

theorem Keeps.inject (h : Keeps s t) {cs} : Keeps s (State.inject t cs) := by
  grind [State.inject, Keeps.record]

theorem Keeps.takeCell (h : Keeps s t) {c} : Keeps s (State.takeCell t c) := by
  grind [State.takeCell, Keeps.setPort, Keeps.record]

theorem Keeps.logEpoch (h : Keeps s t) {x src bit} : Keeps s (State.logEpoch t x src bit) := by
  grind [State.logEpoch, Keeps.corrected]

theorem Keeps.endEntry (h : Keeps s t) {x lcore pos a3} : Keeps s (State.endEntry t x lcore pos a3) := by
  grind [State.endEntry, Keeps.modCore]

/-! ### Training.lean -/

theorem Keeps.readWords32 (h : Keeps s t) {x a1 n} {r} (e : State.readWords32 t x a1 n = .ok r) : Keeps s r.1 := by
  grind [State.readWords32, → Keeps.readVa]

theorem Keeps.readFac (h : Keeps s t) {x a1 slot n k} {r} (e : State.readFac t x a1 slot n k = .ok r) : Keeps s r.1 := by
  grind [State.readFac, → Keeps.readWords32, except_bind_ok]

theorem Keeps.readMoments (h : Keeps s t) {x a1 slot n k} {r}
    (e : State.readMoments t x a1 slot n k = .ok r) : Keeps s r.1 := by
  grind [State.readMoments, → Keeps.readTile, → Keeps.readFac, except_bind_ok]

theorem Keeps.readGradient (h : Keeps s t) {x a1 n k} {r} (e : State.readGradient t x a1 n k = .ok r) : Keeps s r.1 := by
  grind [State.readGradient, → Keeps.readScales, → Keeps.readTile, except_bind_ok]

theorem Keeps.phase1 (h : Keeps s t) {x a1 seed a3 a4 old n} {r}
    (e : State.phase1 t x a1 seed a3 a4 old n = .ok r) : Keeps s r.1 := by
  grind [State.phase1, → Keeps.readGradient, → Keeps.readMoments, → Keeps.writeTile, → Keeps.putVa, except_bind_ok]

theorem Keeps.unshadow (h : Keeps s t) {x r e n logged} (e : State.unshadow t x r e n logged = .ok u) : Keeps s u := by
  unfold State.unshadow at e
  simp only [except_bind_ok] at e
  obtain ⟨w, hw, c, hc, e⟩ := e
  have k := (h.readTile hw).readTile hc
  split at e <;> simp only [except_bind_ok] at e
  · obtain ⟨sc, hsc, t1, ht, u1, hu, e⟩ := e
    cases hsc
    have k1 := ((k.deferred.ite k).writeTile ht).writeTile hu
    grind [→ Keeps.writeScales]
  · obtain ⟨sc, hsc, t1, ht, u1, hu, e⟩ := e
    have k0 : Keeps s sc.1 := by grind [→ Keeps.readVa]
    have k1 := ((k0.deferred.ite k0).writeTile ht).writeTile hu
    grind [→ Keeps.writeScales]

theorem Keeps.shadow (h : Keeps s t) {x w r e n z} (e : State.shadow t x w r e n = .ok z) : Keeps s z.1 := by
  unfold State.shadow at e
  simp only [except_bind_ok] at e
  obtain ⟨m, hm, q, hq, t1, ht, u1, hu, v, hv, e⟩ := e
  cases e
  have k := (h.readMoments hm).readTile hq
  exact (((k.deferred.ite k).writeTile ht).writeTile hu).writeScales hv

theorem Keeps.toShadow (h : Keeps s t) {x w r e n z} (e : State.toShadow t x w r e n = .ok z) : Keeps s z.1 := by
  grind [State.toShadow, except_bind_ok, held_ok, → Keeps.putProgress, → Keeps.shadow]

theorem Keeps.toShadow_error (h : Keeps s t) {x w r e n z} (e : State.toShadow t x w r e n = .error z) : Keeps s z.1 := by
  grind [State.toShadow, except_bind_ok, except_bind_error, held_ok, → held_error, → Keeps.putProgress, → Keeps.shadow]

theorem Keeps.toPlace (h : Keeps s t) {x w r e n logged} (e : State.toPlace t x w r e n logged = .ok u) : Keeps s u := by
  grind [State.toPlace, except_bind_ok, held_ok, → Keeps.putProgress, → Keeps.unshadow]

theorem Keeps.toPlace_error (h : Keeps s t) {x w r e n logged z}
    (e : State.toPlace t x w r e n logged = .error z) : Keeps s z.1 := by
  grind [State.toPlace, except_bind_error, held_ok, → held_error, → Keeps.putProgress, → Keeps.unshadow]

theorem Keeps.commit (h : Keeps s t) {a0 a1} (e : State.commit t a0 a1 = .ok u) : Keeps s u := by
  grind [State.commit, → Keeps.putCommit]

theorem Keeps.beginMoments (h : Keeps s t) {u k z} (e : State.beginMoments t u k = .ok z) : Keeps s z.1 := by
  grind [State.beginMoments, except_bind_ok, held_ok, → Keeps.putProgress]

theorem Keeps.beginMoments_error (h : Keeps s t) {u k z} (e : State.beginMoments t u k = .error z) : Keeps s z.1 := by
  grind [State.beginMoments, except_bind_error, → held_error]

theorem Keeps.recover (h : Keeps s t) {u cw k resumed z} (e : State.recover t u cw k resumed = .ok z) : Keeps s z.1 := by
  grind [State.recover, → Keeps.beginMoments]

theorem Keeps.recover_error (h : Keeps s t) {u cw k resumed z}
    (e : State.recover t u cw k resumed = .error z) : Keeps s z.1 := by
  grind [State.recover, → Keeps.beginMoments_error]

theorem Keeps.deferChunk (h : Keeps s t) {a0 n} (e : State.deferChunk t a0 n = .ok u) : Keeps s u := by
  grind [State.deferChunk, → Keeps.readGradient, → Keeps.readTile, → Keeps.writeTile, except_bind_ok]

theorem Keeps.updDecide (h : Keeps s t) {u f env hyper flag z} (e : State.updDecide t u f env hyper flag = .ok z) :
    Keeps s z.1 := by
  unfold State.updDecide at e
  simp only [except_bind_ok, held_ok] at e
  obtain ⟨c, hc, e⟩ := e
  have k := h.fetchVa hc
  grind [except_bind_ok, held_ok, → Keeps.fetchVa, → Keeps.recover, → Keeps.beginMoments]

theorem Keeps.updDecide_error (h : Keeps s t) {u f env hyper flag z} (e : State.updDecide t u f env hyper flag = .error z) :
    Keeps s z.1 := by
  unfold State.updDecide at e
  simp only [except_bind_error, held_ok] at e
  obtain e | ⟨c, hc, e⟩ := e
  · grind [→ held_error]
  · have k := h.fetchVa hc
    grind [except_bind_error, held_ok, → held_error, → Keeps.fetchVa, → Keeps.recover_error, → Keeps.beginMoments_error]

theorem Keeps.abandon (h : Keeps s t) {u k n z} (e : State.abandon t u k n = .ok z) : Keeps s z.1 := by
  grind [State.abandon, except_bind_ok, held_ok, → Keeps.putProgress, Keeps.deferred]

theorem Keeps.abandon_error (h : Keeps s t) {u k n z} (e : State.abandon t u k n = .error z) : Keeps s z.1 := by
  grind [State.abandon, except_bind_error, → held_error]

theorem Keeps.updPiece (h : Keeps s t) {u k z} (e : State.updPiece t u k = .ok z) : Keeps s z.1 := by
  unfold State.updPiece at e
  grind [except_bind_ok, held_ok, → Keeps.putProgress, → Keeps.deferChunk, → Keeps.phase1, → Keeps.abandon,
    → Keeps.toShadow, → Keeps.toPlace, → Keeps.commit]

theorem Keeps.updPiece_error (h : Keeps s t) {u k z} (e : State.updPiece t u k = .error z) : Keeps s z.1 := by
  unfold State.updPiece at e
  grind [except_bind_error, held_ok, → held_error, → Keeps.phase1, → Keeps.abandon_error, → Keeps.toShadow_error,
    → Keeps.toPlace_error]

theorem Keeps.updPieces (h : Keeps s t) {u n k z} (e : State.updPieces u n t k = .ok z) : Keeps s z.1 := by
  induction n generalizing t k with
  | zero => cases e; exact h
  | succ n ih => grind [State.updPieces, → Keeps.updPiece]

theorem Keeps.updPieces_error (h : Keeps s t) {u n k z} (e : State.updPieces u n t k = .error z) : Keeps s z.1 := by
  induction n generalizing t k with
  | zero => cases e
  | succ n ih => grind [State.updPieces, → Keeps.updPiece, → Keeps.updPiece_error]

theorem Keeps.updFinish (h : Keeps s t) {x c r f st recovered freed}
    (e : State.updFinish t x c r f st recovered freed = .ok u) :
    Keeps s u := by
  grind [State.updFinish, except_bind_ok, held_ok, → Keeps.putVa, Keeps.modGroup, Keeps.recordOutcome]

theorem Keeps.updFinish_error (h : Keeps s t) {x c r f st recovered freed z}
    (e : State.updFinish t x c r f st recovered freed = .error z) : Keeps s z.1 := by
  grind [State.updFinish, except_bind_error, → held_error]

theorem Keeps.updSettle (h : Keeps s t) {x c r f n} (e : State.updSettle t x c r f n = .ok u) : Keeps s u := by
  unfold State.updSettle at e
  grind [except_bind_ok, held_ok, → Keeps.updFinish, Keeps.modGroup, Keeps.suspendEntry, → Keeps.putProgress]

theorem Keeps.updSettle_error (h : Keeps s t) {x c r f n z} (e : State.updSettle t x c r f n = .error z) : Keeps s z.1 := by
  unfold State.updSettle at e
  grind [except_bind_error, → held_error, → Keeps.updFinish_error]

theorem Keeps.updStart (h : Keeps s t) {u f env k z} (e : State.updStart t u f env k = .ok z) : Keeps s z.1 := by
  unfold State.updStart at e
  grind [except_bind_ok, held_ok, → Keeps.fetchVa, → Keeps.updDecide]

theorem Keeps.updStart_error (h : Keeps s t) {u f env k z} (e : State.updStart t u f env k = .error z) : Keeps s z.1 := by
  unfold State.updStart at e
  grind [except_bind_error, held_ok, → held_error, → Keeps.fetchVa, → Keeps.updDecide_error]

theorem Keeps.updOn {u n d z} (h : Keeps s d.1) (e : updOn u n d = .ok z) : Keeps s z.1 := by
  grind [Sys2Proof.Machine.updOn, → Keeps.updPieces]

theorem Keeps.updOn_error {u n d z} (h : Keeps s d.1) (e : Sys2Proof.Machine.updOn u n d = .error z) : Keeps s z.1 := by
  grind [Sys2Proof.Machine.updOn, → Keeps.updPieces_error]

theorem Keeps.update (h : Keeps s t) {x c r f env held pieces} : Keeps s (State.update t x c r f env held pieces) := by
  have h0 := h.modGroup (g := f.engine) (f := fun g => g.leave c env.pos)
  unfold State.update
  dsimp only
  split
  · rename_i hr
    simp only [except_bind_ok] at hr
    obtain ⟨d, hd, z, hz, hr⟩ := hr
    exact ((h0.updStart hd).updOn hz).updSettle hr
  · rename_i hr
    simp only [except_bind_error] at hr
    obtain hr | ⟨d, hd, hr | ⟨z, hz, hr⟩⟩ := hr
    · exact (h0.updStart_error hr).memStop
    · exact ((h0.updStart hd).updOn_error hr).memStop
    · exact (((h0.updStart hd).updOn hz).updSettle_error hr).memStop

theorem Keeps.execUpdate (h : Keeps s t) {c row} (e : execUpdate c row t = .next u) : Keeps s u := by
  cases e
  dsimp only
  split
  · exact h.modGroup.dropEntry.opRefused
  split
  · exact h
  split
  · exact h
  split
  · exact h.update.ite h
  · exact h.ite (h.modGroup.suspendEntry.ite h.update)

theorem Keeps.stageDone (h : Keeps s t) {x c a2 f} : Keeps s (State.stageDone t x c a2 f) := by
  grind [State.stageDone, → Keeps.putCommit, Keeps.recordOutcome, Keeps.memStop]

theorem Keeps.stageFrom (h : Keeps s t) {x c r f pos copies n p} : Keeps s (State.stageFrom x c r f pos copies n p t) := by
  induction n generalizing p t with
  | zero => exact h.stageDone
  | succ n ih =>
    unfold State.stageFrom
    grind [Keeps.stageDone, Keeps.suspendEntry, Keeps.chunkStop, → Keeps.moveParts, Keeps.noteProgress, Keeps.record]

theorem Keeps.stage (h : Keeps s t) {x c a2 f pos p} : Keeps s (State.stage t x c a2 f pos p) := by
  grind [State.stage, Keeps.stageFrom]

theorem Keeps.execShardStage (h : Keeps s t) {c f} (e : execShardStage c f t = .next u) : Keeps s u := by
  grind [execShardStage, Keeps.opRefused, Keeps.dropEntry, Keeps.stage]

theorem Keeps.execEpochFence (h : Keeps s t) {c f} (e : execEpochFence c f t = .next u) : Keeps s u := by
  cases e
  split
  · exact h.dropEntry.opRefused
  split
  · exact h
  split
  · exact h.dropEntry.opRefused
  split
  · exact h
  split
  · exact h.memStop
  · rename_i he
    exact (h.putEpoch he).modCtx.recordOutcome.ite (h.putEpoch he).modCtx

theorem Keeps.execEpochFenceDrained (h : Keeps s t) {x} (e : execEpochFenceDrained x t = .next u) : Keeps s u := by
  grind [execEpochFenceDrained, Keeps.modCluster, Keeps.recordOutcome, Keeps.modCtx, Keeps.foldl, Keeps.foldl_fst]

theorem Keeps.execEpochFenceTimeout (h : Keeps s t) {x} (e : execEpochFenceTimeout x t = .next u) : Keeps s u := by
  grind [execEpochFenceTimeout, Keeps.recordOutcome, Keeps.contained, Keeps.modCtx]

theorem Keeps.execEpochSwitch (h : Keeps s t) {c table} (e : execEpochSwitch c table t = .next u) : Keeps s u := by
  cases e
  dsimp only
  split
  · exact h.dropEntry.opRefused
  split
  · exact h
  split
  · split
    · exact h.memStop
    · rename_i he
      exact ((h.putEpoch he).modCtx.foldl fun _ _ k => k.modCluster).recordOutcome
  · exact h

/-! ### Collective.lean -/

theorem Keeps.modColl (h : Keeps s t) {k x desc g} : Keeps s (State.modColl t k x desc g) := by
  grind [State.modColl, Keeps.modCluster]

theorem Keeps.dropColl (h : Keeps s t) {k z} : Keeps s (State.dropColl t k z) := by
  grind [State.dropColl, Keeps.modCluster, Keeps.record]

theorem Keeps.collFault (h : Keeps s t) {k z} : Keeps s (State.collFault t k z) := by
  grind [State.collFault, → Keeps.putVa, Keeps.recordOutcome, Keeps.dropColl, Keeps.contained]

theorem Keeps.collMemStop (h : Keeps s t) {k z a2} : Keeps s (State.collMemStop t k z a2) := by
  grind [State.collMemStop, → Keeps.putVa, Keeps.dropColl, Keeps.memStop]

theorem Keeps.collSend (h : Keeps s t) {k z track code stage dest nonfinite count bs} : Keeps s (State.collSend t k z track
    code stage dest nonfinite count bs) := by
  grind [State.collSend, Keeps.modColl, Keeps.queueMsgs]

theorem Keeps.collRead (h : Keeps s t) {z va n} {r} (e : State.collRead t z va n = .ok r) : Keeps s r.1 := by
  grind [State.collRead, → Keeps.readLoc]

theorem Keeps.collWrite (h : Keeps s t) {z va bs} (e : State.collWrite t z va bs = .ok u) : Keeps s u := by
  grind [State.collWrite, → Keeps.writeLoc]

theorem Keeps.lateContribution (h : Keeps s t) {x k node stage step added} : Keeps s (State.lateContribution t x k node
    stage step added) := by
  grind [State.lateContribution, Keeps.modCluster, Keeps.corrected]

theorem Keeps.leftOver (h : Keeps s t) {k z d st c} (e : State.leftOver t k z d st c = .ok u) : Keeps s u := by
  grind [State.leftOver, → Keeps.collRead, → Keeps.collWrite, Keeps.lateContribution, Keeps.modCluster, Keeps.modColl,
    except_bind_ok]

theorem Keeps.scatterRange (h : Keeps s t) {k z d track n range count nonfinite chunk}
    (e : State.scatterRange t k z d track n range count nonfinite chunk = .ok u) : Keeps s u := by
  grind [State.scatterRange, Keeps.modColl, Keeps.lateContribution, → Keeps.collWrite, Keeps.collSend, → Keeps.foldlM_ok,
    → Keeps.foldlM_ok_fst, except_bind_ok]

theorem Keeps.reduceChunk (h : Keeps s t) {z d n i slots shard r} (e : State.reduceChunk t z d n i slots shard = .ok r) :
    Keeps s r.1 := by
  unfold State.reduceChunk at e
  simp only [except_bind_ok] at e
  obtain ⟨a, ha, e⟩ := e
  have k : Keeps s a.1 := foldlM_ok_fst ha h (by grind [except_bind_ok, → Keeps.collRead])
  split at e
  · grind [except_bind_ok, → Keeps.collRead]
  · grind [except_bind_ok, → Keeps.collRead]

theorem Keeps.finalChunk (h : Keeps s t) {z d start i shard xs poison}
    (e : State.finalChunk t z d start i shard xs poison = .ok u) :
    Keeps s u := by
  unfold State.finalChunk at e
  grind [except_bind_ok, → Keeps.collWrite]

theorem Keeps.closeReduce (h : Keeps s t) {k z d st} (e : State.closeReduce t k z d st = .ok u) : Keeps s u := by
  unfold State.closeReduce at e
  simp only [except_bind_ok] at e
  obtain ⟨out, ho, w, hw, e⟩ := e
  have k1 : Keeps s out.1 := foldlM_ok_fst ho h (by grind [except_bind_ok, → Keeps.reduceChunk, → Keeps.finalChunk])
  have k2 : Keeps s w := foldlM_ok hw (k1.modCluster) (by grind [→ Keeps.leftOver])
  have k3 {p : Prop} {q : Decidable p} {g} : Keeps s (if p then w.modCtx z.ctx g else w) := k2.modCtx.ite k2
  split at e
  · cases e; exact k3.modColl
  · exact k3.modColl.scatterRange e

theorem Keeps.sendGather (h : Keeps s t) {k z d st} (e : State.sendGather t k z d st = .ok u) : Keeps s u := by
  grind [State.sendGather, → Keeps.collRead, Keeps.collSend, Keeps.modColl, Keeps.foldl, Keeps.foldl_fst, except_bind_ok]

theorem Keeps.closeBeaconGather (h : Keeps s t) {k z d st} : Keeps s (State.closeBeaconGather t k z d st) := by
  grind [State.closeBeaconGather, Keeps.modColl, Keeps.collSend, Keeps.modCluster, Keeps.lateContribution, Keeps.foldl,
    Keeps.foldl_fst]

theorem Keeps.closeBeaconCast (h : Keeps s t) {k z d st} : Keeps s (State.closeBeaconCast t k z d st) := by
  grind [State.closeBeaconCast, Keeps.modColl, Keeps.collSend, Keeps.foldl, Keeps.foldl_fst]

theorem Keeps.closeStage (h : Keeps s t) {k z d st} (e : State.closeStage t k z d st = .ok u) : Keeps s u := by
  grind [State.closeStage, → Keeps.closeReduce, Keeps.closeBeaconGather, Keeps.closeBeaconCast, Keeps.modColl, Keeps.addFlag]

theorem Keeps.drainStages (h : Keeps s t) {k z} (e : State.drainStages t k z = .ok u) : Keeps s u := by
  grind [State.drainStages, → Keeps.collWrite, Keeps.modCluster, Keeps.modColl, → Keeps.foldlM_ok, → Keeps.foldlM_ok_fst,
    except_bind_ok]

theorem Keeps.collEnd (h : Keeps s t) {k z} (e : State.collEnd t k z = .ok u) : Keeps s u := by
  grind [State.collEnd, → Keeps.putVa, Keeps.recordOutcome, Keeps.dropColl, except_bind_ok]

theorem Keeps.collStep (h : Keeps s t) {k z d} (e : State.collStep t k z d = .ok (some u)) : Keeps s u := by
  unfold State.collStep at e
  grind [except_map_ok, → Keeps.sendGather, → Keeps.closeStage, Keeps.modColl, → Keeps.drainStages, → Keeps.collEnd]

theorem Keeps.collAdvance (h : Keeps s t) {x desc n} : Keeps s (State.collAdvance x desc n t) := by
  induction n generalizing t with
  | zero => exact h
  | succ n ih => grind [State.collAdvance, → Keeps.collStep, Keeps.collMemStop]

theorem Keeps.collGo (h : Keeps s t) {x desc} : Keeps s (State.collGo t x desc) := by
  grind [State.collGo, Keeps.collAdvance]

theorem Keeps.flagsMoved (h : Keeps s t) {k} : Keeps s (State.flagsMoved t k) := by
  grind [State.flagsMoved, Keeps.collGo, Keeps.foldl, Keeps.foldl_fst]

theorem Keeps.startPermute (h : Keeps s t) {k z d} (e : State.startPermute t k z d = .ok u) : Keeps s u := by
  unfold State.startPermute at e
  simp only [except_bind_ok] at e
  obtain ⟨l, hl, w, hw, e⟩ := e
  cases e
  exact (foldlM_ok hw (h.fetchVa hl)
    (by grind [except_bind_ok, → Keeps.collRead, → Keeps.collWrite, Keeps.modColl, Keeps.queueMsgs, Keeps.record])).modColl

theorem Keeps.startExchange (h : Keeps s t) {k z d} (e : State.startExchange t k z d = .ok u) : Keeps s u := by
  grind [State.startExchange, → Keeps.collRead, → Keeps.collWrite, Keeps.collSend, Keeps.modColl, → Keeps.foldlM_ok,
    → Keeps.foldlM_ok_fst, except_bind_ok]

theorem Keeps.collFirst (h : Keeps s t) {k z d} (e : State.collFirst t k z d = .ok u) : Keeps s u := by
  grind [State.collFirst, → Keeps.collRead, → Keeps.collWrite, → Keeps.startExchange, → Keeps.startPermute, Keeps.modColl,
    Keeps.collSend, → Keeps.scatterRange, except_bind_ok]

theorem Keeps.joined (h : Keeps s t) {z d} : Keeps s (State.joined t z d) := by
  grind [State.joined, Keeps.modCluster, Keeps.modCtx]

theorem Keeps.collStart (h : Keeps s t) {x c f beacon d env} : Keeps s (State.collStart t x c f beacon d env) := by
  unfold State.collStart
  dsimp only
  split
  · exact h.joined.collMemStop
  · exact (h.joined.collFirst ‹_›).collGo

theorem Keeps.collOp (h : Keeps s t) {c f beacon} : Keeps s (State.collOp t c f beacon) := by
  grind [State.collOp, Keeps.opRefused, Keeps.dropEntry, Keeps.collStart]

theorem Keeps.execCollStart (h : Keeps s t) {c f} (e : execCollStart c f t = .next u) : Keeps s u := by
  grind [execCollStart, Keeps.collOp]

theorem Keeps.execBeacon (h : Keeps s t) {c f} (e : execBeacon c f t = .next u) : Keeps s u := by
  grind [execBeacon, Keeps.collOp]

theorem Keeps.execStageDeadline (h : Keeps s t) {k desc stage}
    (e : execStageDeadline k desc stage t = .next u) : Keeps s u := by
  cases e
  split
  · exact h
  split
  · split
    · exact h
    split
    · exact h
    split
    · exact h.collMemStop
    · exact (h.closeStage ‹_›).collGo
  · exact h

theorem Keeps.execCollWaitTimeout (h : Keeps s t) {k desc stage}
    (e : execCollWaitTimeout k desc stage t = .next u) : Keeps s u := by
  grind [execCollWaitTimeout, Keeps.collFault]

theorem Keeps.execRingStageArm (h : Keeps s t) {k desc stage}
    (e : execRingStageArm k desc stage t = .next u) : Keeps s u := by
  grind [execRingStageArm, Keeps.modColl, Keeps.modCluster, Keeps.collSend]

theorem Keeps.execRingStageSend (h : Keeps s t) {k desc stage}
    (e : execRingStageSend k desc stage t = .next u) : Keeps s u := by
  cases e
  grind [Keeps.readPlace, Keeps.collSend, Keeps.modColl, Keeps.collGo]

theorem Keeps.permutePart (h : Keeps s t) {k z d a3} : Keeps s (State.permutePart t k z d a3) := by
  grind [State.permutePart, Keeps.modColl, Keeps.queueMsgs]

theorem Keeps.collMsgEnd (h : Keeps s t) {x lk desc stage a4 a5} : Keeps s (State.collMsgEnd t x lk desc stage a4 a5) := by
  grind [State.collMsgEnd, Keeps.modColl, Keeps.permutePart, Keeps.collGo, Keeps.collFault]

theorem Keeps.colAdmit_nak {x d word kind code} (e : State.colAdmit t x d word = .nak kind code u) : u = t := by
  unfold State.colAdmit at e
  grind

theorem Keeps.colPlace (h : Keeps s t) {x k beacon word bytes poison}
    (e : State.colPlace t x k beacon word bytes poison = .ok u) : Keeps s u := by
  grind [State.colPlace, Keeps.writePlace, → Keeps.writeLoc]

theorem Keeps.lateMessage (h : Keeps s t) {x node c k d z st off n step bytes}
    (e : State.lateMessage t x node c k d z st off n step bytes = .ok u) : Keeps s u := by
  grind [State.lateMessage, Keeps.modCluster, Keeps.lateContribution, → Keeps.collRead, → Keeps.collWrite, Keeps.modColl,
    except_bind_ok]

theorem Keeps.colComplete (h : Keeps s t) {x node k off n bytes} : Keeps s (State.colComplete t x node k off n bytes) := by
  unfold State.colComplete
  split <;> grind [Keeps.collGo, Keeps.modColl, → Keeps.lateMessage, Keeps.collMemStop]

theorem Keeps.ringCredit (h : Keeps s t) {x k desc stage4} : Keeps s (State.ringCredit t x k desc stage4) := by
  grind [State.ringCredit, Keeps.modColl]

/-! ### Exchange.lean -/

theorem Keeps.listRows (h : Keeps s t) {x a1 xrec a3} {r} (e : State.listRows t x a1 xrec a3 = .ok r) : Keeps s r.1 := by
  grind [State.listRows, → Keeps.fetchVa, except_bind_ok]

theorem Keeps.sendRuns (h : Keeps s t) {x r f map nodes record z} (e : State.sendRuns t x r f map nodes record = .ok z) :
    Keeps s z.1 := by
  unfold State.sendRuns at e
  split at e
  · exact foldlM_ok_fst e h (by grind [except_bind_ok, → Keeps.listRows])
  · cases e; exact h

theorem Keeps.runMsgs (h : Keeps s t) {x c pos r f owner z w}
    (e : State.runMsgs t x c pos r f owner z = .ok w) : Keeps s w.1 := by
  unfold State.runMsgs at e
  refine foldlM_ok_fst e h fun v a w hv hw => ?_
  simp only [except_bind_ok] at hw
  obtain ⟨b, hb, hw⟩ := hw
  have k : Keeps s b.1 := foldlM_ok_fst hb hv (by grind [→ Keeps.readLoc])
  grind

theorem Keeps.xsendMessages (h : Keeps s t) {x c pos r f owner z} (e : State.xsendMessages t x c pos r f owner = .ok z) :
    Keeps s z.1 := by
  unfold State.xsendMessages at e
  simp only [except_bind_ok] at e
  obtain ⟨m, hm, n, hn, b, hb, runs, hr, data, hd, e⟩ := e
  have k : Keeps s data.1 := foldlM_ok_fst hd ((((h.fetchVa hm).fetchVa hn).fetchVa hb).sendRuns hr)
    (by grind [except_bind_ok, → Keeps.runMsgs])
  cases e
  exact k

theorem Keeps.execXsend (h : Keeps s t) {c f} (e : execXsend c f t = .next u) : Keeps s u := by
  cases e
  split
  · exact h.dropEntry.opRefused
  split
  · exact h
  split
  · exact h
  split
  · exact h
  split
  · exact h.memStop
  · rename_i hz
    exact (h.xsendMessages hz).recordOutcome.ite (h.xsendMessages hz).queueMsgs.modCluster

theorem Keeps.dropRecv (h : Keeps s t) {k v} : Keeps s (State.dropRecv t k v) := by
  grind [State.dropRecv, Keeps.modCluster, Keeps.record]

theorem Keeps.recvStop (h : Keeps s t) {k v a2} : Keeps s (State.recvStop t k v a2) := by
  grind [State.recvStop, Keeps.recordOutcome, Keeps.dropRecv]

theorem Keeps.expertReady (h : Keeps s t) {x k r v i z} (e : State.expertReady t x k r v i = .ok z) : Keeps s z.1 := by
  unfold State.expertReady at e
  dsimp only at e
  generalize (if v.failed.contains i = true then 0 else v.received r i) = total at e
  simp only [except_bind_ok] at e
  obtain ⟨a, ha, e⟩ := e
  have k := (h.putVa ha).addFlag (k := k) (id := v.f.flag) (n := 1)
  split at e
  · simp only [except_bind_ok] at e
    obtain ⟨b, hb, w, hw, e⟩ := e
    cases e
    exact (k.fetchVa hb).putVa hw
  · cases e
    exact k

theorem Keeps.recvSettle (h : Keeps s t) {x k r v} : Keeps s (State.recvSettle t x k r v) := by
  unfold State.recvSettle
  dsimp only
  split
  · exact h.memStop.dropRecv
  · rename_i a ha
    have k0 : Keeps s a.1 := foldlM_ok_fst ha h (by grind [→ Keeps.expertReady])
    split
    · exact k0.modCluster.recvStop.ite k0.modCluster
    · exact (k0.modCluster.recvStop.ite k0.modCluster).flagsMoved

theorem Keeps.expectNone (h : Keeps s t) {x layer a2 a3 g} : Keeps s (State.expectNone t x layer a2 a3 g) := by
  grind [State.expectNone, Keeps.recvSettle, Keeps.modCluster, Keeps.foldl, Keeps.foldl_fst]

theorem Keeps.lateDrop (h : Keeps s t) {x layer a2 f a4} (e : State.lateDrop t x layer a2 f a4 = .ok u) : Keeps s u := by
  grind [State.lateDrop, → Keeps.fetchVa, → Keeps.putAll, Keeps.modCluster, Keeps.expectNone, except_bind_ok]

theorem Keeps.xsendStop (h : Keeps s t) {k z a2} : Keeps s (State.xsendStop t k z a2) := by
  grind [State.xsendStop, Keeps.recordOutcome, Keeps.modCluster, Keeps.record]

theorem Keeps.xsendProgress (h : Keeps s t) {z} : Keeps s (State.xsendProgress t z) := by
  grind [State.xsendProgress, → Keeps.putVa]

theorem Keeps.xsendMsgEnd (h : Keeps s t) {x lcore pos d r} : Keeps s (State.xsendMsgEnd t x lcore pos d r) := by
  unfold State.xsendMsgEnd
  dsimp only
  split
  · exact h
  split
  · exact h
  split
  · exact h.modCluster.xsendStop.ite h.modCluster
  · exact h.xsendProgress.xsendStop
  split
  · split
    · exact h.modCluster.xsendStop.ite h.modCluster
    split
    · rename_i hl
      exact (h.lateDrop hl).modCluster.xsendStop.ite (h.lateDrop hl).modCluster
    · exact h.xsendProgress.memStop.xsendStop
  · exact h.xsendProgress.xsendStop

theorem Keeps.ownerBuffers (h : Keeps s t) {x a1 totals} : Keeps s (State.ownerBuffers t x a1 totals).1 := by
  grind [State.ownerBuffers, Keeps.poolGet, Keeps.foldl, Keeps.foldl_fst]

theorem Keeps.putEntries (h : Keeps s t) {x a1 v totals} (e : State.putEntries t x a1 v totals = .ok u) : Keeps s u := by
  grind [State.putEntries, → Keeps.putAll]

theorem Keeps.armCounts (h : Keeps s t) {x a1 f} {r} (e : State.armCounts t x a1 f = .ok r) : Keeps s r.1 := by
  grind [State.armCounts, → Keeps.fetchVa, Keeps.foldl, Keeps.foldl_fst, except_bind_ok]

theorem Keeps.armBuffers (h : Keeps s t) {x a1 f} {r} (e : State.armBuffers t x a1 f = .ok r) : Keeps s r.1 := by
  grind [State.armBuffers, → Keeps.fetchVa, Keeps.foldl, Keeps.foldl_fst, except_bind_ok]

theorem Keeps.drawRefused (h : Keeps s t) {v pool} : Keeps s (State.drawRefused t v pool) := h.modPool

theorem Keeps.arm (h : Keeps s t) {x c layer r f z} (e : State.arm t x c layer r f = .ok z) : Keeps s z.1 := by
  unfold State.arm at e
  generalize (if f.deadlineMs = 0 then none else some (t.now + f.deadlineMs * 1000000)) = due at e
  simp only [except_bind_ok] at e
  obtain ⟨a, ha, b, hb, e⟩ := e
  have k := (h.armCounts ha).armBuffers hb
  split at e
  · simp only [except_bind_ok] at e
    obtain ⟨w, hw, e⟩ := e
    cases e
    exact k.putVa hw
  · split at e
    · split at e
      · cases e
        exact k.drawRefused
      · simp only [except_bind_ok] at e
        obtain ⟨w, hw, e⟩ := e
        cases e
        exact k.ownerBuffers.putEntries hw
    · cases e
      exact k
  · cases e
    exact k

theorem Keeps.execXrecvArm (h : Keeps s t) {c f} (e : execXrecvArm c f t = .next u) : Keeps s u := by
  cases e
  split
  · exact h
  split
  · exact h.dropEntry.opRefused
  split
  · exact h
  split
  · exact h
  split
  · exact h.memStop
  · exact (h.arm ‹_›).dropEntry.opRefused
  · exact (h.arm ‹_›).modCluster.recvSettle

theorem Keeps.xchAdmit_nak (h : Keeps s t) {d kind code dest}
    (e : State.xchAdmit t d = .nak kind code dest u) : Keeps s u := by
  unfold State.xchAdmit at e
  split at e
  · cases e
  split at e
  · cases e
  split at e
  · cases e
  dsimp only at e
  generalize (if (xPhase d % 2 == 0) = true then _ else _) = node at e
  split at e
  · cases e
    exact h
  split at e
  · cases e
    exact h.logEpoch.ite h
  split at e
  · cases e
    exact h
  · grind

theorem Keeps.xchPlace (h : Keeps s t) {x ws poison} (e : State.xchPlace t x ws poison = .ok u) : Keeps s u := by
  unfold State.xchPlace at e
  exact foldl_ok e (by grind) (by grind [→ Keeps.writeVa, Keeps.foldl, Keeps.foldl_fst])

theorem Keeps.xchCountFault (h : Keeps s t) {x k v src} : Keeps s (State.xchCountFault t x k v src) := by
  grind [State.xchCountFault, Keeps.recvStop, Keeps.contained]

theorem Keeps.countsArrived (h : Keeps s t) {x k r v src} : Keeps s (State.countsArrived t x k r v src) := by
  unfold State.countsArrived
  split
  · exact h.memStop.dropRecv
  · rename_i hb
    have k0 := h.fetchVa hb
    dsimp only
    split
    · exact k0.modCluster.xchCountFault
    split
    · by_cases hp : r.policy = policyNone
      · simp only [hp, if_true]
        split
        · exact k0.ownerBuffers.modCluster.memStop.dropRecv
        · exact (k0.ownerBuffers.modCluster.putEntries ‹_›).recvSettle
      · simp only [hp, if_false]
        split
        · exact k0.modCluster.memStop.dropRecv
        · exact (k0.modCluster.putEntries ‹_›).recvSettle
    · exact k0.modCluster

theorem Keeps.rowsArrived (h : Keeps s t) {x k a2 v map a5} : Keeps s (State.rowsArrived t x k a2 v map a5) := by
  grind [State.rowsArrived, Keeps.xchCountFault, Keeps.recvSettle, Keeps.modCluster]

theorem Keeps.xchComplete (h : Keeps s t) {x a1} : Keeps s (State.xchComplete t x a1) := by
  grind [State.xchComplete, Keeps.countsArrived, Keeps.rowsArrived]

theorem Keeps.execExchangeDeadline (h : Keeps s t) {k layerId phase round}
    (e : execExchangeDeadline k layerId phase round t = .next u) : Keeps s u := by
  grind [execExchangeDeadline, Keeps.recvStop, Keeps.contained]

/-! ### Messages.lean -/

theorem Keeps.gatherPlaces (h : Keeps s t) {x c pos ps} : Keeps s (State.gatherPlaces t x c pos ps).1 := by
  grind [State.gatherPlaces, Keeps.readPlace, Keeps.foldl, Keeps.foldl_fst]

theorem Keeps.putSend (h : Keeps s t) {x c pos f reduce ps} : Keeps s (State.putSend t x c pos f reduce ps) := by
  grind [State.putSend, Keeps.gatherPlaces, Keeps.queueMsgs, Keeps.record]

theorem Keeps.putOp (h : Keeps s t) {x c o f reduce pos} : Keeps s (State.putOp t x c o f reduce pos) := by
  grind [State.putOp, Keeps.suspendEntry, Keeps.dmaFault, Keeps.chunkStop, Keeps.putSend, Keeps.record]

theorem Keeps.putRow (h : Keeps s t) {c o f reduce} : Keeps s (State.putRow t c o f reduce) := by
  grind [State.putRow, Keeps.opRefused, Keeps.dropEntry, Keeps.putOp]

theorem Keeps.execPut (h : Keeps s t) {c f} (e : execPut c f t = .next u) : Keeps s u := by
  grind [execPut, Keeps.putRow]

theorem Keeps.execReducePut (h : Keeps s t) {c f} (e : execReducePut c f t = .next u) : Keeps s u := by
  grind [execReducePut, Keeps.putRow]

theorem Keeps.askRow (h : Keeps s t) {c o chk dst m} : Keeps s (State.askRow t c o chk dst m) := by
  unfold State.askRow
  grind [Keeps.opRefused, Keeps.dropEntry, Keeps.suspendEntry, Keeps.dmaFault, Keeps.queueMsgs]

theorem Keeps.execGet (h : Keeps s t) {c f} (e : execGet c f t = .next u) : Keeps s u := by
  grind [execGet, Keeps.askRow]

theorem Keeps.execAtomic (h : Keeps s t) {c f} (e : execAtomic c f t = .next u) : Keeps s u := by
  grind [execAtomic, Keeps.askRow]

theorem Keeps.execRemoteFlagSet (h : Keeps s t) {c f} (e : execRemoteFlagSet c f t = .next u) : Keeps s u := by
  grind [execRemoteFlagSet, Keeps.askRow]

theorem Keeps.putOut (h : Keeps s t) {id m} : Keeps s (State.putOut t id m) := by
  grind [State.putOut, Keeps.record]

theorem Keeps.sendCells (h : Keeps s t) {id m} : Keeps s (State.sendCells t id m) := by
  grind [State.sendCells, Keeps.putOut, Keeps.inject]

theorem Keeps.execMessageSend (h : Keeps s t) {index} (e : execMessageSend index t = .next u) : Keeps s u := by
  grind [execMessageSend, Keeps.sendCells, Keeps.record]

theorem Keeps.opMsgEnd (h : Keeps s t) {x lcore pos a3} : Keeps s (State.opMsgEnd t x lcore pos a3) := by
  unfold State.opMsgEnd
  grind [Keeps.endEntry]

theorem Keeps.applyEnd (h : Keeps s t) {x owner a2 a3} : Keeps s (State.applyEnd t x owner a2 a3) := by
  unfold State.applyEnd
  grind [Keeps.opMsgEnd, Keeps.xsendMsgEnd, Keeps.collMsgEnd]

theorem Keeps.msgEnd (h : Keeps s t) {id m a2} : Keeps s (State.msgEnd t id m a2) := by
  grind [State.msgEnd, Keeps.putOut, Keeps.modCtx, Keeps.applyEnd, Keeps.record]

theorem Keeps.resend (h : Keeps s t) {id m} : Keeps s (State.resend t id m) := by
  grind [State.resend, Keeps.sendCells, Keeps.record]

theorem Keeps.execResendTimeout (h : Keeps s t) {id} (e : execResendTimeout id t = .next u) : Keeps s u := by
  grind [execResendTimeout, Keeps.msgEnd, Keeps.resend]

theorem Keeps.execNakBackoffExpiry (h : Keeps s t) {id} (e : execNakBackoffExpiry id t = .next u) : Keeps s u := by
  grind [execNakBackoffExpiry, Keeps.resend]

theorem Keeps.execNakLimitExpiry (h : Keeps s t) {id} (e : execNakLimitExpiry id t = .next u) : Keeps s u := by
  grind [execNakLimitExpiry, Keeps.msgEnd]

theorem Keeps.execOutboundContextReuse (h : Keeps s t) {id} (e : execOutboundContextReuse id t = .next u) : Keeps s u := by
  grind [execOutboundContextReuse, Keeps.putOut]

theorem Keeps.countDrop (h : Keeps s t) {hi lo} : Keeps s (State.countDrop t hi lo) := by
  grind [State.countDrop, Keeps.record]

theorem Keeps.crcError (h : Keeps s t) : Keeps s (State.crcError t) := by
  grind [State.crcError, Keeps.countDrop]

theorem Keeps.unroutable (h : Keeps s t) : Keeps s (State.unroutable t) := by
  grind [State.unroutable, Keeps.countDrop]

theorem Keeps.orphan (h : Keeps s t) : Keeps s (State.orphan t) := by
  grind [State.orphan, Keeps.countDrop]

theorem Keeps.malformed (h : Keeps s t) : Keeps s (State.malformed t) := by
  grind [State.malformed, Keeps.countDrop]

theorem Keeps.nakDiscarded (h : Keeps s t) : Keeps s (State.nakDiscarded t) := by
  grind [State.nakDiscarded, Keeps.countDrop]

theorem Keeps.nakRetried (h : Keeps s t) {id m gen} : Keeps s (State.nakRetried t id m gen) := by
  grind [State.nakRetried, Keeps.putOut]

theorem Keeps.landData (h : Keeps s t) {x c pos l bs} (e : State.landData t x c pos l bs = .ok u) : Keeps s u := by
  grind [State.landData, Keeps.writePlace, Keeps.foldl, Keeps.foldl_fst, Keeps.record]

theorem Keeps.answer (h : Keeps s t) {id m a2 a3 payload} : Keeps s (State.answer t id m a2 a3 payload) := by
  unfold State.answer
  split <;> grind [Keeps.malformed, → Keeps.landData, Keeps.chunkStop, Keeps.msgEnd, Keeps.putOut, Keeps.orphan]

theorem Keeps.reply (h : Keeps s t) {c} : Keeps s (State.reply t c) := by
  grind [State.reply, Keeps.orphan, Keeps.msgEnd, Keeps.nakRetried, Keeps.answer]

theorem Keeps.replyRow (h : Keeps s t) {c x ok} : Keeps s (State.replyRow t c x ok) := by
  grind [State.replyRow, Keeps.takeCell, Keeps.reply, Keeps.crcError]

theorem Keeps.execXchReply (h : Keeps s t) {c} (e : execXchReply c t = .next u) : Keeps s u := by
  grind [execXchReply, Keeps.replyRow]

theorem Keeps.execCompletion (h : Keeps s t) {c} (e : execCompletion c t = .next u) : Keeps s u := by
  grind [execCompletion, Keeps.replyRow]

theorem Keeps.execNakRetry (h : Keeps s t) {c} (e : execNakRetry c t = .next u) : Keeps s u := by
  grind [execNakRetry, Keeps.replyRow]

theorem Keeps.execNakRefuse (h : Keeps s t) {c} (e : execNakRefuse c t = .next u) : Keeps s u := by
  grind [execNakRefuse, Keeps.replyRow]

theorem Keeps.execGetData (h : Keeps s t) {c} (e : execGetData c t = .next u) : Keeps s u := by
  grind [execGetData, Keeps.replyRow]

theorem Keeps.execAtomicResult (h : Keeps s t) {c} (e : execAtomicResult c t = .next u) : Keeps s u := by
  grind [execAtomicResult, Keeps.replyRow]

theorem Keeps.leave (h : Keeps s t) {src c} (e : State.leave t src c = some u) : Keeps s u := by
  obtain ⟨_, rfl⟩ | ⟨_, _, _, _, rfl⟩ := State.leave_cases e
  · exact h.record
  · exact h.setPort

theorem Keeps.execCellForward (h : Keeps s t) {src c} (e : execCellForward src c t = .next u) : Keeps s u := by
  grind [execCellForward, → Keeps.leave, Keeps.unroutable, Keeps.modPort]

/-! ### Inbound.lean -/

theorem Keeps.putIn (h : Keeps s t) {i m} : Keeps s (State.putIn t i m) := by
  grind [State.putIn, Keeps.record]

theorem Keeps.freeInbound (h : Keeps s t) {i m} : Keeps s (State.freeInbound t i m) := by
  grind [State.freeInbound, Keeps.putIn, Keeps.record]

theorem Keeps.retire (h : Keeps s t) {i m reply} : Keeps s (State.retire t i m reply) := by
  grind [State.retire, Keeps.freeInbound, Keeps.putIn, Keeps.record]

theorem Keeps.retireSettle (h : Keeps s t) : Keeps s (State.retireSettle t) := by
  grind [State.retireSettle, Keeps.retire, Keeps.foldl, Keeps.foldl_fst]

theorem Keeps.serveGet (h : Keeps s t) {x c} : Keeps s (State.serveGet t x c) := by
  grind [State.serveGet, → Keeps.readLoc, Keeps.inject]

theorem Keeps.replyAgain (h : Keeps s t) {a0 gen} : Keeps s (State.replyAgain t a0 gen) := by
  grind [State.replyAgain, Keeps.inject, Keeps.serveGet]

theorem Keeps.nakA (h : Keeps s t) {c kind code} : Keeps s (State.nakA t c kind code) := by
  grind [State.nakA, Keeps.inject]

theorem Keeps.nak (h : Keeps s t) {c kind code} : Keeps s (State.nak t c kind code) := by
  grind [State.nak, Keeps.orphan, Keeps.inject, Keeps.nakA]

theorem Keeps.noContext (h : Keeps s t) {c} : Keeps s (State.noContext t c) := by
  grind [State.noContext, Keeps.orphan, Keeps.nakDiscarded, Keeps.record]

theorem Keeps.turnAway (h : Keeps s t) {x src agent access e} : Keeps s (State.turnAway t x src agent access e).state := by
  unfold State.turnAway
  dsimp only
  split
  · exact h.modCtx.noticeCtx
  · exact h.modCtx.corrected

theorem Keeps.admitReq (h : Keeps s t) {x key c} : Keeps s (State.admitReq t x key c).state := by
  unfold State.admitReq
  grind [Admit.state, Keeps.turnAway, Keeps.malformed, Keeps.record]

theorem Keeps.admitCol (h : Keeps s t) {x key c} : Keeps s (State.admitCol t x key c).state := by
  unfold State.admitCol
  dsimp only
  split
  · split
    · exact h
    · exact h.logEpoch
  · split
    · rename_i e
      exact (Keeps.colAdmit_nak e) ▸ h
    · exact h
    · split
      · exact h
      · split
        · exact h.turnAway
        · exact h

theorem Keeps.admitXch (h : Keeps s t) {key c} : Keeps s (State.admitXch t key c).state := by
  unfold State.admitXch
  dsimp only
  split
  · exact h.orphan
  · exact h.xchAdmit_nak ‹_›
  · exact h.xchCountFault
  · split
    · split
      · exact h.turnAway
      · exact h
    · split
      · exact h.orphan
      · split
        · exact h.turnAway
        · exact h

theorem Keeps.placeCell (h : Keeps s t) {m c} {r} (e : State.placeCell t m c = .ok r) : Keeps s r.1 := by
  grind [State.placeCell, → Keeps.xchPlace, → Keeps.colPlace, → Keeps.writeVa]

theorem Keeps.reduceInto (h : Keeps s t) {m fmt} (e : State.reduceInto t m fmt = .ok u) : Keeps s u := by
  grind [State.reduceInto, → Keeps.readLoc, → Keeps.writeLoc]

theorem Keeps.refuseLate (h : Keeps s t) {m c access e} : Keeps s (State.refuseLate t m c access e).1 := by
  have k := h.turnAway (x := m.ctx) (src := aSrc c.hdr) (agent := .inbound) (access := access) (e := e)
  unfold State.refuseLate
  split
  · rename_i e
    rw [e] at k
    exact k.nakA
  · exact h

theorem Keeps.complete (h : Keeps s t) {m c} : Keeps s (State.complete t m c).1 := by
  grind [State.complete, Keeps.colComplete, Keeps.ringCredit, → Keeps.reduceInto, Keeps.refuseLate, Keeps.serveGet,
    Keeps.atomicPa, Keeps.nakA, Keeps.flagsMoved, Keeps.setFlag, Keeps.addFlag]

theorem Keeps.finish (h : Keeps s t) {i m c} : Keeps s (State.finish t i m c) := by
  grind [State.finish, Keeps.complete, Keeps.freeInbound, Keeps.inject, Keeps.retire, Keeps.xchComplete]

theorem Keeps.countCell (h : Keeps s t) {i m c} : Keeps s (State.countCell t i m c) := by
  unfold State.countCell
  split
  · rename_i e _
    have k := h.turnAway (x := m.ctx) (src := aSrc c.hdr) (agent := .inbound) (access := .write) (e := e)
    split
    · rename_i e
      rw [e] at k
      exact k.nak.freeInbound
    · exact h
  · rename_i e
    exact (h.placeCell e).finish.ite (h.placeCell e).putIn

theorem Keeps.firstCell (h : Keeps s t) {key c letIn} (k : ∀ v, Keeps s v → Keeps s (letIn v).state) :
    Keeps s (State.firstCell t key c letIn) := by
  have kt := k t h
  unfold State.firstCell
  dsimp only
  split
  · exact h.malformed
  split
  · exact h.noContext
  split
  all_goals
    rename_i e
    rw [e] at kt
  · exact kt
  · exact kt.nak.ite kt.nak.putIn
  · exact Keeps.countCell kt

theorem Keeps.arrive (h : Keeps s t) {key c gate letIn} (k : ∀ v, Keeps s v → Keeps s (letIn v).state) :
    Keeps s (State.arrive t key c gate letIn) := by
  have again {r g gen} {m : State → State} (hm : ∀ v, Keeps s v → Keeps s (m v)) :
      Keeps s (if genNewer g gen then m (t.replyAgain r g) else t) := .ite (hm _ h.replyAgain) h
  unfold State.arrive
  dsimp only
  split
  · exact h.nak
  split
  · exact again fun _ k => k.record
  split
  · exact h.nak
  split
  · exact h.firstCell k
  split
  · exact again fun _ k => k.putIn
  split
  · exact h.malformed
  split
  · split
    · exact h.nak.putIn
    · exact h.countCell
  split
  · exact h
  split
  · exact h.putIn.firstCell k
  · exact h.countCell

theorem Keeps.request (h : Keeps s t) {c} : Keeps s (State.request t c) := by
  unfold State.request
  dsimp only
  split
  · exact h.arrive fun _ k => k
  · refine h.arrive fun v k => ?_
    split
    · exact k.admitCol
    · exact k.admitReq

theorem Keeps.mgtCell (h : Keeps s t) {c} : Keeps s (State.mgtCell t c) := by
  grind [State.mgtCell, Keeps.nakDiscarded, Keeps.record]

theorem Keeps.execCellArrival (h : Keeps s t) {c} (e : execCellArrival c t = .next u) : Keeps s u := by
  grind [execCellArrival, Keeps.retireSettle, Keeps.takeCell, Keeps.crcError, Keeps.reply, Keeps.mgtCell, Keeps.malformed,
    Keeps.request]

theorem Keeps.execXchCell (h : Keeps s t) {c} (e : execXchCell c t = .next u) : Keeps s u := by
  cases e
  have k := (h.takeCell (c := c)).retireSettle
  dsimp only
  split
  · split
    · exact k
    split
    · exact k.crcError
    split
    · exact k.arrive fun _ k => k.admitXch
    · exact k.orphan
  · exact h

theorem Keeps.execInboundContextTimeout (h : Keeps s t) {index}
    (e : execInboundContextTimeout index t = .next u) : Keeps s u := by
  grind [execInboundContextTimeout, Keeps.freeInbound]

theorem Keeps.execRetireExpiry (h : Keeps s t) {index} (e : execRetireExpiry index t = .next u) : Keeps s u := by
  grind [execRetireExpiry, Keeps.retireSettle, Keeps.record]

/-! ### Links.lean -/

theorem Keeps.linkChange (h : Keeps s t) {p} : Keeps s (State.linkChange t p) := by
  grind [State.linkChange, Keeps.noticeDev]

theorem Keeps.prbsNow (h : Keeps s t) {host p lane} : Keeps s (State.prbsNow t host p lane).1 := by
  grind [State.prbsNow, Keeps.modPort, Keeps.record]

theorem Keeps.testEnds (h : Keeps s t) {p} : Keeps s (State.testEnds t p) := by
  grind [State.testEnds, Keeps.modPort, Keeps.prbsNow, Keeps.foldl, Keeps.foldl_fst]

theorem Keeps.hostTestEnds (h : Keeps s t) : Keeps s (State.hostTestEnds t) := by
  grind [State.hostTestEnds, Keeps.prbsNow, Keeps.foldl, Keeps.foldl_fst, Keeps.record]

theorem Keeps.drainPort (h : Keeps s t) {p} : Keeps s (State.drainPort t p) := by
  grind [State.drainPort, Keeps.inject, Keeps.setPort]

theorem Keeps.enterEntry (h : Keeps s t) {p n g} : Keeps s (State.enterEntry t p n g) := by
  grind [State.enterEntry, Keeps.linkChange, Keeps.modPort]

theorem Keeps.startTraining (h : Keeps s t) {p} : Keeps s (State.startTraining t p) := by
  grind [State.startTraining, Keeps.enterEntry, Keeps.modPort, Keeps.testEnds]

theorem Keeps.linkReset (h : Keeps s t) {p cause} : Keeps s (State.linkReset t p cause) := by
  grind [State.linkReset, Keeps.modPort, Keeps.drainPort, Keeps.linkChange, Keeps.startTraining]

theorem Keeps.portOff (h : Keeps s t) {p} : Keeps s (State.portOff t p) := by
  grind [State.portOff, Keeps.linkChange, Keeps.modPort, Keeps.drainPort, Keeps.testEnds]

theorem Keeps.portFailed (h : Keeps s t) {p cause} : Keeps s (State.portFailed t p cause) := by
  grind [State.portFailed, Keeps.linkChange, Keeps.modPort]

theorem Keeps.trainOk (h : Keeps s t) {p a1} : Keeps s (State.trainOk t p a1) := by
  grind [State.trainOk, Keeps.enterEntry]

theorem Keeps.startReplay (h : Keeps s t) {p q} : Keeps s (State.startReplay t p q) := by
  grind [State.startReplay, Keeps.linkReset, Keeps.modPort]

theorem Keeps.execFrameTransmit (h : Keeps s t) {p} (e : execFrameTransmit p t = .next u) : Keeps s u := by
  grind [execFrameTransmit, Keeps.setPort]

theorem Keeps.execReplayTimeout (h : Keeps s t) {p} (e : execReplayTimeout p t = .next u) : Keeps s u := by
  grind [execReplayTimeout, Keeps.startReplay]

theorem Keeps.execReceiverNakTimeout (h : Keeps s t) {p} (e : execReceiverNakTimeout p t = .next u) : Keeps s u := by
  grind [execReceiverNakTimeout, Keeps.setPort]

theorem Keeps.nakReceived (h : Keeps s t) {p ack} : Keeps s (State.nakReceived t p ack) := by
  grind [State.nakReceived, Keeps.setPort, Keeps.startReplay]

theorem Keeps.goodFrame (h : Keeps s t) {p body} : Keeps s (State.goodFrame t p body) := by
  grind [State.goodFrame, Keeps.linkReset, Keeps.modPort, Keeps.nakReceived, Keeps.setPort]

theorem Keeps.execFrameReceive (h : Keeps s t) {p w} (e : execFrameReceive p w t = .next u) : Keeps s u := by
  cases e
  dsimp only
  split
  · exact h.setPort
  split
  · exact h.setPort.setPort.setPort
  · refine Keeps.goodFrame ?_
    split
    · exact h.setPort.setPort.setPort.trainOk
    · exact h.setPort.setPort.setPort

theorem Keeps.lossOfLock (h : Keeps s t) {p lanes} : Keeps s (State.lossOfLock t p lanes) := by
  grind [State.lossOfLock, Keeps.linkReset, Keeps.modPort]

theorem Keeps.execLossOfLock (h : Keeps s t) {p lanes} (e : execLossOfLock p lanes t = .next u) : Keeps s u := by
  grind [execLossOfLock, Keeps.lossOfLock]

theorem Keeps.trainFail (h : Keeps s t) {p a1} : Keeps s (State.trainFail t p a1) := by
  grind [State.trainFail, Keeps.enterEntry, Keeps.setPort]

theorem Keeps.trainResult (h : Keeps s t) {p code us ok g} : Keeps s (State.trainResult t p code us ok g) := by
  grind [State.trainResult, Keeps.trainOk, Keeps.modPort, Keeps.trainFail]

theorem Keeps.execTrainingTimeout (h : Keeps s t) {p} (e : execTrainingTimeout p t = .next u) : Keeps s u := by
  grind [execTrainingTimeout, Keeps.trainFail]

theorem Keeps.execDetect (h : Keeps s t) {p locked} (e : execDetect p locked t = .next u) : Keeps s u := by
  grind [execDetect, Keeps.trainResult]

theorem Keeps.execDeskew (h : Keeps s t) {p found} (e : execDeskew p found t = .next u) : Keeps s u := by
  grind [execDeskew, Keeps.trainResult]

theorem Keeps.sendBlock (h : Keeps s t) {p} : Keeps s (State.sendBlock t p) := by
  grind [State.sendBlock, Keeps.modPort, Keeps.record]

theorem Keeps.exchanged (h : Keeps s t) {p a1 b} : Keeps s (State.exchanged t p a1 b) := by
  grind [State.exchanged, Keeps.modPort, Keeps.countDrop, Keeps.portFailed, Keeps.trainOk]

theorem Keeps.execExchange (h : Keeps s t) {p block} (e : execExchange p block t = .next u) : Keeps s u := by
  grind [execExchange, Keeps.exchanged, Keeps.sendBlock, Keeps.trainFail]

theorem Keeps.execSetGen (h : Keeps s t) {p relocked} (e : execSetGen p relocked t = .next u) : Keeps s u := by
  grind [execSetGen, Keeps.trainResult]

theorem Keeps.execEqPreset (h : Keeps s t) {p} (e : execEqPreset p t = .next u) : Keeps s u := by
  grind [execEqPreset, Keeps.trainResult]

theorem Keeps.execEqAdapt (h : Keeps s t) {p iterations} (e : execEqAdapt p iterations t = .next u) : Keeps s u := by
  grind [execEqAdapt, Keeps.trainResult]

theorem Keeps.execBerCheck (h : Keeps s t) {p ber} (e : execBerCheck p ber t = .next u) : Keeps s u := by
  grind [execBerCheck, Keeps.trainResult]

theorem Keeps.execDelay (h : Keeps s t) {p} (e : execDelay p t = .next u) : Keeps s u := by
  grind [execDelay, Keeps.trainResult]

theorem Keeps.execFallback (h : Keeps s t) {p} (e : execFallback p t = .next u) : Keeps s u := by
  grind [execFallback, Keeps.modPort, Keeps.trainFail, Keeps.portFailed, Keeps.trainOk]

theorem Keeps.execLinkUp (h : Keeps s t) {p goodFrame} (e : execLinkUp p goodFrame t = .next u) : Keeps s u := by
  grind [execLinkUp, Keeps.trainResult]

theorem Keeps.execQuietIdleExpiry (h : Keeps s t) {p} (e : execQuietIdleExpiry p t = .next u) : Keeps s u := by
  grind [execQuietIdleExpiry, Keeps.setPort]

theorem Keeps.execQuietReqTimeout (h : Keeps s t) {p} (e : execQuietReqTimeout p t = .next u) : Keeps s u := by
  grind [execQuietReqTimeout, Keeps.setPort]

theorem Keeps.wakePort (h : Keeps s t) {p} : Keeps s (State.wakePort t p) := by
  grind [State.wakePort, Keeps.setPort]

theorem Keeps.execWakeBurst (h : Keeps s t) {p} (e : execWakeBurst p t = .next u) : Keeps s u := by
  grind [execWakeBurst, Keeps.wakePort]

theorem Keeps.writePortCfg (h : Keeps s t) {p v} : Keeps s (State.writePortCfg t p v).2 := by
  grind [State.writePortCfg, Keeps.modPort, Keeps.portOff, Keeps.startTraining]

theorem Keeps.execCufPortCfgWrite (h : Keeps s t) {p value} (e : execCufPortCfgWrite p value t = .next u) : Keeps s u := by
  grind [execCufPortCfgWrite, Keeps.writePortCfg]

theorem Keeps.writePrbsCtl (h : Keeps s t) {p lane v} : Keeps s (State.writePrbsCtl t p lane v).2 := by
  grind [State.writePrbsCtl, Keeps.prbsNow, Keeps.modPort]

theorem Keeps.execCufLanePrbsCtlWrite (h : Keeps s t) {p lane value}
    (e : execCufLanePrbsCtlWrite p lane value t = .next u) : Keeps s u := by
  grind [execCufLanePrbsCtlWrite, Keeps.writePrbsCtl]

theorem Keeps.execPrbsCheckerLock (h : Keeps s t) {host port l}
    (e : execPrbsCheckerLock host port l t = .next u) : Keeps s u := by
  grind [execPrbsCheckerLock, Keeps.setPort, Keeps.record]

theorem Keeps.execPrbsCheckerLossOfLock (h : Keeps s t) {host port lane bits loss}
    (e : execPrbsCheckerLossOfLock host port lane bits loss t = .next u) : Keeps s u := by
  grind [execPrbsCheckerLossOfLock, Keeps.setPort, Keeps.record]

/-! ### HostPort.lean -/

theorem Keeps.hpSend (h : Keeps s t) {pcp kind bs} : Keeps s (State.hpSend t pcp kind bs) := by
  grind [State.hpSend, Keeps.record]

theorem Keeps.unpause (h : Keeps s t) {pcp} : Keeps s (State.unpause t pcp) := by
  grind [State.unpause, Keeps.record]

theorem Keeps.execPfcFrame (h : Keeps s t) {quanta} (e : execPfcFrame quanta t = .next u) : Keeps s u := by
  grind [execPfcFrame, Keeps.unpause, Keeps.foldl, Keeps.foldl_fst, Keeps.record]

theorem Keeps.execPfcPauseExpiry (h : Keeps s t) {priority} (e : execPfcPauseExpiry priority t = .next u) : Keeps s u := by
  grind [execPfcPauseExpiry, Keeps.unpause]

theorem Keeps.bufferLevel (h : Keeps s t) {n} : Keeps s (State.bufferLevel t n) := by
  grind [State.bufferLevel, Keeps.hpSend, Keeps.record]

theorem Keeps.setQp (h : Keeps s t) {i q} : Keeps s (State.setQp t i q) := by
  grind [State.setQp, Keeps.record]

theorem Keeps.windowNak (h : Keeps s t) {qp cls} : Keeps s (State.windowNak t qp cls) := by
  grind [State.windowNak, Keeps.hpSend, Keeps.record]

theorem Keeps.answerEcn (h : Keeps s t) {i} : Keeps s (State.answerEcn t i) := by
  grind [State.answerEcn, Keeps.hpSend, Keeps.setQp]

theorem Keeps.rocePacket (h : Keeps s t) {a0} : Keeps s (State.rocePacket t a0) := by
  grind [State.rocePacket, Keeps.answerEcn, Keeps.windowNak]

theorem Keeps.passUp (h : Keeps s t) {f} : Keeps s (State.passUp t f) := by
  grind [State.passUp, Keeps.rocePacket]

theorem Keeps.execEthernetFrame (h : Keeps s t) {f} (e : execEthernetFrame f t = .next u) : Keeps s u := by
  grind [execEthernetFrame, Keeps.bufferLevel, Keeps.passUp, Keeps.record]

theorem Keeps.execArpNdIcmp (h : Keeps s t) {query} (e : execArpNdIcmp query t = .next u) : Keeps s u := by
  cases e
  split
  · exact h
  · cases query
    · exact h.hpSend.ite h
    · exact h.hpSend.ite h
    · exact h.hpSend.ite h
    · exact h.hpSend.ite h
    · exact h.ite h.hpSend

theorem Keeps.execCnp (h : Keeps s t) {qp} (e : execCnp qp t = .next u) : Keeps s u := by
  grind [execCnp, Keeps.setQp]

theorem Keeps.execRateIncrease (h : Keeps s t) {qp} (e : execRateIncrease qp t = .next u) : Keeps s u := by
  grind [execRateIncrease, Keeps.setQp]

theorem Keeps.setChunks (h : Keeps s t) {cs} : Keeps s (State.setChunks t cs) := by
  grind [State.setChunks, Keeps.record]

theorem Keeps.dropChunks (h : Keeps s t) {a0} : Keeps s (State.dropChunks t a0) := by
  grind [State.dropChunks, Keeps.setChunks]

theorem Keeps.farRemote (h : Keeps s t) {a0} : Keeps s (State.farRemote t a0) := by
  grind [State.farRemote, Keeps.dropChunks, Keeps.recordOutcome, Keeps.tfault]

theorem Keeps.qpError (h : Keeps s t) {i} : Keeps s (State.qpError t i) := by
  grind [State.qpError, Keeps.setQp, Keeps.farRemote, Keeps.foldl, Keeps.foldl_fst]

theorem Keeps.chunkPoison (h : Keeps s t) {a0 n} : Keeps s (State.chunkPoison t a0 n) := by
  grind [State.chunkPoison, Keeps.dropChunks, Keeps.recordOutcome, Keeps.contained]

theorem Keeps.chunkSource (h : Keeps s t) {a0} {r} (e : State.chunkSource t a0 = .ok r) : Keeps s r.1 := by
  grind [State.chunkSource, → Keeps.readLoc]

theorem Keeps.chunkEnds (h : Keeps s t) {a0 a1} : Keeps s (State.chunkEnds t a0 a1) := by
  grind [State.chunkEnds, Keeps.dropChunks, Keeps.chunkStop]

theorem Keeps.execHostDmaChunk (h : Keeps s t) {engine index}
    (e : execHostDmaChunk engine index t = .next u) : Keeps s u := by
  cases e
  split
  · exact h
  split
  · exact h
  split
  · exact h.chunkEnds
  dsimp only
  split
  · exact h.farRemote
  split
  · exact h.farRemote
  split
  · exact h
  split
  · exact h.setChunks.setQp
  split
  · exact h.chunkEnds
  · rename_i e
    have k := h.chunkSource e
    exact k.chunkPoison.ite k.setChunks.setQp

theorem Keeps.chunksDone (h : Keeps s t) {a0} : Keeps s (State.chunksDone t a0) := by
  grind [State.chunksDone, Keeps.copyFrom, Keeps.stage, Keeps.recordOutcome]

theorem Keeps.collected (h : Keeps s t) {a0} : Keeps s (State.collected t a0) := by
  unfold State.collected
  grind [Keeps.dropChunks, Keeps.suspendEntry, Keeps.dmaFault, Keeps.putSend]

theorem Keeps.ackTimer (h : Keeps s t) {i} : Keeps s (State.ackTimer t i) := by
  grind [State.ackTimer, Keeps.setQp]

theorem Keeps.chunkComplete (h : Keeps s t) {a0 data} : Keeps s (State.chunkComplete t a0 data) := by
  grind [State.chunkComplete, Keeps.collected, Keeps.ackTimer, Keeps.setChunks, Keeps.chunksDone, Keeps.record]

theorem Keeps.execRdmaAck (h : Keeps s t) {qp} (e : execRdmaAck qp t = .next u) : Keeps s u := by
  grind [execRdmaAck, Keeps.chunkComplete]

theorem Keeps.execRdmaAckTimeout (h : Keeps s t) {qp} (e : execRdmaAckTimeout qp t = .next u) : Keeps s u := by
  grind [execRdmaAckTimeout, Keeps.qpError, Keeps.setQp]

theorem Keeps.execRdmaNak (h : Keeps s t) {qp _operational} (e : execRdmaNak qp _operational t = .next u) : Keeps s u := by
  grind [execRdmaNak, Keeps.qpError]

theorem Keeps.chunkLands (h : Keeps s t) {a0 offset data} (e : State.chunkLands t a0 offset data = .ok u) : Keeps s u := by
  grind [State.chunkLands, → Keeps.writeLoc]

theorem Keeps.execRdmaReadResponse (h : Keeps s t) {qp offset data last}
    (e : execRdmaReadResponse qp offset data last t = .next u) : Keeps s u := by
  grind [execRdmaReadResponse, Keeps.chunkComplete, Keeps.setChunks, → Keeps.chunkLands, Keeps.ackTimer, Keeps.chunkEnds]

theorem Keeps.execRdmaWriteReceive (h : Keeps s t) {qp rkey va data}
    (e : execRdmaWriteReceive qp rkey va data t = .next u) : Keeps s u := by
  grind [execRdmaWriteReceive, Keeps.windowNak, → Keeps.writeVa, Keeps.hpSend, Keeps.setQp]

theorem Keeps.execRdmaReadReceive (h : Keeps s t) {qp rkey va len}
    (e : execRdmaReadReceive qp rkey va len t = .next u) : Keeps s u := by
  grind [execRdmaReadReceive, Keeps.windowNak, → Keeps.readVa, Keeps.hpSend, Keeps.setQp]

theorem Keeps.writeHpCfg (h : Keeps s t) {v} : Keeps s (State.writeHpCfg t v).2 := by
  grind [State.writeHpCfg, Keeps.record]

theorem Keeps.execHpPortCfgWrite (h : Keeps s t) {value} (e : execHpPortCfgWrite value t = .next u) : Keeps s u := by
  grind [execHpPortCfgWrite, Keeps.writeHpCfg]

theorem Keeps.execHostPortLinkDown (h : Keeps s t) (e : execHostPortLinkDown t = .next u) : Keeps s u := by
  grind [execHostPortLinkDown, Keeps.record]

theorem Keeps.execHostPortLinkUp (h : Keeps s t) (e : execHostPortLinkUp t = .next u) : Keeps s u := by
  grind [execHostPortLinkUp, Keeps.record]

theorem Keeps.execHostPortTestReturn (h : Keeps s t) (e : execHostPortTestReturn t = .next u) : Keeps s u := by
  grind [execHostPortTestReturn, Keeps.hostTestEnds, Keeps.record]

/-! ### Lmp.lean -/

theorem Keeps.sendResponse (h : Keeps s t) {a0} : Keeps s (State.sendResponse t a0) := by
  grind [State.sendResponse, Keeps.hpSend]

theorem Keeps.respond (h : Keeps s t) {n code st payload} : Keeps s (State.respond t n code st payload) := by
  grind [State.respond, Keeps.sendResponse, Keeps.modSessions, Keeps.record]

theorem Keeps.hold (h : Keeps s t) {a0} : Keeps s (State.hold t a0) := by
  grind [State.hold, Keeps.record]

theorem Keeps.command (h : Keeps s t) {c q code len x own eff} (k : Keeps s (eff t).1) : Keeps s (State.command t c q code
    len x own eff) := by
  unfold State.command
  grind [Keeps.hold, Keeps.respond]

theorem Keeps.closeSession (h : Keeps s t) {n} : Keeps s (State.closeSession t n) := by
  grind [State.closeSession, Keeps.modCtx, Keeps.foldl, Keeps.foldl_fst, Keeps.record]

theorem Keeps.execSessionOpen (h : Keeps s t) {q addr port version flags timeoutS nonce}
    (e : execSessionOpen q addr port version flags timeoutS nonce t = .next u) : Keeps s u := by
  grind [execSessionOpen, Keeps.command, Keeps.record]

theorem Keeps.execSessionClose (h : Keeps s t) {q} (e : execSessionClose q t = .next u) : Keeps s u := by
  grind [execSessionClose, Keeps.command, Keeps.closeSession]

theorem Keeps.execSessionTimeout (h : Keeps s t) {session} (e : execSessionTimeout session t = .next u) : Keeps s u := by
  grind [execSessionTimeout, Keeps.closeSession]

theorem Keeps.execDeviceInfo (h : Keeps s t) {q} (e : execDeviceInfo q t = .next u) : Keeps s u := by
  grind [execDeviceInfo, Keeps.command]

theorem Keeps.announce (h : Keeps s t) : Keeps s (State.announce t) := by
  grind [State.announce, Keeps.hpSend, Keeps.foldl, Keeps.foldl_fst, Keeps.record]

theorem Keeps.execAnnounce (h : Keeps s t) (e : execAnnounce t = .next u) : Keeps s u := by
  grind [execAnnounce, Keeps.announce]

theorem Keeps.execDeviceReset (h : Keeps s t) {q kind} (e : execDeviceReset q kind t = .next u) : Keeps s u := by
  grind [execDeviceReset, Keeps.command, Keeps.record]

theorem Keeps.execNoticeResend (h : Keeps s t) {session} (e : execNoticeResend session t = .next u) : Keeps s u := by
  grind [execNoticeResend, Keeps.hpSend, Keeps.modSessions, Keeps.foldl, Keeps.foldl_fst]

theorem Keeps.answerBad (h : Keeps s t) {f n} : Keeps s (State.answerBad f n t) := by
  induction f generalizing t with
  | zero => exact h
  | succ f ih =>
    unfold State.answerBad
    split
    · exact h
    split
    · exact h
    split
    · exact h
    · exact ih h.respond

theorem Keeps.lmpRequest (h : Keeps s t) {z d} : Keeps s (State.lmpRequest t z d) := by
  grind [State.lmpRequest, Keeps.modSessions, Keeps.answerBad, Keeps.sendResponse, Keeps.hpSend]

theorem Keeps.execLmpDatagram (h : Keeps s t) {addr port bytes}
    (e : execLmpDatagram addr port bytes t = .next u) : Keeps s u := by
  grind [execLmpDatagram, Keeps.hpSend, Keeps.modSessions, Keeps.lmpRequest, Keeps.record]

/-! ### Tables.lean -/

theorem Keeps.takeNear (h : Keeps s t) {n align r} (e : State.takeNear t n align = some r) : Keeps s r.2 := by
  grind [State.takeNear, Option.map_eq_some_iff, Keeps.drawn]

theorem Keeps.takeFirmware (h : Keeps s t) {r} (e : State.takeFirmware t = some r) : Keeps s r.2 := by
  grind [State.takeFirmware, Option.map_eq_some_iff, Keeps.drawn]

theorem Keeps.newTable (h : Keeps s t) {x r} (e : State.newTable t x = some r) : Keeps s r.2 := by
  grind [State.newTable, Option.map_eq_some_iff, Keeps.drawn, Keeps.writePaClean, Keeps.modCtx]

theorem Keeps.putPte (h : Keeps s t) {table i a2} : Keeps s (State.putPte t table i a2) := by
  grind [State.putPte, Keeps.writePaClean]

theorem Keeps.subTable (h : Keeps s t) {x table i r} (e : State.subTable t x table i = some r) : Keeps s r.2 := by
  unfold State.subTable at e
  grind [Option.map_eq_some_iff, → Keeps.newTable, Keeps.writePaClean, Keeps.putPte]

theorem Keeps.putPage (h : Keeps s t) {x va a2} (e : State.putPage t x va a2 = some u) : Keeps s u := by
  grind [State.putPage, → Keeps.subTable, Keeps.putPte, option_bind_some]

theorem Keeps.putBlock (h : Keeps s t) {x va a2} (e : State.putBlock t x va a2 = some u) : Keeps s u := by
  grind [State.putBlock, → Keeps.subTable, Keeps.putPte, option_bind_some]

theorem Keeps.eachSome {α : Type} {f : State → α → Option State} {l : List α} (h : Keeps s t) (e : eachSome f l t = some u)
    (k : ∀ v a w, Keeps s v → f v a = some w → Keeps s w) : Keeps s u := by
  induction l generalizing t with
  | nil => cases e; exact h
  | cons a l ih => grind [Sys2Proof.Machine.eachSome]

theorem Keeps.noteMap (h : Keeps s t) {x va n pa} : Keeps s (State.noteMap t x va n pa) := by
  grind [State.noteMap, Keeps.modCtx]

theorem Keeps.mapNearPage (h : Keeps s t) {x rights va} (e : State.mapNearPage x rights t va = some u) : Keeps s u := by
  grind [State.mapNearPage, → Keeps.takeNear, → Keeps.putPage, Keeps.noteMap, option_bind_some]

theorem Keeps.mapNearSpan (h : Keeps s t) {x rights z} (e : State.mapNearSpan x rights t z = some u) : Keeps s u := by
  unfold State.mapNearSpan at e
  split at e
  · grind [Option.map_eq_some_iff, → Keeps.takeNear, → Keeps.putBlock, Keeps.noteMap]
  · exact h.eachSome e fun v a w hv hw => hv.mapNearPage hw

theorem Keeps.mapNear (h : Keeps s t) {x rights va n} (e : State.mapNear t x rights va n = some u) : Keeps s u :=
  h.eachSome e fun _ _ _ hv hw => hv.mapNearSpan hw

theorem Keeps.mapSave (h : Keeps s t) {x rights va n} (e : State.mapSave t x rights va n = some u) : Keeps s u :=
  h.eachSome e (by grind [option_bind_some, → Keeps.takeFirmware, → Keeps.putPage, Keeps.noteMap])

theorem Keeps.mapFar (h : Keeps s t) {x rights va n target}
    (e : State.mapFar t x rights va n target = some u) : Keeps s u := by
  refine h.eachSome e fun v a w hv hw => ?_
  obtain ⟨y, hy, rfl⟩ := Option.map_eq_some_iff.1 hw
  split at hy
  · exact (hv.putBlock hy).noteMap
  · exact (hv.eachSome hy fun _ _ _ k e => k.putPage e).noteMap

theorem Keeps.rewrite (h : Keeps s t) {x va n g} (e : State.rewrite t x va n g = some u) : Keeps s u := by
  refine h.eachSome e fun v a w hv hw => ?_
  split at hw
  · split at hw
    · exact hv.putBlock hw
    · exact hv.eachSome hw (by grind [→ Keeps.putPage])
  · exact hv.eachSome hw (by grind [→ Keeps.putPage])

theorem Keeps.dropTlb (h : Keeps s t) {x p} : Keeps s (State.dropTlb t x p) := by
  grind [State.dropTlb, Keeps.modCore, Keeps.modCluster, Keeps.modGroup, Keeps.foldl, Keeps.foldl_fst, Keeps.record]

theorem Keeps.unmapRange (h : Keeps s t) {x va n} (e : State.unmapRange t x va n = some u) : Keeps s u := by
  unfold State.unmapRange at e
  obtain ⟨y, hy, rfl⟩ := Option.map_eq_some_iff.1 e
  exact (h.rewrite hy).modCtx.dropTlb

theorem Keeps.unmapAll (h : Keeps s t) {x p} : Keeps s (State.unmapAll t x p) := by
  unfold State.unmapAll
  refine h.foldl fun v a hv => ?_
  cases hw : v.unmapRange x a.1 a.2.1 with
  | none => exact hv
  | some w => exact hv.unmapRange hw

theorem Keeps.lanternWrite (h : Keeps s t) {x va bs} : Keeps s (State.lanternWrite t x va bs) := by
  grind [State.lanternWrite, Keeps.writePaClean, Keeps.foldl, Keeps.foldl_fst]

/-! ### Rails.lean -/

theorem Keeps.setRail (h : Keeps s t) {q v} : Keeps s (State.setRail t q v) := by
  grind [State.setRail, Keeps.record]

/-! ### Wardrobe.lean -/

theorem Keeps.clearCluster (h : Keeps s t) {k} : Keeps s (State.clearCluster t k) := by
  grind [State.clearCluster, Keeps.modCluster, Keeps.modCore, Keeps.foldl, Keeps.foldl_fst]

theorem Keeps.wardrobeSettle (h : Keeps s t) {ranges} : Keeps s (State.wardrobeSettle t ranges) := by
  grind [State.wardrobeSettle, Keeps.fatalError, Keeps.record]

theorem Keeps.putWardrobe (h : Keeps s t) {off bs} : Keeps s (State.putWardrobe t off bs) := by
  grind [State.putWardrobe, Keeps.wardrobeSettle, Keeps.record]

theorem Keeps.writeSave (h : Keeps s t) {k} : Keeps s (State.writeSave t k) := by
  grind [State.writeSave, Keeps.putWardrobe]

theorem Keeps.restoreSave (h : Keeps s t) {k} : Keeps s (State.restoreSave t k) := by
  grind [State.restoreSave, Keeps.wardrobeSettle, Keeps.modCore, Keeps.modCluster, Keeps.foldl, Keeps.foldl_fst]

theorem Keeps.powerDown (h : Keeps s t) {k} : Keeps s (State.powerDown t k) := by
  grind [State.powerDown, Keeps.modCluster, Keeps.setCore, Keeps.foldl, Keeps.foldl_fst]

theorem Keeps.dozing (h : Keeps s t) {k} : Keeps s (State.dozing t k) := by
  grind [State.dozing, Keeps.modCluster, Keeps.modCore, Keeps.foldl, Keeps.foldl_fst]

theorem Keeps.offExit (h : Keeps s t) {k} : Keeps s (State.offExit t k) := by
  grind [State.offExit, Keeps.dozing, Keeps.restoreSave]

theorem Keeps.wakeCluster (h : Keeps s t) {k} : Keeps s (State.wakeCluster t k) := by
  grind [State.wakeCluster, Keeps.modCluster, Keeps.offExit]

theorem Keeps.wakeCore (h : Keeps s t) {c} : Keeps s (State.wakeCore t c) := by
  grind [State.wakeCore, Keeps.modCore, Keeps.wakeCluster]

theorem Keeps.wake (h : Keeps s t) {k} : Keeps s (State.wake t k) := by
  grind [State.wake, Keeps.modCore, Keeps.wakeCluster, Keeps.foldl, Keeps.foldl_fst]

theorem Keeps.wakeCtx (h : Keeps s t) {x} : Keeps s (State.wakeCtx t x) := by
  grind [State.wakeCtx, Keeps.wake, Keeps.foldl, Keeps.foldl_fst]

/-! ### Contexts.lean -/

theorem Keeps.chooseClusters (h : Keeps s t) {n} : Keeps s (State.chooseClusters t n).2 := by
  unfold State.chooseClusters
  grind [Keeps.record]

theorem Keeps.createCtx (h : Keeps s t) {x session n rtag save} (e : State.createCtx t x session n rtag save = some u) :
    Keeps s u := by
  unfold State.createCtx at e
  simp only [option_bind_some] at e
  obtain ⟨r, hr, e⟩ := e
  have k := (h.chooseClusters.drawn.setCtx.newTable hr).modCtx (x := x) (f := fun w => { w with root := r.1 }) |>.wakeCtx
      (x := x)
  grind [→ Keeps.mapSave]

theorem Keeps.execCtxCreate (h : Keeps s t) {q n rtag flags} (e : execCtxCreate q n rtag flags t = .next u) : Keeps s u := by
  cases e
  refine h.command ?_
  split
  · exact h
  · exact h.drawn.createCtx ‹_›

theorem Keeps.dropMessages (h : Keeps s t) {x} : Keeps s (State.dropMessages t x) := by
  grind [State.dropMessages, Keeps.freeInbound, Keeps.foldl, Keeps.foldl_fst, Keeps.record]

theorem Keeps.stopAgents (h : Keeps s t) {x} : Keeps s (State.stopAgents t x) := by
  grind [State.stopAgents, Keeps.dropMessages, Keeps.modGroup, Keeps.foldl, Keeps.foldl_fst, Keeps.record]

theorem Keeps.resetCtx (h : Keeps s t) {x release} : Keeps s (State.resetCtx t x release) := by
  have k {l : List Nat} : Keeps s (l.foldl (fun u k => (u.clearCluster k).wake k) ((t.stopAgents x).freePools x)) :=
    h.stopAgents.freePools.foldl fun _ _ k => k.clearCluster.wake
  unfold State.resetCtx
  exact k.modCtx.dropTlb.unmapAll.ite k.modCtx.dropTlb

theorem Keeps.execCtxReset (h : Keeps s t) {q ctx release} (e : execCtxReset q ctx release t = .next u) : Keeps s u := by
  grind [execCtxReset, Keeps.command, Keeps.modCtx, Keeps.resetCtx]

theorem Keeps.freeCtx (h : Keeps s t) {x} : Keeps s (State.freeCtx t x) := by
  grind [State.freeCtx, Keeps.resetCtx, Keeps.modPool, Keeps.setCtx, Keeps.foldl, Keeps.foldl_fst, Keeps.record]

theorem Keeps.execCtxFree (h : Keeps s t) {q ctx} (e : execCtxFree q ctx t = .next u) : Keeps s u := by
  grind [execCtxFree, Keeps.command, Keeps.freeCtx]

theorem Keeps.execCtxAttach (h : Keeps s t) {q ctx detach handle}
    (e : execCtxAttach q ctx detach handle t = .next u) : Keeps s u := by
  grind [execCtxAttach, Keeps.command, Keeps.modCtx]

theorem Keeps.execCtxStatus (h : Keeps s t) {q ctx} (e : execCtxStatus q ctx t = .next u) : Keeps s u := by
  grind [execCtxStatus, Keeps.command]

theorem Keeps.execPocketCfg (h : Keeps s t) {q ctx ovfVa ovfLen}
    (e : execPocketCfg q ctx ovfVa ovfLen t = .next u) : Keeps s u := by
  grind [execPocketCfg, Keeps.command, Keeps.modCtx]

theorem Keeps.execMap (h : Keeps s t) {q ctx rights va len target}
    (e : execMap q ctx rights va len target t = .next u) : Keeps s u := by
  grind [execMap, Keeps.command, → Keeps.mapFar, → Keeps.mapNear]

theorem Keeps.execUnmap (h : Keeps s t) {q ctx va len} (e : execUnmap q ctx va len t = .next u) : Keeps s u := by
  grind [execUnmap, Keeps.hold, Keeps.command, → Keeps.unmapRange]

theorem Keeps.execProtect (h : Keeps s t) {q ctx rights va len}
    (e : execProtect q ctx rights va len t = .next u) : Keeps s u := by
  grind [execProtect, Keeps.hold, Keeps.command, → Keeps.rewrite, Keeps.dropTlb]

theorem Keeps.readMarked (h : Keeps s t) {ps} : Keeps s (State.readMarked t ps).1 := by
  grind [State.readMarked, Keeps.fetchLine, Keeps.foldl, Keeps.foldl_fst]

theorem Keeps.execMemRead (h : Keeps s t) {q ctx len va} (e : execMemRead q ctx len va t = .next u) : Keeps s u := by
  grind [execMemRead, Keeps.command, Keeps.readMarked]

theorem Keeps.execMemWrite (h : Keeps s t) {q ctx va len data}
    (e : execMemWrite q ctx va len data t = .next u) : Keeps s u := by
  grind [execMemWrite, Keeps.command, → Keeps.writeVa]

theorem Keeps.farRead (h : Keeps s t) {region offset n io} : Keeps s (State.farRead t region offset n io).1 := by
  grind [State.farRead, Keeps.qpError]

theorem Keeps.farWrite (h : Keeps s t) {region offset bs io} : Keeps s (State.farWrite t region offset bs io).1 := by
  grind [State.farWrite, Keeps.qpError, Keeps.record]

theorem Keeps.putAcross (h : Keeps s t) {ps bs n} : Keeps s (State.putAcross ps bs n t).1 := by
  induction ps generalizing bs n t with
  | nil => exact h
  | cons p ps ih =>
    obtain ⟨p, m⟩ := p
    cases p with
    | far pa =>
      have k {v} : Keeps s (if min m n = 0 then t else { t with hp := v }) := h.ite h.record
      unfold State.putAcross
      dsimp only
      split
      · exact h
      split
      · exact k.qpError
      · exact ih k
    | oc a => exact ih h.writePlace
    | cm a => exact ih h.writePlace
    | dm a => exact ih h.writePlace
    | _ => exact ih h.writePlace

theorem Keeps.takeAcross (h : Keeps s t) {ps bs} : Keeps s (State.takeAcross ps bs t).1 := by
  induction ps generalizing bs t with
  | nil => exact h
  | cons p ps ih =>
    obtain ⟨p, m⟩ := p
    cases p with
    | far pa =>
      unfold State.takeAcross
      dsimp only
      split
      · exact h
      split
      · exact h.qpError
      · exact ih h
    | _ => exact ih h.readPlace

theorem Keeps.xfer (h : Keeps s t) {x dir region va offset len io f p} :
    Keeps s (State.xfer x dir region va offset len io f p t).1 := by
  induction f generalizing io p t with
  | zero => exact h
  | succ f ih =>
    unfold State.xfer
    dsimp only
    split
    · exact h
    split
    · split
      · exact h
      split
      · exact h.writePlaces.qpError
      split
      · exact ih h.putAcross
      · exact h.putAcross
    · split
      · exact h
      split
      · exact h.takeAcross
      split
      · exact h.takeAcross.deferred
      split
      · exact h.takeAcross.record.qpError
      · exact ih h.takeAcross.record

theorem Keeps.execMemXfer (h : Keeps s t) {q ctx dir region va offset len io}
    (e : execMemXfer q ctx dir region va offset len io t = .next u) : Keeps s u := by
  grind [execMemXfer, Keeps.command, Keeps.xfer]

theorem Keeps.execPoolCfgSet (h : Keeps s t) {q pool ctx bufferLog2 count base}
    (e : execPoolCfgSet q pool ctx bufferLog2 count base t = .next u) : Keeps s u := by
  grind [execPoolCfgSet, Keeps.command, Keeps.modPool]

theorem Keeps.execPoolCfgRemove (h : Keeps s t) {q pool ctx} (e : execPoolCfgRemove q pool ctx t = .next u) : Keeps s u := by
  grind [execPoolCfgRemove, Keeps.command, Keeps.modPool]

theorem Keeps.execPoolQuota (h : Keeps s t) {q pool requester limit reserve}
    (e : execPoolQuota q pool requester limit reserve t = .next u) : Keeps s u := by
  grind [execPoolQuota, Keeps.command, Keeps.modPool]

theorem Keeps.execRegionBind (h : Keeps s t) {q region qp rkey remote len}
    (e : execRegionBind q region qp rkey remote len t = .next u) : Keeps s u := by
  grind [execRegionBind, Keeps.command, Keeps.record]

theorem Keeps.execRegionUnbind (h : Keeps s t) {q region} (e : execRegionUnbind q region t = .next u) : Keeps s u := by
  grind [execRegionUnbind, Keeps.command, Keeps.record]

theorem Keeps.execMemPolicy (h : Keeps s t) {q groupMask hold arbWeight}
    (e : execMemPolicy q groupMask hold arbWeight t = .next u) : Keeps s u := by
  grind [execMemPolicy, Keeps.command, Keeps.modGroup, Keeps.foldl, Keeps.foldl_fst]

/-! ### ProgLoad.lean -/

theorem Keeps.zeroRange (h : Keeps s t) {x va n} : Keeps s (State.zeroRange t x va n) := by
  unfold State.zeroRange
  refine h.foldl fun v p k => ?_
  split
  · exact k
  · exact ⟨k.pending, k.now, fun w => MainMem.wf_filter (k.settled w)⟩

theorem Keeps.mapThing (h : Keeps s t) {x b} (e : State.mapThing x t b = some u) : Keeps s u := by
  unfold State.mapThing at e
  split at e
  · cases e
    exact h
  split at e
  · split at e
    · obtain ⟨y, hy, rfl⟩ := Option.map_eq_some_iff.1 e
      exact (h.rewrite hy).dropTlb
    · cases e
      exact h
  split at e
  · exact h.mapNear e
  · cases e

theorem Keeps.fillBuffer (h : Keeps s t) {x kept b bytes} : Keeps s (State.fillBuffer t x kept b bytes) := by
  grind [State.fillBuffer, Keeps.cmCommit, Keeps.lanternWrite, Keeps.zeroRange]

theorem Keeps.loaded (h : Keeps s t) {x bs l} (e : State.loaded t x bs l = some u) : Keeps s u := by
  unfold State.loaded at e
  split at e
  · cases e
  · simp only [option_bind_some] at e
    obtain ⟨v, hv, e⟩ := e
    cases e
    have k : Keeps s v := h.record.eachSome hv fun _ _ _ k e => k.mapThing e
    refine Keeps.foldl (.modCtx (.foldl (.foldl k fun _ _ k => ?_) fun _ _ k => k.lanternWrite)) fun _ _ k => k.modCluster
    exact k.ite k.fillBuffer

theorem Keeps.loadProgram (h : Keeps s t) {x bs} : Keeps s (State.loadProgram t x bs).1 := by
  unfold State.loadProgram
  grind [→ Keeps.loaded, → Keeps.loadShards, Keeps.modCtx]

theorem Keeps.execProgLoad (h : Keeps s t) {q ctx region offset len io}
    (e : execProgLoad q ctx region offset len io t = .next u) : Keeps s u := by
  grind [execProgLoad, Keeps.command, Keeps.farRead, Keeps.loadProgram]

/-! ### Setup.lean -/

theorem Keeps.execTopologyLoad (h : Keeps s t) {q record} (e : execTopologyLoad q record t = .next u) : Keeps s u := by
  grind [execTopologyLoad, Keeps.command, Keeps.record]

theorem Keeps.execLinkCfgTrainingTable (h : Keeps s t) {q entries}
    (e : execLinkCfgTrainingTable q entries t = .next u) : Keeps s u := by
  grind [execLinkCfgTrainingTable, Keeps.command, Keeps.record]

theorem Keeps.overPorts (h : Keeps s t) {mask f} (k : ∀ v p,
  Keeps s v → Keeps s (f v p)) : Keeps s (State.overPorts t mask f) :=
  h.foldl fun _ _ h => (k _ _ h).ite h

theorem Keeps.execLinkCfgPortCfg (h : Keeps s t) {q mask value}
    (e : execLinkCfgPortCfg q mask value t = .next u) : Keeps s u := by
  grind [execLinkCfgPortCfg, Keeps.command, Keeps.writePortCfg, Keeps.overPorts]

theorem Keeps.writeCreditCfg (h : Keeps s t) {p v} : Keeps s (State.writeCreditCfg t p v).2 := by
  grind [State.writeCreditCfg, Keeps.modPort, Keeps.foldl, Keeps.foldl_fst]

theorem Keeps.execLinkCfgCreditCfg (h : Keeps s t) {q mask value}
    (e : execLinkCfgCreditCfg q mask value t = .next u) : Keeps s u := by
  grind [execLinkCfgCreditCfg, Keeps.command, Keeps.writeCreditCfg, Keeps.overPorts]

theorem Keeps.writeLinkExcl (h : Keeps s t) {v} : Keeps s (State.writeLinkExcl t v).2 := by
  grind [State.writeLinkExcl, Keeps.record]

theorem Keeps.execLinkCfgLinkExcl (h : Keeps s t) {q value} (e : execLinkCfgLinkExcl q value t = .next u) : Keeps s u := by
  grind [execLinkCfgLinkExcl, Keeps.command, Keeps.writeLinkExcl]

theorem Keeps.writeTimerCfg (h : Keeps s t) {v} : Keeps s (State.writeTimerCfg t v).2 := by
  grind [State.writeTimerCfg, Keeps.record]

theorem Keeps.execLinkCfgTimerCfg (h : Keeps s t) {q value} (e : execLinkCfgTimerCfg q value t = .next u) : Keeps s u := by
  grind [execLinkCfgTimerCfg, Keeps.command, Keeps.writeTimerCfg]

theorem Keeps.openRecords (h : Keeps s t) {f} : Keeps s (State.openRecords t f).1 := by
  grind [State.openRecords, Keeps.drawn]

theorem Keeps.enterTest (h : Keeps s t) {p} : Keeps s (State.enterTest t p) := by
  grind [State.enterTest, Keeps.linkReset, Keeps.linkChange, Keeps.modPort]

theorem Keeps.execLinkTestEnter (h : Keeps s t) {q f} (e : execLinkTestEnter q f t = .next u) : Keeps s u := by
  grind [execLinkTestEnter, Keeps.command, Keeps.openRecords, Keeps.enterTest, Keeps.record]

theorem Keeps.writeHostPrbsCtl (h : Keeps s t) {lane v} : Keeps s (State.writeHostPrbsCtl t lane v) := by
  grind [State.writeHostPrbsCtl, Keeps.prbsNow, Keeps.record]

theorem Keeps.testProgram (h : Keeps s t) {f} : Keeps s (State.testProgram t f) := by
  grind [State.testProgram, Keeps.writePrbsCtl, Keeps.writeHostPrbsCtl, Keeps.foldl, Keeps.foldl_fst]

theorem Keeps.execLinkTestSet (h : Keeps s t) {q f} (e : execLinkTestSet q f t = .next u) : Keeps s u := by
  grind [execLinkTestSet, Keeps.command, Keeps.openRecords, Keeps.testProgram]

theorem Keeps.testCounts (h : Keeps s t) {f} : Keeps s (State.testCounts t f).1 := by
  grind [State.testCounts, Keeps.prbsNow, Keeps.foldl, Keeps.foldl_fst]

theorem Keeps.execLinkTestRead (h : Keeps s t) {q f} (e : execLinkTestRead q f t = .next u) : Keeps s u := by
  grind [execLinkTestRead, Keeps.command, Keeps.testCounts]

theorem Keeps.scanned (h : Keeps s t) {f eyes} : Keeps s (State.scanned t f eyes) := by
  grind [State.scanned, Keeps.modPort, Keeps.wakePort, Keeps.foldl, Keeps.foldl_fst]

theorem Keeps.execLinkTestScan (h : Keeps s t) {q f eyes} (e : execLinkTestScan q f eyes t = .next u) : Keeps s u := by
  grind [execLinkTestScan, Keeps.command, Keeps.scanned]

theorem Keeps.execLinkTestLeave (h : Keeps s t) {q f} (e : execLinkTestLeave q f t = .next u) : Keeps s u := by
  grind [execLinkTestLeave, Keeps.command, Keeps.openRecords, Keeps.hostTestEnds, Keeps.startTraining, Keeps.drainPort,
    Keeps.record]

theorem Keeps.execHpPort (h : Keeps s t) {q value} (e : execHpPort q value t = .next u) : Keeps s u := by
  grind [execHpPort, Keeps.writeHpCfg, Keeps.command]

theorem Keeps.execHpAddr (h : Keeps s t) {q ipv4 v4Prefix v6Prefix ipv6}
    (e : execHpAddr q ipv4 v4Prefix v6Prefix ipv6 t = .next u) : Keeps s u := by
  grind [execHpAddr, Keeps.command, Keeps.record]

theorem Keeps.execHpMacsecInstall (h : Keeps s t) {q dir sc an ssci sci pn key salt}
    (e : execHpMacsecInstall q dir sc an ssci sci pn key salt t = .next u) : Keeps s u := by
  grind [execHpMacsecInstall, Keeps.command, Keeps.record]

theorem Keeps.execHpMacsecRemove (h : Keeps s t) {q dir sc an}
    (e : execHpMacsecRemove q dir sc an t = .next u) : Keeps s u := by
  grind [execHpMacsecRemove, Keeps.command, Keeps.record]

theorem Keeps.execHpQpCreate (h : Keeps s t) {q qp mtu a3 retry}
    (e : execHpQpCreate q qp mtu a3 retry t = .next u) : Keeps s u := by
  grind [execHpQpCreate, Keeps.command, Keeps.setQp, Keeps.record]

theorem Keeps.execHpQpConnect (h : Keeps s t) {q qp mtu a3 retry remoteQpn psn remoteIp}
    (e : execHpQpConnect q qp mtu a3 retry remoteQpn psn remoteIp t = .next u) : Keeps s u := by
  grind [execHpQpConnect, Keeps.command, Keeps.setQp]

theorem Keeps.execHpQpReset (h : Keeps s t) {q qp} (e : execHpQpReset q qp t = .next u) : Keeps s u := by
  grind [execHpQpReset, Keeps.command, Keeps.qpError, Keeps.setQp]

theorem Keeps.execHpQpDestroy (h : Keeps s t) {q qp} (e : execHpQpDestroy q qp t = .next u) : Keeps s u := by
  grind [execHpQpDestroy, Keeps.command, Keeps.setQp]

theorem Keeps.execHpWindowCreate (h : Keeps s t) {q window ctx va len}
    (e : execHpWindowCreate q window ctx va len t = .next u) : Keeps s u := by
  grind [execHpWindowCreate, Keeps.command, Keeps.drawn, Keeps.record]

theorem Keeps.execHpWindowDestroy (h : Keeps s t) {q window ctx}
    (e : execHpWindowDestroy q window ctx t = .next u) : Keeps s u := by
  grind [execHpWindowDestroy, Keeps.command, Keeps.record]

theorem Keeps.execCfgRecord (h : Keeps s t) {q ctx sect index record}
    (e : execCfgRecord q ctx sect index record t = .next u) : Keeps s u := by
  grind [execCfgRecord, Keeps.command, Keeps.modCtx]

/-! ### Registers.lean -/

theorem Keeps.touch (h : Keeps s t) {b i} : Keeps s (State.touch t b i) := by
  grind [State.touch, Keeps.wakeCore, Keeps.wakeCluster]

theorem Keeps.regRead (h : Keeps s t) {b i n} : Keeps s (State.regRead t b i n).1 := by
  grind [State.regRead, Keeps.prbsNow, Keeps.touch]

theorem Keeps.regReads (h : Keeps s t) {b i n count} : Keeps s (State.regReads t b i n count).1 := by
  grind [State.regReads, Keeps.regRead, Keeps.foldl, Keeps.foldl_fst]

theorem Keeps.checkedWrite {bad} (h : Keeps s t) (k : Keeps s u) : Keeps s (checkedWrite bad t u).2 := by
  cases bad
  · exact k
  · exact h

theorem Keeps.writeCoreReg (h : Keeps s t) {c n v} : Keeps s (State.writeCoreReg t c n v).2 := by
  unfold State.writeCoreReg
  grind [Keeps.checkedWrite, Keeps.modCore, Keeps.record]

theorem Keeps.writeGroupReg (h : Keeps s t) {g n v} : Keeps s (State.writeGroupReg t g n v).2 := by
  unfold State.writeGroupReg
  grind [Keeps.checkedWrite, Keeps.modGroup]

theorem Keeps.writePowerReg (h : Keeps s t) {i n v} : Keeps s (State.writePowerReg t i n v).2 := by
  unfold State.writePowerReg
  grind [Keeps.checkedWrite, Keeps.record]

theorem Keeps.writeBist (h : Keeps s t) {w} : Keeps s (State.writeBist t w).2 := by
  unfold State.writeBist
  extract_lets k start ras kept
  have kk : Keeps s kept := h.record
  split
  · exact h
  split
  · exact h
  split
  · exact kk.wake.record
  · exact kk

theorem Keeps.clearTestResults (h : Keeps s t) {mask} : Keeps s (State.clearTestResults t mask) := by
  grind [State.clearTestResults, Keeps.modChannel, Keeps.foldl, Keeps.foldl_fst]

theorem Keeps.writeMemTest (h : Keeps s t) {v} : Keeps s (State.writeMemTest t v).2 := by
  grind [State.writeMemTest, Keeps.clearTestResults, Keeps.record]

theorem Keeps.writeRasReg (h : Keeps s t) {i n v} : Keeps s (State.writeRasReg t i n v).2 := by
  unfold State.writeRasReg
  grind [Keeps.checkedWrite, Keeps.writeBist, Keeps.writeMemTest, Keeps.record]

theorem Keeps.writeByRule (h : Keeps s t) {b i n v} : Keeps s (State.writeByRule t b i n v).2 := by
  unfold State.writeByRule
  grind [Keeps.writeCoreReg, Keeps.modCluster, Keeps.writeGroupReg, Keeps.modChannel, Keeps.modCtx, Keeps.writePoolCfg,
    Keeps.writePoolBase, Keeps.writeQuota, Keeps.writePortCfg, Keeps.writeCreditCfg, Keeps.writePrbsCtl,
    Keeps.writeTimerCfg, Keeps.writeLinkExcl, Keeps.writeHpCfg, Keeps.writePowerReg, Keeps.writeRasReg]

theorem Keeps.regWrite (h : Keeps s t) {a0 value} : Keeps s (State.regWrite t a0 value).2 := by
  grind [State.regWrite, Keeps.writeByRule, Keeps.touch]

theorem Keeps.execRegisterWrite (h : Keeps s t) {addr value} (e : execRegisterWrite addr value t = .next u) : Keeps s u := by
  grind [execRegisterWrite, Keeps.regWrite]

theorem Keeps.execBistCtlWrite (h : Keeps s t) {value} (e : execBistCtlWrite value t = .next u) : Keeps s u := by
  grind [execBistCtlWrite, Keeps.writeBist]

theorem Keeps.execMemTestCtlWrite (h : Keeps s t) {value} (e : execMemTestCtlWrite value t = .next u) : Keeps s u := by
  grind [execMemTestCtlWrite, Keeps.writeMemTest]

theorem Keeps.execRegRead (h : Keeps s t) {q addr count} (e : execRegRead q addr count t = .next u) : Keeps s u := by
  grind [execRegRead, Keeps.command, Keeps.regReads]

theorem Keeps.execRegWrite (h : Keeps s t) {q addr value} (e : execRegWrite q addr value t = .next u) : Keeps s u := by
  grind [execRegWrite, Keeps.command, Keeps.regWrite]

theorem Keeps.execCounterRead (h : Keeps s t) {q block inst} (e : execCounterRead q block inst t = .next u) : Keeps s u := by
  grind [execCounterRead, Keeps.command, Keeps.regReads]

theorem Keeps.clearCounters (h : Keeps s t) {b i} : Keeps s (State.clearCounters t b i) := by
  unfold State.clearCounters
  grind [Keeps.putWardrobe, Keeps.modCore, Keeps.wakeCore, Keeps.modCluster, Keeps.wakeCluster, Keeps.modGroup,
    Keeps.modChannel, Keeps.modPort, Keeps.record]

theorem Keeps.execCounterClear (h : Keeps s t) {q block inst}
    (e : execCounterClear q block inst t = .next u) : Keeps s u := by
  grind [execCounterClear, Keeps.command, Keeps.clearCounters, Keeps.foldl, Keeps.foldl_fst]

/-! ### Clasp.lean -/

theorem Keeps.putImage (h : Keeps s t) {cls i} : Keeps s (State.putImage t cls i).1 := by
  grind [State.putImage, Keeps.record]

theorem Keeps.stageImage (h : Keeps s t) {cls region offset len io flashOk} : Keeps s (State.stageImage t cls region offset
    len io flashOk).1 := by
  grind [State.stageImage, Keeps.farRead, Keeps.putImage]

theorem Keeps.execFwStage (h : Keeps s t) {q cls region offset len io flashOk}
    (e : execFwStage q cls region offset len io flashOk t = .next u) : Keeps s u := by
  grind [execFwStage, Keeps.command, Keeps.stageImage]

theorem Keeps.selectSlot (h : Keeps s t) {z} : Keeps s (State.selectSlot t z) := by
  grind [State.selectSlot, Keeps.record]

theorem Keeps.execFwActivate (h : Keeps s t) {q slot reset} (e : execFwActivate q slot reset t = .next u) : Keeps s u := by
  grind [execFwActivate, Keeps.command, Keeps.selectSlot, Keeps.record]

theorem Keeps.execFwStatus (h : Keeps s t) {q} (e : execFwStatus q t = .next u) : Keeps s u := by
  grind [execFwStatus, Keeps.command]

theorem Keeps.measure (h : Keeps s t) {item slot version svn digest} : Keeps s (State.measure t item slot version svn
    digest) := by
  grind [State.measure, Keeps.record]

theorem Keeps.execAttest (h : Keeps s t) {q region offset nonce io}
    (e : execAttest q region offset nonce io t = .next u) : Keeps s u := by
  grind [execAttest, Keeps.command, Keeps.farWrite]

theorem Keeps.tokenCommand (h : Keeps s t) {serves region offset len io eff} (k : ∀ v z, Keeps s v → Keeps s (eff v z)) :
    Keeps s (State.tokenCommand t serves region offset len io eff).1 := by
  unfold State.tokenCommand
  dsimp only
  split
  · exact h.farRead
  split
  · exact h.farRead
  · exact k _ _ h.farRead

theorem Keeps.unlock (h : Keeps s t) {k} : Keeps s (State.unlock t k) := by
  grind [State.unlock, Keeps.measure, Keeps.record]

theorem Keeps.execDebugUnlock (h : Keeps s t) {q region offset len io}
    (e : execDebugUnlock q region offset len io t = .next u) : Keeps s u := by
  grind [execDebugUnlock, Keeps.command, Keeps.tokenCommand, Keeps.unlock]

theorem Keeps.storePermit (h : Keeps s t) {k} : Keeps s (State.storePermit t k) := by
  grind [State.storePermit, Keeps.record]

theorem Keeps.execPermit (h : Keeps s t) {q region offset len io}
    (e : execPermit q region offset len io t = .next u) : Keeps s u := by
  grind [execPermit, Keeps.command, Keeps.tokenCommand, Keeps.storePermit]

/-! ### Program.lean -/

theorem Keeps.issueFault (h : Keeps s t) {c f} : Keeps s (State.issueFault t c f) := by
  unfold State.issueFault
  grind [Keeps.opRefused, Keeps.coreFault, Keeps.modCore, Keeps.tfault]

theorem Keeps.scalarLoad (h : Keeps s t) {c l n r} (e : State.scalarLoad t c l n = .ok r) : Keeps s r.1 := by
  unfold State.scalarLoad at e
  grind [Keeps.dmSettle, Keeps.cmSettle, Keeps.bankTurn, → Keeps.readVa]

theorem Keeps.scalarStore (h : Keeps s t) {c l bs} (e : State.scalarStore t c l bs = .ok u) : Keeps s u := by
  grind [State.scalarStore, Keeps.dmCommit, Keeps.bankTurn, Keeps.cmCommit, → Keeps.writeVa]

theorem Keeps.loopCount (h : Keeps s t) {c n r} (e : State.loopCount t c n = .ok r) : Keeps s r.1 := by
  unfold State.loopCount at e
  grind [→ Keeps.scalarLoad]

theorem Keeps.scalarSlot {c after slot} {z w : Slots} (h : Keeps s z.st)
    (e : Sys2Proof.Machine.scalarSlot c after z slot = .ok w) : Keeps s w.st := by
  cases slot with
  | setImm rd v => cases e; exact h.setCore
  | alu k rd ra rb => cases e; exact h.setCore
  | readLoop rd level => cases e; exact h.setCore
  | mem f =>
    simp only [Sys2Proof.Machine.scalarSlot] at e
    split at e <;> split at e <;> cases e
    · exact h.scalarStore ‹_›
    · rename_i hr
      dsimp only
      exact (h.scalarLoad hr).modCore
  | branch b cond =>
    simp only [Sys2Proof.Machine.scalarSlot] at e
    split at e <;> cases e <;> exact h
  | swait f =>
    simp only [Sys2Proof.Machine.scalarSlot] at e
    split at e <;> cases e
    exact h
  | loopBegin f =>
    simp only [Sys2Proof.Machine.scalarSlot] at e
    split at e
    · cases e
    split at e
    · cases e
    split at e <;> cases e <;> exact h.loopCount ‹_›

theorem Keeps.scalarSlots {c after slots} {z w : Slots} (h : Keeps s z.st)
    (e : scalarSlots c after slots z = .ok w) : Keeps s w.st := by
  induction slots generalizing z with
  | nil => cases e; exact h
  | cons a slots ih =>
    unfold Sys2Proof.Machine.scalarSlots at e
    split at e
    · cases e
    · exact ih (h.scalarSlot ‹_›) e

theorem Keeps.issued {c x b hz} {z : Slots} (h : Keeps s z.st) : Keeps s (State.issued t c x b z hz) := h.setCtx.setCore

theorem Keeps.issueBundle (h : Keeps s t) {c b} : Keeps s (State.issueBundle t c b) := by
  unfold State.issueBundle
  dsimp only
  split
  · exact h
  split
  · exact h
  split
  · exact h.setCore
  split
  · exact h.setCore
  split
  · exact h.progSettle.setCore
  split
  · exact h.progSettle.issueFault
  split
  · exact h.progSettle.issueFault
  split
  · exact h.progSettle.issueFault
  · exact .issued (.scalarSlots h.progSettle ‹_›)

theorem Keeps.execBundleIssue (h : Keeps s t) {c a1} (e : execBundleIssue c a1 t = .next u) : Keeps s u := by
  grind [execBundleIssue, Keeps.issueBundle, Keeps.upset]

theorem Keeps.execLoopBegin (h : Keeps s t) {c f} (e : execLoopBegin c f t = .next u) : Keeps s u := by
  grind [execLoopBegin, Keeps.issueBundle]

theorem Keeps.execSwait (h : Keeps s t) {c a1} (e : execSwait c a1 t = .next u) : Keeps s u := by
  grind [execSwait, Keeps.issueBundle]

theorem Keeps.execScalarLoadStore (h : Keeps s t) {c f} (e : execScalarLoadStore c f t = .next u) : Keeps s u := by
  grind [execScalarLoadStore, Keeps.issueBundle]

theorem Keeps.execSeedSet (h : Keeps s t) {c seed} (e : execSeedSet c seed t = .next u) : Keeps s u := by
  grind [execSeedSet, Keeps.issueBundle]

theorem Keeps.execStepSet (h : Keeps s t) {c stepNo} (e : execStepSet c stepNo t = .next u) : Keeps s u := by
  grind [execStepSet, Keeps.issueBundle]

theorem Keeps.fetchArrives (h : Keeps s t) {c line} : Keeps s (State.fetchArrives t c line) := by
  grind [State.fetchArrives, Keeps.tfault, Keeps.modCore]

theorem Keeps.execFetchMiss (h : Keeps s t) {c line} (e : execFetchMiss c line t = .next u) : Keeps s u := by
  grind [execFetchMiss, Keeps.fetchArrives]

theorem Keeps.flagWaitOp (h : Keeps s t) {c flag target} : Keeps s (State.flagWaitOp t c flag target) := by
  grind [State.flagWaitOp, Keeps.recordOutcome]

theorem Keeps.execFlagWait (h : Keeps s t) {c flag target} (e : execFlagWait c flag target t = .next u) : Keeps s u := by
  grind [execFlagWait, Keeps.flagWaitOp]

theorem Keeps.execFlagRead (h : Keeps s t) {c flag addr} (e : execFlagRead c flag addr t = .next u) : Keeps s u := by
  grind [execFlagRead, Keeps.runOp, Keeps.storeDm]

theorem Keeps.stallReport (h : Keeps s t) {c} : Keeps s (State.stallReport t c) := by
  grind [State.stallReport, Keeps.modCore, Keeps.wakeCore, Keeps.log, Keeps.noticeCtx]

theorem Keeps.execWaitCycleSuspected (h : Keeps s t) {c} (e : execWaitCycleSuspected c t = .next u) : Keeps s u := by
  grind [execWaitCycleSuspected, Keeps.stallReport]

theorem Keeps.stopReached (h : Keeps s t) {x} : Keeps s (State.stopReached t x) := by
  grind [State.stopReached, Keeps.noticeCtx, Keeps.modCtx]

theorem Keeps.execStopReached (h : Keeps s t) {x} (e : execStopReached x t = .next u) : Keeps s u := by
  grind [execStopReached, Keeps.stopReached]

theorem Keeps.execBeaconMark (h : Keeps s t) {c} (e : execBeaconMark c t = .next u) : Keeps s u := by
  grind [execBeaconMark, Keeps.runOp, Keeps.modCtx]

/-! ### Power.lean -/

theorem Keeps.execPowerPolicy (h : Keeps s t) {q capW ceiling coreDozeUs clusterOffMs}
    (e : execPowerPolicy q capW ceiling coreDozeUs clusterOffMs t = .next u) : Keeps s u := by
  grind [execPowerPolicy, Keeps.command, Keeps.record]

theorem Keeps.execPowerStatus (h : Keeps s t) {q} (e : execPowerStatus q t = .next u) : Keeps s u := by
  grind [execPowerStatus, Keeps.command]

theorem Keeps.execCoreDoze (h : Keeps s t) {c} (e : execCoreDoze c t = .next u) : Keeps s u := by
  grind [execCoreDoze, Keeps.modCore]

theorem Keeps.execCoreWake (h : Keeps s t) {c} (e : execCoreWake c t = .next u) : Keeps s u := by
  grind [execCoreWake, Keeps.wakeCore]

theorem Keeps.execClusterDoze (h : Keeps s t) {k} (e : execClusterDoze k t = .next u) : Keeps s u := by
  grind [execClusterDoze, Keeps.modCluster]

theorem Keeps.execClusterWake (h : Keeps s t) {k} (e : execClusterWake k t = .next u) : Keeps s u := by
  grind [execClusterWake, Keeps.wakeCluster]

theorem Keeps.execClusterOffEntry (h : Keeps s t) {k} (e : execClusterOffEntry k t = .next u) : Keeps s u := by
  grind [execClusterOffEntry, Keeps.modCluster, Keeps.powerDown, Keeps.writeSave]

theorem Keeps.execClusterOffExit (h : Keeps s t) {k} (e : execClusterOffExit k t = .next u) : Keeps s u := by
  grind [execClusterOffExit, Keeps.offExit]

theorem Keeps.withAlert (h : Keeps s t) : Keeps s (State.withAlert t) := by
  grind [State.withAlert, Keeps.record]

theorem Keeps.execRailUpdate (h : Keeps s t) (e : execRailUpdate t = .next u) : Keeps s u := by
  grind [execRailUpdate, Keeps.setRail, Keeps.foldl, Keeps.foldl_fst]

theorem Keeps.trimRail (h : Keeps s t) {q rate} : Keeps s (State.trimRail t q rate) := by
  grind [State.trimRail, Keeps.setRail, Keeps.corrected]

theorem Keeps.execTrimAdjust (h : Keeps s t) {rates} (e : execTrimAdjust rates t = .next u) : Keeps s u := by
  grind [execTrimAdjust, Keeps.trimRail, Keeps.foldl, Keeps.foldl_fst]

theorem Keeps.capStatNow (h : Keeps s t) : Keeps s (State.capStatNow t) := by
  grind [State.capStatNow, Keeps.foldl, Keeps.foldl_fst, Keeps.record]

theorem Keeps.refreshDrawn (h : Keeps s t) : Keeps s (State.refreshDrawn t) := by
  grind [State.refreshDrawn, Keeps.modGroup, Keeps.drawn, Keeps.foldl, Keeps.foldl_fst]

theorem Keeps.powerSampled (h : Keeps s t) {milliwatts temps} : Keeps s (State.powerSampled t milliwatts temps) := by
  grind [State.powerSampled, Keeps.setRail, Keeps.withAlert, Keeps.capStatNow, Keeps.foldl, Keeps.foldl_fst, Keeps.record]

theorem Keeps.execPowerSample (h : Keeps s t) {milliwatts tempsDc}
    (e : execPowerSample milliwatts tempsDc t = .next u) : Keeps s u := by
  grind [execPowerSample, Keeps.refreshDrawn, Keeps.powerSampled]

/-! ### MemRows.lean -/

theorem Keeps.lineRow (h : Keeps s t) {k line act} : Keeps s (State.lineRow t k line act) := by
  grind [State.lineRow, Keeps.lineRequest, Keeps.act, Keeps.awake]

theorem Keeps.execLineRead (h : Keeps s t) {pa k upset} (e : execLineRead pa k upset t = .next u) : Keeps s u := by
  grind [execLineRead, Keeps.lineRow]

theorem Keeps.execLineWrite (h : Keeps s t) {pa bytes poison via}
    (e : execLineWrite pa bytes poison via t = .next u) : Keeps s u := by
  grind [execLineWrite, Keeps.lineRow]

theorem Keeps.execLineAtomic (h : Keeps s t) {pa op operand compare via}
    (e : execLineAtomic pa op operand compare via t = .next u) : Keeps s u := by
  grind [execLineAtomic, Keeps.lineRow]

theorem Keeps.execSelfRefreshEntry (h : Keeps s t) {g} (e : execSelfRefreshEntry g t = .next u) : Keeps s u := by
  grind [execSelfRefreshEntry, Keeps.setGroup]

theorem Keeps.execSelfRefreshExit (h : Keeps s t) {g} (e : execSelfRefreshExit g t = .next u) : Keeps s u := by
  grind [execSelfRefreshExit, Keeps.srExit]

theorem Keeps.execPatrolScrub (h : Keeps s t) {g upset} (e : execPatrolScrub g upset t = .next u) : Keeps s u := by
  grind [execPatrolScrub, Keeps.fetchLine, Keeps.modGroup]

theorem Keeps.patrolFatal (h : Keeps s t) {m word kind} : Keeps s (State.patrolFatal t m word kind) := by
  grind [State.patrolFatal, Keeps.fatalError]

theorem Keeps.execSramPatrolScrub (h : Keeps s t) {m word err}
    (e : execSramPatrolScrub m word err t = .next u) : Keeps s u := by
  cases e
  cases m
  · exact h.ite h.modCluster.cmSettle
  · exact h.ite h.record.patrolFatal
  · exact h.ite h.record.patrolFatal

theorem Keeps.execWalk (h : Keeps s t) {x agent unit access va}
    (e : execWalk x agent unit access va t = .next u) : Keeps s u := by
  grind [execWalk, Keeps.tlbRefill, Keeps.fetchLine, Keeps.tlbPut, Keeps.walkStarted, Keeps.noticeCtx, Keeps.tfault,
    Keeps.foldl, Keeps.foldl_fst]

/-! ### Ras.lean -/

theorem Keeps.execLogRead (h : Keeps s t) {q fromSeq max} (e : execLogRead q fromSeq max t = .next u) : Keeps s u := by
  grind [execLogRead, Keeps.command]

theorem Keeps.execLogClear (h : Keeps s t) {q upToSeq} (e : execLogClear q upToSeq t = .next u) : Keeps s u := by
  grind [execLogClear, Keeps.command, Keeps.record]

theorem Keeps.correctedNotice (h : Keeps s t) {l} : Keeps s (State.correctedNotice t l) := by
  grind [State.correctedNotice, Keeps.noticeDev, Keeps.log]

theorem Keeps.bistEnds (h : Keeps s t) {failUnit failCount} : Keeps s (State.bistEnds t failUnit failCount) := by
  grind [State.bistEnds, Keeps.modCluster, Keeps.clearCluster, Keeps.correctedNotice, Keeps.record]

theorem Keeps.execBistComplete (h : Keeps s t) {failUnit failCount}
    (e : execBistComplete failUnit failCount t = .next u) : Keeps s u := by
  grind [execBistComplete, Keeps.bistEnds]

theorem Keeps.testLine (h : Keeps s t) {pa pinFail upset} : Keeps s (State.testLine t pa pinFail upset) := by
  grind [State.testLine, Keeps.fetchLine, Keeps.modChannel, Keeps.record]

theorem Keeps.execMemTestTransaction (h : Keeps s t) {pa pinFail upset}
    (e : execMemTestTransaction pa pinFail upset t = .next u) : Keeps s u := by
  grind [execMemTestTransaction, Keeps.testLine]

theorem Keeps.memTestEnds (h : Keeps s t) : Keeps s (State.memTestEnds t) := by
  grind [State.memTestEnds, Keeps.record]

theorem Keeps.execMemTestComplete (h : Keeps s t) (e : execMemTestComplete t = .next u) : Keeps s u := by
  grind [execMemTestComplete, Keeps.memTestEnds]

theorem Keeps.thresholdMet (h : Keeps s t) {field block inst count pin} : Keeps s (State.thresholdMet t field block inst
    count pin) := by
  grind [State.thresholdMet, Keeps.correctedNotice]

theorem Keeps.pollChannel (h : Keeps s t) {n} : Keeps s (State.pollChannel t n) := by
  grind [State.pollChannel, Keeps.modChannel, Keeps.thresholdMet, Keeps.foldl, Keeps.foldl_fst, Keeps.record]

theorem Keeps.sampleCounter (h : Keeps s t) {field unit block inst value} : Keeps s (State.sampleCounter t field unit block
    inst value) := by
  grind [State.sampleCounter, Keeps.thresholdMet, Keeps.record]

theorem Keeps.sampleReg (h : Keeps s t) {field unit b i n hi lo} : Keeps s (State.sampleReg t field unit b i n hi lo) := by
  grind [State.sampleReg, Keeps.regRead, Keeps.sampleCounter]

theorem Keeps.sampleAll (h : Keeps s t) : Keeps s (State.sampleAll t) := by
  grind [State.sampleAll, Keeps.sampleReg, Keeps.foldl, Keeps.foldl_fst]

theorem Keeps.execThresholdPoll (h : Keeps s t) {second} (e : execThresholdPoll second t = .next u) : Keeps s u := by
  grind [execThresholdPoll, Keeps.pollChannel, Keeps.sampleAll, Keeps.foldl, Keeps.foldl_fst]

theorem Keeps.execHardwareConsistencyCheck (h : Keeps s t) {block inst code fabric}
    (e : execHardwareConsistencyCheck block inst code fabric t = .next u) : Keeps s u := by
  grind [execHardwareConsistencyCheck, Keeps.fatalError]

/-! ### Boot.lean -/

theorem Keeps.coldReset (h : Keeps s t) {cause} : Keeps s (State.coldReset t cause) :=
  .withAlert ⟨h.pending, h.now, fun _ => rfl⟩

theorem Keeps.saveClusters (h : Keeps s t) : Keeps s (State.saveClusters t) := by
  grind [State.saveClusters, Keeps.powerDown, Keeps.writeSave, Keeps.foldl, Keeps.foldl_fst]

theorem Keeps.completeAccepted (h : Keeps s t) : Keeps s (State.completeAccepted t) := by
  grind [State.completeAccepted, Keeps.drain, Keeps.foldl, Keeps.foldl_fst, Keeps.record]

theorem Keeps.warmKept (h : Keeps s t) {cause} : Keeps s (State.warmKept t cause) := by
  grind [State.warmKept, Keeps.completeAccepted, Keeps.saveClusters, Keeps.withAlert, Keeps.record]

theorem Keeps.warmReset (h : Keeps s t) {cause} : Keeps s (State.warmReset t cause) := by
  grind [State.warmReset, Keeps.warmKept, Keeps.coldReset]

theorem Keeps.execWarmReset (h : Keeps s t) {cause} (e : execWarmReset cause t = .next u) : Keeps s u := by
  grind [execWarmReset, Keeps.warmReset]

theorem Keeps.enrol (h : Keeps s t) : Keeps s (State.enrol t) := by
  grind [State.enrol, Keeps.foldl, Keeps.foldl_fst, Keeps.record]

theorem Keeps.rampUp (h : Keeps s t) : Keeps s (State.rampUp t) := by
  grind [State.rampUp, Keeps.offExit, Keeps.foldl, Keeps.foldl_fst, Keeps.record]

theorem Keeps.newBoot (h : Keeps s t) : Keeps s (State.newBoot t) := by
  grind [State.newBoot, Keeps.measure, Keeps.drawn, Keeps.record]

theorem Keeps.measureImage (h : Keeps s t) {item slot i} : Keeps s (State.measureImage t item slot i) := by
  unfold State.measureImage
  grind [Keeps.measure]

theorem Keeps.measureSet (h : Keeps s t) {b config} : Keeps s (State.measureSet t b config) := by
  unfold State.measureSet
  grind [Keeps.measureImage, Keeps.measure, Keeps.foldl, Keeps.foldl_fst, Keeps.record]

theorem Keeps.retainCtxs (h : Keeps s t) : Keeps s (State.retainCtxs t) := by
  grind [State.retainCtxs, Keeps.unmapAll, Keeps.setCtx, Keeps.foldl, Keeps.foldl_fst]

theorem Keeps.copyCrash (h : Keeps s t) : Keeps s (State.copyCrash t) := by
  grind [State.copyCrash, Keeps.foldl, Keeps.foldl_fst, Keeps.record]

theorem Keeps.raiseRollback (h : Keeps s t) {z} : Keeps s (State.raiseRollback t z) := by
  grind [State.raiseRollback, Keeps.foldl, Keeps.foldl_fst, Keeps.record]

theorem Keeps.recoveryStart (h : Keeps s t) : Keeps s (State.recoveryStart t) := by
  grind [State.recoveryStart, Keeps.record]

theorem Keeps.bootHold (h : Keeps s t) : Keeps s (State.bootHold t) := by
  grind [State.bootHold, Keeps.withAlert, Keeps.record]

theorem Keeps.memoryStart (h : Keeps s t) {ok stage} : Keeps s (State.memoryStart t ok stage) := by
  refine ⟨h.pending, h.now, fun w => ?_⟩
  unfold State.memoryStart Settled
  dsimp only
  split
  · rfl
  · exact h.settled w

theorem Keeps.lanternUp (h : Keeps s t) {b cold reason} : Keeps s (State.lanternUp t b cold reason) := by
  unfold State.lanternUp
  grind [Keeps.startTraining, Keeps.modPort, Keeps.raiseRollback, Keeps.announce, Keeps.copyCrash, Keeps.foldl,
    Keeps.foldl_fst, Keeps.record]

theorem Keeps.startSet (h : Keeps s t) {b f} : Keeps s (State.startSet t b f) := by
  unfold State.startSet
  grind [Keeps.measureSet, Keeps.drawn, Keeps.memoryStart, Keeps.corrected, Keeps.retainCtxs, Keeps.lanternUp, Keeps.record]

theorem Keeps.startUp (h : Keeps s t) {f} : Keeps s (State.startUp t f) := by
  grind [State.startUp, Keeps.rampUp, Keeps.newBoot, Keeps.enrol, Keeps.withAlert, Keeps.recoveryStart, Keeps.bootHold,
    Keeps.startSet]

theorem Keeps.execStartUp (h : Keeps s t) {f} (e : execStartUp f t = .next u) : Keeps s u := by
  grind [execStartUp, Keeps.startUp]

theorem Keeps.bootFails (h : Keeps s t) : Keeps s (State.bootFails t) := by
  grind [State.bootFails, Keeps.warmReset, Keeps.record]

theorem Keeps.execBootFailure (h : Keeps s t) (e : execBootFailure t = .next u) : Keeps s u := by
  grind [execBootFailure, Keeps.bootFails]

theorem Keeps.watchdogReset (h : Keeps s t) : Keeps s (State.watchdogReset t) := by
  grind [State.watchdogReset, Keeps.warmReset, Keeps.drawn, Keeps.record]

theorem Keeps.execWatchdog (h : Keeps s t) (e : execWatchdog t = .next u) : Keeps s u := by
  grind [execWatchdog, Keeps.watchdogReset]

theorem Keeps.execStandbyApplied (h : Keeps s t) {moduleId} (e : execStandbyApplied moduleId t = .next u) : Keeps s u := by
  grind [execStandbyApplied, Keeps.coldReset, Keeps.record]

theorem Keeps.execStandbyLoss (h : Keeps s t) (e : execStandbyLoss t = .next u) : Keeps s u := by
  grind [execStandbyLoss, Keeps.coldReset, Keeps.record]

theorem Keeps.execInput48vLoss (h : Keeps s t) {millivolts us}
    (e : execInput48vLoss millivolts us t = .next u) : Keeps s u := by
  grind [execInput48vLoss, Keeps.coldReset, Keeps.record]

theorem Keeps.execInput48vOutsideRange (h : Keeps s t) {millivolts}
    (e : execInput48vOutsideRange millivolts t = .next u) : Keeps s u := by
  grind [execInput48vOutsideRange, Keeps.withAlert, Keeps.record]

theorem Keeps.execResetN (h : Keeps s t) {lowNs held} (e : execResetN lowNs held t = .next u) : Keeps s u := by
  grind [execResetN, Keeps.drawn, Keeps.warmReset, Keeps.record]

theorem Keeps.thermalTripped (h : Keeps s t) {sensor tempDc} : Keeps s (State.thermalTripped t sensor tempDc) := by
  grind [State.thermalTripped, Keeps.setRail, Keeps.powerDown, Keeps.modPort, Keeps.fatalError, Keeps.foldl,
    Keeps.foldl_fst, Keeps.record]

theorem Keeps.execThermalTrip (h : Keeps s t) {sensor tempDc}
    (e : execThermalTrip sensor tempDc t = .next u) : Keeps s u := by
  grind [execThermalTrip, Keeps.thermalTripped]

theorem Keeps.internalError (h : Keeps s t) {inst} : Keeps s (State.internalError t inst) := by
  grind [State.internalError, Keeps.fatalError, Keeps.drawn]

theorem Keeps.execRefclkLoss (h : Keeps s t) {r} (e : execRefclkLoss r t = .next u) : Keeps s u := by
  cases e
  cases r
  · exact Keeps.withAlert (h.record.foldl fun _ _ k => k.lossOfLock)
  · exact h.record.withAlert.internalError.ite h.record.withAlert

theorem Keeps.execRefclkReturn (h : Keeps s t) {r} (e : execRefclkReturn r t = .next u) : Keeps s u := by
  cases e
  cases r
  · exact h.record.withAlert
  · exact h.record.withAlert

theorem Keeps.railOut (h : Keeps s t) {a0} : Keeps s (State.railOut t a0) := by
  grind [State.railOut, Keeps.record]

theorem Keeps.execRailLeavesRegulation (h : Keeps s t) {a0} (e : execRailLeavesRegulation a0 t = .next u) : Keeps s u := by
  grind [execRailLeavesRegulation, Keeps.railOut]

theorem Keeps.execRailRegainsRegulation (h : Keeps s t) {a0} (e : execRailRegainsRegulation a0 t = .next u) : Keeps s u := by
  grind [execRailRegainsRegulation, Keeps.record]

theorem Keeps.execRailOutOfRegulation (h : Keeps s t) {a0} (e : execRailOutOfRegulation a0 t = .next u) : Keeps s u := by
  grind [execRailOutOfRegulation, Keeps.internalError, Keeps.railOut]

/-! ### Glint.lean -/

theorem Keeps.glintAdd (h : Keeps s t) {k slot vals retries sats} : Keeps s (State.glintAdd t k slot vals retries sats) := by
  unfold State.glintAdd
  grind [Keeps.modCluster, Keeps.foldl, Keeps.foldl_fst]

theorem Keeps.execGlintArm (h : Keeps s t) {c f} (e : execGlintArm c f t = .next u) : Keeps s u := by
  grind [execGlintArm, Keeps.runOp, Keeps.modCluster]

theorem Keeps.glintClose (h : Keeps s t) {c slot stepNo} : Keeps s (State.glintClose t c slot stepNo).1 := by
  grind [State.glintClose, → Keeps.writeVa, Keeps.tfault, Keeps.modCluster]

theorem Keeps.execGlintClose (h : Keeps s t) {c slot} (e : execGlintClose c slot t = .next u) : Keeps s u := by
  grind [execGlintClose, Keeps.runOp, Keeps.glintClose]

theorem Keeps.execGlintScale (h : Keeps s t) {c slot format reg}
    (e : execGlintScale c slot format reg t = .next u) : Keeps s u := by
  grind [execGlintScale, Keeps.runOp, Keeps.modCore]

/-! ### Vector.lean -/

theorem Keeps.vecSettle (h : Keeps s t) {c m ds more reads} : Keeps s (State.vecSettle t c m ds more reads) := by
  grind [State.vecSettle, Keeps.cmSettle, Keeps.ocSettle]

theorem Keeps.vecFinish (h : Keeps s t) {c v} : Keeps s (State.vecFinish t c v) := by
  grind [State.vecFinish, Keeps.ocCommit, Keeps.cmCommit, Keeps.modCore]

theorem Keeps.fpEffect (h : Keeps s t) {c m srcs dst f a5} : Keeps s (fpEffect c m srcs dst f a5 t).1 := by
  grind [fpEffect, Keeps.vecSettle, Keeps.vecFinish]

theorem Keeps.vecBin (h : Keeps s t) {c k f} : Keeps s (State.vecBin t c k f) := by
  grind [State.vecBin, Keeps.runOp, Keeps.fpEffect]

theorem Keeps.vecUn (h : Keeps s t) {c k f} : Keeps s (State.vecUn t c k f) := by
  grind [State.vecUn, Keeps.runOp, Keeps.fpEffect]

theorem Keeps.execAdd (h : Keeps s t) {c f} (e : execAdd c f t = .next u) : Keeps s u := by
  grind [execAdd, Keeps.vecBin]

theorem Keeps.execSub (h : Keeps s t) {c f} (e : execSub c f t = .next u) : Keeps s u := by
  grind [execSub, Keeps.vecBin]

theorem Keeps.execMul (h : Keeps s t) {c f} (e : execMul c f t = .next u) : Keeps s u := by
  grind [execMul, Keeps.vecBin]

theorem Keeps.execMin (h : Keeps s t) {c f} (e : execMin c f t = .next u) : Keeps s u := by
  grind [execMin, Keeps.vecBin]

theorem Keeps.execMax (h : Keeps s t) {c f} (e : execMax c f t = .next u) : Keeps s u := by
  grind [execMax, Keeps.vecBin]

theorem Keeps.execCopysign (h : Keeps s t) {c f} (e : execCopysign c f t = .next u) : Keeps s u := by
  grind [execCopysign, Keeps.vecBin]

theorem Keeps.execDiv (h : Keeps s t) {c f} (e : execDiv c f t = .next u) : Keeps s u := by
  grind [execDiv, Keeps.vecBin]

theorem Keeps.execAbs (h : Keeps s t) {c f} (e : execAbs c f t = .next u) : Keeps s u := by
  grind [execAbs, Keeps.vecUn]

theorem Keeps.execNeg (h : Keeps s t) {c f} (e : execNeg c f t = .next u) : Keeps s u := by
  grind [execNeg, Keeps.vecUn]

theorem Keeps.execSqrt (h : Keeps s t) {c f} (e : execSqrt c f t = .next u) : Keeps s u := by
  grind [execSqrt, Keeps.vecUn]

theorem Keeps.execFma (h : Keeps s t) {c f} (e : execFma c f t = .next u) : Keeps s u := by
  grind [execFma, Keeps.runOp, Keeps.fpEffect]

theorem Keeps.selEffect (h : Keeps s t) {c f a2} : Keeps s (selEffect c f a2 t).1 := by
  grind [selEffect, Keeps.vecSettle, Keeps.vecFinish]

theorem Keeps.execSel (h : Keeps s t) {c f} (e : execSel c f t = .next u) : Keeps s u := by
  grind [execSel, Keeps.runOp, Keeps.selEffect]

theorem Keeps.cmpEffect (h : Keeps s t) {c k f a3} : Keeps s (cmpEffect c k f a3 t).1 := by
  grind [cmpEffect, Keeps.vecSettle, Keeps.vecFinish, Keeps.foldl, Keeps.foldl_fst]

theorem Keeps.vecCmp (h : Keeps s t) {c k f} : Keeps s (State.vecCmp t c k f) := by
  grind [State.vecCmp, Keeps.runOp, Keeps.cmpEffect]

theorem Keeps.execCmpEq (h : Keeps s t) {c f} (e : execCmpEq c f t = .next u) : Keeps s u := by
  grind [execCmpEq, Keeps.vecCmp]

theorem Keeps.execCmpLt (h : Keeps s t) {c f} (e : execCmpLt c f t = .next u) : Keeps s u := by
  grind [execCmpLt, Keeps.vecCmp]

theorem Keeps.execCmpLe (h : Keeps s t) {c f} (e : execCmpLe c f t = .next u) : Keeps s u := by
  grind [execCmpLe, Keeps.vecCmp]

theorem Keeps.execCmpUnord (h : Keeps s t) {c f} (e : execCmpUnord c f t = .next u) : Keeps s u := by
  grind [execCmpUnord, Keeps.vecCmp]

theorem Keeps.intEffect (h : Keeps s t) {c k f a3} : Keeps s (intEffect c k f a3 t).1 := by
  grind [intEffect, Keeps.vecSettle, Keeps.vecFinish]

theorem Keeps.vecInt (h : Keeps s t) {c k f} : Keeps s (State.vecInt t c k f) := by
  grind [State.vecInt, Keeps.runOp, Keeps.intEffect]

theorem Keeps.execIadd (h : Keeps s t) {c f} (e : execIadd c f t = .next u) : Keeps s u := by
  grind [execIadd, Keeps.vecInt]

theorem Keeps.execIsub (h : Keeps s t) {c f} (e : execIsub c f t = .next u) : Keeps s u := by
  grind [execIsub, Keeps.vecInt]

theorem Keeps.execImul (h : Keeps s t) {c f} (e : execImul c f t = .next u) : Keeps s u := by
  grind [execImul, Keeps.vecInt]

theorem Keeps.execAnd (h : Keeps s t) {c f} (e : execAnd c f t = .next u) : Keeps s u := by
  grind [execAnd, Keeps.vecInt]

theorem Keeps.execOr (h : Keeps s t) {c f} (e : execOr c f t = .next u) : Keeps s u := by
  grind [execOr, Keeps.vecInt]

theorem Keeps.execXor (h : Keeps s t) {c f} (e : execXor c f t = .next u) : Keeps s u := by
  grind [execXor, Keeps.vecInt]

theorem Keeps.execShl (h : Keeps s t) {c f} (e : execShl c f t = .next u) : Keeps s u := by
  grind [execShl, Keeps.vecInt]

theorem Keeps.execShr (h : Keeps s t) {c f} (e : execShr c f t = .next u) : Keeps s u := by
  grind [execShr, Keeps.vecInt]

theorem Keeps.execSar (h : Keeps s t) {c f} (e : execSar c f t = .next u) : Keeps s u := by
  grind [execSar, Keeps.vecInt]

theorem Keeps.execImin (h : Keeps s t) {c f} (e : execImin c f t = .next u) : Keeps s u := by
  grind [execImin, Keeps.vecInt]

theorem Keeps.execImax (h : Keeps s t) {c f} (e : execImax c f t = .next u) : Keeps s u := by
  grind [execImax, Keeps.vecInt]

theorem Keeps.cvtEffect (h : Keeps s t) {c f a2} : Keeps s (cvtEffect c f a2 t).1 := by
  grind [cvtEffect, Keeps.vecSettle, Keeps.glintAdd, Keeps.vecFinish, Keeps.foldl, Keeps.foldl_fst]

theorem Keeps.execCvt (h : Keeps s t) {c f} (e : execCvt c f t = .next u) : Keeps s u := by
  grind [execCvt, Keeps.runOp, Keeps.cvtEffect]

theorem Keeps.execCurve (h : Keeps s t) {c f} (e : execCurve c f t = .next u) : Keeps s u := by
  grind [execCurve, Keeps.runOp, Keeps.fpEffect]

theorem Keeps.curveLoadEffect (h : Keeps s t) {c f x} : Keeps s (curveLoadEffect c f x t).1 := by
  grind [curveLoadEffect, Keeps.ocSettle, Keeps.setCore]

theorem Keeps.execCurveLoad (h : Keeps s t) {c f} (e : execCurveLoad c f t = .next u) : Keeps s u := by
  grind [execCurveLoad, Keeps.runOp, Keeps.curveLoadEffect]

/-! ### Gather.lean -/

theorem Keeps.gatherSettle (h : Keeps s t) {c f q table other} : Keeps s (State.gatherSettle t c f q table other) := by
  grind [State.gatherSettle, Keeps.vecSettle]

theorem Keeps.gatherEffect (h : Keeps s t) {c f a2} : Keeps s (gatherEffect c f a2 t).1 := by
  grind [gatherEffect, Keeps.gatherSettle, Keeps.vecFinish, Keeps.foldl, Keeps.foldl_fst]

theorem Keeps.execGather (h : Keeps s t) {c f} (e : execGather c f t = .next u) : Keeps s u := by
  grind [execGather, Keeps.runOp, Keeps.gatherEffect]

theorem Keeps.scatterEffect (h : Keeps s t) {c f a2} : Keeps s (scatterEffect c f a2 t).1 := by
  grind [scatterEffect, Keeps.gatherSettle, Keeps.vecFinish, Keeps.foldl, Keeps.foldl_fst]

theorem Keeps.execScatter (h : Keeps s t) {c f} (e : execScatter c f t = .next u) : Keeps s u := by
  grind [execScatter, Keeps.runOp, Keeps.scatterEffect]

theorem Keeps.scatterAddEffect (h : Keeps s t) {c f a2} : Keeps s (scatterAddEffect c f a2 t).1 := by
  grind [scatterAddEffect, Keeps.gatherSettle, Keeps.vecFinish, Keeps.foldl, Keeps.foldl_fst]

theorem Keeps.execScatterAdd (h : Keeps s t) {c f} (e : execScatterAdd c f t = .next u) : Keeps s u := by
  grind [execScatterAdd, Keeps.runOp, Keeps.scatterAddEffect]

theorem Keeps.accRdEffect (h : Keeps s t) {c f a2} : Keeps s (accRdEffect c f a2 t).1 := by
  grind [accRdEffect, Keeps.accSettle, Keeps.vecSettle, Keeps.vecFinish, Keeps.foldl, Keeps.foldl_fst]

theorem Keeps.execAccRd (h : Keeps s t) {c f} (e : execAccRd c f t = .next u) : Keeps s u := by
  grind [execAccRd, Keeps.runOp, Keeps.accRdEffect]

theorem Keeps.accWrEffect (h : Keeps s t) {c f a2} : Keeps s (accWrEffect c f a2 t).1 := by
  grind [accWrEffect, Keeps.vecSettle, Keeps.accSettle, Keeps.vecFinish, Keeps.setCore, Keeps.foldl, Keeps.foldl_fst]

theorem Keeps.execAccWr (h : Keeps s t) {c f} (e : execAccWr c f t = .next u) : Keeps s u := by
  grind [execAccWr, Keeps.runOp, Keeps.accWrEffect]

theorem Keeps.gradEffect (h : Keeps s t) {c f a2} : Keeps s (gradEffect c f a2 t).1 := by
  grind [gradEffect, Keeps.vecSettle, Keeps.accSettle, Keeps.vecFinish, Keeps.modCtx, Keeps.glintAdd, Keeps.foldl,
    Keeps.foldl_fst]

theorem Keeps.execGradQuant (h : Keeps s t) {c f} (e : execGradQuant c f t = .next u) : Keeps s u := by
  grind [execGradQuant, Keeps.runOp, Keeps.gradEffect]

/-! ### Matrix.lean -/

theorem Keeps.mmulEffect (h : Keeps s t) {c f env} : Keeps s (mmulEffect c f env t).1 := by
  grind [mmulEffect, Keeps.ocSettle, Keeps.accSettle, Keeps.coreFault, Keeps.glintAdd, Keeps.setCore, Keeps.foldl,
    Keeps.foldl_fst]

theorem Keeps.execMmul (h : Keeps s t) {c f} (e : execMmul c f t = .next u) : Keeps s u := by
  grind [execMmul, Keeps.runOp, Keeps.mmulEffect]

theorem Keeps.mpreloadEffect (h : Keeps s t) {c f x} : Keeps s (mpreloadEffect c f x t).1 := by
  grind [mpreloadEffect, Keeps.cmSettle, Keeps.ocSettle, Keeps.setCore, Keeps.foldl, Keeps.foldl_fst]

theorem Keeps.execMpreload (h : Keeps s t) {c f} (e : execMpreload c f t = .next u) : Keeps s u := by
  grind [execMpreload, Keeps.runOp, Keeps.mpreloadEffect]

theorem Keeps.mreadEffect (h : Keeps s t) {c f env} : Keeps s (mreadEffect c f env t).1 := by
  grind [mreadEffect, Keeps.accSettle, Keeps.coreFault, Keeps.cmCommit, Keeps.ocCommit, Keeps.modCore, Keeps.glintAdd]

theorem Keeps.execMread (h : Keeps s t) {c f} (e : execMread c f t = .next u) : Keeps s u := by
  grind [execMread, Keeps.runOp, Keeps.mreadEffect]

theorem Keeps.npredEffect (h : Keeps s t) {c f env} : Keeps s (npredEffect c f env t).1 := by
  grind [npredEffect, Keeps.ocSettle, Keeps.ocCommit, Keeps.modCore, Keeps.foldl, Keeps.foldl_fst]

theorem Keeps.execNpred (h : Keeps s t) {c f} (e : execNpred c f t = .next u) : Keeps s u := by
  grind [execNpred, Keeps.runOp, Keeps.npredEffect]

/-! ### Pocket.lean -/

theorem Keeps.pocketRead (h : Keeps s t) {x k ls} {r} (e : State.pocketRead t x k ls = .ok r) : Keeps s r.1 := by
  unfold State.pocketRead at e
  exact foldl_ok_fst e (by grind) (by grind [→ Keeps.readLoc, Keeps.foldl, Keeps.foldl_fst])

theorem Keeps.pocketWrite (h : Keeps s t) {x k ls bs} (e : State.pocketWrite t x k ls bs = .ok u) : Keeps s u := by
  unfold State.pocketWrite at e
  refine foldl_keeps (fun r : Except (Nat × Nat) State × List PByte => ∀ v, r.1 = .ok v → Keeps s v) _ _ _ ?_ ?_ u e
  · intro v hv
    cases hv
    exact h
  · intro r l k v hv
    split at hv
    · cases hv
    · exact (k _ ‹_›).writeLoc hv

theorem Keeps.spill (h : Keeps s t) {x k a2 gs} (e : State.spill t x k a2 gs = .ok u) : Keeps s u := by
  grind [State.spill, → Keeps.pocketRead, → Keeps.pocketWrite, Keeps.modCluster]

theorem Keeps.makeRoom (h : Keeps s t) {x k need n} : Keeps s (State.makeRoom x k need n t).state := by
  induction n generalizing t with
  | zero =>
    unfold State.makeRoom
    dsimp only
    split
    · exact h
    split
    · exact h
    split
    · exact h
    split
    · exact h
    · exact h.spill ‹_›
  | succ n ih =>
    unfold State.makeRoom
    dsimp only
    split
    · exact h
    split
    · exact h
    split
    · exact h
    split
    · exact h
    · exact ih (h.spill ‹_›)

theorem Keeps.stashExhausted (h : Keeps s t) {x c f} : Keeps s (State.stashExhausted t x c f) := by
  grind [State.stashExhausted, Keeps.recordOutcome, Keeps.contained]

theorem Keeps.pocketFault (h : Keeps s t) {x c o kind va a5} : Keeps s (State.pocketFault t x c o kind va a5) := by
  grind [State.pocketFault, Keeps.recordOutcome, Keeps.tfault]

theorem Keeps.stashStore (h : Keeps s t) {x c f spilled gs} : Keeps s (State.stashStore t x c f spilled gs) := by
  grind [State.stashStore, → Keeps.readLoc, Keeps.pocketFault, → Keeps.pocketWrite, Keeps.recordOutcome, Keeps.modCluster]

theorem Keeps.stashPut (h : Keeps s t) {x c f} : Keeps s (State.stashPut t x c f) := by
  unfold State.stashPut
  dsimp only
  split
  · exact h.stashExhausted
  split
  · split
    · exact h.stashExhausted
    · exact h.stashStore
  have k := h.makeRoom (x := x) (k := clusterOf c) (need := granulesOf f.size) (n := ((t.cluster (clusterOf
      c)).pocket).entries.length)
  split
  all_goals
    rename_i e
    rw [e] at k
  · exact k.stashExhausted
  · exact k.pocketFault
  · exact Keeps.modCluster k
  · split
    · exact k
    · exact Keeps.stashStore k

theorem Keeps.execStashPut (h : Keeps s t) {c f} (e : execStashPut c f t = .next u) : Keeps s u := by
  grind [execStashPut, Keeps.opRefused, Keeps.dropEntry, Keeps.stashPut]

theorem Keeps.execStashPutContinue (h : Keeps s t) {k} (e : execStashPutContinue k t = .next u) : Keeps s u := by
  grind [execStashPutContinue, Keeps.stashPut, Keeps.modCluster]

theorem Keeps.stashGet (h : Keeps s t) {x c f a3} : Keeps s (State.stashGet t x c f a3) := by
  grind [State.stashGet, Keeps.modCluster, → Keeps.pocketRead, Keeps.pocketFault, → Keeps.writeLoc, Keeps.recordOutcome]

theorem Keeps.execStashGet (h : Keeps s t) {c f} (e : execStashGet c f t = .next u) : Keeps s u := by
  grind [execStashGet, Keeps.opRefused, Keeps.dropEntry, Keeps.stashGet]

theorem Keeps.execStashDrop (h : Keeps s t) {c key} (e : execStashDrop c key t = .next u) : Keeps s u := by
  grind [execStashDrop, Keeps.opRefused, Keeps.dropEntry, Keeps.recordOutcome, Keeps.modCluster]

/-! ### Reduce.lean -/

theorem Keeps.redEffect (h : Keeps s t) {c f a2} : Keeps s (redEffect c f a2 t).1 := by
  grind [redEffect, Keeps.vecSettle, Keeps.vecFinish, Keeps.foldl, Keeps.foldl_fst]

theorem Keeps.execRed (h : Keeps s t) {c f} (e : execRed c f t = .next u) : Keeps s u := by
  grind [execRed, Keeps.runOp, Keeps.redEffect]

theorem Keeps.softmaxEffect (h : Keeps s t) {c f a2} : Keeps s (softmaxEffect c f a2 t).1 := by
  grind [softmaxEffect, Keeps.vecSettle, Keeps.vecFinish, Keeps.foldl, Keeps.foldl_fst]

theorem Keeps.execSoftmax (h : Keeps s t) {c f} (e : execSoftmax c f t = .next u) : Keeps s u := by
  grind [execSoftmax, Keeps.runOp, Keeps.softmaxEffect]

theorem Keeps.normEffect (h : Keeps s t) {c f a2} : Keeps s (normEffect c f a2 t).1 := by
  grind [normEffect, Keeps.vecSettle, Keeps.vecFinish, Keeps.foldl, Keeps.foldl_fst]

theorem Keeps.execNormPartial (h : Keeps s t) {c f} (e : execNormPartial c f t = .next u) : Keeps s u := by
  grind [execNormPartial, Keeps.runOp, Keeps.normEffect]

theorem Keeps.auditEffect (h : Keeps s t) {c f a2} : Keeps s (auditEffect c f a2 t).1 := by
  grind [auditEffect, Keeps.vecSettle, Keeps.modCore]

theorem Keeps.execAudit (h : Keeps s t) {c f} (e : execAudit c f t = .next u) : Keeps s u := by
  grind [execAudit, Keeps.runOp, Keeps.auditEffect]

/-! ### Queues.lean -/

theorem Keeps.noteStart (h : Keeps s t) {c a1} : Keeps s (State.noteStart t c a1) := by
  grind [State.noteStart, Keeps.modCluster, Keeps.modGroup]

theorem Keeps.noteRefused (h : Keeps s t) {o st} : Keeps s (State.noteRefused t o st) := by
  unfold State.noteRefused
  grind [Keeps.modPool]

theorem Keeps.startHead (h : Keeps s t) {c q a2 rest} : Keeps s (State.startHead t c q a2 rest) := by
  grind [State.startHead, Keeps.modCore, Keeps.opRefused, Keeps.noteRefused, Keeps.noteStart]

theorem Keeps.opStart (h : Keeps s t) {c q} : Keeps s (State.opStart t c q) := by
  grind [State.opStart, Keeps.startHead]

theorem Keeps.execOperationStart (h : Keeps s t) {c q} (e : execOperationStart c q t = .next u) : Keeps s u := by
  grind [execOperationStart, Keeps.opStart]

theorem Keeps.signalled (h : Keeps s t) {c a1} : Keeps s (State.signalled t c a1) := by
  grind [State.signalled, Keeps.flagsMoved, Keeps.addFlag]

theorem Keeps.opEnd (h : Keeps s t) {c q index} : Keeps s (State.opEnd t c q index) := by
  unfold State.opEnd
  grind [Keeps.modCore, Keeps.signalled, Keeps.opRefused]

theorem Keeps.execOperationEnd (h : Keeps s t) {c q index} (e : execOperationEnd c q index t = .next u) : Keeps s u := by
  grind [execOperationEnd, Keeps.opEnd]

theorem Keeps.execFlagAdd (h : Keeps s t) {c flag inc} (e : execFlagAdd c flag inc t = .next u) : Keeps s u := by
  grind [execFlagAdd, Keeps.runOp, Keeps.flagsMoved, Keeps.addFlag]

theorem Keeps.execFlagSet (h : Keeps s t) {c flag value} (e : execFlagSet c flag value t = .next u) : Keeps s u := by
  grind [execFlagSet, Keeps.runOp, Keeps.flagsMoved, Keeps.setFlag]

/-! ### RunControl.lean -/

theorem Keeps.startCore (h : Keeps s t) {x c} : Keeps s (State.startCore t x c) := by
  grind [State.startCore, Keeps.modCore]

theorem Keeps.runStart (h : Keeps s t) {x} : Keeps s (State.runStart t x) := by
  grind [State.runStart, Keeps.wakeCtx, Keeps.modCluster, Keeps.startCore, Keeps.setFlag, Keeps.modCtx, Keeps.foldl,
    Keeps.foldl_fst]

theorem Keeps.execRunStart (h : Keeps s t) {q ctx} (e : execRunStart q ctx t = .next u) : Keeps s u := by
  grind [execRunStart, Keeps.command, Keeps.runStart]

theorem Keeps.releaseHeld (h : Keeps s t) {x} : Keeps s (State.releaseHeld t x) := by
  grind [State.releaseHeld, Keeps.modCore, Keeps.foldl, Keeps.foldl_fst]

theorem Keeps.restart (h : Keeps s t) {x} : Keeps s (State.restart t x) := by
  grind [State.restart, Keeps.resumeRecvs, Keeps.modCtx, Keeps.releaseHeld]

theorem Keeps.execRunResumeFault (h : Keeps s t) {q ctx} (e : execRunResumeFault q ctx t = .next u) : Keeps s u := by
  grind [execRunResumeFault, Keeps.command, Keeps.restart, Keeps.wakeCtx]

theorem Keeps.execBisectStop (h : Keeps s t) {q ctx core count}
    (e : execBisectStop q ctx core count t = .next u) : Keeps s u := by
  grind [execBisectStop, Keeps.command, Keeps.modCtx]

theorem Keeps.begin (h : Keeps s t) {c q code len x own eff} (k : Keeps s (eff t)) : Keeps s (State.begin t c q code len x
    own eff) := by
  unfold State.begin
  grind [Keeps.hold, Keeps.respond]

theorem Keeps.requeue (h : Keeps s t) {x c} : Keeps s (State.requeue t x c) := by
  grind [State.requeue, Keeps.modCore, Keeps.modCluster, Keeps.modGroup, Keeps.foldl, Keeps.foldl_fst, Keeps.record]

theorem Keeps.beginPreempt (h : Keeps s t) {x session evict drainMs} : Keeps s (State.beginPreempt t x session evict
    drainMs) := by
  unfold State.beginPreempt
  grind [Keeps.modCtx, Keeps.wakeCtx, Keeps.freeInbound, Keeps.pauseRecvs, Keeps.requeue, Keeps.foldl, Keeps.foldl_fst]

theorem Keeps.preempt (h : Keeps s t) {c q x drainMs evict} : Keeps s (State.preempt t c q x drainMs evict) := by
  grind [State.preempt, Keeps.begin, Keeps.beginPreempt]

theorem Keeps.execPreemptSuspend (h : Keeps s t) {q ctx drainMs}
    (e : execPreemptSuspend q ctx drainMs t = .next u) : Keeps s u := by
  grind [execPreemptSuspend, Keeps.preempt]

theorem Keeps.execPreemptEvict (h : Keeps s t) {q ctx drainMs}
    (e : execPreemptEvict q ctx drainMs t = .next u) : Keeps s u := by
  grind [execPreemptEvict, Keeps.preempt]

theorem Keeps.preemptFaulted (h : Keeps s t) {x p} : Keeps s (State.preemptFaulted t x p) := by
  grind [State.preemptFaulted, Keeps.respond, Keeps.modCtx]

theorem Keeps.execPreemptDrained (h : Keeps s t) {x} (e : execPreemptDrained x t = .next u) : Keeps s u := by
  grind [execPreemptDrained, Keeps.preemptFaulted, Keeps.modCtx, Keeps.respond]

theorem Keeps.execPreemptDrainTimeout (h : Keeps s t) {x} (e : execPreemptDrainTimeout x t = .next u) : Keeps s u := by
  grind [execPreemptDrainTimeout, Keeps.preemptFaulted, Keeps.contained]

theorem Keeps.settleCore (h : Keeps s t) {c} : Keeps s (State.settleCore t c) := by
  grind [State.settleCore, Keeps.accSettle, Keeps.ocSettle, Keeps.dmSettle, Keeps.coreFault, Keeps.foldl, Keeps.foldl_fst]

theorem Keeps.settleAll (h : Keeps s t) {k} : Keeps s (State.settleAll t k) := by
  grind [State.settleAll, Keeps.settleCore, Keeps.cmSettle, Keeps.foldl, Keeps.foldl_fst]

theorem Keeps.markSaved (h : Keeps s t) {x l} : Keeps s (State.markSaved t x l) := by
  grind [State.markSaved, Keeps.writePa, Keeps.foldl, Keeps.foldl_fst]

theorem Keeps.fillSaveArea (h : Keeps s t) {x} : Keeps s (State.fillSaveArea t x) := by
  grind [State.fillSaveArea, Keeps.markSaved, Keeps.drawn, Keeps.lanternWrite]

theorem Keeps.poisonRestored (h : Keeps s t) {x} : Keeps s (State.poisonRestored t x) := by
  grind [State.poisonRestored, Keeps.modCore, Keeps.modCluster, Keeps.foldl, Keeps.foldl_fst]

theorem Keeps.evicted (h : Keeps s t) {x p} : Keeps s (State.evicted t x p) := by
  have k := h.foldl (f := State.settleAll) (l := (t.ctx x).clusters) fun _ _ k => k.settleAll
  unfold State.evicted
  exact k.preemptFaulted.ite (k.fillSaveArea.dropTlb.foldl fun _ _ k => k.clearCluster).modCtx.respond

theorem Keeps.execEvictSaveDone (h : Keeps s t) {x} (e : execEvictSaveDone x t = .next u) : Keeps s u := by
  grind [execEvictSaveDone, Keeps.evicted]

theorem Keeps.resumed (h : Keeps s t) {x} : Keeps s (State.resumed t x) := by
  grind [State.resumed, Keeps.modCtx, Keeps.applyEnd, Keeps.releaseHeld, Keeps.resumeRecvs, Keeps.foldl, Keeps.foldl_fst]

theorem Keeps.execResume (h : Keeps s t) {q ctx} (e : execResume q ctx t = .next u) : Keeps s u := by
  grind [execResume, Keeps.begin, Keeps.chooseClusters, Keeps.wakeCtx, Keeps.modCtx, Keeps.command, Keeps.resumed]

theorem Keeps.restored (h : Keeps s t) {x} : Keeps s (State.restored t x) := by
  grind [State.restored, Keeps.modCluster, Keeps.modCore, Keeps.poisonRestored, Keeps.modCtx, Keeps.foldl, Keeps.foldl_fst]

theorem Keeps.execEvictRestoreDone (h : Keeps s t) {x} (e : execEvictRestoreDone x t = .next u) : Keeps s u := by
  grind [execEvictRestoreDone, Keeps.resumed, Keeps.restored, Keeps.respond]

theorem Keeps.debugSettle (h : Keeps s t) {kind k c a3 n} : Keeps s (State.debugSettle t kind k c a3 n) := by
  unfold State.debugSettle
  grind [Keeps.dmSettle, Keeps.coreFault, Keeps.ocSettle, Keeps.accSettle, Keeps.cmSettle, Keeps.foldl, Keeps.foldl_fst]

theorem Keeps.debugAnswer (h : Keeps s t) {kind k c offset len} : Keeps s (State.debugAnswer t kind k c offset len).1 := by
  grind [State.debugAnswer, Keeps.debugSettle, Keeps.wakeCluster, Keeps.wakeCore]

theorem Keeps.execDebugRead (h : Keeps s t) {q ctx kind cluster core offset len}
    (e : execDebugRead q ctx kind cluster core offset len t = .next u) : Keeps s u := by
  grind [execDebugRead, Keeps.command, Keeps.debugAnswer]

/-! ### ShardCmds.lean -/

theorem Keeps.execShardTableLoad (h : Keeps s t) {q ctx region offset len io}
    (e : execShardTableLoad q ctx region offset len io t = .next u) : Keeps s u := by
  grind [execShardTableLoad, Keeps.command, Keeps.farRead, Keeps.modCtx]

theorem Keeps.execShardRelease (h : Keeps s t) {q ctx} (e : execShardRelease q ctx t = .next u) : Keeps s u := by
  grind [execShardRelease, Keeps.command, → Keeps.putEpoch]

theorem Keeps.readPieces (h : Keeps s t) {x ps} {r} (e : State.readPieces t x ps = .ok r) : Keeps s r.1 := by
  unfold State.readPieces at e
  exact foldl_ok_fst e (by grind) (by grind [→ Keeps.fetchVa, Keeps.foldl, Keeps.foldl_fst])

theorem Keeps.exportFac (h : Keeps s t) {x a1 slot n} {r} (e : State.exportFac t x a1 slot n = .ok r) : Keeps s r.1 := by
  grind [State.exportFac, → Keeps.fetchVa, except_bind_ok]

theorem Keeps.exportComp (h : Keeps s t) {x r slot n z} (e : State.exportComp t x r slot n = .ok z) : Keeps s z.1 := by
  unfold State.exportComp at e
  split at e
  · refine foldl_ok_fst e (fun _ hv => by cases hv; exact h) (by grind [→ Keeps.exportFac])
  · exact h.readPieces e

theorem Keeps.exportPayload (h : Keeps s t) {x a1 slot comps} {r}
    (e : State.exportPayload t x a1 slot comps = .ok r) : Keeps s r.1 := by
  unfold State.exportPayload at e
  exact foldl_ok_fst e (by grind) (by grind [→ Keeps.exportComp, Keeps.foldl, Keeps.foldl_fst])

theorem Keeps.execShardExport (h : Keeps s t) {q ctx region components shard offset io}
    (e : execShardExport q ctx region components shard offset io t = .next u) : Keeps s u := by
  grind [execShardExport, Keeps.command, → Keeps.exportPayload, Keeps.farWrite]

theorem Keeps.importTile (h : Keeps s t) {x k n p cells g} {r}
    (e : State.importTile t x k n p cells g = .ok r) : Keeps s r.1 := by
  grind [State.importTile, → Keeps.readTile, → Keeps.writeTile, except_bind_ok]

theorem Keeps.importScales (h : Keeps s t) {x k n cells g} (e : State.importScales t x k n cells g = .ok u) : Keeps s u := by
  grind [State.importScales, → Keeps.writeScales]

theorem Keeps.importGradient (h : Keeps s t) {x f a2 n p cells}
    (e : State.importGradient t x f a2 n p cells = .ok u) : Keeps s u := by
  grind [State.importGradient, → Keeps.importTile, → Keeps.importScales, → Keeps.readTile, → Keeps.readScales,
    → Keeps.writeTile, → Keeps.writeScales, except_bind_ok]

theorem Keeps.importWorking (h : Keeps s t) {x f a2 n p cells master}
    (e : State.importWorking t x f a2 n p cells master = .ok u) : Keeps s u := by
  grind [State.importWorking, → Keeps.importTile, → Keeps.importScales, → Keeps.writeTile, → Keeps.writeScales,
    except_bind_ok]

theorem Keeps.importFac (h : Keeps s t) {x f a2 slot n p z}
    (e : State.importFac t x f a2 slot n p z = .ok u) : Keeps s u := by
  grind [State.importFac, → Keeps.putVa, except_bind_ok]

theorem Keeps.importChunk (h : Keeps s t) {x f r slot n z} (e : State.importChunk t x f r slot n = .ok z) : Keeps s z.1 := by
  unfold State.importChunk at e
  dsimp only at e
  split at e
  · cases e
    exact h
  · simp only [except_bind_ok] at e
    obtain ⟨m, hm, a, ha, b, hb, g, hg, d, hd, y, hy, e⟩ := e
    have k1 : Keeps s m.1 := by split at hm; exacts [h.importTile hm, h.importTile hm]
    have k2 : Keeps s b := by
      grind [except_map_ok, → Keeps.importTile, → Keeps.importFac]
    cases e
    exact ((k2.importGradient hg).importTile hd).importWorking hy

theorem Keeps.importShard (h : Keeps s t) {x f n r z} (e : State.importShard t x f n r = .ok z) : Keeps s z.1 := by
  unfold State.importShard at e
  simp only [except_bind_ok] at e
  obtain ⟨a, ha, w, hw, e⟩ := e
  have k : Keeps s a.1 := foldlM_ok_fst ha h (by grind [except_bind_ok, → Keeps.importChunk])
  cases e
  exact k.putCommit hw

theorem Keeps.importFile (h : Keeps s t) {x bs} : Keeps s (State.importFile t x bs).1 := by
  unfold State.importFile
  dsimp only
  split
  · exact h
  · split
    · exact h
    · rename_i e
      have k : Keeps s (_, _).1 := foldlM_ok_fst e h fun v a w k e => by
        obtain ⟨b, hb, e⟩ := (except_bind_ok _ _ _).1 e
        have kb : Keeps s b.1 := k.importShard hb
        cases e
        exact kb
      exact k

theorem Keeps.execShardImport (h : Keeps s t) {q ctx region offset len io}
    (e : execShardImport q ctx region offset len io t = .next u) : Keeps s u := by
  grind [execShardImport, Keeps.command, Keeps.farRead, Keeps.importFile]

/-! ### Timers.lean -/

theorem Keeps.timed (h : Keeps s t) : Keeps s (State.timed t) := by
  grind [State.timed, Keeps.setCore, Keeps.setCluster, Keeps.foldl, Keeps.foldl_fst]

/-! ### Dispatch.lean -/

theorem Keeps.exec (h : Keeps s t) {i : Instr} (e : Sys2Proof.Machine.exec i t = .next u) : Keeps s u := by
  cases i with
  | bundleIssue _ _ => exact h.execBundleIssue e
  | fetchMiss _ _ => exact h.execFetchMiss e
  | loopBegin _ _ => exact h.execLoopBegin e
  | swait _ _ => exact h.execSwait e
  | scalarLoadStore _ _ => exact h.execScalarLoadStore e
  | operationStart _ _ => exact h.execOperationStart e
  | operationEnd _ _ _ => exact h.execOperationEnd e
  | waitCycleSuspected _ => exact h.execWaitCycleSuspected e
  | stopReached _ => exact h.execStopReached e
  | flagWait _ _ _ => exact h.execFlagWait e
  | flagAdd _ _ _ => exact h.execFlagAdd e
  | flagSet _ _ _ => exact h.execFlagSet e
  | flagRead _ _ _ => exact h.execFlagRead e
  | seedSet _ _ => exact h.execSeedSet e
  | stepSet _ _ => exact h.execStepSet e
  | glintArm _ _ => exact h.execGlintArm e
  | glintClose _ _ => exact h.execGlintClose e
  | glintScale _ _ _ _ => exact h.execGlintScale e
  | beaconMark _ => exact h.execBeaconMark e
  | mmul _ _ => exact h.execMmul e
  | mpreload _ _ => exact h.execMpreload e
  | mread _ _ => exact h.execMread e
  | npred _ _ => exact h.execNpred e
  | add _ _ => exact h.execAdd e
  | sub _ _ => exact h.execSub e
  | mul _ _ => exact h.execMul e
  | fma _ _ => exact h.execFma e
  | min _ _ => exact h.execMin e
  | max _ _ => exact h.execMax e
  | abs _ _ => exact h.execAbs e
  | neg _ _ => exact h.execNeg e
  | copysign _ _ => exact h.execCopysign e
  | sel _ _ => exact h.execSel e
  | cmpEq _ _ => exact h.execCmpEq e
  | cmpLt _ _ => exact h.execCmpLt e
  | cmpLe _ _ => exact h.execCmpLe e
  | cmpUnord _ _ => exact h.execCmpUnord e
  | div _ _ => exact h.execDiv e
  | sqrt _ _ => exact h.execSqrt e
  | iadd _ _ => exact h.execIadd e
  | isub _ _ => exact h.execIsub e
  | imul _ _ => exact h.execImul e
  | and _ _ => exact h.execAnd e
  | or _ _ => exact h.execOr e
  | xor _ _ => exact h.execXor e
  | shl _ _ => exact h.execShl e
  | shr _ _ => exact h.execShr e
  | sar _ _ => exact h.execSar e
  | imin _ _ => exact h.execImin e
  | imax _ _ => exact h.execImax e
  | cvt _ _ => exact h.execCvt e
  | curve _ _ => exact h.execCurve e
  | curveLoad _ _ => exact h.execCurveLoad e
  | red _ _ => exact h.execRed e
  | softmax _ _ => exact h.execSoftmax e
  | gather _ _ => exact h.execGather e
  | scatter _ _ => exact h.execScatter e
  | scatterAdd _ _ => exact h.execScatterAdd e
  | accRd _ _ => exact h.execAccRd e
  | accWr _ _ => exact h.execAccWr e
  | normPartial _ _ => exact h.execNormPartial e
  | gradQuant _ _ => exact h.execGradQuant e
  | audit _ _ => exact h.execAudit e
  | dmaCopy _ _ => exact h.execDmaCopy e
  | put _ _ => exact h.execPut e
  | get _ _ => exact h.execGet e
  | atomic _ _ => exact h.execAtomic e
  | remoteFlagSet _ _ => exact h.execRemoteFlagSet e
  | reducePut _ _ => exact h.execReducePut e
  | messageSend _ => exact h.execMessageSend e
  | stashPut _ _ => exact h.execStashPut e
  | stashPutContinue _ => exact h.execStashPutContinue e
  | stashGet _ _ => exact h.execStashGet e
  | stashDrop _ _ => exact h.execStashDrop e
  | route _ _ => exact h.execRoute e
  | routeGrad _ _ => exact h.execRouteGrad e
  | xsend _ _ => exact h.execXsend e
  | xrecvArm _ _ => exact h.execXrecvArm e
  | visitClear _ _ => exact h.execVisitClear e
  | exchangeDeadline _ _ _ _ => exact h.execExchangeDeadline e
  | bufGet _ _ => exact h.execBufGet e
  | bufRef _ _ => exact h.execBufRef e
  | bufPut _ _ => exact h.execBufPut e
  | update _ _ => exact h.execUpdate e
  | shardStage _ _ => exact h.execShardStage e
  | beacon _ _ => exact h.execBeacon e
  | epochFence _ _ => exact h.execEpochFence e
  | epochFenceDrained _ => exact h.execEpochFenceDrained e
  | epochFenceTimeout _ => exact h.execEpochFenceTimeout e
  | epochSwitch _ _ => exact h.execEpochSwitch e
  | collStart _ _ => exact h.execCollStart e
  | stageDeadline _ _ _ => exact h.execStageDeadline e
  | collWaitTimeout _ _ _ => exact h.execCollWaitTimeout e
  | ringStageArm _ _ _ => exact h.execRingStageArm e
  | ringStageSend _ _ _ => exact h.execRingStageSend e
  | cellForward _ _ => exact h.execCellForward e
  | cellArrival _ => exact h.execCellArrival e
  | xchCell _ => exact h.execXchCell e
  | xchReply _ => exact h.execXchReply e
  | completion _ => exact h.execCompletion e
  | nakRetry _ => exact h.execNakRetry e
  | nakRefuse _ => exact h.execNakRefuse e
  | getData _ => exact h.execGetData e
  | atomicResult _ => exact h.execAtomicResult e
  | resendTimeout _ => exact h.execResendTimeout e
  | nakBackoffExpiry _ => exact h.execNakBackoffExpiry e
  | nakLimitExpiry _ => exact h.execNakLimitExpiry e
  | inboundContextTimeout _ => exact h.execInboundContextTimeout e
  | retireExpiry _ => exact h.execRetireExpiry e
  | outboundContextReuse _ => exact h.execOutboundContextReuse e
  | frameTransmit _ => exact h.execFrameTransmit e
  | frameReceive _ _ => exact h.execFrameReceive e
  | replayTimeout _ => exact h.execReplayTimeout e
  | receiverNakTimeout _ => exact h.execReceiverNakTimeout e
  | lossOfLock _ _ => exact h.execLossOfLock e
  | trainingTimeout _ => exact h.execTrainingTimeout e
  | detect _ _ => exact h.execDetect e
  | deskew _ _ => exact h.execDeskew e
  | exchange _ _ => exact h.execExchange e
  | setGen _ _ => exact h.execSetGen e
  | eqPreset _ => exact h.execEqPreset e
  | eqAdapt _ _ => exact h.execEqAdapt e
  | berCheck _ _ => exact h.execBerCheck e
  | delay _ => exact h.execDelay e
  | fallback _ => exact h.execFallback e
  | linkUp _ _ => exact h.execLinkUp e
  | quietIdleExpiry _ => exact h.execQuietIdleExpiry e
  | quietReqTimeout _ => exact h.execQuietReqTimeout e
  | wakeBurst _ => exact h.execWakeBurst e
  | lineRead _ _ _ => exact h.execLineRead e
  | lineWrite _ _ _ _ => exact h.execLineWrite e
  | lineAtomic _ _ _ _ _ => exact h.execLineAtomic e
  | selfRefreshEntry _ => exact h.execSelfRefreshEntry e
  | selfRefreshExit _ => exact h.execSelfRefreshExit e
  | patrolScrub _ _ => exact h.execPatrolScrub e
  | sramPatrolScrub _ _ _ => exact h.execSramPatrolScrub e
  | walk _ _ _ _ _ => exact h.execWalk e
  | hostDmaChunk _ _ => exact h.execHostDmaChunk e
  | rdmaAck _ => exact h.execRdmaAck e
  | rdmaAckTimeout _ => exact h.execRdmaAckTimeout e
  | rdmaWriteReceive _ _ _ _ => exact h.execRdmaWriteReceive e
  | rdmaReadReceive _ _ _ _ => exact h.execRdmaReadReceive e
  | cnp _ => exact h.execCnp e
  | rateIncrease _ => exact h.execRateIncrease e
  | ethernetFrame _ => exact h.execEthernetFrame e
  | pfcFrame _ => exact h.execPfcFrame e
  | arpNdIcmp _ => exact h.execArpNdIcmp e
  | lmpDatagram _ _ _ => exact h.execLmpDatagram e
  | announce => exact h.execAnnounce e
  | noticeResend _ => exact h.execNoticeResend e
  | sessionTimeout _ => exact h.execSessionTimeout e
  | sessionOpen _ _ _ _ _ _ _ => exact h.execSessionOpen e
  | sessionClose _ => exact h.execSessionClose e
  | deviceInfo _ => exact h.execDeviceInfo e
  | deviceReset _ _ => exact h.execDeviceReset e
  | ctxCreate _ _ _ _ => exact h.execCtxCreate e
  | ctxFree _ _ => exact h.execCtxFree e
  | ctxReset _ _ _ => exact h.execCtxReset e
  | ctxAttach _ _ _ _ => exact h.execCtxAttach e
  | ctxStatus _ _ => exact h.execCtxStatus e
  | pocketCfg _ _ _ _ => exact h.execPocketCfg e
  | map _ _ _ _ _ _ => exact h.execMap e
  | unmap _ _ _ _ => exact h.execUnmap e
  | protect _ _ _ _ _ => exact h.execProtect e
  | memRead _ _ _ _ => exact h.execMemRead e
  | memWrite _ _ _ _ _ => exact h.execMemWrite e
  | memXfer _ _ _ _ _ _ _ _ => exact h.execMemXfer e
  | poolCfgSet _ _ _ _ _ _ => exact h.execPoolCfgSet e
  | poolCfgRemove _ _ _ => exact h.execPoolCfgRemove e
  | poolQuota _ _ _ _ _ => exact h.execPoolQuota e
  | regionBind _ _ _ _ _ _ => exact h.execRegionBind e
  | regionUnbind _ _ => exact h.execRegionUnbind e
  | memPolicy _ _ _ _ => exact h.execMemPolicy e
  | progLoad _ _ _ _ _ _ => exact h.execProgLoad e
  | runStart _ _ => exact h.execRunStart e
  | runResumeFault _ _ => exact h.execRunResumeFault e
  | preemptSuspend _ _ _ => exact h.execPreemptSuspend e
  | preemptEvict _ _ _ => exact h.execPreemptEvict e
  | preemptDrained _ => exact h.execPreemptDrained e
  | preemptDrainTimeout _ => exact h.execPreemptDrainTimeout e
  | evictSaveDone _ => exact h.execEvictSaveDone e
  | resume _ _ => exact h.execResume e
  | bisectStop _ _ _ _ => exact h.execBisectStop e
  | debugRead _ _ _ _ _ _ _ => exact h.execDebugRead e
  | topologyLoad _ _ => exact h.execTopologyLoad e
  | linkCfgTrainingTable _ _ => exact h.execLinkCfgTrainingTable e
  | linkCfgPortCfg _ _ _ => exact h.execLinkCfgPortCfg e
  | linkCfgCreditCfg _ _ _ => exact h.execLinkCfgCreditCfg e
  | linkCfgLinkExcl _ _ => exact h.execLinkCfgLinkExcl e
  | linkCfgTimerCfg _ _ => exact h.execLinkCfgTimerCfg e
  | linkTestEnter _ _ => exact h.execLinkTestEnter e
  | linkTestSet _ _ => exact h.execLinkTestSet e
  | linkTestRead _ _ => exact h.execLinkTestRead e
  | linkTestScan _ _ _ => exact h.execLinkTestScan e
  | linkTestLeave _ _ => exact h.execLinkTestLeave e
  | hostPortTestReturn => exact h.execHostPortTestReturn e
  | hpPort _ _ => exact h.execHpPort e
  | hpAddr _ _ _ _ _ => exact h.execHpAddr e
  | hpMacsecInstall _ _ _ _ _ _ _ _ _ => exact h.execHpMacsecInstall e
  | hpMacsecRemove _ _ _ _ => exact h.execHpMacsecRemove e
  | hpQpCreate _ _ _ _ _ => exact h.execHpQpCreate e
  | hpQpConnect _ _ _ _ _ _ _ _ => exact h.execHpQpConnect e
  | hpQpReset _ _ => exact h.execHpQpReset e
  | hpQpDestroy _ _ => exact h.execHpQpDestroy e
  | hpWindowCreate _ _ _ _ _ => exact h.execHpWindowCreate e
  | hpWindowDestroy _ _ _ => exact h.execHpWindowDestroy e
  | cfgRecord _ _ _ _ _ => exact h.execCfgRecord e
  | shardTableLoad _ _ _ _ _ _ => exact h.execShardTableLoad e
  | shardRelease _ _ => exact h.execShardRelease e
  | shardExport _ _ _ _ _ _ _ => exact h.execShardExport e
  | shardImport _ _ _ _ _ _ => exact h.execShardImport e
  | counterRead _ _ _ => exact h.execCounterRead e
  | counterClear _ _ _ => exact h.execCounterClear e
  | powerPolicy _ _ _ _ _ => exact h.execPowerPolicy e
  | powerStatus _ => exact h.execPowerStatus e
  | logRead _ _ _ => exact h.execLogRead e
  | logClear _ _ => exact h.execLogClear e
  | fwStage _ _ _ _ _ _ _ => exact h.execFwStage e
  | fwActivate _ _ _ => exact h.execFwActivate e
  | fwStatus _ => exact h.execFwStatus e
  | attest _ _ _ _ _ => exact h.execAttest e
  | debugUnlock _ _ _ _ _ => exact h.execDebugUnlock e
  | permit _ _ _ _ _ => exact h.execPermit e
  | regRead _ _ _ => exact h.execRegRead e
  | regWrite _ _ _ => exact h.execRegWrite e
  | registerWrite _ _ => exact h.execRegisterWrite e
  | bpmPoolCfgWrite _ _ => exact h.execBpmPoolCfgWrite e
  | bpmPoolBaseWrite _ _ => exact h.execBpmPoolBaseWrite e
  | bpmQuotaWrite _ _ _ => exact h.execBpmQuotaWrite e
  | cufPortCfgWrite _ _ => exact h.execCufPortCfgWrite e
  | cufLanePrbsCtlWrite _ _ _ => exact h.execCufLanePrbsCtlWrite e
  | hpPortCfgWrite _ => exact h.execHpPortCfgWrite e
  | bistCtlWrite _ => exact h.execBistCtlWrite e
  | bistComplete _ _ => exact h.execBistComplete e
  | memTestCtlWrite _ => exact h.execMemTestCtlWrite e
  | memTestTransaction _ _ _ => exact h.execMemTestTransaction e
  | memTestComplete => exact h.execMemTestComplete e
  | thresholdPoll _ => exact h.execThresholdPoll e
  | coreDoze _ => exact h.execCoreDoze e
  | coreWake _ => exact h.execCoreWake e
  | clusterDoze _ => exact h.execClusterDoze e
  | clusterWake _ => exact h.execClusterWake e
  | clusterOffEntry _ => exact h.execClusterOffEntry e
  | clusterOffExit _ => exact h.execClusterOffExit e
  | railUpdate => exact h.execRailUpdate e
  | trimAdjust _ => exact h.execTrimAdjust e
  | powerSample _ _ => exact h.execPowerSample e
  | standbyApplied _ => exact h.execStandbyApplied e
  | startUp _ => exact h.execStartUp e
  | bootFailure => exact h.execBootFailure e
  | watchdog => exact h.execWatchdog e
  | warmReset _ => exact h.execWarmReset e
  | resetN _ _ => exact h.execResetN e
  | input48vLoss _ _ => exact h.execInput48vLoss e
  | thermalTrip _ _ => exact h.execThermalTrip e
  | refclkLoss _ => exact h.execRefclkLoss e
  | railOutOfRegulation _ => exact h.execRailOutOfRegulation e
  | prbsCheckerLock _ _ _ => exact h.execPrbsCheckerLock e
  | prbsCheckerLossOfLock _ _ _ _ _ => exact h.execPrbsCheckerLossOfLock e
  | hostPortLinkDown => exact h.execHostPortLinkDown e
  | hostPortLinkUp => exact h.execHostPortLinkUp e
  | pfcPauseExpiry _ => exact h.execPfcPauseExpiry e
  | rdmaNak _ o => exact h.execRdmaNak (_operational := o) e
  | rdmaReadResponse _ _ _ _ => exact h.execRdmaReadResponse e
  | standbyLoss => exact h.execStandbyLoss e
  | refclkReturn _ => exact h.execRefclkReturn e
  | hardwareConsistencyCheck _ _ _ _ => exact h.execHardwareConsistencyCheck e
  | railLeavesRegulation _ => exact h.execRailLeavesRegulation e
  | railRegainsRegulation _ => exact h.execRailRegainsRegulation e
  | input48vOutsideRange _ => exact h.execInput48vOutsideRange e
  | evictRestoreDone _ => exact h.execEvictRestoreDone e

/-! ### The step -/

/-- What a step that runs a held command ends with. -/
theorem thenHeld_next {post : List HeldCmd} {o : Host.Outcome State Fault Refusal} (e : thenHeld post o = .next u) :
    ∃ v, o = .next v ∧ u = { v with lantern := { v.lantern with held := v.lantern.held ++ post } } := by
  cases o with
  | next v => cases e; exact ⟨v, rfl, rfl⟩
  | _ => cases e

theorem tick_settled (h : Settled s) : Settled s.tick := (Keeps.refl s).timed.settled h

end

/-- Settles O2: every function of the model that answers a state keeps them, command by command. -/
theorem commandsKeepQueueAndTime : Obligations.CommandsKeepQueueAndTime := by
  intro c s t e
  have k := (Keeps.refl s).exec e
  exact ⟨k.pending, k.now⟩

/-- Settles O3: the front command, a held command or the tick, each keeps it. -/
theorem everyStepKeepsMemorySettled : Obligations.EveryStepKeepsMemorySettled := by
  intro s t h e
  unfold step at e
  split at e
  · split at e
    · cases e
      exact tick_settled h
    · obtain ⟨v, hv, rfl⟩ := thenHeld_next e
      exact ((Keeps.refl _).exec hv).settled h
  · exact ((Keeps.refl _).exec e).settled h

/-! ### The tick -/

section
variable {s t : State}

/-- From s to t only cores and clusters differ, those in their timers alone. -/
structure TimersOnly (s t : State) : Prop where
  rest : { t with cores := s.cores, clusters := s.clusters } = s
  core (c : Nat) : { t.core c with stallDue := (s.core c).stallDue, dozeDue := (s.core c).dozeDue } = s.core c
  cluster (k : Nat) : { t.cluster k with dozeDue := (s.cluster k).dozeDue } = s.cluster k

theorem TimersOnly.setCore (h : TimersOnly s t) (c : Nat) : TimersOnly s (t.setCore c (s.timedCore c)) where
  rest := h.rest
  core d := by
    by_cases hd : d = c
    · subst hd
      rw [State.setCore_core_same]
      rfl
    · rw [State.setCore_core_other _ _ hd]
      exact h.core d
  cluster := h.cluster

theorem TimersOnly.setCluster (h : TimersOnly s t) (k : Nat) : TimersOnly s (t.setCluster k (s.timedCluster k)) where
  rest := h.rest
  core := h.core
  cluster d := by
    by_cases hd : d = k
    · subst hd
      rw [State.setCluster_cluster_same]
      rfl
    · rw [State.setCluster_cluster_other _ _ hd]
      exact h.cluster d

theorem timed_timersOnly (s : State) : TimersOnly s s.timed :=
  foldl_keeps (TimersOnly s) _ _ _
    (foldl_keeps (TimersOnly s) _ _ _ ⟨rfl, fun _ => rfl, fun _ => rfl⟩ fun _ e h => h.setCore e.1)
    fun _ e h => h.setCluster e.1

end

/-- Settles O1: `step` is its three branches, and the tick sets timers alone. -/
theorem stepRunsFrontCommand : Obligations.StepRunsFrontCommand := by
  refine ⟨fun _ _ _ => rfl, fun s hs => ⟨fun pre h post hh => ?_, fun hh => ⟨s.tick, ?_, ?_, ?_, ?_, ?_⟩⟩⟩
  · simp [step, hs, hh]
  · simp [step, hs, hh]
  · rfl
  · calc _ = { s.timed with now := s.now, cores := s.cores, clusters := s.clusters } := rfl
      _ = { s.timed with cores := s.cores, clusters := s.clusters } := by rw [← (Keeps.refl s).timed.now]
      _ = s := (timed_timersOnly s).rest
  · exact (timed_timersOnly s).core
  · exact (timed_timersOnly s).cluster

/-- Settles O4: what `State.reset` says, unit by unit. -/
theorem resetHoldsStatedValues : Obligations.ResetHoldsStatedValues := by
  refine ⟨⟨rfl, fun _ => rfl, fun _ => rfl⟩, fun _ => ?_, fun k id => ?_, fun _ => ?_, fun _ => rfl, fun _ => ?_, fun _ => ?_,
    fun _ => rfl, rfl, rfl⟩
  · exact ⟨rfl, rfl, rfl, rfl, rfl, rfl, rfl, rfl⟩
  · unfold State.flag
    split
    · rfl
    · rfl
  · exact ⟨rfl, rfl, rfl, rfl⟩
  · exact ⟨show ({} : Pool).enabled = false by decide, rfl⟩
  · exact ⟨rfl, rfl⟩

end Sys2Proof.Machine
end
section
/-! PROOFS. Numbers (chapter 2): the binade of a number, the scale that fits a group, and the codes of the values that a
floating-point element represents (O15, O16, O17). -/

namespace Sys2Proof.Machine

/-! ### Powers of two and floors -/

theorem pow2_eq_zpow (e : Int) : pow2 e = (2 : Rat) ^ e := by
  unfold pow2
  split
  next h => rw [← zpow_natCast, Int.toNat_of_nonneg h]
  next h => rw [one_div, ← zpow_natCast, ← zpow_neg, Int.toNat_of_nonneg (by omega), neg_neg]

theorem pow2_pos (e : Int) : 0 < pow2 e := by
  rw [pow2_eq_zpow]
  positivity

theorem pow2_add (a b : Int) : pow2 (a + b) = pow2 a * pow2 b := by
  simp only [pow2_eq_zpow]
  exact zpow_add₀ two_ne_zero a b

theorem pow2_le {a b : Int} (h : a ≤ b) : pow2 a ≤ pow2 b := by
  simp only [pow2_eq_zpow]
  exact zpow_le_zpow_right₀ one_le_two h

theorem pow2_lt_iff {a b : Int} : pow2 a < pow2 b ↔ a < b := by
  simp only [pow2_eq_zpow]
  exact zpow_lt_zpow_iff_right₀ one_lt_two

theorem pow2_natCast (n : Nat) : pow2 n = (2 ^ n : Nat) := by
  rw [pow2_eq_zpow, zpow_natCast]
  exact (Nat.cast_pow 2 n).symm

/-- A positive natural number lies in the binade of its logarithm. -/
theorem log2_binade {n : Nat} (h : n ≠ 0) : pow2 n.log2 ≤ n ∧ (n : Rat) < pow2 (n.log2 + 1) := by
  have e : (n.log2 : Int) + 1 = (n.log2 + 1 : Nat) := rfl
  rw [e, pow2_natCast, pow2_natCast]
  exact ⟨by exact_mod_cast Nat.log2_self_le h, by exact_mod_cast Nat.lt_log2_self⟩

/-- `floorLog2` is the exponent of the binade in which a positive number lies. -/
theorem floorLog2_spec {q : Rat} (h : 0 < q) : pow2 (floorLog2 q) ≤ q ∧ q < pow2 (floorLog2 q + 1) := by
  have hd : (0 : Rat) < q.den := by exact_mod_cast q.den_pos
  have hn : q.num.natAbs ≠ 0 := by simpa using h.ne'
  have hq : q * q.den = q.num.natAbs := by
    rw [Rat.mul_den_eq_num, Nat.cast_natAbs, abs_of_pos (Rat.num_pos.2 h)]
  obtain ⟨nl, nu⟩ := log2_binade hn
  obtain ⟨dl, du⟩ := log2_binade q.den_nz
  rw [← hq] at nl nu
  unfold floorLog2
  dsimp only
  generalize (q.num.natAbs.log2 : Int) = a at nl nu ⊢
  generalize (q.den.log2 : Int) = b at dl du ⊢
  -- the quotient of two numbers in binades a and b lies in binade a - b or a - b - 1
  have lower : pow2 (a - b - 1) < q := by
    refine lt_of_mul_lt_mul_right (a := (q.den : Rat)) ?_ hd.le
    calc pow2 (a - b - 1) * q.den < pow2 (a - b - 1) * pow2 (b + 1) := mul_lt_mul_of_pos_left du (pow2_pos _)
      _ = pow2 a := by rw [← pow2_add]; congr 1; omega
      _ ≤ q * q.den := nl
  have upper : q < pow2 (a - b + 1) := by
    refine lt_of_mul_lt_mul_right (a := pow2 b) ?_ (pow2_pos b).le
    calc q * pow2 b ≤ q * q.den := mul_le_mul_of_nonneg_left dl h.le
      _ < pow2 (a + 1) := nu
      _ = pow2 (a - b + 1) * pow2 b := by rw [← pow2_add]; congr 1; omega
  split
  next k => exact ⟨k, upper⟩
  next k => exact ⟨lower.le, by simpa using k⟩

theorem floorLog2_eq {q : Rat} {e : Int} (l : pow2 e ≤ q) (u : q < pow2 (e + 1)) : floorLog2 q = e := by
  obtain ⟨hl, hu⟩ := floorLog2_spec ((pow2_pos e).trans_le l)
  have a := pow2_lt_iff.1 (hl.trans_lt u)
  have b := pow2_lt_iff.1 (l.trans_lt hu)
  omega

@[simp] theorem floorNat_natCast (n : Nat) : floorNat n = n := by simp [floorNat]

@[simp] theorem roundNat_natCast (mode : Round) (w : Word32) (n : Nat) : roundNat mode w n = n := by
  have zero : floorNat 0 = 0 := floorNat_natCast 0
  cases mode <;> simp [roundNat, zero, w.isLt]

theorem roundNat_eq_or (mode : Round) (w : Word32) (t : Rat) :
    roundNat mode w t = floorNat t ∨ roundNat mode w t = floorNat t + 1 := by
  unfold roundNat
  exact (ite_eq_or_eq _ _ _).symm

/-- Settles O17: `roundNat` is the floor or the number above it, and its condition for the latter is false of a whole number. -/
theorem roundingTakesANeighbour : Obligations.RoundingTakesANeighbour := by
  intro mode w t _
  refine ⟨roundNat_eq_or mode w t, fun h => ?_, rfl, ?_⟩
  · rw [h, roundNat_natCast, floorNat_natCast]
  · simp [roundNat]

/-! ### The scale of a group -/

theorem e8m0_clampScale {y : Int} (h : y ≤ 254) : pow2 (y - 127) ≤ e8m0 (clampScale y) := by
  refine pow2_le ?_
  have small : min 254 y.toNat < 2 ^ 8 := by omega
  rw [clampScale, BitVec.toNat_ofNat, Nat.mod_eq_of_lt small]
  omega

/-- The exponent that R37 chooses for a largest magnitude q and an element range m: of q less that of m, and one more where
that would not do. -/
def chosenExponent (m q : Rat) : Int :=
  let x := 127 + floorLog2 q - floorLog2 m
  if m < q / pow2 (x - 127) then x + 1 else x

theorem chosenExponent_fits {q m : Rat} (hq : 0 < q) (hm : 0 < m) (reach : q ≤ m * pow2 127) :
    chosenExponent m q ≤ 254 ∧ q ≤ m * pow2 (chosenExponent m q - 127) := by
  obtain ⟨ql, qu⟩ := floorLog2_spec hq
  obtain ⟨ml, mu⟩ := floorLog2_spec hm
  unfold chosenExponent
  dsimp only
  generalize def_x : 127 + floorLog2 q - floorLog2 m = x
  have hx : x ≤ 254 := by
    have : pow2 (floorLog2 q) < pow2 (floorLog2 m + 1 + 127) := by
      rw [pow2_add (_ + 1)]
      exact (ql.trans reach).trans_lt (mul_lt_mul_of_pos_right mu (pow2_pos _))
    have := pow2_lt_iff.1 this
    omega
  have next : q ≤ m * pow2 (x + 1 - 127) := by
    have e : floorLog2 q + 1 = floorLog2 m + (x + 1 - 127) := by omega
    rw [e, pow2_add] at qu
    exact qu.le.trans (mul_le_mul_of_nonneg_right ml (pow2_pos _).le)
  split
  next h =>
    refine ⟨?_, next⟩
    have : x ≠ 254 := by
      rintro e
      rw [e, lt_div_iff₀ (pow2_pos _)] at h
      exact absurd reach (not_le.2 h)
    omega
  next h => exact ⟨hx, (div_le_iff₀ (pow2_pos _)).1 (not_lt.1 h)⟩

theorem chooseScale_eq {f : Fmt} {q : Rat} (code : f.elem ≠ .code) (range : f.emax = floorLog2 f.elemMax) (hq : q ≠ 0) :
    chooseScale f [] q = clampScale (chosenExponent f.elemMax q) := by
  unfold chooseScale
  rw [if_neg hq, range]
  split
  next h => exact absurd h code
  next => rfl

/-- What the groups with scales of their own hold. -/
theorem fmtOf_scaled {code : Byte} {f : Fmt} (h : fmtOf code = some f) (scaled : f.scale = .mx ∨ f.scale = .ms) :
    f.elem = .mxint8 ∨ ∃ e ∈ [e4m3, e5m2, e3m2, e2m3, e2m1], f.elem = .flt e := by
  unfold fmtOf at h
  split at h <;> cases h <;> simp at scaled ⊢

theorem FloatFmt.magOf_pos {e : FloatFmt} {code : Nat} (h : code ≠ 0) : 0 < e.magOf code := by
  unfold FloatFmt.magOf
  dsimp only
  split
  next low =>
    have small : code < 2 ^ e.mbits := (Nat.div_eq_zero_iff_lt (by positivity)).1 low
    rw [Nat.mod_eq_of_lt small]
    exact mul_pos (by exact_mod_cast Nat.pos_of_ne_zero h) (pow2_pos _)
  next => exact mul_pos (by positivity) (pow2_pos _)

theorem maxCode_ne_zero : ∀ e ∈ [e4m3, e5m2, e3m2, e2m3, e2m1], e.maxCode ≠ 0 := by decide

/-- Settles O16: an exponent that fits is within the codes. -/
theorem chosenScaleFitsGroup : Obligations.ChosenScaleFitsGroup := by
  intro code f amax hf scaled pos reach
  have ⟨noCode, range, hm⟩ : f.elem ≠ .code ∧ f.emax = floorLog2 f.elemMax ∧ 0 < f.elemMax := by
    unfold Fmt.emax Fmt.elemMax
    rcases fmtOf_scaled hf scaled with h | ⟨e, he, h⟩
    · rw [h]
      exact ⟨nofun, (floorLog2_eq (by norm_num [pow2]) (by norm_num [pow2])).symm, by norm_num⟩
    · rw [h]
      exact ⟨nofun, rfl, FloatFmt.magOf_pos (maxCode_ne_zero e he)⟩
  obtain ⟨top, fits⟩ := chosenExponent_fits pos hm reach
  rw [chooseScale_eq noCode range pos.ne']
  exact (div_le_iff₀ (pow2_pos _)).2 (fits.trans (mul_le_mul_of_nonneg_left (e8m0_clampScale top) hm.le))

/-! ### The values of a floating-point element -/

section
variable (f : FloatFmt) {code : Nat}

theorem FloatFmt.magOf_subnormal (h : code / 2 ^ f.mbits = 0) : f.magOf code = code * pow2 (1 - f.bias - f.mbits) := by
  have small : code < 2 ^ f.mbits := (Nat.div_eq_zero_iff_lt (by positivity)).1 h
  simp [magOf, h, Nat.mod_eq_of_lt small]

theorem FloatFmt.magOf_normal (h : code / 2 ^ f.mbits ≠ 0) : f.magOf code =
    (2 ^ f.mbits + code % 2 ^ f.mbits : Nat) * pow2 (((code / 2 ^ f.mbits : Nat) : Int) - f.bias - f.mbits) := by
  simp [magOf, h]

/-- A number of at most one bit more than the mantissa, scaled, lies below the next binade. -/
theorem scaled_lt {n m : Nat} (e : Int) (h : n < 2 ^ m) : (n : Rat) * pow2 (e - m) < pow2 e := by
  have k : (n : Rat) < pow2 m := by
    rw [pow2_natCast]
    exact_mod_cast h
  calc (n : Rat) * pow2 (e - m) < pow2 m * pow2 (e - m) := mul_lt_mul_of_pos_right k (pow2_pos _)
    _ = pow2 e := by rw [← pow2_add]; congr 1; omega

theorem FloatFmt.magOf_lt : f.magOf code < pow2 (((code / 2 ^ f.mbits : Nat) : Int) + 1 - f.bias) := by
  by_cases h : code / 2 ^ f.mbits = 0
  · rw [f.magOf_subnormal h, h]
    have small : code < 2 ^ f.mbits := (Nat.div_eq_zero_iff_lt (by positivity)).1 h
    simpa using scaled_lt (1 - f.bias) small
  · rw [f.magOf_normal h]
    have small : 2 ^ f.mbits + code % 2 ^ f.mbits < 2 ^ (f.mbits + 1) := by
      have := Nat.mod_lt code (Nat.two_pow_pos f.mbits)
      omega
    convert scaled_lt (((code / 2 ^ f.mbits : Nat) : Int) + 1 - f.bias) small using 3
    push_cast
    ring

theorem FloatFmt.pow2_le_magOf (h : code / 2 ^ f.mbits ≠ 0) : pow2 (((code / 2 ^ f.mbits : Nat) : Int) - f.bias) ≤ f.magOf code := by
  rw [f.magOf_normal h]
  generalize ((code / 2 ^ f.mbits : Nat) : Int) - f.bias = e
  calc pow2 e = pow2 f.mbits * pow2 (e - f.mbits) := by rw [← pow2_add]; congr 1; omega
    _ = (2 ^ f.mbits : Nat) * pow2 (e - f.mbits) := by rw [pow2_natCast]
    _ ≤ (2 ^ f.mbits + code % 2 ^ f.mbits : Nat) * pow2 (e - f.mbits) :=
      mul_le_mul_of_nonneg_right (by exact_mod_cast Nat.le_add_right _ _) (pow2_pos _).le

theorem FloatFmt.magOf_le {high : Nat} (h : code ≤ high) : f.magOf code ≤ f.magOf high := by
  have ediv : code / 2 ^ f.mbits ≤ high / 2 ^ f.mbits := Nat.div_le_div_right h
  rcases ediv.eq_or_lt with same | below
  · by_cases low : code / 2 ^ f.mbits = 0
    · rw [f.magOf_subnormal low, f.magOf_subnormal (same ▸ low)]
      exact mul_le_mul_of_nonneg_right (by exact_mod_cast h) (pow2_pos _).le
    · have rest : code % 2 ^ f.mbits ≤ high % 2 ^ f.mbits := by
        have a := Nat.div_add_mod code (2 ^ f.mbits)
        have b := Nat.div_add_mod high (2 ^ f.mbits)
        rw [← same] at b
        omega
      rw [f.magOf_normal low, f.magOf_normal (same ▸ low), ← same]
      exact mul_le_mul_of_nonneg_right (by exact_mod_cast Nat.add_le_add_left rest _) (pow2_pos _).le
  · calc f.magOf code ≤ pow2 (((code / 2 ^ f.mbits : Nat) : Int) + 1 - f.bias) := f.magOf_lt.le
      _ ≤ pow2 (((high / 2 ^ f.mbits : Nat) : Int) - f.bias) := pow2_le (by omega)
      _ ≤ f.magOf high := f.pow2_le_magOf (Nat.ne_zero_of_lt below)

/-- A representable magnitude rounds to its own code. -/
theorem FloatFmt.roundCode_magOf (mode : Round) (w : Word32) : f.roundCode mode w (f.magOf code) = code := by
  unfold FloatFmt.roundCode
  split
  next zero =>
    by_contra h
    exact (f.magOf_pos (Ne.symm h)).ne' zero
  next pos =>
  have parts := Nat.div_add_mod code (2 ^ f.mbits)
  have hq : 0 < f.magOf code := f.magOf_pos (by rintro rfl; exact pos (by simp [magOf]))
  dsimp only
  by_cases low : code / 2 ^ f.mbits = 0
  · have below : floorLog2 (f.magOf code) < 1 - f.bias := by
      have := (floorLog2_spec hq).1.trans_lt f.magOf_lt
      rw [low] at this
      simpa using pow2_lt_iff.1 this
    rw [if_pos below, f.magOf_subnormal low, mul_div_cancel_right₀ _ (pow2_pos _).ne', roundNat_natCast]
    simp
  · have binade : floorLog2 (f.magOf code) = ((code / 2 ^ f.mbits : Nat) : Int) - f.bias :=
      floorLog2_eq (f.pow2_le_magOf low) (by
        have := f.magOf_lt (code := code)
        rwa [show ((code / 2 ^ f.mbits : Nat) : Int) + 1 - f.bias = ((code / 2 ^ f.mbits : Nat) : Int) - f.bias + 1 by omega] at this)
    rw [binade, f.magOf_normal low]
    generalize code / 2 ^ f.mbits = e at parts low
    obtain ⟨k, rfl⟩ := Nat.exists_eq_succ_of_ne_zero low
    rw [if_neg (by omega), mul_div_cancel_right₀ _ (pow2_pos _).ne', roundNat_natCast]
    have steps : (((k + 1 : Nat) : Int) - f.bias - (1 - f.bias)).toNat = k := by omega
    rw [steps]
    rw [Nat.mul_succ, Nat.mul_comm] at parts
    omega

theorem FloatFmt.encode_magOf (h : code ≤ f.maxCode) (mode : Round) (sat : Bool) (w : Word32) (neg : Bool) :
    f.encode mode sat w (.fin neg (f.magOf code)) = (f.bits neg code, {}) := by
  unfold FloatFmt.encode
  dsimp only
  rw [if_pos (show f.magOf code ≤ f.max from f.magOf_le h), f.roundCode_magOf]

theorem FloatFmt.decode_bits (h : code ≤ f.maxCode) (room : f.maxCode < 2 ^ (f.ebits + f.mbits)) (neg : Bool) :
    f.decode (f.bits neg code) = .fin neg (f.magOf code) := by
  have small : code < 2 ^ (f.ebits + f.mbits) := h.trans_lt room
  have pos := Nat.two_pow_pos (f.ebits + f.mbits)
  unfold FloatFmt.decode FloatFmt.bits
  cases neg
  · simp [Nat.mod_eq_of_lt small, Nat.div_eq_of_lt small, h]
  · simp [Nat.mod_eq_of_lt small, Nat.div_eq_of_lt small, Nat.add_div_left _ pos, h]

end

/-- Settles O15: rounding a representable magnitude gives its code, and the codes below the largest one decode to their values. -/
theorem representableValuesConvertExactly : Obligations.RepresentableValuesConvertExactly := by
  intro f hf neg sat mode w code h
  have room : ∀ f ∈ [fp32, bf16, fp16, e4m3, e5m2, e3m2, e2m3, e2m1], f.maxCode < 2 ^ (f.ebits + f.mbits) := by decide
  exact ⟨f.encode_magOf h mode sat w neg, f.decode_bits h (room f hf) neg⟩

end Sys2Proof.Machine
end
section
/-! PROOFS. Bit fields of registers: a field that is written reads back, and leaves the fields beside it; a saturating counter. -/

namespace Sys2Proof.Machine

/-! ### Bit fields -/

theorem bitOf_eq_testBit (v n : Nat) : bitOf v n = v.testBit n := (Nat.testBit_eq_decide_div_mod_eq).symm

theorem testBit_bitsOf (v hi lo i : Nat) : (bitsOf v hi lo).testBit i = (decide (i < hi + 1 - lo) && v.testBit (i + lo)) := by
  rw [bitsOf, Nat.testBit_mod_two_pow, Nat.testBit_div_two_pow]

/-- The replaced bits are those of the new field, the others those of the old value. -/
theorem testBit_setBits (v f i : Nat) {hi lo : Nat} (h : lo ≤ hi + 1) :
    (setBits v hi lo f).testBit i = if lo ≤ i ∧ i ≤ hi then f.testBit (i - lo) else v.testBit i := by
  have place : setBits v hi lo f = 2 ^ lo * (2 ^ (hi + 1 - lo) * (v / 2 ^ (hi + 1)) + f % 2 ^ (hi + 1 - lo)) + v % 2 ^ lo := by
    have pow : 2 ^ (hi + 1) = 2 ^ lo * 2 ^ (hi + 1 - lo) := by rw [← Nat.pow_add, Nat.add_sub_cancel' h]
    rw [setBits, Nat.mul_add, ← Nat.mul_assoc, ← pow]
    ring
  rw [place, Nat.testBit_two_pow_mul_add _ (Nat.mod_lt _ (by positivity)), Nat.testBit_two_pow_mul_add _ (Nat.mod_lt _ (by positivity)),
    Nat.testBit_mod_two_pow, Nat.testBit_mod_two_pow, Nat.testBit_div_two_pow]
  by_cases below : i < lo
  · simp [below, not_le.2 below]
  · by_cases inside : i ≤ hi
    · have : i - lo < hi + 1 - lo := by omega
      simp [below, this, inside, not_lt.1 below]
    · have : ¬ i - lo < hi + 1 - lo := by omega
      rw [if_neg below, if_neg this, if_neg (by omega)]
      congr 1
      omega

/-- A replaced field reads as the new value, cut to its width. -/
theorem bitsOf_setBits_same (v f : Nat) {hi lo : Nat} (h : lo ≤ hi + 1) :
    bitsOf (setBits v hi lo f) hi lo = f % 2 ^ (hi + 1 - lo) := by
  refine Nat.eq_of_testBit_eq fun i => ?_
  rw [testBit_bitsOf, testBit_setBits _ _ _ h, Nat.testBit_mod_two_pow]
  by_cases hi' : i < hi + 1 - lo
  · rw [if_pos (by omega), Nat.add_sub_cancel]
  · simp [hi']

/-- Replacing one field leaves the fields beside it. -/
theorem bitsOf_setBits_other (v f : Nat) {hi lo a b : Nat} (h : lo ≤ hi + 1) (apart : a < lo ∨ hi < b) :
    bitsOf (setBits v hi lo f) a b = bitsOf v a b := by
  refine Nat.eq_of_testBit_eq fun i => ?_
  rw [testBit_bitsOf, testBit_bitsOf, testBit_setBits _ _ _ h]
  by_cases inside : i < a + 1 - b
  · rw [if_neg (by omega)]
  · simp [inside]

theorem setBits_lt (v f : Nat) {hi lo n : Nat} (h : lo ≤ hi + 1) (top : hi < n) (hv : v < 2 ^ n) : setBits v hi lo f < 2 ^ n := by
  refine Nat.lt_pow_two_of_testBit _ fun i hi' => ?_
  rw [testBit_setBits _ _ _ h, if_neg (by omega)]
  exact Nat.testBit_lt_two_pow (hv.trans_le (Nat.pow_le_pow_right two_pos hi'))

theorem toNat_withFld (w : Word64) (f : Nat) {hi lo : Nat} (h : lo ≤ hi + 1) (top : hi < 64) :
    (withFld w hi lo f).toNat = setBits w.toNat hi lo f := by
  rw [withFld, BitVec.toNat_ofNat, Nat.mod_eq_of_lt (setBits_lt _ _ h top w.isLt)]

theorem toNat_withFld32 (w : Word32) (f : Nat) {hi lo : Nat} (h : lo ≤ hi + 1) (top : hi < 32) :
    (withFld32 w hi lo f).toNat = setBits w.toNat hi lo f := by
  rw [withFld32, BitVec.toNat_ofNat, Nat.mod_eq_of_lt (setBits_lt _ _ h top w.isLt)]

theorem fld_withFld_same (w : Word64) (f : Nat) {hi lo : Nat} (h : lo ≤ hi + 1) (top : hi < 64) :
    fld (withFld w hi lo f) hi lo = f % 2 ^ (hi + 1 - lo) := by
  rw [fld, toNat_withFld w f h top, bitsOf_setBits_same _ _ h]

theorem fld_withFld_other (w : Word64) (f : Nat) {hi lo a b : Nat} (h : lo ≤ hi + 1) (top : hi < 64) (apart : a < lo ∨ hi < b) :
    fld (withFld w hi lo f) a b = fld w a b := by
  rw [fld, toNat_withFld w f h top, bitsOf_setBits_other _ _ h apart, fld]

theorem fld32_withFld32_same (w : Word32) (f : Nat) {hi lo : Nat} (h : lo ≤ hi + 1) (top : hi < 32) :
    fld32 (withFld32 w hi lo f) hi lo = f % 2 ^ (hi + 1 - lo) := by
  rw [fld32, toNat_withFld32 w f h top, bitsOf_setBits_same _ _ h]

theorem fld32_withFld32_other (w : Word32) (f : Nat) {hi lo a b : Nat} (h : lo ≤ hi + 1) (top : hi < 32)
    (apart : a < lo ∨ hi < b) : fld32 (withFld32 w hi lo f) a b = fld32 w a b := by
  rw [fld32, toNat_withFld32 w f h top, bitsOf_setBits_other _ _ h apart, fld32]

/-- A saturating counter counts up to its largest value. -/
theorem fld_bumpFld_same (w : Word64) (n : Nat) {hi lo : Nat} (h : lo ≤ hi + 1) (top : hi < 64) :
    fld (bumpFld w hi lo n) hi lo = min (fld w hi lo + n) (2 ^ (hi + 1 - lo) - 1) := by
  rw [bumpFld, fld_withFld_same w _ h top]
  have := Nat.two_pow_pos (hi + 1 - lo)
  exact Nat.mod_eq_of_lt (by omega)

theorem fld_bumpFld_other (w : Word64) (n : Nat) {hi lo a b : Nat} (h : lo ≤ hi + 1) (top : hi < 64) (apart : a < lo ∨ hi < b) :
    fld (bumpFld w hi lo n) a b = fld w a b := fld_withFld_other w _ h top apart

end Sys2Proof.Machine
end
section
/-! PROOFS. Mailbox commands: a request that its common checks pass has its command's effect and is answered, or is refused by the
command's own check (O50). -/

namespace Sys2Proof.Machine

/-! ### Requests that their common checks pass -/

section
variable {s u : State} {i c : Instr} {q : Req} {code len : Nat} {x : Option Nat} {own : Option Status} {st : Status}
  {p : List Byte} {eff : State → State × Status × List Byte}

/-- A request that its command's own check passes too is answered with what the command's effect gives. -/
theorem State.command_gives (hi : exec i s = .next (s.command c q code len x own eff)) (ha : s.accepts q code len x = true)
    (ho : own = none) (he : eff s = (u, st, p)) : Answers i q code st p s u := by
  have h := (s.command_answers hi ha).2 ho
  rwa [he] at h

/-- A request that its command's own check refuses is answered with that check's code alone. -/
theorem State.command_refuses (hi : exec i s = .next (s.command c q code len x own eff)) (ha : s.accepts q code len x = true)
    (ho : own = some st) : Answers i q code st [] s s := (s.command_answers hi ha).1 st ho

end

/-! ### Shards (R310, R311, R314, R425) -/

/-- Settles O50: each command's own check passes and its effect is the one that its hypotheses name. -/
theorem shardCommandsAct : Obligations.ShardCommandsAct := by
  refine ⟨?load, ?release, ?writesOut, ?readsIn⟩
  case load =>
    intro q x region offset len io s u bs ha size fenced read ok
    refine State.command_gives rfl ha ?_ ?_
    · simp [firstFail_eq_none, size, fenced]
    · simp [read, ok]
  case release =>
    intro q x e s u ha he unfenced prev put
    refine State.command_gives rfl ha ?_ ?_
    · simp [firstFail_eq_none, he, unfenced, prev]
    · simp [he, put]
  case writesOut =>
    intro q x region comps shard offset io r s v w bs ha owned has phase resident payload file write
    refine State.command_gives rfl ha ?_ ?_
    · simpa [firstFail_eq_none, owned, phase] using ⟨has, resident⟩
    · simp only [file] at write
      simp [owned, payload, write, file]
  case readsIn =>
    intro q x region offset len io s u v bs p st ha read imported
    exact State.command_gives rfl ha rfl (by simp [read, imported])

end Sys2Proof.Machine
end
section
/-! PROOFS. The set-up commands of the mailbox: pools, regions, memory policy and host port (O52). -/

namespace Sys2Proof.Machine

/-! ### What an answer leaves -/

/-- What it is that a request passes its common checks and need not wait. -/
theorem State.accepts_served {s : State} {q : Req} {code len : Nat} {x : Option Nat} (h : s.accepts q code len x = true) :
    ∃ i, cmdInfo code = some i ∧ s.lantern.running = true ∧ s.mustWait q.session x = false ∧ s.commonCheck q i len x = none := by
  unfold State.accepts at h
  split at h
  · cases h
  next i hi =>
    simp only [Bool.and_eq_true, Bool.not_eq_true', Option.isNone_iff_eq_none] at h
    exact ⟨i, hi, h.1.1, h.1.2, h.2⟩

section
variable {s t : State} (h : OnlyAnswer s t)
include h

theorem OnlyAnswer.mem_eq : t.mem = s.mem := (congrArg State.mem h :)
theorem OnlyAnswer.group_eq (g : Nat) : t.group g = s.group g := (congrArg (State.group · g) h :)
theorem OnlyAnswer.pool_eq (p : Nat) : t.pool p = s.pool p := (congrArg (State.pool · p) h :)
theorem OnlyAnswer.qp_eq (i : Nat) : t.qp i = s.qp i := (congrArg (State.qp · i) h :)
theorem OnlyAnswer.windows_eq : t.hp.windows = s.hp.windows := (congrArg (fun u : State => u.hp.windows) h :)

end

@[simp] theorem State.setQp_qp_same (s : State) (i : Nat) (v : Qp) : (s.setQp i v).qp i = v := sget_sset_same _ _ _ _

@[simp] theorem State.setQp_qp_other (s : State) {i j : Nat} (v : Qp) (h : j ≠ i) : (s.setQp i v).qp j = s.qp j :=
  sget_sset_other _ _ _ h

/-- Whatever an answered command leaves but for the answer, in the state that it gives. -/
theorem Answers.gives {i : Instr} {q : Req} {code : Nat} {st : Status} {p : List Byte} {s u : State} {P : State → Prop}
    (h : Answers i q code st p s u) (k : ∀ t, OnlyAnswer u t → Answered t q code st p → P t) : Gives i s P := by
  obtain ⟨t, run, answered, only, -⟩ := h
  exact ⟨t, run, k t only answered⟩

/-! ### The set-up of pools, regions, policy and host port -/

theorem Pool.configured_off (p : Pool) (cfg : Word32) (base : Word64) (off : bitOf cfg.toNat 31 = false) :
    (p.configured cfg base).enabled = false := by
  unfold Pool.configured
  simp [off, Pool.enabled]

theorem Pool.enabled_configured_off (p : Pool) (cfg : Word32) (base : Word64) :
    (p.configured (cfg &&& 0x7FFFFFFF#32) base).enabled = false :=
  p.configured_off _ _ (by rw [bitOf_eq_testBit, BitVec.toNat_and, Nat.testBit_and]; exact Bool.and_false _)

/-- POOL_QUOTA of an enabled pool names its owner's context. -/
theorem exec_poolQuota {q : Req} {p : Nat} {s : State} (hp : p < 64) (on : (s.pool p).enabled = true) (req limit reserve : Nat) :
    exec (.poolQuota q p req limit reserve) s = .next (s.command (.poolQuota q p req limit reserve) q 0x27 16
      (some (s.pool p).owner) ((firstFail [(!decide (p < 64) || !(s.pool p).enabled, bpmStatus 1), (decide (31 < req), genRange)]).or
        (quotaCheck (s.pool p) req limit reserve))
      (fun t => (t.modPool p (fun p => p.withQuota req limit reserve), stDone, []))) := by
  have arm : exec (.poolQuota q p req limit reserve) s = execPoolQuota q p req limit reserve s := rfl
  rw [arm, execPoolQuota]
  simp only [hp, on, and_self, if_true]

theorem ne_stDone_of_firstFail {l : List (Bool × Status)} {st : Status} (h : firstFail l = some st) (k : ∀ e ∈ l, e.2 ≠ stDone) :
    st ≠ stDone := by
  obtain ⟨p, r, rfl, -⟩ := firstFail_eq_some _ _ h
  exact k (true, st) (by simp)

/-- A value that its rule takes is what HP_PORT_CFG holds after its write. -/
theorem State.writeHpCfg_cfg {s : State} {w : Word32} (ok : (s.writeHpCfg w).1 = stDone) : (s.writeHpCfg w).2.hp.cfg = w := by
  unfold State.writeHpCfg at ok ⊢
  dsimp only at ok ⊢
  split at ok
  next st bad => exact absurd ok (ne_stDone_of_firstFail bad (by simp [genReserved, genRange, hpStatus, stDone]))
  next bad => simp

theorem OnlyAnswer.writeHpCfg_status {s t : State} (h : OnlyAnswer s t) (w : Word32) : (t.writeHpCfg w).1 = (s.writeHpCfg w).1 := by
  have cfg : t.hp.cfg = s.hp.cfg := (congrArg (fun u : State => u.hp.cfg) h :)
  have chunks : t.hp.chunks = s.hp.chunks := (congrArg (fun u : State => u.hp.chunks) h :)
  unfold State.writeHpCfg State.hpMode State.qpBusy
  rw [cfg, chunks]
  dsimp only
  split <;> rfl

theorem State.writeHpCfg_lantern (s : State) (w : Word32) : (s.writeHpCfg w).2.lantern = s.lantern := by
  unfold State.writeHpCfg
  dsimp only
  split <;> rfl

/-- HP_PORT writes its register once the request has been answered. -/
theorem exec_hpPort_gives {q : Req} {w : Word32} {s : State} (ha : s.accepts q 0x43 8 none = true)
    (ok : (s.writeHpCfg w).1 = stDone) :
    Gives (.hpPort q w) s (fun t => t.hp.cfg = w ∧ Answered t q 0x43 stDone []) := by
  have arm : exec (.hpPort q w) s = execHpPort q w s := rfl
  obtain ⟨i, hi, running, free, common⟩ := State.accepts_served ha
  have own : ruleOf (s.writeHpCfg w).1 = none := by simp [ruleOf, ok]
  obtain ⟨answered, only, -⟩ := s.respond_answers q 0x43 stDone []
  have run : exec (.hpPort q w) s = .next ((s.respond q.session 0x43 stDone []).writeHpCfg w).2 := by
    have served := s.command_served (c := .hpPort q w) (fun t => (t, stDone, [])) hi running free common
    rw [arm, execHpPort]
    simp only [own, ha, Option.isNone_none, and_self, if_true]
    rw [served]
  have same : ((s.respond q.session 0x43 stDone []).writeHpCfg w).1 = (s.writeHpCfg w).1 :=
    only.writeHpCfg_status w
  refine ⟨_, run, State.writeHpCfg_cfg (same.trans ok), ?_⟩
  rw [Answered, State.writeHpCfg_lantern]
  exact answered

/-- The groups that a mask names take a change, the others none. -/
theorem State.foldl_maskedGroups (s : State) (l : List Nat) (m : Nat) (f : Group → Group) (g : Nat) (nodup : l.Nodup) :
    (l.foldl (fun u g => if bitOf m g then u.modGroup g f else u) s).group g =
      if g ∈ l ∧ bitOf m g = true then f (s.group g) else s.group g := by
  induction l generalizing s with
  | nil => simp
  | cons a l ih =>
    rw [List.nodup_cons] at nodup
    obtain ⟨ha, hl⟩ := nodup
    rw [List.foldl_cons, ih _ hl]
    by_cases hg : g = a
    · subst hg
      split <;> split <;> simp_all
    · have kept : (if bitOf m a then s.modGroup a f else s).group g = s.group g := by
        split
        · exact State.modGroup_group_other _ _ hg
        · rfl
      simp [kept, hg]

/-- Settles O52: each request passes its command's own check, and its effect writes what it carries. -/
theorem setupCommandsAct : Obligations.SetupCommandsAct := by
  refine ⟨?port, ?addr, ?macsec, ?qp, ?qpEnd, ?window, ?poolCfg, ?poolQuota, ?region, ?policy⟩
  case port => exact fun q w s ha ok => exec_hpPort_gives ha ok
  case addr => exact fun q v4 p4 p6 v6 s ha => State.command_gives rfl ha rfl rfl
  case macsec =>
    intro q dir sc an ssci sci pn key salt s ha hdir hsc han
    refine ⟨fun same room => State.command_gives rfl ha ?_ rfl, State.command_gives rfl ha ?_ rfl⟩
    · have few : (s.hp.keys.filter (fun k => k.an != an && k.onChannel dir sc)).length ≤ 1 := by
        simpa only [Bool.and_comm] using Nat.le_of_lt_succ room
      simpa [firstFail_eq_none, hdir, hsc, han] using ⟨same, few⟩
    · simp [firstFail_eq_none, hdir, hsc, han]
  case qp =>
    intro q i mtu d retry s ha range hi
    refine ⟨fun absent => ?_, fun created n psn ip => ?_⟩
    · refine (State.command_gives rfl ha (by simp [firstFail_eq_none, range, absent, hi]) rfl).gives fun t only answered => ?_
      simp only [only.qp_eq, State.setQp_qp_same]
      exact ⟨trivial, trivial, trivial, trivial, answered, fun j hj => State.setQp_qp_other _ _ hj⟩
    · refine (State.command_gives rfl ha (by simp [firstFail_eq_none, range, created, hi]) rfl).gives fun t only answered => ?_
      simp only [only.qp_eq, State.setQp_qp_same]
      exact ⟨trivial, trivial, trivial, trivial, answered⟩
  case qpEnd =>
    intro q i s ha hi hs
    refine ⟨?_, fun free => State.command_gives rfl ha (by simp [firstFail_eq_none, hi, hs, free]) rfl⟩
    refine (State.command_gives rfl ha (by simp [firstFail_eq_none, hi, hs]) rfl).gives fun t only answered => ?_
    simp only [only.qp_eq, State.setQp_qp_same]
    exact ⟨trivial, answered⟩
  case window =>
    intro q w x va len s ha hw
    refine ⟨fun mine low top pinned => ?_, fun z hz hx => ?_⟩
    · refine (State.command_gives rfl ha ?_ rfl).gives fun t only answered => ⟨Config.freeWord32 s.freeCtr, ?_, answered⟩
      · rcases mine with h | h <;> simp [firstFail_eq_none, hw, h, low, top, pinned]
      · rw [only.windows_eq]
        exact sget_sset_same none s.hp.windows w (some ⟨x, va, len, _⟩)
    · refine State.command_gives rfl ha ?_ ?_
      · simp [firstFail_eq_none, hw, State.windowCtx, hz, hx]
      · simp [hz]
  case poolCfg =>
    intro q p x s ha hp empty mine
    have owner : ((s.pool p).enabled && (s.pool p).owner != x) = false := by
      cases on : (s.pool p).enabled
      · rfl
      · simp [mine on]
    refine ⟨fun log2 count base l1 l2 c1 c2 ok => State.command_gives rfl ha ?_ rfl, ?_⟩
    · rw [Option.or_eq_none_iff]
      refine ⟨?_, ok⟩
      simp [firstFail_eq_none, hp, empty, owner, l1, l2, c1, c2]
    · refine (State.command_gives rfl ha ?_ rfl).gives fun t only answered => ?_
      · simp [firstFail_eq_none, hp, empty, owner]
      · simp only [only.pool_eq]
        refine ⟨?_, fun r => ?_, answered⟩
        · rw [State.modPool_pool_same]
          exact Pool.enabled_configured_off _ _ _
        · simp only [State.modPool_pool]
          split <;> simp_all
  case poolQuota =>
    intro q p req limit reserve s hp on ha hreq ok
    refine State.command_gives (exec_poolQuota hp on req limit reserve) ha ?_ rfl
    rw [Option.or_eq_none_iff]
    exact ⟨by simp [firstFail_eq_none, hp, on, hreq], ok⟩
  case region =>
    intro q region qp len rkey remote s ha hr unmapped
    refine ⟨fun size top hqp connected => State.command_gives rfl ha ?_ rfl, State.command_gives rfl ha ?_ rfl⟩
    · simpa [firstFail_eq_none, size, hr, connected, hqp, unmapped] using top
    · simp [firstFail_eq_none, hr, unmapped]
  case policy =>
    intro q mask hold w s ha hhold reserved weights
    refine (State.command_gives rfl ha (by simp [firstFail_eq_none, hhold, reserved, weights]) rfl).gives fun t only answered => ?_
    simp only [only.group_eq, State.foldl_maskedGroups _ _ _ _ _ List.nodup_range, List.mem_range]
    exact ⟨answered, fun g hg on => by simp [hg, on], fun g hg off => by simp [off]⟩

end Sys2Proof.Machine
end
section
/-! PROOFS. Training of a Cuff port (R333 to R335): what entering an entry of the training table leaves of a port, and from it the
rows of the actions (O38). -/

namespace Sys2Proof.Machine

/-! ### The fields of CUF_LINK_STATE -/

section
variable (u : Port) (st g : Nat)

@[simp] theorem Port.setState_state : (u.setState st g).state = st % 8 := by
  rw [Port.state, Port.setState, fld_withFld_other _ _ (by omega) (by omega) (by omega), fld_withFld_same _ _ (by omega) (by omega)]
  rfl

@[simp] theorem Port.setState_gen : (u.setState st g).gen = g % 4 := fld_withFld_same _ _ (by omega) (by omega)

/-- The fields below the generation, and the cause and the lock bits above the state, stand. -/
theorem Port.setState_fld {a b : Nat} (h : a < 27 ∨ 31 < b) : fld (u.setState st g).linkState a b = fld u.linkState a b := by
  rw [Port.setState, fld_withFld_other _ _ (by omega) (by omega) (by omega), fld_withFld_other _ _ (by omega) (by omega) (by omega)]

end

/-- Only CUF_LINK_STATE changes. The word stays abstract in this form, so that no proof has to compare its bits. -/
theorem Port.setState_word (u : Port) (st g : Nat) : ∃ w, u.setState st g = { u with linkState := w } := ⟨_, rfl⟩

@[simp] theorem State.linkChange_port (s : State) (p q : Nat) : (s.linkChange p).port q = s.port q := rfl
@[simp] theorem State.linkChange_mem (s : State) (p : Nat) : (s.linkChange p).mem = s.mem := rfl
@[simp] theorem State.linkChange_xpt (s : State) (p : Nat) : (s.linkChange p).xpt = s.xpt := rfl

/-! ### Entries of the training table (R333, R334) -/

/-- What entering an entry of the training table leaves of a port: all but its state, entry, generation and cause, and what the
action of the entry begins with. -/
structure Port.EntryOnly (u v : Port) : Prop where
  rest : { v with
    linkState := u.linkState, seq := u.seq, expected := u.expected, credits := u.credits, idleSince := u.idleSince
    retriesLeft := u.retriesLeft, entryAt := u.entryAt, entryDeadline := u.entryDeadline, pattern := u.pattern
    firPreset := u.firPreset, txScr := u.txScr, rxScr := u.rxScr } = u
  credits : v.credits = u.credits ∨ v.credits = u.partnerAllot
  low : ∀ a b, a < 21 → fld v.linkState a b = fld u.linkState a b
  locks : fld v.linkState 35 32 = fld u.linkState 35 32

/-- The beginning of an action keeps the fields of CUF_LINK_STATE. -/
theorem Port.begins_linkState (u : Port) (e : TrainEntry) (now : Nat) : (u.begins e now).linkState = u.linkState := by
  unfold Port.begins
  dsimp only
  split <;> rfl

theorem Port.begins_deadline (u : Port) (e : TrainEntry) (now : Nat) :
    (u.begins e now).entryDeadline = some (now + e.timeoutUs * 1000) := by
  unfold Port.begins
  dsimp only
  split <;> rfl

theorem Port.begins_retries (u : Port) (e : TrainEntry) (now : Nat) : (u.begins e now).retriesLeft = u.retriesLeft := by
  unfold Port.begins
  dsimp only
  split <;> rfl

theorem Port.begins_action (u : Port) (e : TrainEntry) (now : Nat) :
    (e.action = 0 → (u.begins e now).pattern = e.param0.toNat) ∧ (e.action = 4 → (u.begins e now).firPreset = e.param0.toNat) ∧
    (e.action = 9 → (u.begins e now).seq = 0 ∧ (u.begins e now).expected = 0 ∧
      (u.begins e now).credits = (u.begins e now).partnerAllot) := by
  refine ⟨fun h => by simp [Port.begins, h], fun h => by simp [Port.begins, h], fun h => by simp [Port.begins, h, Port.frameStart]⟩

theorem Port.begins_entryOnly (u : Port) (e : TrainEntry) (now : Nat) : u.EntryOnly (u.begins e now) where
  rest := by
    unfold Port.begins
    dsimp only
    split <;> rfl
  credits := by
    unfold Port.begins
    dsimp only
    split
    · exact .inl rfl
    · exact .inl rfl
    · exact .inr rfl
    · exact .inl rfl
  low a b _ := by rw [u.begins_linkState]
  locks := by rw [u.begins_linkState]

/-- The state and the generation of a port that has become ACTIVE. -/
theorem Port.active_state (u : Port) (g now : Nat) :
    let v := { u.setState lsActive g with entryDeadline := none, idleSince := now }
    v.state = lsActive ∧ v.gen = g % 4 := by
  have state := u.setState_state lsActive g
  have gen := u.setState_gen lsActive g
  obtain ⟨w, hw⟩ := u.setState_word lsActive g
  rw [hw] at state gen ⊢
  exact ⟨state, gen⟩

/-- The registers of a port that goes to FAILED with a cause. -/
def Port.failed (u : Port) (cause : Nat) : Port :=
  { u.setState lsFailed 0 with linkState := withFld (u.setState lsFailed 0).linkState 39 36 cause, entryDeadline := none }

theorem Port.failed_state (u : Port) (cause : Nat) : (u.failed cause).state = lsFailed := by
  rw [Port.state, Port.failed, fld_withFld_other _ _ (by omega) (by omega) (by omega)]
  exact u.setState_state _ _

theorem Port.failed_cause (u : Port) (cause : Nat) : fld (u.failed cause).linkState 39 36 = cause % 16 :=
  fld_withFld_same _ _ (by omega) (by omega)

/-- A port that has entered entry n, the action not yet begun. -/
def Port.atEntry (u : Port) (n : Nat) (e : TrainEntry) : Port :=
  { u.setState lsTraining 0 with linkState := withFld (u.setState lsTraining 0).linkState 26 21 n, retriesLeft := e.retries }

theorem State.modPort_frame (s : State) (p : Nat) (f : Port → Port) :
    { s.modPort p f with ports := s.ports, lantern := s.lantern } = s := rfl

theorem State.modPort_linkChange_frame (s : State) (p : Nat) (f : Port → Port) :
    { (s.modPort p f).linkChange p with ports := s.ports, lantern := s.lantern } = s := rfl

/-- Entering an entry changes its port, by the number of the entry, and may tell the host. -/
theorem State.enterEntry_eq (s : State) (p n g : Nat) :
    (n = 62 ∧ s.enterEntry p n g =
      (s.modPort p (fun u => { u.setState lsActive g with entryDeadline := none, idleSince := s.now })).linkChange p) ∨
    (n ≠ 62 ∧ s.trainTable[n]? = none ∧ s.enterEntry p n g = (s.modPort p (fun u => u.failed lcTrainingFail)).linkChange p) ∨
    ∃ e, n ≠ 62 ∧ s.trainTable[n]? = some e ∧ s.enterEntry p n g = s.modPort p (fun u => (u.atEntry n e).begins e s.now) := by
  unfold State.enterEntry
  split
  next h => exact .inl ⟨h, rfl⟩
  next h =>
    split
    next k => exact .inr (.inl ⟨h, k, rfl⟩)
    next e k => exact .inr (.inr ⟨e, h, k, rfl⟩)

/-- The port that an entry was entered at. -/
theorem State.enterEntry_port (s : State) (p n g : Nat) :
    (n = 62 ∧ (s.enterEntry p n g).port p = { (s.port p).setState lsActive g with entryDeadline := none, idleSince := s.now }) ∨
    (n ≠ 62 ∧ s.trainTable[n]? = none ∧ (s.enterEntry p n g).port p = (s.port p).failed lcTrainingFail) ∨
    ∃ e, n ≠ 62 ∧ s.trainTable[n]? = some e ∧ (s.enterEntry p n g).port p = ((s.port p).atEntry n e).begins e s.now := by
  rcases s.enterEntry_eq p n g with ⟨h, k⟩ | ⟨h, none, k⟩ | ⟨e, h, some, k⟩
  · exact .inl ⟨h, by rw [k, State.linkChange_port, State.modPort_port_same]⟩
  · exact .inr (.inl ⟨h, none, by rw [k, State.linkChange_port, State.modPort_port_same]⟩)
  · exact .inr (.inr ⟨e, h, some, by rw [k, State.modPort_port_same]⟩)

theorem State.enterEntry_port_other (s : State) {p q : Nat} (n g : Nat) (h : q ≠ p) : (s.enterEntry p n g).port q = s.port q := by
  rcases s.enterEntry_eq p n g with ⟨-, k⟩ | ⟨-, -, k⟩ | ⟨e, -, -, k⟩
  · rw [k, State.linkChange_port, State.modPort_port_other _ _ h]
  · rw [k, State.linkChange_port, State.modPort_port_other _ _ h]
  · rw [k, State.modPort_port_other _ _ h]

/-- Entering an entry changes its port and may tell the host, and changes nothing else. -/
theorem State.enterEntry_frame (s : State) (p n g : Nat) :
    { s.enterEntry p n g with ports := s.ports, lantern := s.lantern } = s := by
  rcases s.enterEntry_eq p n g with ⟨-, k⟩ | ⟨-, -, k⟩ | ⟨e, -, -, k⟩
  · rw [k]
    exact s.modPort_linkChange_frame p _
  · rw [k]
    exact s.modPort_linkChange_frame p _
  · rw [k]
    exact s.modPort_frame p _

theorem Port.atEntry_word (u : Port) (n : Nat) (e : TrainEntry) :
    ∃ w, u.atEntry n e = { u with linkState := w, retriesLeft := e.retries } := by
  unfold Port.atEntry
  obtain ⟨w, hw⟩ := u.setState_word lsTraining 0
  rw [hw]
  exact ⟨_, rfl⟩

theorem Port.atEntry_retries (u : Port) (n : Nat) (e : TrainEntry) : (u.atEntry n e).retriesLeft = e.retries := rfl

theorem Port.failed_word (u : Port) (cause : Nat) : ∃ w, u.failed cause = { u with linkState := w, entryDeadline := none } := by
  unfold Port.failed
  obtain ⟨w, hw⟩ := u.setState_word lsFailed 0
  rw [hw]
  exact ⟨_, rfl⟩

theorem Port.atEntry_fld (u : Port) (n : Nat) (e : TrainEntry) {a b : Nat} (h : a < 21 ∨ 31 < b) :
    fld (u.atEntry n e).linkState a b = fld u.linkState a b := by
  rw [Port.atEntry, fld_withFld_other _ _ (by omega) (by omega) (by omega), Port.setState_fld _ _ _ (by omega)]

theorem Port.atEntry_state (u : Port) (n : Nat) (e : TrainEntry) : (u.atEntry n e).state = lsTraining := by
  rw [Port.state, Port.atEntry, fld_withFld_other _ _ (by omega) (by omega) (by omega)]
  exact u.setState_state _ _

theorem Port.atEntry_entry (u : Port) (n : Nat) (e : TrainEntry) : (u.atEntry n e).entry = n % 64 :=
  fld_withFld_same _ _ (by omega) (by omega)

theorem Port.failed_fld (u : Port) (cause : Nat) {a b : Nat} (h : a < 27 ∨ 31 < b ∧ a < 36) :
    fld (u.failed cause).linkState a b = fld u.linkState a b := by
  rw [Port.failed, fld_withFld_other _ _ (by omega) (by omega) (by omega), Port.setState_fld _ _ _ (by omega)]

theorem Port.setState_entryOnly (u : Port) (st g now : Nat) :
    u.EntryOnly { u.setState st g with entryDeadline := none, idleSince := now } := by
  have kept {a b : Nat} := u.setState_fld st g (a := a) (b := b)
  obtain ⟨w, hw⟩ := u.setState_word st g
  rw [hw] at kept ⊢
  exact ⟨rfl, .inl rfl, fun _ _ h => kept (by omega), kept (by omega)⟩

theorem Port.failed_entryOnly (u : Port) (cause : Nat) : u.EntryOnly (u.failed cause) := by
  have kept {a b : Nat} := u.failed_fld cause (a := a) (b := b)
  obtain ⟨w, hw⟩ := u.failed_word cause
  rw [hw] at kept ⊢
  exact ⟨rfl, .inl rfl, fun _ _ h => kept (by omega), kept (by omega)⟩

theorem Port.entered_entryOnly (u : Port) (n : Nat) (e : TrainEntry) (now : Nat) : u.EntryOnly ((u.atEntry n e).begins e now) := by
  have kept {a b : Nat} := u.atEntry_fld n e (a := a) (b := b)
  obtain ⟨w, hw⟩ := u.atEntry_word n e
  rw [hw] at kept ⊢
  obtain ⟨rest, credits, low, locks⟩ := ({ u with linkState := w, retriesLeft := e.retries } : Port).begins_entryOnly e now
  exact ⟨(congrArg (fun v : Port => { v with linkState := u.linkState, retriesLeft := u.retriesLeft }) rest :),
    credits, fun a b h => (low a b h).trans (kept (by omega)), locks.trans (kept (by omega))⟩

theorem State.enterEntry_entryOnly (s : State) (p n g : Nat) : (s.port p).EntryOnly ((s.enterEntry p n g).port p) := by
  rcases s.enterEntry_port p n g with ⟨-, k⟩ | ⟨-, -, k⟩ | ⟨e, -, -, k⟩
  · rw [k]
    exact Port.setState_entryOnly _ _ _ _
  · rw [k]
    exact Port.failed_entryOnly _ _
  · rw [k]
    exact Port.entered_entryOnly _ _ _ _

/-- Entering an entry of the training table is what R333 says. -/
theorem State.enterEntry_trainsTo (s : State) (p n g : Nat) : TrainsTo s (s.enterEntry p n g) p n g := by
  rcases s.enterEntry_port p n g with ⟨h, k⟩ | ⟨h, none, k⟩ | ⟨e, h, some, k⟩
  · refine ⟨fun _ => ?_, fun ne => absurd h ne, fun _ ne => absurd h ne⟩
    rw [k]
    exact Port.active_state _ _ _
  · refine ⟨fun eq => absurd eq h, fun _ _ => ?_, fun e _ some => by simp [none] at some⟩
    rw [k]
    exact ⟨Port.failed_state _ _, Port.failed_cause _ _⟩
  · refine ⟨fun eq => absurd eq h, fun _ none => by simp [none] at some, fun f _ same => ?_⟩
    obtain rfl : e = f := Option.some.inj (some.symm.trans same)
    unfold ActionBegun
    rw [k, Port.begins_deadline, Port.begins_retries]
    refine ⟨?_, ?_, Port.atEntry_retries _ _ _, rfl, Port.begins_action _ _ _⟩
    · rw [Port.state, Port.begins_linkState]
      exact Port.atEntry_state _ _ _
    · rw [Port.entry, Port.begins_linkState]
      exact Port.atEntry_entry _ _ _

/-- Training from another state with the same table at the same time. -/
theorem TrainsTo.of_before {s u t : State} {p n g : Nat} (h : TrainsTo u t p n g) (table : u.trainTable = s.trainTable)
    (now : u.now = s.now) : TrainsTo s t p n g := by
  unfold TrainsTo at h ⊢
  rwa [table, now] at h

/-- A port stands at an entry only in TRAINING, with the entry's number in CUF_LINK_STATE. -/
theorem State.trainEntry_state {s : State} {p : Nat} {e : TrainEntry} (h : s.trainEntry p = some e) :
    (s.port p).state = lsTraining := by
  unfold State.trainEntry at h
  split at h
  next k => exact k.1
  next => cases h

/-- A failed action is repeated or leads on to next_fail. -/
theorem State.trainFail_fails {s : State} {p : Nat} {e : TrainEntry} (h : s.trainEntry p = some e) :
    TrainFails s (s.trainFail p e) p e := by
  unfold State.trainFail
  refine ⟨fun left => ?_, fun none => ?_⟩
  · dsimp only
    rw [if_neg left]
    unfold ActionBegun
    rw [State.setPort_port_same, Port.begins_deadline, Port.begins_retries]
    refine ⟨?_, ?_, rfl, rfl, Port.begins_action _ _ _⟩
    · rw [Port.state, Port.begins_linkState]
      exact State.trainEntry_state h
    · rw [Port.entry, Port.begins_linkState]
      rfl
  · dsimp only
    rw [if_pos none]
    exact s.enterEntry_trainsTo _ _ _

theorem TrainFails.of_before {s u t : State} {p : Nat} {e : TrainEntry} (h : TrainFails u t p e) (table : u.trainTable = s.trainTable)
    (now : u.now = s.now) (retries : (u.port p).retriesLeft = (s.port p).retriesLeft) (entry : (u.port p).entry = (s.port p).entry)
    (negotiated : (u.port p).negotiated = (s.port p).negotiated) : TrainFails s t p e := by
  unfold TrainFails entryGen at h ⊢
  rw [now, retries, entry, negotiated] at h
  exact ⟨h.1, fun z => (h.2 z).of_before table now⟩

section
variable {s : State} {p code : Nat} {e : TrainEntry} {us : TrainEntry → Nat} {ok : TrainEntry → Bool} {f : Port → Port}

theorem State.trainResult_ok (h : s.trainEntry p = some e) (action : e.action = code) (ran : (s.port p).entryAt + us e * 1000 ≤ s.now)
    (good : ok e = true) : s.trainResult p code us ok f = (s.modPort p f).trainOk p e := by
  unfold State.trainResult
  rw [h]
  dsimp only
  rw [if_neg (by omega), if_pos good]

theorem State.trainResult_fail (h : s.trainEntry p = some e) (action : e.action = code)
    (ran : (s.port p).entryAt + us e * 1000 ≤ s.now) (bad : ok e = false) : s.trainResult p code us ok f = s.trainFail p e := by
  unfold State.trainResult
  rw [h]
  dsimp only
  rw [if_neg (by omega), if_neg (by simp [bad])]

/-- An action that succeeds moves the port on to next_ok, from the port as its result leaves it. -/
theorem State.trainOk_trainsTo (negotiated : (f (s.port p)).negotiated = (s.port p).negotiated) :
    TrainsTo s ((s.modPort p f).trainOk p e) p e.nextOk (entryGen e (s.port p)) ∧
      (f (s.port p)).EntryOnly (((s.modPort p f).trainOk p e).port p) := by
  have gen : entryGen e ((s.modPort p f).port p) = entryGen e (s.port p) := by
    rw [State.modPort_port_same, entryGen, negotiated, entryGen]
  unfold State.trainOk
  rw [gen]
  have only := (s.modPort p f).enterEntry_entryOnly p e.nextOk (entryGen e (s.port p))
  rw [State.modPort_port_same] at only
  exact ⟨((s.modPort p f).enterEntry_trainsTo _ _ _).of_before rfl rfl, only⟩

/-- A training row whose action succeeds. -/
theorem trainResult_gives_ok {i : Instr} {P : State → Prop} (run : exec i s = .next (s.trainResult p code us ok f))
    (h : s.trainEntry p = some e) (action : e.action = code) (ran : (s.port p).entryAt + us e * 1000 ≤ s.now) (good : ok e = true)
    (negotiated : (f (s.port p)).negotiated = (s.port p).negotiated)
    (k : ∀ t, TrainsTo s t p e.nextOk (entryGen e (s.port p)) → (f (s.port p)).EntryOnly (t.port p) → P t) : Gives i s P := by
  rw [State.trainResult_ok h action ran good] at run
  obtain ⟨on, only⟩ := State.trainOk_trainsTo (s := s) (e := e) negotiated
  exact ⟨_, run, k _ on only⟩

/-- A training row whose action fails. -/
theorem trainResult_gives_fail {i : Instr} (run : exec i s = .next (s.trainResult p code us ok f))
    (h : s.trainEntry p = some e) (action : e.action = code) (ran : (s.port p).entryAt + us e * 1000 ≤ s.now) (bad : ok e = false) :
    Gives i s (fun t => TrainFails s t p e) := by
  rw [State.trainResult_fail h action ran bad] at run
  exact ⟨_, run, State.trainFail_fails h⟩

end

section
variable {u v : Port} (h : u.EntryOnly v)
include h

theorem Port.EntryOnly.reversed_eq : v.reversed = u.reversed := (congrArg Port.reversed h.rest :)
theorem Port.EntryOnly.inverted_eq : v.inverted = u.inverted := (congrArg Port.inverted h.rest :)
theorem Port.EntryOnly.equalised_eq : v.equalised = u.equalised := (congrArg Port.equalised h.rest :)
theorem Port.EntryOnly.negotiated_eq : v.negotiated = u.negotiated := (congrArg Port.negotiated h.rest :)
theorem Port.EntryOnly.target_eq : v.target = u.target := (congrArg Port.target h.rest :)
theorem Port.EntryOnly.partnerMask_eq : v.partnerMask = u.partnerMask := (congrArg Port.partnerMask h.rest :)
theorem Port.EntryOnly.partnerAllot_eq : v.partnerAllot = u.partnerAllot := (congrArg Port.partnerAllot h.rest :)
theorem Port.EntryOnly.seeds_eq : v.seeds = u.seeds := (congrArg Port.seeds h.rest :)
theorem Port.EntryOnly.sentBlock_eq : v.sentBlock = u.sentBlock := (congrArg Port.sentBlock h.rest :)

end

/-- EQ_ADAPT at a port in training. -/
theorem exec_eqAdapt {s : State} {p : PortId} {e : TrainEntry} (h : s.trainEntry p = some e) (iterations : Option Nat) :
    exec (.eqAdapt p iterations) s = .next (s.trainResult p 5 (fun _ => 0) (fun e => iterations.any (fun n => decide (n ≤ e.param0.toNat)))
      (fun u => { u with equalised := entryGen e u })) := by
  have arm : exec (.eqAdapt p iterations) s = execEqAdapt p iterations s := rfl
  rw [arm, execEqAdapt, h]
  cases iterations <;> rfl

/-- What a training row does at a port that stands at an entry of its action (R334). -/
theorem trainingRows_moveOn (p : PortId) (s : State) (e : TrainEntry) (h : s.trainEntry p = some e) (at' : (s.port p).entryAt ≤ s.now) :
     let ok (i : Instr) := Gives i s (fun t => TrainsTo s t p e.nextOk (entryGen e (s.port p)))
     let fails (i : Instr) := Gives i s (fun t => TrainFails s t p e)
     (e.action = 0 → ok (.detect p true) ∧ fails (.detect p false) ∧
       Gives (.detect p true) s (fun t => fld (t.port p).linkState 35 32 = 15)) ∧
     (e.action = 1 → ∀ n reversed inverted,
       (n ≤ e.param0.toNat → Gives (.deskew p ⟨n, reversed, inverted⟩) s (fun t => TrainsTo s t p e.nextOk (entryGen e (s.port p)) ∧
         (t.port p).reversed = reversed ∧ (t.port p).inverted = inverted)) ∧
       (e.param0.toNat < n → fails (.deskew p ⟨n, reversed, inverted⟩))) ∧
     (e.action = 3 → ok (.setGen p true) ∧ fails (.setGen p false)) ∧
     (e.action = 4 → ok (.eqPreset p)) ∧
     (e.action = 5 → fails (.eqAdapt p none) ∧
       (∀ n, n ≤ e.param0.toNat → Gives (.eqAdapt p (some n)) s (fun t => TrainsTo s t p e.nextOk (entryGen e (s.port p)) ∧
         (t.port p).equalised = entryGen e (s.port p))) ∧
       (∀ n, e.param0.toNat < n → fails (.eqAdapt p (some n)))) ∧
     (e.action = 6 → (s.port p).entryAt + e.param0.toNat * 1000 ≤ s.now → ∀ ber,
       (ber.all (fun r => ratioAtMost r e.param1) = true → ok (.berCheck p ber)) ∧
       (ber.all (fun r => ratioAtMost r e.param1) = false → fails (.berCheck p ber))) ∧
     (e.action = 7 → (s.port p).entryAt + e.param0.toNat * 1000 ≤ s.now → ok (.delay p)) ∧
     (e.action = 9 → ok (.linkUp p true) ∧ fails (.linkUp p false)) ∧
     (∀ due, (s.port p).entryDeadline = some due → due ≤ s.now → fails (.trainingTimeout p)) := by
  have begun : (s.port p).entryAt + 0 * 1000 ≤ s.now := by omega
  refine ⟨fun a => ⟨?_, ?_, ?_⟩, fun a n reversed inverted => ⟨fun few => ?_, fun many => ?_⟩, fun a => ⟨?_, ?_⟩, fun a => ?_,
    fun a => ⟨?_, fun n few => ?_, fun n many => ?_⟩, fun a ran ber => ⟨fun good => ?_, fun bad => ?_⟩, fun a ran => ?_,
    fun a => ⟨?_, ?_⟩, fun due deadline passed => ?_⟩
  · exact trainResult_gives_ok rfl h a begun rfl rfl fun t on _ => on
  · exact trainResult_gives_fail rfl h a begun rfl
  · refine trainResult_gives_ok rfl h a begun rfl rfl fun t _ only => ?_
    rw [only.locks, fld_withFld_same _ _ (by omega) (by omega)]
    rfl
  · exact trainResult_gives_ok rfl h a begun (decide_eq_true few) rfl fun t on only => ⟨on, only.reversed_eq, only.inverted_eq⟩
  · exact trainResult_gives_fail rfl h a begun (decide_eq_false (not_le.2 many))
  · exact trainResult_gives_ok rfl h a begun rfl rfl fun t on _ => on
  · exact trainResult_gives_fail rfl h a begun rfl
  · exact trainResult_gives_ok rfl h a begun rfl rfl fun t on _ => on
  · refine trainResult_gives_fail (exec_eqAdapt h none) h a begun rfl
  · exact trainResult_gives_ok (exec_eqAdapt h (some n)) h a begun (decide_eq_true few) rfl fun t on only => ⟨on, only.equalised_eq⟩
  · exact trainResult_gives_fail (exec_eqAdapt h (some n)) h a begun (decide_eq_false (not_le.2 many))
  · exact trainResult_gives_ok rfl h a ran good rfl fun t on _ => on
  · exact trainResult_gives_fail rfl h a ran bad
  · exact trainResult_gives_ok rfl h a ran rfl rfl fun t on _ => on
  · exact trainResult_gives_ok rfl h a begun rfl rfl fun t on _ => on
  · exact trainResult_gives_fail rfl h a begun rfl
  · refine ⟨_, ?_, State.trainFail_fails h⟩
    have arm : exec (.trainingTimeout p) s = execTrainingTimeout p s := rfl
    rw [arm, execTrainingTimeout, h, deadline]
    simp [not_lt.2 passed]

theorem State.trainFail_entryOnly (s : State) (p : Nat) (e : TrainEntry) : (s.port p).EntryOnly ((s.trainFail p e).port p) := by
  unfold State.trainFail
  dsimp only
  split
  · exact s.enterEntry_entryOnly _ _ _
  · rw [State.setPort_port_same]
    obtain ⟨rest, credits, low, locks⟩ :=
      ({ s.port p with retriesLeft := (s.port p).retriesLeft - 1 } : Port).begins_entryOnly e s.now
    exact ⟨(congrArg (fun v : Port => { v with retriesLeft := (s.port p).retriesLeft }) rest :), credits, low, locks⟩

/-! ### Negotiation (R334, R335) -/

theorem ite_keeps {α : Type} (f : State → α) (c : Prop) {d : Decidable c} {t u : State} (h : f t = f u) :
    f (if c then t else u) = f u := by
  split
  · exact h
  · rfl

/-- The port that a partner's capability block settles. -/
def Port.settled (u : Port) (b : CapBlock) (own : CapBlock) : Port :=
  { u with
    sentBlock := some own, linkState := withFld (withFld u.linkState 20 16 b.port) 15 0 b.node.toNat, partnerMask := b.genMask
    partnerAllot := allotments b.allot, credits := allotments b.allot, seeds := b.seeds }

theorem Port.settled_word (u : Port) (b own : CapBlock) : ∃ w, u.settled b own = { u with
    sentBlock := some own, linkState := w, partnerMask := b.genMask, partnerAllot := allotments b.allot
    credits := allotments b.allot, seeds := b.seeds } := ⟨_, rfl⟩

/-- What is negotiated with, and what the entry goes on from, is not what the partner's block settles. -/
theorem Port.settled_own (u : Port) (b own : CapBlock) :
    (u.settled b own).genMask = u.genMask ∧ (u.settled b own).target = u.target := by
  obtain ⟨w, hw⟩ := u.settled_word b own
  rw [hw]
  exact ⟨rfl, rfl⟩

/-- A dropped cell counts in transport's register. -/
theorem State.countDrop_xpt (s : State) (hi lo : Nat) : ∃ x, s.countDrop hi lo = { s with xpt := x } := ⟨_, rfl⟩

theorem State.countDrop_port (s : State) (hi lo p : Nat) : (s.countDrop hi lo).port p = s.port p := by
  obtain ⟨x, hx⟩ := s.countDrop_xpt hi lo
  rw [hx]
  rfl

theorem State.countDrop_trainTable (s : State) (hi lo : Nat) : (s.countDrop hi lo).trainTable = s.trainTable := by
  obtain ⟨x, hx⟩ := s.countDrop_xpt hi lo
  rw [hx]

theorem State.countDrop_now (s : State) (hi lo : Nat) : (s.countDrop hi lo).now = s.now := by
  obtain ⟨x, hx⟩ := s.countDrop_xpt hi lo
  rw [hx]

/-- The device once the partner's block is settled: its port, and perhaps the count of a miswired port. -/
theorem State.exchanged_settled (s : State) (p : Nat) (e : TrainEntry) (b : CapBlock) :
    ∃ t : State, t.port p = (s.port p).settled b (s.ownBlock p) ∧ t.trainTable = s.trainTable ∧ t.now = s.now ∧
      (negotiatedGen (s.port p).genMask b.genMask.toNat (s.port p).target = none →
        (s.sendBlock p).exchanged p e b = t.portFailed p lcNoCommonGen) ∧
      ∀ g, negotiatedGen (s.port p).genMask b.genMask.toNat (s.port p).target = some g →
        (s.sendBlock p).exchanged p e b = (t.modPort p (fun u => { u with negotiated := g })).trainOk p e := by
  unfold State.exchanged
  extract_lets w miss t
  have port : t.port p = (s.port p).settled b (s.ownBlock p) := by
    have settled : w.port p = (s.port p).settled b (s.ownBlock p) := by
      rw [State.modPort_port_same, State.sendBlock, State.modPort_port_same]
      rfl
    rw [← settled]
    exact ite_keeps (fun u : State => u.port p) _ (w.countDrop_port 3 0 p)
  have mask : (t.port p).genMask = (s.port p).genMask := port ▸ (Port.settled_own _ b _).1
  have target : (t.port p).target = (s.port p).target := port ▸ (Port.settled_own _ b _).2
  refine ⟨t, port, ite_keeps State.trainTable _ (w.countDrop_trainTable 3 0), ite_keeps State.now _ (w.countDrop_now 3 0), fun none => ?_, fun g some => ?_⟩
  · rw [mask, target, none]
  · rw [mask, target, some]

theorem State.portFailed_port (s : State) (p cause : Nat) : (s.portFailed p cause).port p = (s.port p).failed cause := by
  unfold State.portFailed
  rw [State.linkChange_port, State.modPort_port_same]
  rfl

theorem Port.failed_noCommonGen (u : Port) :
    (u.failed lcNoCommonGen).state = lsFailed ∧ fld (u.failed lcNoCommonGen).linkState 39 36 = lcNoCommonGen :=
  ⟨u.failed_state _, u.failed_cause _⟩

/-- The partner's node and port, as CUF_LINK_STATE shows them. -/
theorem Port.settled_partner (u : Port) (b own : CapBlock) :
    fld (u.settled b own).linkState 15 0 = b.node.toNat ∧ fld (u.settled b own).linkState 20 16 = b.port % 32 := by
  refine ⟨?_, ?_⟩
  · rw [Port.settled, fld_withFld_same _ _ (by omega) (by omega)]
    exact Nat.mod_eq_of_lt b.node.isLt
  · rw [Port.settled, fld_withFld_other _ _ (by omega) (by omega) (by omega), fld_withFld_same _ _ (by omega) (by omega)]
    rfl

/-- The action of an entry that settles the generation g succeeds. -/
theorem State.trainOk_negotiated (s : State) (p : Nat) (e : TrainEntry) (g : Nat) :
    TrainsTo s ((s.modPort p (fun u => { u with negotiated := g })).trainOk p e) p e.nextOk (if e.gen = 0 then g else e.gen) ∧
      { s.port p with negotiated := g }.EntryOnly (((s.modPort p (fun u => { u with negotiated := g })).trainOk p e).port p) := by
  have gen : entryGen e ((s.modPort p (fun u => { u with negotiated := g })).port p) = if e.gen = 0 then g else e.gen := by
    rw [State.modPort_port_same, entryGen]
  unfold State.trainOk
  rw [gen]
  have only := (s.modPort p (fun u => { u with negotiated := g })).enterEntry_entryOnly p e.nextOk (if e.gen = 0 then g else e.gen)
  rw [State.modPort_port_same] at only
  exact ⟨(State.enterEntry_trainsTo _ _ _ _).of_before rfl rfl, only⟩

/-- What EXCHANGE and FALLBACK do at a port that stands at their entry (R334, R335). -/
theorem exchange_moveOn (p : PortId) (s : State) (e : TrainEntry) (h : s.trainEntry p = some e) (b : CapBlock) (a : e.action = 2) :
    (∀ g, negotiatedGen (s.port p).genMask b.genMask.toNat (s.port p).target = some g →
      Gives (.exchange p (some b)) s (fun t => TrainsTo s t p e.nextOk (if e.gen = 0 then g else e.gen) ∧
        (t.port p).negotiated = g ∧ (t.port p).partnerMask = b.genMask ∧ (t.port p).partnerAllot = allotments b.allot ∧
        (t.port p).seeds = b.seeds ∧ (t.port p).sentBlock = some (s.ownBlock p) ∧
        fld (t.port p).linkState 15 0 = b.node.toNat ∧ fld (t.port p).linkState 20 16 = b.port % 32)) ∧
    (negotiatedGen (s.port p).genMask b.genMask.toNat (s.port p).target = none →
      Gives (.exchange p (some b)) s (fun t => (t.port p).state = lsFailed ∧
        fld (t.port p).linkState 39 36 = lcNoCommonGen)) := by
  obtain ⟨t, port, table, now, fails, moves⟩ := s.exchanged_settled p e b
  have run : exec (.exchange p (some b)) s = .next ((s.sendBlock p).exchanged p e b) := by
    have arm : exec (.exchange p (some b)) s = execExchange p (some b) s := rfl
    rw [arm, execExchange, h]
    simp [a]
  refine ⟨fun g hg => ?_, fun none => ?_⟩
  · refine ⟨_, run.trans (congrArg _ (moves g hg)), ?_⟩
    obtain ⟨on, only⟩ := t.trainOk_negotiated p e g
    rw [port] at only
    have partner := (s.port p).settled_partner b (s.ownBlock p)
    obtain ⟨w, hw⟩ := (s.port p).settled_word b (s.ownBlock p)
    rw [hw] at only partner
    exact ⟨on.of_before table now, only.negotiated_eq, only.partnerMask_eq, only.partnerAllot_eq, only.seeds_eq, only.sentBlock_eq,
      (only.low _ _ (by omega)).trans partner.1, (only.low _ _ (by omega)).trans partner.2⟩
  · refine ⟨_, run.trans (congrArg _ (fails none)), ?_⟩
    dsimp only
    rw [State.portFailed_port]
    exact Port.failed_noCommonGen _

theorem fallback_moveOn (p : PortId) (s : State) (e : TrainEntry) (h : s.trainEntry p = some e) (a : e.action = 8)
    (lower : 2 ≤ (s.port p).target) :
    (∀ g, negotiatedGen (s.port p).genMask (s.port p).partnerMask.toNat ((s.port p).target - 1) = some g →
      Gives (.fallback p) s (fun t => TrainsTo s t p e.nextOk (if e.gen = 0 then g else e.gen) ∧ (t.port p).negotiated = g ∧
        (t.port p).target = (s.port p).target - 1)) ∧
    (negotiatedGen (s.port p).genMask (s.port p).partnerMask.toNat ((s.port p).target - 1) = none →
      Gives (.fallback p) s (fun t => (t.port p).state = lsFailed ∧ fld (t.port p).linkState 39 36 = lcNoCommonGen)) := by
  have arm : exec (.fallback p) s = execFallback p s := rfl
  have left : (s.port p).target - 1 ≠ 0 := by omega
  have genMask : ({ s.port p with target := (s.port p).target - 1 } : Port).genMask = (s.port p).genMask := rfl
  refine ⟨fun g hg => ?_, fun none => ?_⟩
  · have run : exec (.fallback p) s = .next (((s.modPort p (fun u => { u with target := u.target - 1 })).modPort p
        (fun v => { v with negotiated := g })).trainOk p e) := by
      rw [arm, execFallback, h]
      simp [a, left, genMask, hg]
    obtain ⟨on, only⟩ := (s.modPort p (fun u => { u with target := u.target - 1 })).trainOk_negotiated p e g
    rw [State.modPort_port_same] at only
    exact ⟨_, run, on.of_before rfl rfl, only.negotiated_eq, only.target_eq⟩
  · have run : exec (.fallback p) s =
        .next ((s.modPort p (fun u => { u with target := u.target - 1 })).portFailed p lcNoCommonGen) := by
      rw [arm, execFallback, h]
      simp [a, left, genMask, none]
    refine ⟨_, run, ?_⟩
    dsimp only
    rw [State.portFailed_port]
    exact Port.failed_noCommonGen _

/-- Without the partner's block the own one has been sent all the same. -/
theorem exchange_fails (p : PortId) (s : State) (e : TrainEntry) (h : s.trainEntry p = some e) (a : e.action = 2) :
    Gives (.exchange p none) s (fun t => TrainFails s t p e ∧ (t.port p).sentBlock = some (s.ownBlock p)) := by
  have arm : exec (.exchange p none) s = execExchange p none s := rfl
  have run : exec (.exchange p none) s = .next ((s.sendBlock p).trainFail p e) := by
    rw [arm, execExchange, h]
    simp [a]
  have port : (s.sendBlock p).port p = { s.port p with sentBlock := some (s.ownBlock p) } := by
    rw [State.sendBlock, State.modPort_port_same]
    rfl
  have stays : (s.sendBlock p).trainEntry p = some e := by
    unfold State.trainEntry at h ⊢
    rw [port]
    exact h
  refine ⟨_, run, (State.trainFail_fails stays).of_before rfl rfl ?_ ?_ ?_, ?_⟩
  · rw [port]
  · rw [port]; rfl
  · rw [port]
  · have only := (s.sendBlock p).trainFail_entryOnly p e
    rw [only.sentBlock_eq, port]

/-- Settles O38: an action's row is its success or its failure, and the entry that follows is entered as R333 says. -/
theorem trainingActionsMoveOn : Obligations.TrainingActionsMoveOn :=
  ⟨trainingRows_moveOn, fun p s e h => ⟨fun b a => exchange_moveOn p s e h b a, exchange_fails p s e h, fallback_moveOn p s e h⟩⟩

end Sys2Proof.Machine
end
section
/-! PROOFS. Link resets of a Cuff port (R338): what a reset leaves of a port, and loss of lock (O39). -/

namespace Sys2Proof.Machine

/-! ### Link resets (R338) -/

section
variable {u v : Port} (h : u.EntryOnly v)
include h

theorem Port.EntryOnly.replay_eq : v.replay = u.replay := (congrArg Port.replay h.rest :)
theorem Port.EntryOnly.waiting_eq : v.waiting = u.waiting := (congrArg Port.waiting h.rest :)
theorem Port.EntryOnly.input_eq : v.input = u.input := (congrArg Port.input h.rest :)
theorem Port.EntryOnly.inForce_eq : v.inForce = u.inForce := (congrArg Port.inForce h.rest :)
theorem Port.EntryOnly.cfg_eq : v.cfg = u.cfg := (congrArg Port.cfg h.rest :)
theorem Port.EntryOnly.linkErr_eq : v.linkErr = u.linkErr := (congrArg Port.linkErr h.rest :)

end

/-- The port from which training begins: the configuration written since is in force (R332, R337). -/
def Port.restarted (u : Port) : Port :=
  { u with
    target := 3, negotiated := 0, inForce := u.cfg, allot := allotments (creditFields u.creditCfg), partnerAllot := []
    linkState := withFld u.linkState 35 32 0 }

theorem Port.restarted_word (u : Port) : ∃ w, u.restarted = { u with
    target := 3, negotiated := 0, inForce := u.cfg, allot := allotments (creditFields u.creditCfg), partnerAllot := []
    linkState := w } := ⟨_, rfl⟩

theorem Port.restarted_cause (u : Port) : fld u.restarted.linkState 39 36 = fld u.linkState 39 36 :=
  fld_withFld_other _ _ (by omega) (by omega) (by omega)

/-- Training begins at entry 0, with the port as the end of its tests leaves it. -/
theorem State.startTraining_eq (s : State) (p : Nat) :
    s.startTraining p = ((s.testEnds p).modPort p Port.restarted).enterEntry p 0 0 := rfl

theorem State.testEnds_of_state (s : State) (p : Nat) (h : (s.port p).state ≠ lsTest) : s.testEnds p = s := by
  rw [State.testEnds, if_pos h]

/-- The cause of an entry that exists stands. -/
theorem State.enterEntry_cause (s : State) (p n g : Nat) (h : n ≠ 62) (k : s.trainTable[n]? ≠ none) :
    fld ((s.enterEntry p n g).port p).linkState 39 36 = fld (s.port p).linkState 39 36 := by
  rcases s.enterEntry_port p n g with ⟨eq, -⟩ | ⟨-, none, -⟩ | ⟨e, -, -, port⟩
  · exact absurd eq h
  · exact absurd none k
  · rw [port, Port.begins_linkState, Port.atEntry_fld _ _ _ (by omega)]

/-- A port after what a link reset discards, with the reset's cause and count. -/
def Port.afterReset (u : Port) (cause : Nat) : Port :=
  { u.discarded with linkState := withFld u.linkState 39 36 cause, linkErr := bumpFld u.linkErr 7 0 1 }

/-- The cells that a reset gives back to transport. -/
def Port.returned (u : Port) : List Cell := (without u.input u.struck ++ u.waiting).map (·.cell)

theorem Port.afterReset_words (u : Port) (cause : Nat) : ∃ w n, u.afterReset cause = { u.discarded with linkState := w, linkErr := n } :=
  ⟨_, _, rfl⟩

theorem Port.afterReset_state (u : Port) (cause : Nat) : (u.afterReset cause).state = u.state :=
  fld_withFld_other _ _ (by omega) (by omega) (by omega)

theorem Port.afterReset_cause (u : Port) (cause : Nat) : fld (u.afterReset cause).linkState 39 36 = cause % 16 :=
  fld_withFld_same _ _ (by omega) (by omega)

theorem State.linkReset_eq (s : State) (p cause : Nat) :
    s.linkReset p cause = ((((s.setPort p (s.port p).discarded).inject (s.port p).returned).modPort p
      (fun u => { u with linkState := withFld u.linkState 39 36 cause, linkErr := bumpFld u.linkErr 7 0 1 })).startTraining p).linkChange p := rfl

section
variable (s : State) (cs : List Cell)

theorem State.inject_port (p : Nat) : (s.inject cs).port p = s.port p := rfl
theorem State.inject_trainTable : (s.inject cs).trainTable = s.trainTable := rfl
theorem State.inject_now : (s.inject cs).now = s.now := rfl
theorem State.inject_mem : (s.inject cs).mem = s.mem := rfl
theorem State.inject_xpt : (s.inject cs).xpt = { s.xpt with injected := s.xpt.injected ++ cs } := rfl

end

/-- What giving cells back and changing a port leave. -/
theorem State.setInjectMod (s : State) (p : Nat) (v : Port) (cs : List Cell) (f g : Port → Port) :
    let t := (((s.setPort p v).inject cs).modPort p f).modPort p g
    t.port p = g (f v) ∧ t.trainTable = s.trainTable ∧ t.now = s.now ∧ t.mem = s.mem ∧
      t.xpt = { s.xpt with injected := s.xpt.injected ++ cs } := by
  intro t
  refine ⟨?_, ?_, ?_, ?_, ?_⟩
  · rw [State.modPort_port_same, State.modPort_port_same, State.inject_port, State.setPort_port_same]
  · rw [State.modPort_trainTable, State.modPort_trainTable, State.inject_trainTable, State.setPort_trainTable]
  · rw [State.modPort_now, State.modPort_now, State.inject_now, State.setPort_now]
  · rw [State.modPort_mem, State.modPort_mem, State.inject_mem, State.setPort_mem]
  · rw [State.modPort_xpt, State.modPort_xpt, State.inject_xpt, State.setPort_xpt]

theorem State.enterEntry_mem (s : State) (p n g : Nat) : (s.enterEntry p n g).mem = s.mem :=
  (congrArg State.mem (s.enterEntry_frame p n g) :)

theorem State.enterEntry_xpt (s : State) (p n g : Nat) : (s.enterEntry p n g).xpt = s.xpt :=
  (congrArg State.xpt (s.enterEntry_frame p n g) :)

/-- What a link reset leaves of a port that is not in TEST. -/
theorem State.linkReset_leaves (s : State) (p cause : Nat) (h : (s.port p).state ≠ lsTest) :
    let t := s.linkReset p cause
    TrainsTo s t p 0 0 ∧ ((s.port p).afterReset cause).restarted.EntryOnly (t.port p) ∧
      (s.trainTable ≠ [] → fld (t.port p).linkState 39 36 = cause % 16) ∧
      t.xpt = { s.xpt with injected := s.xpt.injected ++ (s.port p).returned } ∧ t.mem = s.mem := by
  intro t
  obtain ⟨port, table, now, mem, xpt⟩ := s.setInjectMod p (s.port p).discarded (s.port p).returned
    (fun u => { u with linkState := withFld u.linkState 39 36 cause, linkErr := bumpFld u.linkErr 7 0 1 }) Port.restarted
  have notTest : (((((s.setPort p (s.port p).discarded).inject (s.port p).returned).modPort p
      (fun u => { u with linkState := withFld u.linkState 39 36 cause, linkErr := bumpFld u.linkErr 7 0 1 })).port p).state) ≠
        lsTest := by
    rw [State.modPort_port_same, State.inject_port, State.setPort_port_same]
    exact fun test => h (((s.port p).afterReset_state cause).symm.trans test)
  have run := s.linkReset_eq p cause
  rw [State.startTraining_eq, State.testEnds_of_state _ _ notTest] at run
  generalize (((s.setPort p (s.port p).discarded).inject (s.port p).returned).modPort p _).modPort p Port.restarted = r at *
  rw [show t = (r.enterEntry p 0 0).linkChange p from run]
  have only := r.enterEntry_entryOnly p 0 0
  rw [port] at only
  refine ⟨(r.enterEntry_trainsTo p 0 0).of_before table now, only, fun entries => ?_, ?_, ?_⟩
  · have k : r.trainTable[0]? ≠ none := by
      rw [table]
      simpa using entries
    rw [State.linkChange_port, r.enterEntry_cause p 0 0 (by omega) k, port, Port.restarted_cause]
    exact Port.afterReset_cause _ _
  · rw [State.linkChange_xpt, State.enterEntry_xpt, xpt]
  · rw [State.linkChange_mem, State.enterEntry_mem, mem]

/-- Settles O39: an ACTIVE or Quiet port is not in TEST, and loss of lock resets its link. -/
theorem lossOfLockResetsLink : Obligations.LossOfLockResetsLink := by
  intro p lanes s up
  have run : exec (.lossOfLock p lanes) s = .next (s.linkReset p lcLossOfLock) := by
    have arm : exec (.lossOfLock p lanes) s = execLossOfLock p lanes s := rfl
    rw [arm, execLossOfLock, State.lossOfLock, if_pos up]
  have notTest : (s.port p).state ≠ lsTest := by
    rcases up with h | h <;> rw [h] <;> decide
  obtain ⟨on, only, cause, xpt, mem⟩ := s.linkReset_leaves p lcLossOfLock notTest
  obtain ⟨w, hw⟩ := ((s.port p).afterReset lcLossOfLock).restarted_word
  obtain ⟨x, n, hx⟩ := (s.port p).afterReset_words lcLossOfLock
  rw [hw] at only
  have credits : ((s.linkReset p lcLossOfLock).port p).credits = [] := by
    rcases only.credits with h | h
    · rw [h, hx]; rfl
    · exact h
  refine ⟨_, run, on, ?_, ?_, ?_, credits, ?_, only.linkErr_eq, congrArg (·.injected) xpt, mem, cause⟩
  · rw [only.replay_eq, hx]; rfl
  · rw [only.waiting_eq, hx]; rfl
  · rw [only.input_eq, hx]; rfl
  · rw [only.inForce_eq, hx]; rfl

end Sys2Proof.Machine
end
section
/-! PROOFS. Quiet, port configuration and pattern checkers of a Cuff port (R337, R339 to R343; O41). -/

namespace Sys2Proof.Machine

/-! ### Quiet (R339, R341) -/

theorem Port.gen_lt (u : Port) : u.gen < 4 := Nat.mod_lt _ (by omega)

/-- A counted refusal of Quiet. -/
theorem pmStat_refused (w : Word64) (r : Nat) (h : r < 16) :
    fld (withFld (bumpFld w 17 4 1) 3 0 r) 17 4 = min (fld w 17 4 + 1) 16383 ∧ fld (withFld (bumpFld w 17 4 1) 3 0 r) 3 0 = r := by
  refine ⟨?_, ?_⟩
  · rw [fld_withFld_other _ _ (by omega) (by omega) (by omega), fld_bumpFld_same _ _ (by omega) (by omega)]
    rfl
  · rw [fld_withFld_same _ _ (by omega) (by omega)]
    exact Nat.mod_eq_of_lt h

theorem Port.quietRefuser_lt {u : Port} {now r : Nat} (h : u.quietRefuser now = some r) : r < 16 := by
  unfold Port.quietRefuser at h
  split at h
  · cases h; omega
  split at h
  · cases h; omega
  split at h
  · cases h; omega
  split at h
  · cases h; omega
  split at h
  · cases h; omega
  · cases h

/-- QUIET_IDLE_EXPIRY of a port that may ask. -/
theorem exec_quietIdleExpiry {p : PortId} {s : State} (on : (s.port p).state = lsActive ∨ (s.port p).state = lsTest)
    (pm : (s.port p).pm = .none) (idle : (s.port p).idleSince + (s.port p).idleNs ≤ s.now) :
    ((s.port p).quietRefuser s.now = none → exec (.quietIdleExpiry p) s =
      .next (s.setPort p { s.port p with pm := .requested, pmDue := 1, pmAt := some (s.now + gen8Frames (s.port p).gen) })) ∧
    ∀ r, (s.port p).quietRefuser s.now = some r → exec (.quietIdleExpiry p) s = .next (s.setPort p { s.port p with
      pmStat := if r = 0 then bumpFld (s.port p).pmStat 17 4 1 else withFld (bumpFld (s.port p).pmStat 17 4 1) 3 0 r
      idleSince := s.now }) := by
  have arm : exec (.quietIdleExpiry p) s = execQuietIdleExpiry p s := rfl
  have may : ¬ (((s.port p).state ≠ lsActive ∧ (s.port p).state ≠ lsTest) ∨ (s.port p).pm ≠ .none ∨
      s.now < (s.port p).idleSince + (s.port p).idleNs) := by
    rintro (⟨a, b⟩ | h | h)
    · rcases on with h | h
      · exact a h
      · exact b h
    · exact h pm
    · omega
  refine ⟨fun none => ?_, fun r some => ?_⟩
  · rw [arm, execQuietIdleExpiry]
    dsimp only
    rw [if_neg may, none]
  · rw [arm, execQuietIdleExpiry]
    dsimp only
    rw [if_neg may, some]

theorem quiet_idle (p : PortId) (s : State) (on : (s.port p).state = lsActive ∨ (s.port p).state = lsTest)
    (pm : (s.port p).pm = .none) (idle : (s.port p).idleSince + (s.port p).idleNs ≤ s.now) :
    ((s.port p).quietRefuser s.now = none → Gives (.quietIdleExpiry p) s (fun t => (t.port p).pm = .requested ∧
      (t.port p).pmDue = 1 ∧ (t.port p).pmStat = (s.port p).pmStat)) ∧
    (∀ r, (s.port p).quietRefuser s.now = some r → Gives (.quietIdleExpiry p) s (fun t => (t.port p).pm = .none ∧
      fld (t.port p).pmStat 17 4 = min (fld (s.port p).pmStat 17 4 + 1) 16383 ∧
      (r ≠ 0 → fld (t.port p).pmStat 3 0 = r))) ∧
    ((s.port p).replay = [] → (s.port p).returns = [] → ((s.port p).state = lsTest ∨ s.now < (s.port p).scanUntil) →
      Gives (.quietIdleExpiry p) s (fun t => fld (t.port p).pmStat 3 0 = 4)) := by
  obtain ⟨asks, refused⟩ := exec_quietIdleExpiry on pm idle
  have counts (r : Nat) (h : (s.port p).quietRefuser s.now = some r) : Gives (.quietIdleExpiry p) s (fun t => (t.port p).pm = .none ∧
      fld (t.port p).pmStat 17 4 = min (fld (s.port p).pmStat 17 4 + 1) 16383 ∧ (r ≠ 0 → fld (t.port p).pmStat 3 0 = r)) := by
    refine ⟨_, refused r h, ?_⟩
    dsimp only
    rw [State.setPort_port_same]
    obtain ⟨count, reason⟩ := pmStat_refused (s.port p).pmStat r (Port.quietRefuser_lt h)
    split
    next zero => exact ⟨pm, fld_bumpFld_same _ _ (by omega) (by omega), fun ne => absurd zero ne⟩
    next => exact ⟨pm, count, fun _ => reason⟩
  refine ⟨fun none => ⟨_, asks none, ?_⟩, counts, fun replay returns test => ?_⟩
  · dsimp only
    rw [State.setPort_port_same]
    exact ⟨rfl, rfl, rfl⟩
  · have four : (s.port p).quietRefuser s.now = some 4 := by
      rw [Port.quietRefuser, if_neg (by simp [replay]), if_neg (by simp [returns]), if_pos test]
    obtain ⟨t, run, -, -, reason⟩ := counts 4 four
    exact ⟨t, run, reason (by omega)⟩

theorem quiet_unanswered (p : PortId) (s : State) (due : Nat) (at' : (s.port p).pmAt = some due) (passed : due ≤ s.now)
    (pm : (s.port p).pm = .requested) :
    Gives (.quietReqTimeout p) s (fun t => (t.port p).pm = .none ∧ fld (t.port p).pmStat 3 0 = 3 ∧
      fld (t.port p).pmStat 17 4 = min (fld (s.port p).pmStat 17 4 + 1) 16383) := by
  obtain ⟨count, reason⟩ := pmStat_refused (s.port p).pmStat 3 (by omega)
  have waited : ¬ ((s.port p).pm ≠ .requested ∨ s.now < due) := by simp [pm, not_lt.2 passed]
  refine ⟨_, rfl, ?_⟩
  simp only [at', if_neg waited, State.setPort_port_same]
  exact ⟨trivial, reason, count⟩

theorem quiet_woken (p : PortId) (s : State) (quiet : (s.port p).state = lsQuiet) :
    Gives (.wakeBurst p) s (fun t => (t.port p).state = lsActive ∧ (t.port p).gen = (s.port p).gen) := by
  have state := (s.port p).setState_state lsActive (s.port p).gen
  have gen := (s.port p).setState_gen lsActive (s.port p).gen
  refine ⟨s.wakePort p, rfl, ?_⟩
  simp only [State.wakePort, if_pos quiet, State.setPort_port_same]
  obtain ⟨w, hw⟩ := (s.port p).setState_word lsActive (s.port p).gen
  rw [hw] at state gen ⊢
  exact ⟨state, gen.trans (Nat.mod_eq_of_lt (s.port p).gen_lt)⟩

/-! ### Pattern tests (R342, R343) -/

/-- From s to t port p changed in what its pattern checkers hold, free values were drawn, and nothing else changed. -/
structure CheckersOnly (p : Nat) (s t : State) : Prop where
  rest : { t with ports := s.ports, freeCtr := s.freeCtr } = s
  own : { t.port p with
    prbs := (s.port p).prbs, prbsCtl := (s.port p).prbsCtl, prbsRest := (s.port p).prbsRest, lockAt := (s.port p).lockAt } = s.port p
  others : ∀ q, q ≠ p → t.port q = s.port q

section
variable {p : Nat} {s t u : State}

theorem CheckersOnly.refl (p : Nat) (s : State) : CheckersOnly p s s := ⟨rfl, rfl, fun _ _ => rfl⟩

theorem CheckersOnly.trans (h : CheckersOnly p s t) (k : CheckersOnly p t u) : CheckersOnly p s u where
  rest := (congrArg (fun v : State => { v with ports := s.ports, freeCtr := s.freeCtr }) k.rest).trans h.rest
  own := (congrArg (fun v : Port => { v with
    prbs := (s.port p).prbs, prbsCtl := (s.port p).prbsCtl, prbsRest := (s.port p).prbsRest, lockAt := (s.port p).lockAt }) k.own).trans
      h.own
  others q hq := (k.others q hq).trans (h.others q hq)

theorem CheckersOnly.trainTable (h : CheckersOnly p s t) : t.trainTable = s.trainTable := (congrArg State.trainTable h.rest :)
theorem CheckersOnly.now (h : CheckersOnly p s t) : t.now = s.now := (congrArg State.now h.rest :)
theorem CheckersOnly.cfg (h : CheckersOnly p s t) : (t.port p).cfg = (s.port p).cfg := (congrArg Port.cfg h.own :)
theorem CheckersOnly.linkState (h : CheckersOnly p s t) : (t.port p).linkState = (s.port p).linkState :=
  (congrArg Port.linkState h.own :)

end

/-- A change of what the checkers of a port hold. -/
theorem CheckersOnly.modPort (p : Nat) (s : State) (a : Sparse Word64) (b : Sparse Word32) (c d : Sparse Nat) :
    CheckersOnly p s (s.setPort p { s.port p with prbs := a, prbsCtl := b, prbsRest := c, lockAt := d }) where
  rest := rfl
  own := by rw [State.setPort_port_same]
  others q hq := State.setPort_port_other _ _ hq

theorem State.prbsNow_only (s : State) (p lane : Nat) : CheckersOnly p s (s.prbsNow false p lane).1 := by
  unfold State.prbsNow
  simp only [Bool.false_eq_true, if_false]
  split
  · exact .refl p s
  · exact (CheckersOnly.mk rfl rfl (fun _ _ => rfl) : CheckersOnly p s { s with freeCtr := s.freeCtr + 2 }).trans (.modPort p _ _ _ _ _)

theorem State.unlock_only (s : State) (p lane : Nat) : CheckersOnly p s (s.modPort p (fun u => u.unlock lane)) :=
  .modPort p s _ _ _ _

theorem State.testEnds_only (s : State) (p : Nat) : CheckersOnly p s (s.testEnds p) := by
  unfold State.testEnds
  split
  · exact .refl p s
  · exact foldl_keeps (CheckersOnly p s) _ _ _ (.refl p s) fun u l h => (h.trans (u.prbsNow_only p l)).trans (State.unlock_only _ p l)

/-- Training from entry 0, whatever test has run before. -/
theorem State.startTraining_trainsTo (s : State) (p : Nat) :
    TrainsTo s (s.startTraining p) p 0 0 ∧ ((s.startTraining p).port p).inForce = (s.port p).cfg ∧
      ((s.startTraining p).port p).cfg = (s.port p).cfg := by
  have test := s.testEnds_only p
  rw [State.startTraining_eq]
  have only := ((s.testEnds p).modPort p Port.restarted).enterEntry_entryOnly p 0 0
  rw [State.modPort_port_same] at only
  obtain ⟨w, hw⟩ := ((s.testEnds p).port p).restarted_word
  have cfg := test.cfg
  rw [hw] at only
  exact ⟨(State.enterEntry_trainsTo _ p 0 0).of_before (by rw [State.modPort_trainTable, test.trainTable])
    (by rw [State.modPort_now, test.now]), only.inForce_eq.trans cfg, only.cfg_eq.trans cfg⟩

/-! ### Writes of port registers (R337, R343) -/

theorem State.writePortCfg_bad (s : State) (p : Nat) (w : Word32)
    (h : fld32 w 26 24 ≠ 0 ∨ fld32 w 11 8 ≠ 0 ∨ fld32 w 30 28 = 0 ∨ fld32 w 23 12 = 0 ∨ fld32 w 7 0 = 0) :
    (s.writePortCfg p w).2 = s := by
  unfold State.writePortCfg
  dsimp only
  split
  · rfl
  next good =>
    simp [firstFail_eq_none] at good
    omega

theorem State.writePortCfg_good (s : State) (p : Nat) (w : Word32)
    (a : fld32 w 26 24 = 0) (b : fld32 w 11 8 = 0) (c : fld32 w 30 28 ≠ 0) (d : fld32 w 23 12 ≠ 0) (e : fld32 w 7 0 ≠ 0) :
    (s.writePortCfg p w).2 =
      if (s.port p).enabled && !bitOf w.toNat 31 then (s.modPort p (fun u => { u with cfg := w })).portOff p
      else if !(s.port p).enabled && bitOf w.toNat 31 && !s.lantern.limited then
        (s.modPort p (fun u => { u with cfg := w })).startTraining p
      else s.modPort p (fun u => { u with cfg := w }) := by
  have good : firstFail [(fld32 w 26 24 != 0 || fld32 w 11 8 != 0, genReserved),
      (fld32 w 30 28 == 0 || fld32 w 23 12 == 0 || fld32 w 7 0 == 0, genRange)] = none := by
    rw [firstFail_eq_none]
    simp [a, b, c, d, e]
  unfold State.writePortCfg
  simp only [good]

/-- A port that is turned off. -/
def Port.turnedOff (u : Port) : Port :=
  { u.setState lsOff 0 with
    linkState := withFld (withFld (u.setState lsOff 0).linkState 35 32 0) 26 21 0, entryDeadline := none }

theorem Port.turnedOff_word (u : Port) : ∃ w, u.turnedOff = { u with linkState := w, entryDeadline := none } := by
  unfold Port.turnedOff
  obtain ⟨w, hw⟩ := u.setState_word lsOff 0
  rw [hw]
  exact ⟨_, rfl⟩

/-- The state field stands beside the generation and the entry. -/
theorem linkState_off (w : Word64) : fld (withFld (withFld w 35 32 0) 26 21 0) 31 29 = fld w 31 29 :=
  have entry (v : Word64) : fld (withFld v 26 21 0) 31 29 = fld v 31 29 := fld_withFld_other v 0 (by omega) (by omega) (by omega)
  have gen : fld (withFld w 35 32 0) 31 29 = fld w 31 29 := fld_withFld_other w 0 (by omega) (by omega) (by omega)
  (entry _).trans gen

theorem Port.turnedOff_state (u : Port) : u.turnedOff.state = lsOff :=
  (linkState_off (u.setState lsOff 0).linkState).trans (u.setState_state lsOff 0)

theorem State.portOff_eq (s : State) (p : Nat) :
    s.portOff p = (((s.testEnds p).drainPort p).modPort p Port.turnedOff).linkChange p := rfl

theorem State.drainPort_cfg (s : State) (p : Nat) : ((s.drainPort p).port p).cfg = (s.port p).cfg := by
  rw [State.drainPort, State.inject_port, State.setPort_port_same]
  rfl

theorem State.portOff_port (s : State) (p : Nat) :
    ((s.portOff p).port p).state = lsOff ∧ ((s.portOff p).port p).cfg = (s.port p).cfg := by
  rw [State.portOff_eq, State.linkChange_port, State.modPort_port_same]
  refine ⟨Port.turnedOff_state _, ?_⟩
  obtain ⟨w, hw⟩ := ((s.testEnds p).drainPort p).port p |>.turnedOff_word
  rw [hw]
  exact ((s.testEnds p).drainPort_cfg p).trans (s.testEnds_only p).cfg

/-- The configuration that a write leaves, before the port follows it. -/
theorem State.cfgPort (s : State) (p : Nat) (w : Word32) :
    (s.modPort p (fun u => { u with cfg := w })).port p = { s.port p with cfg := w } := State.modPort_port_same _ _ _

theorem port_cfgWrite (p : PortId) (v : Word64) (s : State) : let w : Word32 := BitVec.ofNat 32 v.toNat
    ((fld32 w 26 24 ≠ 0 ∨ fld32 w 11 8 ≠ 0 ∨ fld32 w 30 28 = 0 ∨ fld32 w 23 12 = 0 ∨ fld32 w 7 0 = 0) →
      exec (.cufPortCfgWrite p v) s = .next s) ∧
    (fld32 w 26 24 = 0 → fld32 w 11 8 = 0 → fld32 w 30 28 ≠ 0 → fld32 w 23 12 ≠ 0 → fld32 w 7 0 ≠ 0 →
      Gives (.cufPortCfgWrite p v) s (fun t => (t.port p).cfg = w ∧
        (bitOf w.toNat 31 = (s.port p).enabled → (t.port p).inForce = (s.port p).inForce ∧
          (t.port p).linkState = (s.port p).linkState) ∧
        (bitOf w.toNat 31 = false → (s.port p).enabled = true → (t.port p).state = lsOff) ∧
        (bitOf w.toNat 31 = true → (s.port p).enabled = false → s.lantern.limited = false → TrainsTo s t p 0 0 ∧
          (t.port p).inForce = w))) := by
  intro w
  have arm : exec (.cufPortCfgWrite p v) s = .next (s.writePortCfg p w).2 := rfl
  refine ⟨fun bad => by rw [arm, s.writePortCfg_bad p w bad], fun a b c d e => ⟨_, arm, ?_⟩⟩
  rw [s.writePortCfg_good p w a b c d e]
  generalize written : s.modPort p (fun u => { u with cfg := w }) = r
  have port : r.port p = { s.port p with cfg := w } := written ▸ s.cfgPort p w
  have cfg : (r.port p).cfg = w := by rw [port]
  cases on : (s.port p).enabled <;> cases bit : bitOf w.toNat 31
  case true.true | false.false => simp [port]
  case true.false =>
    obtain ⟨off, kept⟩ := r.portOff_port p
    simp [off, kept, cfg]
  case false.true =>
    cases limited : s.lantern.limited
    · obtain ⟨trains, inForce, kept⟩ := r.startTraining_trainsTo p
      have here : TrainsTo s (r.startTraining p) p 0 0 := trains.of_before (by rw [← written, State.modPort_trainTable])
        (by rw [← written, State.modPort_now])
      simp [here, inForce, kept, cfg]
    · simp [cfg]

/-- The bits that a write of CUF_LANE_PRBS_CTL takes do not hold the lock. -/
theorem prbsCtlWrite_unlocked (w : Word32) : fld32 (prbsCtlWrite w) 29 29 = 0 := by
  refine Nat.eq_of_testBit_eq fun i => ?_
  rw [fld32, testBit_bitsOf, prbsCtlWrite, BitVec.toNat_and, Nat.testBit_and, Nat.zero_testBit]
  by_cases h : i < 29 + 1 - 29
  · have : i = 0 := by omega
    subst this
    simp [Nat.testBit]
  · simp [h]

/-- A write of CUF_LANE_PRBS_CTL that its checks let pass, at a port in TEST. -/
theorem State.writePrbsCtl_good {s : State} {p lane : Nat} {w : Word32} (reserved : prbsCtlReserved w = false)
    (pattern : fld32 w 27 25 ≤ 4) (test : (s.port p).state = lsTest) :
    let t := if bitOf w.toNat 30 then s else (s.prbsNow false p lane).1
    (s.writePrbsCtl p lane w).2 = t.setPort p { t.port p with
      prbsCtl := sset prbsCtlDefault (t.port p).prbsCtl lane (prbsCtlWrite w)
      prbs := if bitOf w.toNat 30 then sset 0 (t.port p).prbs lane 0 else (t.port p).prbs
      prbsRest := if bitOf w.toNat 30 then sset 0 (t.port p).prbsRest lane 0 else (t.port p).prbsRest
      lockAt := sset 0 (t.port p).lockAt lane 0 } := by
  have good : firstFail [(prbsCtlReserved w, genReserved), (decide (4 < fld32 w 27 25), genRange),
      (decide (fld32 w 31 30 ≠ 0 ∧ (s.port p).state ≠ lsTest), genBusy)] = none := by
    rw [firstFail_eq_none]
    simp [reserved, pattern, test]
  unfold State.writePrbsCtl
  simp only [good]
  rfl

theorem lane_prbsCtlWrite (p : PortId) (lane : Fin 4) (v : Word64) (s : State) : let w : Word32 := BitVec.ofNat 32 v.toNat
    prbsCtlReserved w = false → fld32 w 27 25 ≤ 4 → (s.port p).state = lsTest →
    Gives (.cufLanePrbsCtlWrite p lane v) s (fun t =>
      (bitOf w.toNat 30 = true → sget 0 (t.port p).prbs lane = 0 ∧
        fld32 (sget prbsCtlDefault (t.port p).prbsCtl lane) 29 29 = 0) ∧
      (bitOf w.toNat 30 = false → (t.port p).prbs = ((s.prbsNow false p lane).1.port p).prbs ∧
        fld32 (sget prbsCtlDefault (t.port p).prbsCtl lane) 29 29 = 0) ∧
      (t.port p).linkState = (s.port p).linkState) := by
  intro w reserved pattern test
  have now := s.prbsNow_only p lane
  refine ⟨(s.writePrbsCtl p lane w).2, rfl, ?_⟩
  rw [State.writePrbsCtl_good reserved pattern test]
  dsimp only
  rw [State.setPort_port_same]
  cases start : bitOf w.toNat 30
  · simp [sget_sset_same, prbsCtlWrite_unlocked, now.linkState]
  · simp [sget_sset_same, prbsCtlWrite_unlocked]

theorem lane_locks (p : PortId) (lane : Nat) (stream : List Bool) (s : State) (four : lane < 4) (test : (s.port p).state = lsTest)
    (checks : bitOf (sget prbsCtlDefault (s.port p).prbsCtl lane).toNat 30 = true)
    (predicted : prbsLocks (sget prbsCtlDefault (s.port p).prbsCtl lane) stream = true) :
    Gives (.prbsCheckerLock false p ⟨lane, stream⟩) s (fun t =>
      fld32 (sget prbsCtlDefault (t.port p).prbsCtl lane) 29 29 = 1 ∧ (t.port p).prbs = (s.port p).prbs) := by
  refine ⟨_, rfl, ?_⟩
  simp only [Bool.false_eq_true, if_false]
  by_cases lock : fld32 (sget prbsCtlDefault (s.port p).prbsCtl lane) 29 29 = 0
  · rw [if_pos ⟨four, test, checks, lock, predicted⟩, State.setPort_port_same]
    exact ⟨by simp only [sget_sset_same, fld32_withFld32_same _ _ (show 29 ≤ 29 + 1 by omega) (by omega)]; rfl, rfl⟩
  · rw [if_neg (by tauto)]
    have : fld32 (sget prbsCtlDefault (s.port p).prbsCtl lane) 29 29 < 2 := Nat.mod_lt _ (by omega)
    exact ⟨by omega, rfl⟩

theorem lane_losesLock (p : PortId) (lane bits errors span : Nat) (s : State)
    (lock : fld32 (sget prbsCtlDefault (s.port p).prbsCtl lane) 29 29 = 1) (long : 64 ≤ span) (short : span ≤ 1024) :
    Gives (.prbsCheckerLossOfLock false p lane bits ⟨errors, span⟩) s (fun t =>
      fld32 (sget prbsCtlDefault (t.port p).prbsCtl lane) 29 29 = 0 ∧
      sget 0 (t.port p).prbs lane =
        prbsCount (sget 0 (s.port p).prbs lane) (sget 0 (s.port p).prbsRest lane) bits errors) := by
  have loses : prbsUnlocks span = true := by simp [prbsUnlocks, long, short]
  refine ⟨_, rfl, ?_⟩
  simp only [loses, Bool.not_true, Bool.false_eq_true, if_false]
  rw [if_pos lock, State.setPort_port_same]
  refine ⟨?_, sget_sset_same _ _ _ _⟩
  rw [Port.unlock]
  dsimp only
  rw [sget_sset_same, fld32_withFld32_same _ _ (by omega) (by omega)]
  rfl

/-- Settles O41: Quiet, then the writes of a port's registers, then its pattern checkers. -/
theorem portQuietAndRegistersAct : Obligations.PortQuietAndRegistersAct :=
  ⟨fun p s => ⟨quiet_idle p s, quiet_unanswered p s, quiet_woken p s⟩, port_cfgWrite, lane_prbsCtlWrite,
    fun p lane bits errors span stream s four =>
      ⟨lane_locks p lane stream s four, lane_losesLock p lane bits errors span s⟩⟩

end Sys2Proof.Machine
end
section
/-! PROOFS. The fabric commands of the mailbox: topology, link configuration and link test (R342 to R344, R348, R364, R369; O51). -/

namespace Sys2Proof.Machine

/-! ### A list of indices, each of which changes its own entry -/

section
variable {σ α : Type} {get : σ → Nat → α} {f : σ → Nat → σ} {I : σ → Prop}

/-- An entry that no index of the list changes stands. -/
theorem foldl_entry_kept (keeps : ∀ u i, I u → I (f u i)) {j : Nat} (l : List Nat) (s : σ) (hs : I s)
    (same : ∀ u, I u → ∀ i ∈ l, get (f u i) j = get u j) : get (l.foldl f s) j = get s j := by
  induction l generalizing s with
  | nil => rfl
  | cons a l ih =>
    rw [List.foldl_cons, ih (f s a) (keeps s a hs) fun u hu i hi => same u hu i (List.mem_cons_of_mem a hi)]
    exact same s hs a List.mem_cons_self

/-- The entry of an index of the list is as that index leaves it. -/
theorem foldl_entry_changed {Q : Nat → α → Prop} (keeps : ∀ u i, I u → I (f u i)) (own : ∀ u i, I u → Q i (get (f u i) i))
    (others : ∀ u i j, I u → j ≠ i → get (f u i) j = get u j) {j : Nat} (l : List Nat) (s : σ) (hs : I s) (hj : j ∈ l) :
    Q j (get (l.foldl f s) j) := by
  induction l generalizing s with
  | nil => cases hj
  | cons a l ih =>
    rw [List.foldl_cons]
    by_cases tail : j ∈ l
    · exact ih (f s a) (keeps s a hs) tail
    · obtain rfl : j = a := (List.mem_cons.1 hj).resolve_right tail
      rw [foldl_entry_kept keeps l (f s j) (keeps s j hs) fun u hu i hi => others u i j hu (fun eq => tail (eq ▸ hi))]
      exact own s j hs

end

/-! ### LINK_CFG (R348, R364, R369) -/

theorem OnlyAnswer.port_eq {s t : State} (h : OnlyAnswer s t) (p : Nat) : t.port p = s.port p := (congrArg (State.port · p) h :)

theorem State.startTraining_port_other (s : State) {p q : Nat} (h : q ≠ p) : (s.startTraining p).port q = s.port q := by
  rw [State.startTraining_eq, State.enterEntry_port_other _ _ _ h, State.modPort_port_other _ _ h, (s.testEnds_only p).others q h]

theorem State.drainPort_port_other (s : State) {p q : Nat} (h : q ≠ p) : (s.drainPort p).port q = s.port q := by
  rw [State.drainPort, State.inject_port, State.setPort_port_other _ _ h]

theorem State.portOff_port_other (s : State) {p q : Nat} (h : q ≠ p) : (s.portOff p).port q = s.port q := by
  rw [State.portOff_eq, State.linkChange_port, State.modPort_port_other _ _ h, State.drainPort_port_other _ h,
    (s.testEnds_only p).others q h]

/-- A value that its rule takes has no reserved bit and no field out of range. -/
theorem State.writePortCfg_done {s : State} {p : Nat} {w : Word32} (ok : (s.writePortCfg p w).1 = stDone) :
    fld32 w 26 24 = 0 ∧ fld32 w 11 8 = 0 ∧ fld32 w 30 28 ≠ 0 ∧ fld32 w 23 12 ≠ 0 ∧ fld32 w 7 0 ≠ 0 := by
  unfold State.writePortCfg at ok
  dsimp only at ok
  split at ok
  next st bad => exact absurd ok (ne_stDone_of_firstFail bad (by simp [genReserved, genRange, stDone]))
  next good =>
    simp [firstFail_eq_none] at good
    omega

/-- A value that CUF_PORT_CFG takes stands there after its write, and no other port changes. -/
theorem State.writePortCfg_writes (s : State) (p : Nat) {w : Word32}
    (ok : fld32 w 26 24 = 0 ∧ fld32 w 11 8 = 0 ∧ fld32 w 30 28 ≠ 0 ∧ fld32 w 23 12 ≠ 0 ∧ fld32 w 7 0 ≠ 0) :
    ((s.writePortCfg p w).2.port p).cfg = w ∧ ∀ q, q ≠ p → (s.writePortCfg p w).2.port q = s.port q := by
  obtain ⟨a, b, c, d, e⟩ := ok
  rw [s.writePortCfg_good p w a b c d e]
  have cfg : ((s.modPort p (fun u => { u with cfg := w })).port p).cfg = w := by rw [s.cfgPort p w]
  split
  · obtain ⟨-, kept⟩ := (s.modPort p (fun u => { u with cfg := w })).portOff_port p
    exact ⟨kept.trans cfg, fun q hq => by rw [State.portOff_port_other _ hq, State.modPort_port_other _ _ hq]⟩
  split
  · obtain ⟨-, -, kept⟩ := (s.modPort p (fun u => { u with cfg := w })).startTraining_trainsTo p
    exact ⟨kept.trans cfg, fun q hq => by rw [State.startTraining_port_other _ hq, State.modPort_port_other _ _ hq]⟩
  · exact ⟨cfg, fun q hq => State.modPort_port_other _ _ hq⟩

theorem creditCfg_done {s : State} {p : Nat} {v : Word64} (ok : (s.writeCreditCfg p v).1 = stDone) (t : State) (q : Nat) :
    (t.writeCreditCfg q v).2 = t.modPort q (fun u => { u with creditCfg := v }) := by
  unfold State.writeCreditCfg at ok ⊢
  dsimp only at ok ⊢
  split at ok
  next st bad => exact absurd ok (ne_stDone_of_firstFail bad (by simp [genReserved, genRange, stDone]))
  next => rfl

/-- What a write over the ports of a mask leaves. -/
theorem State.overPorts_port (s : State) (mask : Word32) {f : State → Nat → State} {Q : Port → Prop}
    (own : ∀ u p, Q ((f u p).port p)) (others : ∀ u p q, q ≠ p → (f u p).port q = u.port q) :
    (∀ p, p < 24 → bitOf mask.toNat p = true → Q ((s.overPorts mask f).port p)) ∧
      ∀ p, bitOf mask.toNat p = false → (s.overPorts mask f).port p = s.port p := by
  refine ⟨fun p hp on => ?_, fun p off => ?_⟩
  · refine foldl_entry_changed (I := fun _ => True) (Q := fun p u => bitOf mask.toNat p = true → Q u) (fun _ _ _ => trivial)
      (fun u i _ on => ?_) (fun u i j _ ne => ?_) _ s trivial (List.mem_range.2 hp) on
    · rw [if_pos on]
      exact own u i
    · split
      · exact others u i j ne
      · rfl
  · refine foldl_entry_kept (I := fun _ => True) (fun _ _ _ => trivial) _ s trivial fun u _ i _ => ?_
    split
    next on => exact others u i p (fun eq => by rw [← eq, off] at on; cases on)
    next => rfl

theorem linkCfg_gives (q : Req) (mask : Word32) (value : Word64) (s : State) (ha : s.accepts q 0x41 16 none = true) :
    ((s.writePortCfg 0 (value.truncate 32)).1 = stDone → Gives (.linkCfgPortCfg q mask value) s (fun t =>
      (∀ p, p < 24 → bitOf mask.toNat p = true → (t.port p).cfg = value.truncate 32) ∧
      (∀ p, bitOf mask.toNat p = false → t.port p = s.port p) ∧ Answered t q 0x41 stDone [])) ∧
    ((s.writeCreditCfg 0 value).1 = stDone → Gives (.linkCfgCreditCfg q mask value) s (fun t =>
      (∀ p, p < 24 → bitOf mask.toNat p = true → (t.port p).creditCfg = value) ∧
      (∀ p, bitOf mask.toNat p = false → t.port p = s.port p) ∧ Answered t q 0x41 stDone [])) ∧
    ((s.writeLinkExcl (value.truncate 32)).1 = stDone → Answers (.linkCfgLinkExcl q value) q 0x41 stDone [] s
      { s with xpt := { s.xpt with linkExcl := value.truncate 32 } }) ∧
    ((s.writeTimerCfg value).1 = stDone → Answers (.linkCfgTimerCfg q value) q 0x41 stDone [] s
      { s with xpt := { s.xpt with timerCfg := value } }) := by
  have rule {r : Status} (ok : r = stDone) : ruleOf r = none := if_pos ok
  refine ⟨fun ok => ?_, fun ok => ?_, fun ok => State.command_gives rfl ha (rule ok) ?_, fun ok => State.command_gives rfl ha (rule ok) ?_⟩
  · refine (State.command_gives rfl ha (rule ok) rfl).gives fun t only answered => ?_
    simp only [only.port_eq]
    have writes u p := State.writePortCfg_writes u p (State.writePortCfg_done ok)
    obtain ⟨changed, kept⟩ := s.overPorts_port mask (Q := fun u => u.cfg = value.truncate 32)
      (f := fun u p => (u.writePortCfg p (value.truncate 32)).2) (fun u p => (writes u p).1) (fun u p => (writes u p).2)
    exact ⟨changed, kept, answered⟩
  · refine (State.command_gives rfl ha (rule ok) rfl).gives fun t only answered => ?_
    simp only [only.port_eq]
    obtain ⟨changed, kept⟩ := s.overPorts_port mask (Q := fun u => u.creditCfg = value)
      (f := fun u p => (u.writeCreditCfg p value).2) (fun u p => by rw [creditCfg_done ok, State.modPort_port_same])
      (fun u p r hr => by rw [creditCfg_done ok, State.modPort_port_other _ _ hr])
    exact ⟨changed, kept, answered⟩
  · unfold State.writeLinkExcl at ok ⊢
    split at ok
    next => cases ok
    next good => rw [if_neg good]
  · unfold State.writeTimerCfg at ok ⊢
    split at ok
    next st bad => exact absurd ok (ne_stDone_of_firstFail bad (by simp [genReserved, genRange, stDone]))
    next => rfl

/-! ### LINK_TEST (R342 to R344) -/

/-- A port that is taken into TEST, in generation g. -/
theorem State.enterTest_state (s : State) (p : Nat) : ((s.enterTest p).port p).state = lsTest := by
  unfold State.enterTest
  dsimp only
  rw [State.linkChange_port, State.modPort_port_same]
  generalize (State.port _ p) = v
  have state := v.setState_state lsTest 0
  obtain ⟨w, hw⟩ := v.setState_word lsTest 0
  rw [hw] at state ⊢
  exact state

theorem linkTest_enters (q : Req) (f : LinkTestF) (s : State) (ha : s.accepts q 0x42 16 none = true) (range : testRangeBad f = false) :
    let open' := s.freeBytes (8 * (testLanes f).length)
    (f.side = 0 → ((s.drawn.enterTest f.port).port f.port).state = lsTest ∧
      Answers (.linkTestEnter q f) q 0x42 stDone open' s (s.drawn.enterTest f.port)) ∧
    (f.side = 1 → s.qpBusy = false → Gives (.linkTestEnter q f) s (fun t => t.hp.linkUp = false ∧
      t.hp.testUntil = some (s.now + f.dwellUs * 1000) ∧ Answered t q 0x42 stDone open')) := by
  intro open'
  have arm : exec (.linkTestEnter q f) s = execLinkTestEnter q f s := rfl
  refine ⟨fun cuff => ⟨State.enterTest_state _ _, ?_⟩, fun host free => ?_⟩
  · refine State.command_gives (c := .linkTestEnter q f) (own := firstFail [(testRangeBad f, genRange), (f.side == 1 && s.qpBusy, hpStatus 1)])
      (eff := fun t => (if f.side = 0 then (t.openRecords f).1.enterTest f.port else (t.openRecords f).1, stDone, (t.openRecords f).2))
      ?_ ha ?_ ?_
    · rw [arm, execLinkTestEnter]
      dsimp only
      rw [if_neg (show ¬ (f.side = 1 ∧ _) from fun h => by omega)]
    · simp [firstFail_eq_none, range, cuff]
    · rw [if_pos cuff]
      rfl
  · obtain ⟨i, hi, running, waits, common⟩ := State.accepts_served ha
    have own : firstFail [(testRangeBad f, genRange), (f.side == 1 && s.qpBusy, hpStatus 1)] = none := by
      simp [firstFail_eq_none, range, free]
    have served := s.command_served (c := .linkTestEnter q f)
      (fun t => (if f.side = 0 then (t.openRecords f).1.enterTest f.port else (t.openRecords f).1, stDone, (t.openRecords f).2))
      hi running waits common
    rw [if_neg (show ¬ f.side = 0 by omega)] at served
    rw [Gives, arm, execLinkTestEnter]
    dsimp only
    rw [own, served, if_pos ⟨host, rfl, ha⟩]
    obtain ⟨answered, -⟩ := s.drawn.respond_answers q 0x42 stDone open'
    exact ⟨_, rfl, rfl, rfl, answered⟩

/-- The value that LINK_TEST programs into a lane is one that CUF_LANE_PRBS_CTL takes, with the pattern. -/
theorem testCtl_fields (f : LinkTestF) (h : f.pattern ≤ 4) :
    prbsCtlReserved (testCtl f) = false ∧ fld32 (testCtl f) 27 25 = f.pattern := by
  have bit (n : Nat) : bitsOf f.dwellUs n n < 2 := by
    rw [bitsOf, Nat.add_sub_cancel_left]
    exact Nat.mod_lt _ (by omega)
  have zero := bit 0
  have one := bit 1
  have value : (testCtl f).toNat = bitsOf f.dwellUs 0 0 * 2 ^ 31 + bitsOf f.dwellUs 1 1 * 2 ^ 30 + f.invert % 2 * 2 ^ 28 +
      f.pattern % 8 * 2 ^ 25 := by
    rw [testCtl, BitVec.toNat_ofNat, Nat.mod_eq_of_lt (by omega)]
  rw [prbsCtlReserved, fld32, fld32, value]
  unfold bitsOf at *
  refine ⟨?_, by omega⟩
  rw [bne_eq_false_iff_eq]
  omega

theorem prbsCtlWrite_pattern (w : Word32) : fld32 (prbsCtlWrite w) 27 25 = fld32 w 27 25 := by
  have mask : ∀ i < 3, (0xDE000000#32).toNat.testBit (i + 25) = true := by decide
  refine Nat.eq_of_testBit_eq fun i => ?_
  rw [fld32, fld32, testBit_bitsOf, testBit_bitsOf, prbsCtlWrite, BitVec.toNat_and, Nat.testBit_and]
  by_cases h : i < 3
  · rw [mask i h, Bool.and_true]
  · simp [h]

/-- Reading the counts of a checker leaves how the checkers are set. -/
theorem State.prbsNow_ctl (s : State) (p lane : Nat) : ((s.prbsNow false p lane).1.port p).prbsCtl = (s.port p).prbsCtl := by
  unfold State.prbsNow
  simp only [Bool.false_eq_true, if_false]
  split
  · rfl
  · rw [State.modPort_port_same]
    rfl

/-- What reading the counts of a host lane's checker changes. -/
theorem State.prbsNow_host (s : State) (p lane : Nat) : (s.prbsNow true p lane).1 = s ∨ ∃ a b c,
    (s.prbsNow true p lane).1 = { s with freeCtr := s.freeCtr + 2, hp := { s.hp with prbs := a, lockAt := b, prbsRest := c } } := by
  unfold State.prbsNow
  simp only [if_true]
  split
  · exact .inl rfl
  · exact .inr ⟨_, _, _, rfl⟩

theorem State.prbsNow_hostCtl (s : State) (lane : Nat) : (s.prbsNow true 0 lane).1.hp.prbsCtl = s.hp.prbsCtl := by
  rcases s.prbsNow_host 0 lane with h | ⟨a, b, c, h⟩ <;> rw [h]

section
variable {s : State} {p lane : Nat} {w : Word32} (reserved : prbsCtlReserved w = false) (pattern : fld32 w 27 25 ≤ 4)
  (test : (s.port p).state = lsTest)
include reserved pattern test

theorem State.writePrbsCtl_ctl :
    ((s.writePrbsCtl p lane w).2.port p).prbsCtl = sset prbsCtlDefault (s.port p).prbsCtl lane (prbsCtlWrite w) := by
  rw [State.writePrbsCtl_good reserved pattern test, State.setPort_port_same]
  dsimp only
  split
  · rfl
  · rw [s.prbsNow_ctl p lane]

theorem State.writePrbsCtl_state : ((s.writePrbsCtl p lane w).2.port p).state = lsTest := by
  rw [State.writePrbsCtl_good reserved pattern test, State.setPort_port_same]
  dsimp only
  split
  · exact test
  · exact (congrArg (fld · 31 29) (s.prbsNow_only p lane).linkState).trans test

end

/-- Every lane that LINK_TEST programs at a Cuff port in TEST has the request's pattern. -/
theorem State.testProgram_cuff {s : State} {f : LinkTestF} (cuff : f.side = 0) (h : f.pattern ≤ 4) (test : (s.port f.port).state = lsTest)
    (l : Nat) (hl : l ∈ testLanes f) : fld32 (sget prbsCtlDefault ((s.testProgram f).port f.port).prbsCtl l) 27 25 = f.pattern := by
  obtain ⟨reserved, pattern⟩ := testCtl_fields f h
  have four : fld32 (testCtl f) 27 25 ≤ 4 := pattern.symm ▸ h
  have step (u : State) (i : Nat) (hu : (u.port f.port).state = lsTest) :
      ((if f.side = 0 then (u.writePrbsCtl f.port i (testCtl f)).2 else u.writeHostPrbsCtl i (testCtl f)).port f.port).prbsCtl =
        sset prbsCtlDefault (u.port f.port).prbsCtl i (prbsCtlWrite (testCtl f)) := by
    rw [if_pos cuff, State.writePrbsCtl_ctl reserved four hu]
  refine foldl_entry_changed (I := fun u : State => (u.port f.port).state = lsTest) (Q := fun _ w => fld32 w 27 25 = f.pattern)
    (get := fun u l => sget prbsCtlDefault (u.port f.port).prbsCtl l) (fun u i hu => ?_) (fun u i hu => ?_) (fun u i j hu ne => ?_)
    _ s test hl
  · rw [if_pos cuff]
    exact State.writePrbsCtl_state reserved four hu
  · rw [step u i hu, sget_sset_same, prbsCtlWrite_pattern, pattern]
  · rw [step u i hu, sget_sset_other _ _ _ ne]

theorem State.writeHostPrbsCtl_ctl (s : State) (lane : Nat) (w : Word32) :
    (s.writeHostPrbsCtl lane w).hp.prbsCtl = sset prbsCtlDefault s.hp.prbsCtl lane (prbsCtlWrite w) := by
  unfold State.writeHostPrbsCtl
  dsimp only
  split
  · rfl
  · rw [s.prbsNow_hostCtl lane]

/-- Every lane that LINK_TEST programs at the host port has the request's pattern. -/
theorem State.testProgram_host (s : State) {f : LinkTestF} (host : f.side = 1) (h : f.pattern ≤ 4) (l : Nat) (hl : l ∈ testLanes f) :
    fld32 (sget prbsCtlDefault (s.testProgram f).hp.prbsCtl l) 27 25 = f.pattern := by
  have step (u : State) (i : Nat) :
      (if f.side = 0 then (u.writePrbsCtl f.port i (testCtl f)).2 else u.writeHostPrbsCtl i (testCtl f)).hp.prbsCtl =
        sset prbsCtlDefault u.hp.prbsCtl i (prbsCtlWrite (testCtl f)) := by
    rw [if_neg (by omega), State.writeHostPrbsCtl_ctl]
  refine foldl_entry_changed (I := fun _ => True) (Q := fun _ w => fld32 w 27 25 = f.pattern)
    (get := fun (u : State) l => sget prbsCtlDefault u.hp.prbsCtl l) (fun _ _ _ => trivial) (fun u i _ => ?_) (fun u i j _ ne => ?_)
    _ s trivial hl
  · rw [step u i, sget_sset_same, prbsCtlWrite_pattern, (testCtl_fields f h).2]
  · rw [step u i, sget_sset_other _ _ _ ne]

theorem testRangeBad_pattern {f : LinkTestF} (h : testRangeBad f = false) : f.pattern ≤ 4 := by
  simp [testRangeBad] at h
  omega

/-- One count record of 8 bytes for each lane of the mask. -/
theorem State.testCounts_length (s : State) (f : LinkTestF) : (s.testCounts f).2.length = 8 * (testLanes f).length := by
  have go (l : List Nat) (a : State × List Byte) : (l.foldl (fun (a : State × List Byte) l =>
      let z := a.1.prbsNow (f.side == 1) f.port l
      (z.1, a.2 ++ leBytes 8 z.2.toNat)) a).2.length = a.2.length + 8 * l.length := by
    induction l generalizing a with
    | nil => rfl
    | cons b l ih =>
      rw [List.foldl_cons, ih]
      simp [leBytes]
      omega
  exact (go (testLanes f) (s, [])).trans (Nat.zero_add _)

/-- A Cuff port that is scanned is not Quiet and asks for no Quiet. -/
theorem State.scanned_awake (s : State) {f : LinkTestF} (eyes : List (List Eye)) (cuff : f.side = 0) :
    ((s.scanned f eyes).port f.port).state ≠ lsQuiet ∧ ((s.scanned f eyes).port f.port).pm = .none := by
  unfold State.scanned
  dsimp only
  rw [if_pos cuff, State.modPort_port_same]
  refine ⟨?_, rfl⟩
  unfold State.wakePort
  dsimp only
  by_cases quiet : (s.port f.port).state = lsQuiet
  · rw [if_pos quiet, State.setPort_port_same]
    have state := (s.port f.port).setState_state lsActive (s.port f.port).gen
    obtain ⟨w, hw⟩ := (s.port f.port).setState_word lsActive (s.port f.port).gen
    rw [hw] at state ⊢
    exact fun eq => absurd (state.symm.trans eq) (by decide)
  · rw [if_neg quiet]
    exact quiet

/-- The checkers of a host port whose test ends are unlocked. -/
theorem State.hostTestEnds_unlocked (s : State) (on : s.hp.testUntil.isSome = true) (l : Nat) (hl : l < 8) :
    fld32 (sget prbsCtlDefault s.hostTestEnds.hp.prbsCtl l) 29 29 = 0 := by
  unfold State.hostTestEnds
  rw [if_neg (by cases h : s.hp.testUntil <;> simp_all)]
  refine foldl_entry_changed (I := fun _ => True) (Q := fun _ w => fld32 w 29 29 = 0)
    (get := fun (u : State) l => sget prbsCtlDefault u.hp.prbsCtl l) (fun _ _ _ => trivial) (fun u i _ => ?_) (fun u i j _ ne => ?_)
    _ s trivial (List.mem_range.2 hl)
  · dsimp only
    rw [sget_sset_same, fld32_withFld32_same _ _ (by omega) (by omega)]
    rfl
  · dsimp only
    rw [sget_sset_other _ _ _ ne, u.prbsNow_hostCtl i]

theorem linkTest_leaves (q : Req) (f : LinkTestF) (s : State) (ha : s.accepts q 0x42 16 none = true) (range : testRangeBad f = false) :
    let open' := s.freeBytes (8 * (testLanes f).length)
    (f.side = 0 → (s.port f.port).enabled = true → Gives (.linkTestLeave q f) s (fun t => TrainsTo s t f.port 0 0 ∧
      Answered t q 0x42 stDone open')) ∧
    (f.side = 1 → Gives (.linkTestLeave q f) s (fun t => t.hp.testUntil = none ∧ t.hp.linkUp = true ∧
      (∀ l, l < 8 → s.hp.testUntil.isSome = true → fld32 (sget prbsCtlDefault t.hp.prbsCtl l) 29 29 = 0) ∧
      Answered t q 0x42 stDone open')) := by
  intro open'
  have own : firstFail [(testRangeBad f, genRange)] = none := by simp [firstFail_eq_none, range]
  refine ⟨fun cuff on => (State.command_gives rfl ha own rfl).gives fun t only answered => ?_,
    fun host => (State.command_gives rfl ha own rfl).gives fun t only answered => ?_⟩
  · rw [if_neg (by omega), State.openRecords, if_pos (by simpa using on)] at only
    obtain ⟨trains, -⟩ := (s.drawn.drainPort f.port).startTraining_trainsTo f.port
    have here := trains.of_before (s := s) rfl rfl
    refine ⟨?_, answered⟩
    unfold TrainsTo ActionBegun at here ⊢
    rwa [only.port_eq]
  · rw [if_pos host] at only
    have testUntil : t.hp.testUntil = none := (congrArg (fun u : State => u.hp.testUntil) only :)
    have linkUp : t.hp.linkUp = true := (congrArg (fun u : State => u.hp.linkUp) only :)
    have ctl : t.hp.prbsCtl = s.drawn.hostTestEnds.hp.prbsCtl := (congrArg (fun u : State => u.hp.prbsCtl) only :)
    exact ⟨testUntil, linkUp, fun l hl on => ctl ▸ s.drawn.hostTestEnds_unlocked on l hl, answered⟩

/-- Settles O51: the fabric commands pass their own checks, and their effects write what they name. -/
theorem fabricCommandsAct : Obligations.FabricCommandsAct := by
  refine ⟨?topology, ?table, linkCfg_gives, fun q f s ha range => ?test⟩
  case topology =>
    intro q record s ha ok out inb
    exact State.command_gives rfl ha (by simp [firstFail_eq_none, ok, out, inb]) rfl
  case table =>
    intro q es s ha few many entries good down
    refine State.command_gives rfl ha ?_ rfl
    simp only [firstFail_eq_none, List.mem_cons, List.not_mem_nil, or_false, forall_eq_or_imp, forall_eq, Bool.or_eq_false_iff,
      Bool.not_eq_false', decide_eq_true_eq, List.any_eq_false, List.mem_range]
    refine ⟨⟨⟨few, many⟩, fun e he => ?_⟩, good, fun p hp => ?_⟩
    · obtain ⟨retries, timeout⟩ := entries e he
      simp [retries, timeout]
    · rcases down p hp with h | h <;> simp [h]
  case test =>
    obtain ⟨enterCuff, enterHost⟩ := linkTest_enters q f s ha range
    obtain ⟨leaveCuff, leaveHost⟩ := linkTest_leaves q f s ha range
    have four := testRangeBad_pattern range
    refine ⟨enterCuff, enterHost, fun test => ⟨fun cuff => ?_, fun host => s.drawn.testProgram_host host four, ?_⟩,
      fun test => ⟨s.testCounts_length f, ?_⟩, fun eyes up test => ⟨s.scanned_awake eyes, ?_⟩, leaveCuff, leaveHost⟩
    · rw [State.inTest, if_pos cuff, beq_iff_eq] at test
      exact State.testProgram_cuff cuff four test
    · exact State.command_gives rfl ha (by simp [firstFail_eq_none, range, test]) rfl
    · refine State.command_gives rfl ha ?_ rfl
      by_cases cuff : f.side = 0 <;> simp [firstFail_eq_none, range, test, cuff]
    · refine State.command_gives rfl ha ?_ rfl
      by_cases cuff : f.side = 0
      · rcases up cuff with h | h | h <;> simp [firstFail_eq_none, range, cuff, h]
      · have host : f.side = 1 := by
          simp [testRangeBad] at range
          omega
        simp [firstFail_eq_none, range, cuff, test host]

end Sys2Proof.Machine
end
section
/-! PROOFS. Frames of a Cuff port: transmitter, receiver and timers (R319, R322 to R326; O40). -/

namespace Sys2Proof.Machine

/-! ### The transmitter (R319, R324, R326, R329, R331) -/

/-- From u to v a port gave cells and credit returns to a frame, and nothing else changed. -/
structure Port.GaveToFrame (u v : Port) : Prop where
  rest : { v with waiting := u.waiting, credits := u.credits, served := u.served, turn := u.turn, returns := u.returns } = u

section
variable {u v w : Port}

theorem Port.GaveToFrame.refl (u : Port) : u.GaveToFrame u := ⟨rfl⟩

theorem Port.GaveToFrame.trans (h : u.GaveToFrame v) (k : v.GaveToFrame w) : u.GaveToFrame w :=
  ⟨(congrArg (fun x : Port => { x with
    waiting := u.waiting, credits := u.credits, served := u.served, turn := u.turn, returns := u.returns }) k.rest).trans h.rest⟩

theorem Port.GaveToFrame.seq_eq (h : u.GaveToFrame v) : v.seq = u.seq := (congrArg Port.seq h.rest :)
theorem Port.GaveToFrame.replay_eq (h : u.GaveToFrame v) : v.replay = u.replay := (congrArg Port.replay h.rest :)
theorem Port.GaveToFrame.txScr_eq (h : u.GaveToFrame v) : v.txScr = u.txScr := (congrArg Port.txScr h.rest :)

end

theorem Port.pick_gave {u v : Port} {weights : List Nat} {z : VcCell} (h : u.pick weights = some (z, v)) : u.GaveToFrame v := by
  unfold Port.pick at h
  dsimp only at h
  split at h
  · cases h
  split at h
  · cases h
  rw [Option.map_eq_some_iff] at h
  obtain ⟨y, -, eq⟩ := h
  cases eq
  split <;> exact ⟨rfl⟩

theorem Port.pickCells_gave (weights : List Nat) (n : Nat) (u : Port) : u.GaveToFrame (Port.pickCells weights n u).2 := by
  induction n generalizing u with
  | zero => exact .refl u
  | succ n ih =>
    unfold Port.pickCells
    split
    · exact .refl u
    next z v pick => exact (Port.pick_gave pick).trans (ih v)

/-- Credit returns leave the cells. -/
theorem Port.pickReturns_gave (n : Nat) (u : Port) :
    u.GaveToFrame (Port.pickReturns n u).2 ∧ (Port.pickReturns n u).2.waiting = u.waiting := by
  induction n generalizing u with
  | zero => exact ⟨.refl u, rfl⟩
  | succ n ih =>
    unfold Port.pickReturns
    split
    · exact ⟨.refl u, rfl⟩
    next vc _ =>
      obtain ⟨gave, waiting⟩ := ih { u with returns := sset 0 u.returns vc 0 }
      have first : u.GaveToFrame { u with returns := sset 0 u.returns vc 0 } := ⟨rfl⟩
      exact ⟨⟨(first.trans gave).rest⟩, waiting⟩

/-- What a sent frame does to power management leaves numbering, replay, cells and lanes. -/
theorem Port.sentPm_keeps (u : Port) (now : Nat) : (u.sentPm now).seq = u.seq ∧ (u.sentPm now).replay = u.replay ∧
    (u.sentPm now).waiting = u.waiting ∧ (u.sentPm now).lastFrame = u.lastFrame ∧ (u.sentPm now).lines = u.lines := by
  unfold Port.sentPm
  split
  · exact ⟨rfl, rfl, rfl, rfl, rfl⟩
  · obtain ⟨w, hw⟩ := u.setState_word lsQuiet u.gen
    rw [hw]
    exact ⟨rfl, rfl, rfl, rfl, rfl⟩
  · exact ⟨rfl, rfl, rfl, rfl, rfl⟩

/-- The port that a new frame leaves: numbered and kept for replay if it carries cells or credit returns. -/
def Port.framed (u v : Port) (g now : Nat) (cells : List VcCell) (rets : List (Nat × Nat)) : Port :=
  let body := frameBody cells (controlWord cells u.seq (u.expected - 1) u.nakDue u.pmDue rets)
  let w := { v with nakDue := false, replaying := none, replayFrom := none }.sent g (wireFrame g body)
  if !cells.isEmpty || !rets.isEmpty then
    { w with seq := u.seq + 1, replay := u.replay ++ [(u.seq, body)], replayAt := u.replayAt.or (some (now + u.replayNs))
             idleSince := now }
  else w

theorem exec_frameTransmit_new {p : PortId} {s : State} {g : Nat} (gen : s.frameGen p = some g) (new : (s.port p).replaying = none)
    (room : (s.port p).replay.length < replayBodies) :
    let r := Port.pickCells s.classWeights 4 (s.port p)
    let z := Port.pickReturns 2 r.2
    exec (.frameTransmit p) s = .next (s.setPort p (((s.port p).framed z.2 g s.now r.1 z.1).sentPm s.now)) := by
  have arm : exec (.frameTransmit p) s = execFrameTransmit p s := rfl
  rw [arm, execFrameTransmit]
  simp only [gen, new, Option.bind_none, if_pos room]
  rfl

theorem frame_transmitted {p : PortId} {s : State} {g : Nat} (gen : s.frameGen p = some g) :
    let u := s.port p
    let r := Port.pickCells s.classWeights 4 u
    let z := Port.pickReturns 2 r.2
    u.replaying = none → u.replay.length < replayBodies →
    Gives (.frameTransmit p) s (fun t =>
      ((r.1 ≠ [] ∨ z.1 ≠ []) → (t.port p).seq = u.seq + 1 ∧ (t.port p).waiting = z.2.waiting ∧
        ∃ body, (t.port p).replay = u.replay ++ [(u.seq, body)] ∧ (t.port p).lastFrame = wireFrame g body ∧
          (t.port p).lines = (List.range 4).map (laneSymbols g (scrambled (wireFrame g body) 0 u.txScr).1)) ∧
      (r.1 = [] → z.1 = [] → (t.port p).seq = u.seq ∧ (t.port p).replay = u.replay)) := by
  intro u r z new room
  have gave : u.GaveToFrame z.2 := (Port.pickCells_gave _ _ u).trans (Port.pickReturns_gave 2 r.2).1
  refine ⟨_, exec_frameTransmit_new gen new room, ?_⟩
  dsimp only
  rw [State.setPort_port_same]
  obtain ⟨seq, replay, waiting, lastFrame, lines⟩ := Port.sentPm_keeps ((s.port p).framed z.2 g s.now r.1 z.1) s.now
  rw [seq, replay, waiting, lastFrame, lines]
  refine ⟨fun some => ?_, fun noCell noReturn => ?_⟩
  · have carries : (!r.1.isEmpty || !z.1.isEmpty) = true := by simpa using some
    unfold Port.framed
    rw [if_pos carries]
    exact ⟨rfl, rfl, _, rfl, rfl, by rw [← gave.txScr_eq]; rfl⟩
  · have empty : ¬ (!r.1.isEmpty || !z.1.isEmpty) = true := by simp [noCell, noReturn]
    unfold Port.framed
    rw [if_neg empty]
    exact ⟨gave.seq_eq, gave.replay_eq⟩

theorem frame_replayed {p : PortId} {s : State} {g : Nat} {q : BitVec 12} {body : List Byte} (gen : s.frameGen p = some g)
    (replaying : (s.port p).replaying = some q) (kept : (s.port p).replay.find? (fun b => b.1 == q) = some (q, body)) :
    Gives (.frameTransmit p) s (fun t => (t.port p).seq = (s.port p).seq ∧ (t.port p).replay = (s.port p).replay ∧
      (t.port p).lastFrame = wireFrame g
        (refreshBody body ((s.port p).expected - 1) (s.port p).nakDue (s.port p).pmDue)) := by
  have arm : exec (.frameTransmit p) s = execFrameTransmit p s := rfl
  rw [Gives, arm, execFrameTransmit]
  simp only [gen, replaying, Option.bind_some, kept]
  refine ⟨_, rfl, ?_⟩
  rw [State.setPort_port_same]
  obtain ⟨seq, replay, -, lastFrame, -⟩ := Port.sentPm_keeps ({ s.port p with
    nakDue := false, replaying := if (s.port p).replay.any (fun b => b.1 == q + 1) then some (q + 1) else none
    replayFrom := if (s.port p).replay.any (fun b => b.1 == q + 1) then (s.port p).replayFrom else none, idleSince := s.now }.sent g
      (wireFrame g (refreshBody body ((s.port p).expected - 1) (s.port p).nakDue (s.port p).pmDue))) s.now
  exact ⟨seq, replay, lastFrame⟩

/-! ### The receiver (R319, R322 to R326) -/

/-- Upsets strike cells of the input buffer, and nothing else. -/
theorem Port.upset_eq (u : Port) (l : List Nat) : ∃ k, u.upset l = { u with struck := k } := by
  unfold Port.upset
  split <;> exact ⟨_, rfl⟩

/-- A port whose receiver has taken a frame from its lanes: upsets struck its input buffer, and its scramblers moved on. -/
def Port.heard (u : Port) (w : LaneBytes) : Port := { u.upset w.struck with rxScr := (u.descrambled w.wire).2 }

theorem Port.heard_eq (u : Port) (w : LaneBytes) : ∃ k r, u.heard w = { u with struck := k, rxScr := r } := by
  obtain ⟨k, hk⟩ := u.upset_eq w.struck
  rw [Port.heard, hk]
  exact ⟨_, _, rfl⟩

section
variable {p : PortId} {s : State} {g : Nat} {w : LaneBytes}

/-- Upsets of the input buffer leave the generation of frames and what the lanes hold. -/
theorem State.upset_frames (s : State) (p : PortId) (l : List Nat) (wire : List Byte) :
    (s.setPort p ((s.port p).upset l)).frameGen p = s.frameGen p ∧ ((s.port p).upset l).descrambled wire = (s.port p).descrambled wire := by
  obtain ⟨k, hk⟩ := (s.port p).upset_eq l
  rw [hk]
  refine ⟨?_, rfl⟩
  unfold State.frameGen State.trainEntry
  rw [State.setPort_port_same]
  rfl

theorem frame_bad (gen : s.frameGen p = some g) (bad : decodeFrame g ((s.port p).descrambled w.wire).1 = none) :
    Gives (.frameReceive p w) s (fun t => (t.port p).nakDue = true ∧ (t.port p).input = (s.port p).input ∧
      (t.port p).expected = (s.port p).expected ∧ (t.port p).linkErr = bumpFld (s.port p).linkErr 31 20 1) := by
  have arm : exec (.frameReceive p w) s = execFrameReceive p w s := rfl
  obtain ⟨gen', lanes⟩ := s.upset_frames p w.struck w.wire
  rw [Gives, arm, execFrameReceive]
  simp only [gen', gen, State.setPort_port_same, lanes, bad]
  refine ⟨_, rfl, ?_⟩
  rw [State.setPort_port_same]
  obtain ⟨k, hk⟩ := (s.port p).upset_eq w.struck
  rw [hk]
  exact ⟨rfl, rfl, rfl, rfl⟩

/-- A decoded frame of a port in ACTIVE is taken by the port that heard it, with what the decoder corrected. -/
theorem exec_frameReceive_active {body : List Byte} {n : Nat} (gen : s.frameGen p = some g) (active : (s.port p).state = lsActive)
    (good : decodeFrame g ((s.port p).descrambled w.wire).1 = some (body, n)) :
    ∃ t : State, exec (.frameReceive p w) s = .next (t.goodFrame p body) ∧ ∃ k r e,
      t.port p = { s.port p with struck := k, rxScr := r, linkErr := e } := by
  have arm : exec (.frameReceive p w) s = execFrameReceive p w s := rfl
  obtain ⟨gen', lanes⟩ := s.upset_frames p w.struck w.wire
  have notTraining (t : State) (h : (t.port p).state = lsActive) : t.trainEntry p = none := by
    rw [State.trainEntry, if_neg (fun h' => absurd (h'.1.symm.trans h) (by decide))]
  obtain ⟨k, hk⟩ := (s.port p).upset_eq w.struck
  rw [arm, execFrameReceive]
  simp only [gen', gen, State.setPort_port_same, lanes, good]
  rw [notTraining _ (by rw [State.setPort_port_same, hk, Port.state]; exact active)]
  refine ⟨_, rfl, ?_⟩
  rw [State.setPort_port_same, hk]
  exact ⟨_, _, _, rfl⟩

end

/-- An acknowledgement changes what is kept for replay. -/
theorem Port.acked_eq (u : Port) (ack : BitVec 12) (now : Nat) : ∃ a b c d e,
    u.acked ack now = { u with replay := a, replays := b, replaying := c, replayFrom := d, replayAt := e } := by
  unfold Port.acked
  split <;> exact ⟨_, _, _, _, _, rfl⟩

/-- A sequenced frame without nak and power management, on channels that exist, at a port in ACTIVE. -/
theorem State.goodFrame_sequenced {t : State} {p : Nat} {body : List Byte} (active : (t.port p).state = lsActive)
    (channels : (bodyCells body).any (fun z => decide (18 ≤ z.vc)) = false) (nak : lcFld (bodyWord body) 48 48 = 0)
    (pm : lcFld (bodyWord body) 50 49 = 0) (carries : lcFld (bodyWord body) 3 0 ≠ 0 ∨ bodyReturns body ≠ []) :
    let r := t.modPort p (fun u => u.acked (BitVec.ofNat 12 (lcFld (bodyWord body) 47 36)) t.now)
    (BitVec.ofNat 12 (lcFld (bodyWord body) 35 24) ≠ (t.port p).expected → t.goodFrame p body = r.setPort p { r.port p with
      nakDue := true, nakAt := (r.port p).nakAt.or (some (r.now + (r.port p).replayNs)), idleSince := r.now }) ∧
    (BitVec.ofNat 12 (lcFld (bodyWord body) 35 24) = (t.port p).expected → (t.port p).overfilled body = false →
      t.goodFrame p body = r.setPort p ((r.port p).accept body r.now)) := by
  intro r
  obtain ⟨a, b, c, d, e, hack⟩ := (t.port p).acked_eq (BitVec.ofNat 12 (lcFld (bodyWord body) 47 36)) t.now
  have port : r.port p = { t.port p with replay := a, replays := b, replaying := c, replayFrom := d, replayAt := e } :=
    (State.modPort_port_same _ _ _).trans hack
  have here : (r.port p).state = lsActive := by rw [port]; exact active
  have idle : (r.port p).pmReceived (lcFld (bodyWord body) 50 49) t.now = r.port p := by rw [pm]; rfl
  have sequenced : (lcFld (bodyWord body) 3 0 != 0 || bodyReturns body != []) = true := by simpa using carries
  have run : t.goodFrame p body =
      if BitVec.ofNat 12 (lcFld (bodyWord body) 35 24) ≠ (r.port p).expected then r.setPort p { r.port p with
        nakDue := true, nakAt := (r.port p).nakAt.or (some (r.now + (r.port p).replayNs)), idleSince := r.now }
      else if (r.port p).overfilled body then r.linkReset p lcProtocol
      else r.setPort p ((r.port p).accept body r.now) := by
    unfold State.goodFrame
    rw [channels]
    simp only [nak, Bool.false_eq_true, if_false, Nat.zero_ne_one]
    rw [show t.modPort p (fun u => u.acked (BitVec.ofNat 12 (lcFld (bodyWord body) 47 36)) t.now) = r from rfl, if_neg (not_not.2 here),
      idle, sequenced]
    rfl
  have expected : (r.port p).expected = (t.port p).expected := by rw [port]
  rw [run, expected]
  refine ⟨fun ne => if_pos ne, fun eq room => ?_⟩
  have fits : (r.port p).overfilled body = false := by rw [port]; exact room
  rw [if_neg (not_not.2 eq), fits, if_neg Bool.false_ne_true]

theorem frame_sequenced {p : PortId} {s : State} {g : Nat} {w : LaneBytes} {body : List Byte} {n : Nat} (gen : s.frameGen p = some g)
    (active : (s.port p).state = lsActive) (good : decodeFrame g ((s.port p).descrambled w.wire).1 = some (body, n))
    (channels : (bodyCells body).any (fun z => decide (18 ≤ z.vc)) = false) (nak : lcFld (bodyWord body) 48 48 = 0)
    (pm : lcFld (bodyWord body) 50 49 = 0) (carries : lcFld (bodyWord body) 3 0 ≠ 0 ∨ bodyReturns body ≠ []) :
    (BitVec.ofNat 12 (lcFld (bodyWord body) 35 24) = (s.port p).expected → (s.port p).overfilled body = false →
      Gives (.frameReceive p w) s (fun t => (t.port p).input = (s.port p).input ++ bodyCells body ∧
        (t.port p).expected = (s.port p).expected + 1 ∧ (t.port p).nakAt = none)) ∧
    (BitVec.ofNat 12 (lcFld (bodyWord body) 35 24) ≠ (s.port p).expected →
      Gives (.frameReceive p w) s (fun t => (t.port p).input = (s.port p).input ∧
        (t.port p).expected = (s.port p).expected ∧ (t.port p).nakDue = true)) := by
  obtain ⟨t, run, k, r, e, port⟩ := exec_frameReceive_active gen active good
  have there : (t.port p).state = lsActive := by rw [port]; exact active
  have expected : (t.port p).expected = (s.port p).expected := by rw [port]
  have input : (t.port p).input = (s.port p).input := by rw [port]
  obtain ⟨refuses, accepts⟩ := State.goodFrame_sequenced there channels nak pm carries
  obtain ⟨a, b, c, d, f, hack⟩ := (t.port p).acked_eq (BitVec.ofNat 12 (lcFld (bodyWord body) 47 36)) t.now
  refine ⟨fun eq room => ⟨_, run, ?_⟩, fun ne => ⟨_, run, ?_⟩⟩ <;> dsimp only
  · rw [accepts (eq.trans expected.symm) (by rw [port]; exact room), State.setPort_port_same, State.modPort_port_same, hack, ← input,
      ← expected]
    exact ⟨rfl, rfl, rfl⟩
  · rw [refuses (fun eq => ne (eq.trans expected)), State.setPort_port_same, State.modPort_port_same, hack, ← input, ← expected]
    exact ⟨rfl, rfl, rfl⟩

/-! ### The timers (R325, R326) -/

theorem replay_timeout {p : PortId} {s : State} {due : Nat} (active : (s.port p).state = lsActive) (passed : due ≤ s.now)
    {b : BitVec 12 × List Byte} {rest : List (BitVec 12 × List Byte)} (at' : (s.port p).replayAt = some due)
    (oldest : (s.port p).replay = b :: rest) :
    ((s.port p).replays < 8 → Gives (.replayTimeout p) s (fun t => (t.port p).replaying = some b.1 ∧
      (t.port p).replays = (s.port p).replays + 1 ∧ (t.port p).replay = (s.port p).replay ∧
      (t.port p).linkErr = bumpFld (s.port p).linkErr 19 8 1)) ∧
    (8 ≤ (s.port p).replays → exec (.replayTimeout p) s = .next (s.linkReset p lcRetryLimit)) := by
  have arm : exec (.replayTimeout p) s = execReplayTimeout p s := rfl
  have run : exec (.replayTimeout p) s = .next (s.startReplay p b.1) := by
    rw [arm, execReplayTimeout]
    simp only [at', oldest]
    rw [if_neg (by rintro (h | h); exacts [by omega, h active])]
  refine ⟨fun few => ⟨_, run, ?_⟩, fun many => by rw [run, State.startReplay, if_pos many]⟩
  rw [State.startReplay, if_neg (by omega)]
  dsimp only
  rw [State.modPort_port_same]
  exact ⟨rfl, rfl, rfl, rfl⟩

theorem receiver_nakTimeout {p : PortId} {s : State} {due : Nat} (active : (s.port p).state = lsActive) (passed : due ≤ s.now)
    (at' : (s.port p).nakAt = some due) :
    Gives (.receiverNakTimeout p) s (fun t => (t.port p).nakDue = true ∧
      (t.port p).nakAt = some (s.now + (s.port p).replayNs) ∧ (t.port p).expected = (s.port p).expected) := by
  have arm : exec (.receiverNakTimeout p) s = execReceiverNakTimeout p s := rfl
  rw [Gives, arm, execReceiverNakTimeout]
  simp only [at']
  rw [if_neg (by rintro (h | h); exacts [by omega, h active])]
  refine ⟨_, rfl, ?_⟩
  rw [State.setPort_port_same]
  exact ⟨rfl, rfl, rfl⟩

/-- Settles O40: the transmitter, the receiver and the timers of the link's frames. -/
theorem framesAreSequenced : Obligations.FramesAreSequenced := by
  refine ⟨fun p s g gen => ⟨?sent, ?again, ?bad, ?good⟩, fun p s due active passed => ⟨?replay, ?nak⟩⟩
  case sent => exact frame_transmitted gen
  case again => exact fun q body => frame_replayed gen
  case bad => exact fun wire struck => frame_bad (w := ⟨wire, struck⟩) gen
  case good =>
    intro wire struck body n active good channels nak pm carries
    exact frame_sequenced (w := ⟨wire, struck⟩) gen active good channels nak pm carries
  case replay => exact fun b rest => replay_timeout active passed
  case nak => exact receiver_nakTimeout active passed

end Sys2Proof.Machine
end
section
/-! PROOFS. A patrol scrub whose count has left its group (R238; the refutation of O42). -/

namespace Sys2Proof.Machine

/-! ### A patrol scrub whose count has left its group (R238, Table 9-6) -/

/-- A scrub of group 0 whose count stands one line behind the group's 8 channels: its next line is line 32 of channel 8. Group 1,
which has that channel, is in self-refresh, and a write of line 32 waits for its exit. -/
def State.scrubPast : State :=
  ((State.reset.modGroup 0 (fun v => { v with scrubNext := 8 * channelLines })).modGroup 1 (fun v => { v with selfRefresh := true })).setChannel 8
    { slots := [⟨0, 32, .write 0 [1] false []⟩] }

/-- The byte of main memory that an outcome leaves at an address; 0 for an outcome without a next state. -/
def byteAfter (o : Host.Outcome State Fault Refusal) (a : Nat) : Byte :=
  match o with
  | .next t => sget 0 t.mem.bytes a
  | _ => 0

/-- The scrub's read wakes group 1, and the write that has waited there takes effect. -/
theorem byteAfter_scrubPast : byteAfter (exec (.patrolScrub 0 []) State.scrubPast) 2048 = 1 := by decide

theorem scrubPast_clean : State.scrubPast.mem.deltaOf (scrubLine 0 (State.scrubPast.group 0).scrubNext) = 0 := by decide

theorem scrubPast_enabled : bitOf (State.scrubPast.group 0).scrubCfg.toNat 31 = true := by decide

theorem scrubPast_byte : sget 0 State.scrubPast.mem.bytes 2048 = 0 := by decide

/-- Refutes O42: the statement lets `scrubNext` be any number, and a count behind the last line of the group's 8 channels names a
line of another group. Where that group is in self-refresh, the patrol read ends the self-refresh, and a write that waited there
changes main memory. -/
theorem not_memoryLinesAndScrubsAct : ¬ Obligations.MemoryLinesAndScrubsAct := by
  intro h
  obtain ⟨-, -, -, scrub, -⟩ := h
  obtain ⟨t, run, mem, -⟩ := scrub 0 State.scrubPast rfl scrubPast_enabled scrubPast_clean
  have written : sget 0 t.mem.bytes 2048 = 1 := by
    have here := byteAfter_scrubPast
    rwa [run] at here
  rw [mem, scrubPast_byte] at written
  exact absurd written (by decide)

end Sys2Proof.Machine
end
section
/-! PROOFS. Walks (R253, R257, R261, R264): the buffers that they fill, the faults that they find (O43). -/

namespace Sys2Proof.Machine

/-! ### Records are numbered upwards (R490) -/

/-- Records are pushed one after another. -/
theorem Ras.foldl_push_nextSeq (l : List LogRec) (a : Ras) : (l.foldl Ras.push a).nextSeq = a.nextSeq + l.length := by
  induction l generalizing a with
  | nil => rfl
  | cons r l ih =>
    rw [List.foldl_cons, ih, Ras.push_nextSeq, List.length_cons]
    omega

/-- An error takes a record at least. -/
theorem State.log_nextSeq (s : State) (l : LogArgs) : s.ras.nextSeq < (s.log l).ras.nextSeq := by
  unfold State.log
  dsimp only
  rw [Ras.foldl_push_nextSeq, List.length_cons]
  omega

/-- From s to t no record number was taken back. -/
def SeqLe (s t : State) : Prop := s.ras.nextSeq ≤ t.ras.nextSeq

section
variable {s t u : State}

theorem SeqLe.refl (s : State) : SeqLe s s := Nat.le_refl _
theorem SeqLe.trans (h : SeqLe s t) (k : SeqLe t u) : SeqLe s u := Nat.le_trans h k
theorem SeqLe.of_eq (h : t.ras = s.ras) : SeqLe s t := Nat.le_of_eq (congrArg Ras.nextSeq h).symm

end

theorem State.readLine_seqLe (s : State) (l : Nat) (u : List (Nat × BitVec 16)) : SeqLe s (s.readLine l u).1 := by
  unfold State.readLine
  dsimp only
  split
  · exact .refl s
  split
  · exact .of_eq rfl
  · exact .of_eq rfl
  · exact .of_eq rfl
  · exact .of_eq rfl
  · exact (SeqLe.of_eq rfl).trans (State.log_nextSeq _ _).le

theorem State.mergeLine_seqLe (s : State) (l off : Nat) (bs : List Byte) (p : Bool) (u : List (Nat × BitVec 16)) :
    SeqLe s (s.mergeLine l off bs p u) := by
  unfold State.mergeLine
  split
  · exact .of_eq rfl
  · exact (s.readLine_seqLe l u).trans (.of_eq rfl)

theorem State.atomicLine_seqLe (s : State) (l off op : Nat) (v c : Word64) (u : List (Nat × BitVec 16)) :
    SeqLe s (s.atomicLine l off op v c u).1 := by
  unfold State.atomicLine
  dsimp only
  split
  · exact s.readLine_seqLe l u
  · exact (s.readLine_seqLe l u).trans (State.mergeLine_seqLe _ _ _ _ _ _)

theorem State.act_seqLe (s : State) (t : Txn) : SeqLe s (s.act t) := by
  unfold State.act
  split
  · exact s.readLine_seqLe _ _
  · exact s.mergeLine_seqLe _ _ _ _ _
  · exact s.atomicLine_seqLe _ _ _ _ _ _

theorem State.takeSlots_seqLe (s : State) (ch : Nat) : SeqLe s (s.takeSlots ch) :=
  foldl_keeps (SeqLe s) _ _ _ (.refl s) fun b a h => by
    split
    · exact h.trans (.of_eq rfl)
    · exact h

theorem State.turn_seqLe (s : State) (ch : Nat) : SeqLe s (s.turn ch) := by
  unfold State.turn
  dsimp only
  split
  · exact .refl s
  · have granted {r : State} (h : SeqLe s r) (go : List Txn) : SeqLe s (go.foldl State.act r) :=
      foldl_keeps (SeqLe s) State.act _ _ h fun b a k => k.trans (b.act_seqLe a)
    exact SeqLe.trans (t := (transfer _ _).foldl State.act (s.setChannel ch _)) (granted (r := s.setChannel ch _) (.of_eq rfl) _)
      (.of_eq rfl)

theorem State.drain_seqLe (ch n : Nat) (s : State) : SeqLe s (State.drain ch n s) := by
  induction n generalizing s with
  | zero => exact .refl s
  | succ n ih =>
    unfold State.drain
    split
    · exact .refl s
    · exact ((s.turn_seqLe ch).trans (State.takeSlots_seqLe _ _)).trans (ih _)

theorem State.touched_seqLe (s : State) (g : Nat) : SeqLe s (s.touched g) := by
  rcases s.touched_cases g with h | ⟨d, w, h⟩ <;> rw [h]
  · exact .refl s
  · exact .of_eq rfl

theorem State.drainGroup_seqLe (s : State) (g : Nat) : SeqLe s (s.drainGroup g) :=
  foldl_keeps (SeqLe s) _ _ _ (.refl s) fun b a h => by
    split
    · exact h
    · exact h.trans (State.drain_seqLe _ _ _)

theorem State.srExit_seqLe (s : State) (g : Nat) : SeqLe s (s.srExit g) := by
  have first : SeqLe s (s.modGroup g (fun v => { v with selfRefresh := false })) := .of_eq rfl
  exact (first.trans (State.drainGroup_seqLe _ g)).trans (State.touched_seqLe _ g)

theorem State.awake_seqLe (s : State) (l : Nat) : SeqLe s (s.awake l) := by
  unfold State.awake
  dsimp only
  split
  · exact s.srExit_seqLe _
  · exact s.touched_seqLe _

theorem State.fetchLine_seqLe (s : State) (l : Nat) (u : List (Nat × BitVec 16)) : SeqLe s (s.fetchLine l u).1 :=
  (s.awake_seqLe l).trans (State.readLine_seqLe _ _ _)

/-! ### Walks (R253, R257, R261, R264) -/

theorem tlbHas_fill (sets ways : Nat) (l : List (Nat × Nat × Word64)) (x page : Nat) (w : Word64) :
    tlbHas (tlbFill sets ways l (x, page, w)) x page = true := by
  simp [tlbHas, tlbFind, tlbFill]

theorem tlbFind_key {l : List (Nat × Nat × Word64)} {x page : Nat} {e : Nat × Nat × Word64} (h : tlbFind l x page = some e) :
    ∃ w, e = (x, page, w) := by
  have key := List.find?_some h
  simp only [Bool.and_eq_true, beq_iff_eq] at key
  exact ⟨e.2.2, by rw [← key.1, ← key.2]⟩

/-- An entry put into the buffers that serve an agent is found there. -/
theorem State.tlbPut_hit (s : State) (a : Agent) (unit x page : Nat) (w : Word64) :
    (s.tlbPut a unit (x, page, w)).tlbHit x a unit page = true := by
  cases a
  all_goals
    simp only [State.tlbPut, State.tlbHit, State.tlbCore, State.modCluster_cluster_same, State.modGroup_group_same, State.modCluster_core,
      State.modCore_core_same, tlbHas_fill, Bool.true_or]

/-- Filling a buffer leaves main memory and the walk counters. -/
theorem State.tlbPut_walkStat (s : State) (a : Agent) (unit : Nat) (e : Nat × Nat × Word64) (k : Nat) :
    ((s.tlbPut a unit e).cluster k).walkStat = (s.cluster k).walkStat := by
  have own (t : State) (j : Nat) (f : List (Nat × Nat × Word64) → List (Nat × Nat × Word64)) :
      ((t.modCluster j (fun u => { u with tlb := f u.tlb })).cluster k).walkStat = (t.cluster k).walkStat := by
    by_cases h : k = j
    · subst h
      rw [State.modCluster_cluster_same]
    · rw [State.modCluster_cluster_other _ _ h]
  cases a
  case scalar | fetch | coreDma | remoteOp => exact own (s.tlbCore unit e) (unit / 16) (fun l => tlbFill 256 8 l e)
  case bulkDma | routeOp | exchange | pocket | stash | collective => exact own s unit (fun l => tlbFill 256 8 l e)
  case update | inbound | inboundPinned | hostDma => rfl

/-- A hit: the page stays in the buffers, and the counters stand. -/
theorem State.tlbRefill_keeps (s : State) (x : Nat) (a : Agent) (unit page : Nat) (hit : s.tlbHit x a unit page = true) :
    (s.tlbRefill x a unit page).tlbHit x a unit page = true ∧ (s.tlbRefill x a unit page).mem = s.mem ∧
      ∀ k, ((s.tlbRefill x a unit page).cluster k).walkStat = (s.cluster k).walkStat := by
  have core (e : Nat × Nat × Word64) (he : tlbFind (s.cluster (unit / 16)).tlb x page = some e) :
      tlbHas ((s.tlbCore unit e).core unit).tlb x page = true := by
    obtain ⟨w, rfl⟩ := tlbFind_key he
    rw [State.tlbCore, State.modCore_core_same, tlbHas_fill]
  cases a
  case scalar | fetch | coreDma | remoteOp =>
    unfold State.tlbRefill
    dsimp only
    split
    · exact ⟨hit, rfl, fun _ => rfl⟩
    split
    next e he => exact ⟨by rw [State.tlbHit, core e he, Bool.true_or], rfl, fun _ => rfl⟩
    next => exact ⟨hit, rfl, fun _ => rfl⟩
  all_goals exact ⟨hit, rfl, fun _ => rfl⟩

/-- What a walk reads on its way is read as any line. -/
theorem foldl_fetchLine (ls : List Nat) (s : State) :
    MemOnly s (ls.foldl (fun u l => (u.fetchLine l []).1) s) ∧ SeqLe s (ls.foldl (fun u l => (u.fetchLine l []).1) s) :=
  ⟨foldl_keeps (MemOnly s) _ _ _ (.refl s) fun _ _ h => h.trans (State.fetchLine_memOnly _ _ _),
    foldl_keeps (SeqLe s) _ _ _ (.refl s) fun _ _ h => h.trans (State.fetchLine_seqLe _ _ _)⟩

theorem State.walkStarted_walkStat (s : State) {a : Agent} {unit k : Nat} (h : walkCluster a unit = some k) :
    ((s.walkStarted a unit).cluster k).walkStat = bumpFld (s.cluster k).walkStat 63 32 1 := by
  simp only [State.walkStarted, h, State.modCluster_cluster_same]

theorem State.walkFailed_walkStat (s : State) {a : Agent} {unit k : Nat} (h : walkCluster a unit = some k) :
    ((s.walkFailed a unit).cluster k).walkStat = bumpFld (s.cluster k).walkStat 31 0 1 := by
  simp only [State.walkFailed, h, State.modCluster_cluster_same]

theorem State.walkStarted_leaves (s : State) (a : Agent) (unit : Nat) :
    (s.walkStarted a unit).ctxs = s.ctxs ∧ (s.walkStarted a unit).ras = s.ras := by
  unfold State.walkStarted
  split <;> exact ⟨rfl, rfl⟩

theorem State.walkFailed_leaves (s : State) (a : Agent) (unit : Nat) :
    (s.walkFailed a unit).ctxs = s.ctxs ∧ (s.walkFailed a unit).ras = s.ras := by
  unfold State.walkFailed
  split <;> exact ⟨rfl, rfl⟩

theorem State.faultWalk_leaves (s : State) (x : Nat) (f : TFault) : (s.faultWalk x f).ctxs = s.ctxs ∧ (s.faultWalk x f).ras = s.ras := by
  unfold State.faultWalk
  split
  · exact ⟨rfl, rfl⟩
  · obtain ⟨ctxs, ras⟩ := (s.walkStarted f.agent f.unit).walkFailed_leaves f.agent f.unit
    obtain ⟨ctxs', ras'⟩ := s.walkStarted_leaves f.agent f.unit
    exact ⟨ctxs.trans ctxs', ras.trans ras'⟩

/-- Receives and collectives that change leave contexts, records and the walk counters. -/
theorem State.modWaits_leaves (s : State) (x : Nat) (g : XRecv → XRecv) (h : Coll → Coll) :
    (s.modWaits x g h).ctxs = s.ctxs ∧ (s.modWaits x g h).ras = s.ras ∧
      ∀ k, ((s.modWaits x g h).cluster k).walkStat = (s.cluster k).walkStat := by
  refine foldl_keeps (fun t : State => t.ctxs = s.ctxs ∧ t.ras = s.ras ∧ ∀ k, (t.cluster k).walkStat = (s.cluster k).walkStat) _ _ _
    ⟨rfl, rfl, fun _ => rfl⟩ fun t j keep => ?_
  obtain ⟨ctxs, ras, stat⟩ := keep
  split
  · refine ⟨ctxs, ras, fun k => ?_⟩
    by_cases own : k = j
    · subst own
      rw [State.modCluster_cluster_same]
      exact stat k
    · rw [State.modCluster_cluster_other _ _ own]
      exact stat k
  · exact ⟨ctxs, ras, stat⟩

/-- A context that stops on a resumable fault: its record, its state, and its receives and collectives paused. -/
def State.stopsResumable (s : State) (x : Nat) (l : LogArgs) : State :=
  (((s.log { l with ctx := some x }).modCtx x (fun v => { v with
    state := if v.state = .running then .stopped else v.state })).pauseRecvs x).noticeCtx x 1
      (s.logRecord { l with ctx := some x }).toBytes

theorem State.tfault_eq (s : State) (x : Nat) (f : TFault) (block inst : Nat) (progress : Option Nat) :
    s.tfault x f block inst progress =
      if f.resumable then ((s.faultWalk x f).modCtx x (fun v => v.fault f)).stopsResumable x (f.log block inst progress)
      else ((s.faultWalk x f).modCtx x (fun v => v.fault f)).contained (some x) (f.log block inst progress) := rfl

/-- Either way a running context is stopped with a record, and the walk counters stand. -/
theorem State.stopsResumable_stops (s : State) (x : Nat) (l : LogArgs) (running : (s.ctx x).state = .running) :
    ((s.stopsResumable x l).ctx x).state = .stopped ∧ s.ras.nextSeq < (s.stopsResumable x l).ras.nextSeq ∧
      ∀ k, ((s.stopsResumable x l).cluster k).walkStat = (s.cluster k).walkStat := by
  unfold State.stopsResumable State.pauseRecvs
  generalize hr : (s.log { l with ctx := some x }).modCtx x (fun v => { v with state := if v.state = .running then .stopped else v.state }) = r
  obtain ⟨ctxs, ras, stat⟩ := r.modWaits_leaves x (fun v => { v with paused := v.paused.or (some r.now) })
    (fun z => { z with paused := z.paused.or (some r.now) })
  refine ⟨?_, ?_, fun k => ?_⟩
  · rw [State.noticeCtx_ctx, State.ctx, ctxs]
    show (r.ctx x).state = .stopped
    rw [← hr, State.modCtx_ctx_same, State.log_ctx, running]
    rfl
  · rw [State.noticeCtx_ras, ras, ← hr, State.modCtx_ras]
    exact State.log_nextSeq _ _
  · rw [State.noticeCtx_cluster, stat, ← hr]
    rfl

theorem State.contained_stops (s : State) (x : Nat) (l : LogArgs) (running : (s.ctx x).state = .running) :
    ((s.contained (some x) l).ctx x).state = .stopped ∧ s.ras.nextSeq < (s.contained (some x) l).ras.nextSeq ∧
      ∀ k, ((s.contained (some x) l).cluster k).walkStat = (s.cluster k).walkStat := by
  refine ⟨?_, ?_, fun k => by rw [State.contained_cluster]⟩
  · rw [State.contained_ctx_same, running]
    rfl
  · rw [State.contained_ras]
    exact State.log_nextSeq _ _

/-- A translation fault stops the running context with a record; the counters are those of the walk that found it. -/
theorem State.tfault_stops (s : State) (x : Nat) (f : TFault) (block inst : Nat) (progress : Option Nat)
    (running : (s.ctx x).state = .running) :
    ((s.tfault x f block inst progress).ctx x).state = .stopped ∧ s.ras.nextSeq < (s.tfault x f block inst progress).ras.nextSeq ∧
      ∀ k, ((s.tfault x f block inst progress).cluster k).walkStat = ((s.faultWalk x f).cluster k).walkStat := by
  obtain ⟨ctxs, ras⟩ := s.faultWalk_leaves x f
  have before : (((s.faultWalk x f).modCtx x (fun v => v.fault f)).ctx x).state = .running := by
    rw [State.modCtx_ctx_same, State.ctx, ctxs]
    exact running
  have number : ((s.faultWalk x f).modCtx x (fun v => v.fault f)).ras = s.ras := ras
  rw [State.tfault_eq, ← number]
  split
  · exact State.stopsResumable_stops _ x _ before
  · exact State.contained_stops _ x _ before

/-- The walk that found a fault, of a page that no buffer holds: started, and failed. -/
theorem State.faultWalk_walkStat (s : State) (x : Nat) (f : TFault) {k : Nat} (low : f.va < 2 ^ 48)
    (miss : s.tlbHit x f.agent f.unit (f.va / 65536) = false) (h : walkCluster f.agent f.unit = some k) :
    ((s.faultWalk x f).cluster k).walkStat = bumpFld (bumpFld (s.cluster k).walkStat 63 32 1) 31 0 1 := by
  rw [State.faultWalk, if_neg (by simpa [miss] using low), State.walkFailed_walkStat _ h, State.walkStarted_walkStat _ h]

/-- A change of main memory and its registers leaves the buffers of the agents that a cluster counts. -/
theorem MemOnly.tlbHit {s t : State} (h : MemOnly s t) {a : Agent} {unit k : Nat} (w : walkCluster a unit = some k) (x page : Nat) :
    t.tlbHit x a unit page = s.tlbHit x a unit page := by
  have core : t.core unit = s.core unit := (congrArg (fun l => sget {} l unit) h.cores :)
  have cluster (j : Nat) : t.cluster j = s.cluster j := (congrArg (fun l => sget {} l j) h.clusters :)
  cases a
  case update | inbound | inboundPinned | hostDma => cases w
  case scalar | fetch | coreDma | remoteOp => rw [State.tlbHit, State.tlbHit, core, cluster]
  all_goals rw [State.tlbHit, State.tlbHit, cluster]

/-- The lines that a walk reads. -/
def State.walkReads (s : State) (x a : Nat) : State :=
  if 2 ^ 48 ≤ a ∨ (s.ctx x).root = 0 then s else (s.walkLines (s.ctx x).root a).foldl (fun u l => (u.fetchLine l []).1) s

theorem State.walkReads_leaves (s : State) (x a : Nat) : MemOnly s (s.walkReads x a) ∧ SeqLe s (s.walkReads x a) := by
  unfold State.walkReads
  split
  · exact ⟨.refl s, .refl s⟩
  · exact foldl_fetchLine _ s

/-- WALK of a page that no buffer of the agent holds. -/
theorem exec_walk_miss {x : CtxId} {agent : Agent} {unit : Nat} {access : Access} {va : Word64} {s : State}
    (used : (s.ctx x).state ≠ .free) (miss : s.tlbHit x agent unit (va.toNat / 65536) = false) :
    (∀ f, s.lookup x agent access va.toNat = .ok f → exec (.walk x agent unit access va) s =
      .next (((s.walkReads x va.toNat).walkStarted agent unit).tlbPut agent unit (x.val, va.toNat / 65536, f.entry))) ∧
    ∀ e, s.lookup x agent access va.toNat = .error e → exec (.walk x agent unit access va) s = .next
      (if agentInbound agent then
        (if e = kNotMapped then (s.walkReads x va.toNat).noticeCtx x 4 (leFields [(8, va.toNat), (1, e), (7, 0)]) else s.walkReads x va.toNat)
      else (s.walkReads x va.toNat).tfault x ⟨agent, unit, e, access, va.toNat⟩ (agentBlock agent unit).1 (agentBlock agent unit).2 none) := by
  have arm : exec (.walk x agent unit access va) s = execWalk x agent unit access va s := rfl
  refine ⟨fun f found => ?_, fun e fault => ?_⟩
  · rw [arm, execWalk]
    dsimp only
    rw [if_neg used, miss, if_neg Bool.false_ne_true, found]
    rfl
  · rw [arm, execWalk]
    dsimp only
    rw [if_neg used, miss, if_neg Bool.false_ne_true, fault]
    rfl

/-- Settles O43: a hit, a walk that finds its page, and a walk that faults. -/
theorem walkFillsOrFaults : Obligations.WalkFillsOrFaults := by
  intro x agent unit access va s used low
  have arm : exec (.walk x agent unit access va) s = execWalk x agent unit access va s := rfl
  refine ⟨fun hit => ⟨s.tlbRefill x agent unit (va.toNat / 65536), ?_, s.tlbRefill_keeps x agent unit _ hit⟩, fun miss => ?_⟩
  · rw [arm, execWalk]
    dsimp only
    rw [if_neg used, if_pos hit]
  obtain ⟨finds, faults⟩ := exec_walk_miss (access := access) used miss
  obtain ⟨memOnly, seqLe⟩ := s.walkReads_leaves x va.toNat
  have cluster (k : Nat) : (s.walkReads x va.toNat).cluster k = s.cluster k := (congrArg (fun l => sget {} l k) memOnly.clusters :)
  have ctx : (s.walkReads x va.toNat).ctx x = s.ctx x := (congrArg (fun l => sget {} l x.val) memOnly.ctxs :)
  refine ⟨fun f found => ⟨_, finds f found, State.tlbPut_hit _ _ _ _ _ _, fun k hk => ?_⟩, fun e fault => ⟨fun core running => ?_, fun inbound => ?_⟩⟩
  · rw [State.tlbPut_walkStat, State.walkStarted_walkStat _ hk, cluster]
  · have run := faults e fault
    rw [core, if_neg Bool.false_ne_true] at run
    obtain ⟨stopped, record, stat⟩ := (s.walkReads x va.toNat).tfault_stops x ⟨agent, unit, e, access, va.toNat⟩ (agentBlock agent unit).1
      (agentBlock agent unit).2 none (ctx ▸ running)
    refine ⟨_, run, stopped, lt_of_le_of_lt seqLe record, fun k hk => ?_⟩
    rw [stat, State.faultWalk_walkStat _ _ _ low ((memOnly.tlbHit hk _ _).trans miss) hk, cluster]
  · have run := faults e fault
    rw [inbound, if_pos rfl] at run
    refine ⟨_, run, ?_⟩
    split
    · rw [State.noticeCtx_ctx, ctx]
    · rw [ctx]

end Sys2Proof.Machine
end
section
/-! PROOFS. Frames, pauses, address answers and link events of the host port (R393 to R398, R424; O44). -/

namespace Sys2Proof.Machine

/-! ### Frames (R394 to R398) -/

/-- From s to t the host port sent or held frames, refused a window, answered a mark or drew a free value: the counts of frames, the
buffer's fill and main memory stand. -/
structure FramesOnly (s t : State) : Prop where
  fill : t.hp.bufferFill = s.hp.bufferFill
  discards : t.hp.discards = s.hp.discards
  mem : t.mem = s.mem

section
variable {s t u : State}

theorem FramesOnly.refl (s : State) : FramesOnly s s := ⟨rfl, rfl, rfl⟩

theorem FramesOnly.trans (h : FramesOnly s t) (k : FramesOnly t u) : FramesOnly s u :=
  ⟨k.fill.trans h.fill, k.discards.trans h.discards, k.mem.trans h.mem⟩

end

theorem State.hpSend_framesOnly (s : State) (pcp kind : Nat) (bs : List Byte) : FramesOnly s (s.hpSend pcp kind bs) := by
  unfold State.hpSend
  split
  · exact .refl s
  split <;> exact ⟨rfl, rfl, rfl⟩

theorem State.windowNak_framesOnly (s : State) (qp cls : Nat) : FramesOnly s (s.windowNak qp cls) := by
  unfold State.windowNak
  dsimp only
  split
  · exact FramesOnly.trans (t := { s with hp := { s.hp with windowRefusals := s.hp.windowRefusals + 1 } }) ⟨rfl, rfl, rfl⟩
      (State.hpSend_framesOnly _ _ _ _)
  · exact s.hpSend_framesOnly _ _ _

theorem State.answerEcn_framesOnly (s : State) (i : Nat) : FramesOnly s (s.answerEcn i) := by
  unfold State.answerEcn
  dsimp only
  split
  · exact .refl s
  · exact FramesOnly.trans (t := s.setQp i { s.qp i with cnpSentAt := some s.now }) ⟨rfl, rfl, rfl⟩ (State.hpSend_framesOnly _ _ _ _)

theorem State.passUp_framesOnly (s : State) (f : EthFrame) : FramesOnly s (s.passUp f) := by
  unfold State.passUp State.rocePacket
  split
  · dsimp only
    split
    · exact .refl s
    next r _ _ =>
      have marked : FramesOnly s (if r.ecn then s.answerEcn r.qp else s) := by
        split
        · exact s.answerEcn_framesOnly r.qp
        · exact .refl s
      split
      · exact marked
      · exact marked.trans (State.windowNak_framesOnly _ _ _)
  · exact .refl s

/-- A change of the receive buffer's level. -/
theorem State.bufferLevel_level (s : State) (n : Nat) :
    (s.bufferLevel n).hp.bufferFill = n ∧ (s.bufferLevel n).hp.discards = s.hp.discards ∧ (s.bufferLevel n).mem = s.mem := by
  have sent (b : Bool) (bs : List Byte) : FramesOnly { s with hp := { s.hp with bufferFill := n } }
      (({ s with hp := { s.hp with bufferFill := n, xoff := b } }).hpSend 8 skPfc bs) :=
    FramesOnly.trans (t := { s with hp := { s.hp with bufferFill := n, xoff := b } }) ⟨rfl, rfl, rfl⟩ (State.hpSend_framesOnly _ _ _ _)
  unfold State.bufferLevel
  dsimp only
  split
  · exact ⟨(sent _ _).fill, (sent _ _).discards, (sent _ _).mem⟩
  split
  · exact ⟨(sent _ _).fill, (sent _ _).discards, (sent _ _).mem⟩
  · exact ⟨rfl, rfl, rfl⟩

theorem ethernet_frames (f : EthFrame) (s : State) (up : s.hp.linkUp = true) :
    ((f.len < 64 ∨ 9216 < f.len ∨ f.fcsOk = false) →
      Gives (.ethernetFrame f) s (fun t => t.hp.discards = s.hp.discards + 1 ∧ t.hp.bufferFill = s.hp.bufferFill)) ∧
    (64 ≤ f.len → f.len ≤ 9216 → f.fcsOk = true → f.pause = false → s.secOk f = true → s.hp.bufferFill + f.len ≤ bufferBytes →
      Gives (.ethernetFrame f) s (fun t => f.len ≤ t.hp.bufferFill ∧ t.hp.bufferFill ≤ s.hp.bufferFill + f.len ∧
        t.hp.discards = s.hp.discards ∧ t.mem = s.mem)) := by
  have arm : exec (.ethernetFrame f) s = execEthernetFrame f s := rfl
  refine ⟨fun bad => ?_, fun long short fcs pause sec room => ?_⟩
  · have drops : f.len < 64 ∨ 9216 < f.len ∨ (!f.fcsOk) = true := by simpa using bad
    refine ⟨{ s with hp := { s.hp with discards := s.hp.discards + 1 } }, ?_, rfl, rfl⟩
    rw [arm, execEthernetFrame]
    dsimp only
    rw [up, if_pos drops]
    rfl
  · have passes : ¬ (f.len < 64 ∨ 9216 < f.len ∨ (!f.fcsOk) = true) := by simp [fcs]; omega
    have left := Nat.sub_le s.hp.bufferFill (Config.freeNat s.freeCtr % (s.hp.bufferFill + 1))
    generalize hl : s.hp.bufferFill - Config.freeNat s.freeCtr % (s.hp.bufferFill + 1) = l at left
    obtain ⟨-, discards, mem⟩ := ({ s with freeCtr := s.freeCtr + 1 } : State).bufferLevel_level l
    obtain ⟨fill, discards', mem'⟩ := (({ s with freeCtr := s.freeCtr + 1 } : State).bufferLevel l).bufferLevel_level (l + f.len)
    have up' := ((({ s with freeCtr := s.freeCtr + 1 } : State).bufferLevel l).bufferLevel (l + f.len)).passUp_framesOnly f
    refine ⟨_, ?_, by rw [up'.fill, fill]; omega, by rw [up'.fill, fill]; omega, by rw [up'.discards, discards', discards],
      by rw [up'.mem, mem', mem]⟩
    rw [arm, execEthernetFrame]
    dsimp only
    rw [up, if_neg passes, pause, sec, hl, if_neg (show ¬ bufferBytes < l + f.len by omega)]
    rfl

/-- A PFC frame that names one priority. -/
theorem exec_pfcFrame_one (p : Fin 8) (n : Nat) (s : State) :
    exec (.pfcFrame (List.replicate p.val none ++ [some n])) s = .next (if n = 0 then s.unpause p else
      { s with hp := { s.hp with pauseUntil := sset 0 s.hp.pauseUntil p (s.now + n * 512000 / s.hpRate + 1) } }) := by
  have arm (q : List (Option Nat)) : exec (.pfcFrame q) s = execPfcFrame q s := rfl
  have skips (k i : Nat) (rest : List (Option Nat × Nat)) (f : State → Option Nat × Nat → State) (keep : ∀ u j, f u (none, j) = u) :
      (((List.replicate k none).zipIdx i) ++ rest).foldl f s = rest.foldl f s := by
    induction k generalizing i with
    | zero => rfl
    | succ k ih =>
      rw [List.replicate_succ, List.zipIdx_cons, List.cons_append, List.foldl_cons, keep]
      exact ih (i + 1)
  rw [arm, execPfcFrame, List.zipIdx_append, skips _ _ _ _ fun _ _ => rfl]
  simp only [List.length_replicate, Nat.zero_add, List.zipIdx_cons, List.zipIdx_nil, List.foldl_cons, List.foldl_nil]
  cases n with
  | zero => rfl
  | succ n => simp

theorem State.unpause_lets (s : State) (p : Nat) : (s.unpause p).paused p = false ∧
    (s.unpause p).hp.sent = s.hp.sent ++ (s.hp.held.filter (fun h => h.1 == p)).map (·.2) := by
  refine ⟨?_, rfl⟩
  simp [State.paused, State.unpause]

theorem pfc_frames (p : Fin 8) (s : State) :
    (∀ n, 0 < n → n ≤ 65535 → Gives (.pfcFrame (List.replicate p.val none ++ [some n])) s (fun t => t.paused p = true ∧
      sget 0 t.hp.pauseUntil p = s.now + n * 512000 / s.hpRate + 1 ∧ t.hp.sent = s.hp.sent)) ∧
    Gives (.pfcFrame (List.replicate p.val none ++ [some 0])) s (fun t => t.paused p = false ∧
      t.hp.sent = s.hp.sent ++ (s.hp.held.filter (fun h => h.1 == p.val)).map (·.2)) ∧
    (s.paused p = true → sget 0 s.hp.pauseUntil p ≤ s.now → Gives (.pfcPauseExpiry p) s (fun t => t.paused p = false ∧
      t.hp.sent = s.hp.sent ++ (s.hp.held.filter (fun h => h.1 == p.val)).map (·.2))) := by
  refine ⟨fun n pos _ => ⟨_, exec_pfcFrame_one p n s, ?_⟩, ⟨_, exec_pfcFrame_one p 0 s, ?_⟩, fun paused passed => ⟨s.unpause p, ?_, s.unpause_lets p⟩⟩
  · rw [if_neg (by omega)]
    simp [State.paused]
  · exact s.unpause_lets p
  · have arm : exec (.pfcPauseExpiry p) s = execPfcPauseExpiry p s := rfl
    rw [arm, execPfcPauseExpiry, if_pos (by simp [paused, passed])]

theorem arp_answers (ip : Word32) (s : State) (opened : s.hpOpen = true) (free : s.paused 0 = false) (own : s.hp.ipv4 ≠ 0) :
    (ip = s.hp.ipv4 → Gives (.arpNdIcmp (.arp ip)) s (fun t =>
      t.hp.sent = s.hp.sent ++ [(skAnswer, 0 :: macBytes s.hp.mac)] ∧ t.mem = s.mem)) ∧
    (ip ≠ s.hp.ipv4 → exec (.arpNdIcmp (.arp ip)) s = .next s) := by
  have up : s.hp.linkUp = true := by
    rw [State.hpOpen, Bool.and_eq_true, Bool.and_eq_true] at opened
    exact opened.1.1
  have arm : exec (.arpNdIcmp (.arp ip)) s = .next (if !s.hp.linkUp then s
    else if s.ownV4 ip then s.hpSend 0 skAnswer (leBytes 1 0 ++ macBytes s.hp.mac) else s) := rfl
  rw [Gives, arm, up]
  refine ⟨fun same => ⟨_, rfl, ?_⟩, fun other => ?_⟩
  · have mine : s.ownV4 ip = true := by simpa [State.ownV4, same] using own
    simp only [mine, State.hpSend, opened, free]
    exact ⟨rfl, rfl⟩
  · have foreign : s.ownV4 ip = false := by simp [State.ownV4, other]
    simp [foreign]

/-! ### The link (R393, R397, R424) -/

theorem hpPort_cfgWrite (v : Word64) (s : State) : let w : Word32 := BitVec.ofNat 32 v.toNat
    hpCfgReserved w = false → fld32 w 2 0 ≤ 4 → fld32 w 26 24 ≠ fld32 w 22 20 →
    (fld32 w 2 0 = s.hpMode → Gives (.hpPortCfgWrite v) s (fun t => t.hp.cfg = w ∧ t.hp.linkUp = s.hp.linkUp)) ∧
    (fld32 w 2 0 ≠ s.hpMode → s.qpBusy = false →
      Gives (.hpPortCfgWrite v) s (fun t => t.hp.cfg = w ∧ t.hp.linkUp = false)) ∧
    (fld32 w 2 0 ≠ s.hpMode → s.qpBusy = true → exec (.hpPortCfgWrite v) s = .next s) := by
  intro w reserved mode priorities
  have arm : exec (.hpPortCfgWrite v) s = .next (s.writeHpCfg w).2 := rfl
  have good (h : (fld32 w 2 0 != s.hpMode && s.qpBusy) = false) : s.writeHpCfg w =
      (stDone, { s with hp := { s.hp with cfg := w, linkUp := if fld32 w 2 0 != s.hpMode then false else s.hp.linkUp } }) := by
    have none : firstFail [(hpCfgReserved w, genReserved), (decide (4 < fld32 w 2 0) || fld32 w 26 24 == fld32 w 22 20, genRange),
        (fld32 w 2 0 != s.hpMode && s.qpBusy, hpStatus 1)] = none := by
      rw [firstFail_eq_none]
      simpa [reserved, priorities, mode] using h
    unfold State.writeHpCfg
    simp only [none]
  rw [Gives, Gives, arm]
  refine ⟨fun same => ⟨_, rfl, ?_⟩, fun other free => ⟨_, rfl, ?_⟩, fun other busy => ?_⟩
  · rw [good (by simp [same])]
    simp [same]
  · rw [good (by simp [free])]
    simp [other]
  · have bad : firstFail [(hpCfgReserved w, genReserved), (decide (4 < fld32 w 2 0) || fld32 w 26 24 == fld32 w 22 20, genRange),
        (fld32 w 2 0 != s.hpMode && s.qpBusy, hpStatus 1)] = some (hpStatus 1) := by
      simp [firstFail, reserved, priorities, mode, other, busy]
    unfold State.writeHpCfg
    simp only [bad]

theorem hostPort_link (s : State) :
    Gives .hostPortLinkDown s (fun t => t.hp.linkUp = false ∧ { t.hp with linkUp := s.hp.linkUp } = s.hp ∧ t.mem = s.mem) ∧
    (s.lantern.running = true → s.hp.testUntil = none → s.pins.refSerdes = true →
      Gives .hostPortLinkUp s (fun t => t.hp.linkUp = true ∧ { t.hp with linkUp := s.hp.linkUp } = s.hp)) ∧
    (∀ due, s.hp.testUntil = some due → due ≤ s.now →
      Gives .hostPortTestReturn s (fun t => t.hp.testUntil = none ∧ t.hp.linkUp = true)) := by
  have up : exec .hostPortLinkUp s = execHostPortLinkUp s := rfl
  have back : exec .hostPortTestReturn s = execHostPortTestReturn s := rfl
  refine ⟨⟨_, rfl, rfl, rfl, rfl⟩, fun running test clock => ?_, fun due until' passed => ?_⟩
  · rw [Gives, up, execHostPortLinkUp, if_pos (by simp [running, test, clock])]
    exact ⟨_, rfl, rfl, rfl⟩
  · rw [Gives, back, execHostPortTestReturn]
    simp only [until', if_neg (not_lt.2 passed)]
    exact ⟨_, rfl, rfl, rfl⟩

/-- Settles O44: received frames and pauses, answers for the port's own address, then the link and its register. -/
theorem hostPortFramesAndLinkAct : Obligations.HostPortFramesAndLinkAct := by
  refine ⟨⟨ethernet_frames, fun p n s => (pfc_frames p s).1 n, fun p s => (pfc_frames p s).2.1, fun p s => (pfc_frames p s).2.2, arp_answers⟩,
    fun s => ?_⟩
  obtain ⟨down, up, back⟩ := hostPort_link s
  exact ⟨down, up, back, fun v => hpPort_cfgWrite v s⟩

end Sys2Proof.Machine
end
section
/-! PROOFS. Host DMA, responder windows and rates of the host port (R400 to R404; O45). -/

namespace Sys2Proof.Machine

/-! ### A queue pair that fails (R257, R401, R403) -/

theorem State.modWaits_hp (s : State) (x : Nat) (g : XRecv → XRecv) (h : Coll → Coll) : (s.modWaits x g h).hp = s.hp :=
  foldl_keeps (fun t : State => t.hp = s.hp) _ _ _ rfl fun t j keep => by
    split
    · exact keep
    · exact keep

theorem State.faultWalk_hp (s : State) (x : Nat) (f : TFault) : (s.faultWalk x f).hp = s.hp := by
  unfold State.faultWalk State.walkStarted State.walkFailed
  split
  · rfl
  · split <;> split <;> rfl

/-- A translation fault leaves the host port. -/
theorem State.tfault_hp (s : State) (x : Nat) (f : TFault) (block inst : Nat) (progress : Option Nat) :
    (s.tfault x f block inst progress).hp = s.hp := by
  rw [State.tfault_eq]
  split
  · rw [State.stopsResumable, State.noticeCtx_hp, State.pauseRecvs, State.modWaits_hp, State.modCtx_hp, State.log_hp, State.modCtx_hp,
      State.faultWalk_hp]
  · rw [State.contained_hp, State.modCtx_hp, State.faultWalk_hp]

/-- The end of a chunk at a failed queue pair leaves the queue pairs. -/
theorem State.farRemote_qps (s : State) (h : HostChunk) : (s.farRemote h).hp.qps = s.hp.qps := by
  unfold State.farRemote
  dsimp only
  split
  · rfl
  · rw [State.recordOutcome_hp, State.tfault_hp]
    rfl

theorem State.qpError_state (s : State) (i : Nat) : ((s.qpError i).qp i).state = .error := by
  have qps : (s.qpError i).hp.qps = (s.setQp i { s.qp i with state := .error, ackAt := none }).hp.qps :=
    foldl_keeps (fun t : State => t.hp.qps = (s.setQp i { s.qp i with state := .error, ackAt := none }).hp.qps) _ _ _ rfl
      fun t h keep => by
        split
        · exact (t.farRemote_qps h).trans keep
        · exact keep
  rw [State.qp, qps]
  exact congrArg Qp.state (s.setQp_qp_same i _)

/-! ### Host DMA (R401, R403) -/

/-- A chunk goes out on a queue pair, with the bytes it carries. -/
def State.issueChunk (s : State) (index j : Nat) (h : HostChunk) (q : Qp) (now : Nat) : State :=
  (s.setChunks (s.hp.chunks.eraseIdx index ++ [h])).setQp j { q with
    ackAt := some (q.ackAt.getD (now + q.timeoutNs)), retriesLeft := if q.ackAt.isSome then q.retriesLeft else q.retry, psn := q.psn + 1 }

theorem State.issueChunk_gives (s : State) (index j : Nat) (h : HostChunk) (q : Qp) (now : Nat) :
    let t := s.issueChunk index j h q now
    t.hp.chunks = s.hp.chunks.eraseIdx index ++ [h] ∧ (t.qp j).psn = q.psn + 1 ∧ (t.qp j).ackAt.isSome = true ∧ t.mem = s.mem := by
  intro t
  have qp : t.qp j = _ := State.setQp_qp_same _ j _
  rw [qp]
  exact ⟨rfl, rfl, rfl, rfl⟩

theorem exec_hostDmaChunk {e : Fin 8} {i j pa : Nat} {s : State} {g : HostChunk} (here : s.hp.chunks[i]? = some g) (idle : g.issued = false)
    (engine : s.hp.chunks.any (fun z => z.issued && z.engine == e.val) = false) (open' : s.paused s.rocePcp = false)
    (short : g.collects = true → g.placed ≠ g.len) (far : s.farSide { g with engine := e.val } = .ok pa) :
    let h := { g with engine := e.val, far := pa, region := (farRegionOf pa).1 }
    s.chunkQp h = some j → (s.qp j).state = .connected →
    (g.toFar = false → exec (.hostDmaChunk e i) s = .next (s.issueChunk i j { h with issued := true, qp := j } (s.qp j) s.now)) ∧
    (∀ r : State × List PByte, g.toFar = true → s.chunkSource h = .ok r → r.2.any (·.2) = false →
      exec (.hostDmaChunk e i) s =
        .next (r.1.issueChunk i j { h with issued := true, qp := j, data := r.2.map (·.1) } (s.qp j) s.now)) := by
  intro h pair connected
  have arm : exec (.hostDmaChunk e i) s = execHostDmaChunk e i s := rfl
  have starts : ¬ (g.issued = true ∨ s.hp.chunks.any (fun z => z.issued && z.engine == e.val) = true ∨ s.paused s.rocePcp = true ∨
      g.collects = true ∧ g.placed = g.len) := by
    rintro (a | a | a | ⟨a, b⟩)
    · rw [idle] at a; cases a
    · rw [engine] at a; cases a
    · rw [open'] at a; cases a
    · exact short a b
  have ready : ¬ (s.qp j).state = .error ∧ ¬ (s.qp j).state ≠ .connected := by simp [connected]
  refine ⟨fun near => ?_, fun r toFar source clean => ?_⟩
  · rw [arm, execHostDmaChunk]
    simp only [here]
    rw [if_neg starts]
    simp only [far]
    rw [show s.chunkQp { g with engine := e.val, far := pa, region := (farRegionOf pa).1 } = some j from pair]
    dsimp only
    rw [if_neg ready.1, if_neg ready.2, near]
    rfl
  · rw [arm, execHostDmaChunk]
    simp only [here]
    rw [if_neg starts]
    simp only [far]
    rw [show s.chunkQp { g with engine := e.val, far := pa, region := (farRegionOf pa).1 } = some j from pair]
    dsimp only
    rw [if_neg ready.1, if_neg ready.2, if_neg (by simp [toFar])]
    rw [show s.chunkSource { g with engine := e.val, far := pa, region := (farRegionOf pa).1 } = .ok r from source]
    dsimp only
    rw [clean]
    rfl

theorem exec_rdmaReadResponse {q off : Nat} {data : List Byte} {s : State} {h : HostChunk} (oldest : s.oldestOn q = some h)
    (connected : (s.qp q).state = .connected) (near : h.toFar = false) (fits : off + data.length ≤ h.len) (last : Bool) :
    exec (.rdmaReadResponse q off data last) s = .next (if h.near.kind = .unlisted then
        let g := { h with placed := h.placed + data.length, data := patchBytes (sliceBytes h.data 0 h.len) off data }
        if last then s.chunkComplete h g.data else s.setChunks (s.hp.chunks.map (fun z => if z = h then g else z))
      else match s.chunkLands h off data with
        | .error e => (s.chunkEnds h e).ackTimer q
        | .ok t =>
          if last then t.chunkComplete h h.data
          else t.setChunks (t.hp.chunks.map (fun z => if z = h then { h with placed := h.placed + data.length } else z))) := by
  have arm : exec (.rdmaReadResponse q off data last) s = execRdmaReadResponse q off data last s := rfl
  rw [arm, execRdmaReadResponse]
  simp only [oldest]
  rw [if_neg (by simp [near, connected, fits])] <;> rfl

theorem hostDma_gives : (∀ (e : Fin 8) (i j pa : Nat) (s : State) (g : HostChunk),
     let h := { g with engine := e.val, far := pa, region := (farRegionOf pa).1 }
     s.hp.chunks[i]? = some g → g.issued = false →
     s.hp.chunks.any (fun z => z.issued && z.engine == e.val) = false → s.paused s.rocePcp = false →
     (g.collects = true → g.placed ≠ g.len) → s.farSide { g with engine := e.val } = .ok pa →
     s.chunkQp h = some j → (s.qp j).state = .connected →
     (g.toFar = false →
       Gives (.hostDmaChunk e i) s (fun t => t.hp.chunks = s.hp.chunks.eraseIdx i ++ [{ h with issued := true, qp := j }] ∧
         (t.qp j).psn = (s.qp j).psn + 1 ∧ (t.qp j).ackAt.isSome = true ∧ t.mem = s.mem)) ∧
     (∀ r : State × List PByte, g.toFar = true → s.chunkSource h = .ok r → r.2.any (·.2) = false →
       Gives (.hostDmaChunk e i) s (fun t =>
         t.hp.chunks = r.1.hp.chunks.eraseIdx i ++ [{ h with issued := true, qp := j, data := r.2.map (·.1) }] ∧
         (t.qp j).psn = (s.qp j).psn + 1 ∧ (t.qp j).ackAt.isSome = true ∧ t.mem = r.1.mem))) := by
  intro e i j pa s g h here idle engine open' short far pair connected
  obtain ⟨reads, writes⟩ := exec_hostDmaChunk here idle engine open' short far pair connected
  exact ⟨fun near => ⟨_, reads near, State.issueChunk_gives _ _ _ _ _ _⟩,
    fun r toFar source clean => ⟨_, writes r toFar source clean, State.issueChunk_gives _ _ _ _ _ _⟩⟩

theorem rdmaAck_completes (q : Nat) (s : State) (h : HostChunk) (oldest : s.oldestOn q = some h) (connected : (s.qp q).state = .connected)
    (all : h.toFar = true ∨ h.placed = h.len) : exec (.rdmaAck q) s = .next (s.chunkComplete h h.data) := by
  have arm : exec (.rdmaAck q) s = execRdmaAck q s := rfl
  rw [arm, execRdmaAck]
  simp only [oldest]
  rw [if_pos ⟨connected, all⟩]

theorem rdmaReadResponse_lands (q off : Nat) (data : List Byte) (s u : State) (h : HostChunk) (oldest : s.oldestOn q = some h)
    (connected : (s.qp q).state = .connected) (near : h.toFar = false) (fits : off + data.length ≤ h.len) :
    (h.near.kind ≠ .unlisted → s.chunkLands h off data = .ok u →
      Gives (.rdmaReadResponse q off data false) s (fun t => t.mem = u.mem ∧ (∀ c, t.core c = u.core c)) ∧
      exec (.rdmaReadResponse q off data true) s = .next (u.chunkComplete h h.data)) ∧
    (h.near.kind = .unlisted →
      Gives (.rdmaReadResponse q off data false) s (fun t => { t with hp := { t.hp with chunks := s.hp.chunks } } = s) ∧
      exec (.rdmaReadResponse q off data true) s =
        .next (s.chunkComplete h (patchBytes (sliceBytes h.data 0 h.len) off data))) := by
  have run := exec_rdmaReadResponse oldest connected near fits
  rw [Gives, Gives, run, run]
  refine ⟨fun listed lands => ?_, fun unlisted => ?_⟩
  · rw [if_neg listed, if_neg listed, lands]
    exact ⟨⟨_, rfl, rfl, fun _ => rfl⟩, rfl⟩
  · rw [if_pos unlisted, if_pos unlisted]
    exact ⟨⟨_, rfl, rfl⟩, rfl⟩

theorem rdmaAck_timesOut (q due : Nat) (s : State) (connected : (s.qp q).state = .connected) (at' : (s.qp q).ackAt = some due)
    (passed : due ≤ s.now) :
    (∀ n, (s.qp q).retriesLeft = n + 1 → Gives (.rdmaAckTimeout q) s (fun t => (t.qp q).retriesLeft = n ∧
      (t.qp q).state = .connected ∧ (t.qp q).ackAt = some (s.now + (s.qp q).timeoutNs) ∧ t.hp.chunks = s.hp.chunks)) ∧
    ((s.qp q).retriesLeft = 0 → Gives (.rdmaAckTimeout q) s (fun t => (t.qp q).state = .error)) := by
  have arm : exec (.rdmaAckTimeout q) s = execRdmaAckTimeout q s := rfl
  have due' : ¬ (s.now < due ∨ (s.qp q).state ≠ .connected) := by simp [connected, passed]
  have run : exec (.rdmaAckTimeout q) s = .next (if (s.qp q).retriesLeft = 0 then s.qpError q else s.setQp q { s.qp q with
      retriesLeft := (s.qp q).retriesLeft - 1, ackAt := some (s.now + (s.qp q).timeoutNs) }) := by
    rw [arm, execRdmaAckTimeout]
    simp only [at']
    rw [if_neg due']
  refine ⟨fun n left => ⟨_, run, ?_⟩, fun none => ⟨_, run, ?_⟩⟩
  · rw [if_neg (by omega)]
    dsimp only
    rw [State.setQp_qp_same, left]
    exact ⟨rfl, connected, rfl, rfl⟩
  · rw [if_pos none]
    exact s.qpError_state q

theorem rdmaNak_fails (q : Nat) (b : Bool) (s : State) (connected : (s.qp q).state = .connected) :
    Gives (.rdmaNak q b) s (fun t => (t.qp q).state = .error) := by
  have arm : exec (.rdmaNak q b) s = execRdmaNak q b s := rfl
  refine ⟨s.qpError q, ?_, s.qpError_state q⟩
  rw [arm, execRdmaNak, if_pos connected]

/-! ### The responder (R400, R404) -/

theorem State.hpSend_windowRefusals (s : State) (pcp kind : Nat) (bs : List Byte) :
    (s.hpSend pcp kind bs).hp.windowRefusals = s.hp.windowRefusals := by
  unfold State.hpSend
  split
  · rfl
  split <;> rfl

/-- A refusal outside every window. -/
theorem State.windowNak_refuses (s : State) (q : Nat) :
    (s.windowNak q 0).mem = s.mem ∧ (s.windowNak q 0).hp.windowRefusals = s.hp.windowRefusals + 1 :=
  ⟨(s.windowNak_framesOnly q 0).mem, State.hpSend_windowRefusals _ _ _ _⟩

theorem rdmaWrite_received (q : Nat) (rkey : Word32) (va : Nat) (data : List Byte) (s : State) (connected : (s.qp q).state = .connected) :
    (∀ (w : Window) (u : State), s.windowFor rkey va data.length = some w → s.writeVa w.ctx .hostDma va data false = .ok u →
      Gives (.rdmaWriteReceive q rkey va data) s (fun t => t.mem = u.mem ∧ t.hp.windowRefusals = s.hp.windowRefusals)) ∧
    (s.windowFor rkey va data.length = none →
      Gives (.rdmaWriteReceive q rkey va data) s (fun t => t.mem = s.mem ∧ t.hp.windowRefusals = s.hp.windowRefusals + 1)) := by
  have arm : exec (.rdmaWriteReceive q rkey va data) s = execRdmaWriteReceive q rkey va data s := rfl
  have open' : ¬ (s.qp q).state ≠ .connected := not_not.2 connected
  rw [Gives, arm, execRdmaWriteReceive, if_neg open']
  refine ⟨fun w u window written => ?_, fun none => ?_⟩
  · rw [Gives, arm, execRdmaWriteReceive, if_neg open']
    simp only [window, written]
    refine ⟨_, rfl, (State.hpSend_framesOnly _ _ _ _).mem, ?_⟩
    rw [State.hpSend_windowRefusals]
    exact congrArg (·.windowRefusals) (State.writeVa_memOnly written).hp
  · simp only [none]
    exact ⟨_, rfl, s.windowNak_refuses q⟩

/-- What is sent on an open port and a priority that is not paused goes out. -/
theorem State.hpSend_sends {s : State} {pcp : Nat} (opened : s.hpOpen = true) (free : s.paused pcp = false) (kind : Nat) (bs : List Byte) :
    (s.hpSend pcp kind bs).hp.sent = s.hp.sent ++ [(kind, bs)] ∧ (s.hpSend pcp kind bs).mem = s.mem := by
  unfold State.hpSend
  rw [opened, free]
  exact ⟨rfl, rfl⟩

theorem rdmaRead_received (q : Nat) (rkey : Word32) (va len : Nat) (s : State) (connected : (s.qp q).state = .connected) :
    (∀ (w : Window) (r : State × List Byte × Bool), s.windowFor rkey va len = some w → s.readVa w.ctx .hostDma va len = .ok r →
      r.2.2 = false → s.hpOpen = true → s.paused s.rocePcp = false →
      Gives (.rdmaReadReceive q rkey va len) s (fun t => t.mem = r.1.mem ∧
        t.hp.sent = s.hp.sent ++ [(skRdma, leBytes 2 q ++ r.2.1)])) ∧
    (s.windowFor rkey va len = none →
      Gives (.rdmaReadReceive q rkey va len) s (fun t => t.mem = s.mem ∧ t.hp.windowRefusals = s.hp.windowRefusals + 1)) := by
  have arm : exec (.rdmaReadReceive q rkey va len) s = execRdmaReadReceive q rkey va len s := rfl
  have open' : ¬ (s.qp q).state ≠ .connected := not_not.2 connected
  refine ⟨fun w r window read clean opened free => ?_, fun none => ?_⟩
  · have hp : r.1.hp = s.hp := (State.readVa_memOnly read).hp
    rw [Gives, arm, execRdmaReadReceive, if_neg open']
    simp only [window, read]
    rw [clean, if_neg Bool.false_ne_true]
    generalize hu : r.1.setQp q { r.1.qp q with remotePsn := (r.1.qp q).remotePsn + 1 } = u
    have opened' : u.hpOpen = true := by
      rw [← hu, State.hpOpen]
      simp only [State.setQp, hp]
      exact opened
    have free' : u.paused r.1.rocePcp = false := by
      rw [← hu, State.paused, State.rocePcp]
      simp only [State.setQp, hp]
      exact free
    obtain ⟨sent, mem⟩ := State.hpSend_sends opened' free' skRdma (leBytes 2 q ++ r.2.1)
    refine ⟨_, rfl, mem.trans (hu ▸ rfl), sent.trans ?_⟩
    rw [← hu, State.setQp]
    simp only [hp]
  · rw [Gives, arm, execRdmaReadReceive, if_neg open']
    simp only [none]
    exact ⟨_, rfl, s.windowNak_refuses q⟩

theorem rate_follows (q : Nat) (s : State) (connected : (s.qp q).state = .connected) :
    Gives (.cnp q) s (fun t => (t.qp q).rate = max 1000 ((s.qp q).rate / 2) ∧ (t.qp q).cnpAt = some s.now) ∧
    (∀ since, (s.qp q).cnpAt = some since → since + 55000 ≤ s.now →
      Gives (.rateIncrease q) s (fun t => (t.qp q).rate = min s.hpRate ((s.qp q).rate + s.hpRate / 20))) := by
  have cnp : exec (.cnp q) s = execCnp q s := rfl
  have rise : exec (.rateIncrease q) s = execRateIncrease q s := rfl
  refine ⟨?_, fun since at' passed => ?_⟩
  · rw [Gives, cnp, execCnp, if_pos connected]
    refine ⟨_, rfl, ?_⟩
    rw [State.setQp_qp_same]
    exact ⟨rfl, rfl⟩
  · rw [Gives, rise, execRateIncrease]
    simp only [at']
    rw [if_neg (by simp [connected, passed])]
    refine ⟨_, rfl, ?_⟩
    rw [State.setQp_qp_same]

/-- Settles O45: host DMA with its answers and failures, then the responder and the rate. -/
theorem remoteMemoryAccessActs : Obligations.RemoteMemoryAccessActs :=
  ⟨⟨hostDma_gives, rdmaAck_completes, rdmaReadResponse_lands, rdmaAck_timesOut, rdmaNak_fails⟩,
    rdmaWrite_received, rdmaRead_received, rate_follows⟩

end Sys2Proof.Machine
end
section
/-! PROOFS. Sessions, announcements, notices and datagrams (R405 to R412; O47). -/

namespace Sys2Proof.Machine

/-! ### Sessions and what is sent (R405 to R412) -/

section
variable (s : State)

/-- A session's change, where it keeps its number. -/
theorem State.session_modSessions_same (n : Nat) (f : Session → Session) (hf : ∀ z, (f z).number = z.number) :
    (s.modSessions (fun y => y.number == n) f).session n = (s.session n).map f := by
  simp only [State.session, State.modSessions]
  induction s.lantern.sessions with
  | nil => rfl
  | cons a l ih =>
    rw [List.map_cons, List.find?_cons, List.find?_cons]
    by_cases own : (a.number == n) = true
    · rw [if_pos own, hf, own]
      rfl
    · rw [if_neg own, Bool.eq_false_iff.2 own]
      exact ih

/-- Several datagrams, sent one after another on Lantern's priority. -/
theorem State.foldl_hpSend {α : Type} (l : List α) (kind : α → Nat) (bytes : α → List Byte) :
    let t := l.foldl (fun (u : State) a => u.hpSend u.lmpPcp (kind a) (bytes a)) s
    OnlyAnswer s t ∧ t.lantern = s.lantern ∧
      (s.hpOpen = true → s.paused s.lmpPcp = false → t.hp.sent = s.hp.sent ++ l.map (fun a => (kind a, bytes a))) := by
  induction l generalizing s with
  | nil => exact ⟨rfl, rfl, fun _ _ => (List.append_nil _).symm⟩
  | cons a l ih =>
    intro t
    obtain ⟨only, lantern, sent⟩ := ih (s.hpSend s.lmpPcp (kind a) (bytes a))
    have first := s.hpSend_sent s.lmpPcp (kind a) (bytes a)
    refine ⟨?_, lantern.trans (s.hpSend_lantern _ _ _), fun opened free => ?_⟩
    · exact (congrArg (fun u : State => { u with lantern := s.lantern, hp := { u.hp with sent := s.hp.sent, held := s.hp.held } }) only).trans
        (congrArg (fun u : State => { u with lantern := s.lantern }) first)
    · have open' : (s.hpSend s.lmpPcp (kind a) (bytes a)).hpOpen = s.hpOpen := (congrArg State.hpOpen first :)
      have free' : (s.hpSend s.lmpPcp (kind a) (bytes a)).paused (s.hpSend s.lmpPcp (kind a) (bytes a)).lmpPcp = s.paused s.lmpPcp :=
        (congrArg (fun u : State => u.paused u.lmpPcp) first :)
      have here := (State.hpSend_sends opened free (kind a) (bytes a)).1
      refine (sent (open'.trans opened) (free'.trans free)).trans ?_
      rw [here, List.append_assoc]
      rfl

end

/-! ### Session commands -/

theorem exec_sessionOpen_unserved {q : Req} {addr port version : Nat} {flags : BitVec 16} {timeoutS : Nat} {nonce : Word64} {s : State}
    (running : s.lantern.running = true) (unserved : s.servesVersion version = false) :
    exec (.sessionOpen q addr port version flags timeoutS nonce) s =
      .next { s with lantern := { s.lantern with discards := s.lantern.discards + 1 } } := by
  have arm : exec (.sessionOpen q addr port version flags timeoutS nonce) s =
    execSessionOpen q addr port version flags timeoutS nonce s := rfl
  rw [arm, execSessionOpen]
  dsimp only
  rw [unserved, running]
  rfl

/-- The answer of SESSION_OPEN. -/
def openAnswer (n secs : Nat) : List Byte := leFields [(2, n), (2, 0), (2, secs), (2, 0)]

/-- The session that SESSION_OPEN makes. -/
def State.openedSession (s : State) (addr port version : Nat) (flags : BitVec 16) (secs : Nat) (nonce : Word64) : Session :=
  { number := nextNumber (s.lantern.sessions.map (·.number)) 65 s.lantern.nextSession, addr := addr, port := port, version := version
    admin := bitOf flags.toNat 0, timeoutS := secs, nonce := nonce, openedAt := s.now, heardAt := s.now, expected := 1, requests := []
    kept := [], noticeSeq := 1, notices := [], noticesLost := 0 }

/-- Lantern with the session added. -/
def State.opened (s : State) (z : Session) : State :=
  { s with lantern := { s.lantern with
      sessions := s.lantern.sessions ++ [z], nextSession := z.number + 1, everOpened := true
      recentOpens := s.lantern.recentOpens.filter (fun (o : Nat × Nat × Word64 × Nat × Nat) => decide (s.now < o.2.2.2.1 + tenSeconds)) ++
        [(z.addr, z.port, z.nonce, s.now, z.number)] } }

theorem sessionOpen_again {q : Req} {addr port version : Nat} {flags : BitVec 16} {timeoutS : Nat} {nonce : Word64} {s : State}
    (serves : s.servesVersion version = true) (ha : s.accepts q 0x01 16 none = true) {n : Nat} {z : Session}
    (recent : s.recentOpen addr port nonce = some n) (session : s.session n = some z) :
    Answers (.sessionOpen q addr port version flags timeoutS nonce) q 0x01 stDone (openAnswer n z.timeoutS) s s := by
  have arm : exec (.sessionOpen q addr port version flags timeoutS nonce) s =
    execSessionOpen q addr port version flags timeoutS nonce s := rfl
  refine State.command_gives (c := .sessionOpen q addr port version flags timeoutS nonce) (own := none) (eff := fun t => (t, stDone,
    openAnswer n (((t.session n).map (·.timeoutS)).getD (if timeoutS = 0 then 60 else timeoutS)))) ?_ ha rfl ?_
  · rw [arm, execSessionOpen]
    simp only [serves, recent, Bool.not_true, Bool.false_eq_true, if_false, Option.isSome_some, if_true]
    rfl
  · rw [session]
    rfl

theorem sessionOpen_new {q : Req} {addr port version : Nat} {flags : BitVec 16} {timeoutS : Nat} {nonce : Word64} {s : State}
    (serves : s.servesVersion version = true) (ha : s.accepts q 0x01 16 none = true)
    (recent : s.recentOpen addr port nonce = none) (reserved : flags.toNat ≤ 1) (range : timeoutS ≤ 3600)
    (room : s.lantern.sessions.length < 64)
    (admins : bitOf flags.toNat 0 = true → (s.lantern.sessions.filter (·.admin)).length < 4) :
    let z := s.openedSession addr port version flags (if timeoutS = 0 then 60 else timeoutS) nonce
    exec (.sessionOpen q addr port version flags timeoutS nonce) s =
      .next ((s.opened z).respond q.session 0x01 stDone (openAnswer z.number z.timeoutS)) := by
  intro z
  obtain ⟨i, hi, lantern, free, common⟩ := State.accepts_served ha
  have arm : exec (.sessionOpen q addr port version flags timeoutS nonce) s =
    execSessionOpen q addr port version flags timeoutS nonce s := rfl
  have own : firstFail [(decide (1 < flags.toNat), genReserved), (decide (3600 < timeoutS), genRange),
      (decide (64 ≤ s.lantern.sessions.length) ||
        (bitOf flags.toNat 0 && decide (4 ≤ (s.lantern.sessions.filter (·.admin)).length)), genBusy)] = none := by
    simpa [firstFail_eq_none, reserved, range, room] using admins
  have served := s.command_served (c := .sessionOpen q addr port version flags timeoutS nonce) (fun t =>
    (t.opened (t.openedSession addr port version flags (if timeoutS = 0 then 60 else timeoutS) nonce), stDone,
      openAnswer (t.openedSession addr port version flags (if timeoutS = 0 then 60 else timeoutS) nonce).number
        (if timeoutS = 0 then 60 else timeoutS))) hi lantern free common
  refine Eq.trans ?_ (congrArg Host.Outcome.next served)
  rw [arm, execSessionOpen]
  simp only [serves, recent, own, Bool.not_true, Bool.false_eq_true, if_false, Option.isSome_none]
  rfl

/-- A response changes what Lantern keeps of one session, and no session's number, host or limits. -/
theorem State.respond_sessions (s : State) (q : Req) (code : Nat) (st : Status) (p : List Byte) (z : Session) (h : z ∈ s.lantern.sessions) :
    ∃ y ∈ (s.respond q.session code st p).lantern.sessions, ∃ a b c, y = { z with requests := a, expected := b, kept := c } := by
  unfold State.respond
  split
  · refine ⟨z, ?_, z.requests, z.expected, z.kept, rfl⟩
    dsimp only
    split
    · simpa only [State.sendResponse, State.hpSend_lantern] using h
    · exact h
  · simp only [State.sendResponse, State.hpSend_lantern, State.modSessions]
    refine ⟨_, List.mem_map_of_mem h, ?_⟩
    split
    · exact ⟨_, _, _, rfl⟩
    · exact ⟨z.requests, z.expected, z.kept, rfl⟩

/-- The step of a session's end that takes it from a context. -/
def State.leaveCtx (n : Nat) (u : State) (x : Nat) : State :=
  if (u.ctx x).sessions.contains n then u.modCtx x (fun v => { v with sessions := v.sessions.filter (· != n) }) else u

theorem State.leaveCtx_frame (n : Nat) (u : State) (x : Nat) : { State.leaveCtx n u x with ctxs := u.ctxs } = u := by
  unfold State.leaveCtx
  split <;> rfl

theorem State.leaveCtx_left (n : Nat) (u : State) (x : Nat) : n ∉ ((State.leaveCtx n u x).ctx x).sessions := by
  unfold State.leaveCtx
  split
  · rw [State.modCtx_ctx_same]
    simp
  next absent => simpa using absent

theorem State.leaveCtx_other (n : Nat) (u : State) {x y : Nat} (h : y ≠ x) : (State.leaveCtx n u x).ctx y = u.ctx y := by
  unfold State.leaveCtx
  split
  · exact State.modCtx_ctx_other _ _ h
  · rfl

/-- A session's end in every context of a list. -/
theorem foldl_leaveCtx (n : Nat) (l : List Nat) (u : State) :
    { l.foldl (State.leaveCtx n) u with ctxs := u.ctxs } = u ∧ ∀ x ∈ l, n ∉ ((l.foldl (State.leaveCtx n) u).ctx x).sessions := by
  refine ⟨?_, fun x hx => ?_⟩
  · exact foldl_keeps (fun v : State => { v with ctxs := u.ctxs } = u) (State.leaveCtx n) l u rfl fun v x keep =>
      (congrArg (fun w : State => { w with ctxs := u.ctxs }) (State.leaveCtx_frame n v x)).trans keep
  · exact foldl_entry_changed (I := fun _ => True) (Q := fun _ l => n ∉ l) (get := fun (u : State) x => (u.ctx x).sessions)
      (fun _ _ _ => trivial) (fun u i _ => State.leaveCtx_left n u i) (fun u i j _ ne => by rw [State.leaveCtx_other n u ne]) l u trivial hx

theorem State.closeSession_eq (s : State) (n : Nat) : s.closeSession n = (List.range 16).foldl (State.leaveCtx n)
    { s with lantern := { s.lantern with sessions := s.lantern.sessions.filter (fun z => z.number != n) } } := by
  unfold State.closeSession
  exact congrArg (fun f => (List.range 16).foldl f _) (funext fun _ => funext fun _ => rfl)

/-- The end of a session: Lantern's list without it, and no context that names it. -/
theorem State.closeSession_leaves (s : State) (n : Nat) :
    { s.closeSession n with ctxs := s.ctxs } =
      { s with lantern := { s.lantern with sessions := s.lantern.sessions.filter (fun z => z.number != n) } } ∧
      ∀ x, x < 16 → n ∉ ((s.closeSession n).ctx x).sessions := by
  obtain ⟨rest, left⟩ := foldl_leaveCtx n (List.range 16)
    { s with lantern := { s.lantern with sessions := s.lantern.sessions.filter (fun z => z.number != n) } }
  rw [State.closeSession_eq]
  exact ⟨rest, fun x hx => left x (List.mem_range.2 hx)⟩

section
variable {t u : State} {c : Sparse Ctx} (h : { t with ctxs := c } = u)
include h

theorem lantern_of_ctxs : t.lantern = u.lantern := (congrArg State.lantern h :)

theorem onlyAnswer_of_ctxs {s : State} (k : OnlyAnswer s u) : OnlyAnswer s { t with ctxs := c } := h ▸ k

end

/-- What Lantern keeps is its own. -/
theorem OnlyAnswer.lantern {s t : State} (k : OnlyAnswer s t) (l : Lantern) : OnlyAnswer s { t with lantern := l } := k

/-- Sessions after one has ended. -/
theorem State.closeSession_session (s : State) (n : Nat) :
    (s.closeSession n).session n = none ∧ ∀ m, m ≠ n → (s.closeSession n).session m = s.session m := by
  have sessions : (s.closeSession n).lantern.sessions = s.lantern.sessions.filter (fun z => z.number != n) := by
    rw [lantern_of_ctxs (s.closeSession_leaves n).1]
  refine ⟨?_, fun m hm => ?_⟩
  · rw [State.session, sessions, List.find?_eq_none]
    intro z hz
    simpa using (List.mem_filter.1 hz).2
  · rw [State.session, sessions, State.session]
    induction s.lantern.sessions with
    | nil => rfl
    | cons a l ih =>
      rw [List.filter_cons]
      split
      · rw [List.find?_cons, List.find?_cons, ih]
      next own =>
        have : a.number = n := by simpa using own
        rw [ih, List.find?_cons, beq_eq_false_iff_ne.2 (this ▸ hm.symm)]

theorem session_closes (q : Req) (s : State) (ha : s.accepts q 0x02 0 none = true) :
    Gives (.sessionClose q) s (fun t => t.session q.session = none ∧ (∀ m, m ≠ q.session → t.session m = s.session m) ∧
      Answered t q 0x02 stDone [] ∧ (∀ x, x < 16 → q.session ∉ (t.ctx x).sessions) ∧ OnlyAnswer s { t with ctxs := s.ctxs }) := by
  have arm : exec (.sessionClose q) s = execSessionClose q s := rfl
  obtain ⟨i, hi, running, free, common⟩ := State.accepts_served ha
  obtain ⟨answered, only, -, others⟩ := s.respond_answers q 0x02 stDone []
  obtain ⟨rest, left⟩ := (s.respond q.session 0x02 stDone []).closeSession_leaves q.session
  obtain ⟨gone, stay⟩ := (s.respond q.session 0x02 stDone []).closeSession_session q.session
  refine ⟨(s.respond q.session 0x02 stDone []).closeSession q.session, ?_, gone, fun m hm => (stay m hm).trans (others m hm), ?_, left, ?_⟩
  · rw [arm, execSessionClose, if_pos ha, s.command_served _ hi running free common]
  · rw [Answered, lantern_of_ctxs rest]
    exact answered
  · have ctxs : (s.respond q.session 0x02 stDone []).ctxs = s.ctxs := State.respond_ctxs _ _ _ _ _
    rw [← ctxs]
    exact onlyAnswer_of_ctxs rest (only.lantern _)

theorem session_timesOut (n : Nat) (z : Session) (s : State) (session : s.session n = some z)
    (silent : z.heardAt + z.timeoutS * 1000000000 ≤ s.now) :
    Gives (.sessionTimeout n) s (fun t => t.session n = none ∧ (∀ m, m ≠ n → t.session m = s.session m) ∧
      (∀ x, x < 16 → n ∉ (t.ctx x).sessions)) := by
  have arm : exec (.sessionTimeout n) s = execSessionTimeout n s := rfl
  obtain ⟨gone, stay⟩ := s.closeSession_session n
  refine ⟨s.closeSession n, ?_, gone, stay, (s.closeSession_leaves n).2⟩
  rw [arm, execSessionTimeout]
  simp only [session, if_neg (not_lt.2 silent)]

/-! ### Announcements, notices and datagrams (R405 to R409) -/

theorem announce_sends (s : State) (running : s.lantern.running = true) (due : s.lantern.announceAt ≤ s.now) :
    Gives .announce s (fun t => OnlyAnswer s t ∧
      t.lantern.announceAt = s.now + (if s.lantern.everOpened then 30000000000 else 1000000000) ∧
      (s.hpOpen = true → s.paused s.lmpPcp = false → t.hp.sent = s.hp.sent ++ s.announcements)) := by
  have arm : exec .announce s = execAnnounce s := rfl
  obtain ⟨only, lantern, sent⟩ := ({ s with lantern := { s.lantern with
    announceAt := s.now + (if s.lantern.everOpened then 30000000000 else 1000000000) } } : State).foldl_hpSend s.announcements (·.1) (·.2)
  refine ⟨s.announce, ?_, ?_, ?_, fun opened free => ?_⟩
  · rw [arm, execAnnounce, if_neg (by simp [running, due])]
  · exact (congrArg (fun u : State => { u with lantern := s.lantern }) only :)
  · exact (congrArg (·.announceAt) lantern :)
  · have pairs : s.announcements.map (fun a => (a.1, a.2)) = s.announcements := List.map_id' _
    rw [← pairs]
    exact sent opened free

/-- A notice that was due again is due later. -/
theorem noticeResend_sends (n : Nat) (z : Session) (s : State) (session : s.session n = some z) :
    Gives (.noticeResend n) s (fun t => OnlyAnswer s t ∧ (∀ y, t.session n = some y → ∀ m ∈ y.notices, s.now < m.resendAt) ∧
      (s.hpOpen = true → s.paused s.lmpPcp = false → t.hp.sent =
        s.hp.sent ++ (z.notices.filter (fun m => decide (m.resendAt ≤ s.now))).map (fun m => (skLmp, noticeBytes z m)))) := by
  have arm : exec (.noticeResend n) s = execNoticeResend n s := rfl
  obtain ⟨only, lantern, sent⟩ := s.foldl_hpSend (z.notices.filter (fun m => decide (m.resendAt ≤ s.now))) (fun _ => skLmp) (noticeBytes z)
  rw [Gives, arm, execNoticeResend]
  simp only [session]
  refine ⟨_, rfl, (congrArg (fun u : State => { u with lantern := s.lantern }) only :), fun y hy m hm => ?_, sent⟩
  have keeps (f : Session → Session) (hf : ∀ z, (f z).number = z.number) := State.session_modSessions_same
    ((z.notices.filter (fun m => decide (m.resendAt ≤ s.now))).foldl (fun u a => u.hpSend u.lmpPcp skLmp (noticeBytes z a)) s) n f hf
  rw [keeps _ (by exact fun _ => rfl), State.session, lantern] at hy
  rw [show s.lantern.sessions.find? (fun z => z.number == n) = some z from session, Option.map_some, Option.some_inj] at hy
  subst hy
  obtain ⟨k, -, rfl⟩ := List.mem_map.1 hm
  split
  · simp [noticeResendNs]
  next later => exact not_le.1 later

/-- Acknowledged notices leave the responses that are kept, and when the session was heard. -/
theorem Session.noticesAcked_kept (z : Session) (now n : Nat) :
    (z.noticesAcked now n).kept = z.kept ∧ (z.noticesAcked now n).heardAt = z.heardAt ∧ (z.noticesAcked now n).number = z.number := by
  unfold Session.noticesAcked
  dsimp only
  split
  · unfold Session.notice
    split <;> exact ⟨rfl, rfl, rfl⟩
  · exact ⟨rfl, rfl, rfl⟩

section
variable {addr port : Nat} {bs : List Byte} {s : State} {d : Lmp} (running : s.lantern.running = true) (up : s.hp.linkUp = true)
  (normal : s.lantern.recovery = false)
include running up normal

omit normal in
/-- A datagram that is none is counted. -/
theorem exec_lmpDatagram_none (none : parseLmp bs = none) : exec (.lmpDatagram addr port bs) s =
    .next { s with lantern := { s.lantern with discards := s.lantern.discards + 1 } } := by
  have arm : exec (.lmpDatagram addr port bs) s = execLmpDatagram addr port bs s := rfl
  rw [arm, execLmpDatagram]
  simp only [none]
  rw [if_neg (by simp [running, up])]

/-- A datagram that names no session. -/
theorem exec_lmpDatagram_stranger (parsed : parseLmp bs = some d) (session : s.session d.session = none) :
    exec (.lmpDatagram addr port bs) s = .next (if d.type ≠ 0 ∨ (d.session = 0 ∧ (d.command = 1 ∨ d.command = 3)) then s
      else ({ s with lantern := { s.lantern with lastResponse := some ⟨d.session, d.seq, d.command, genNoSession, []⟩ } } : State).hpSend
        s.lmpPcp skLmp (lmpBytes d.version 1 d.session d.command d.seq 0 genNoSession.toNat [])) := by
  have arm : exec (.lmpDatagram addr port bs) s = execLmpDatagram addr port bs s := rfl
  rw [arm, execLmpDatagram]
  simp only [parsed, session]
  rw [if_neg (by simp [running, up]), if_neg (by simp [normal])]

/-- A datagram of a session. -/
theorem exec_lmpDatagram_session (parsed : parseLmp bs = some d) {z : Session} (session : s.session d.session = some z) :
    ((z.addr ≠ addr ∨ z.port ≠ port ∨ z.version ≠ d.version) → exec (.lmpDatagram addr port bs) s =
      .next { s with lantern := { s.lantern with discards := s.lantern.discards + 1 } }) ∧
    (z.addr = addr → z.port = port → z.version = d.version →
      let t := s.modSessions (fun y => y.number == d.session) (fun y => { y with heardAt := s.now })
      (d.type = 0 → exec (.lmpDatagram addr port bs) s = .next (t.lmpRequest { z with heardAt := s.now } d)) ∧
      (d.type = 2 → d.version = 2 → exec (.lmpDatagram addr port bs) s = .next (t.modSessions (fun y => y.number == d.session) (fun y =>
        ({ y with kept := y.kept.filter (fun r => decide (d.ack < r.seq)) }).noticesAcked s.now d.ack)))) := by
  have arm : exec (.lmpDatagram addr port bs) s = execLmpDatagram addr port bs s := rfl
  have on : ¬ ((!s.lantern.running) = true ∨ (!s.hp.linkUp) = true) := by simp [running, up]
  have served : ¬ (s.lantern.recovery = true ∧ d.version ≠ 2) := by simp [normal]
  rw [arm, execLmpDatagram]
  simp only [parsed, session]
  rw [if_neg on, if_neg served]
  refine ⟨fun foreign => by rw [if_pos foreign], fun a b c => ?_⟩
  rw [if_neg (by simp [a, b, c])]
  refine ⟨fun request => by rw [request]; rfl, fun ack two => ?_⟩
  rw [ack, if_pos two]
  rfl

theorem lmpDatagram_acts : let drop : State := { s with lantern := { s.lantern with discards := s.lantern.discards + 1 } }
    (parseLmp bs = none → exec (.lmpDatagram addr port bs) s = .next drop) ∧
    (∀ d : Lmp, parseLmp bs = some d →
      (s.session d.session = none → d.type = 0 → (d.session ≠ 0 ∨ (d.command ≠ 1 ∧ d.command ≠ 3)) →
        Gives (.lmpDatagram addr port bs) s (fun t => OnlyAnswer s t ∧
          { t.lantern with lastResponse := s.lantern.lastResponse } = s.lantern ∧
          t.lantern.lastResponse = some ⟨d.session, d.seq, d.command, genNoSession, []⟩ ∧
          (s.hpOpen = true → s.paused s.lmpPcp = false → t.hp.sent =
            s.hp.sent ++ [(skLmp, lmpBytes d.version 1 d.session d.command d.seq 0 genNoSession.toNat [])]))) ∧
      (s.session d.session = none → (d.type ≠ 0 ∨ (d.session = 0 ∧ (d.command = 1 ∨ d.command = 3))) →
        exec (.lmpDatagram addr port bs) s = .next s) ∧
      (∀ z, s.session d.session = some z → (z.addr ≠ addr ∨ z.port ≠ port ∨ z.version ≠ d.version) →
        exec (.lmpDatagram addr port bs) s = .next drop) ∧
      (∀ z, s.session d.session = some z → z.addr = addr → z.port = port → z.version = d.version →
        (d.type = 0 → exec (.lmpDatagram addr port bs) s =
          .next ((s.modSessions (fun y => y.number == d.session) (fun y => { y with heardAt := s.now })).lmpRequest
            { z with heardAt := s.now } d)) ∧
        (d.type = 2 → d.version = 2 → Gives (.lmpDatagram addr port bs) s (fun t => ∃ y, t.session d.session = some y ∧
          y.heardAt = s.now ∧ y.kept = z.kept.filter (fun r => decide (d.ack < r.seq)))))) := by
  refine ⟨exec_lmpDatagram_none running up, fun d parsed => ⟨fun session request foreign => ?_, fun session other => ?_,
    fun z session => (exec_lmpDatagram_session running up normal parsed session).1, fun z session a b c => ⟨?_, fun ack two => ?_⟩⟩⟩
  · have answers : ¬ (d.type ≠ 0 ∨ (d.session = 0 ∧ (d.command = 1 ∨ d.command = 3))) := by
      rintro (h | ⟨h, k⟩)
      · exact h request
      · rcases foreign with f | ⟨f, g⟩
        · exact f h
        · exact k.elim f g
    have run := exec_lmpDatagram_stranger (addr := addr) (port := port) running up normal parsed session
    rw [if_neg answers] at run
    refine ⟨_, run, ?_, ?_, ?_, fun opened free => ?_⟩
    rotate_right
    · exact (State.hpSend_sends (s := { s with lantern := { s.lantern with
        lastResponse := some ⟨d.session, d.seq, d.command, genNoSession, []⟩ } }) opened free _ _).1
    · exact (congrArg (fun u : State => { u with lantern := s.lantern }) (State.hpSend_sent _ _ _ _) :)
    · rw [State.hpSend_lantern]
    · rw [State.hpSend_lantern]
  · rw [exec_lmpDatagram_stranger running up normal parsed session, if_pos other]
  · exact ((exec_lmpDatagram_session running up normal parsed session).2 a b c).1
  · refine ⟨_, ((exec_lmpDatagram_session running up normal parsed session).2 a b c).2 ack two, ?_⟩
    dsimp only
    rw [State.session_modSessions_same _ _ _ (by exact fun y => (Session.noticesAcked_kept _ _ _).2.2),
      State.session_modSessions_same _ _ _ (by exact fun _ => rfl), session]
    obtain ⟨kept, heard, -⟩ := Session.noticesAcked_kept { z with heardAt := s.now, kept := z.kept.filter (fun r => decide (d.ack < r.seq)) } s.now d.ack
    exact ⟨_, rfl, heard, kept⟩

end

/-- Settles O47: sessions open and end, the device commands answer, then what Lantern sends and what it does with a datagram. -/
theorem sessionsAndDatagramsAct : Obligations.SessionsAndDatagramsAct := by
  refine ⟨⟨?opens, session_closes, session_timesOut, fun q s ha => State.command_gives rfl ha rfl rfl, fun q kind s ha => ⟨fun other => ?_, ?_⟩⟩,
    announce_sends, noticeResend_sends, fun addr port bs s running up normal => lmpDatagram_acts running up normal⟩
  case opens =>
    intro q addr port version flags timeoutS nonce s running
    refine ⟨exec_sessionOpen_unserved running, fun serves ha => ⟨fun n z recent session => sessionOpen_again serves ha recent session, ?_⟩⟩
    intro recent reserved range room admins
    have run := sessionOpen_new serves ha recent reserved range room admins
    generalize hz : s.openedSession addr port version flags (if timeoutS = 0 then 60 else timeoutS) nonce = z at run
    obtain ⟨answered, only, -⟩ := (s.opened z).respond_answers q 0x01 stDone (openAnswer z.number z.timeoutS)
    obtain ⟨y, hy, a, b, c, eq⟩ := (s.opened z).respond_sessions q 0x01 stDone (openAnswer z.number z.timeoutS) z
      (List.mem_append_right _ List.mem_cons_self)
    refine ⟨_, run, hz ▸ answered, (congrArg (fun u : State => { u with lantern := s.lantern }) only :), y, hy, ?_⟩
    rw [eq, ← hz]
    exact ⟨rfl, rfl, rfl, rfl, rfl, rfl, rfl⟩
  · exact State.command_refuses rfl ha (if_neg other)
  · exact State.command_gives rfl ha rfl rfl

end Sys2Proof.Machine
end
section
/-! PROOFS. Context commands of the mailbox (O48 fails): a cluster woken from Off with a broken save record. -/

namespace Sys2Proof.Machine

/-! ### A cluster that is woken from Off with a broken save record (R223, R440; Table 9-1) -/

theorem State.ctx_of_ctxs {s t : State} (h : s.ctxs = t.ctxs) (x : Nat) : s.ctx x = t.ctx x := by rw [State.ctx, State.ctx, h]

/-- The step of a fatal error that stops a context in use. -/
def State.fatalCtx (t : State) (x : Nat) : State :=
  if (t.ctx x).state = .free then t else t.modCtx x (fun v => { v with state := .stopped, hardStop := true })

theorem State.fatalCtx_other (t : State) {x y : Nat} (h : y ≠ x) : (t.fatalCtx x).ctx y = t.ctx y := by
  unfold State.fatalCtx
  split
  · rfl
  · exact State.modCtx_ctx_other _ _ h

/-- A fatal error takes the contexts from its stopping steps. -/
theorem State.fatalError_ctxs (s : State) (l : LogArgs) (fabric : Bool) :
    (s.fatalError l fabric).ctxs = ((List.range 16).foldl State.fatalCtx (s.log { l with cls := 3 })).ctxs := by
  have cores (l : List Nat) (t : State) : (l.foldl (fun t c =>
      if (t.core c).scalar = .ended then t else t.modCore c (fun v => { v with scalar := .stopped })) t).ctxs = t.ctxs :=
    foldl_keeps (fun u : State => u.ctxs = t.ctxs) _ _ _ rfl fun u c keep => by
      split
      · exact keep
      · exact (State.modCore_ctxs _ _ _).trans keep
  have ports (l : List Nat) (t : State) : (l.foldl (fun t p => t.modPort p Port.fatalOff) t).ctxs = t.ctxs :=
    foldl_keeps (fun u : State => u.ctxs = t.ctxs) _ _ _ rfl fun u c keep => (State.modPort_ctxs _ _ _).trans keep
  have steps (l : List Nat) (t : State) : l.foldl (fun t x =>
      if (t.ctx x).state = .free then t else t.modCtx x (fun v => { v with state := .stopped, hardStop := true })) t =
        l.foldl State.fatalCtx t :=
    congrArg (fun f => l.foldl f t) (funext fun _ => funext fun _ => rfl)
  unfold State.fatalError
  extract_lets l' r s1 s2 s3 s4
  have h4 : s4.ctxs = s3.ctxs := by
    unfold s4
    split
    · exact ports _ _
    · rfl
  have h2 : s2 = (List.range 16).foldl State.fatalCtx s1 := steps _ _
  have h3 : s3.ctxs = s2.ctxs := cores _ _
  rw [State.noticeDev_ctxs]
  exact h4.trans (h3.trans (congrArg State.ctxs h2))

/-- A fatal error stops every context in use. -/
theorem State.fatalError_stops (s : State) (l : LogArgs) (fabric : Bool) {x : Nat} (hx : x < 16) (used : (s.ctx x).state ≠ .free) :
    ((s.fatalError l fabric).ctx x).state = .stopped := by
  have ctx : (s.fatalError l fabric).ctx x = ((List.range 16).foldl State.fatalCtx (s.log { l with cls := 3 })).ctx x :=
    State.ctx_of_ctxs (s.fatalError_ctxs l fabric) x
  rw [ctx]
  have start : ((s.log { l with cls := 3 }).ctx x).state ≠ .free := by rwa [State.log_ctx]
  have member := List.mem_range.2 hx
  generalize List.range 16 = r at member ⊢
  refine foldl_entry_changed (I := fun t : State => (t.ctx x).state ≠ .free) (Q := fun y v => y = x → v.state = .stopped)
    (get := fun (t : State) y => t.ctx y) (f := State.fatalCtx) (fun t y keep => ?_) (fun t y keep own => ?_)
    (fun t y z _ ne => t.fatalCtx_other ne) r _ start member rfl
  · by_cases own : x = y
    · subst own
      rw [State.fatalCtx, if_neg keep, State.modCtx_ctx_same]
      exact CtxState.noConfusion
    · rwa [t.fatalCtx_other own]
  · subst own
    rw [State.fatalCtx, if_neg keep, State.modCtx_ctx_same]

/-- A save record with a word that cannot be corrected is a fatal error when it is read. -/
theorem State.wardrobeSettle_stops (s : State) (ranges : List (Nat × Nat)) {w : Nat × WordErr}
    (broken : (s.power.wardrobe.badIn ranges).find? (·.2 = .double) = some w) {x : Nat} (hx : x < 16) (used : (s.ctx x).state ≠ .free) :
    ((s.wardrobeSettle ranges).ctx x).state = .stopped := by
  unfold State.wardrobeSettle
  dsimp only
  rw [if_neg (by intro none; rw [none] at broken; cases broken), broken]
  exact State.fatalError_stops _ _ _ hx used

theorem foldl_modCore_ctxs (l : List Nat) (index : Nat → Nat) (f : Nat → Core → Core) (s : State) :
    (l.foldl (fun t c => t.modCore (index c) (f c)) s).ctxs = s.ctxs :=
  foldl_keeps (fun u : State => u.ctxs = s.ctxs) _ _ _ rfl fun _ _ keep => (State.modCore_ctxs _ _ _).trans keep

theorem State.dozing_ctxs (s : State) (k : Nat) : (s.dozing k).ctxs = s.ctxs := by
  rw [State.dozing, State.modCluster_ctxs, foldl_modCore_ctxs]

/-- A restored save list changes no context; the read of its record may. -/
theorem State.restoreSave_ctxs (s : State) (k : Nat) : (s.restoreSave k).ctxs = (s.wardrobeSettle [(saveOffset k, 4096)]).ctxs := by
  unfold State.restoreSave
  dsimp only
  split
  · rw [foldl_modCore_ctxs, State.modCluster_ctxs]
  · rfl

/-- Waking a cluster from Off reads its save record, and changes no context beside. -/
theorem State.wake_ctxs_off (s : State) (k : Nat) (off : (s.cluster k).power = .off) :
    (s.wake k).ctxs = (s.wardrobeSettle [(saveOffset k, 4096)]).ctxs := by
  rw [State.wake, foldl_modCore_ctxs, State.wakeCluster, if_pos off, State.modCluster_ctxs, State.offExit, State.dozing_ctxs,
    State.restoreSave_ctxs]

/-! ### A context on such a cluster (R249; log entry 41) -/

/-- Cluster 0 is off, with a word of its save record that cannot be corrected; the other clusters are withheld. Context 0 is free, the
others are loaded with receive tag 1. -/
def State.brokenSave : State :=
  { State.reset with
    clusters := (List.range 16).map (fun k => (k, if k = 0 then { power := .off } else { withheld := true }))
    ctxs := (List.range 15).map (fun i => (i + 1, { state := .loaded, rtag := 1 }))
    power := { State.reset.power with wardrobe := { State.reset.power.wardrobe with bad := [(0, some .double)] } }
    lantern := { State.reset.lantern with
      running := true
      sessions := [{ number := 1, addr := 0, port := 0, version := 2, admin := false, timeoutS := 60, nonce := 0, openedAt := 0, heardAt := 0
                     expected := 1, requests := [], kept := [], noticeSeq := 1, notices := [], noticesLost := 0 }] } }

/-- The request of that session for a context on one cluster. -/
def createReq : Req := ⟨1, 8, 0⟩

theorem brokenSave_accepts : State.brokenSave.accepts createReq 0x10 8 none = true := by decide +kernel
theorem brokenSave_free : (List.range 16).filter (fun x => (State.brokenSave.ctx x).state == .free) = [0] := by decide +kernel
theorem brokenSave_freeClusters : State.brokenSave.freeClusters = [0] := by decide +kernel
theorem brokenSave_tags : ∀ y, y < 16 → (State.brokenSave.ctx y).state ≠ .free → (State.brokenSave.ctx y).rtag ≠ 0 := by decide +kernel

/-- With nothing in use, a place is found. -/
theorem placeFree_unused {lo hi align n : Nat} (room : lo + n ≤ hi) (pick : Nat) : ∃ a, placeFree [] lo hi align n pick = some a := by
  rw [← Option.isSome_iff_exists, placeFree, List.find?_isSome]
  exact ⟨lo, by simp, by simp [isVacant, room]⟩

/-- One cluster is chosen of one. -/
theorem chooseFrom_one (c k : Nat) : chooseFrom c 1 [k] = [k] := by
  simp [chooseFrom, Nat.mod_one]

theorem brokenSave_empty : ∀ x, x < 16 → (State.brokenSave.ctx x).tables = [] ∧ (State.brokenSave.ctx x).maps = [] := by decide +kernel

/-- A context without tables and mappings uses nothing of the firmware region. -/
theorem brokenSave_unused {s : State} (ctxs : s.ctxs = State.brokenSave.ctxs) {v : Ctx} (tables : v.tables = []) (maps : v.maps = []) :
    (s.setCtx 0 v).firmwareUsed = [] := by
  rw [State.firmwareUsed, List.flatMap_eq_nil_iff]
  intro x hx
  by_cases own : x = 0
  · subst own
    rw [State.setCtx_ctx_same, tables, maps]
    rfl
  · obtain ⟨tables', maps'⟩ := brokenSave_empty x (List.mem_range.1 hx)
    rw [State.setCtx_ctx_other _ _ own, State.ctx_of_ctxs ctxs, tables', maps']
    rfl

/-- A table that is made leaves the context beside its list of tables. -/
theorem State.newTable_some {s : State} (unused : s.firmwareUsed = []) (x : Nat) : ∃ r : Nat × State, s.newTable x = some r ∧
    r.2.clusters = s.clusters ∧ r.2.power = s.power ∧ ∃ l, r.2.ctx x = { s.ctx x with tables := l } := by
  obtain ⟨a, place⟩ := placeFree_unused (lo := firmwareBase) (hi := lpddrEnd) (n := 65536) (align := 65536) (by decide)
    (Config.freeNat s.freeCtr)
  have made : s.newTable x = some (a, (s.drawn.writePaClean a (List.replicate 65536 0)).modCtx x (fun v => { v with tables := v.tables ++ [a] })) := by
    rw [State.newTable, unused, place]
    rfl
  have cleared : MemOnly s.drawn (s.drawn.writePaClean a (List.replicate 65536 0)) := State.writePa_memOnly _ _ _ _
  generalize s.drawn.writePaClean a (List.replicate 65536 0) = w at made cleared
  refine ⟨_, made, ?_, ?_, ?_⟩
  · exact (State.modCtx_clusters _ _ _).trans cleared.clusters
  · exact (State.modCtx_power _ _ _).trans cleared.power
  · dsimp only
    rw [State.modCtx_ctx_same, State.ctx_of_ctxs (t := s) cleared.ctxs x]
    exact ⟨_, rfl⟩

/-- The context that CTX_CREATE sets up on its clusters. -/
def State.newCtx (s : State) (session n rtag : Nat) : Ctx :=
  { state := .loaded, clusters := (s.chooseClusters n).1, rtag := rtag, handle := Config.freeWord64 (s.chooseClusters n).2.freeCtr
    sessions := [session], saveClusters := 0 }

/-- A context without a save area, once its root table is made. -/
theorem State.createCtx_plain {s : State} {x session n rtag : Nat} {r : Nat × State}
    (made : ((s.chooseClusters n).2.drawn.setCtx x (s.newCtx session n rtag)).newTable x = some r) :
    s.createCtx x session n rtag false = some ((r.2.modCtx x (fun w => { w with root := r.1 })).wakeCtx x) := by
  unfold State.createCtx
  extract_lets c v
  have made' : (c.2.drawn.setCtx x v).newTable x = some r := made
  rw [made']
  rfl

/-- Waking a context of one cluster, off and with a broken save record, stops it. -/
theorem State.wakeCtx_stopped {t : State} {x k : Nat} (hx : x < 16) {v : Ctx} (ctx : t.ctx x = v) (clusters : v.clusters = [k])
    (used : v.state ≠ .free) (off : (t.cluster k).power = .off) {w : Nat × WordErr}
    (broken : (t.power.wardrobe.badIn [(saveOffset k, 4096)]).find? (·.2 = .double) = some w) :
    ((t.wakeCtx x).ctx x).state = .stopped := by
  subst ctx
  have woken : t.wakeCtx x = t.wake k := by
    rw [State.wakeCtx, clusters, List.foldl_cons, List.foldl_nil]
  rw [woken, State.ctx_of_ctxs (t.wake_ctxs_off k off)]
  exact t.wardrobeSettle_stops _ broken hx used

theorem State.newCtx_state (s : State) (session n rtag : Nat) : (s.newCtx session n rtag).state = .loaded := rfl

theorem State.newCtx_clusters (s : State) (session n rtag : Nat) :
    (s.newCtx session n rtag).clusters = (s.chooseClusters n).1 := rfl

/-- A context that is made on one cluster, off and with a broken save record, is stopped before CTX_CREATE has answered. -/
theorem State.createCtx_stopped {s : State} {x session rtag k : Nat} (hx : x < 16) (chosen : (s.chooseClusters 1).1 = [k])
    (unused : ((s.chooseClusters 1).2.drawn.setCtx x (s.newCtx session 1 rtag)).firmwareUsed = [])
    (off : (s.cluster k).power = .off) {w : Nat × WordErr}
    (broken : (s.power.wardrobe.badIn [(saveOffset k, 4096)]).find? (·.2 = .double) = some w) :
    ∃ u, s.createCtx x session 1 rtag false = some u ∧ (u.ctx x).state = .stopped := by
  obtain ⟨r, made, clusters, power, l, ctx⟩ := State.newTable_some unused x
  have created := State.createCtx_plain made
  rw [State.setCtx_ctx_same] at ctx
  have newState := s.newCtx_state session 1 rtag
  have newClusters := (s.newCtx_clusters session 1 rtag).trans chosen
  generalize s.newCtx session 1 rtag = v at ctx newState newClusters
  have tctx : (r.2.modCtx x (fun w => { w with root := r.1 })).ctx x = { v with root := r.1, tables := l } := by
    rw [State.modCtx_ctx_same, ctx]
  refine ⟨_, created, State.wakeCtx_stopped hx tctx newClusters ?_ ?_ ?_ (w := w)⟩
  · rw [newState]
    exact CtxState.noConfusion
  · rw [State.modCtx_cluster, State.cluster, clusters]
    exact off
  · rw [State.modCtx_power, power]
    exact broken

theorem brokenSave_off : (State.brokenSave.cluster 0).power = .off := by decide

theorem brokenSave_broken : (State.brokenSave.power.wardrobe.badIn [(saveOffset 0, 4096)]).find? (·.2 = .double) = some (0, .double) := by
  decide

theorem brokenSave_chosen : (State.brokenSave.drawn.chooseClusters 1).1 = [0] := by
  have free : State.brokenSave.drawn.freeClusters = [0] := brokenSave_freeClusters
  rw [State.chooseClusters, free]
  exact chooseFrom_one _ _

theorem brokenSave_creates : ∃ u, State.brokenSave.drawn.createCtx 0 1 1 0 false = some u ∧ (u.ctx 0).state = .stopped :=
  State.createCtx_stopped (by omega) brokenSave_chosen (brokenSave_unused rfl rfl rfl) brokenSave_off brokenSave_broken

/-- Refutes O48: CTX_CREATE may choose a cluster that is off, whose exit from Off reads its save record in the Wardrobe. A word of
that record that cannot be corrected is a fatal error, which stops every context in use, the new one among them: the context that
CTX_CREATE answers is STOPPED, not LOADED. -/
theorem not_contextAndMemoryCommandsAct : ¬ Obligations.ContextAndMemoryCommandsAct := by
  intro h
  obtain ⟨⟨create, -⟩, -⟩ := h
  obtain ⟨u, made, stopped⟩ := brokenSave_creates
  have gives := create createReq 1 0 0 State.brokenSave brokenSave_accepts (by decide)
  dsimp only at gives
  rw [brokenSave_free] at gives
  obtain ⟨-, loaded⟩ := gives (List.cons_ne_nil _ _) (by decide) (by decide) (by rw [brokenSave_freeClusters]; decide) (by decide)
    brokenSave_tags
  have first : [0].getD (Config.freeNat State.brokenSave.freeCtr % [0].length) 0 = 0 := by simp [Nat.mod_one]
  rw [first] at loaded
  obtain ⟨-, -, state, -⟩ := loaded u made
  rw [stopped] at state
  cases state

end Sys2Proof.Machine
end
section
/-! PROOFS. Run control and pre-emption (O49); what a wake, a fatal error and a read of SRAM leave. -/

namespace Sys2Proof.Machine

/-! ### Waking and fatal errors (R440, Table 9-1) -/

/-- From u to v a core changed in whether it issues, in its power state and in the counts that its save record holds. -/
def Core.Woken (u v : Core) : Prop :=
  ∃ sc p d e w, v = { u with scalar := sc, power := p, dozeDue := d, sramEcc := e, pwrStat := w }

/-- From u to v a cluster changed in its power state and in the counts that its save record holds. -/
def Cluster.Woken (u v : Cluster) : Prop :=
  ∃ p b d a e w o, v = { u with power := p, veil := b, dozeDue := d, offAt := a, sramEcc := e, walkStat := w, offStat := o }

/-- From u to v a context changed in whether it is stopped. -/
def Ctx.Halted (u v : Ctx) : Prop := ∃ st h, v = { u with state := st, hardStop := h }

theorem Core.Woken.refl (u : Core) : u.Woken u := ⟨_, _, _, _, _, rfl⟩
theorem Cluster.Woken.refl (u : Cluster) : u.Woken u := ⟨_, _, _, _, _, _, _, rfl⟩
theorem Ctx.Halted.refl (u : Ctx) : u.Halted u := ⟨_, _, rfl⟩

theorem Core.Woken.trans {u v w : Core} (h : u.Woken v) (k : v.Woken w) : u.Woken w := by
  obtain ⟨_, _, _, _, _, rfl⟩ := h
  obtain ⟨_, _, _, _, _, rfl⟩ := k
  exact ⟨_, _, _, _, _, rfl⟩

theorem Cluster.Woken.trans {u v w : Cluster} (h : u.Woken v) (k : v.Woken w) : u.Woken w := by
  obtain ⟨_, _, _, _, _, _, _, rfl⟩ := h
  obtain ⟨_, _, _, _, _, _, _, rfl⟩ := k
  exact ⟨_, _, _, _, _, _, _, rfl⟩

theorem Ctx.Halted.trans {u v w : Ctx} (h : u.Halted v) (k : v.Halted w) : u.Halted w := by
  obtain ⟨_, _, rfl⟩ := h
  obtain ⟨_, _, rfl⟩ := k
  exact ⟨_, _, rfl⟩

theorem Core.awoken_woken (u : Core) (entering : Bool) : u.Woken (u.awoken entering) := by
  unfold Core.awoken
  split
  · exact ⟨_, _, _, _, _, rfl⟩
  · split
    · exact ⟨_, _, _, _, _, rfl⟩
    · exact .refl u

/-- What neither a fatal error nor a wake changes: memory, transport, host port, groups, time, and most of cores, clusters and
contexts. -/
structure WakeOnly (s t : State) : Prop where
  mem : t.mem = s.mem
  xpt : t.xpt = s.xpt
  hp : t.hp = s.hp
  groups : t.groups = s.groups
  now : t.now = s.now
  cores : ∀ c, (s.core c).Woken (t.core c)
  clusters : ∀ k, (s.cluster k).Woken (t.cluster k)
  ctxs : ∀ x, (s.ctx x).Halted (t.ctx x)

section
variable {s t u : State}

theorem State.core_of_cores (h : t.cores = s.cores) (c : Nat) : t.core c = s.core c := by rw [State.core, State.core, h]
theorem State.cluster_of_clusters (h : t.clusters = s.clusters) (k : Nat) : t.cluster k = s.cluster k := by
  rw [State.cluster, State.cluster, h]

theorem WakeOnly.of_eq (mem : t.mem = s.mem) (xpt : t.xpt = s.xpt) (hp : t.hp = s.hp) (groups : t.groups = s.groups)
    (now : t.now = s.now) (cores : t.cores = s.cores) (clusters : t.clusters = s.clusters) (ctxs : t.ctxs = s.ctxs) : WakeOnly s t where
  mem := mem
  xpt := xpt
  hp := hp
  groups := groups
  now := now
  cores c := State.core_of_cores cores c ▸ .refl _
  clusters k := State.cluster_of_clusters clusters k ▸ .refl _
  ctxs x := State.ctx_of_ctxs ctxs x ▸ .refl _

theorem WakeOnly.refl (s : State) : WakeOnly s s := .of_eq rfl rfl rfl rfl rfl rfl rfl rfl

theorem WakeOnly.trans (h : WakeOnly s t) (k : WakeOnly t u) : WakeOnly s u where
  mem := k.mem.trans h.mem
  xpt := k.xpt.trans h.xpt
  hp := k.hp.trans h.hp
  groups := k.groups.trans h.groups
  now := k.now.trans h.now
  cores c := (h.cores c).trans (k.cores c)
  clusters j := (h.clusters j).trans (k.clusters j)
  ctxs x := (h.ctxs x).trans (k.ctxs x)

theorem WakeOnly.foldl {α : Type} {f : State → α → State} (step : ∀ u a, WakeOnly u (f u a)) (l : List α) (s : State) :
    WakeOnly s (l.foldl f s) :=
  foldl_keeps (WakeOnly s) _ _ _ (.refl s) fun u a keep => keep.trans (step u a)

theorem WakeOnly.modCore (s : State) (c : Nat) {f : Core → Core} (woken : ∀ u : Core, u.Woken (f u)) : WakeOnly s (s.modCore c f) := by
  refine ⟨rfl, rfl, rfl, rfl, rfl, fun d => ?_, fun _ => .refl _, fun _ => .refl _⟩
  rw [State.modCore_core]
  split
  · next own => exact own ▸ woken _
  · exact .refl _

theorem WakeOnly.modCluster (s : State) (k : Nat) {f : Cluster → Cluster} (woken : ∀ u : Cluster, u.Woken (f u)) :
    WakeOnly s (s.modCluster k f) := by
  refine ⟨rfl, rfl, rfl, rfl, rfl, fun _ => .refl _, fun j => ?_, fun _ => .refl _⟩
  rw [State.modCluster_cluster]
  split
  · next own => exact own ▸ woken _
  · exact .refl _

theorem WakeOnly.modPort (s : State) (p : Nat) (f : Port → Port) : WakeOnly s (s.modPort p f) :=
  .of_eq rfl rfl rfl rfl rfl rfl rfl rfl

theorem State.fatalCtx_wakeOnly (s : State) (x : Nat) : WakeOnly s (s.fatalCtx x) := by
  unfold State.fatalCtx
  split
  · exact .refl s
  · refine ⟨rfl, rfl, rfl, rfl, rfl, fun _ => .refl _, fun _ => .refl _, fun y => ?_⟩
    rw [State.modCtx_ctx]
    split
    · next own => exact own ▸ ⟨_, _, rfl⟩
    · exact .refl _

theorem State.noticed_wakeOnly (s : State) (ras : Ras) (flash : Flash) (pins : Pins) (kind : Nat) (bytes : List Byte) :
    WakeOnly s (State.noticeDev { s with ras := ras, flash := flash, pins := pins } kind bytes) :=
  .of_eq (State.noticeDev_mem _ _ _) (State.noticeDev_xpt _ _ _) (State.noticeDev_hp _ _ _) (State.noticeDev_groups _ _ _)
    (State.noticeDev_now _ _ _) (State.noticeDev_cores _ _ _) (State.noticeDev_clusters _ _ _) (State.noticeDev_ctxs _ _ _)

theorem foldl_scalarStopped_wakeOnly (l : List Nat) (t : State) : WakeOnly t (l.foldl (fun t c =>
    if (t.core c).scalar = .ended then t else t.modCore c (fun v => { v with scalar := .stopped })) t) :=
  .foldl (fun u c => by
    split
    · exact .refl u
    · exact .modCore _ _ fun _ => ⟨_, _, _, _, _, rfl⟩) _ _

theorem foldl_fatalOff_wakeOnly (fabric : Bool) (l : List Nat) (t : State) :
    WakeOnly t (if fabric then l.foldl (fun t p => t.modPort p Port.fatalOff) t else t) := by
  split
  · exact WakeOnly.foldl (f := fun t p => t.modPort p Port.fatalOff) (fun _ _ => .modPort _ _ _) l t
  · exact .refl t

theorem foldl_fatalCtx_wakeOnly (l : List Nat) (t : State) : WakeOnly t (l.foldl (fun t x =>
    if (t.ctx x).state = .free then t else t.modCtx x (fun v => { v with state := .stopped, hardStop := true })) t) :=
  WakeOnly.foldl (f := State.fatalCtx) State.fatalCtx_wakeOnly l t

theorem WakeOnly.log (s : State) (l : LogArgs) : WakeOnly s (s.log l) :=
  .of_eq (State.log_mem _ _) (State.log_xpt _ _) (State.log_hp _ _) (State.log_groups _ _) (State.log_now _ _) (State.log_cores _ _)
    (State.log_clusters _ _) (State.log_ctxs _ _)

theorem State.fatalError_wakeOnly (s : State) (l : LogArgs) (fabric : Bool) : WakeOnly s (s.fatalError l fabric) := by
  unfold State.fatalError
  extract_lets l' r s1 s2 s3 s4
  have h1 : WakeOnly s s1 := .log _ _
  have h2 : WakeOnly s1 s2 := foldl_fatalCtx_wakeOnly _ _
  have h3 : WakeOnly s2 s3 := foldl_scalarStopped_wakeOnly _ _
  have h4 : WakeOnly s3 s4 := foldl_fatalOff_wakeOnly _ _ _
  exact (((h1.trans h2).trans h3).trans h4).trans (State.noticed_wakeOnly s4 _ _ _ _ _)

theorem State.wardrobeSettle_wakeOnly (s : State) (ranges : List (Nat × Nat)) : WakeOnly s (s.wardrobeSettle ranges) := by
  unfold State.wardrobeSettle
  dsimp only
  split
  · exact .refl s
  · split
    · exact .of_eq rfl rfl rfl rfl rfl rfl rfl rfl
    · refine .trans ?_ (State.fatalError_wakeOnly _ _ _)
      exact .of_eq rfl rfl rfl rfl rfl rfl rfl rfl

theorem foldl_modCore_wakeOnly (l : List Nat) (index : Nat → Nat) {f : Nat → Core → Core} (woken : ∀ c (u : Core), u.Woken (f c u))
    (s : State) : WakeOnly s (l.foldl (fun t c => t.modCore (index c) (f c)) s) :=
  WakeOnly.foldl (f := fun t c => t.modCore (index c) (f c)) (fun u c => .modCore u (index c) (woken c)) l s

theorem State.dozing_wakeOnly (s : State) (k : Nat) : WakeOnly s (s.dozing k) := by
  unfold State.dozing
  refine .trans (foldl_modCore_wakeOnly _ (fun c => 16 * k + c) (fun _ _ => ?_) _) (.modCluster _ _ fun _ => ?_)
  · exact ⟨_, _, _, _, _, rfl⟩
  · exact ⟨_, _, _, _, _, _, _, rfl⟩

theorem State.restoreSave_wakeOnly (s : State) (k : Nat) : WakeOnly s (s.restoreSave k) := by
  unfold State.restoreSave
  dsimp only
  split
  · refine (s.wardrobeSettle_wakeOnly _).trans ((WakeOnly.modCluster _ k fun _ => ?_).trans
      (foldl_modCore_wakeOnly _ (fun c => 16 * k + c) (fun _ _ => ?_) _))
    · exact ⟨_, _, _, _, _, _, _, rfl⟩
    · exact ⟨_, _, _, _, _, rfl⟩
  · exact s.wardrobeSettle_wakeOnly _

theorem State.offExit_wakeOnly (s : State) (k : Nat) : WakeOnly s (s.offExit k) :=
  (s.restoreSave_wakeOnly k).trans (State.dozing_wakeOnly _ _)

theorem State.wakeCluster_wakeOnly (s : State) (k : Nat) : WakeOnly s (s.wakeCluster k) := by
  unfold State.wakeCluster
  split
  · exact (s.offExit_wakeOnly k).trans (.modCluster _ _ fun _ => ⟨_, _, _, _, _, _, _, rfl⟩)
  · exact .modCluster _ _ fun _ => ⟨_, _, _, _, _, _, _, rfl⟩

theorem State.wakeCore_wakeOnly (s : State) (c : Nat) : WakeOnly s (s.wakeCore c) :=
  (s.wakeCluster_wakeOnly _).trans (.modCore _ _ fun u => u.awoken_woken _)

theorem State.wake_wakeOnly (s : State) (k : Nat) : WakeOnly s (s.wake k) :=
  (s.wakeCluster_wakeOnly k).trans (foldl_modCore_wakeOnly _ (fun c => 16 * k + c) (fun _ u => u.awoken_woken _) _)

theorem State.wakeCtx_wakeOnly (s : State) (x : Nat) : WakeOnly s (s.wakeCtx x) := .foldl State.wake_wakeOnly _ _

end

/-! ### What a read of SRAM leaves (R224) -/

section
variable {s t u : State}

theorem SameDevice.refl (s : State) : SameDevice s s := rfl

theorem SameDevice.trans (h : SameDevice s t) (k : SameDevice t u) : SameDevice s u :=
  Eq.trans (congrArg (fun w : State => { w with cores := s.cores, clusters := s.clusters, ras := s.ras }) k) h

theorem SameDevice.foldl {α : Type} {f : State → α → State} (step : ∀ u a, SameDevice u (f u a)) (l : List α) (s : State) :
    SameDevice s (l.foldl f s) :=
  foldl_keeps (SameDevice s) _ _ _ rfl fun u a keep => SameDevice.trans keep (step u a)

theorem SameDevice.modCore (s : State) (c : Nat) (f : Core → Core) : SameDevice s (s.modCore c f) := rfl
theorem SameDevice.modCluster (s : State) (k : Nat) (f : Cluster → Cluster) : SameDevice s (s.modCluster k f) := rfl
theorem SameDevice.log (s : State) (l : LogArgs) : SameDevice s (s.log l) := rfl

theorem SameDevice.mem (h : SameDevice s t) : t.mem = s.mem := (congrArg State.mem h :)
theorem SameDevice.xpt (h : SameDevice s t) : t.xpt = s.xpt := (congrArg State.xpt h :)
theorem SameDevice.hp (h : SameDevice s t) : t.hp = s.hp := (congrArg State.hp h :)
theorem SameDevice.now (h : SameDevice s t) : t.now = s.now := (congrArg State.now h :)
theorem SameDevice.ctxs (h : SameDevice s t) : t.ctxs = s.ctxs := (congrArg State.ctxs h :)
theorem SameDevice.pools (h : SameDevice s t) : t.pools = s.pools := (congrArg State.pools h :)
theorem SameDevice.lantern (h : SameDevice s t) : t.lantern = s.lantern := (congrArg State.lantern h :)

theorem State.logSram_sameDevice (s : State) (block inst kind : Nat) (hit : List (Nat × WordErr)) :
    SameDevice s (s.logSram block inst kind hit) := by
  unfold State.logSram
  exact SameDevice.foldl (fun u e => SameDevice.log u _) _ s

theorem State.ocSettle_sameDevice (s : State) (c : Nat) (ranges : List (Nat × Nat)) : SameDevice s (s.ocSettle c ranges) := by
  unfold State.ocSettle
  dsimp only
  split
  · rfl
  · exact (SameDevice.modCore s c _).trans (State.logSram_sameDevice _ _ _ _ _)

theorem State.cmSettle_sameDevice (s : State) (k : Nat) (ranges : List (Nat × Nat)) : SameDevice s (s.cmSettle k ranges) := by
  unfold State.cmSettle
  dsimp only
  split
  · rfl
  · exact (SameDevice.modCluster s k _).trans (State.logSram_sameDevice _ _ _ _ _)

theorem State.dmSettle_sameDevice (s : State) (c : Nat) (ranges : List (Nat × Nat)) : SameDevice s (s.dmSettle c ranges) := by
  unfold State.dmSettle
  dsimp only
  split
  · rfl
  · exact SameDevice.modCore s c _

theorem State.accSettle_sameDevice (s : State) (c tile : Nat) (m : TileMode) (p : Nat → Bool) :
    SameDevice s (s.accSettle c tile m p) := by
  unfold State.accSettle
  dsimp only
  split
  · rfl
  · exact (SameDevice.modCore s c _).trans (State.logSram_sameDevice _ _ _ _ _)

end

/-! ### RUN_START, RUN_RESUME_FAULT and DEBUG_READ (R66, R258, R83) -/

/-- A core whose program starts at its first bundle. -/
structure Core.AtStart (u : Core) : Prop where
  offset : u.offset = 0
  bundleCount : u.bundleCount = 0
  loops : u.loops = []

theorem State.startCore_atStart (s : State) (x c : Nat) : ((s.startCore x c).core c).AtStart := by
  rw [State.startCore, State.modCore_core_same]
  exact ⟨rfl, rfl, rfl⟩

theorem State.startCores_atStart (x : Nat) (cores : List Nat) (s : State) {c : Nat} (h : c ∈ cores) :
    ((cores.foldl (fun u c => u.startCore x c) s).core c).AtStart :=
  foldl_entry_changed (I := fun _ => True) (Q := fun _ v => v.AtStart) (get := fun (t : State) y => t.core y)
    (f := fun u c => u.startCore x c) (fun _ _ _ => trivial) (fun t y _ => State.startCore_atStart t x y)
    (fun _ _ _ _ ne => State.modCore_core_other _ _ ne) cores s trivial h

theorem State.setFlag_atStart (s : State) (k : Nat) (id : BitVec 16) (v : Word32) {c : Nat} (h : (s.core c).AtStart) :
    ((s.setFlag k id v).core c).AtStart := by
  obtain ⟨offset, count, loops⟩ := h
  unfold State.setFlag
  split
  · exact ⟨offset, count, loops⟩
  · rw [State.modCore_core]
    split
    · subst c
      exact ⟨offset, count, loops⟩
    · exact ⟨offset, count, loops⟩

theorem State.runStart_atStart (s : State) (x : Nat) {c : Nat} (h : c ∈ (s.ctx x).cores) : ((s.runStart x).core c).AtStart := by
  unfold State.runStart
  extract_lets v t1 t2 t3 t4
  have started : (t3.core c).AtStart := State.startCores_atStart x _ t2 h
  have flags : (t4.core c).AtStart := foldl_keeps (fun u : State => (u.core c).AtStart) _ _ _ started fun u f keep => by
    split
    · exact u.setFlag_atStart _ _ _ keep
    · exact keep
  exact flags

theorem State.runStart_ctx (s : State) (x : Nat) :
    ((s.runStart x).ctx x).state = .running ∧ ((s.runStart x).ctx x).seed = 0 ∧ ((s.runStart x).ctx x).stepNo = 0 := by
  unfold State.runStart
  extract_lets v t1 t2 t3 t4
  rw [State.modCtx_ctx_same]
  exact ⟨rfl, rfl, rfl⟩

theorem State.resumeRecvs_ctxs (s : State) (x : Nat) : (s.resumeRecvs x).ctxs = s.ctxs := (s.modWaits_leaves x _ _).1


theorem State.restart_ctx (s : State) (x : Nat) : ((s.restart x).ctx x).state = .running ∧ ((s.restart x).ctx x).faults = [] := by
  rw [State.restart, State.ctx_of_ctxs (State.resumeRecvs_ctxs _ x), State.modCtx_ctx_same]
  exact ⟨rfl, rfl⟩

theorem State.debugSettle_mem (s : State) (kind k c a n : Nat) : (s.debugSettle kind k c a n).mem = s.mem := by
  unfold State.debugSettle
  split
  · split
    · exact (s.dmSettle_sameDevice c _).mem
    · rw [State.coreFault_mem]
      exact (s.dmSettle_sameDevice c _).mem
  · exact (s.ocSettle_sameDevice c _).mem
  · exact (SameDevice.foldl (f := fun t i => t.accSettle c i .u (fun w =>
      decide (8 * (slotWords * i + w) < a + n ∧ a < 8 * (slotWords * i + w) + 8))) (fun u i => u.accSettle_sameDevice c i .u _) _ s).mem
  · exact (s.cmSettle_sameDevice k _).mem
  · rfl

theorem State.debugAnswer_mem (s : State) (kind k c offset len : Nat) : (s.debugAnswer kind k c offset len).1.mem = s.mem := by
  unfold State.debugAnswer
  dsimp only
  rw [State.debugSettle_mem]
  split
  · exact (s.wakeCluster_wakeOnly k).mem
  · exact (s.wakeCore_wakeOnly c).mem

theorem State.debugAnswer_length (s : State) (kind k c offset len : Nat) :
    (s.debugAnswer kind k c offset len).2.length = 24 + len := by
  unfold State.debugAnswer
  simp


/-! ### Run control (R62, R66, R81, R83, R258, R422) -/

theorem progLoad_answers (q : Req) (x region offset len : Nat) (io : FarIO) (s u v : State) (bs p : List Byte) (st : Status)
    (ha : s.accepts q 0x30 24 (some x) = true) (loaded : (s.ctx x).state = .loaded) (none : (s.ctx x).program = none)
    (read : s.farRead region offset len io = (u, .ok bs)) (load : u.loadProgram x bs = (v, st, p)) :
    Answers (.progLoad q x region offset len io) q 0x30 st p s v := by
  refine State.command_gives rfl ha (by simp [firstFail, loaded, none]) ?_
  rw [read]
  exact load

theorem runStart_answers (q : Req) (x : Nat) (s : State) (ha : s.accepts q 0x31 8 (some x) = true)
    (loaded : (s.ctx x).state = .loaded) (program : (s.ctx x).program.isSome = true) :
    Answers (.runStart q x) q 0x31 stDone [] s (s.runStart x) := by
  refine State.command_gives rfl ha ?_ rfl
  simp [firstFail, loaded, Option.ne_none_iff_isSome.2 program]

theorem runResumeFault_answers (q : Req) (x : Nat) (s : State) (ha : s.accepts q 0x32 8 (some x) = true)
    (resumable : (s.ctx x).stoppedResumably = true) (mapped : s.faultsMapped x = true) :
    Answers (.runResumeFault q x) q 0x32 stDone [] s ((s.wakeCtx x).restart x) :=
  State.command_gives rfl ha (by simp [firstFail, resumable, mapped]) rfl

theorem bisectStop_answers (q : Req) (x core count : Nat) (s : State) (ha : s.accepts q 0x35 16 (some x) = true)
    (loaded : (s.ctx x).state = .loaded) (count48 : count < 2 ^ 48) (known : core = 0xFFFF ∨ core < 16 * (s.ctx x).clusters.length) :
    Answers (.bisectStop q x core count) q 0x35 stDone [] s (s.modCtx x (fun w =>
      if core = 0xFFFF then { w with stopCount := count } else { w with coreStops := sset 0 w.coreStops core count })) := by
  refine State.command_gives rfl ha ?_ rfl
  have inside : ¬(core ≠ 0xFFFF ∧ 16 * (s.ctx x).clusters.length ≤ core) := by omega
  simp only [firstFail, loaded, decide_eq_false inside, decide_eq_false (Nat.not_le.2 count48)]
  rfl

theorem debugRead_answers (q : Req) (x kind cluster core offset len : Nat) (s : State) (ha : s.accepts q 0x36 16 (some x) = true)
    (some' : 1 ≤ len) (fits : len ≤ 8168) (debug : s.lantern.debug = true) (stopped : (s.ctx x).state = .stopped)
    (quiet : s.quiescent x = true) (kind1 : 1 ≤ kind) (kind8 : kind ≤ 8) (held : cluster < (s.ctx x).clusters.length)
    (one : kind ≠ 8 → core < 16) (size : offset + len ≤ debugSize kind) :
    let k := ((s.ctx x).physical cluster).getD 0
    let r := s.debugAnswer kind k (16 * k + core % 16) offset len
    Answers (.debugRead q x kind cluster core offset len) q 0x36 stDone r.2 s r.1 := by
  intro k r
  refine State.command_gives rfl ha ?_ rfl
  have core16 : (kind != 8 && decide (16 ≤ core)) = false := by
    by_cases h : kind = 8
    · simp [h]
    · simp [Nat.not_le.2 (one h)]
  simp [firstFail, some', fits, debug, stopped, quiet, kind1, kind8, core16, Nat.not_le.2 held, Nat.not_lt.2 size]

theorem cfgRecord_coll_answers (q : Req) (x index : Nat) (record : List Byte) (p : Program) (s : State)
    (ha : s.accepts q 0x50 136 (some x) = true) (program : (s.ctx x).program = some p) (still : (s.ctx x).state ≠ .running)
    (known : index < p.colls.length) (idle : s.activeColl x index = none)
    (valid : collOk record s.xpt.topo p.buffers (s.memContent x) (cmSize - (s.ctx x).pocketBytes) = true) :
    Answers (.cfgRecord q x 7 index record) q 0x50 stDone [] s (s.modCtx x (fun v => { v with
      program := some { p with colls := p.colls.set index (parseColl record) } })) := by
  refine State.command_gives rfl ha ?_ ?_
  · simp [firstFail, program, still, idle, valid, Nat.not_le.2 known]
  · rw [program]
    rfl

theorem cfgRecord_router_answers (q : Req) (x index : Nat) (record : List Byte) (p : Program) (s : State)
    (ha : s.accepts q 0x50 136 (some x) = true) (program : (s.ctx x).program = some p) (still : (s.ctx x).state ≠ .running)
    (known : index < p.routers.length) (idle : ∀ k, k < 16 → ∀ w ∈ (s.cluster k).xrecvs, w.ctx ≠ x ∨ w.layer ≠ index)
    (valid : (parseRouter record).ok record p.buffers = true)
    (layers : ∀ z ∈ p.routers.zipIdx, z.2 = index ∨ z.1.layerId ≠ (parseRouter record).layerId) :
    Answers (.cfgRecord q x 8 index record) q 0x50 stDone [] s (s.modCtx x (fun v => { v with
      program := some { p with routers := p.routers.set index (parseRouter record) } })) := by
  refine State.command_gives rfl ha ?_ ?_
  · have free : (List.range 16).any (fun k => (s.cluster k).xrecvs.any (fun w => w.ctx == x && w.layer == index)) = false := by
      refine List.any_eq_false.2 fun k hk => ?_
      rw [Bool.not_eq_true, List.any_eq_false]
      intro w hw own
      obtain ⟨ctx, layer⟩ := Bool.and_eq_true_iff.1 own
      exact (idle k (List.mem_range.1 hk) w hw).elim (· (beq_iff_eq.1 ctx)) (· (beq_iff_eq.1 layer))
    have apart : p.routers.zipIdx.all (fun z => z.2 == index || z.1.layerId != (parseRouter record).layerId) = true := by
      simp only [List.all_eq_true, Bool.or_eq_true, beq_iff_eq, bne_iff_ne]
      exact layers
    simp [firstFail, program, still, free, valid, apart, Nat.not_le.2 known]
  · rw [program]
    rfl

/-! ### Pre-emption (R265 to R268) -/

/-- A response to a session, of whatever command. -/
theorem State.respond_answersSession (s : State) (n code : Nat) (st : Status) (p : List Byte) :
    AnsweredSession (s.respond n code st p) n code st p := (s.respond_answers ⟨n, 0, 0⟩ code st p).1

theorem State.respond_ctx (s : State) (n code : Nat) (st : Status) (p : List Byte) (x : Nat) :
    (s.respond n code st p).ctx x = s.ctx x := State.ctx_of_ctxs (s.respond_ctxs n code st p) x

theorem State.respond_ras (s : State) (n code : Nat) (st : Status) (p : List Byte) : (s.respond n code st p).ras = s.ras :=
  (congrArg State.ras (s.respond_answers ⟨n, 0, 0⟩ code st p).2.1 :)

/-- A request that is answered later begins once its checks have passed. -/
theorem State.begin_accepted {s : State} {c : Instr} {q : Req} {code len : Nat} {x : Option Nat} (own : Option Status)
    (eff : State → State) (ha : s.accepts q code len x = true) (ho : own = none) : s.begin c q code len x own eff = eff s := by
  obtain ⟨i, known, running, free, check⟩ := State.accepts_served ha
  unfold State.begin
  simp only [known, running, free, check, ho, Bool.not_true, Bool.false_eq_true, if_false, Option.or_none]

theorem State.freeInbound_ctxs (s : State) (i : Nat) (m : InMsg) : (s.freeInbound i m).ctxs = s.ctxs := rfl
theorem State.freeInbound_mem (s : State) (i : Nat) (m : InMsg) : (s.freeInbound i m).mem = s.mem := rfl

theorem State.requeue_leaves (s : State) (x c : Nat) : (s.requeue x c).ctxs = s.ctxs ∧ (s.requeue x c).mem = s.mem := by
  unfold State.requeue
  extract_lets u back t1 t2
  split
  · exact ⟨rfl, rfl⟩
  · refine foldl_keeps (fun w : State => w.ctxs = s.ctxs ∧ w.mem = s.mem) _ _ _ ⟨rfl, rfl⟩ fun w e keep => ?_
    split <;> exact keep

theorem State.modWaits_sameDevice (s : State) (x : Nat) (g : XRecv → XRecv) (h : Coll → Coll) : SameDevice s (s.modWaits x g h) := by
  unfold State.modWaits
  refine SameDevice.foldl (fun t k => ?_) _ s
  split
  · exact SameDevice.modCluster t k _
  · rfl

theorem State.pauseRecvs_leaves (s : State) (x : Nat) : (s.pauseRecvs x).ctxs = s.ctxs ∧ (s.pauseRecvs x).mem = s.mem :=
  ⟨(s.modWaits_sameDevice x _ _).ctxs, (s.modWaits_sameDevice x _ _).mem⟩

/-- A pre-emption that begins notes its end and has the context's arrivals turned away. -/
theorem State.beginPreempt_begins (s : State) (x session : Nat) (evict : Bool) (drainMs : Nat) :
    let t := s.beginPreempt x session evict drainMs
    (t.ctx x).nakAll = true ∧ t.mem = s.mem ∧
      (t.ctx x).preempt = some ⟨evict, s.now + (if drainMs = 0 then 10 else drainMs) * 1000000, session, false⟩ := by
  unfold State.beginPreempt
  extract_lets ms t1 t2
  have freed : t2.ctxs = t1.ctxs ∧ t2.mem = t1.mem :=
    foldl_keeps (fun u : State => u.ctxs = t1.ctxs ∧ u.mem = t1.mem) _ _ _ ⟨rfl, rfl⟩ fun u e keep => by
      split
      · split
        · exact keep
        · exact keep
      · exact keep
  have back (l : List Nat) : (l.foldl (fun u c => u.requeue x c) t2).ctxs = t2.ctxs ∧
      (l.foldl (fun u c => u.requeue x c) t2).mem = t2.mem :=
    foldl_keeps (fun u : State => u.ctxs = t2.ctxs ∧ u.mem = t2.mem) _ _ _ ⟨rfl, rfl⟩ fun u c keep =>
      ⟨(u.requeue_leaves x c).1.trans keep.1, (u.requeue_leaves x c).2.trans keep.2⟩
  obtain ⟨ctxs, mem⟩ := State.pauseRecvs_leaves ((t2.ctx x).cores.foldl (fun u c => u.requeue x c) t2) x
  have ctx : (((t2.ctx x).cores.foldl (fun u c => u.requeue x c) t2).pauseRecvs x).ctx x = t1.ctx x :=
    State.ctx_of_ctxs (ctxs.trans ((back _).1.trans freed.1)) x
  have own : t1.ctx x = { (s.wakeCtx x).ctx x with
      nakAll := true, preempt := some ⟨evict, s.now + ms * 1000000, session, false⟩ } := State.modCtx_ctx_same _ _ _
  rw [ctx, own]
  exact ⟨rfl, mem.trans ((back _).2.trans (freed.2.trans (s.wakeCtx_wakeOnly x).mem)), rfl⟩

theorem preempt_own {s : State} {x drainMs : Nat} (evict : Bool) (short : drainMs ≤ 1000) (running : (s.ctx x).state = .running)
    (resumable : (s.ctx x).hardStop = false) (saves : evict = true → (s.ctx x).saveClusters ≠ 0) :
    firstFail [(decide (1000 < drainMs), genRange),
      (!((s.ctx x).state == .running || (s.ctx x).stoppedResumably) || (s.ctx x).hardStop, preStatus 3),
      (evict && (s.ctx x).saveClusters == 0, preStatus 1)] = none := by
  have third : (evict && (s.ctx x).saveClusters == 0) = false := by
    cases evict with
    | false => rfl
    | true => simp [saves rfl]
  simp [firstFail, running, resumable, Nat.not_lt.2 short, third]

theorem preempt_begins (q : Req) (x drainMs : Nat) (s : State) (ha : s.accepts q 0x33 8 (some x) = true) (short : drainMs ≤ 1000)
    (running : (s.ctx x).state = .running) (resumable : (s.ctx x).hardStop = false) :
    let due := s.now + (if drainMs = 0 then 10 else drainMs) * 1000000
    Gives (.preemptSuspend q x drainMs) s (fun t => (t.ctx x).nakAll = true ∧ t.mem = s.mem ∧
      (t.ctx x).preempt = some ⟨false, due, q.session, false⟩) ∧
    ((s.ctx x).saveClusters ≠ 0 → Gives (.preemptEvict q x drainMs) s (fun t => (t.ctx x).nakAll = true ∧ t.mem = s.mem ∧
      (t.ctx x).preempt = some ⟨true, due, q.session, false⟩)) := by
  refine ⟨⟨_, rfl, ?_⟩, fun saves => ⟨_, rfl, ?_⟩⟩
  · rw [State.preempt, State.begin_accepted _ _ ha (preempt_own false short running resumable nofun)]
    exact s.beginPreempt_begins x q.session false drainMs
  · rw [State.preempt, State.begin_accepted _ _ ha (preempt_own true short running resumable fun _ => saves)]
    exact s.beginPreempt_begins x q.session true drainMs

theorem preempt_drains (x : CtxId) (p : Preempt) (s : State) (own : (s.ctx x).preempt = some p) (drains : p.saving = false)
    (rest : s.drainMask x = 0) (resumable : (s.ctx x).hardStop = false) :
    (p.evict = false → Gives (.preemptDrained x) s (fun t => (t.ctx x).state = .suspended ∧ (t.ctx x).preempt = none ∧
      AnsweredSession t p.session 0x33 stDone [] ∧ t.mem = s.mem)) ∧
    (p.evict = true → Gives (.preemptDrained x) s (fun t => (t.ctx x).preempt = some { p with saving := true })) := by
  have arm : exec (.preemptDrained x) s = execPreemptDrained x s := rfl
  rw [Gives, Gives, arm, execPreemptDrained]
  simp only [own]
  rw [if_neg (by simp [drains, rest]), if_neg (by simp [resumable])]
  refine ⟨fun stays => ⟨_, rfl, ?_⟩, fun leaves => ⟨_, rfl, ?_⟩⟩
  · rw [if_neg (by simp [stays])]
    refine ⟨?_, ?_, State.respond_answersSession _ _ _ _ _, State.respond_mem _ _ _ _ _⟩
    · rw [State.respond_ctx, State.modCtx_ctx_same]
    · rw [State.respond_ctx, State.modCtx_ctx_same]
  · rw [if_pos leaves, State.modCtx_ctx_same]

theorem State.preemptFaulted_stops (s : State) (x : Nat) (p : Preempt) :
    let t := s.preemptFaulted x p
    (t.ctx x).state = .stopped ∧ (t.ctx x).preempt = none ∧ AnsweredSession t p.session 0x33 fltDrain [] ∧ t.mem = s.mem ∧
      t.ras = s.ras := by
  rw [State.preemptFaulted]
  refine ⟨?_, ?_, State.respond_answersSession _ _ _ _ _, State.respond_mem _ _ _ _ _, State.respond_ras _ _ _ _ _⟩
  · rw [State.respond_ctx, State.modCtx_ctx_same]
  · rw [State.respond_ctx, State.modCtx_ctx_same]

/-- A detail that fits one record takes one number (R490). -/
theorem State.log_one (s : State) {l : LogArgs} (short : l.detail.length ≤ 22) : (s.log l).ras.nextSeq = s.ras.nextSeq + 1 := by
  have rest : l.detail.drop 22 = [] := List.drop_eq_nil_of_le short
  have none (n : Nat) : pieces40 n [] = [] := by cases n <;> rfl
  unfold State.log
  dsimp only
  rw [Ras.foldl_push_nextSeq, rest, none]
  rfl

theorem State.contained_one (s : State) (x : Nat) {l : LogArgs} (short : l.detail.length ≤ 22) :
    (s.contained (some x) l).ras.nextSeq = s.ras.nextSeq + 1 := by
  rw [State.contained_ras]
  exact s.log_one short

theorem preempt_timesOut (x : CtxId) (p : Preempt) (s : State) (own : (s.ctx x).preempt = some p) (drains : p.saving = false)
    (busy : s.drainMask x ≠ 0) (late : p.deadline ≤ s.now) :
    Gives (.preemptDrainTimeout x) s (fun t => (t.ctx x).state = .stopped ∧ (t.ctx x).preempt = none ∧
      t.ras.nextSeq = s.ras.nextSeq + 1 ∧ AnsweredSession t p.session 0x33 fltDrain [] ∧ t.mem = s.mem) := by
  have arm : exec (.preemptDrainTimeout x) s = execPreemptDrainTimeout x s := rfl
  rw [Gives, arm, execPreemptDrainTimeout]
  simp only [own]
  rw [if_neg (by simp [drains, busy, Nat.not_lt.2 late])]
  refine ⟨_, rfl, ?_⟩
  obtain ⟨state, preempt, answered, mem, ras⟩ := State.preemptFaulted_stops (s.contained (some x.val)
    { cls := 2, cause := 0x2010#16, status := fltDrain, detail := leBytes 2 (s.drainMask x) }) x p
  exact ⟨state, preempt, (congrArg Ras.nextSeq ras).trans (s.contained_one _ (by simp)), answered,
    mem.trans (State.contained_mem _ _ _)⟩

theorem evictSave_ends (x : CtxId) (p : Preempt) (s : State) (own : (s.ctx x).preempt = some p) (saving : p.saving = true) :
    let u := (s.ctx x).clusters.foldl State.settleAll s
    ((u.ctx x).hardStop = false → Gives (.evictSaveDone x) s (fun t => (t.ctx x).state = .evicted ∧ (t.ctx x).clusters = [] ∧
      (t.ctx x).hadClusters = (s.ctx x).clusters.length ∧ (t.ctx x).preempt = none ∧ AnsweredSession t p.session 0x33 stDone [])) ∧
    ((u.ctx x).hardStop = true → Gives (.evictSaveDone x) s (fun t => (t.ctx x).state = .stopped ∧ (t.ctx x).preempt = none ∧
      AnsweredSession t p.session 0x33 fltDrain [])) := by
  intro u
  have arm : exec (.evictSaveDone x) s = execEvictSaveDone x s := rfl
  rw [Gives, Gives, arm, execEvictSaveDone]
  simp only [own]
  rw [if_pos saving]
  refine ⟨fun whole => ⟨_, rfl, ?_⟩, fun broken => ⟨_, rfl, ?_⟩⟩
  · unfold State.evicted
    extract_lets v u' cores clusters t1 t2 t3
    rw [if_neg (by rw [whole]; exact Bool.false_ne_true)]
    have ctx : t3.ctx x = _ := State.modCtx_ctx_same _ _ _
    refine ⟨?_, ?_, ?_, ?_, State.respond_answersSession _ _ _ _ _⟩
    all_goals rw [State.respond_ctx, ctx]
  · unfold State.evicted
    extract_lets v u' cores clusters t1 t2 t3
    rw [if_pos broken]
    obtain ⟨state, preempt, answered, -, -⟩ := u'.preemptFaulted_stops x p
    exact ⟨state, preempt, answered⟩

/-- As many clusters are chosen as are asked for, where there are so many. -/
theorem length_chooseFrom (c n : Nat) (l : List Nat) (nodup : l.Nodup) (enough : n ≤ l.length) : (chooseFrom c n l).length = n := by
  induction n generalizing c l with
  | zero => simp [chooseFrom]
  | succ n ih =>
    cases l with
    | nil => simp at enough
    | cons a r =>
      have index : Config.freeNat c % (r.length + 1) < (a :: r).length := Nat.mod_lt _ (Nat.succ_pos _)
      have member : (a :: r).getD (Config.freeNat c % (r.length + 1)) a ∈ a :: r := by
        rw [List.getD_eq_getElem _ _ index]
        exact List.getElem_mem _
      unfold chooseFrom
      dsimp only
      generalize (a :: r).getD (Config.freeNat c % (r.length + 1)) a = k at member
      rw [List.length_cons, ← nodup.erase_eq_filter, ih (c + 1) _ (nodup.erase k) ?_]
      rw [List.length_erase_of_mem member]
      omega

theorem State.freeClusters_nodup (s : State) : s.freeClusters.Nodup := by
  unfold State.freeClusters State.unheld
  exact (List.Nodup.filter _ (List.Nodup.filter _ List.nodup_range))

theorem State.command_served_exec {s : State} {c : Instr} {q : Req} {code len : Nat} {x : Option Nat} (own : Option Status)
    (eff : State → State × Status × List Byte) (ha : s.accepts q code len x = true) (ho : own = none) :
    s.command c q code len x own eff = (eff s).1.respond q.session code (eff s).2.1 (eff s).2.2 := by
  obtain ⟨i, known, running, free, check⟩ := State.accepts_served ha
  unfold State.command
  simp only [known, running, free, check, ho, Bool.not_true, Bool.false_eq_true, if_false, Option.or_none]

theorem resume_acts (q : Req) (x : Nat) (s : State) (ha : s.accepts q 0x34 8 (some x) = true) :
    ((s.ctx x).state = .suspended → exec (.resume q x) s =
      .next (((s.wakeCtx x).resumed x).respond q.session 0x34 stDone (((s.wakeCtx x).resumed x).resumePayload x))) ∧
    ((s.ctx x).state = .evicted → (s.ctx x).fromReset = false → (s.ctx x).hadClusters ≤ s.freeClusters.length →
      Gives (.resume q x) s (fun t => (t.ctx x).restoring = some q.session ∧
        (t.ctx x).clusters.length = (s.ctx x).hadClusters)) := by
  have arm : exec (.resume q x) s = execResume q x s := rfl
  rw [Gives, arm, execResume]
  dsimp only
  refine ⟨fun suspended => ?_, fun evicted kept free => ⟨_, rfl, ?_⟩⟩
  · rw [if_neg (by rw [suspended]; exact CtxState.noConfusion), State.command_served_exec _ _ ha (by simp [firstFail, suspended])]
  · rw [if_pos evicted, State.begin_accepted _ _ ha (by simp [firstFail, evicted, kept, free])]
    obtain ⟨st, h, e⟩ := (State.wakeCtx_wakeOnly ((s.chooseClusters (s.ctx x).hadClusters).2.modCtx x (fun w => { w with
      clusters := (s.chooseClusters (s.ctx x).hadClusters).1, restoring := some q.session })) x).ctxs x
    rw [e, State.modCtx_ctx_same]
    exact ⟨rfl, length_chooseFrom _ _ _ s.freeClusters_nodup free⟩

theorem evictRestore_ends (x : CtxId) (n : Nat) (s : State) (restoring : (s.ctx x).restoring = some n) :
    exec (.evictRestoreDone x) s =
      .next (((s.restored x).resumed x).respond n 0x34 stDone (((s.restored x).resumed x).resumePayload x)) := by
  have arm : exec (.evictRestoreDone x) s = execEvictRestoreDone x s := rfl
  rw [arm, execEvictRestoreDone]
  simp only [restoring]

/-- Settles O49: the commands of run control are answered with their effect, and what a wake or a fatal error on the way changes
of a context is overwritten where the statement names it. -/
theorem runControlCommandsAct : Obligations.RunControlCommandsAct := by
  refine ⟨⟨progLoad_answers, fun q x s ha loaded program => ?start, fun q x s ha resumable mapped => ?resumeFault,
    fun q x core count s ha loaded count48 => ?bisect, ?debug, fun q x index record p s ha program still => ?cfg⟩,
    fun q x ms s ha short running resumable => preempt_begins q x ms s ha short running resumable,
    fun x p s own drains rest resumable => preempt_drains x p s own drains rest resumable, preempt_timesOut, evictSave_ends,
    resume_acts, evictRestore_ends⟩
  case start =>
    obtain ⟨running, seed, step⟩ := s.runStart_ctx x
    refine ⟨running, seed, step, fun c hc => ?_, runStart_answers q x s ha loaded program⟩
    obtain ⟨offset, count, loops⟩ := s.runStart_atStart x hc
    exact ⟨offset, count, loops⟩
  case resumeFault =>
    obtain ⟨running, faults⟩ := (s.wakeCtx x).restart_ctx x
    exact ⟨running, faults, runResumeFault_answers q x s ha resumable mapped⟩
  case bisect =>
    refine ⟨fun all => ?_, fun one known => ?_⟩
    · have h := bisectStop_answers q x core count s ha loaded count48 (.inl all)
      simp only [if_pos all] at h
      exact h
    · have h := bisectStop_answers q x core count s ha loaded count48 (.inr known)
      simp only [if_neg one] at h
      exact h
  case debug =>
    intro q x kind cluster core offset len s ha some' fits debug stopped quiet kind1 kind8 held one size k r
    exact ⟨s.debugAnswer_length _ _ _ _ _, s.debugAnswer_mem _ _ _ _ _,
      debugRead_answers q x kind cluster core offset len s ha some' fits debug stopped quiet kind1 kind8 held one size⟩
  case cfg =>
    exact ⟨cfgRecord_coll_answers q x index record p s ha program still, cfgRecord_router_answers q x index record p s ha program still⟩

end Sys2Proof.Machine
end
section
/-! PROOFS. Counters, power policy, log, register window, firmware and security commands (O53). -/

namespace Sys2Proof.Machine

/-! ### Registers through the mailbox (R12, R426, R428) -/

section
variable {s t u : State}

theorem CheckersOnly.mem {p : Nat} (h : CheckersOnly p s t) : t.mem = s.mem := (congrArg State.mem h.rest :)

theorem State.touch_mem (s : State) (b i : Nat) : (s.touch b i).mem = s.mem := by
  unfold State.touch
  split
  · exact (s.wakeCore_wakeOnly i).mem
  · split
    · exact (s.wakeCluster_wakeOnly i).mem
    · rfl

theorem State.regRead_mem (s : State) (b i n : Nat) : (s.regRead b i n).1.mem = s.mem := by
  unfold State.regRead
  split
  · rfl
  · split
    · exact (s.prbsNow_only _ _).mem
    · exact s.touch_mem b i

/-- A read of several registers gives 8 bytes each and changes no memory. -/
theorem State.regReads_length_mem (s : State) (b i n count : Nat) :
    (s.regReads b i n count).2.length = 8 * count ∧ (s.regReads b i n count).1.mem = s.mem := by
  unfold State.regReads
  induction count with
  | zero => exact ⟨rfl, rfl⟩
  | succ k ih =>
    obtain ⟨length, mem⟩ := ih
    rw [List.range_succ, List.foldl_append, List.foldl_cons, List.foldl_nil]
    dsimp only
    exact ⟨by rw [List.length_append, length, length_leBytes]; omega, (State.regRead_mem _ _ _ _).trans mem⟩

theorem counters_answer (q : Req) (b i : Nat) (s : State) (known : regCount b i ≠ 0) (small : i < 2048) :
    (s.accepts q 0x70 8 none = true →
      (((s.session q.session).map (·.admin)).getD false = true ∨ s.attachedHolds q.session b i = true) →
      (s.regReads b i 0 (regCount b i)).2.length = 8 * regCount b i ∧
      Answers (.counterRead q b i) q 0x70 stDone (s.regReads b i 0 (regCount b i)).2 s (s.regReads b i 0 (regCount b i)).1) ∧
    (s.accepts q 0x71 8 none = true → i ≠ 0xFFFF →
      Answers (.counterClear q b i) q 0x71 stDone [] s (s.clearCounters b i)) ∧
    (s.accepts q 0x71 8 none = true →
      Answers (.counterClear q b 0xFFFF) q 0x71 stDone [] s ((blockInsts b).foldl (fun u j => u.clearCounters b j) s)) := by
  refine ⟨fun ha may => ⟨(s.regReads_length_mem _ _ _ _).1, State.command_gives rfl ha ?_ rfl⟩,
    fun ha one => State.command_gives rfl ha ?_ ?_, fun ha => State.command_gives rfl ha ?_ rfl⟩
  · rcases may with admin | attached
    · simp [firstFail, admin, known]
    · simp [firstFail, attached, known]
  · rw [if_neg one]
    simp [firstFail, known]
  · rw [if_neg one]
    rfl
  · have member : i ∈ blockInsts b := List.mem_filter.2 ⟨List.mem_range.2 small, by simp [known]⟩
    have some' : (blockInsts b).isEmpty = false := by
      rw [List.isEmpty_eq_false_iff]
      exact List.ne_nil_of_mem member
    have all : (blockInsts b).any (fun i => regCount b i == 0) = false := by
      refine List.any_eq_false.2 fun j hj zero => ?_
      have counted := (List.mem_filter.1 hj).2
      rw [bne, zero] at counted
      cases counted
    rw [if_pos rfl, some', all]
    rfl

theorem regWindow_answers (q : Req) (addr : Word32) (count : Nat) (s : State) (ha : s.accepts q 0xF0 8 none = true) (some' : 1 ≤ count)
    (fits : count ≤ 1023) (aligned : fld32 addr 2 0 = 0)
    (inside : addrIndex addr + count ≤ regCount (addrBlock addr) (addrInst addr)) :
    let r := s.regReads (addrBlock addr) (addrInst addr) (addrIndex addr) count
    r.2.length = 8 * count ∧ r.1.mem = s.mem ∧ Answers (.regRead q addr count) q 0xF0 stDone r.2 s r.1 := by
  obtain ⟨length, mem⟩ := s.regReads_length_mem (addrBlock addr) (addrInst addr) (addrIndex addr) count
  refine ⟨length, mem, State.command_gives rfl ha ?_ rfl⟩
  simp [firstFail, some', fits, aligned, Nat.not_lt.2 inside]

theorem regWrite_answers (q : Req) (addr : Word32) (v : Word64) (s : State) (ha : s.accepts q 0xF1 16 none = true) :
    ((s.regWrite addr v).1 = stDone → Answers (.regWrite q addr v) q 0xF1 stDone [] s (s.regWrite addr v).2) ∧
    ((s.regWrite addr v).1 ≠ stDone → Answers (.regWrite q addr v) q 0xF1 (s.regWrite addr v).1 [] s s) :=
  ⟨fun done => State.command_gives rfl ha (if_pos done) rfl, fun refused => State.command_refuses rfl ha (if_neg refused)⟩

end

/-! ### Power policy and log (R434, R490) -/

theorem capWord_fields (w : Word32) {cap ceiling : Nat} (cap850 : cap ≤ 850) (ceiling2 : ceiling ≤ 2) :
    fld32 (withFld32 (withFld32 w 11 10 ceiling) 9 0 cap) 9 0 = cap ∧
    fld32 (withFld32 (withFld32 w 11 10 ceiling) 9 0 cap) 11 10 = ceiling := by
  constructor
  · rw [fld32_withFld32_same _ _ (by omega) (by omega)]
    exact Nat.mod_eq_of_lt (by omega)
  · rw [fld32_withFld32_other _ _ (by omega) (by omega) (by omega), fld32_withFld32_same _ _ (by omega) (by omega)]
    exact Nat.mod_eq_of_lt (by omega)

theorem powerWord_fields (w : Word64) {coreUs offMs : Nat} (core1s : coreUs ≤ 1000000) (off1m : offMs ≤ 60000) :
    let c1 := if coreUs = 0 then w else withFld w 51 32 coreUs
    let c2 := if offMs = 0 then c1 else withFld c1 31 16 offMs
    (coreUs ≠ 0 → fld c2 51 32 = coreUs) ∧ (offMs ≠ 0 → fld c2 31 16 = offMs) := by
  have core (c : Word64) : fld (withFld c 51 32 coreUs) 51 32 = coreUs := by
    rw [fld_withFld_same _ _ (by omega) (by omega)]
    exact Nat.mod_eq_of_lt (by omega)
  have off (c : Word64) : fld (withFld c 31 16 offMs) 31 16 = offMs := by
    rw [fld_withFld_same _ _ (by omega) (by omega)]
    exact Nat.mod_eq_of_lt (by omega)
  intro c1 c2
  refine ⟨fun set => ?_, fun set => ?_⟩
  · have h1 : fld c1 51 32 = coreUs := by
      unfold c1
      rw [if_neg set, core]
    unfold c2
    split
    · exact h1
    · rw [fld_withFld_other _ _ (by omega) (by omega) (by omega), h1]
  · unfold c2
    rw [if_neg set, off]

theorem powerPolicy_gives (q : Req) (cap ceiling coreUs offMs : Nat) (s : State) (ha : s.accepts q 0x80 16 none = true)
    (cap200 : 200 ≤ cap) (cap850 : cap ≤ 850) (ceiling2 : ceiling ≤ 2) (core1s : coreUs ≤ 1000000) (off1m : offMs ≤ 60000) :
    Gives (.powerPolicy q cap ceiling coreUs offMs) s (fun t => fld32 t.power.capCfg 9 0 = cap ∧
      fld32 t.power.capCfg 11 10 = ceiling ∧ (coreUs ≠ 0 → fld t.power.cfg 51 32 = coreUs) ∧
      (offMs ≠ 0 → fld t.power.cfg 31 16 = offMs) ∧ Answered t q 0x80 stDone []) := by
  have own : firstFail [(decide (cap < 200 ∨ 850 < cap ∨ 2 < ceiling ∨ 1000000 < coreUs ∨ 60000 < offMs), genRange)] = none := by
    rw [decide_eq_false (by omega)]
    rfl
  refine (State.command_gives (u := { s with power := { s.power with
    cfg := if offMs = 0 then if coreUs = 0 then s.power.cfg else withFld s.power.cfg 51 32 coreUs
      else withFld (if coreUs = 0 then s.power.cfg else withFld s.power.cfg 51 32 coreUs) 31 16 offMs
    capCfg := withFld32 (withFld32 s.power.capCfg 11 10 ceiling) 9 0 cap } }) rfl ha own rfl).gives fun t only answered => ?_
  rw [(congrArg State.power only :)]
  dsimp only
  refine ⟨?_, ?_, fun set => ?_, fun set => ?_, answered⟩
  · exact (capWord_fields _ cap850 ceiling2).1
  · exact (capWord_fields _ cap850 ceiling2).2
  · exact (powerWord_fields _ core1s off1m).1 set
  · exact (powerWord_fields _ core1s off1m).2 set

theorem logRead_answers (q : Req) (n max : Nat) (s : State) (ha : s.accepts q 0x90 16 none = true) (some' : 1 ≤ max) (few : max ≤ 127) :
    let recs := (s.ras.log.filter (fun r => decide (n ≤ r.seq))).take max
    Answers (.logRead q n max) q 0x90 stDone
      (leFields [(8, (recs.getLast?.map (·.seq + 1)).getD n), (1, recs.length), (7, 0)] ++ recs.flatMap LogRec.toBytes) s s :=
  State.command_gives rfl ha (by simp [firstFail, some', few]) rfl

theorem State.powerRecord_length (s : State) : s.powerRecord.length = 24 := by
  unfold State.powerRecord
  simp only [List.length_append, length_leFields]
  rfl

theorem State.fwRecord_length (s : State) : s.fwRecord.length = 72 := by
  unfold State.fwRecord
  simp only [List.length_append, length_leFields, List.length_flatMap]
  rfl

/-! ### Firmware (R456 to R459, R477) -/

theorem State.farRead_ok {s u : State} {region offset n : Nat} {io : FarIO} {bs : List Byte}
    (read : s.farRead region offset n io = (u, .ok bs)) : u = s := by
  unfold State.farRead at read
  split at read
  · cases read
  · split at read
    · cases read
      rfl
    · cases read

theorem fwStage_gives (q : Req) (cls region offset len : Nat) (io : FarIO) (s u : State) (bs : List Byte)
    (ha : s.accepts q 0xA0 24 none = true) (slot : cls ≤ 3) (read : s.farRead region offset len io = (u, .ok bs))
    (valid : s.imageCheck cls (parseImage bs).1 (parseImage bs).2 = none)
    (loader : cls = 3 → (parseImage bs).1.entries.any (fun e => bitOf e.2.2.2.toNat 1) = true) :
    Gives (.fwStage q cls region offset len io true) s (fun t => t.imageAt s.otherSlot cls = some (parseImage bs).1 ∧
      (∀ k, k ≠ cls → k < 4 → t.imageAt s.otherSlot k = s.imageAt s.otherSlot k) ∧
      Answered t q 0xA0 stDone (leFields [(1, (u.putImage cls none).2), (3, 0), (4, (parseImage bs).1.version.toNat)])) := by
  have same := State.farRead_ok read
  subst same
  have entry : ¬(cls = 3 ∧ !(parseImage bs).1.entries.any (fun e => bitOf e.2.2.2.toNat 1)) := fun h => by
    rw [loader h.1] at h
    exact absurd h.2 Bool.false_ne_true
  have put (i : Option Image) : u.putImage cls i =
      ({ u with flash := { u.flash with images := sset none u.flash.images (4 * u.otherSlot + cls) i } }, u.otherSlot) :=
    if_neg (by omega)
  have own : firstFail [(decide (4 < cls), fwStatusCode 5)] = none := by
    rw [decide_eq_false (by omega)]
    rfl
  refine (State.command_gives (eff := fun t => t.stageImage cls region offset len io true) rfl ha own
    (u := (u.putImage cls (some (parseImage bs).1)).1) (st := stDone)
    (p := leFields [(1, (u.putImage cls none).2), (3, 0), (4, (parseImage bs).1.version.toNat)]) ?_).gives fun t only answered => ?_
  · unfold State.stageImage
    rw [read]
    dsimp only
    rw [valid, if_neg entry]
    simp only [put, Option.or_none, if_true]
  · rw [put] at only
    have flash : t.flash = { u.flash with images := sset none u.flash.images (4 * u.otherSlot + cls) (some (parseImage bs).1) } :=
      (congrArg State.flash only :)
    refine ⟨?_, fun k other small => ?_, answered⟩
    · rw [State.imageAt, flash, sget_sset_same]
    · rw [State.imageAt, flash, sget_sset_other _ _ _ (by omega)]
      rfl

theorem fwActivate_gives (q : Req) (z : Nat) (s : State) (ha : s.accepts q 0xA1 8 none = true) (slot : z ≤ 1)
    (valid : s.setValid z = true) (tested : s.testedSet z = true) :
    Gives (.fwActivate q z 0) s (fun t => t.flash = (s.selectSlot z).flash ∧ Answered t q 0xA1 stDone []) ∧
    Gives (.fwActivate q z 1) s (fun t => t.flash = (s.selectSlot z).flash ∧ t.lantern.resetAt = some (s.now + 10000000) ∧
      t.lantern.resetCause = 4 ∧ Answered t q 0xA1 stDone []) := by
  have own (reset : Nat) (h : reset ≤ 1) : firstFail [(decide (1 < reset), genRange),
      (decide (1 < z) || !s.setValid z || !s.testedSet z, fwStatusCode 4)] = none := by
    simp [firstFail, Nat.not_lt.2 h, Nat.not_lt.2 slot, valid, tested]
  constructor
  · obtain ⟨t, run, answered, only, -⟩ := State.command_gives (i := .fwActivate q z 0) (u := s.selectSlot z) (st := stDone) (p := []) rfl ha
      (own 0 (by omega)) rfl
    exact ⟨t, run, (congrArg State.flash only :), answered⟩
  · obtain ⟨t, run, answered, only, lantern, -⟩ := State.command_gives (i := .fwActivate q z 1)
      (u := { s.selectSlot z with lantern := { s.lantern with resetAt := some (s.now + 10000000), resetCause := 4 } })
      (st := stDone) (p := []) rfl ha (own 1 (by omega)) rfl
    exact ⟨t, run, (congrArg State.flash only :), (congrArg Lantern.resetAt lantern :), (congrArg Lantern.resetCause lantern :), answered⟩

/-! ### Security (R480 to R485) -/

theorem attest_answers (q : Req) (region offset : Nat) (nonce : BitVec 256) (io : FarIO) (s u : State)
    (ha : s.accepts q 0xB0 48 none = true) (write : s.farWrite region offset (s.report nonce) io = (u, none)) :
    Answers (.attest q region offset nonce io) q 0xB0 stDone (leFields [(4, (s.report nonce).length), (4, 0)]) s u := by
  refine State.command_gives rfl ha rfl ?_
  dsimp only
  rw [write]
  rfl

/-- A token that passes its checks has its command's effect. -/
theorem State.tokenCommand_passes {s u : State} {serves : List Nat} {region offset len : Nat} {io : FarIO} {bs : List Byte}
    (eff : State → Token → State) (read : s.farRead region offset len io = (u, .ok bs)) (valid : s.tokenCheck serves bs = none) :
    s.tokenCommand serves region offset len io eff = (eff s (parseToken bs), stDone, []) := by
  have same := State.farRead_ok read
  subst same
  unfold State.tokenCommand
  rw [read]
  dsimp only
  rw [valid]

theorem tokens_act (q : Req) (region offset : Nat) (io : FarIO) (s u : State) (bs : List Byte)
    (read : s.farRead region offset tokenBytes io = (u, .ok bs)) :
    (s.accepts q 0xB1 24 none = true → s.tokenCheck [2] bs = none →
      Gives (.debugUnlock q region offset tokenBytes io) s (fun t => t.lantern.debug = true ∧ Answered t q 0xB1 stDone [])) ∧
    (s.accepts q 0xB2 24 none = true → s.tokenCheck [1, 3, 4] bs = none →
      Gives (.permit q region offset tokenBytes io) s (fun t => parseToken bs ∈ t.clasp.permits ∧ Answered t q 0xB2 stDone [])) := by
  have own : firstFail [(tokenBytes != tokenBytes, secStatus 1)] = none := by
    rw [bne_self_eq_false]
    rfl
  refine ⟨fun ha valid => ?_, fun ha valid => ?_⟩
  · obtain ⟨t, run, answered, only, lantern, -⟩ := State.command_gives (i := .debugUnlock q region offset tokenBytes io) rfl ha own
      (State.tokenCommand_passes State.unlock read valid)
    exact ⟨t, run, (congrArg Lantern.debug lantern :), answered⟩
  · obtain ⟨t, run, answered, only, -⟩ := State.command_gives (i := .permit q region offset tokenBytes io) rfl ha own
      (State.tokenCommand_passes State.storePermit read valid)
    refine ⟨t, run, ?_, answered⟩
    rw [(congrArg State.clasp only :)]
    exact List.mem_append_right _ (List.mem_singleton_self _)

/-- Settles O53: each command's own check passes, and its effect is the one that the statement names. -/
theorem managementCommandsAct : Obligations.ManagementCommandsAct :=
  ⟨⟨counters_answer, powerPolicy_gives, fun _ s ha => ⟨s.powerRecord_length, State.command_gives rfl ha rfl rfl⟩, logRead_answers,
    fun _ _ _ ha => State.command_gives rfl ha rfl rfl, regWindow_answers, regWrite_answers⟩,
    fwStage_gives, fwActivate_gives, fun _ s ha => ⟨s.fwRecord_length, State.command_gives rfl ha rfl rfl⟩, attest_answers, tokens_act⟩

end Sys2Proof.Machine
end
section
/-! PROOFS. Register writes, self-test, pattern test, poll and consistency check (O54). -/

namespace Sys2Proof.Machine

/-! ### What a memory access leaves of the channels (R240 to R246) -/

/-- From s to t no channel's test result changed. -/
def TestsKept (s t : State) : Prop := ∀ n, (t.channel n).testResult = (s.channel n).testResult

section
variable {s t u : State}

theorem TestsKept.refl (s : State) : TestsKept s s := fun _ => rfl
theorem TestsKept.trans (h : TestsKept s t) (k : TestsKept t u) : TestsKept s u := fun n => (k n).trans (h n)
theorem TestsKept.of_eq (h : t.channels = s.channels) : TestsKept s t := fun n => by rw [State.channel, State.channel, h]

theorem TestsKept.deferred (s : State) (l : LogArgs) : TestsKept s (s.deferred l) := .of_eq rfl
theorem TestsKept.mesh (s : State) (m : Mesh) : TestsKept s { s with mesh := m } := .of_eq rfl

theorem TestsKept.setChannel (s : State) (ch : Nat) {c : Channel} (h : c.testResult = (s.channel ch).testResult) :
    TestsKept s (s.setChannel ch c) := fun n => by
  by_cases own : n = ch
  · subst own
    rw [State.setChannel_channel_same, h]
  · rw [State.setChannel_channel_other _ _ own]

theorem TestsKept.modChannel (s : State) (ch : Nat) {f : Channel → Channel} (h : ∀ c, (f c).testResult = c.testResult) :
    TestsKept s (s.modChannel ch f) := TestsKept.setChannel s ch (h _)

end

theorem State.readLine_testsKept (s : State) (l : Nat) (u : List (Nat × BitVec 16)) : TestsKept s (s.readLine l u).1 := by
  have counted (m : MainMem) {f : Channel → Channel} (h : ∀ c, (f c).testResult = c.testResult) :
      TestsKept s (({ s with mem := m }).modChannel (channelOf (64 * l)) f) :=
    TestsKept.trans (t := { s with mem := m }) (.of_eq rfl) (.modChannel _ _ h)
  unfold State.readLine
  dsimp only
  split
  · exact .refl s
  split
  · exact .of_eq rfl
  · exact counted _ fun _ => rfl
  · exact counted _ fun _ => rfl
  · exact counted _ fun _ => rfl
  · refine TestsKept.trans ?_ (TestsKept.deferred _ _)
    exact counted _ fun _ => rfl

theorem State.mergeLine_testsKept (s : State) (l off : Nat) (bs : List Byte) (p : Bool) (u : List (Nat × BitVec 16)) :
    TestsKept s (s.mergeLine l off bs p u) := by
  unfold State.mergeLine
  split
  · exact .of_eq rfl
  · exact (s.readLine_testsKept l u).trans (.of_eq rfl)

theorem State.atomicLine_testsKept (s : State) (l off op : Nat) (v c : Word64) (u : List (Nat × BitVec 16)) :
    TestsKept s (s.atomicLine l off op v c u).1 := by
  unfold State.atomicLine
  dsimp only
  split
  · exact s.readLine_testsKept l u
  · exact (s.readLine_testsKept l u).trans (State.mergeLine_testsKept _ _ _ _ _ _)

theorem State.act_testsKept (s : State) (t : Txn) : TestsKept s (s.act t) := by
  unfold State.act
  split
  · exact s.readLine_testsKept _ _
  · exact s.mergeLine_testsKept _ _ _ _ _
  · exact s.atomicLine_testsKept _ _ _ _ _ _

theorem State.takeSlots_testsKept (s : State) (ch : Nat) : TestsKept s (s.takeSlots ch) :=
  foldl_keeps (TestsKept s) _ _ _ (.refl s) fun b a h => by
    split
    · refine h.trans (TestsKept.trans (t := b.modChannel ch (fun c => { c with slots := c.slots ++ [a] })) ?_ (.of_eq rfl))
      exact .modChannel _ _ fun _ => rfl
    · exact h

theorem State.turn_testsKept (s : State) (ch : Nat) : TestsKept s (s.turn ch) := by
  unfold State.turn
  dsimp only
  split
  · exact .refl s
  · have granted {r : State} (h : TestsKept s r) (go : List Txn) : TestsKept s (go.foldl State.act r) :=
      foldl_keeps (TestsKept s) State.act _ _ h fun b a k => k.trans (b.act_testsKept a)
    refine TestsKept.trans ?_ (TestsKept.mesh _ _)
    refine granted ?_ _
    exact .setChannel s ch rfl

theorem State.drain_testsKept (ch n : Nat) (s : State) : TestsKept s (State.drain ch n s) := by
  induction n generalizing s with
  | zero => exact .refl s
  | succ n ih =>
    unfold State.drain
    split
    · exact .refl s
    · exact ((s.turn_testsKept ch).trans (State.takeSlots_testsKept _ _)).trans (ih _)

theorem State.touched_testsKept (s : State) (g : Nat) : TestsKept s (s.touched g) := by
  rcases s.touched_cases g with h | ⟨d, w, h⟩ <;> rw [h]
  · exact .refl s
  · exact .of_eq rfl

theorem State.drainGroup_testsKept (s : State) (g : Nat) : TestsKept s (s.drainGroup g) :=
  foldl_keeps (TestsKept s) _ _ _ (.refl s) fun b a h => by
    split
    · exact h
    · exact h.trans (State.drain_testsKept _ _ _)

theorem State.awake_testsKept (s : State) (l : Nat) : TestsKept s (s.awake l) := by
  unfold State.awake
  dsimp only
  split
  · have first : TestsKept s (s.modGroup (groupOf (channelOf (64 * l))) (fun v => { v with selfRefresh := false })) := .of_eq rfl
    exact (first.trans (State.drainGroup_testsKept _ _)).trans (State.touched_testsKept _ _)
  · exact s.touched_testsKept _

theorem State.fetchLine_testsKept (s : State) (l : Nat) (u : List (Nat × BitVec 16)) : TestsKept s (s.fetchLine l u).1 :=
  (s.awake_testsKept l).trans (State.readLine_testsKept _ _ _)

/-! ### Register writes (R12, R14) -/

theorem State.regWrite_refused {s : State} {a : Word32} {v : Word64} : (s.regWrite a v).1 ≠ stDone → (s.regWrite a v).2 = s := by
  unfold State.regWrite
  extract_lets b i n w
  generalize (s.touch b i).writeByRule b i n w = r
  split
  · exact fun _ => rfl
  split
  · exact fun _ => rfl
  split
  · next done => exact fun h => absurd done h
  · exact fun _ => rfl

theorem State.writePoolCfg_refused {s : State} {p : Nat} {v : Word64} :
    (s.writePoolCfg p v).1 ≠ stDone → (s.writePoolCfg p v).2 = s := by
  unfold State.writePoolCfg
  dsimp only
  split
  · exact fun _ => rfl
  split
  · exact fun _ => rfl
  · exact fun h => absurd rfl h

theorem pools_written (p : Fin 64) (v : Word64) (s : State) :
    ((s.writePoolCfg p v).1 ≠ stDone → exec (.bpmPoolCfgWrite p v) s = .next s) ∧
    (fld32 (v.truncate 32) 30 28 = 0 → fld32 (v.truncate 32) 23 21 = 0 →
      poolSetCheck s p (fld32 (v.truncate 32) 27 24) (v.truncate 32) (s.pool p).base.toNat = none →
      Gives (.bpmPoolCfgWrite p v) s (fun t => t.pool p = (s.pool p).configured (v.truncate 32) (s.pool p).base)) ∧
    (fld v 63 48 = 0 → fld v 15 0 = 0 → poolSetCheck s p (s.pool p).owner (s.pool p).cfg v.toNat = none →
      Gives (.bpmPoolBaseWrite p v) s (fun t => t.pool p =
        (if (s.pool p).enabled then (s.pool p).configured (s.pool p).cfg v else { s.pool p with base := v }))) ∧
    (∀ r : Fin 32, fld v 63 51 = 0 → quotaCheck (s.pool p) r (fld v 33 17) (fld v 16 0) = none →
      Gives (.bpmQuotaWrite p r v) s (fun t => t.pool p = (s.pool p).withQuota r (fld v 33 17) (fld v 16 0))) := by
  have armCfg : exec (.bpmPoolCfgWrite p v) s = .next (s.writePoolCfg p v).2 := rfl
  refine ⟨fun refused => by rw [armCfg, State.writePoolCfg_refused refused], fun hi lo ok => ⟨_, rfl, ?_⟩, fun hi lo ok => ⟨_, rfl, ?_⟩,
    fun r hi ok => ⟨_, rfl, ?_⟩⟩
  · rw [State.writePoolCfg]
    dsimp only
    rw [if_neg (by simp only [hi, lo]; simp), ok]
    exact State.modPool_pool_same _ _ _
  · rw [State.writePoolBase]
    dsimp only
    rw [if_neg (by simp only [hi, lo]; simp), ok]
    exact State.modPool_pool_same _ _ _
  · rw [State.writeQuota, if_neg (by simp only [hi]; simp), ok]
    exact State.modPool_pool_same _ _ _

/-! ### The sticky flags of a core (R12, R96) -/

theorem State.touch_wakeOnly (s : State) (b i : Nat) : WakeOnly s (s.touch b i) := by
  unfold State.touch
  split
  · exact s.wakeCore_wakeOnly i
  · split
    · exact s.wakeCluster_wakeOnly i
    · exact .refl s

theorem Core.Woken.mtxFlags {u v : Core} (h : u.Woken v) : v.mtxFlags = u.mtxFlags := by
  obtain ⟨_, _, _, _, _, rfl⟩ := h
  rfl

theorem mtxFlags_cleared (a w : Word32) (c : CoreId) (s : State) (block : addrBlock a = 0x01) (inst : addrInst a = c.val)
    (index : addrIndex a = 2) (aligned : fld32 a 2 0 = 0) (clear : fld32 w 31 7 = 0) :
    Gives (.registerWrite a (w.zeroExtend 64)) s (fun t => (t.core c).mtxFlags = (s.core c).mtxFlags &&& ~~~(w &&& 0x7E#32) ∧
      t.mem = s.mem) := by
  refine ⟨_, rfl, ?_⟩
  have narrow : ((w.zeroExtend 64).truncate 32 : Word32) = w := by simp
  have count : regCount 0x01 c.val = 10 := if_pos c.isLt
  have reserved : setsReserved 0x01 c.val 2 (w.zeroExtend 64) = false := by
    have : fld (w.zeroExtend 64) 31 7 = 0 := by
      rw [← clear, fld, fld32, BitVec.toNat_setWidth_of_le (by omega)]
    simp [setsReserved, regReserved, this]
  have written : (s.regWrite a (w.zeroExtend 64)).2 = (s.touch 1 c).modCore c (fun u => { u with
      mtxFlags := u.mtxFlags &&& ~~~(w &&& 0x7E#32) }) := by
    rw [State.regWrite, block, inst, index]
    dsimp only
    have value : (if regNarrow 1 c.val 2 = true then BitVec.zeroExtend 64 (BitVec.truncate 32 (w.zeroExtend 64)) else w.zeroExtend 64) =
        w.zeroExtend 64 := by rw [if_pos (show regNarrow 1 c.val 2 = true from rfl), narrow]
    rw [if_neg (by rw [aligned, count]; omega), value, reserved]
    simp only [State.writeByRule, State.writeCoreReg, narrow]
    rfl
  rw [written]
  dsimp only
  rw [State.modCore_core_same]
  exact ⟨by rw [((s.touch_wakeOnly 1 c).cores c).mtxFlags], (s.touch_wakeOnly 1 c).mem⟩

theorem State.writeBist_starts {s : State} {w : Word32} (clear : fld32 w 21 16 = 0) (start : bitOf w.toNat 31 = true)
    (idle : s.ras.bistRun = none) (free : s.ctxOfCluster (fld32 w 27 24) = none) :
    ∃ (t : State) (a : Ras), t.mem = s.mem ∧ a.bistRun = some (fld32 w 27 24) ∧ fld32 a.bist 31 31 = 1 ∧
      (s.writeBist w).2 = { t with ras := a } := by
  unfold State.writeBist
  extract_lets k start' _ kept
  rw [if_neg (by rw [clear]; simp), if_neg (by rw [idle, free]; simp), if_pos start]
  have woken := (kept.wake_wakeOnly k).mem
  have busy := fld32_withFld32_same kept.ras.bist 1 (hi := 31) (lo := 31) (by omega) (by omega)
  exact ⟨_, _, woken, rfl, busy, rfl⟩

theorem bist_starts (v : Word64) (s : State) : let w : Word32 := v.truncate 32
    fld32 w 21 16 = 0 → bitOf w.toNat 31 = true → s.ras.bistRun = none → s.ctxOfCluster (fld32 w 27 24) = none →
    Gives (.bistCtlWrite v) s (fun t => t.ras.bistRun = some (fld32 w 27 24) ∧ fld32 t.ras.bist 31 31 = 1 ∧ t.mem = s.mem) := by
  intro w clear start idle free
  obtain ⟨t, a, mem, runs, busy, written⟩ := State.writeBist_starts clear start idle free
  refine ⟨_, rfl, ?_⟩
  rw [written]
  exact ⟨runs, busy, mem⟩

/-- What BIST_CTL reads once a test has ended. -/
theorem bistWord_fields (w : Word32) (unit count : Nat) (fail : Bool) :
    let reg := withFld32 (withFld32 (withFld32 (withFld32 w 31 31 0) 23 22 (if fail then 2 else 1)) 15 8 unit) 7 0 count
    fld32 reg 31 31 = 0 ∧ fld32 reg 23 22 = if fail then 2 else 1 := by
  dsimp only
  constructor
  · rw [fld32_withFld32_other _ _ (by omega) (by omega) (by omega), fld32_withFld32_other _ _ (by omega) (by omega) (by omega),
      fld32_withFld32_other _ _ (by omega) (by omega) (by omega), fld32_withFld32_same _ _ (by omega) (by omega)]
    rfl
  · rw [fld32_withFld32_other _ _ (by omega) (by omega) (by omega), fld32_withFld32_other _ _ (by omega) (by omega) (by omega),
      fld32_withFld32_same _ _ (by omega) (by omega)]
    cases fail <;> rfl

/-- A record changes none of the registers beside the log. -/
theorem Ras.push_bist (a : Ras) (r : LogRec) : (a.push r).bist = a.bist ∧ (a.push r).bistRun = a.bistRun := by
  unfold Ras.push
  split <;> exact ⟨rfl, rfl⟩

theorem State.log_bist (s : State) (l : LogArgs) : (s.log l).ras.bist = s.ras.bist ∧ (s.log l).ras.bistRun = s.ras.bistRun := by
  unfold State.log
  exact foldl_keeps (fun a : Ras => a.bist = s.ras.bist ∧ a.bistRun = s.ras.bistRun) _ _ _ ⟨rfl, rfl⟩ fun a r keep =>
    ⟨(a.push_bist r).1.trans keep.1, (a.push_bist r).2.trans keep.2⟩

theorem State.correctedNotice_bist (s : State) (l : LogArgs) : (s.correctedNotice l).ras.bist = s.ras.bist ∧
    (s.correctedNotice l).ras.bistRun = s.ras.bistRun ∧ (s.correctedNotice l).clusters = s.clusters := by
  unfold State.correctedNotice
  rw [State.noticeDev_ras, State.noticeDev_clusters, State.log_clusters]
  exact ⟨(s.log_bist _).1, (s.log_bist _).2, rfl⟩

theorem State.clearCluster_ras (s : State) (k : Nat) : (s.clearCluster k).ras = s.ras := by
  unfold State.clearCluster
  rw [State.modCluster_ras]
  exact foldl_keeps (fun t : State => t.ras = s.ras) _ _ _ rfl fun t i keep => keep

theorem State.bistEnds_ends {s : State} {k : Nat} (runs : s.ras.bistRun = some k) (unit n : Nat) :
    (s.bistEnds unit n).ras.bistRun = none ∧ ((s.bistEnds unit n).cluster k).withheld = (n != 0) ∧
      fld32 (s.bistEnds unit n).ras.bist 31 31 = 0 ∧ fld32 (s.bistEnds unit n).ras.bist 23 22 = if (n != 0) = true then 2 else 1 := by
  unfold State.bistEnds
  split
  · next none => cases none.symm.trans runs
  next j other =>
  obtain rfl := Option.some.inj (other.symm.trans runs)
  extract_lets fail reg _ t
  obtain ⟨idle, kind⟩ := bistWord_fields s.ras.bist (if fail then unit else 0xFF) (min n 255) fail
  have ras : t.ras = { s.ras with bist := reg, bistRun := none } := by
    unfold t
    rw [State.modCluster_ras, State.clearCluster_ras]
  have withheld : (t.cluster j).withheld = fail := by
    unfold t
    rw [State.modCluster_cluster_same]
  have ended : t.ras.bistRun = none ∧ (t.cluster j).withheld = fail ∧ fld32 t.ras.bist 31 31 = 0 ∧
      fld32 t.ras.bist 23 22 = if fail = true then 2 else 1 := by
    rw [ras]
    exact ⟨rfl, withheld, idle, kind⟩
  clear_value t
  by_cases failed : fail = true
  · rw [if_pos failed]
    rw [(State.correctedNotice_bist _ _).1, (State.correctedNotice_bist _ _).2.1,
      State.cluster_of_clusters (State.correctedNotice_bist _ _).2.2]
    exact ended
  · rw [if_neg failed]
    exact ended

theorem bist_ends (u n k : Nat) (s : State) (runs : s.ras.bistRun = some k) :
    Gives (.bistComplete u n) s (fun t => t.ras.bistRun = none ∧ fld32 t.ras.bist 31 31 = 0 ∧
      (t.cluster k).withheld = (n != 0) ∧ fld32 t.ras.bist 23 22 = (if n = 0 then 1 else 2)) := by
  obtain ⟨idle, withheld, done, kind⟩ := State.bistEnds_ends runs u n
  refine ⟨_, rfl, idle, done, withheld, kind.trans ?_⟩
  by_cases passed : n = 0 <;> simp [passed]

/-- What MEM_TEST_CTL reads once a test has started. -/
theorem memTestWord_busy (w : Word64) : fld (withFld (withFld w 63 63 1) 31 0 0) 63 63 = 1 := by
  rw [fld_withFld_other _ _ (by omega) (by omega) (by omega), fld_withFld_same _ _ (by omega) (by omega)]
  rfl

theorem State.clearTestResults_mem (s : State) (mask : Nat) : (s.clearTestResults mask).mem = s.mem :=
  foldl_keeps (fun t : State => t.mem = s.mem) _ _ _ rfl fun t n keep => by split <;> exact keep

theorem State.writeMemTest_starts {s : State} {v : Word64} (clear : fld v 59 48 = 0) (groups : fld v 47 32 ≠ 0) (pattern : fld v 62 60 ≤ 3)
    (start : bitOf v.toNat 63 = true) (idle : s.ras.memRun = none) :
    ∃ reg, fld reg 63 63 = 1 ∧ (s.writeMemTest v).2 = { s.clearTestResults (fld v 47 32) with
      ras := { s.ras with memTest := reg, memRun := some (fld v 47 32), testLines := 0 } } := by
  unfold State.writeMemTest
  extract_lets mask start' reg
  have ok : firstFail [(fld v 59 48 != 0, genReserved), (start' && s.ras.memRun.isSome, genBusy),
      (decide (mask = 0 ∨ 3 < fld v 62 60), genRange)] = none := by
    rw [decide_eq_false (by omega), clear, idle]
    simp [firstFail]
  rw [ok]
  dsimp only
  rw [if_pos start]
  exact ⟨_, memTestWord_busy reg, rfl⟩

theorem memTest_starts (v : Word64) (s : State) (clear : fld v 59 48 = 0) (groups : fld v 47 32 ≠ 0) (pattern : fld v 62 60 ≤ 3)
    (start : bitOf v.toNat 63 = true) (idle : s.ras.memRun = none) :
    Gives (.memTestCtlWrite v) s (fun t => t.ras.memRun = some (fld v 47 32) ∧ t.ras.testLines = 0 ∧
      fld t.ras.memTest 63 63 = 1 ∧ t.mem = s.mem) := by
  obtain ⟨reg, busy, written⟩ := State.writeMemTest_starts clear groups pattern start idle
  refine ⟨_, rfl, ?_⟩
  rw [written]
  exact ⟨rfl, rfl, busy, s.clearTestResults_mem _⟩

/-- What a channel's test result reads once failing pins are noted. -/
theorem testWord_pins (w : Word64) (pins : BitVec 24) :
    fld (bumpFld (withFld w 39 16 (fld w 39 16 ||| pins.toNat)) 15 0 1) 39 16 = (fld w 39 16 ||| pins.toNat) := by
  rw [fld_bumpFld_other _ _ (by omega) (by omega) (by omega), fld_withFld_same _ _ (by omega) (by omega)]
  refine Nat.mod_eq_of_lt (Nat.or_lt_two_pow ?_ pins.isLt)
  exact Nat.mod_lt _ (by omega)

theorem State.withRas_channel (t : State) (a : Ras) (n : Nat) : ({ t with ras := a } : State).channel n = t.channel n := rfl

theorem State.testLine_runs {s : State} {pa mask : Nat} (pins : BitVec 24) (runs : s.ras.memRun = some mask)
    (own : bitOf mask (channelOf (64 * (pa / 64)) / 8) = true) (inside : pa < lpddrEnd) :
    (s.testLine pa pins []).ras.testLines = s.ras.testLines + 1 ∧
      (pins ≠ 0 → fld ((s.testLine pa pins []).channel (channelOf (64 * (pa / 64)))).testResult 39 16 =
        (fld (s.channel (channelOf (64 * (pa / 64)))).testResult 39 16 ||| pins.toNat)) := by
  have kept := s.fetchLine_testsKept (pa / 64) [] (channelOf (64 * (pa / 64)))
  unfold State.testLine
  extract_lets l ch t n _ u
  split
  · next none => cases none.symm.trans runs
  next j other =>
  obtain rfl := Option.some.inj (other.symm.trans runs)
  rw [if_neg (by simp [ch, l, own, inside])]
  have lines : u.ras.testLines = n := rfl
  have result : (u.channel ch).testResult = (s.channel ch).testResult :=
    (congrArg Channel.testResult (t.withRas_channel _ ch)).trans kept
  clear_value u
  split
  · next none => exact ⟨lines, fun some' => absurd none some'⟩
  · refine ⟨lines, fun _ => ?_⟩
    rw [State.modChannel_channel_same, ← result]
    exact testWord_pins _ pins

theorem memTest_steps (pa mask : Nat) (pins : BitVec 24) (s : State) (runs : s.ras.memRun = some mask)
    (own : bitOf mask (channelOf (64 * (pa / 64)) / 8) = true) (inside : pa < lpddrEnd) :
    Gives (.memTestTransaction pa pins []) s (fun t => t.ras.testLines = s.ras.testLines + 1 ∧
      (pins ≠ 0 → fld (t.channel (channelOf (64 * (pa / 64)))).testResult 39 16 =
        (fld (s.channel (channelOf (64 * (pa / 64)))).testResult 39 16 ||| pins.toNat))) :=
  ⟨_, rfl, State.testLine_runs pins runs own inside⟩

theorem memTest_ends (s : State) (runs : s.ras.memRun.isSome = true) :
    Gives .memTestComplete s (fun t => t.ras.memRun = none ∧ fld t.ras.memTest 63 63 = 0 ∧ t.mem = s.mem) := by
  have idle : fld (withFld s.ras.memTest 63 63 0) 63 63 = 0 := fld_withFld_same _ _ (by omega) (by omega)
  have arm : exec .memTestComplete s = .next (if s.ras.memRun.isSome then s.memTestEnds else s) := rfl
  rw [Gives, arm, if_pos runs, State.memTestEnds]
  generalize withFld s.ras.memTest 63 63 0 = reg at idle ⊢
  exact ⟨_, rfl, rfl, idle, rfl⟩

/-! ### The poll (R494) and the consistency check (R489) -/

theorem State.channel_of_channels {s t : State} (h : t.channels = s.channels) (n : Nat) : t.channel n = s.channel n := by
  rw [State.channel, State.channel, h]

theorem State.thresholdMet_leaves (s : State) (field block inst count pin : Nat) :
    (s.thresholdMet field block inst count pin).channels = s.channels ∧ (s.thresholdMet field block inst count pin).mem = s.mem := by
  unfold State.thresholdMet State.correctedNotice
  rw [State.noticeDev_channels, State.noticeDev_mem, State.log_channels, State.log_mem]
  exact ⟨rfl, rfl⟩

theorem State.thresholdMet_noted (s : State) (a b : Ras) (field block inst count pin : Nat) :
    let t : State := { State.thresholdMet { s with ras := a } field block inst count pin with ras := b }
    t.channels = s.channels ∧ t.mem = s.mem := by
  have kept := State.thresholdMet_leaves { s with ras := a } field block inst count pin
  generalize State.thresholdMet { s with ras := a } field block inst count pin = u at kept
  exact kept

/-- The poll of a channel that has noted an error takes the note and leaves the other channels and memory. -/
theorem State.pollChannel_polls (s : State) (n : Nat) : (s.pollChannel n).mem = s.mem ∧
    fld ((s.pollChannel n).channel n).eccLast 63 63 = 0 ∧ ∀ m, m ≠ n → (s.pollChannel n).channel m = s.channel m := by
  unfold State.pollChannel
  extract_lets e within t
  split
  · next clear => exact ⟨rfl, clear, fun _ _ => rfl⟩
  · have note : fld (t.channel n).eccLast 63 63 = 0 := by
      unfold t
      rw [State.modChannel_channel_same]
      exact fld_withFld_same _ _ (by omega) (by omega)
    have other (m : Nat) (h : m ≠ n) : t.channel m = s.channel m := State.modChannel_channel_other _ _ h
    have mem : t.mem = s.mem := State.modChannel_mem _ _ _
    clear_value t
    have kept (l : List Nat) (f : State → Nat → State) (step : ∀ u p, (f u p).channels = u.channels ∧ (f u p).mem = u.mem) :
        (l.foldl f t).channels = t.channels ∧ (l.foldl f t).mem = t.mem :=
      foldl_keeps (fun u : State => u.channels = t.channels ∧ u.mem = t.mem) _ _ _ ⟨rfl, rfl⟩ fun u p keep =>
        ⟨(step u p).1.trans keep.1, (step u p).2.trans keep.2⟩
    refine (fun both => ⟨both.2.trans mem, ?taken, fun m h => ?others⟩) (kept _ _ fun u p => ?step)
    case taken =>
      rw [State.channel_of_channels both.1]
      exact note
    case others =>
      rw [State.channel_of_channels both.1]
      exact other m h
    case step =>
      extract_lets
      split
      · exact State.thresholdMet_noted _ _ _ _ _ _ _ _
      · exact ⟨rfl, rfl⟩

theorem poll_gives (s : State) (running : s.lantern.running = true) :
    Gives (.thresholdPoll false) s (fun t => (∀ n, n < 128 → fld (t.channel n).eccLast 63 63 = 0) ∧ t.mem = s.mem) ∧
    exec (.thresholdPoll true) s = .next ((List.range 128).foldl State.pollChannel s).sampleAll := by
  have arm (b : Bool) : exec (.thresholdPoll b) s = execThresholdPoll b s := rfl
  have polls (l : List Nat) {n : Nat} (h : n ∈ l) : fld ((l.foldl State.pollChannel s).channel n).eccLast 63 63 = 0 :=
    foldl_entry_changed (I := fun _ => True) (Q := fun _ v => fld v.eccLast 63 63 = 0) (get := fun (t : State) y => t.channel y)
      (f := State.pollChannel) (fun _ _ _ => trivial) (fun t y _ => (t.pollChannel_polls y).2.1)
      (fun t y z _ ne => (t.pollChannel_polls y).2.2 z ne) l s trivial h
  have mem (l : List Nat) : (l.foldl State.pollChannel s).mem = s.mem :=
    foldl_keeps (fun u : State => u.mem = s.mem) _ _ _ rfl fun u n keep => (u.pollChannel_polls n).1.trans keep
  have on : ¬(!s.lantern.running) = true := by simp [running]
  constructor
  · rw [Gives, arm, execThresholdPoll, if_neg on]
    dsimp only
    rw [if_neg Bool.false_ne_true]
    exact ⟨_, rfl, fun n h => polls _ (List.mem_range.2 h), mem _⟩
  · rw [arm, execThresholdPoll, if_neg on]
    dsimp only
    rw [if_pos rfl]

theorem State.fatalError_marks (s : State) (l : LogArgs) (fabric : Bool) :
    (s.fatalError l fabric).ras = { (s.log { l with cls := 3 }).ras with fatal := true } ∧
      (s.fatalError l fabric).pins = { s.pins with alertLow := true } := by
  have ctxs (l : List Nat) (t : State) : (l.foldl (fun t x => if (t.ctx x).state = .free then t
      else t.modCtx x (fun v => { v with state := .stopped, hardStop := true })) t).ras = t.ras ∧
      (l.foldl (fun t x => if (t.ctx x).state = .free then t
        else t.modCtx x (fun v => { v with state := .stopped, hardStop := true })) t).pins = t.pins :=
    foldl_keeps (fun u : State => u.ras = t.ras ∧ u.pins = t.pins) _ _ _ ⟨rfl, rfl⟩ fun u x keep => by split <;> exact keep
  have cores (l : List Nat) (t : State) : (l.foldl (fun t c => if (t.core c).scalar = .ended then t
      else t.modCore c (fun v => { v with scalar := .stopped })) t).ras = t.ras ∧
      (l.foldl (fun t c => if (t.core c).scalar = .ended then t
        else t.modCore c (fun v => { v with scalar := .stopped })) t).pins = t.pins :=
    foldl_keeps (fun u : State => u.ras = t.ras ∧ u.pins = t.pins) _ _ _ ⟨rfl, rfl⟩ fun u d keep => by split <;> exact keep
  have ports (l : List Nat) (t : State) : (l.foldl (fun t p => t.modPort p Port.fatalOff) t).ras = t.ras ∧
      (l.foldl (fun t p => t.modPort p Port.fatalOff) t).pins = t.pins :=
    foldl_keeps (fun u : State => u.ras = t.ras ∧ u.pins = t.pins) _ _ _ ⟨rfl, rfl⟩ fun u p keep =>
      ⟨(State.modPort_ras _ _ _).trans keep.1, (State.modPort_pins _ _ _).trans keep.2⟩
  unfold State.fatalError
  extract_lets l' r s1 s2 s3 s4
  have h4 : s4.ras = s3.ras ∧ s4.pins = s3.pins := by
    unfold s4
    split
    · exact ports _ _
    · exact ⟨rfl, rfl⟩
  have h3 : s3.ras = s2.ras ∧ s3.pins = s2.pins := cores _ _
  have h2 : s2.ras = s1.ras ∧ s2.pins = s1.pins := ctxs _ _
  have ras : s4.ras = s1.ras := h4.1.trans (h3.1.trans h2.1)
  have pins : s4.pins = s.pins := h4.2.trans (h3.2.trans (h2.2.trans (State.log_pins _ _)))
  rw [State.noticeDev_ras, State.noticeDev_pins]
  refine ⟨Eq.trans (b := { s4.ras with fatal := true }) rfl ?_, Eq.trans (b := { s4.pins with alertLow := true }) rfl ?_⟩
  · rw [ras]
  · rw [pins]

/-- A check that fails is a fatal error. -/
theorem consistency_fatal (b : Byte) (inst code : BitVec 16) (fabric : Bool) (s : State) :
    Gives (.hardwareConsistencyCheck b inst code fabric) s (fun t => t.ras.fatal = true ∧ t.ras.nextSeq = s.ras.nextSeq + 1 ∧
      t.pins.alertLow = true ∧ (∀ x, x < 16 → (s.ctx x).state ≠ .free → (t.ctx x).state = .stopped) ∧ t.mem = s.mem) := by
  have arm : exec (.hardwareConsistencyCheck b inst code fabric) s = execHardwareConsistencyCheck b inst code fabric s := rfl
  rw [Gives, arm, execHardwareConsistencyCheck]
  have short : (leBytes 2 code.toNat).length ≤ 22 := by simp
  have one := s.log_one (l := { cls := 3, cause := 0x201C#16, block := b.toNat, inst := inst.toNat, detail := leBytes 2 code.toNat }) short
  refine ⟨_, rfl, ?_, ?_, ?_, fun x hx used => s.fatalError_stops _ _ hx used, (s.fatalError_wakeOnly _ _).mem⟩
  · rw [(s.fatalError_marks _ fabric).1]
  · rw [(s.fatalError_marks _ fabric).1]
    exact one
  · rw [(s.fatalError_marks _ fabric).2]

/-- Settles O54: the writes, tests and the poll by their own lemmas; a failed consistency check is a fatal error. -/
theorem registersAndTestsAct : Obligations.RegistersAndTestsAct :=
  ⟨fun _ _ _ refused => congrArg _ (State.regWrite_refused refused), mtxFlags_cleared, pools_written, bist_starts, bist_ends,
    memTest_starts, memTest_steps, memTest_ends, poll_gives, consistency_fatal⟩

end Sys2Proof.Machine
end
section
/-! PROOFS. Issue of bundles: O5 to O8 (spec/03_cores_queues_and_programs.md). -/

namespace Sys2Proof.Machine

/-! ### What the reading of a bundle's words leaves (R222) -/

section
variable {s t : State}

theorem State.ctxOfCore_of_ctxs (h : t.ctxs = s.ctxs) (c : Nat) : t.ctxOfCore c = s.ctxOfCore c := by
  simp only [State.ctxOfCore, State.ctxOfCluster, State.ctx_of_ctxs h]

theorem State.segment_of_ctxs (h : t.ctxs = s.ctxs) (c : Nat) : t.segment c = s.segment c := by
  simp only [State.segment, State.ctxOfCore_of_ctxs h, State.ctx_of_ctxs h]

theorem State.segLen_of_ctxs (h : t.ctxs = s.ctxs) (c : Nat) : t.segLen c = s.segLen c := by
  rw [State.segLen, State.segLen, State.segment_of_ctxs h]

/-- From s to t one core's program buffer and its count of SRAM errors changed. -/
structure BufferOnly (c : Nat) (s t : State) : Prop where
  core : ∃ p e, t.core c = { s.core c with prog := p, sramEcc := e }
  others : ∀ d, d ≠ c → t.core d = s.core d
  rest : { t with cores := s.cores } = s

theorem BufferOnly.refl (c : Nat) (s : State) : BufferOnly c s s := ⟨⟨_, _, rfl⟩, fun _ _ => rfl, rfl⟩

theorem State.progSettle_bufferOnly (s : State) (c : Nat) (ranges : List (Nat × Nat)) : BufferOnly c s (s.progSettle c ranges) := by
  unfold State.progSettle
  extract_lets hit
  split
  · exact .refl c s
  · exact ⟨⟨_, _, State.modCore_core_same _ _ _⟩, fun _ h => State.modCore_core_other _ _ h, rfl⟩

variable {c : Nat}

theorem BufferOnly.ctxs (h : BufferOnly c s t) : t.ctxs = s.ctxs := (congrArg State.ctxs h.rest :)
theorem BufferOnly.ras (h : BufferOnly c s t) : t.ras = s.ras := (congrArg State.ras h.rest :)
theorem BufferOnly.clusters (h : BufferOnly c s t) : t.clusters = s.clusters := (congrArg State.clusters h.rest :)

theorem BufferOnly.queue (h : BufferOnly c s t) (q : QueueId) : (t.core c).queue q = (s.core c).queue q := by
  obtain ⟨_, _, core⟩ := h.core
  rw [core]
  cases q <;> rfl

theorem BufferOnly.hasRoom (h : BufferOnly c s t) (b : Bundle) : (t.core c).hasRoom b = (s.core c).hasRoom b := by
  simp only [Core.hasRoom, h.queue]

theorem BufferOnly.flags (h : BufferOnly c s t) (d : Nat) : (t.core d).flags = (s.core d).flags := by
  by_cases own : d = c
  · subst own
    obtain ⟨_, _, core⟩ := h.core
    rw [core]
  · rw [h.others d own]

theorem BufferOnly.flag (h : BufferOnly c s t) (k : Nat) (id : BitVec 16) : t.flag k id = s.flag k id := by
  simp only [State.flag, h.flags, State.cluster_of_clusters h.clusters]

theorem BufferOnly.canIssue (h : BufferOnly c s t) : t.canIssue c = s.canIssue c := by
  obtain ⟨_, _, core⟩ := h.core
  simp only [State.canIssue, State.ctxOfCore_of_ctxs h.ctxs, State.ctx_of_ctxs h.ctxs, h.ras, core, State.waitMet, h.flag,
    State.segLen_of_ctxs h.ctxs]

theorem BufferOnly.offset (h : BufferOnly c s t) : (t.core c).offset = (s.core c).offset := by
  obtain ⟨_, _, core⟩ := h.core
  rw [core]

theorem BufferOnly.fetched (h : BufferOnly c s t) : (t.core c).fetched = (s.core c).fetched := by
  obtain ⟨_, _, core⟩ := h.core
  rw [core]

end

/-! ### Issue (R61) -/

section
variable {s : State} {c : Nat} {b : Bundle}

theorem State.ctxOfCore_of_canIssue (h : s.canIssue c = true) : ∃ x, s.ctxOfCore c = some x ∧ (s.ctx x).state = .running := by
  unfold State.canIssue at h
  split at h
  · cases h
  · next x own =>
    simp only [Bool.and_eq_true, beq_iff_eq] at h
    exact ⟨x, own, h.1.1.1.1.1⟩

/-- The words that a bundle may issue from: the core may issue, the lines have been fetched, and no word is broken. -/
structure ReadyWords (s : State) (c : Nat) (b : Bundle) : Prop where
  may : s.canIssue c = true
  fetched : ∀ l ∈ bundleLines (s.core c).offset (bundleSize b), l ∈ (s.core c).fetched
  whole : (s.core c).brokenLine b = none

theorem find_unfetched {u : Core} {lines : List Nat} (h : ∀ l ∈ lines, l ∈ u.fetched) :
    lines.find? (fun l => !u.fetched.contains l) = none := by
  rw [List.find?_eq_none]
  intro l hl
  simp [h l hl]

/-- A bundle whose words are ready is read, and stalls, faults or issues. -/
theorem State.issueBundle_read (ready : ReadyWords s c b) {x : Nat} (own : s.ctxOfCore c = some x) :
    s.issueBundle c b =
      let t := s.progSettle c [((s.core c).offset, bundleSize b)]
      if !(t.core c).hasRoom b then t.setCore c { t.core c with scalar := .stalledFull }
      else match (bundleOps b).findSome? (fun o => (slotRefusal c o).map (fun st => (queueCode o.op.queue, st))) with
        | some r => t.issueFault c (.refused r.1 r.2)
        | none => match (t.core c).hazards (bundleOps b) with
          | .error z => t.issueFault c (.tileConflict z)
          | .ok hz => match scalarSlots c ((t.core c).offset + bundleSize b) b.scalar { st := t } with
            | .error e => t.issueFault c e
            | .ok z => t.issued c x b z hz := by
  obtain ⟨may, fetched, whole⟩ := ready
  unfold State.issueBundle
  rw [own]
  dsimp only
  rw [if_neg (by simp [may]), find_unfetched fetched]
  dsimp only
  rw [whole] <;> rfl

theorem State.issueBundle_stalls (ready : ReadyWords s c b) (full : (s.core c).hasRoom b = false) :
    s.issueBundle c b =
      let t := s.progSettle c [((s.core c).offset, bundleSize b)]
      t.setCore c { t.core c with scalar := .stalledFull } := by
  obtain ⟨x, own, -⟩ := State.ctxOfCore_of_canIssue ready.may
  rw [State.issueBundle_read ready own]
  dsimp only
  rw [(s.progSettle_bufferOnly c _).hasRoom, full]
  rfl

theorem State.issueBundle_broken (may : s.canIssue c = true)
    (fetched : ∀ l ∈ bundleLines (s.core c).offset (bundleSize b), l ∈ (s.core c).fetched) {l : Nat}
    (broken : (s.core c).brokenLine b = some l) : s.issueBundle c b = s.setCore c ((s.core c).refetch l) := by
  obtain ⟨x, own, -⟩ := State.ctxOfCore_of_canIssue may
  unfold State.issueBundle
  rw [own]
  dsimp only
  rw [if_neg (by simp [may]), find_unfetched fetched]
  dsimp only
  rw [broken]

theorem findSome_refusal_none (valid : ∀ o ∈ bundleOps b, slotRefusal c o = none) :
    (bundleOps b).findSome? (fun o => (slotRefusal c o).map (fun st => (queueCode o.op.queue, st))) = none := by
  rw [List.findSome?_eq_none_iff]
  intro o ho
  rw [valid o ho]
  rfl

/-- A bundle with room, valid flags and no conflict issues with what its scalar slots leave. -/
theorem State.issueBundle_issues (ready : ReadyWords s c b) {x : Nat} (own : s.ctxOfCore c = some x)
    (room : (s.core c).hasRoom b = true) (valid : ∀ o ∈ bundleOps b, slotRefusal c o = none) {t : State}
    (read : s.progSettle c [((s.core c).offset, bundleSize b)] = t) {hz : Core} (clear : (t.core c).hazards (bundleOps b) = .ok hz)
    {z : Slots} (slots : scalarSlots c ((t.core c).offset + bundleSize b) b.scalar { st := t } = .ok z) :
    s.issueBundle c b = t.issued c x b z hz := by
  subst read
  rw [State.issueBundle_read ready own]
  dsimp only
  rw [(s.progSettle_bufferOnly c _).hasRoom, room, findSome_refusal_none valid]
  dsimp only
  rw [clear]
  dsimp only
  rw [slots]
  rfl

/-- A bundle whose scalar slots fault does not issue. -/
theorem State.issueBundle_faults (ready : ReadyWords s c b) (room : (s.core c).hasRoom b = true)
    (valid : ∀ o ∈ bundleOps b, slotRefusal c o = none) {t : State}
    (read : s.progSettle c [((s.core c).offset, bundleSize b)] = t) {hz : Core} (clear : (t.core c).hazards (bundleOps b) = .ok hz)
    {e : IssueFault} (slots : scalarSlots c ((t.core c).offset + bundleSize b) b.scalar { st := t } = .error e) :
    s.issueBundle c b = t.issueFault c e := by
  obtain ⟨x, own, -⟩ := State.ctxOfCore_of_canIssue ready.may
  subst read
  rw [State.issueBundle_read ready own]
  dsimp only
  rw [(s.progSettle_bufferOnly c _).hasRoom, room, findSome_refusal_none valid]
  dsimp only
  rw [clear]
  dsimp only
  rw [slots]
  rfl

theorem findSome_refusal_some {l : List OpSlot} {o : OpSlot} {st : Status} (first : l.find? (fun p => (slotRefusal c p).isSome) = some o)
    (refused : slotRefusal c o = some st) :
    l.findSome? (fun o => (slotRefusal c o).map (fun st => (queueCode o.op.queue, st))) = some (queueCode o.op.queue, st) := by
  induction l with
  | nil => cases first
  | cons a l ih =>
    rw [List.findSome?_cons]
    rw [List.find?_cons] at first
    split at first
    · obtain rfl := Option.some.inj first
      rw [refused]
      rfl
    · next valid =>
      rw [Option.isSome_eq_false_iff, Option.isNone_iff_eq_none] at valid
      rw [valid]
      exact ih first

/-- A bundle with an operation that is refused at issue does not issue. -/
theorem State.issueBundle_refused (ready : ReadyWords s c b) (room : (s.core c).hasRoom b = true) {o : OpSlot} {st : Status}
    (first : (bundleOps b).find? (fun p => (slotRefusal c p).isSome) = some o) (refused : slotRefusal c o = some st) :
    s.issueBundle c b =
      (s.progSettle c [((s.core c).offset, bundleSize b)]).issueFault c (.refused (queueCode o.op.queue) st) := by
  obtain ⟨x, own, -⟩ := State.ctxOfCore_of_canIssue ready.may
  rw [State.issueBundle_read ready own]
  dsimp only
  rw [(s.progSettle_bufferOnly c _).hasRoom, room, findSome_refusal_some first refused]
  rfl

end

/-! ### What issue leaves (R61, R63, R70) -/

section
variable {s : State} {c x : Nat} {b : Bundle} {z : Slots} {hz : Core}

/-- What a core's queues show of their entries. -/
def Core.shown (u : Core) (q : QueueId) : List (Op × Option FlagWait × Option FlagSignal) :=
  (u.queue q).map (fun e => (e.op, e.wait, e.signal))

theorem Core.enqueue_shown (u : Core) (regs : Sparse Word64) (seed : Word64) (n : Word32) (o : OpSlot) (q : QueueId) :
    (u.enqueue regs seed n o).shown q = u.shown q ++ if o.op.queue = q then [(o.op, o.wait, o.signal)] else [] := by
  have same (v : Core) (p : QueueId) (l : List QEntry) : (v.setQueue p l).queue q = if p = q then l else v.queue q := by
    cases p <;> cases q <;> rfl
  have counted (v : Core) (m : Sparse Nat) : ({ v with opCount := m } : Core).queue q = v.queue q := by cases q <;> rfl
  unfold Core.shown Core.enqueue
  extract_lets p pos e
  rw [same, counted]
  split
  · next own => rw [List.map_append, show p = q from own]; rfl
  · rw [List.append_nil]

/-- From u to w a core changed in what the issue of a bundle changes. -/
def Core.IssueOnly (u w : Core) : Prop :=
  ∃ a m v d y p o l r n k, w = { u with opCount := a, matrixQ := m, vectorQ := v, dmaQ := d, syncQ := y, hazard := p, offset := o, loops := l, scalar := r, bundleCount := n, stallDue := k }

theorem Core.IssueOnly.trans {u v w : Core} (h : u.IssueOnly v) (k : v.IssueOnly w) : u.IssueOnly w := by
  obtain ⟨_, _, _, _, _, _, _, _, _, _, _, rfl⟩ := h
  obtain ⟨_, _, _, _, _, _, _, _, _, _, _, rfl⟩ := k
  exact ⟨_, _, _, _, _, _, _, _, _, _, _, rfl⟩

theorem Core.setQueue_issueOnly (u : Core) (q : QueueId) (l : List QEntry) : u.IssueOnly (u.setQueue q l) := by
  cases q <;> exact ⟨_, _, _, _, _, _, _, _, _, _, _, rfl⟩

theorem Core.enqueue_issueOnly (u : Core) (regs : Sparse Word64) (seed : Word64) (n : Word32) (o : OpSlot) :
    u.IssueOnly (u.enqueue regs seed n o) :=
  Core.IssueOnly.trans ⟨_, _, _, _, _, _, _, _, _, _, _, rfl⟩ (Core.setQueue_issueOnly _ _ _)

theorem foldl_enqueue_shown (l : List OpSlot) (u : Core) (regs : Sparse Word64) (seed : Word64) (n : Word32) (q : QueueId) :
    (l.foldl (fun v o => v.enqueue regs seed n o) u).shown q =
      u.shown q ++ (l.filter (fun o => o.op.queue = q)).map (fun o => (o.op, o.wait, o.signal)) := by
  induction l generalizing u with
  | nil => simp
  | cons a l ih =>
    rw [List.foldl_cons, ih, Core.enqueue_shown, List.filter_cons]
    by_cases own : a.op.queue = q <;> simp [own]

theorem foldl_enqueue_issueOnly (l : List OpSlot) (u : Core) (regs : Sparse Word64) (seed : Word64) (n : Word32) :
    u.IssueOnly (l.foldl (fun v o => v.enqueue regs seed n o) u) :=
  foldl_keeps u.IssueOnly _ _ _ ⟨_, _, _, _, _, _, _, _, _, _, _, rfl⟩ fun w o keep => keep.trans (w.enqueue_issueOnly regs seed n o)

theorem foldl_enqueue_loops (l : List OpSlot) (u : Core) (regs : Sparse Word64) (seed : Word64) (n : Word32) :
    (l.foldl (fun v o => v.enqueue regs seed n o) u).loops = u.loops ∧
      (l.foldl (fun v o => v.enqueue regs seed n o) u).stopCount = u.stopCount :=
  foldl_keeps (fun v : Core => v.loops = u.loops ∧ v.stopCount = u.stopCount) _ _ _ ⟨rfl, rfl⟩ fun w o keep => by
    have same (v : Core) (q : QueueId) (m : List QEntry) : (v.setQueue q m).loops = v.loops ∧ (v.setQueue q m).stopCount = v.stopCount := by
      cases q <;> exact ⟨rfl, rfl⟩
    exact ⟨(same _ _ _).1.trans keep.1, (same _ _ _).2.trans keep.2⟩

theorem State.issued_issueOnly (s : State) (c x : Nat) (b : Bundle) (z : Slots) (hz : Core) :
    (z.st.core c).IssueOnly ((s.issued c x b z hz).core c) := by
  unfold State.issued
  extract_lets u0 after ctx t _ u1 u2 count ls lo stop sc
  rw [State.setCore_core_same]
  exact Core.IssueOnly.trans (v := u1) ⟨_, _, _, _, _, _, _, _, _, _, _, rfl⟩
    (Core.IssueOnly.trans (v := u2) (foldl_enqueue_issueOnly _ u1 _ _ _) ⟨_, _, _, _, _, _, _, _, _, _, _, rfl⟩)

theorem State.issued_shown (s : State) (c x : Nat) (b : Bundle) (z : Slots) (hz : Core) (q : QueueId) :
    ((s.issued c x b z hz).core c).shown q = (z.st.core c).shown q ++
      ((bundleOps b).filter (fun o => o.op.queue = q)).map (fun o => (o.op, o.wait, o.signal)) := by
  unfold State.issued
  extract_lets u0 after ctx t _ u1 u2 count ls lo stop sc
  rw [State.setCore_core_same]
  have held : u1.shown q = (z.st.core c).shown q := by cases q <;> rfl
  rw [← held, ← foldl_enqueue_shown _ u1 u0.sregs ctx.seed ctx.stepNo]
  cases q <;> rfl

theorem State.issued_count (s : State) (c x : Nat) (b : Bundle) (z : Slots) (hz : Core) :
    ((s.issued c x b z hz).core c).bundleCount = (s.core c).bundleCount + 1 := by
  unfold State.issued
  extract_lets u0 after ctx t _ u1 u2 count ls lo stop sc
  rw [State.setCore_core_same]

/-- A bundle that enters a level goes on behind itself. -/
theorem State.issued_enters (s : State) (c x : Nat) (b : Bundle) (z : Slots) (hz : Core) {l : List LoopLevel}
    (entered : z.loops = some l) (next : z.next = .inOrder) :
    ((s.issued c x b z hz).core c).loops = l ∧ ((s.issued c x b z hz).core c).offset = (s.core c).offset + bundleSize b := by
  unfold State.issued
  extract_lets u0 after ctx t _ u1 u2 count ls lo stop sc
  have here : lo = (l, after) := by
    simp only [lo, ls, next, entered, Option.isSome_some, if_true, Option.getD_some]
  rw [State.setCore_core_same, here]
  exact ⟨rfl, rfl⟩

/-- A bundle that skips a body outside every level goes on behind that body. -/
theorem State.issued_skips (s : State) (c x : Nat) (b : Bundle) (z : Slots) (hz : Core) {o : Nat}
    (loops : z.loops = none) (outside : (z.st.core c).loops = []) (next : z.next = .skip o) :
    ((s.issued c x b z hz).core c).loops = [] ∧ ((s.issued c x b z hz).core c).offset = o := by
  unfold State.issued
  extract_lets u0 after ctx t _ u1 u2 count ls lo stop sc
  have same : u2.loops = [] := (foldl_enqueue_loops _ u1 _ _ _).1.trans outside
  have here : lo = ([], o) := by
    simp only [lo, ls, next, loops, Option.getD_none, same, loopBack]
  rw [State.setCore_core_same, here]
  exact ⟨rfl, rfl⟩

/-- A bundle with a wait that may go on holds issue on it. -/
theorem State.issued_waits (s : State) (c x : Nat) (b : Bundle) (z : Slots) (hz : Core) {w : FlagWait}
    (wait : z.wait = some w) (free : (z.st.core c).stopCount = 0) : ((s.issued c x b z hz).core c).scalar = .swait w := by
  unfold State.issued
  extract_lets u0 after ctx t _ u1 u2 count ls lo stop sc
  have unstopped : stop = 0 := (foldl_enqueue_loops _ u1 _ _ _).2.trans free
  have here : sc = .swait w := by
    simp only [sc, unstopped, wait, ne_eq, not_true_eq_false, false_and, if_false]
  rw [State.setCore_core_same, here]

/-- Issue changes of the device, beside its core, only the seed and the step number of the core's context. -/
theorem State.issued_device (s : State) (c x : Nat) (b : Bundle) (z : Slots) (hz : Core) :
    (s.issued c x b z hz).mem = z.st.mem ∧ (s.issued c x b z hz).clusters = z.st.clusters ∧
      (s.issued c x b z hz).ctx x = (bundleOps b).foldl Ctx.atIssue (z.st.ctx x) := by
  unfold State.issued
  extract_lets u0 after ctx t _ u1 u2 count ls lo stop sc
  exact ⟨rfl, rfl, State.setCtx_ctx_same _ _ _⟩

end

/-! ### What the scalar slots leave (R68, R71, R72) -/

section
variable {s t u : State} {c : Nat}

/-- From s to t a core changed in its scalar registers and its data memory alone, and the contexts stayed. -/
structure ScalarOnly (c : Nat) (s t : State) : Prop where
  core : ∃ r d e, t.core c = { s.core c with sregs := r, dm := d, sramEcc := e }
  ctxs : t.ctxs = s.ctxs

/-- Likewise, with the scalar registers kept. -/
structure DataOnly (c : Nat) (s t : State) : Prop where
  core : ∃ d e, t.core c = { s.core c with dm := d, sramEcc := e }
  ctxs : t.ctxs = s.ctxs

theorem DataOnly.refl (c : Nat) (s : State) : DataOnly c s s := ⟨⟨_, _, rfl⟩, rfl⟩

theorem DataOnly.trans (h : DataOnly c s t) (k : DataOnly c t u) : DataOnly c s u := by
  obtain ⟨⟨_, _, a⟩, ca⟩ := h
  obtain ⟨⟨_, _, b⟩, cb⟩ := k
  exact ⟨⟨_, _, b.trans (by rw [a])⟩, cb.trans ca⟩

theorem DataOnly.scalar (h : DataOnly c s t) : ScalarOnly c s t := by
  obtain ⟨⟨_, _, a⟩, ca⟩ := h
  exact ⟨⟨_, _, _, a⟩, ca⟩

theorem ScalarOnly.trans (h : ScalarOnly c s t) (k : ScalarOnly c t u) : ScalarOnly c s u := by
  obtain ⟨⟨_, _, _, a⟩, ca⟩ := h
  obtain ⟨⟨_, _, _, b⟩, cb⟩ := k
  exact ⟨⟨_, _, _, b.trans (by rw [a])⟩, cb.trans ca⟩

theorem ScalarOnly.refl (c : Nat) (s : State) : ScalarOnly c s s := (DataOnly.refl c s).scalar

theorem ScalarOnly.setSreg (c : Nat) (s : State) (r : Nat) (v : Word64) : ScalarOnly c s (s.setCore c ((s.core c).setSreg r v)) :=
  ⟨⟨_, _, _, State.setCore_core_same _ _ _⟩, rfl⟩

theorem DataOnly.of_cores (h : t.cores = s.cores) (k : t.ctxs = s.ctxs) : DataOnly c s t :=
  ⟨⟨_, _, State.core_of_cores h c⟩, k⟩

theorem State.dmSettle_dataOnly (s : State) (c : Nat) (ranges : List (Nat × Nat)) : DataOnly c s (s.dmSettle c ranges) := by
  unfold State.dmSettle
  extract_lets hit
  split
  · exact .refl c s
  · exact ⟨⟨_, _, State.modCore_core_same _ _ _⟩, rfl⟩

theorem State.dmCommit_dataOnly (s : State) (c : Nat) (ws : List ByteWrite) : DataOnly c s (s.dmCommit c ws) :=
  (s.dmSettle_dataOnly c _).trans ⟨⟨_, _, State.modCore_core_same _ _ _⟩, rfl⟩

theorem State.logSram_dataOnly (s : State) (block inst kind : Nat) (hit : List (Nat × WordErr)) :
    DataOnly c s (s.logSram block inst kind hit) :=
  foldl_keeps (DataOnly c s) _ _ _ (.refl c s) fun _ _ keep => keep.trans (.of_cores rfl rfl)

theorem State.cmSettle_dataOnly (s : State) (k : Nat) (ranges : List (Nat × Nat)) : DataOnly c s (s.cmSettle k ranges) := by
  unfold State.cmSettle
  extract_lets hit
  split
  · exact .refl c s
  · refine DataOnly.trans ?_ (State.logSram_dataOnly _ 2 k 5 hit)
    exact .of_cores rfl rfl

theorem State.scalarLoad_dataOnly {l : Loc} {n : Nat} {bs : List Byte} (runs : s.scalarLoad c l n = .ok (t, bs)) : DataOnly c s t := by
  unfold State.scalarLoad at runs
  extract_lets k at runs
  split at runs
  · split at runs
    · cases runs
    · split at runs
      · cases runs
      · obtain ⟨rfl, -⟩ := Prod.mk.inj (Except.ok.inj runs)
        exact s.dmSettle_dataOnly c _
  · split at runs
    · cases runs
    · split at runs
      · cases runs
      · obtain ⟨rfl, -⟩ := Prod.mk.inj (Except.ok.inj runs)
        exact (s.cmSettle_dataOnly k _).trans (.of_cores rfl rfl)
  · split at runs
    · cases runs
    · split at runs
      · cases runs
      · next r read =>
        split at runs
        · cases runs
        · obtain ⟨rfl, -⟩ := Prod.mk.inj (Except.ok.inj runs)
          exact .of_cores (State.readVa_memOnly read).cores (State.readVa_memOnly read).ctxs
  · cases runs

theorem State.scalarStore_dataOnly {l : Loc} {bs : List Byte} (runs : s.scalarStore c l bs = .ok t) : DataOnly c s t := by
  unfold State.scalarStore at runs
  split at runs
  · split at runs
    · cases runs
    · split at runs
      · cases runs
      · cases runs
        exact s.dmCommit_dataOnly c _
  · split at runs
    · cases runs
    · cases runs
      exact (s.cmSettle_dataOnly _ _).trans (.of_cores rfl rfl)
  · split at runs
    · cases runs
    · split at runs
      · cases runs
      · next r write =>
        cases runs
        exact .of_cores (State.writeVa_memOnly write).cores (State.writeVa_memOnly write).ctxs
  · cases runs

theorem State.loopCount_dataOnly {k : LoopCount} {n : Word32} (runs : s.loopCount c k = .ok (t, n)) : DataOnly c s t := by
  cases k with
  | imm n => cases runs; exact .refl c s
  | reg r => cases runs; exact .refl c s
  | dm a =>
    simp only [State.loopCount] at runs
    split at runs
    · cases runs
    · next r read => cases runs; exact State.scalarLoad_dataOnly read
  | cm a =>
    simp only [State.loopCount] at runs
    split at runs
    · cases runs
    · cases runs
    · next r read => cases runs; exact State.scalarLoad_dataOnly read

theorem scalarSlot_scalarOnly {after : Nat} {z w : Slots} {slot : ScalarSlot} (runs : scalarSlot c after z slot = .ok w) :
    ScalarOnly c z.st w.st := by
  unfold scalarSlot at runs
  extract_lets u at runs
  cases slot with
  | setImm rd v => cases runs; exact .setSreg c _ _ _
  | alu k rd ra rb => cases runs; exact .setSreg c _ _ _
  | readLoop rd level => cases runs; exact .setSreg c _ _ _
  | mem f =>
    dsimp only at runs
    split at runs
    · split at runs
      · cases runs
      · next t write => cases runs; exact (State.scalarStore_dataOnly write).scalar
    · split at runs
      · cases runs
      · next r read =>
        cases runs
        exact (State.scalarLoad_dataOnly read).scalar.trans ⟨⟨_, _, _, State.modCore_core_same _ _ _⟩, rfl⟩
  | branch t cond =>
    dsimp only at runs
    split at runs <;> cases runs <;> exact .refl c _
  | swait w =>
    dsimp only at runs
    split at runs <;> cases runs
    exact .refl c _
  | loopBegin f =>
    dsimp only at runs
    split at runs
    · cases runs
    · split at runs
      · cases runs
      · next r read =>
        split at runs <;> cases runs <;> exact (State.loopCount_dataOnly read).scalar

theorem scalarSlots_scalarOnly {after : Nat} {l : List ScalarSlot} {z w : Slots} (runs : scalarSlots c after l z = .ok w) :
    ScalarOnly c z.st w.st := by
  induction l generalizing z with
  | nil => cases runs; exact .refl c _
  | cons a l ih =>
    rw [scalarSlots] at runs
    split at runs
    · cases runs
    · next y first => exact (scalarSlot_scalarOnly first).trans (ih runs)

end

/-! ### O5 and O6 -/

section
variable {r : State} {c : Nat} {b : Bundle}

/-- The upsets of a row leave what a stalled or refetching core holds. -/
theorem State.upset_mem (s : State) (c : Nat) (l : List Upset) : (s.upset c l).mem = s.mem := by
  unfold State.upset
  split <;> rfl

/-- Words ready before they are read, from what stands after. -/
theorem ReadyWords.of_settled {u : State} (may : (u.progSettle c [((u.core c).offset, bundleSize b)]).canIssue c = true)
    (fetched : ∀ l ∈ bundleLines ((u.progSettle c [((u.core c).offset, bundleSize b)]).core c).offset (bundleSize b),
      l ∈ ((u.progSettle c [((u.core c).offset, bundleSize b)]).core c).fetched)
    (whole : (u.core c).brokenLine b = none) : ReadyWords u c b := by
  have read := u.progSettle_bufferOnly c [((u.core c).offset, bundleSize b)]
  rw [read.canIssue] at may
  rw [read.offset, read.fetched] at fetched
  exact ⟨may, fetched, whole⟩

theorem ScalarOnly.shown {s t : State} (h : ScalarOnly c s t) (q : QueueId) : (t.core c).shown q = (s.core c).shown q := by
  obtain ⟨⟨_, _, _, core⟩, -⟩ := h
  rw [core]
  cases q <;> rfl

theorem ScalarOnly.inFlight {s t : State} (h : ScalarOnly c s t) (q : QueueId) :
    (t.core c).inFlight q = (s.core c).inFlight q := by
  obtain ⟨⟨_, _, _, core⟩, -⟩ := h
  rw [core]
  cases q <;> rfl

theorem Core.IssueOnly.inFlight {u w : Core} (h : u.IssueOnly w) (q : QueueId) : w.inFlight q = u.inFlight q := by
  obtain ⟨_, _, _, _, _, _, _, _, _, _, _, rfl⟩ := h
  cases q <;> rfl

theorem Core.IssueOnly.keeps {u w : Core} (h : u.IssueOnly w) : w.sregs = u.sregs ∧ w.dm = u.dm := by
  obtain ⟨_, _, _, _, _, _, _, _, _, _, _, rfl⟩ := h
  exact ⟨rfl, rfl⟩

end

theorem bundle_issues (c : CoreId) (b : Bundle) (ups : List Upset) (r : State) (x : Nat) (z : Slots) :
    let u := r.upset c ups
    let s := u.progSettle c [((u.core c).offset, bundleSize b)]
    b.wf = true → s.ctxOfCore c = some x → s.canIssue c = true → (u.core c).brokenLine b = none →
    (∀ l ∈ bundleLines (s.core c).offset (bundleSize b), l ∈ (s.core c).fetched) →
    (s.core c).hasRoom b = true → (∀ o ∈ bundleOps b, slotRefusal c o = none) →
    (∃ hz, (s.core c).hazards (bundleOps b) = .ok hz) →
    scalarSlots c ((s.core c).offset + bundleSize b) b.scalar { st := s } = .ok z →
    Gives (.bundleIssue c ⟨b, ups⟩) r (fun t =>
      (t.core c).bundleCount = (s.core c).bundleCount + 1 ∧
      (∀ q, ((t.core c).queue q).map (fun e => (e.op, e.wait, e.signal)) =
        ((s.core c).queue q).map (fun e => (e.op, e.wait, e.signal)) ++
          ((bundleOps b).filter (fun o => o.op.queue = q)).map (fun o => (o.op, o.wait, o.signal))) ∧
      (∀ q, (t.core c).inFlight q = (s.core c).inFlight q) ∧
      (t.core c).sregs = (z.st.core c).sregs ∧ t.mem = z.st.mem) := by
  intro u s wf own may whole fetched room valid ⟨hz, clear⟩ slots
  have arm : exec (.bundleIssue c ⟨b, ups⟩) r = execBundleIssue c ⟨b, ups⟩ r := rfl
  have read : BufferOnly c u s := u.progSettle_bufferOnly c _
  have left : ScalarOnly c s z.st := scalarSlots_scalarOnly slots
  have issue := s.issued_issueOnly c x b z hz
  rw [read.hasRoom] at room
  rw [Gives, arm, execBundleIssue, if_pos wf, State.issueBundle_issues (.of_settled may fetched whole)
    ((State.ctxOfCore_of_ctxs read.ctxs c).symm.trans own) room valid rfl clear slots]
  refine ⟨_, rfl, s.issued_count c x b z hz, fun q => ?_, fun q => ?_, issue.keeps.1, (s.issued_device c x b z hz).1⟩
  · exact (s.issued_shown c x b z hz q).trans (by rw [left.shown]; rfl)
  · rw [issue.inFlight, left.inFlight]

theorem bundle_stalls (c : CoreId) (b : Bundle) (ups : List Upset) (r : State) :
    let u := r.upset c ups
    let s := u.progSettle c [((u.core c).offset, bundleSize b)]
    b.wf = true → u.canIssue c = true →
    (∀ l ∈ bundleLines (u.core c).offset (bundleSize b), l ∈ (u.core c).fetched) →
    ((u.core c).brokenLine b = none → (u.core c).hasRoom b = false →
      exec (.bundleIssue c ⟨b, ups⟩) r = .next (s.setCore c { s.core c with scalar := .stalledFull })) ∧
    (∀ l, (u.core c).brokenLine b = some l → Gives (.bundleIssue c ⟨b, ups⟩) r (fun t =>
      l ∉ (t.core c).fetched ∧ (t.core c).scalar = .fetchStall l ∧
      (t.core c).sramEcc = bumpFld (u.core c).sramEcc 31 0 1 ∧ (t.core c).bundleCount = (u.core c).bundleCount ∧
      (∀ q, (t.core c).queue q = (u.core c).queue q) ∧ t.mem = r.mem)) := by
  intro u s wf may fetched
  have arm : exec (.bundleIssue c ⟨b, ups⟩) r = execBundleIssue c ⟨b, ups⟩ r := rfl
  refine ⟨fun whole full => ?_, fun l broken => ?_⟩
  · rw [arm, execBundleIssue, if_pos wf, State.issueBundle_stalls ⟨may, fetched, whole⟩ full]
  · rw [Gives, arm, execBundleIssue, if_pos wf, State.issueBundle_broken may fetched broken]
    refine ⟨_, rfl, ?_⟩
    rw [State.setCore_core_same]
    refine ⟨?_, rfl, rfl, rfl, fun q => by cases q <;> rfl, r.upset_mem c ups⟩
    simp [Core.refetch]

/-- Settles O5. -/
theorem bundleIssuesWholeOrStalls : Obligations.BundleIssuesWholeOrStalls := by
  unfold Obligations.BundleIssuesWholeOrStalls
  exact ⟨bundle_issues, bundle_stalls⟩

/-- Settles O6: the refusal is R65's, on the state in which the bundle's words have been read. -/
theorem refusalAtIssueLeavesBundleUnissued : Obligations.RefusalAtIssueLeavesBundleUnissued := by
  unfold Obligations.RefusalAtIssueLeavesBundleUnissued
  intro c b ups r o st u s wf may whole fetched room first refused
  have arm : exec (.bundleIssue c ⟨b, ups⟩) r = execBundleIssue c ⟨b, ups⟩ r := rfl
  have read : BufferOnly c u s := u.progSettle_bufferOnly c _
  rw [read.hasRoom] at room
  rw [Gives, arm, execBundleIssue, if_pos wf, State.issueBundle_refused (.of_settled may fetched whole) room first refused]
  refine ⟨_, rfl, s.opRefused_refusedAt c _ _ st, ?_⟩
  show ((s.opRefused _ _ _ _).core c).bundleCount = _ ∧ ((s.opRefused _ _ _ _).core c).sregs = _ ∧
    (∀ q, ((s.opRefused _ _ _ _).core c).queue q = _) ∧ (s.opRefused _ _ _ _).mem = _
  unfold State.opRefused
  rw [State.coreFault_core_same]
  exact ⟨rfl, rfl, fun q => by cases q <;> rfl, State.coreFault_mem _ _ _ _ _⟩

/-! ### O7: LOOP_BEGIN alone in its bundle (R71 to R73) -/

section
variable {s : State} {c x : Nat} {b : Bundle}

/-- A bundle alone has its words ready, and their reading changes nothing. -/
theorem ReadyWords.of_alone (alone : IssuesAlone s c b) :
    ReadyWords s c b ∧ s.progSettle c [((s.core c).offset, bundleSize b)] = s := by
  obtain ⟨may, fetched, clean⟩ := alone
  refine ⟨⟨may, fetched, ?_⟩, ?_⟩
  · rw [Core.brokenLine, clean]
    rfl
  · rw [State.progSettle, clean]
    rfl

/-- A bundle of scalar slots issues with what they leave. -/
theorem State.issueBundle_scalar {l : List ScalarSlot} (alone : IssuesAlone s c (scalarBundle l)) (own : s.ctxOfCore c = some x)
    {z : Slots} (slots : scalarSlots c ((s.core c).offset + bundleSize (scalarBundle l)) l { st := s } = .ok z) :
    s.issueBundle c (scalarBundle l) = s.issued c x (scalarBundle l) z (s.core c) := by
  obtain ⟨ready, same⟩ := ReadyWords.of_alone alone
  exact State.issueBundle_issues ready own rfl (fun o ho => nomatch ho) same rfl slots

theorem scalarSlots_one {after : Nat} {a : ScalarSlot} {z w : Slots} (runs : scalarSlot c after z a = .ok w) :
    scalarSlots c after [a] z = .ok w := by
  rw [scalarSlots, runs]
  rfl

end

theorem loopBegin_issues (c : CoreId) (f : LoopF) (s u : State) (n : Word32) (even : f.last % 2 = 0)
    (alone : IssuesAlone s c (scalarBundle [.loopBegin f])) (room : (s.core c).loops.length < 4)
    (count : s.loopCount c f.count = .ok (u, n)) :
    Gives (.loopBegin c f) s (fun t =>
      (t.core c).bundleCount = (s.core c).bundleCount + 1 ∧
      (n ≠ 0 → (t.core c).loops = (s.core c).loops ++ [⟨n, (s.core c).offset + 6, f.last⟩] ∧
        (t.core c).offset = (s.core c).offset + 6) ∧
      (n = 0 → (s.core c).loops = [] → (t.core c).loops = [] ∧ (t.core c).offset = f.last)) := by
  have arm : exec (.loopBegin c f) s = execLoopBegin c f s := rfl
  have wf : (scalarBundle [.loopBegin f]).wf = true := by simp [scalarBundle, Bundle.wf, ScalarSlot.wf, slotWf, even]
  obtain ⟨x, own, -⟩ := State.ctxOfCore_of_canIssue alone.1
  obtain ⟨⟨_, _, core⟩, -⟩ : DataOnly c s u := State.loopCount_dataOnly count
  have four : ¬4 ≤ (Slots.levels { st := s } c).length := by
    show ¬4 ≤ (s.core c).loops.length
    omega
  rw [Gives, arm, execLoopBegin]
  rw [if_pos wf]
  by_cases none : n = 0
  · have slot : scalarSlot c ((s.core c).offset + 6) { st := s } (.loopBegin f) = .ok { st := u, next := .skip f.last } := by
      unfold scalarSlot
      dsimp only
      rw [if_neg four, count]
      exact if_pos none
    rw [State.issueBundle_scalar alone own (scalarSlots_one slot)]
    refine ⟨_, rfl, s.issued_count _ _ _ _ _, fun some => absurd none some, fun _ outside => ?_⟩
    exact s.issued_skips c x _ _ _ rfl (by rw [core]; exact outside) rfl
  · have slot : scalarSlot c ((s.core c).offset + 6) { st := s } (.loopBegin f) =
        .ok { st := u, loops := some ((s.core c).loops ++ [⟨n, (s.core c).offset + 6, f.last⟩]) } := by
      unfold scalarSlot
      dsimp only
      rw [if_neg four, count]
      exact if_neg none
    rw [State.issueBundle_scalar alone own (scalarSlots_one slot)]
    refine ⟨_, rfl, s.issued_count _ _ _ _ _, fun _ => ?_, fun zero => absurd zero none⟩
    exact s.issued_enters c x _ _ _ rfl rfl

theorem loopBegin_odd (c : CoreId) (f : LoopF) (s : State) (odd : f.last % 2 = 1) :
    exec (.loopBegin c f) s = .refused .illFormed := by
  have arm : exec (.loopBegin c f) s = execLoopBegin c f s := rfl
  have wf : (scalarBundle [.loopBegin f]).wf = false := by simp [scalarBundle, Bundle.wf, ScalarSlot.wf, odd]
  rw [arm, execLoopBegin, wf]
  rfl

theorem State.coreFault_stops (s : State) {c x : Nat} (cause : BitVec 16) (st : Status) {d : List Byte} (short : d.length ≤ 22)
    (own : s.ctxOfCore c = some x) (running : (s.ctx x).state = .running) :
    ((s.coreFault c cause st d).ctx x).state = .stopped ∧ (s.coreFault c cause st d).ras.nextSeq = s.ras.nextSeq + 1 := by
  unfold State.coreFault
  extract_lets u
  rw [own]
  refine ⟨(State.contained_stops _ x _ ?_).1, State.contained_one _ x short⟩
  rw [State.modCore_ctx]
  exact running

theorem loopBegin_nests (c : CoreId) (f : LoopF) (s : State) (x : Nat) (even : f.last % 2 = 0)
    (alone : IssuesAlone s c (scalarBundle [.loopBegin f])) (own : s.ctxOfCore c = some x) (full : 4 ≤ (s.core c).loops.length) :
    ∃ t, exec (.loopBegin c f) s = .next t ∧ (t.core c).loops = (s.core c).loops ∧
      (t.core c).bundleCount = (s.core c).bundleCount ∧ (t.ctx x).state = .stopped ∧ t.ras.nextSeq = s.ras.nextSeq + 1 := by
  have arm : exec (.loopBegin c f) s = execLoopBegin c f s := rfl
  have wf : (scalarBundle [.loopBegin f]).wf = true := by simp [scalarBundle, Bundle.wf, ScalarSlot.wf, slotWf, even]
  obtain ⟨y, own', running⟩ := State.ctxOfCore_of_canIssue alone.1
  obtain rfl := Option.some.inj (own'.symm.trans own)
  obtain ⟨ready, same⟩ := ReadyWords.of_alone alone
  have slots : scalarSlots c ((s.core c).offset + bundleSize (scalarBundle [.loopBegin f])) [.loopBegin f] { st := s } =
      .error .loopNesting := by
    rw [scalarSlots, scalarSlot]
    dsimp only
    rw [if_pos (show 4 ≤ (Slots.levels { st := s } c).length from full)]
  rw [arm, execLoopBegin]
  rw [if_pos wf, State.issueBundle_faults ready rfl (fun o ho => nomatch ho) same rfl slots]
  refine ⟨_, rfl, ?_⟩
  show ((s.coreFault c _ _ _).core c).loops = _ ∧ ((s.coreFault c _ _ _).core c).bundleCount = _ ∧ _
  rw [State.coreFault_core_same]
  exact ⟨rfl, rfl, s.coreFault_stops _ _ (by simp) own running⟩

/-- Settles O7. -/
theorem loopBeginEntersOrSkips : Obligations.LoopBeginEntersOrSkips := by
  unfold Obligations.LoopBeginEntersOrSkips
  exact ⟨fun c f s u n => ⟨loopBegin_issues c f s u n, loopBegin_odd c f s⟩, loopBegin_nests⟩

/-! ### O8: the other scalar slots, SEED_SET and STEP_SET -/

theorem swait_issues (c : CoreId) (s : State) (w : FlagWait) (alone : IssuesAlone s c (scalarBundle [.swait w]))
    (valid : flagWaitOk c w.flag = true) (free : (s.core c).stopCount = 0) :
    Gives (.swait c w) s (fun t => (t.core c).scalar = .swait w ∧
      (t.core c).bundleCount = (s.core c).bundleCount + 1 ∧ t.mem = s.mem) := by
  have arm : exec (.swait c w) s = execSwait c w s := rfl
  obtain ⟨x, own, -⟩ := State.ctxOfCore_of_canIssue alone.1
  have slot : scalarSlot c ((s.core c).offset + 6) { st := s } (.swait w) = .ok { st := s, wait := some w } := by
    unfold scalarSlot
    exact if_pos valid
  rw [Gives, arm, execSwait, State.issueBundle_scalar alone own (scalarSlots_one slot)]
  exact ⟨_, rfl, s.issued_waits c x _ _ _ rfl free, s.issued_count c x _ _ _, (s.issued_device c x _ _ _).1⟩

theorem Core.setSreg_sreg (u : Core) (r q : Nat) (v : Word64) :
    (u.setSreg r v).sreg q = if q % 32 = r % 32 then v else u.sreg q := by
  unfold Core.sreg Core.setSreg
  split
  · next same => rw [same, sget_sset_same]
  · next other => rw [sget_sset_other _ _ _ other]

theorem scalarLoad_issues (c : CoreId) (s : State) (f : ScalarMemF) (u : State) (bs : List Byte)
    (alone : IssuesAlone s c (scalarBundle [.mem f])) (load : f.store = false) (read : s.scalarLoad c f.loc 8 = .ok (u, bs)) :
    Gives (.scalarLoadStore c f) s (fun t => (t.core c).sreg f.reg = BitVec.ofNat 64 (leNat bs) ∧
      (∀ r, r % 32 ≠ f.reg % 32 → (t.core c).sreg r = (s.core c).sreg r) ∧ t.mem = u.mem) := by
  have arm : exec (.scalarLoadStore c f) s = execScalarLoadStore c f s := rfl
  obtain ⟨x, own, -⟩ := State.ctxOfCore_of_canIssue alone.1
  obtain ⟨⟨_, _, core⟩, -⟩ : DataOnly c s u := State.scalarLoad_dataOnly read
  let z : Slots := { st := u.modCore c (fun v => v.setSreg f.reg (BitVec.ofNat 64 (leNat bs))) }
  have slot : scalarSlot c ((s.core c).offset + 6) { st := s } (.mem f) = .ok z := by
    unfold scalarSlot
    dsimp only
    rw [load, read]
    rfl
  have shows (r : Nat) : ((s.issued c x (scalarBundle [.mem f]) z (s.core c)).core c).sreg r =
      if r % 32 = f.reg % 32 then BitVec.ofNat 64 (leNat bs) else (s.core c).sreg r := by
    have set : z.st.core c = (u.core c).setSreg f.reg (BitVec.ofNat 64 (leNat bs)) := State.modCore_core_same _ _ _
    have kept : (u.core c).sreg r = (s.core c).sreg r := by
      rw [core]
      rfl
    rw [Core.sreg, (s.issued_issueOnly c x _ z _).keeps.1, ← Core.sreg, set, Core.setSreg_sreg, kept]
  rw [Gives, arm, execScalarLoadStore, State.issueBundle_scalar alone own (scalarSlots_one slot)]
  refine ⟨_, rfl, (shows _).trans (if_pos rfl), fun r other => (shows r).trans (if_neg other), ?_⟩
  exact (s.issued_device c x _ _ _).1

theorem scalarStore_issues (c : CoreId) (s : State) (f : ScalarMemF) (u : State)
    (alone : IssuesAlone s c (scalarBundle [.mem f])) (store : f.store = true)
    (write : s.scalarStore c f.loc (leBytes 8 ((s.core c).sreg f.reg).toNat) = .ok u) :
    Gives (.scalarLoadStore c f) s (fun t => t.mem = u.mem ∧ (t.core c).dm = (u.core c).dm ∧
      (t.core c).sregs = (s.core c).sregs ∧ (t.cluster (clusterOf c)).cm = (u.cluster (clusterOf c)).cm) := by
  have arm : exec (.scalarLoadStore c f) s = execScalarLoadStore c f s := rfl
  obtain ⟨x, own, -⟩ := State.ctxOfCore_of_canIssue alone.1
  obtain ⟨⟨_, _, core⟩, -⟩ : DataOnly c s u := State.scalarStore_dataOnly write
  have slot : scalarSlot c ((s.core c).offset + 6) { st := s } (.mem f) = .ok { st := u } := by
    unfold scalarSlot
    dsimp only
    rw [store, write]
    rfl
  rw [Gives, arm, execScalarLoadStore, State.issueBundle_scalar alone own (scalarSlots_one slot)]
  obtain ⟨mem, clusters, -⟩ := s.issued_device c x (scalarBundle [.mem f]) { st := u } (s.core c)
  obtain ⟨sregs, dm⟩ := (s.issued_issueOnly c x (scalarBundle [.mem f]) { st := u } (s.core c)).keeps
  refine ⟨_, rfl, mem, dm, sregs.trans ?_, ?_⟩
  · dsimp only
    rw [core]
  · rw [State.cluster_of_clusters clusters]

/-- The operation of a bundle with one goes last in its queue, with the seed and step number that hold with it. -/
theorem State.issued_one (s : State) (c x : Nat) (b : Bundle) (z : Slots) (hz : Core) {o : OpSlot} (one : bundleOps b = [o]) :
    ∃ e, ((s.issued c x b z hz).core c).queue o.op.queue = (z.st.core c).queue o.op.queue ++ [e] ∧ e.op = o.op ∧
      e.seed = ((z.st.ctx x).atIssue o).seed ∧ e.stepNo = ((z.st.ctx x).atIssue o).stepNo := by
  unfold State.issued
  rw [one]
  extract_lets u0 after ctx t _ u1 u2 count ls lo stop sc
  rw [State.setCore_core_same]
  have held (v : Core) (q : QueueId) (l : List QEntry) : (v.setQueue q l).queue q = l := by cases q <;> rfl
  have same : u1.queue o.op.queue = (z.st.core c).queue o.op.queue := by cases o.op.queue <;> rfl
  have last : ∃ e, u2.queue o.op.queue = u1.queue o.op.queue ++ [e] ∧ e.op = o.op ∧ e.seed = ctx.seed ∧ e.stepNo = ctx.stepNo :=
    ⟨_, held _ _ _, rfl, rfl, rfl⟩
  obtain ⟨e, queue, op, seed, stepNo⟩ := last
  refine ⟨e, ?_, op, seed, stepNo⟩
  rw [← same, ← queue]
  cases o.op.queue <;> rfl

/-- A SEED_SET or STEP_SET alone in its bundle issues at once. -/
theorem State.issueBundle_sync {s : State} {c x : Nat} {o : SyncOp} (alone : IssuesAlone s c (syncBundle o))
    (own : s.ctxOfCore c = some x) (room : (s.core c).syncQ.length < 16) (valid : slotRefusal c ⟨.sync o, none, none⟩ = none)
    (tiles : opSlots (.sync o) = []) : ∃ hz, s.issueBundle c (syncBundle o) = s.issued c x (syncBundle o) { st := s } hz := by
  obtain ⟨ready, same⟩ := ReadyWords.of_alone alone
  have clear : (s.core c).hazards (bundleOps (syncBundle o)) = .ok ((s.core c).named ⟨.sync o, none, none⟩) := by
    have free : (s.core c).conflict ⟨.sync o, none, none⟩ = none := by
      rw [Core.conflict, tiles]
      rfl
    show Core.hazards _ [_] = _
    rw [Core.hazards, free]
    rfl
  refine ⟨_, State.issueBundle_issues ready own ?_ ?_ same clear rfl⟩
  · have fits : decide ((s.core c).syncQ.length < 16) = true := decide_eq_true room
    show (List.all [_] _) = true
    rw [List.all_cons, List.all_nil, Bool.and_true]
    exact fits
  · intro p member
    obtain rfl : p = ⟨.sync o, none, none⟩ := List.mem_singleton.mp member
    exact valid

theorem seedSet_issues (c : CoreId) (s : State) (x : Nat) (own : s.ctxOfCore c = some x) (v : Word64)
    (alone : IssuesAlone s c (syncBundle (.seedSet v))) (room : (s.core c).syncQ.length < 16) :
    Gives (.seedSet c v) s (fun t => (t.ctx x).seed = v ∧ (t.ctx x).stepNo = (s.ctx x).stepNo ∧
      (∀ e ∈ (t.core c).syncQ.getLast?, e.op = .sync (.seedSet v) ∧ e.seed = v) ∧
      (t.core c).bundleCount = (s.core c).bundleCount + 1) := by
  have arm : exec (.seedSet c v) s = execSeedSet c v s := rfl
  obtain ⟨hz, issued⟩ := State.issueBundle_sync alone own room rfl rfl
  obtain ⟨e, queue, op, seed, -⟩ := s.issued_one c x (syncBundle (.seedSet v)) { st := s } hz rfl
  have ctx := (s.issued_device c x (syncBundle (.seedSet v)) { st := s } hz).2.2
  rw [Gives, arm, execSeedSet, issued]
  refine ⟨_, rfl, ?_, ?_, fun d last => ?_, s.issued_count _ _ _ _ _⟩
  · rw [ctx]
    rfl
  · rw [ctx]
    rfl
  · rw [show ((s.issued c x (syncBundle (.seedSet v)) { st := s } hz).core c).syncQ = _ from queue, List.getLast?_concat] at last
    obtain rfl := Option.some.inj last
    exact ⟨op, seed⟩

theorem stepSet_issues (c : CoreId) (s : State) (x : Nat) (own : s.ctxOfCore c = some x) (v : Word32)
    (alone : IssuesAlone s c (syncBundle (.stepSet v))) (room : (s.core c).syncQ.length < 16) :
    Gives (.stepSet c v) s (fun t => (t.ctx x).stepNo = v ∧ (t.ctx x).seed = (s.ctx x).seed ∧
      (∀ e ∈ (t.core c).syncQ.getLast?, e.op = .sync (.stepSet v) ∧ e.stepNo = v) ∧
      (t.core c).bundleCount = (s.core c).bundleCount + 1) := by
  have arm : exec (.stepSet c v) s = execStepSet c v s := rfl
  obtain ⟨hz, issued⟩ := State.issueBundle_sync alone own room rfl rfl
  obtain ⟨e, queue, op, -, stepNo⟩ := s.issued_one c x (syncBundle (.stepSet v)) { st := s } hz rfl
  have ctx := (s.issued_device c x (syncBundle (.stepSet v)) { st := s } hz).2.2
  rw [Gives, arm, execStepSet, issued]
  refine ⟨_, rfl, ?_, ?_, fun d last => ?_, s.issued_count _ _ _ _ _⟩
  · rw [ctx]
    rfl
  · rw [ctx]
    rfl
  · rw [show ((s.issued c x (syncBundle (.stepSet v)) { st := s } hz).core c).syncQ = _ from queue, List.getLast?_concat] at last
    obtain rfl := Option.some.inj last
    exact ⟨op, stepNo⟩

/-- Settles O8. -/
theorem scalarSlotsAct : Obligations.ScalarSlotsAct := by
  unfold Obligations.ScalarSlotsAct
  exact ⟨fun c s => ⟨swait_issues c s, scalarLoad_issues c s, scalarStore_issues c s⟩,
    fun c s x own => ⟨seedSet_issues c s x own, stepSet_issues c s x own⟩⟩

end Sys2Proof.Machine
end
section
/-! PROOFS. Queues, the stall monitor, flags and Glint: O9 to O14 (spec/03, spec/02, spec/12). -/

namespace Sys2Proof.Machine

/-! ### Flags (R69) -/

section
variable {s t u : State} {k j : Nat} {id other : BitVec 16}

/-- From s to t flags of cores and clusters changed, and clusters' overflow bits, and nothing else. -/
structure FlagsOnly (s t : State) : Prop where
  core : ∀ c, ∃ m, t.core c = { s.core c with flags := m }
  cluster : ∀ k, ∃ m o, t.cluster k = { s.cluster k with flags := m, flagOvf := o }
  rest : { t with cores := s.cores, clusters := s.clusters } = s

theorem FlagsOnly.refl (s : State) : FlagsOnly s s := ⟨fun _ => ⟨_, rfl⟩, fun _ => ⟨_, _, rfl⟩, rfl⟩

theorem FlagsOnly.trans (h : FlagsOnly s t) (k : FlagsOnly t u) : FlagsOnly s u := by
  refine ⟨fun c => ?_, fun j => ?_, ?_⟩
  · obtain ⟨_, a⟩ := h.core c
    obtain ⟨_, b⟩ := k.core c
    exact ⟨_, b.trans (by rw [a])⟩
  · obtain ⟨_, _, a⟩ := h.cluster j
    obtain ⟨_, _, b⟩ := k.cluster j
    exact ⟨_, _, b.trans (by rw [a])⟩
  · exact (congrArg (fun v : State => { v with cores := s.cores, clusters := s.clusters }) k.rest : _).trans h.rest

theorem FlagsOnly.mem (h : FlagsOnly s t) : t.mem = s.mem := (congrArg State.mem h.rest :)
theorem FlagsOnly.ctxs (h : FlagsOnly s t) : t.ctxs = s.ctxs := (congrArg State.ctxs h.rest :)

theorem FlagsOnly.modCluster (s : State) (k : Nat) {f : Cluster → Cluster} (flags : ∀ v, ∃ m o, f v = { v with flags := m, flagOvf := o }) :
    FlagsOnly s (s.modCluster k f) := by
  refine ⟨fun _ => ⟨_, rfl⟩, fun j => ?_, rfl⟩
  by_cases own : j = k
  · subst own
    rw [State.modCluster_cluster_same]
    exact flags _
  · rw [State.modCluster_cluster_other _ _ own]
    exact ⟨_, _, rfl⟩

theorem FlagsOnly.modCore (s : State) (c : Nat) (f : Core → Sparse Word32) :
    FlagsOnly s (s.modCore c (fun v => { v with flags := f v })) := by
  refine ⟨fun d => ?_, fun _ => ⟨_, _, rfl⟩, rfl⟩
  by_cases own : d = c
  · subst own
    rw [State.modCore_core_same]
    exact ⟨_, rfl⟩
  · rw [State.modCore_core_other _ _ own]
    exact ⟨_, rfl⟩

theorem State.setFlag_flagsOnly (s : State) (k : Nat) (id : BitVec 16) (v : Word32) : FlagsOnly s (s.setFlag k id v) := by
  unfold State.setFlag
  split
  · exact .modCluster s k fun _ => ⟨_, _, rfl⟩
  · exact .modCore s _ _

theorem State.addFlag_flagsOnly (s : State) (k : Nat) (id : BitVec 16) (n : Nat) : FlagsOnly s (s.addFlag k id n) := by
  unfold State.addFlag
  extract_lets v
  split
  · exact s.setFlag_flagsOnly k id _
  · exact (s.setFlag_flagsOnly k id _).trans (.modCluster _ k fun _ => ⟨_, _, rfl⟩)

theorem State.flag_setFlag_same (s : State) (k : Nat) (id : BitVec 16) (v : Word32) : (s.setFlag k id v).flag k id = v := by
  unfold State.setFlag State.flag
  by_cases kind : flagIsCluster id = true
  · rw [if_pos kind, if_pos kind, State.modCluster_cluster_same, sget_sset_same]
  · rw [if_neg kind, if_neg kind, State.modCore_core_same, sget_sset_same]

/-- Two flag numbers with the same core, kind and place are the same. -/
theorem flagId_ext (valid : flagIdOk id = true) (valid' : flagIdOk other = true) (kind : flagIsCluster other = flagIsCluster id)
    (core : flagCore other = flagCore id) (index : flagIndex other = flagIndex id) : other = id := by
  simp only [flagIdOk, flagIsCluster, flagCore, flagIndex, bitsOf, bitOf, Bool.and_eq_true, beq_iff_eq, decide_eq_decide] at *
  obtain ⟨gap, -⟩ := valid
  obtain ⟨gap', -⟩ := valid'
  have small := id.isLt
  have small' := other.isLt
  refine BitVec.eq_of_toNat_eq ?_
  omega

/-- A write of one flag leaves every other. -/
theorem State.flag_setFlag_other (s : State) (v : Word32) (valid : flagIdOk id = true) (valid' : flagIdOk other = true)
    (apart : ¬(other = id ∧ j = k)) : (s.setFlag k id v).flag j other = s.flag j other := by
  unfold State.setFlag State.flag
  by_cases kind : flagIsCluster id = true <;> by_cases kind' : flagIsCluster other = true
  · rw [if_pos kind, if_pos kind', if_pos kind']
    by_cases own : j = k
    · subst own
      rw [State.modCluster_cluster_same]
      refine sget_sset_other _ _ _ fun index => apart ⟨?_, rfl⟩
      have core (i : BitVec 16) (ok : flagIdOk i = true) (here : flagIsCluster i = true) : flagCore i = 0 := by
        rw [flagIdOk, if_pos here, Bool.and_eq_true, beq_iff_eq, beq_iff_eq] at ok
        exact ok.2
      exact flagId_ext valid valid' (kind'.trans kind.symm) ((core _ valid' kind').trans (core _ valid kind).symm) index
    · rw [State.modCluster_cluster_other _ _ own]
  · rw [if_pos kind, if_neg kind', if_neg kind', State.modCluster_core]
  · rw [if_neg kind, if_pos kind', if_pos kind', State.modCore_cluster]
  · rw [if_neg kind, if_neg kind', if_neg kind']
    by_cases own : 16 * j + flagCore other = 16 * k + flagCore id
    · rw [own, State.modCore_core_same]
      have low (i : BitVec 16) : flagCore i < 16 := Nat.mod_lt _ (by decide)
      have := low id
      have := low other
      refine sget_sset_other _ _ _ fun index => apart ⟨flagId_ext valid valid' ?_ (by omega) index, by omega⟩
      rw [Bool.eq_false_iff.mpr kind, Bool.eq_false_iff.mpr kind']
    · rw [State.modCore_core_other _ _ own]

theorem State.flag_setFlagOvf (s : State) (k : Nat) (id : BitVec 16) (j : Nat) (other : BitVec 16) :
    (s.setFlagOvf k id).flag j other = s.flag j other := by
  unfold State.flag State.setFlagOvf
  split
  · by_cases own : j = k
    · subst own
      rw [State.modCluster_cluster_same]
    · rw [State.modCluster_cluster_other _ _ own]
  · rw [State.modCluster_core]

theorem State.flag_addFlag_same (s : State) (k : Nat) (id : BitVec 16) (n : Nat) :
    ((s.addFlag k id n).flag k id).toNat = min ((s.flag k id).toNat + n) 0xFFFFFFFF := by
  unfold State.addFlag
  extract_lets v
  split
  · next fits =>
    rw [State.flag_setFlag_same, BitVec.toNat_ofNat, Nat.mod_eq_of_lt fits, Nat.min_eq_left (by omega)]
  · next full =>
    rw [State.flag_setFlagOvf, State.flag_setFlag_same, Nat.min_eq_right (by omega)]
    rfl

theorem State.flag_addFlag_other (s : State) (n : Nat) (valid : flagIdOk id = true) (valid' : flagIdOk other = true)
    (apart : ¬(other = id ∧ j = k)) : (s.addFlag k id n).flag j other = s.flag j other := by
  unfold State.addFlag
  extract_lets v
  split
  · exact s.flag_setFlag_other _ valid valid' apart
  · rw [State.flag_setFlagOvf]
    exact s.flag_setFlag_other _ valid valid' apart

/-- Where no PERMUTE collective runs, no flag moves a collective on. -/
theorem State.flagsMoved_none (h : ∀ z ∈ (s.cluster k).colls, (s.collDesc z.ctx z.f.desc).map (·.op) ≠ some 4) :
    s.flagsMoved k = s := by
  unfold State.flagsMoved
  generalize (s.cluster k).colls = l at h
  induction l with
  | nil => rfl
  | cons z l ih =>
    rw [List.foldl_cons, if_neg (h z List.mem_cons_self)]
    exact ih fun y hy => h y (List.mem_cons_of_mem _ hy)

theorem FlagsOnly.flagsMoved (h : FlagsOnly s t) (still : ∀ z ∈ (s.cluster k).colls, (s.collDesc z.ctx z.f.desc).map (·.op) ≠ some 4) :
    t.flagsMoved k = t := by
  refine State.flagsMoved_none ?_
  obtain ⟨_, _, cluster⟩ := h.cluster k
  rw [cluster]
  intro z hz
  rw [State.collDesc, State.ctx_of_ctxs h.ctxs]
  exact still z hz

end

/-! ### O9: the start of an operation (R63 to R65) -/

section
variable {s : State} {c : Nat} {q : QueueId} {e : QEntry} {rest : List QEntry}

theorem State.noteRefused_core (s : State) (o : Op) (st : Status) (c : Nat) : (s.noteRefused o st).core c = s.core c := by
  unfold State.noteRefused
  split <;> rfl

theorem State.noteRefused_rest (s : State) (o : Op) (st : Status) :
    (s.noteRefused o st).ctxs = s.ctxs ∧ (s.noteRefused o st).ras = s.ras ∧ (s.noteRefused o st).mem = s.mem := by
  unfold State.noteRefused
  split <;> exact ⟨rfl, rfl, rfl⟩

theorem State.noteStart_core (s : State) (c : Nat) (e : QEntry) (d : Nat) :
    (s.noteStart c e).core d = s.core d ∧ (s.noteStart c e).mem = s.mem := by
  unfold State.noteStart
  split <;> exact ⟨rfl, rfl⟩

/-- A core whose operation has left queue q. -/
def Core.taken (u : Core) (q : QueueId) (rest : List QEntry) : Core :=
  { u.setQueue q rest with stallReported := false, stallDue := none }

theorem Core.taken_queue (u : Core) (q p : QueueId) (rest : List QEntry) :
    (u.taken q rest).queue p = (if p = q then rest else u.queue p) := by
  cases p <;> cases q <;> rfl

theorem Core.taken_rest (u : Core) (q : QueueId) (rest : List QEntry) :
    (∀ p, (u.taken q rest).inFlight p = u.inFlight p) ∧ (u.taken q rest).sregs = u.sregs ∧ (u.taken q rest).scalar = u.scalar := by
  refine ⟨fun p => ?_, ?_, ?_⟩
  · cases p <;> cases q <;> rfl
  · cases q <;> rfl
  · cases q <;> rfl

theorem Core.setInFlight_rest (u : Core) (q : QueueId) (l : List QEntry) :
    (u.setInFlight q l).sregs = u.sregs ∧ (u.setInFlight q l).stallReported = u.stallReported := by
  cases q <;> exact ⟨rfl, rfl⟩

/-- An operation that its engine does not refuse goes from its queue into flight. -/
theorem State.opStart_starts (head : (s.core c).queue q = e :: rest) (may : s.canStart c q e = true)
    (valid : (s.core c).engineClear q = true → e.resumedUpdate = false → opCheck s c e.op = none) :
    s.opStart c q = ((s.modCore c (fun u => u.taken q rest)).modCore c (fun u => u.setInFlight q (u.inFlight q ++ [e]))).noteStart c e := by
  have unrefused : (if (s.core c).engineClear q && !e.resumedUpdate then opCheck s c e.op else none) = none := by
    split
    · next clear =>
      rw [Bool.and_eq_true, Bool.not_eq_true'] at clear
      exact valid clear.1 clear.2
    · rfl
  rw [State.opStart, head]
  dsimp only
  rw [if_pos may, State.startHead, unrefused]
  rfl

/-- A refused operation leaves its queue and is no more. -/
theorem State.opStart_refused (head : (s.core c).queue q = e :: rest) (may : s.canStart c q e = true)
    (clear : (s.core c).engineClear q = true) (fresh : e.resumedUpdate = false) {st : Status} (refused : opCheck s c e.op = some st) :
    s.opStart c q = ((s.modCore c (fun u => u.taken q rest)).noteRefused e.op st).opRefused c (queueCode q) e.pos st := by
  have turned : (if (s.core c).engineClear q && !e.resumedUpdate then opCheck s c e.op else none) = some st := by
    rw [clear, fresh]
    exact refused
  rw [State.opStart, head]
  dsimp only
  rw [if_pos may, State.startHead, turned]
  rfl

end

/-- Settles O9. -/
theorem headOfQueueStartsOrWaits : Obligations.HeadOfQueueStartsOrWaits := by
  unfold Obligations.HeadOfQueueStartsOrWaits
  refine ⟨fun c q s e rest head may => ⟨fun valid => ?_, fun st clear fresh refused => ?_⟩, fun c q s e rest w head wait low => ?_⟩
  all_goals have arm : exec (.operationStart c q) s = execOperationStart c q s := rfl
  · obtain ⟨inFlight, sregs, -⟩ := Core.taken_rest (s.core c) q rest
    have core (u : Core) : (u.setInFlight q (u.inFlight q ++ [e])).sregs = u.sregs ∧
      (u.setInFlight q (u.inFlight q ++ [e])).stallReported = u.stallReported := u.setInFlight_rest q _
    rw [Gives, arm, execOperationStart, State.opStart_starts head may valid]
    refine ⟨_, rfl, ?_⟩
    rw [(State.noteStart_core _ c e c).1, (State.noteStart_core _ c e c).2, State.modCore_core_same, State.modCore_core_same]
    refine ⟨?_, ?_, (core _).2.trans rfl, fun p apart => ⟨?_, ?_⟩, (core _).1.trans sregs, rfl⟩
    · rw [Core.queue_setInFlight, Core.taken_queue, if_pos rfl]
    · rw [Core.inFlight_setInFlight, if_pos rfl, inFlight]
    · rw [Core.queue_setInFlight, Core.taken_queue, if_neg apart]
    · rw [Core.inFlight_setInFlight, if_neg apart, inFlight]
  · obtain ⟨inFlight, -, scalar⟩ := Core.taken_rest (s.core c) q rest
    obtain ⟨ctxs, ras, mem⟩ := State.noteRefused_rest (s.modCore c (fun u => u.taken q rest)) e.op st
    have core : ((s.modCore c (fun u => u.taken q rest)).noteRefused e.op st).core c = (s.core c).taken q rest := by
      rw [State.noteRefused_core, State.modCore_core_same]
    rw [Gives, arm, execOperationStart, State.opStart_refused head may clear fresh refused]
    refine ⟨_, rfl, (State.opRefused_refusedAt _ c _ _ st).of_before (by rw [core, scalar]) ctxs ras, ?_⟩
    unfold State.opRefused
    rw [State.coreFault_core_same, core]
    refine ⟨?_, ?_, (State.coreFault_mem _ _ _ _ _).trans mem⟩
    · exact (show _ = ((s.core c).taken q rest).queue q by cases q <;> rfl).trans
        (by rw [Core.taken_queue, if_pos rfl])
    · exact (show _ = ((s.core c).taken q rest).inFlight q by cases q <;> rfl).trans (inFlight q)
  · have unmet : s.waitMet (clusterOf c) w = false := by
      rw [State.waitMet, decide_eq_false_iff_not]
      omega
    have waits : s.canStart c q e = false := by
      unfold State.canStart
      rw [wait]
      dsimp only
      rw [unmet]
      simp
    rw [arm, execOperationStart, State.opStart, head]
    dsimp only
    rw [if_neg (by rw [waits]; decide)]

/-! ### O10: the end of an operation (R64, R69) -/

section
variable {s : State} {c : Nat} {q : QueueId} {i : Nat} {e : QEntry} {r : Outc}

/-- What an operation's outcome brings once the operation has left its place (R64, R65). -/
def State.concluded (t : State) (c : Nat) (q : QueueId) (e : QEntry) : Outc → State
  | .done => t.signalled c e
  | .refused st => t.opRefused c (queueCode q) e.pos st
  | .faulted _ => t

theorem State.opEnd_ends (flies : ((s.core c).inFlight q)[i]? = some e) (turn : endOrder q i = true) (out : e.outcome = some r) :
    s.opEnd c q i = (s.modCore c (fun u => u.setInFlight q ((u.inFlight q).eraseIdx i))).concluded c q e r := by
  unfold State.opEnd
  rw [flies]
  dsimp only
  rw [turn, out]
  rfl

theorem Core.setInFlight_flags (u : Core) (q : QueueId) (l : List QEntry) : (u.setInFlight q l).flags = u.flags := by
  cases q <;> rfl

/-- An operation that leaves its place leaves the flags. -/
theorem State.flag_setInFlight (s : State) (c : Nat) (f : Core → Core) (h : ∀ u, (f u).flags = u.flags) (k : Nat) (id : BitVec 16) :
    (s.modCore c f).flag k id = s.flag k id := by
  unfold State.flag
  split
  · rw [State.modCore_cluster]
  · by_cases own : 16 * k + flagCore id = c
    · rw [own, State.modCore_core_same, h]
    · rw [State.modCore_core_other _ _ own]

theorem State.flag_opRefused (s : State) (c p pos : Nat) (st : Status) (k : Nat) (id : BitVec 16) :
    (s.opRefused c p pos st).flag k id = s.flag k id := by
  unfold State.opRefused State.coreFault State.flag
  dsimp only
  rw [State.contained_cluster, State.contained_core, State.modCore_cluster]
  by_cases own : 16 * k + flagCore id = c
  · rw [own, State.modCore_core_same]
  · rw [State.modCore_core_other _ _ own]

/-- From s to t nothing of core c's registers and places in flight changed. -/
structure PlacesKept (c : Nat) (s t : State) : Prop where
  inFlight : ∀ q, (t.core c).inFlight q = (s.core c).inFlight q
  sregs : (t.core c).sregs = (s.core c).sregs
  mem : t.mem = s.mem

theorem FlagsOnly.placesKept {s t : State} (h : FlagsOnly s t) (c : Nat) : PlacesKept c s t := by
  obtain ⟨_, core⟩ := h.core c
  refine ⟨fun q => ?_, by rw [core], h.mem⟩
  rw [core]
  cases q <;> rfl

theorem State.opRefused_placesKept (s : State) (c p pos : Nat) (st : Status) : PlacesKept c s (s.opRefused c p pos st) := by
  unfold State.opRefused
  refine ⟨fun q => ?_, ?_, State.coreFault_mem _ _ _ _ _⟩
  · rw [State.coreFault_core_same]
    cases q <;> rfl
  · rw [State.coreFault_core_same]

variable {t : State}

theorem State.signalled_flagsOnly (still : ∀ z ∈ (t.cluster (clusterOf c)).colls, (t.collDesc z.ctx z.f.desc).map (·.op) ≠ some 4) :
    FlagsOnly t (t.signalled c e) ∧ ∀ g, e.signal = some g → t.signalled c e = t.addFlag (clusterOf c) g.flag g.inc := by
  unfold State.signalled
  cases e.signal with
  | none => exact ⟨.refl t, fun g signal => nomatch signal⟩
  | some g =>
    dsimp only
    rw [(t.addFlag_flagsOnly _ _ _).flagsMoved still]
    refine ⟨t.addFlag_flagsOnly _ _ _, fun h signal => ?_⟩
    obtain rfl := Option.some.inj signal
    rfl

theorem State.concluded_placesKept (still : ∀ z ∈ (t.cluster (clusterOf c)).colls, (t.collDesc z.ctx z.f.desc).map (·.op) ≠ some 4) :
    PlacesKept c t (t.concluded c q e r) := by
  cases r with
  | done => exact (State.signalled_flagsOnly still).1.placesKept c
  | refused st => exact t.opRefused_placesKept _ _ _ _
  | faulted a => exact ⟨fun _ => rfl, rfl, rfl⟩

/-- Only an operation that ended done, and has a signal, changes a flag. -/
theorem State.flag_concluded_silent (silent : r ≠ .done ∨ e.signal = none) (k : Nat) (id : BitVec 16) :
    (t.concluded c q e r).flag k id = t.flag k id := by
  cases r with
  | done =>
    have unsigned := silent.resolve_left (absurd rfl)
    show (t.signalled c e).flag k id = _
    rw [State.signalled, unsigned]
  | refused st => exact t.flag_opRefused _ _ _ _ _ _
  | faulted a => rfl

end

/-- Settles O10. -/
theorem operationEndSignals : Obligations.OperationEndSignals := by
  unfold Obligations.OperationEndSignals
  intro c q i s e r flies turn out still
  have arm : exec (.operationEnd c q i) s = execOperationEnd c q i s := rfl
  have flag (k : Nat) (id : BitVec 16) : (s.modCore c (fun u => u.setInFlight q ((u.inFlight q).eraseIdx i))).flag k id = s.flag k id :=
    s.flag_setInFlight c _ (fun u => u.setInFlight_flags q _) k id
  have core : (s.modCore c (fun u => u.setInFlight q ((u.inFlight q).eraseIdx i))).core c =
    (s.core c).setInFlight q (((s.core c).inFlight q).eraseIdx i) := State.modCore_core_same _ _ _
  have quiet : ∀ z ∈ ((s.modCore c (fun u => u.setInFlight q ((u.inFlight q).eraseIdx i))).cluster (clusterOf c)).colls,
    ((s.modCore c (fun u => u.setInFlight q ((u.inFlight q).eraseIdx i))).collDesc z.ctx z.f.desc).map (·.op) ≠ some 4 := still
  have mem : (s.modCore c (fun u => u.setInFlight q ((u.inFlight q).eraseIdx i))).mem = s.mem := rfl
  rw [Gives, arm, execOperationEnd, State.opEnd_ends flies turn out]
  generalize s.modCore c (fun u => u.setInFlight q ((u.inFlight q).eraseIdx i)) = t at *
  have kept := State.concluded_placesKept (e := e) (r := r) (q := q) quiet
  refine ⟨_, rfl, ?_, fun g signal valid done => ?_, fun silent k id => ?_, fun k id apart _ valid ok => ?_, ?_, kept.mem.trans mem⟩
  · rw [kept.inFlight, core, Core.inFlight_setInFlight, if_pos rfl]
  · subst done
    show ((t.signalled c e).flag _ _).toNat = _
    rw [(State.signalled_flagsOnly quiet).2 g signal, t.flag_addFlag_same, flag]
  · rw [State.flag_concluded_silent silent, flag]
  · by_cases silent : r ≠ .done ∨ e.signal = none
    · rw [State.flag_concluded_silent silent, flag]
    · obtain ⟨done, signal⟩ := not_or.mp silent
      obtain rfl := not_not.mp done
      obtain ⟨g, signal⟩ := Option.ne_none_iff_exists'.mp signal
      show (t.signalled c e).flag _ _ = _
      rw [(State.signalled_flagsOnly quiet).2 g signal]
      exact (t.flag_addFlag_other _ (ok g signal) valid (apart g signal)).trans (flag k id)
  · rw [kept.sregs, core, (Core.setInFlight_rest _ q _).1]

/-! ### O11: the stall monitor's report (R78, R79) -/

/-- A wake of a core whose cluster is not off. -/
theorem State.wakeCore_up {s : State} {c : Nat} (up : (s.cluster (clusterOf c)).power ≠ .off) :
    (∃ p d w, (s.wakeCore c).core c = { s.core c with power := p, dozeDue := d, pwrStat := w }) ∧
      (∀ d, d ≠ c → (s.wakeCore c).core d = s.core d) ∧ (∀ k, ((s.wakeCore c).cluster k).flags = (s.cluster k).flags) ∧
      (s.wakeCore c).ras = s.ras ∧ (s.wakeCore c).mem = s.mem := by
  unfold State.wakeCore State.wakeCluster
  rw [if_neg up]
  refine ⟨?_, fun d other => ?_, fun k => ?_, rfl, rfl⟩
  · rw [State.modCore_core_same, State.modCluster_core]
    unfold Core.awoken
    split
    · exact ⟨_, _, _, rfl⟩
    · split <;> exact ⟨_, _, _, rfl⟩
  · rw [State.modCore_core_other _ _ other, State.modCluster_core]
  · rw [State.modCore_cluster]
    by_cases own : k = clusterOf c
    · subst own
      rw [State.modCluster_cluster_same]
    · rw [State.modCluster_cluster_other _ _ own]

/-- The record, the wake and the latch of a report, before the notice to the sessions. -/
theorem State.reported_leaves {s : State} {c : Nat} (l : LogArgs) (up : (s.cluster (clusterOf c)).power ≠ .off) :
    let t := ((s.log l).wakeCore c).modCore c (fun u => { u with stallReported := true })
    s.ras.nextSeq < t.ras.nextSeq ∧
      (∃ p d w, t.core c = { s.core c with power := p, dozeDue := d, pwrStat := w, stallReported := true }) ∧
      (∀ d, d ≠ c → t.core d = s.core d) ∧ (∀ k, (t.cluster k).flags = (s.cluster k).flags) ∧ t.mem = s.mem := by
  obtain ⟨⟨p, d, w, core⟩, others, flags, ras, mem⟩ := State.wakeCore_up (s := s.log l) up
  refine ⟨?_, ⟨p, d, w, ?_⟩, fun d other => ?_, flags, mem⟩
  · show s.ras.nextSeq < ((s.log l).wakeCore c).ras.nextSeq
    rw [ras]
    exact s.log_nextSeq l
  · rw [State.modCore_core_same, core]
    rfl
  · rw [State.modCore_core_other _ _ other]
    exact others d other

/-- Settles O11. -/
theorem stallReportChangesNothingOfTheCore : Obligations.StallReportChangesNothingOfTheCore := by
  unfold Obligations.StallReportChangesNothingOfTheCore
  refine ⟨fun c s cycle passed on fresh up => ?_, fun c s reported => ?_⟩
  all_goals have arm : exec (.waitCycleSuspected c) s = execWaitCycleSuspected c s := rfl
  · rw [Gives, arm, execWaitCycleSuspected, State.stallReport, if_pos (by simp [cycle, passed, on, fresh])]
    extract_lets l body t
    have quiet (x : Nat) : (t.noticeCtx x 3 body).cores = t.cores ∧ (t.noticeCtx x 3 body).clusters = t.clusters ∧
      (t.noticeCtx x 3 body).ras = t.ras ∧ (t.noticeCtx x 3 body).mem = t.mem := ⟨rfl, rfl, rfl, rfl⟩
    have same : ∃ u, (match s.ctxOfCore c with | some x => t.noticeCtx x 3 body | none => t) = u ∧
        u.cores = t.cores ∧ u.clusters = t.clusters ∧ u.ras = t.ras ∧ u.mem = t.mem := by
      cases s.ctxOfCore c with
      | none => exact ⟨t, rfl, rfl, rfl, rfl, rfl⟩
      | some x => exact ⟨_, rfl, quiet x⟩
    obtain ⟨u, out, cores, clusters, ras, mem⟩ := same
    obtain ⟨later, ⟨p, d, w, core⟩, others, flags, kept⟩ := State.reported_leaves l up
    have core' (j : Nat) : u.core j = t.core j := State.core_of_cores cores j
    refine ⟨u, congrArg Host.Outcome.next out, by rw [ras]; exact later, ?_, ?_, fun j other => ?_, fun k id => ?_, mem.trans kept⟩
    · rw [core', core]
    · rw [core', core]
    · rw [core', others j other]
    · unfold State.flag
      split
      · rw [State.cluster_of_clusters clusters, flags]
      · rw [core']
        by_cases own : 16 * k + flagCore id = c
        · rw [own, core]
        · rw [others _ own]
  · rw [arm, execWaitCycleSuspected, State.stallReport, if_neg (by simp [reported])]

/-! ### O12: the end at a stop count and the arrival of a line (R59, R81, R82) -/

/-- A line that arrives where its core stalls for it. -/
theorem State.fetchArrives_mapped {s : State} {c line x pa : Nat} {seg : Nat × List Byte} (own : s.ctxOfCore c = some x)
    (program : s.segment c = some seg) (stall : (s.core c).scalar = .fetchStall line)
    (found : s.translate x .fetch .fetch (seg.1 + 256 * line) = .ok pa) :
    ∃ p, s.fetchArrives c line =
      s.modCore c (fun u => { u with fetched := insertLine u.fetched line, scalar := .running, prog := p }) := by
  refine ⟨{ (s.core c).prog with bad := (s.core c).prog.bad.filter (fun e => 8 * e.1 / 256 ≠ line) }, ?_⟩
  rw [State.fetchArrives, own, program, stall]
  dsimp only
  rw [if_neg (fun h => h rfl), found]
  rfl

/-- Settles O12. -/
theorem stopReachedAndFetchArrival : Obligations.StopReachedAndFetchArrival := by
  unfold Obligations.StopReachedAndFetchArrival
  refine ⟨fun x s running quiet halted => ?_, fun c line s x pa seg own program stall found => ?_⟩
  · have arm : exec (.stopReached x) s = execStopReached x s := rfl
    have ctx : (s.modCtx x (fun v => { v with state := .stopped, stopHalted := true })).ctx x =
      { s.ctx x with state := .stopped, stopHalted := true } := State.modCtx_ctx_same _ _ _
    rw [Gives, arm, execStopReached, State.stopReached, if_pos ⟨running, quiet, halted⟩]
    refine ⟨_, rfl, ?_, ?_, fun y other => ?_, fun _ => rfl, rfl⟩
    · exact (congrArg Ctx.state ctx : _)
    · exact (congrArg Ctx.stopHalted ctx : _)
    · exact (State.modCtx_ctx_other s (fun v => { v with state := .stopped, stopHalted := true }) other :)
  · have arm : exec (.fetchMiss c line) s = execFetchMiss c line s := rfl
    obtain ⟨p, arrived⟩ := State.fetchArrives_mapped own program stall found
    rw [Gives, arm, execFetchMiss, arrived]
    refine ⟨_, rfl, ?_⟩
    rw [State.modCore_core_same]
    exact ⟨List.mem_cons_self, rfl, rfl, rfl⟩

/-! ### O13: the flag operations (R69, R70) -/

section
variable {s t : State} {c : Nat} {o : Op} {r : Outc}

/-- A command whose checks pass does its effect and records its outcome. -/
theorem Gives.of_runOp {i : Instr} {check : Option Status} {eff : OpEnv → State → State × Outc} {P : State → Prop}
    (arm : exec i s = .next (s.runOp c o check eff)) (fly : InFlight s c o) (passes : check = none)
    (effect : eff (s.opEnv c o) s = (t, r)) (kept : (t.core c).inFlight o.queue = (s.core c).inFlight o.queue)
    (holds : Ended s (t.recordOutcome c o r) c o r → P (t.recordOutcome c o r)) : Gives i s P := by
  subst passes
  refine ⟨_, arm.trans ?_, holds ?_⟩
  · rw [State.runOp_none s c o eff (Core.behind_of_entryOf _ _ fly), effect]
  · rw [Ended, State.recordOutcome_inFlight, kept]

theorem State.flag_recordOutcome (s : State) (c : Nat) (o : Op) (r : Outc) (k : Nat) (id : BitVec 16) :
    (s.recordOutcome c o r).flag k id = s.flag k id :=
  s.flag_setInFlight c _ (fun u => u.setInFlight_flags _ _) k id

theorem Core.setInFlight_dm (u : Core) (q : QueueId) (l : List QEntry) : (u.setInFlight q l).dm = u.dm := by cases q <;> rfl

theorem State.recordOutcome_dm (s : State) (c : Nat) (o : Op) (r : Outc) :
    ((s.recordOutcome c o r).core c).dm = (s.core c).dm := by
  rw [State.recordOutcome, State.modCore_core_same, Core.setInFlight_dm]

/-- The overflow bit of a flag that FLAG_ADD finds too small, and none where the sum fits. -/
theorem State.addFlag_overflow (s : State) (k : Nat) (id : BitVec 16) (n : Nat) :
    (0xFFFFFFFF < (s.flag k id).toNat + n →
      bitOf (sget 0 ((s.addFlag k id n).cluster k).flagOvf (flagOvfWord id)).toNat (flagIndex id % 64) = true) ∧
    ((s.flag k id).toNat + n ≤ 0xFFFFFFFF → ((s.addFlag k id n).cluster k).flagOvf = (s.cluster k).flagOvf) := by
  unfold State.addFlag
  extract_lets v
  refine ⟨fun large => ?_, fun fits => ?_⟩
  · rw [if_neg (show ¬v < 2 ^ 32 by show ¬_ + n < 2 ^ 32; omega), State.setFlagOvf, State.modCluster_cluster_same, sget_sset_same]
    have small : flagIndex id % 64 < 64 := Nat.mod_lt _ (by decide)
    rw [bitOf_eq_testBit, BitVec.toNat_or, Nat.testBit_or, BitVec.toNat_ofNat,
      Nat.mod_eq_of_lt (Nat.pow_lt_pow_right (by decide) small), Nat.testBit_two_pow_self, Bool.or_true]
  · rw [if_pos (show v < 2 ^ 32 by show _ + n < 2 ^ 32; omega), State.setFlag]
    split
    · rw [State.modCluster_cluster_same]
    · rw [State.modCore_cluster]

end

theorem flagAdd_adds (c : CoreId) (flag : BitVec 16) (s : State) (valid : flagIdOk flag = true)
    (still : ∀ z ∈ (s.cluster (clusterOf c)).colls, (s.collDesc z.ctx z.f.desc).map (·.op) ≠ some 4) (n : Nat) (low : 1 ≤ n)
    (high : n ≤ 65535) (fly : InFlight s c (.sync (.flagAdd flag n))) :
    Gives (.flagAdd c flag n) s (fun t =>
      (t.flag (clusterOf c) flag).toNat = min ((s.flag (clusterOf c) flag).toNat + n) 0xFFFFFFFF ∧
      (0xFFFFFFFF < (s.flag (clusterOf c) flag).toNat + n →
        bitOf (sget 0 (t.cluster (clusterOf c)).flagOvf (flagOvfWord flag)).toNat (flagIndex flag % 64) = true) ∧
      ((s.flag (clusterOf c) flag).toNat + n ≤ 0xFFFFFFFF →
        (t.cluster (clusterOf c)).flagOvf = (s.cluster (clusterOf c)).flagOvf) ∧
      (∀ k id, flagIdOk id = true → (k, id) ≠ (clusterOf c, flag) → k < 16 → t.flag k id = s.flag k id) ∧
      Ended s t c (.sync (.flagAdd flag n)) .done ∧ t.mem = s.mem) := by
  have only := s.addFlag_flagsOnly (clusterOf c) flag n
  have passes : flagAddCheck n = none := by simp [flagAddCheck, firstFail, low, high]
  refine Gives.of_runOp (t := s.addFlag (clusterOf c) flag n) (r := .done) rfl fly passes (by rw [only.flagsMoved still])
    ((only.placesKept c).inFlight _) fun ended => ⟨?_, ?_, ?_, fun k id ok apart _ => ?_, ended, only.mem⟩
  · rw [State.flag_recordOutcome, State.flag_addFlag_same]
  · exact (s.addFlag_overflow _ _ _).1
  · exact (s.addFlag_overflow _ _ _).2
  · rw [State.flag_recordOutcome]
    exact s.flag_addFlag_other n valid ok fun ⟨hid, hk⟩ => apart (by rw [hid, hk])

theorem flagSet_sets (c : CoreId) (flag : BitVec 16) (s : State) (valid : flagIdOk flag = true)
    (still : ∀ z ∈ (s.cluster (clusterOf c)).colls, (s.collDesc z.ctx z.f.desc).map (·.op) ≠ some 4) (v : Word32)
    (fly : InFlight s c (.sync (.flagSet flag v))) :
    Gives (.flagSet c flag v) s (fun t => t.flag (clusterOf c) flag = v ∧
      (∀ k id, flagIdOk id = true → (k, id) ≠ (clusterOf c, flag) → k < 16 → t.flag k id = s.flag k id) ∧
      Ended s t c (.sync (.flagSet flag v)) .done ∧ t.mem = s.mem) := by
  have only := s.setFlag_flagsOnly (clusterOf c) flag v
  refine Gives.of_runOp (t := s.setFlag (clusterOf c) flag v) (r := .done) rfl fly rfl (by rw [only.flagsMoved still])
    ((only.placesKept c).inFlight _) fun ended => ⟨?_, fun k id ok apart _ => ?_, ended, only.mem⟩
  · rw [State.flag_recordOutcome, State.flag_setFlag_same]
  · rw [State.flag_recordOutcome]
    exact s.flag_setFlag_other v valid ok fun ⟨hid, hk⟩ => apart (by rw [hid, hk])

theorem flagWait_waits (c : CoreId) (flag : BitVec 16) (s : State) (v : Word32) :
    (v.toNat ≤ (s.flag (clusterOf c) flag).toNat →
      Gives (.flagWait c flag v) s (fun t => Ended s t c (.sync (.flagWait flag v)) .done ∧
        (∀ k id, t.flag k id = s.flag k id) ∧ t.mem = s.mem)) ∧
    ((s.flag (clusterOf c) flag).toNat < v.toNat → exec (.flagWait c flag v) s = .next s) := by
  have arm : exec (.flagWait c flag v) s = execFlagWait c flag v s := rfl
  rw [Gives, arm, execFlagWait, State.flagWaitOp]
  refine ⟨fun met => ?_, fun low => ?_⟩
  · rw [if_pos (show s.waitMet (clusterOf c) ⟨flag, v⟩ = true from decide_eq_true met)]
    exact ⟨_, rfl, s.recordOutcome_inFlight _ _ _, fun k id => s.flag_recordOutcome _ _ _ _ _, rfl⟩
  · rw [if_neg (by simp [State.waitMet]; omega)]

theorem mem_foldl_fresh {l acc : List Nat} {a : Nat}
    (h : a ∈ l.foldl (fun acc x => if acc.contains x then acc else acc ++ [x]) acc) : a ∈ acc ∨ a ∈ l := by
  induction l generalizing acc with
  | nil => exact .inl h
  | cons b l ih =>
    rw [List.foldl_cons] at h
    rcases ih h with h | h
    · split at h
      · exact .inl h
      · rcases List.mem_append.mp h with h | h
        · exact .inl h
        · exact .inr (List.mem_cons.mpr (.inl (List.mem_singleton.mp h)))
    · exact .inr (List.mem_cons_of_mem _ h)

theorem mem_dedupNat {l : List Nat} {a : Nat} (h : a ∈ dedupNat l) : a ∈ l :=
  (mem_foldl_fresh h).resolve_left List.not_mem_nil

/-- A word that gathered writes cover in part holds a byte of one of them. -/
theorem mem_partialWords {ws : List ByteWrite} {p : Nat × Nat} (h : p ∈ partialWords ws) : ∃ w ∈ ws, p = (8 * (w.addr / 8), 8) := by
  obtain ⟨a, ha, rfl⟩ := List.mem_map.mp h
  obtain ⟨w, hw, rfl⟩ := List.mem_map.mp (mem_dedupNat (List.mem_filter.mp ha).1)
  exact ⟨w, hw, rfl⟩

theorem byteWrites_addr {a : Nat} {bs : List Byte} {w : ByteWrite} (h : w ∈ byteWrites a bs) : a ≤ w.addr ∧ w.addr < a + bs.length := by
  obtain ⟨e, he, rfl⟩ := List.mem_map.mp h
  have := List.snd_lt_of_mem_zipIdx he
  dsimp only
  omega

theorem Sram.badIn_mono {m : Sram} {rs ps : List (Nat × Nat)} (h : ∀ r ∈ rs, r ∈ ps) {e : Nat × WordErr} (he : e ∈ m.badIn rs) :
    e ∈ m.badIn ps := by
  unfold Sram.badIn at he ⊢
  rw [List.mem_filterMap] at he ⊢
  obtain ⟨b, hb, k, kind, hit⟩ : ∃ b ∈ m.bad, ∃ k, b.2 = some k ∧
      (if rs.any (fun r => decide (r.1 < 8 * b.1 + 8 ∧ 8 * b.1 < r.1 + r.2)) then some (b.1, k) else none) = some e := by
    obtain ⟨b, hb, hit⟩ := he
    obtain ⟨k, kind, hit⟩ := Option.bind_eq_some_iff.mp hit
    exact ⟨b, hb, k, kind, hit⟩
  refine ⟨b, hb, Option.bind_eq_some_iff.mpr ⟨k, kind, ?_⟩⟩
  split at hit
  · next within =>
    obtain ⟨r, hr, inside⟩ := List.any_eq_true.mp within
    rw [if_pos (List.any_eq_true.mpr ⟨r, h r hr, inside⟩)]
    exact hit
  · cases hit

theorem Sram.settle_byte (m : Sram) (keeps : Bool) (rs : List (Nat × Nat)) (i : Nat) : (m.settle keeps rs).byte i = m.byte i := rfl

theorem State.dmSettle_byte (s : State) (c : Nat) (rs : List (Nat × Nat)) (i : Nat) :
    ((s.dmSettle c rs).core c).dm.byte i = (s.core c).dm.byte i := by
  unfold State.dmSettle
  extract_lets hit
  split
  · rfl
  · rw [State.modCore_core_same]
    rfl

theorem State.dmCommit_sameDevice (s : State) (c : Nat) (ws : List ByteWrite) : SameDevice s (s.dmCommit c ws) :=
  (s.dmSettle_sameDevice c _).trans (SameDevice.modCore _ c _)

/-- What a store into data memory leaves in it. -/
theorem State.dmCommit_byte (s : State) (c a : Nat) (bs : List Byte) (i : Nat) :
    ((s.dmCommit c (byteWrites a bs)).core c).dm.byte i =
      if a ≤ i ∧ i < a + bs.length then bs.getD (i - a) 0 else (s.core c).dm.byte i := by
  rw [State.dmCommit, State.modCore_core_same, ← s.dmSettle_byte c (partialWords (byteWrites a bs))]
  exact Sram.commit_byteWrites_byte _ _ _ _ _

theorem State.dmCommit_read (s : State) (c a : Nat) (bs : List Byte) :
    ((s.dmCommit c (byteWrites a bs)).core c).dm.read a bs.length = bs := by
  rw [State.dmCommit, State.modCore_core_same]
  exact (Sram.read_commit_byteWrites _ _ _ _ _ le_rfl).trans (List.take_length)

theorem State.storeDm_clean {s : State} {c a : Nat} {bs : List Byte}
    (clean : ∀ e ∈ (s.core c).dm.badIn (partialWords (byteWrites a bs)), e.2 ≠ .double) :
    s.storeDm c a bs = (s.dmCommit c (byteWrites a bs), .done) := by
  have whole : s.dmBroken c (partialWords (byteWrites a bs)) = none := by
    rw [State.dmBroken, Option.map_eq_none_iff, List.find?_eq_none]
    exact fun e he => by simpa using clean e he
  unfold State.storeDm
  extract_lets ws
  rw [whole]

theorem flagRead_writes (c : CoreId) (flag : BitVec 16) (s : State) (a : Nat) (fly : InFlight s c (.sync (.flagRead flag a)))
    (aligned : a % 4 = 0) (inside : a + 4 ≤ 65536) (clean : ∀ e ∈ (s.core c).dm.badIn [(a / 8 * 8, 8)], e.2 ≠ .double) :
    Gives (.flagRead c flag a) s (fun t =>
      (t.core c).dm.read a 4 = leBytes 4 (s.flag (clusterOf c) flag).toNat ∧
      (∀ b, b < a ∨ a + 4 ≤ b → (t.core c).dm.byte b = (s.core c).dm.byte b) ∧
      Ended s t c (.sync (.flagRead flag a)) .done ∧ t.mem = s.mem) := by
  have passes : flagReadCheck a = none := by simp [flagReadCheck, firstFail, dmSize, aligned, inside]
  have length : (leBytes 4 (s.flag (clusterOf c) flag).toNat).length = 4 := length_leBytes _ _
  have word : ∀ p ∈ partialWords (byteWrites a (leBytes 4 (s.flag (clusterOf c) flag).toNat)), p ∈ [(a / 8 * 8, 8)] := fun p hp => by
    obtain ⟨w, hw, rfl⟩ := mem_partialWords hp
    have := byteWrites_addr hw
    have : w.addr / 8 = a / 8 := by omega
    rw [this, Nat.mul_comm]
    exact List.mem_cons_self
  have only := s.dmCommit_dataOnly c (byteWrites a (leBytes 4 (s.flag (clusterOf c) flag).toNat))
  refine Gives.of_runOp rfl fly passes (State.storeDm_clean fun e he => clean e (Sram.badIn_mono word he)) (only.scalar.inFlight _)
    fun ended => ⟨?_, fun b outside => ?_, ended, (s.dmCommit_sameDevice c _).mem⟩
  · rw [State.recordOutcome_dm]
    exact (show _ = Sram.read _ a (leBytes 4 (s.flag (clusterOf c) flag).toNat).length by rw [length]).trans (s.dmCommit_read c a _)
  · rw [State.recordOutcome_dm, State.dmCommit_byte, length, if_neg (by omega)]

/-- Settles O13. -/
theorem flagOperationsAct : Obligations.FlagOperationsAct := by
  unfold Obligations.FlagOperationsAct
  exact ⟨fun c flag s valid still => ⟨flagAdd_adds c flag s valid still, flagSet_sets c flag s valid still⟩,
    fun c flag s => ⟨fun v _ => flagWait_waits c flag s v, flagRead_writes c flag s⟩⟩

/-! ### O14: Glint and BEACON_MARK (R51, R53, R55, R290) -/

theorem glintArm_arms (c : CoreId) (s : State) (f : GlintArmF) (fly : InFlight s c (.sync (.glintArm f)))
    (passes : glintArmCheck s c f = none) :
    Gives (.glintArm c f) s (fun t => Ended s t c (.sync (.glintArm f)) .done ∧ t.mem = s.mem ∧
      (let g := sget {} (t.cluster (clusterOf c)).glint f.slot
       g.armed = true ∧ g.tensorId = f.tensorId ∧ g.tap = f.tap ∧ g.format = f.format ∧ g.amax = 0 ∧ g.bins = [] ∧
         g.record = f.record) ∧
      (∀ i, i ≠ f.slot → sget {} (t.cluster (clusterOf c)).glint i = sget {} (s.cluster (clusterOf c)).glint i)) := by
  refine Gives.of_runOp rfl fly passes rfl rfl fun ended => ⟨ended, rfl, ?_, fun i other => ?_⟩
  · dsimp only
    rw [State.recordOutcome_cluster, State.modCluster_cluster_same, sget_sset_same]
    exact ⟨rfl, rfl, rfl, rfl, rfl, rfl, rfl⟩
  · rw [State.recordOutcome_cluster, State.modCluster_cluster_same, sget_sset_other _ _ _ other]

theorem glintClose_closes (c : CoreId) (s : State) (slot x : Nat) (u : State) (fly : InFlight s c (.sync (.glintClose slot)))
    (passes : glintCloseCheck s c slot = none) (own : s.ctxOfCore c = some x)
    (write : s.writeVa x .scalar (sget {} (s.cluster (clusterOf c)).glint slot).record
      ((sget {} (s.cluster (clusterOf c)).glint slot).toBytes (s.opEnv c (.sync (.glintClose slot))).stepNo) false = .ok u) :
    Gives (.glintClose c slot) s (fun t => Ended s t c (.sync (.glintClose slot)) .done ∧ t.mem = u.mem ∧
      (sget {} (t.cluster (clusterOf c)).glint slot).armed = false) := by
  have effect : s.glintClose c slot (s.opEnv c (.sync (.glintClose slot))).stepNo =
      (u.modCluster (clusterOf c) (fun v => { v with glint := sset {} v.glint slot (sget {} (s.cluster (clusterOf c)).glint slot).closed }),
        .done) := by
    unfold State.glintClose
    dsimp only
    rw [own]
    dsimp only
    rw [write]
  refine Gives.of_runOp rfl fly passes effect (by rw [State.modCluster_core, State.core_of_cores (State.writeVa_memOnly write).cores])
    fun ended => ⟨ended, rfl, ?_⟩
  rw [State.recordOutcome_cluster, State.modCluster_cluster_same, sget_sset_same]
  rfl

theorem glintScale_scales (c : CoreId) (s : State) (slot reg : Nat) (format : Byte) (f : Fmt)
    (fly : InFlight s c (.sync (.glintScale slot format reg))) (passes : glintScaleCheck s c slot format reg = none)
    (known : fmtOf format = some f) :
    Gives (.glintScale c slot format reg) s (fun t => Ended s t c (.sync (.glintScale slot format reg)) .done ∧
      (t.core c).sreg reg = (glintScaleCode (sget {} (s.cluster (clusterOf c)).glint slot) f).zeroExtend 64 ∧
      (∀ r, r % 32 ≠ reg % 32 → (t.core c).sreg r = (s.core c).sreg r) ∧ t.mem = s.mem) := by
  have low : reg < 32 := by
    unfold glintScaleCheck at passes
    rw [firstFail] at passes
    split at passes
    · cases passes
    · next valid => simp at valid; exact valid.2
  have set (u : Core) (v : Word64) : ({ u with sregs := sset 0 u.sregs reg v } : Core) = u.setSreg reg v := by
    rw [Core.setSreg, Nat.mod_eq_of_lt low]
  have core (v : Word64) (o : Op) : (((s.modCore c (fun u => u.setSreg reg v)).recordOutcome c o .done).core c).sregs =
      ((s.core c).setSreg reg v).sregs := by
    rw [State.recordOutcome, State.modCore_core_same, (Core.setInFlight_rest _ _ _).1, State.modCore_core_same]
  refine Gives.of_runOp (r := .done)
    (t := s.modCore c (fun u => u.setSreg reg ((glintScaleCode (sget {} (s.cluster (clusterOf c)).glint slot) f).zeroExtend 64)))
    rfl fly passes ?_ ?_ fun ended => ⟨ended, ?_, fun r other => ?_, rfl⟩
  · rw [known]
    exact congrArg (fun t => (s.modCore c t, Outc.done)) (funext fun u => set u _)
  · rw [State.modCore_core_same]
    rfl
  · rw [Core.sreg, core, ← Core.sreg, Core.setSreg_sreg, if_pos rfl]
  · rw [Core.sreg, core, ← Core.sreg, Core.setSreg_sreg, if_neg other]

theorem beaconMark_marks (c : CoreId) (s : State) (x : Nat) (fly : InFlight s c (.sync .beaconMark)) (own : s.ctxOfCore c = some x) :
    Gives (.beaconMark c) s (fun t => Ended s t c (.sync .beaconMark) .done ∧ (t.ctx x).nonfinite = true ∧
      (∀ y, y ≠ x → t.ctx y = s.ctx y) ∧ t.mem = s.mem) := by
  refine Gives.of_runOp (t := s.modCtx x (fun v => { v with nonfinite := true })) (r := .done) rfl fly rfl (by rw [own]) rfl
    fun ended => ⟨ended, ?_, fun y other => ?_, rfl⟩
  · rw [State.recordOutcome_ctx, State.modCtx_ctx_same]
  · rw [State.recordOutcome_ctx, State.modCtx_ctx_other _ _ other]

/-- Settles O14. -/
theorem glintSlotOperations : Obligations.GlintSlotOperations := by
  unfold Obligations.GlintSlotOperations
  exact fun c s => ⟨glintArm_arms c s, glintClose_closes c s, glintScale_scales c s, beaconMark_marks c s⟩

end Sys2Proof.Machine
end
section
/-! PROOFS. Integer vector operations on other integers than INT32 (R124; the refutations of O18 and O19). -/

namespace Sys2Proof.Machine

/-! ### Integer operations on other integers than INT32 (R124, Table 5-10) -/

/-- An INT8 element of the operand cache. -/
def int8At (offset : Nat) : VDesc := ⟨.oc, offset, 0x20#8, 1, 0, 0, .absent, 0, 0, 0⟩

/-- An IADD of r rows of n INT8 elements. -/
def int8Add (n r : Nat) : VBin := ⟨⟨n, r, 1, 0, none, .keep, .nearestEven, none, none⟩, int8At 0, int8At 64, int8At 128⟩

/-- Core 0 with that IADD in flight. -/
def State.adding (n r : Nat) : State :=
  State.reset.modCore 0 (fun u => { u with vectorF := [⟨.vec (.int .iadd (int8Add n r)), none, none, 1, 0, 0, [], 0, none⟩] })

/-- The check at the start lets INT8 operands pass. -/
theorem vectorCheck_int8 : vectorCheck (State.adding 1 1) 0 (.int .iadd (int8Add 1 1)) = none := by decide +kernel

theorem adding_inFlight : InFlight (State.adding 1 1) 0 (.vec (.int .iadd (int8Add 1 1))) := by decide +kernel

/-- The operations in flight at core 0 and the reason codes in the log that an outcome leaves. -/
def flyingAfter (o : Host.Outcome State Fault Refusal) : Nat × List Status :=
  match o with
  | .next t => ((t.core 0).vectorF.length, t.ras.log.map (·.status))
  | _ => (0, [])

/-- The operation's own check refuses them: its entry goes. -/
theorem flyingAfter_int8 : flyingAfter (exec (.iadd 0 (int8Add 1 1)) (State.adding 1 1)) = (0, [vecStatus 1]) := by decide +kernel

/-- Refutes O18: `vectorCheck` lets every integer format pass for the integer operations, while the commands themselves check for
INT32. An IADD of INT8 elements passes `vectorCheck` and is then refused. -/
theorem not_vectorOperationsEndDone : ¬ Obligations.VectorOperationsEndDone := by
  intro h
  obtain ⟨t, run, ended, -⟩ := h 0 (.int .iadd (int8Add 1 1)) (State.adding 1 1) adding_inFlight vectorCheck_int8
  have gone := flyingAfter_int8
  have arm : opRow 0 (.vec (.int .iadd (int8Add 1 1))) = .iadd 0 (int8Add 1 1) := rfl
  rw [arm] at run
  rw [run] at gone
  have one : ((t.core 0).inFlight .vector).length = 1 := (congrArg List.length ended).trans rfl
  exact absurd (one.symm.trans (congrArg Prod.fst gone)) (by decide)

/-- With an extent of 0 the check at the start finds an invalid extent, the operation's own check an invalid format first. -/
theorem vectorCheck_int8_empty : vectorCheck (State.adding 0 1) 0 (.int .iadd (int8Add 0 1)) = some (vecStatus 2) := by decide +kernel

theorem flyingAfter_int8_empty : flyingAfter (exec (.iadd 0 (int8Add 0 1)) (State.adding 0 1)) = (0, [vecStatus 1]) := by decide +kernel

/-- Refutes O19: an IADD of INT8 elements with an extent of 0 is refused with VEC_FORMAT, the first check of the operation itself,
and not with the reason code that `vectorCheck` gives. -/
theorem not_vectorOperationsFrame : ¬ Obligations.VectorOperationsFrame := by
  intro h
  obtain ⟨t, run, ⟨-, -, -, recorded⟩, -⟩ := h.2 0 (.int .iadd (int8Add 0 1)) (State.adding 0 1)
    ⟨.vec (.int .iadd (int8Add 0 1)), none, none, 1, 0, 0, [], 0, none⟩ (vecStatus 2) (by decide +kernel) vectorCheck_int8_empty
  obtain ⟨r, member, -, -, status, -⟩ := recorded (by decide)
  have reasons := flyingAfter_int8_empty
  have arm : opRow 0 (.vec (.int .iadd (int8Add 0 1))) = .iadd 0 (int8Add 0 1) := rfl
  rw [arm] at run
  rw [run] at reasons
  have all : t.ras.log.map (·.status) = [vecStatus 1] := congrArg Prod.snd reasons
  have only : r.status ∈ t.ras.log.map (·.status) := List.mem_map_of_mem member
  rw [all, status, List.mem_singleton] at only
  exact absurd only (by decide)

end Sys2Proof.Machine
end
section
/-! PROOFS. Matrix operations: O20 to O22 (spec/04_matrix_engine.md, spec/07_sparsity.md). -/

namespace Sys2Proof.Machine

/-! ### What matrix operations change (R91 to R112) -/

section
variable {c : Nat} {s t u : State}

theorem SameOthers.trans (h : SameOthers c s t) (k : SameOthers c t u) : SameOthers c s u :=
  ⟨fun d hd => (k.1 d hd).trans (h.1 d hd), fun j hj => (k.2 j hj).trans (h.2 j hj)⟩

theorem OnlyClusterMemory.trans {k : Nat} (h : OnlyClusterMemory k s t) (j : OnlyClusterMemory k t u) : OnlyClusterMemory k s u :=
  (congrArg (fun v : Cluster => { v with cm := (s.cluster k).cm, glint := (s.cluster k).glint, gltLate := (s.cluster k).gltLate, sramEcc := (s.cluster k).sramEcc }) j : _).trans h

/-- From s to t a matrix operation of core c changed what it may change. -/
structure MatOnly (c : Nat) (s t : State) : Prop where
  core : ∃ oc acc e f q p n, t.core c =
    { s.core c with oc := oc, acc := acc, sramEcc := e, mtxFlags := f, mtxQuant := q, sprStat := p, nprClass := n }
  cluster : OnlyClusterMemory (clusterOf c) s t
  others : SameOthers c s t
  device : SameDevice s t

theorem MatOnly.refl (c : Nat) (s : State) : MatOnly c s s :=
  ⟨⟨_, _, _, _, _, _, _, rfl⟩, rfl, ⟨fun _ _ => rfl, fun _ _ => rfl⟩, rfl⟩

theorem MatOnly.trans (h : MatOnly c s t) (k : MatOnly c t u) : MatOnly c s u := by
  refine ⟨?_, h.cluster.trans k.cluster, h.others.trans k.others, h.device.trans k.device⟩
  obtain ⟨_, _, _, _, _, _, _, a⟩ := h.core
  obtain ⟨_, _, _, _, _, _, _, b⟩ := k.core
  exact ⟨_, _, _, _, _, _, _, b.trans (by rw [a])⟩

theorem MatOnly.modCore (c : Nat) (s : State) {f : Core → Core} (core : ∃ oc acc e m q p n, f (s.core c) =
    { s.core c with oc := oc, acc := acc, sramEcc := e, mtxFlags := m, mtxQuant := q, sprStat := p, nprClass := n }) :
    MatOnly c s (s.modCore c f) where
  core := by rw [State.modCore_core_same]; exact core
  cluster := by rw [OnlyClusterMemory, State.modCore_cluster]
  others := ⟨fun _ h => State.modCore_core_other _ _ h, fun _ _ => rfl⟩
  device := SameDevice.modCore s c f

theorem MatOnly.modCluster (c : Nat) (s : State) {f : Cluster → Cluster}
    (cluster : ∀ v, ∃ m g l e, f v = { v with cm := m, glint := g, gltLate := l, sramEcc := e }) :
    MatOnly c s (s.modCluster (clusterOf c) f) where
  core := (MatOnly.refl c s).core
  cluster := by
    obtain ⟨_, _, _, _, h⟩ := cluster (s.cluster (clusterOf c))
    rw [OnlyClusterMemory, State.modCluster_cluster_same, h]
  others := ⟨fun _ _ => rfl, fun _ h => State.modCluster_cluster_other _ _ h⟩
  device := SameDevice.modCluster s _ f

theorem MatOnly.log (c : Nat) (s : State) (l : LogArgs) : MatOnly c s (s.log l) :=
  ⟨(MatOnly.refl c s).core, rfl, ⟨fun _ _ => rfl, fun _ _ => rfl⟩, SameDevice.log s l⟩

theorem MatOnly.logSram (c : Nat) (s : State) (block inst kind : Nat) (hit : List (Nat × WordErr)) :
    MatOnly c s (s.logSram block inst kind hit) :=
  foldl_keeps (MatOnly c s) _ _ _ (.refl c s) fun u _ keep => keep.trans (.log c u _)

theorem MatOnly.ocSettle (c : Nat) (s : State) (rs : List (Nat × Nat)) : MatOnly c s (s.ocSettle c rs) := by
  unfold State.ocSettle
  extract_lets hit
  split
  · exact .refl c s
  · refine MatOnly.trans ?_ (.logSram c _ _ _ _ _)
    exact .modCore c s ⟨_, _, _, _, _, _, _, rfl⟩

theorem MatOnly.cmSettle (c : Nat) (s : State) (rs : List (Nat × Nat)) : MatOnly c s (s.cmSettle (clusterOf c) rs) := by
  unfold State.cmSettle
  extract_lets hit
  split
  · exact .refl c s
  · refine MatOnly.trans ?_ (.logSram c _ _ _ _ _)
    exact .modCluster c s fun _ => ⟨_, _, _, _, rfl⟩

theorem MatOnly.ocCommit (c : Nat) (s : State) (ws : List ByteWrite) (dirty : List Nat) : MatOnly c s (s.ocCommit c ws dirty) :=
  (MatOnly.ocSettle c s _).trans (.modCore c _ ⟨_, _, _, _, _, _, _, rfl⟩)

theorem MatOnly.cmCommit (c : Nat) (s : State) (ws : List ByteWrite) (dirty : List Nat) :
    MatOnly c s (s.cmCommit (clusterOf c) ws dirty) :=
  (MatOnly.cmSettle c s _).trans (.modCluster c _ fun _ => ⟨_, _, _, _, rfl⟩)

theorem MatOnly.glintAdd (c : Nat) (s : State) (slot : Option Nat) (vals : List FVal) (a b : Nat) :
    MatOnly c s (s.glintAdd (clusterOf c) slot vals a b) := by
  unfold State.glintAdd
  split
  · exact .refl c s
  · extract_lets g h i
    split
    · exact .modCluster c s fun _ => ⟨_, _, _, _, rfl⟩
    · exact .modCluster c s fun _ => ⟨_, _, _, _, rfl⟩

/-! ### Accumulators -/

/-- From u to w a core changed in its accumulator memory alone. -/
def Core.AccOnly (u w : Core) : Prop := ∃ acc, w = { u with acc := acc }

theorem Core.AccOnly.refl (u : Core) : u.AccOnly u := ⟨_, rfl⟩

theorem Core.AccOnly.trans {u v w : Core} (h : u.AccOnly v) (k : v.AccOnly w) : u.AccOnly w := by
  obtain ⟨_, rfl⟩ := h
  obtain ⟨_, rfl⟩ := k
  exact ⟨_, rfl⟩

theorem Core.setSlot_accOnly (u : Core) (t : Nat) (v : AccSlot) : u.AccOnly (u.setSlot t v) := ⟨_, rfl⟩

theorem Core.setPoison_accOnly (u : Core) (tile : Nat) (m : TileMode) (p : Bool) : u.AccOnly (u.setPoison tile m p) := by
  unfold Core.setPoison
  extract_lets _ v
  split
  · exact (u.setSlot_accOnly _ _).trans (v.setSlot_accOnly _ _)
  · exact u.setSlot_accOnly _ _

theorem Core.setAccElem_accOnly (u : Core) (tile : Nat) (m : TileMode) (i j : Nat) (v : Word32 × Word32) :
    u.AccOnly (u.setAccElem tile m i j v) := by
  unfold Core.setAccElem
  extract_lets w
  split
  · exact (u.setSlot_accOnly _ _).trans (w.setSlot_accOnly _ _)
  · exact u.setSlot_accOnly _ _

theorem Core.setMode_accOnly (u : Core) (tile : Nat) (m : TileMode) : u.AccOnly (u.setMode tile m) := by
  unfold Core.setMode
  split
  · exact .refl u
  · refine foldl_keeps u.AccOnly _ _ _ ?_ fun v t keep => keep.trans (v.setSlot_accOnly _ _)
    unfold Core.breakTile
    split
    · exact u.setSlot_accOnly _ _
    · exact .refl u

theorem Core.slot_setSlot (u : Core) (t i : Nat) (v : AccSlot) : (u.setSlot t v).slot i = if i = t then v else u.slot i := by
  unfold Core.slot Core.setSlot
  split
  · next own => rw [own, sget_sset_same]
  · next other => rw [sget_sset_other _ _ _ other]

/-- From u to w no element and no mode of an accumulator changed, and no poison outside a tile. -/
def Core.TileRead (tile : Nat) (m : TileMode) (u w : Core) : Prop :=
  ∀ i, (w.slot i).elems = (u.slot i).elems ∧ (w.slot i).mode = (u.slot i).mode ∧ (i ∉ tileSlots tile m → (w.slot i).poison = (u.slot i).poison)

variable {tile : Nat} {m : TileMode} {v w x : Core}

theorem Core.TileRead.refl (u : Core) : u.TileRead tile m u := fun _ => ⟨rfl, rfl, fun _ => rfl⟩

theorem Core.TileRead.trans (h : Core.TileRead tile m v w) (k : Core.TileRead tile m w x) : Core.TileRead tile m v x :=
  fun i => ⟨(k i).1.trans (h i).1, (k i).2.1.trans (h i).2.1, fun out => ((k i).2.2 out).trans ((h i).2.2 out)⟩

theorem Core.TileRead.of_acc (h : Core.TileRead tile m v w) (acc : x.acc = w.acc) : Core.TileRead tile m v x := by
  unfold Core.TileRead Core.slot at *
  rw [acc]
  exact h

theorem Core.setSlot_tileRead (u : Core) {t : Nat} (member : t ∈ tileSlots tile m) {a : AccSlot} (elems : a.elems = (u.slot t).elems)
    (mode : a.mode = (u.slot t).mode) : Core.TileRead tile m u (u.setSlot t a) := by
  intro i
  rw [Core.slot_setSlot]
  split
  · next own =>
    subst own
    exact ⟨elems, mode, fun out => absurd member out⟩
  · exact ⟨rfl, rfl, fun _ => rfl⟩

theorem tile_mem_tileSlots (tile : Nat) (m : TileMode) : tile ∈ tileSlots tile m := by
  unfold tileSlots
  split <;> exact List.mem_cons_self

theorem next_mem_tileSlots (tile : Nat) : tile + 1 ∈ tileSlots tile .c := by simp [tileSlots]

theorem Core.setPoison_tileRead (u : Core) (tile : Nat) (m : TileMode) (p : Bool) : Core.TileRead tile m u (u.setPoison tile m p) := by
  unfold Core.setPoison
  extract_lets _ v
  have first : Core.TileRead tile m u v := u.setSlot_tileRead (tile_mem_tileSlots tile m) rfl rfl
  split
  · next comp =>
    subst comp
    exact first.trans (v.setSlot_tileRead (next_mem_tileSlots tile) rfl rfl)
  · exact first

/-- A core whose accumulators' check bits have been settled. -/
theorem foldl_settle_tileRead (l : List Nat) (inside : ∀ t ∈ l, t ∈ tileSlots tile m) (u : Core) (p : Nat → Bool) :
    u.AccOnly (l.foldl (fun v t => v.setSlot t ((v.slot t).settle p)) u) ∧
      Core.TileRead tile m u (l.foldl (fun v t => v.setSlot t ((v.slot t).settle p)) u) := by
  induction l generalizing u with
  | nil => exact ⟨.refl u, .refl u⟩
  | cons t l ih =>
    obtain ⟨acc, read⟩ := ih (fun b hb => inside b (List.mem_cons_of_mem _ hb)) (u.setSlot t ((u.slot t).settle p))
    exact ⟨(u.setSlot_accOnly _ _).trans acc, (u.setSlot_tileRead (a := (u.slot t).settle p) (inside t List.mem_cons_self) rfl rfl).trans read⟩

theorem Core.clearTile_accOnly (u : Core) (tile : Nat) (m : TileMode) : u.AccOnly (u.clearTile tile m) := by
  unfold Core.clearTile
  extract_lets _ v
  split
  · exact Core.AccOnly.trans (v := v) ⟨_, rfl⟩ (v.setSlot_accOnly _ _)
  · exact ⟨_, rfl⟩

theorem State.logSram_core (s : State) (block inst kind : Nat) (hit : List (Nat × WordErr)) (c : Nat) :
    (s.logSram block inst kind hit).core c = s.core c :=
  foldl_keeps (fun t : State => t.core c = s.core c) _ _ _ rfl fun _ _ keep => keep

theorem State.accSettle_cluster (s : State) (c tile : Nat) (m : TileMode) (p : Nat → Bool) (k : Nat) :
    (s.accSettle c tile m p).cluster k = s.cluster k := by
  unfold State.accSettle
  extract_lets hit poison
  split
  · rfl
  · rw [State.logSram_cluster, State.modCore_cluster]

/-- A read of a tile changes its check bits, its poison and the count of SRAM errors. -/
theorem State.accSettle_core (s : State) (c tile : Nat) (m : TileMode) (p : Nat → Bool) :
    (∃ acc e, (s.accSettle c tile m p).core c = { s.core c with acc := acc, sramEcc := e }) ∧
      Core.TileRead tile m (s.core c) ((s.accSettle c tile m p).core c) := by
  unfold State.accSettle
  extract_lets hit poison
  split
  · exact ⟨⟨_, _, rfl⟩, .refl _⟩
  · obtain ⟨settled, read⟩ := foldl_settle_tileRead (m := m) (tileSlots tile m) (fun _ h => h) (s.core c) p
    have kept (v : Core) (q : Bool) : v.AccOnly (v.setPoison tile m q) := v.setPoison_accOnly tile m q
    have read' (v : Core) (q : Bool) : Core.TileRead tile m v (v.setPoison tile m q) := v.setPoison_tileRead tile m q
    have acc (v : Core) (e : Word64) : ({ v with sramEcc := e } : Core).acc = v.acc := rfl
    rw [State.logSram_core, State.modCore_core_same]
    refine ⟨?_, (read.trans (read' _ _)).of_acc (acc _ _)⟩
    obtain ⟨_, only⟩ := settled.trans (kept _ _)
    exact ⟨_, _, by dsimp only; rw [only]⟩

theorem MatOnly.accSettle (c : Nat) (s : State) (tile : Nat) (m : TileMode) (p : Nat → Bool) : MatOnly c s (s.accSettle c tile m p) := by
  have core := (s.accSettle_core c tile m p).1
  unfold State.accSettle at core ⊢
  extract_lets hit poison
  split
  · exact .refl c s
  · next dirty =>
    rw [if_neg dirty, State.logSram_core, State.modCore_core_same] at core
    obtain ⟨_, _, core⟩ := core
    refine MatOnly.trans ?_ (.logSram c _ _ _ _ _)
    exact .modCore c s ⟨_, _, _, _, _, _, _, core⟩

/-! ### The effects of the matrix operations -/

variable {env : OpEnv}

/-- The state in which a product has read its operands and its tile. -/
def State.mmulRead (s : State) (c : Nat) (f : MmulF) : State :=
  let t := s.ocSettle c (rangesA f ++ MatRanges f.b f.n f.k)
  if f.accumulate then t.accSettle c f.tile f.mode (tileWords f.m f.n)
  else if (t.core c).modeIs f.tile f.mode then t.accSettle c f.tile f.mode (edgeWords f.m f.n) else t

/-- The core that a product leaves. -/
def Core.multiplied (u : Core) (f : MmulF) (e : QEnv) : Core :=
  let p := product u.oc e f (fun i j => if f.accumulate then u.accElem f.tile f.mode i j else (0, 0))
  let dirty := anyPoison u.oc (rangesA f ++ MatRanges f.b f.n f.k)
  let whole := !f.accumulate && (!u.modeIs f.tile f.mode || (f.m == 128 && f.n == 128))
  let v := if f.accumulate then u else u.setMode f.tile f.mode
  let v := p.elems.foldl (fun v z => v.setAccElem f.tile f.mode z.1.1 z.1.2 z.2) v
  let v := v.setPoison f.tile f.mode (dirty || (!whole && u.tilePoison f.tile f.mode))
  { v with
    mtxFlags := raiseMtx v.mtxFlags p.flags p.satAfter (p.retries != 0) false
    mtxQuant := bumpFld (bumpFld v.mtxQuant 31 0 p.retries) 63 32 (if p.satAfter then 1 else 0)
    sprStat := if f.sparseA.isSome then
        bumpFld (bumpFld v.sprStat 63 32 1) 31 0 (prunedGroups u.oc e f p.xa) else v.sprStat }

/-- What a product finds of its sparse operand once it has read its operands and its tile. -/
def State.mmulFault (s : State) (c : Nat) (f : MmulF) (env : OpEnv) : Option (BitVec 16 × Nat × Nat) :=
  let oc := ((s.mmulRead c f).core c).oc
  sparseFault oc ⟨f.round, env.seed, env.stepNo⟩ f (if quantizes f.a then suppliedScale oc f.a.supplied else none)

theorem mmulEffect_faults {z : BitVec 16 × Nat × Nat} (h : s.mmulFault c f env = some z) :
    mmulEffect c f env s = ((s.mmulRead c f).coreFault c z.1 0
      (leBytes 1 f.tile ++ leBytes 2 z.2.1 ++ (if z.1 = 0x200A#16 then leBytes 1 z.2.2 else [])), .faulted z.1) := by
  unfold mmulEffect
  extract_lets s1 t u e sup same
  have some' : sparseFault u.oc e f sup = some z := h
  split
  · next y fault =>
    obtain rfl := Option.some.inj (fault.symm.trans some')
    rfl
  · next none' => cases none'.symm.trans some'

theorem mmulEffect_done (h : s.mmulFault c f env = none) : ∃ vals a b, mmulEffect c f env s =
    (((s.mmulRead c f).setCore c (((s.mmulRead c f).core c).multiplied f ⟨f.round, env.seed, env.stepNo⟩)).glintAdd (clusterOf c) f.glint
      vals a b, .done) := by
  unfold mmulEffect
  extract_lets s1 t u e sup same
  have none' : sparseFault u.oc e f sup = none := h
  split
  · next z fault => cases fault.symm.trans none'
  · exact ⟨_, _, _, rfl⟩

theorem Core.multiplied_core (u : Core) (f : MmulF) (e : QEnv) :
    ∃ acc m q p, u.multiplied f e = { u with acc := acc, mtxFlags := m, mtxQuant := q, sprStat := p } := by
  unfold Core.multiplied
  extract_lets p dirty whole v0 v1 v2
  have begun : u.AccOnly v0 := by
    unfold v0
    split
    · exact .refl u
    · exact u.setMode_accOnly _ _
  have stored : u.AccOnly v1 := foldl_keeps (Core.AccOnly u) _ _ _ begun fun v z keep => keep.trans (v.setAccElem_accOnly _ _ _ _ _)
  obtain ⟨_, only⟩ : u.AccOnly v2 := stored.trans (v1.setPoison_accOnly _ _ _)
  clear_value v2
  subst only
  exact ⟨_, _, _, _, rfl⟩

theorem State.mmulRead_matOnly (s : State) (c : Nat) (f : MmulF) : MatOnly c s (s.mmulRead c f) := by
  unfold State.mmulRead
  extract_lets t
  have first : MatOnly c s t := .ocSettle c s _
  split
  · exact first.trans (.accSettle c t _ _ _)
  · split
    · exact first.trans (.accSettle c t _ _ _)
    · exact first

theorem MatOnly.setCore (c : Nat) (s : State) {w : Core} (core : ∃ oc acc e m q p n, w =
    { s.core c with oc := oc, acc := acc, sramEcc := e, mtxFlags := m, mtxQuant := q, sprStat := p, nprClass := n }) :
    MatOnly c s (s.setCore c w) := MatOnly.modCore c s (f := fun _ => w) core

theorem MatOnly.setCore_acc (c : Nat) (s : State) {w : Core} (acc : (s.core c).AccOnly w) : MatOnly c s (s.setCore c w) := by
  obtain ⟨_, only⟩ := acc
  exact .setCore c s ⟨_, _, _, _, _, _, _, only⟩

theorem mmulEffect_matOnly {f : MmulF} (h : s.mmulFault c f env = none) :
    MatOnly c s (mmulEffect c f env s).1 ∧ (mmulEffect c f env s).2 = .done := by
  obtain ⟨_, _, _, run⟩ := mmulEffect_done h
  obtain ⟨_, _, _, _, core⟩ := ((s.mmulRead c f).core c).multiplied_core f ⟨f.round, env.seed, env.stepNo⟩
  rw [run]
  refine ⟨((s.mmulRead_matOnly c f).trans ?_).trans (.glintAdd c _ _ _ _ _), rfl⟩
  exact .setCore c _ ⟨_, _, _, _, _, _, _, core⟩

theorem mpreloadEffect_matOnly (f : MpreloadF) : MatOnly c s (mpreloadEffect c f env s).1 ∧ (mpreloadEffect c f env s).2 = .done := by
  unfold mpreloadEffect
  extract_lets fm rs k t mem val v0 cells v
  have first : MatOnly c s t := by
    unfold t
    split
    · exact .cmSettle c s _
    · exact .ocSettle c s _
  have stored : (t.core c).AccOnly v :=
    foldl_keeps (Core.AccOnly _) _ _ _ (Core.setMode_accOnly _ _ _) fun v z keep => keep.trans (v.setAccElem_accOnly _ _ _ _ _)
  exact ⟨first.trans (.setCore_acc c t (stored.trans (v.setPoison_accOnly _ _ _))), rfl⟩

theorem mreadEffect_matOnly (f : MreadF) (plain : f.compress = .none ∨
    suppliedBad (if f.out.kind = .cm then (s.cluster (clusterOf c)).cm else (s.core c).oc) f = none) :
    MatOnly c s (mreadEffect c f env s).1 ∧ (mreadEffect c f env s).2 = .done := by
  unfold mreadEffect
  extract_lets t u k v mt
  have first : MatOnly c s t := .accSettle c s _ _ _
  have memory : mt = (if f.out.kind = .cm then (s.cluster (clusterOf c)).cm else (s.core c).oc) := by
    obtain ⟨_, _, core⟩ := (s.accSettle_core c f.tile f.mode (tileWords f.m f.n)).1
    unfold mt u t k
    rw [core, State.accSettle_cluster]
  have valid : (if f.compress = .none then none else suppliedBad mt f) = none := by
    rw [memory]
    split
    · rfl
    · next packed => exact plain.resolve_left packed
  split
  · next b bad => cases bad.symm.trans valid
  · next o ws poison dirty p vals w x _ _ =>
    have second : MatOnly c t w := by
      unfold w
      split
      · exact .cmCommit c t _ _
      · exact .ocCommit c t _ _
    have third : MatOnly c w x := by
      obtain ⟨_, only⟩ : (w.core c).AccOnly (if f.clear then (w.core c).clearTile f.tile f.mode else w.core c) := by
        split
        · exact Core.clearTile_accOnly _ _ _
        · exact .refl _
      exact .modCore c w ⟨_, _, _, _, _, _, _, by dsimp only; rw [only]⟩
    exact ⟨((first.trans second).trans third).trans (.glintAdd c x _ _ _ _), rfl⟩

theorem npredEffect_matOnly (f : NpredF) : MatOnly c s (npredEffect c f env s).1 ∧ (npredEffect c f env s).2 = .done := by
  unfold npredEffect
  extract_lets rs t u e ps all cls lit pen umb aud bytes ws w sats tries
  have first : MatOnly c s t := .ocSettle c s _
  have second : MatOnly c t w := .ocCommit c t _ _
  obtain ⟨_, only⟩ : (w.core c).AccOnly (((w.core c).setMode f.tile .u).clearTile f.tile .u) :=
    ((w.core c).setMode_accOnly _ _).trans (Core.clearTile_accOnly _ _ _)
  clear_value w sats tries lit pen all
  refine ⟨?_, rfl⟩
  dsimp only
  refine (first.trans second).trans (.modCore c w ?_)
  rw [only]
  exact ⟨_, _, _, _, _, _, _, rfl⟩

/-- Whatever a product's tile, what it finds of its sparse operand is what stands in the operand cache. -/
theorem State.mmulFault_eq (s : State) (c : Nat) (f : MmulF) :
    s.mmulFault c f (s.opEnv c (.mat (.mmul f))) = s.sparseViolation c f := by
  have cache : ((s.mmulRead c f).core c).oc = ((s.ocSettle c (rangesA f ++ MatRanges f.b f.n f.k)).core c).oc := by
    have kept (t : State) (p : Nat → Bool) : ((t.accSettle c f.tile f.mode p).core c).oc = (t.core c).oc := by
      obtain ⟨_, _, core⟩ := (t.accSettle_core c f.tile f.mode p).1
      rw [core]
    unfold State.mmulRead
    extract_lets t
    split
    · exact kept t _
    · split
      · exact kept t _
      · rfl
  unfold State.mmulFault State.sparseViolation
  rw [cache]

theorem MatOnly.inFlight (h : MatOnly c s t) (q : QueueId) : (t.core c).inFlight q = (s.core c).inFlight q := by
  obtain ⟨_, _, _, _, _, _, _, core⟩ := h.core
  rw [core]
  cases q <;> rfl

theorem MatOnly.recorded (h : MatOnly c s t) (o : MatOp) (r : Outc) : OnlyEngines c s (t.recordOutcome c (.mat o) r) ∧
    OnlyClusterMemory (clusterOf c) s (t.recordOutcome c (.mat o) r) ∧ SameOthers c s (t.recordOutcome c (.mat o) r) ∧
    SameDevice s (t.recordOutcome c (.mat o) r) := by
  obtain ⟨⟨_, _, _, _, _, _, _, core⟩, cluster, others, device⟩ := h
  refine ⟨?_, cluster, ⟨fun d hd => (State.recordOutcome_core_other _ c _ _ hd).trans (others.1 d hd), others.2⟩, device.trans (SameDevice.modCore t c _)⟩
  rw [OnlyEngines, State.recordOutcome, State.modCore_core_same, core]
  rfl

/-- A matrix operation whose effect ends done. -/
theorem Gives.of_mat {c : CoreId} {i : Instr} {o : MatOp} {check : Option Status} {eff : OpEnv → State → State × Outc}
    (arm : exec i s = .next (s.runOp c (.mat o) check eff)) (fly : InFlight s c (.mat o)) (passes : check = none)
    (effect : MatOnly c s (eff (s.opEnv c (.mat o)) s).1 ∧ (eff (s.opEnv c (.mat o)) s).2 = .done) :
    Gives i s (fun t => Ended s t c (.mat o) .done ∧ OnlyEngines c s t ∧ OnlyClusterMemory (clusterOf c) s t ∧ SameOthers c s t ∧
      SameDevice s t) :=
  Gives.of_runOp (t := (eff (s.opEnv c (.mat o)) s).1) (r := .done) arm fly passes (Prod.ext rfl effect.2) (effect.1.inFlight _) fun ended => ⟨ended, effect.1.recorded _ _⟩

end

/-- Settles O20. -/
theorem matrixOperationsEndDone : Obligations.MatrixOperationsEndDone := by
  unfold Obligations.MatrixOperationsEndDone
  intro c o s fly passes sparse packed
  cases o with
  | mmul f => exact Gives.of_mat rfl fly passes (mmulEffect_matOnly ((s.mmulFault_eq c f).trans (sparse f rfl)))
  | mpreload f => exact Gives.of_mat rfl fly passes (mpreloadEffect_matOnly f)
  | mread f => exact Gives.of_mat rfl fly passes (mreadEffect_matOnly f (packed f rfl))
  | npred f => exact Gives.of_mat rfl fly passes (npredEffect_matOnly f)

/-! ### O21: what a product leaves of the accumulators (R91, R92) -/

section
variable {u v w x : Core} {tile : Nat} {m : TileMode}

/-- From u to w nothing changed but modes outside a tile. -/
def Core.TileOnly (tile : Nat) (m : TileMode) (u w : Core) : Prop :=
  ∀ i, i ∉ tileSlots tile m → (w.slot i).elems = (u.slot i).elems ∧ (w.slot i).poison = (u.slot i).poison

theorem Core.TileOnly.refl (u : Core) : Core.TileOnly tile m u u := fun _ _ => ⟨rfl, rfl⟩

theorem Core.TileOnly.trans (h : Core.TileOnly tile m u v) (k : Core.TileOnly tile m v w) : Core.TileOnly tile m u w :=
  fun i out => ⟨(k i out).1.trans (h i out).1, (k i out).2.trans (h i out).2⟩

theorem Core.TileRead.tileOnly (h : Core.TileRead tile m u v) : Core.TileOnly tile m u v := fun i out => ⟨(h i).1, (h i).2.2 out⟩

theorem Core.TileOnly.of_acc (h : Core.TileOnly tile m u v) (acc : w.acc = v.acc) : Core.TileOnly tile m u w := by
  unfold Core.TileOnly Core.slot at *
  rw [acc]
  exact h

theorem Core.setSlot_tileOnly (u : Core) {t : Nat} (member : t ∈ tileSlots tile m) (a : AccSlot) : Core.TileOnly tile m u (u.setSlot t a) := by
  intro i out
  rw [Core.slot_setSlot, if_neg (fun own : i = t => out (own ▸ member))]
  exact ⟨rfl, rfl⟩

theorem Core.setAccElem_tileOnly (u : Core) (tile : Nat) (m : TileMode) (i j : Nat) (z : Word32 × Word32) :
    Core.TileOnly tile m u (u.setAccElem tile m i j z) := by
  unfold Core.setAccElem
  extract_lets w
  have first : Core.TileOnly tile m u w := u.setSlot_tileOnly (tile_mem_tileSlots tile m) _
  split
  · next comp =>
    subst comp
    exact first.trans (w.setSlot_tileOnly (next_mem_tileSlots tile) _)
  · exact first

theorem Core.breakTile_tileOnly (u : Core) (tile : Nat) (m : TileMode) : Core.TileOnly tile m u (u.breakTile tile m) := by
  unfold Core.breakTile
  split
  · intro i _
    rw [Core.slot_setSlot]
    split
    · next own => rw [own]; exact ⟨rfl, rfl⟩
    · exact ⟨rfl, rfl⟩
  · exact .refl u

theorem foldl_setSlot_tileOnly (l : List Nat) (inside : ∀ t ∈ l, t ∈ tileSlots tile m) (a : Core → Nat → AccSlot) (u : Core) :
    Core.TileOnly tile m u (l.foldl (fun v t => v.setSlot t (a v t)) u) := by
  induction l generalizing u with
  | nil => exact .refl u
  | cons t l ih =>
    exact (u.setSlot_tileOnly (inside t List.mem_cons_self) _).trans (ih (fun b hb => inside b (List.mem_cons_of_mem _ hb)) _)

theorem Core.setMode_tileOnly (u : Core) (tile : Nat) (m : TileMode) : Core.TileOnly tile m u (u.setMode tile m) := by
  unfold Core.setMode
  split
  · exact .refl u
  · exact (u.breakTile_tileOnly tile m).trans (foldl_setSlot_tileOnly _ (fun _ h => h) _ _)

theorem Core.multiplied_tileOnly (u : Core) (f : MmulF) (e : QEnv) : Core.TileOnly f.tile f.mode u (u.multiplied f e) := by
  unfold Core.multiplied
  extract_lets p dirty whole v0 v1 v2
  have begun : Core.TileOnly f.tile f.mode u v0 := by
    unfold v0
    split
    · exact .refl u
    · exact u.setMode_tileOnly _ _
  have stored : Core.TileOnly f.tile f.mode u v1 :=
    foldl_keeps (Core.TileOnly f.tile f.mode u) _ _ _ begun fun v _ keep => keep.trans (v.setAccElem_tileOnly _ _ _ _ _)
  have last : Core.TileOnly f.tile f.mode u v2 := stored.trans (v1.setPoison_tileRead _ _ _).tileOnly
  clear_value v2 p
  exact last.of_acc rfl

/-! An accumulating product outside its result. -/

/-- From u to w the elements of a tile stayed where rows from r on and columns from n on lie. -/
def Core.OutsideKept (tile : Nat) (m : TileMode) (r n : Nat) (u w : Core) : Prop :=
  ∀ i j, i < 128 → j < 128 → (r ≤ i ∨ n ≤ j) → w.accElem tile m i j = u.accElem tile m i j

theorem Core.TileRead.accElem (h : Core.TileRead tile m u v) (i j : Nat) : v.accElem tile m i j = u.accElem tile m i j := by
  unfold Core.accElem AccSlot.get
  rw [(h tile).1, (h (tile + 1)).1]

theorem AccSlot.get_put (a : AccSlot) {i j k l : Nat} (z : Word32) (hj : j < 128) (hl : l < 128) (apart : ¬(k = i ∧ l = j)) :
    (a.put i j z).get k l = a.get k l := by
  unfold AccSlot.put AccSlot.get accIx
  exact sget_sset_other _ _ _ (by omega)

theorem Core.accElem_setAccElem (u : Core) (tile : Nat) (m : TileMode) {i j k l : Nat} (z : Word32 × Word32) (hj : j < 128) (hl : l < 128)
    (apart : ¬(k = i ∧ l = j)) : (u.setAccElem tile m i j z).accElem tile m k l = u.accElem tile m k l := by
  unfold Core.accElem Core.setAccElem
  extract_lets w
  have other : ¬tile = tile + 1 := by omega
  have first : (w.slot tile).get k l = (u.slot tile).get k l := by
    unfold w
    rw [Core.slot_setSlot, if_pos rfl, AccSlot.get_put _ _ hj hl apart]
  split
  · rw [Core.slot_setSlot, if_neg other, first, Core.slot_setSlot, if_pos rfl, AccSlot.get_put _ _ hj hl apart]
    unfold w
    rw [Core.slot_setSlot, if_neg (Ne.symm other)]
  · rw [first]

/-- A product has its elements in the first rows and columns. -/
theorem product_elems (oc : Sram) (e : QEnv) (f : MmulF) (start : Nat → Nat → Word32 × Word32) :
    ∀ z ∈ (product oc e f start).elems, z.1.1 < f.m ∧ z.1.2 < f.n := by
  intro z hz
  obtain ⟨y, hy, rfl⟩ := List.mem_map.mp hz
  obtain ⟨p, hp, rfl⟩ := List.mem_map.mp hy
  obtain ⟨i, hi, hp⟩ := List.mem_flatMap.mp hp
  obtain ⟨j, hj, rfl⟩ := List.mem_map.mp hp
  exact ⟨List.mem_range.mp hi, List.mem_range.mp hj⟩

theorem foldl_setAccElem_accElem {r n : Nat} (narrow : n ≤ 128) (l : List ((Nat × Nat) × (Word32 × Word32)))
    (inside : ∀ z ∈ l, z.1.1 < r ∧ z.1.2 < n) (u : Core) :
    Core.OutsideKept tile m r n u (l.foldl (fun v z => v.setAccElem tile m z.1.1 z.1.2 z.2) u) := by
  induction l generalizing u with
  | nil => exact fun _ _ _ _ _ => rfl
  | cons z l ih =>
    intro i j hi hj outside
    obtain ⟨row, column⟩ := inside z List.mem_cons_self
    rw [List.foldl_cons, ih (fun y hy => inside y (List.mem_cons_of_mem _ hy)) _ i j hi hj outside]
    exact u.accElem_setAccElem tile m z.2 (by omega) hj (by omega)

theorem Core.accElem_of_acc (h : w.acc = v.acc) (i j : Nat) : w.accElem tile m i j = v.accElem tile m i j := by
  unfold Core.accElem Core.slot
  rw [h]

theorem Core.multiplied_outsideKept (u : Core) (f : MmulF) (e : QEnv) (narrow : f.n ≤ 128) (adds : f.accumulate = true) :
    Core.OutsideKept f.tile f.mode f.m f.n u (u.multiplied f e) := by
  unfold Core.multiplied
  extract_lets p dirty whole v0 v1 v2
  have begun : v0 = u := if_pos adds
  have stored : Core.OutsideKept f.tile f.mode f.m f.n v0 v1 :=
    foldl_setAccElem_accElem narrow p.elems (product_elems _ _ _ _) v0
  have last (i j : Nat) : v2.accElem f.tile f.mode i j = v1.accElem f.tile f.mode i j :=
    (v1.setPoison_tileRead f.tile f.mode _).accElem i j
  clear_value v2 v1 v0 p
  subst begun
  intro i j hi hj outside
  refine (Core.accElem_of_acc rfl i j).trans ((last i j).trans (stored i j hi hj outside))

end

section
variable {c : Nat} {s : State} {f : MmulF}

theorem State.ocSettle_core (s : State) (c : Nat) (rs : List (Nat × Nat)) :
    ∃ oc e, (s.ocSettle c rs).core c = { s.core c with oc := oc, sramEcc := e } := by
  unfold State.ocSettle
  extract_lets hit
  split
  · exact ⟨_, _, rfl⟩
  · rw [State.logSram_core, State.modCore_core_same]
    exact ⟨_, _, rfl⟩

theorem State.mmulRead_tileRead (s : State) (c : Nat) (f : MmulF) :
    Core.TileRead f.tile f.mode (s.core c) ((s.mmulRead c f).core c) := by
  unfold State.mmulRead
  extract_lets t
  have first : Core.TileRead f.tile f.mode (s.core c) (t.core c) := by
    obtain ⟨_, _, core⟩ := s.ocSettle_core c (rangesA f ++ MatRanges f.b f.n f.k)
    refine (Core.TileRead.refl _).of_acc ?_
    unfold t
    rw [core]
  split
  · exact first.trans (t.accSettle_core c _ _ _).2
  · split
    · exact first.trans (t.accSettle_core c _ _ _).2
    · exact first

/-- From u to w a product changed of the accumulators what it may change, and of the vector engine and data memory nothing. -/
structure Core.Multiplies (f : MmulF) (u w : Core) : Prop where
  tile : Core.TileOnly f.tile f.mode u w
  outside : f.accumulate = true → Core.OutsideKept f.tile f.mode f.m f.n u w
  rest : w.vecFlags = u.vecFlags ∧ w.curves = u.curves ∧ w.dm = u.dm

theorem Core.Multiplies.of_acc {u v w : Core} (h : Core.Multiplies f u v) (acc : w.acc = v.acc)
    (rest : w.vecFlags = v.vecFlags ∧ w.curves = v.curves ∧ w.dm = v.dm) : Core.Multiplies f u w where
  tile := h.tile.of_acc acc
  outside adds i j hi hj out := (Core.accElem_of_acc acc i j).trans (h.outside adds i j hi hj out)
  rest := ⟨rest.1.trans h.rest.1, rest.2.1.trans h.rest.2.1, rest.2.2.trans h.rest.2.2⟩

theorem MatOnly.rest {t : State} (h : MatOnly c s t) :
    (t.core c).vecFlags = (s.core c).vecFlags ∧ (t.core c).curves = (s.core c).curves ∧ (t.core c).dm = (s.core c).dm := by
  obtain ⟨_, _, _, _, _, _, _, core⟩ := h.core
  rw [core]
  exact ⟨rfl, rfl, rfl⟩

theorem State.mmulRead_multiplies (s : State) (c : Nat) (f : MmulF) : Core.Multiplies f (s.core c) ((s.mmulRead c f).core c) where
  tile := (s.mmulRead_tileRead c f).tileOnly
  outside _ i j _ _ _ := (s.mmulRead_tileRead c f).accElem i j
  rest := (s.mmulRead_matOnly c f).rest

theorem State.glintAdd_core (s : State) (k : Nat) (slot : Option Nat) (vals : List FVal) (a b : Nat) (c : Nat) :
    (s.glintAdd k slot vals a b).core c = s.core c := by
  unfold State.glintAdd
  split
  · rfl
  · extract_lets g h i
    split <;> rfl

theorem mmulEffect_multiplies (env : OpEnv) (narrow : f.n ≤ 128) :
    Core.Multiplies f (s.core c) ((mmulEffect c f env s).1.core c) ∧ (mmulEffect c f env s).1.mem = s.mem := by
  have read := s.mmulRead_multiplies c f
  have mem := (s.mmulRead_matOnly c f).device.mem
  cases fault : s.mmulFault c f env with
  | some z =>
    rw [mmulEffect_faults fault]
    refine ⟨?_, (State.coreFault_mem _ _ _ _ _).trans mem⟩
    rw [State.coreFault_core_same]
    exact read.of_acc rfl ⟨rfl, rfl, rfl⟩
  | none =>
    refine ⟨?_, (mmulEffect_matOnly fault).1.device.mem⟩
    obtain ⟨_, _, _, run⟩ := mmulEffect_done fault
    rw [run, State.glintAdd_core, State.setCore_core_same]
    obtain ⟨acc, m, q, p, core⟩ := ((s.mmulRead c f).core c).multiplied_core f ⟨f.round, env.seed, env.stepNo⟩
    refine ⟨read.tile.trans (Core.multiplied_tileOnly _ _ _), fun adds i j hi hj out => ?_, ?_⟩
    · rw [Core.multiplied_outsideKept _ f _ narrow adds i j hi hj out]
      exact read.outside adds i j hi hj out
    · rw [core]
      exact read.rest

theorem Core.setInFlight_engine (u : Core) (q : QueueId) (l : List QEntry) :
    (u.setInFlight q l).acc = u.acc ∧ (u.setInFlight q l).vecFlags = u.vecFlags ∧ (u.setInFlight q l).curves = u.curves ∧
      (u.setInFlight q l).dm = u.dm := by
  cases q <;> exact ⟨rfl, rfl, rfl, rfl⟩

theorem Core.Multiplies.refl (u : Core) : Core.Multiplies f u u := ⟨.refl u, fun _ _ _ _ _ _ => rfl, rfl, rfl, rfl⟩

theorem mmul_multiplies (passes : mmulCheck s c f = none) :
    Core.Multiplies f (s.core c) ((s.runOp c (.mat (.mmul f)) (mmulCheck s c f) (mmulEffect c f)).core c) ∧
      (s.runOp c (.mat (.mmul f)) (mmulCheck s c f) (mmulEffect c f)).mem = s.mem := by
  have narrow : f.n ≤ 128 := by
    have valid := passes
    unfold mmulCheck at valid
    extract_lets at valid
    rw [firstFail_eq_none] at valid
    simp only [List.forall_mem_cons] at valid
    obtain ⟨-, -, -, -, -, extents, -⟩ := valid
    simp only [Bool.or_eq_false_iff, Bool.not_eq_false', decide_eq_true_eq] at extents
    exact extents.1.1.1.1.2.2.2.1
  by_cases behind : (s.core c).behind (.mat (.mmul f)) = true
  · rw [State.runOp_behind _ _ _ _ _ behind]
    exact ⟨.refl _, rfl⟩
  · rw [passes, State.runOp_none _ _ _ _ (by simpa using behind)]
    obtain ⟨multiplies, mem⟩ := mmulEffect_multiplies (s := s) (c := c) (s.opEnv c (.mat (.mmul f))) narrow
    refine ⟨?_, mem⟩
    rw [State.recordOutcome, State.modCore_core_same]
    exact multiplies.of_acc (Core.setInFlight_engine _ _ _).1 (Core.setInFlight_engine _ _ _).2

end

/-- Settles O21. -/
theorem productTouchesItsTileOnly : Obligations.ProductTouchesItsTileOnly := by
  unfold Obligations.ProductTouchesItsTileOnly
  intro c f s passes
  obtain ⟨⟨tile, outside, flags, curves, dm⟩, mem⟩ := mmul_multiplies (c := c) passes
  exact ⟨_, rfl, tile, outside, flags, curves, dm, mem⟩

/-! ### O22: a product whose sparse operand breaks its declaration (R171, R172) -/

/-- Nothing is read of a clean operand cache and clean accumulators. -/
theorem State.mmulRead_clean {s : State} {c : Nat} {f : MmulF} (cache : (s.core c).oc.bad = [])
    (slots : ∀ i, ((s.core c).slot i).bad = []) : s.mmulRead c f = s := by
  have settled (rs : List (Nat × Nat)) : s.ocSettle c rs = s := by
    rw [State.ocSettle, Sram.badIn, cache]
    rfl
  have read (p : Nat → Bool) : s.accSettle c f.tile f.mode p = s := by
    have none' : (tileSlots f.tile f.mode).flatMap (fun t => (((s.core c).slot t).badIn p).map (fun e => (slotWords * t + e.1, e.2))) = [] := by
      rw [List.flatMap_eq_nil_iff]
      intro t _
      rw [AccSlot.badIn, slots t]
      rfl
    unfold State.accSettle
    rw [none']
    rfl
  unfold State.mmulRead
  rw [settled]
  dsimp only
  rw [read, read, ite_self, ite_self]

theorem State.flag_coreFault (s : State) (c : Nat) (cause : BitVec 16) (st : Status) (d : List Byte) (k : Nat) (id : BitVec 16) :
    (s.coreFault c cause st d).flag k id = s.flag k id := by
  unfold State.coreFault State.flag
  dsimp only
  rw [State.contained_cluster, State.contained_core, State.modCore_cluster]
  by_cases own : 16 * k + flagCore id = c
  · rw [own, State.modCore_core_same]
  · rw [State.modCore_core_other _ _ own]

/-- Settles O22. -/
theorem sparseViolationFaultsProduct : Obligations.SparseViolationFaultsProduct := by
  unfold Obligations.SparseViolationFaultsProduct
  intro c f s x v fly passes violates own running cache slots
  have effect := mmulEffect_faults ((s.mmulFault_eq c f).trans violates)
  rw [State.mmulRead_clean cache slots] at effect
  have short : (leBytes 1 f.tile ++ leBytes 2 v.2.1 ++ (if v.1 = 0x200A#16 then leBytes 1 v.2.2 else [])).length ≤ 22 := by
    split <;> simp
  obtain ⟨stopped, one⟩ := s.coreFault_stops (c := c) v.1 0 short own running
  refine Gives.of_runOp rfl fly passes effect ?_ fun ended => ⟨ended, ?_, stopped, one, fun k id => ?_⟩
  · rw [State.coreFault_core_same]
    rfl
  · rw [State.recordOutcome, State.modCore_core_same, (Core.setInFlight_engine _ _ _).1, State.coreFault_core_same]
  · rw [State.flag_recordOutcome, State.flag_coreFault]

end Sys2Proof.Machine
end
section
/-! PROOFS. The local copy (O23): a row of cluster memory read, stored in the operand cache and counted at its banks. -/

namespace Sys2Proof.Machine

/-! ### A copy of one row from cluster memory to the operand cache (R259, R523) -/

/-- A copy of n bytes from byte a of cluster memory to byte b of the operand cache. -/
abbrev rowCopy (a b n : Nat) : DmaF := ⟨⟨.cm, a⟩, ⟨.oc, b⟩, 1, n, 0, 0, []⟩

section
variable {s : State} {x c a b n : Nat}

theorem rowCopy_spans (a b : Nat) (some : 1 ≤ n) : dmaSpans (rowCopy a b n) 0 n = [⟨⟨.cm, a⟩, ⟨.oc, b⟩, n⟩] := by
  have one : (0 + n - 1) / n - 0 / n + 1 = 1 := by
    rw [Nat.div_eq_of_lt (show 0 + n - 1 < n by omega), Nat.zero_div]
  unfold dmaSpans
  rw [if_neg (show ¬(n = 0 ∨ n = 0) by omega), one]
  simp [dmaSrc, dmaDst]

/-- The copy is one part between two near places. -/
theorem rowCopy_parts (s : State) (x a b : Nat) (some : 1 ≤ n) :
    s.chunkParts x .coreDma (rowCopy a b n) 0 n = .ok [⟨0, ⟨.cm, a⟩, ⟨.oc, b⟩, .cm a, .oc b, n⟩] := by
  unfold State.chunkParts
  rw [rowCopy_spans a b some]
  simp [State.spanParts, State.places, zipPlaces]

theorem rowCopy_apart (a b n : Nat) : overlaps (rowCopy a b n) = false := by
  unfold overlaps
  rw [List.any_eq_false]
  intro t _
  simp [srcInDst]

/-- What the copy leaves before its outcome. -/
def State.rowCopied (s : State) (c a b n : Nat) : State :=
  (((s.readPlace c (.cm a) n).1.writePlace c (.oc b) (s.readPlace c (.cm a) n).2).partBanks c ⟨0, ⟨.cm, a⟩, ⟨.oc, b⟩, .cm a, .oc b, n⟩)

theorem rowCopy_runs (s : State) (x c a b : Nat) (e : OpEnv) (stays : s.mustSuspend x = false) (some : 1 ≤ n) (small : n ≤ 65536)
    (fresh : e.progress = 0) : s.dmaCopy x c (rowCopy a b n) e = (s.rowCopied c a b n).recordOutcome c (.dma (.copy (rowCopy a b n))) .done := by
  have one : chunksLeft (rowCopy a b n) 0 = 1 := by
    unfold chunksLeft dmaTotal chunkBytes
    show (1 * n - 0 + 65536 - 1) / 65536 = 1
    omega
  have len : min chunkBytes (dmaTotal (rowCopy a b n) - 0) = n := by
    unfold chunkBytes dmaTotal
    show min 65536 (1 * n - 0) = n
    omega
  unfold State.dmaCopy
  dsimp only
  rw [rowCopy_apart, fresh, one, if_neg (by simp), State.copyFrom, if_neg (by simp [stays])]
  dsimp only
  rw [len, rowCopy_parts s x a b some]
  rfl


/-- Reading marked words changes no byte of them (R224). -/
theorem State.ocSettle_bytes (s : State) (c : Nat) (rs : List (Nat × Nat)) :
    ((s.ocSettle c rs).core c).oc.bytes = (s.core c).oc.bytes := by
  unfold State.ocSettle
  extract_lets hit
  split
  · rfl
  · rw [State.logSram_core, State.modCore_core_same]
    rfl

theorem State.ocSettle_cluster (s : State) (c : Nat) (rs : List (Nat × Nat)) (k : Nat) : (s.ocSettle c rs).cluster k = s.cluster k := by
  unfold State.ocSettle
  extract_lets hit
  split
  · rfl
  · rw [State.logSram_cluster, State.modCore_cluster]

theorem State.ocSettle_mem (s : State) (c : Nat) (rs : List (Nat × Nat)) : (s.ocSettle c rs).mem = s.mem := by
  unfold State.ocSettle
  extract_lets hit
  split
  · rfl
  · exact (congrArg State.mem (State.logSram_onlyLog _ 1 c 3 hit) :)

/-- A store into the operand cache leaves its bytes there, and everything else of the core but its SRAM error count. -/
theorem State.ocCommit_core (s : State) (c a : Nat) (bs : List Byte) (dirty : List Nat) :
    ∃ oc e, (s.ocCommit c (byteWrites a bs) dirty).core c = { s.core c with oc := oc, sramEcc := e } ∧
      ∀ i, oc.byte i = if a ≤ i ∧ i < a + bs.length then bs.getD (i - a) 0 else (s.core c).oc.byte i := by
  obtain ⟨oc, e, core⟩ := s.ocSettle_core c (partialWords (byteWrites a bs))
  have bytes := s.ocSettle_bytes c (partialWords (byteWrites a bs))
  refine ⟨((s.ocSettle c (partialWords (byteWrites a bs))).core c).oc.commit (byteWrites a bs) dirty, e, ?_, fun i => ?_⟩
  · rw [State.ocCommit, State.modCore_core_same, core]
  · rw [Sram.commit_byteWrites_byte, Sram.byte, Sram.byte, bytes]

/-- A place in cluster memory is read byte for byte, and the read changes no byte of it. -/
theorem State.readPlace_cm (s : State) (c a n : Nat) : (s.readPlace c (.cm a) n).2.map (·.1) =
    (List.range n).map (fun i => (s.cluster (clusterOf c)).cm.byte (a + i)) := by
  unfold State.readPlace
  dsimp only
  rw [List.map_map]
  refine List.map_congr_left fun i _ => ?_
  show Sram.byte _ _ = Sram.byte _ _
  rw [Sram.byte, Sram.byte, State.cmSettle_bytes]

theorem State.bankTurn_cm (s : State) (k r a n : Nat) : ((s.bankTurn k r a n).cluster k).cm = (s.cluster k).cm := by
  rw [State.bankTurn, State.modCluster_cluster_same]

/-- What the copy does to the core, the cluster and memory. -/
theorem State.rowCopied_moves (s : State) (c a b n : Nat) :
    (∃ oc e, (s.rowCopied c a b n).core c = { s.core c with oc := oc, sramEcc := e } ∧
      (∀ i, i < n → oc.byte (b + i) = (s.cluster (clusterOf c)).cm.byte (a + i)) ∧
      (∀ i, i < b ∨ b + n ≤ i → oc.byte i = (s.core c).oc.byte i)) ∧
    ((s.rowCopied c a b n).cluster (clusterOf c)).cm.bytes = (s.cluster (clusterOf c)).cm.bytes ∧
    (s.rowCopied c a b n).mem = s.mem := by
  have only : OnlyClustersAndLog s (s.readPlace c (.cm a) n).1 := s.cmSettle_only _ _
  have bytes := s.readPlace_cm c a n
  have length : ((s.readPlace c (.cm a) n).2.map (·.1)).length = n := by rw [bytes, List.length_map, List.length_range]
  have kept : ((s.readPlace c (.cm a) n).1.cluster (clusterOf c)).cm.bytes = _ := s.cmSettle_bytes _ _
  unfold State.rowCopied
  generalize s.readPlace c (.cm a) n = r at only bytes length kept ⊢
  obtain ⟨u, bs⟩ := r
  dsimp only at only bytes length kept ⊢
  have stored : u.writePlace c (.oc b) bs = u.ocCommit c (byteWrites b (bs.map (·.1))) (dirtyLines b bs) := rfl
  obtain ⟨oc, e, core, read⟩ := u.ocCommit_core c b (bs.map (·.1)) (dirtyLines b bs)
  rw [only.core_eq] at core read
  rw [length] at read
  rw [stored]
  refine ⟨⟨oc, e, core, fun i small => ?_, fun i outside => ?_⟩, ?_, ?_⟩
  · rw [read, if_pos (by omega), bytes]
    simp [small]
  · rw [read, if_neg (by omega)]
  · rw [State.partBanks, State.bankTurn_cm, State.ocCommit, State.modCore_cluster, State.ocSettle_cluster, kept]
  · exact (u.ocSettle_mem c _).trans only.mem_eq

theorem dmaCheck_genRange (s : State) (c : Nat) (f : DmaF) {st : Status} (refused : dmaCheck s c f = some st) : st = genRange := by
  unfold dmaCheck at refused
  simp only [firstFail] at refused
  split_ifs at refused <;> exact (Option.some.inj refused).symm

/-- A refused DMA operation: its place is given up, and R65 takes its course. -/
theorem State.dropEntry_refused (s : State) (c pos : Nat) (o : Op) (st : Status) (dma : o.queue = .dma) :
    RefusedAt s ((s.dropEntry c o).opRefused c 2 pos st) c 2 pos st ∧
    (let u := ((s.dropEntry c o).opRefused c 2 pos st).core c
     { u with scalar := (s.core c).scalar, dmaF := (s.core c).dmaF } = s.core c) ∧
    (∀ k, ((s.dropEntry c o).opRefused c 2 pos st).cluster k = s.cluster k) ∧
    ((s.dropEntry c o).opRefused c 2 pos st).mem = s.mem := by
  refine ⟨((s.dropEntry c o).opRefused_refusedAt c 2 pos st).of_before (s.dropEntry_scalar c o) rfl rfl, ?_, fun k => ?_, ?_⟩
  · rw [State.opRefused, State.coreFault_core_same, State.dropEntry, State.modCore_core_same, dma]
    rfl
  · rw [State.opRefused, State.coreFault_cluster, State.dropEntry_cluster]
  · rw [State.opRefused, State.coreFault_mem, State.dropEntry_mem]

/-- Settles O23. -/
theorem localCopyMovesItsBytes : Obligations.LocalCopyMovesItsBytes := by
  unfold Obligations.LocalCopyMovesItsBytes
  refine ⟨fun c s x a b n runs stays some small => ?_, fun c f s e st held refused => ?_⟩
  · intro f fly fresh passes
    have arm : exec (.dmaCopy c f) s = execDmaCopy c f s := rfl
    obtain ⟨⟨oc, e, core, moved, others⟩, cm, mem⟩ := s.rowCopied_moves c a b n
    rw [Gives, arm, execDmaCopy, passes, runs]
    dsimp only
    rw [rowCopy_runs s x c a b _ stays some small fresh]
    have after : (((s.rowCopied c a b n).recordOutcome c (.dma (.copy f)) .done).core c).oc = oc := by
      rw [State.recordOutcome, State.modCore_core_same, core]
      rfl
    refine ⟨_, rfl, ?_, fun i hi => ?_, fun i hi => ?_, fun i => ?_, ?_⟩
    · rw [Ended, State.recordOutcome_inFlight, core]
      rfl
    · rw [after, moved i hi]
    · rw [after, others i hi]
    · rw [State.recordOutcome_cluster, Sram.byte, cm, Sram.byte]
    · rw [State.recordOutcome_mem, mem]
  · obtain rfl := dmaCheck_genRange s c f refused
    have arm : exec (.dmaCopy c f) s = execDmaCopy c f s := rfl
    rw [Gives, arm, execDmaCopy, refused, s.opEnv_of_entryOf c _ held]
    exact ⟨rfl, _, rfl, s.dropEntry_refused c e.pos _ _ rfl⟩

end

end Sys2Proof.Machine
end
section
/-! PROOFS. The remote operations (O24): the header of a request, and what is handed to transport. -/

namespace Sys2Proof.Machine

/-! ### Request headers (Table 14-2) -/

section
variable (h : BitVec 96) (v : Nat) {hi lo a b : Nat}

theorem toNat_setHf (order : lo ≤ hi + 1) (top : hi < 96) : (setHf h hi lo v).toNat = setBits h.toNat hi lo v := by
  rw [setHf, BitVec.toNat_ofNat, Nat.mod_eq_of_lt (setBits_lt _ _ order top h.isLt)]

theorem hf_setHf_same (order : lo ≤ hi + 1) (top : hi < 96) : hf (setHf h hi lo v) hi lo = v % 2 ^ (hi + 1 - lo) := by
  rw [hf, toNat_setHf h v order top, bitsOf_setBits_same _ _ order]

theorem hf_setHf_other (order : lo ≤ hi + 1) (top : hi < 96) (apart : a < lo ∨ hi < b) : hf (setHf h hi lo v) a b = hf h a b := by
  rw [hf, toNat_setHf h v order top, bitsOf_setBits_other _ _ order apart, hf]

end

/-- The header of a request names its destination, its kind and its remote tag. -/
theorem headerA_fields (dest : BitVec 16) {kind rtag : Nat} (detail : Nat) (kinds : kind < 16) (tags : rtag ≤ 15) :
    hDest (headerA dest.toNat kind rtag detail) = dest.toNat ∧ aKind (headerA dest.toNat kind rtag detail) = kind ∧
      aRtag (headerA dest.toNat kind rtag detail) = rtag := by
  have steps : headerA dest.toNat kind rtag detail =
      setHf (setHf (setHf (setHf 0 94 79 dest.toNat) 22 19 kind) 18 15 rtag) 13 0 detail := rfl
  have destBits := dest.isLt
  refine ⟨?_, ?_, ?_⟩
  · rw [steps, hDest, hf_setHf_other _ _ (by omega) (by omega) (by omega), hf_setHf_other _ _ (by omega) (by omega) (by omega),
      hf_setHf_other _ _ (by omega) (by omega) (by omega), hf_setHf_same _ _ (by omega) (by omega), Nat.mod_eq_of_lt (by omega)]
  · rw [steps, aKind, hf_setHf_other _ _ (by omega) (by omega) (by omega), hf_setHf_other _ _ (by omega) (by omega) (by omega),
      hf_setHf_same _ _ (by omega) (by omega), Nat.mod_eq_of_lt (by omega)]
  · rw [steps, aRtag, hf_setHf_other _ _ (by omega) (by omega) (by omega), hf_setHf_same _ _ (by omega) (by omega),
      Nat.mod_eq_of_lt (by omega)]

/-! ### Operations with one request cell (R365, Table 10-6) -/

section
variable {s : State} {x c : Nat} {o : Op}

/-- An operation that may ask and whose destination is translated hands its message to transport. -/
theorem State.askRow_asks {dst : Option (Loc × Nat)} (m : Nat → Nat → Message) (may : MayAsk s x c o)
    (near : ∀ d, dst = some d → ∃ ps, s.places x .remoteOp .write d.1 d.2 = .ok ps) :
    s.askRow c o none dst m = s.queueMsgs [m x (s.opEnv c o).pos] := by
  obtain ⟨runs, unsent, stays⟩ := may
  unfold State.askRow
  dsimp only
  rw [runs]
  dsimp only
  rw [unsent, stays]
  cases dst with
  | none => rfl
  | some d =>
    obtain ⟨ps, placed⟩ := near d rfl
    dsimp only
    rw [placed]
    rfl

theorem State.queueMsgs_asked (s : State) (m : Message) : Asked s (s.queueMsgs [m]) m := ⟨rfl, rfl⟩

/-- A location in an on-die memory is one place. -/
theorem State.places_near (s : State) (x : Nat) (agent : Agent) (access : Access) (l : Loc) (n : Nat) (listed : dmaKind l.kind = true)
    (near : l.kind ≠ .va) : ∃ ps, s.places x agent access l n = .ok ps := by
  obtain ⟨kind, a⟩ := l
  cases kind
  case va => exact absurd rfl near
  case unlisted => exact Bool.noConfusion listed
  all_goals exact ⟨_, rfl⟩

/-- What the check of a remote operation's ranges establishes. -/
theorem State.remoteBad_fine {rtag va n max ln : Nat} {l : Loc} (fine : s.remoteBad c rtag va n max l ln = false) :
    rtag ≤ 15 ∧ dmaKind l.kind = true := by
  simp only [State.remoteBad, Bool.or_eq_false_iff, decide_eq_false_iff_not, Bool.not_eq_false'] at fine
  exact ⟨by omega, fine.1.2⟩

/-! ### PUT and REDUCE_PUT from a local memory -/

/-- A read of an on-die memory gives as many bytes as it asked for, and leaves main memory, transport and the core's operations. -/
theorem State.readPlace_near (s : State) (c : Nat) {p : Place} (n : Nat) (near : ∃ a, p = .oc a ∨ p = .cm a) :
    (s.readPlace c p n).2.length = n ∧ (s.readPlace c p n).1.mem = s.mem ∧ (s.readPlace c p n).1.xpt = s.xpt ∧
      ((s.readPlace c p n).1.core c).dmaF = (s.core c).dmaF := by
  obtain ⟨a, rfl | rfl⟩ := near
  · obtain ⟨_, _, core⟩ := s.ocSettle_core c [(a, n)]
    refine ⟨(List.length_map _).trans List.length_range, s.ocSettle_mem c _, (MatOnly.ocSettle c s [(a, n)]).device.xpt, ?_⟩
    show ((s.ocSettle c [(a, n)]).core c).dmaF = _
    rw [core]
  · have only := s.cmSettle_only (clusterOf c) [(a, n)]
    exact ⟨(List.length_map _).trans List.length_range, only.mem_eq, (congrArg State.xpt only :), (congrArg Core.dmaF (only.core_eq c) :)⟩

/-- A PUT or REDUCE_PUT from the operand cache or cluster memory reads its bytes and queues their message. -/
theorem State.putRow_asks {f : PutF} {reduce : Bool} (may : MayAsk s x c o) (passes : putCheck s c f reduce = none)
    (near : f.src.kind = .oc ∨ f.src.kind = .cm) :
    ∃ ps : List PByte, ps.length = f.len ∧ (s.putRow c o f reduce).xpt.toSend = s.xpt.toSend ++
        [putMessage (reqClass f.cls) f.dest.toNat f.rtag (if reduce then 4 else 0) (if reduce then f.fmt else 0) f.va x ps
          (.op ((s.ctx x).logicalCore c) (s.opEnv c o).pos)] ∧
      (s.putRow c o f reduce).mem = s.mem ∧ ((s.putRow c o f reduce).core c).dmaF = (s.core c).dmaF := by
  obtain ⟨runs, unsent, stays⟩ := may
  obtain ⟨p, placed, place, onDie⟩ : ∃ p, s.places x .remoteOp .read f.src f.len = .ok [(p, f.len)] ∧
      (∃ a, p = .oc a ∨ p = .cm a) ∧ f.src.kind ≠ .dm := by
    unfold State.places
    rcases near with kind | kind <;> rw [kind]
    · exact ⟨_, rfl, ⟨_, .inl rfl⟩, by decide⟩
    · exact ⟨_, rfl, ⟨_, .inr rfl⟩, by decide⟩
  obtain ⟨length, mem, xpt, dmaF⟩ := s.readPlace_near c f.len place
  have close : farParts [(p, f.len)] = [] := by obtain ⟨a, rfl | rfl⟩ := place <;> rfl
  have gathered : s.gatherPlaces x c (s.opEnv c o).pos [(p, f.len)] = s.readPlace c p f.len := by
    obtain ⟨a, rfl | rfl⟩ := place <;> rfl
  have run : s.putRow c o f reduce = s.putSend x c (s.opEnv c o).pos f reduce [(p, f.len)] := by
    unfold State.putRow
    dsimp only
    rw [passes, runs]
    dsimp only
    rw [unsent, if_neg (by decide), State.putOp, if_neg (by simp [stays]), placed]
    dsimp only
    rw [if_neg onDie]
    dsimp only
    rw [if_pos close]
  rw [run, State.putSend, gathered]
  refine ⟨_, length, ?_, mem, dmaF⟩
  show (s.readPlace c p f.len).1.xpt.toSend ++ _ = _
  rw [xpt]

end

/-- Checks that all pass begin with one that passes. -/
theorem firstFail_head {b : Bool} {st : Status} {l : List (Bool × Status)} (passes : firstFail ((b, st) :: l) = none) : b = false :=
  (firstFail_eq_none _).1 passes _ List.mem_cons_self

/-- Settles O24. -/
theorem remoteOperationsFormMessages : Obligations.RemoteOperationsFormMessages := by
  unfold Obligations.RemoteOperationsFormMessages
  refine fun c s x => ⟨fun f may passes near => ?_, fun f may passes near => ?_, fun f may passes near => ?_,
    fun f may passes near => ?_, fun f may passes => ?_⟩
  · obtain ⟨ps, length, sent, mem, dmaF⟩ := State.putRow_asks may passes near
    exact ⟨_, rfl, _, ps, rfl, length, sent, mem, dmaF⟩
  · obtain ⟨ps, length, sent, mem, dmaF⟩ := State.putRow_asks may passes near
    exact ⟨_, rfl, _, ps, rfl, length, sent, mem, dmaF⟩
  · obtain ⟨tags, listed⟩ := State.remoteBad_fine (firstFail_head passes)
    have arm : exec (.get c f) s = execGet c f s := rfl
    rw [Gives, arm, execGet, passes, State.askRow_asks _ may fun d hd => by cases hd; exact s.places_near x _ _ _ _ listed near]
    obtain ⟨dest, kind, tag⟩ := headerA_fields f.dest 0 (kind := 1) (by omega) tags
    exact ⟨_, rfl, _, s.queueMsgs_asked _, dest, kind, tag, rfl⟩
  · obtain ⟨tags, listed⟩ := State.remoteBad_fine (Bool.or_eq_false_iff.1 (firstFail_head passes)).1
    have arm : exec (.atomic c f) s = execAtomic c f s := rfl
    rw [Gives, arm, execAtomic, passes, State.askRow_asks _ may fun d hd => by cases hd; exact s.places_near x _ _ _ _ listed near]
    obtain ⟨dest, kind, tag⟩ := headerA_fields f.dest 0 (kind := 2) (by omega) tags
    exact ⟨_, rfl, _, s.queueMsgs_asked _, dest, kind, tag, rfl⟩
  · have tags : f.rtag ≤ 15 := by
      have fine := (firstFail_head passes)
      rw [decide_eq_false_iff_not] at fine
      omega
    have arm : exec (.remoteFlagSet c f) s = execRemoteFlagSet c f s := rfl
    rw [Gives, arm, execRemoteFlagSet, passes, State.askRow_asks _ may fun d hd => by cases hd]
    obtain ⟨dest, kind, tag⟩ := headerA_fields f.dest 0 (kind := 3) (by omega) tags
    exact ⟨_, rfl, _, s.queueMsgs_asked _, dest, kind, tag, rfl⟩

end Sys2Proof.Machine
end
section
/-! PROOFS. What moving data leaves: a frame of the reads and writes of every memory that an operation can name. -/

namespace Sys2Proof.Machine

/-! ### What moving data leaves (R224, R259): everything but the memories themselves, their registers and the error log -/

/-- From u to v a core changed in its operand cache, its data memory and its SRAM error count alone. -/
def Core.Copied (u v : Core) : Prop := ∃ oc dm e, v = { u with oc := oc, dm := dm, sramEcc := e }

/-- From u to v a cluster changed in its memory, that memory's banks and its SRAM error count alone. -/
def Cluster.Copied (u v : Cluster) : Prop := ∃ cm b e, v = { u with cm := cm, banks := b, sramEcc := e }

/-- From s to t data moved: the memories, the registers that serve them and the error log changed, and nothing else. -/
structure DataMoved (s t : State) : Prop where
  core : ∀ c, (s.core c).Copied (t.core c)
  cluster : ∀ k, (s.cluster k).Copied (t.cluster k)
  device : { t with cores := s.cores, clusters := s.clusters, mem := s.mem, channels := s.channels, groups := s.groups
                    ras := s.ras, mesh := s.mesh } = s

section
variable {s t u : State}

theorem Core.Copied.refl (u : Core) : u.Copied u := ⟨_, _, _, rfl⟩
theorem Cluster.Copied.refl (u : Cluster) : u.Copied u := ⟨_, _, _, rfl⟩

theorem Core.Copied.trans {u v w : Core} (h : u.Copied v) (k : v.Copied w) : u.Copied w := by
  obtain ⟨_, _, _, rfl⟩ := h
  obtain ⟨_, _, _, rfl⟩ := k
  exact ⟨_, _, _, rfl⟩

theorem Cluster.Copied.trans {u v w : Cluster} (h : u.Copied v) (k : v.Copied w) : u.Copied w := by
  obtain ⟨_, _, _, rfl⟩ := h
  obtain ⟨_, _, _, rfl⟩ := k
  exact ⟨_, _, _, rfl⟩

theorem DataMoved.refl (s : State) : DataMoved s s := ⟨fun _ => .refl _, fun _ => .refl _, rfl⟩

theorem DataMoved.trans (h : DataMoved s t) (k : DataMoved t u) : DataMoved s u where
  core c := (h.core c).trans (k.core c)
  cluster c := (h.cluster c).trans (k.cluster c)
  device := (congrArg (fun w : State => { w with cores := s.cores, clusters := s.clusters, mem := s.mem, channels := s.channels
                                                 groups := s.groups, ras := s.ras, mesh := s.mesh }) k.device).trans h.device

theorem DataMoved.modCore (s : State) (c : Nat) {f : Core → Core} (copied : ∀ u, Core.Copied u (f u)) : DataMoved s (s.modCore c f) where
  core d := by
    by_cases same : d = c
    · subst same
      rw [State.modCore_core_same]
      exact copied _
    · rw [State.modCore_core_other _ _ same]
      exact .refl _
  cluster _ := .refl _
  device := rfl

theorem DataMoved.modCluster (s : State) (k : Nat) {f : Cluster → Cluster} (copied : ∀ u, Cluster.Copied u (f u)) :
    DataMoved s (s.modCluster k f) where
  core _ := .refl _
  cluster d := by
    by_cases same : d = k
    · subst same
      rw [State.modCluster_cluster_same]
      exact copied _
    · rw [State.modCluster_cluster_other _ _ same]
      exact .refl _
  device := rfl

theorem DataMoved.of_memOnly (h : MemOnly s t) : DataMoved s t where
  core c := by rw [State.core_of_cores h.cores]; exact .refl _
  cluster k := by rw [State.cluster, State.cluster, h.clusters]; exact .refl _
  device := (congrArg (fun w : State => { w with cores := s.cores, clusters := s.clusters }) h.eq :)

theorem DataMoved.logSram (s : State) (block inst kind : Nat) (hit : List (Nat × WordErr)) :
    DataMoved s (s.logSram block inst kind hit) :=
  .of_memOnly (congrArg (fun w : State => { w with mem := s.mem, channels := s.channels, groups := s.groups, mesh := s.mesh })
    (s.logSram_onlyLog block inst kind hit) :)

/-! ### The memories -/

theorem State.ocSettle_moved (s : State) (c : Nat) (rs : List (Nat × Nat)) : DataMoved s (s.ocSettle c rs) := by
  unfold State.ocSettle
  extract_lets hit
  split
  · exact .refl s
  · exact (DataMoved.modCore s c fun _ => ⟨_, _, _, rfl⟩).trans (.logSram _ _ _ _ _)

theorem State.dmSettle_moved (s : State) (c : Nat) (rs : List (Nat × Nat)) : DataMoved s (s.dmSettle c rs) := by
  unfold State.dmSettle
  extract_lets hit
  split
  · exact .refl s
  · exact .modCore s c fun _ => ⟨_, _, _, rfl⟩

theorem State.cmSettle_moved (s : State) (k : Nat) (rs : List (Nat × Nat)) : DataMoved s (s.cmSettle k rs) := by
  unfold State.cmSettle
  extract_lets hit
  split
  · exact .refl s
  · exact (DataMoved.modCluster s k fun _ => ⟨_, _, _, rfl⟩).trans (.logSram _ _ _ _ _)

theorem State.ocCommit_moved (s : State) (c : Nat) (ws : List ByteWrite) (dirty : List Nat) : DataMoved s (s.ocCommit c ws dirty) :=
  (s.ocSettle_moved c _).trans (.modCore _ c fun _ => ⟨_, _, _, rfl⟩)

theorem State.dmCommit_moved (s : State) (c : Nat) (ws : List ByteWrite) : DataMoved s (s.dmCommit c ws) :=
  (s.dmSettle_moved c _).trans (.modCore _ c fun _ => ⟨_, _, _, rfl⟩)

theorem State.cmCommit_moved (s : State) (k : Nat) (ws : List ByteWrite) (dirty : List Nat) : DataMoved s (s.cmCommit k ws dirty) :=
  (s.cmSettle_moved k _).trans (.modCluster _ k fun _ => ⟨_, _, _, rfl⟩)

/-! ### Places and locations -/

theorem State.readPlace_moved (s : State) (c : Nat) (p : Place) (n : Nat) : DataMoved s (s.readPlace c p n).1 := by
  unfold State.readPlace
  split
  · exact s.ocSettle_moved c _
  · exact s.cmSettle_moved _ _
  · exact s.dmSettle_moved c _
  · refine foldl_keeps (fun w : State × List PByte => DataMoved s w.1) _ _ _ (.refl s) fun w q keep => keep.trans ?_
    exact .of_memOnly (w.1.fetchLine_memOnly q.1 [])
  · exact .refl s

theorem State.writePlace_moved (s : State) (c : Nat) (p : Place) (bs : List PByte) : DataMoved s (s.writePlace c p bs) := by
  unfold State.writePlace
  extract_lets bytes
  split
  · exact s.ocCommit_moved c _ _
  · exact s.cmCommit_moved _ _ _
  · exact s.dmCommit_moved c _
  · exact .of_memOnly (s.writePa_memOnly _ _ _)
  · exact .refl s

theorem State.readPlaces_moved (s : State) (c : Nat) (ps : List (Place × Nat)) : DataMoved s (s.readPlaces c ps).1 := by
  refine foldl_keeps (fun w : State × List PByte => DataMoved s w.1) _ _ _ (.refl s) fun w p keep => keep.trans ?_
  exact w.1.readPlace_moved c p.1 p.2

theorem State.writePlaces_moved (s : State) (c : Nat) (ps : List (Place × Nat)) (bs : List PByte) :
    DataMoved s (s.writePlaces c ps bs) := by
  refine foldl_keeps (fun w : State × List PByte => DataMoved s w.1) _ _ _ (.refl s) fun w p keep => keep.trans ?_
  exact w.1.writePlace_moved c p.1 _

theorem State.readLoc_moved {x c n : Nat} {agent : Agent} {l : Loc} {r : State × List PByte} (runs : s.readLoc x c agent l n = .ok r) :
    DataMoved s r.1 := by
  unfold State.readLoc at runs
  split at runs
  · cases runs
  · cases runs
    exact s.readPlaces_moved c _

theorem State.writeLoc_moved {x c : Nat} {agent : Agent} {l : Loc} {bs : List PByte} (runs : s.writeLoc x c agent l bs = .ok t) :
    DataMoved s t := by
  unfold State.writeLoc at runs
  split at runs
  · cases runs
  · cases runs
    exact s.writePlaces_moved c _ _

/-! ### What stays -/

theorem Core.Copied.inFlight {u v : Core} (h : u.Copied v) (q : QueueId) : v.inFlight q = u.inFlight q := by
  obtain ⟨_, _, _, rfl⟩ := h
  cases q <;> rfl

theorem Cluster.Copied.pocket {u v : Cluster} (h : u.Copied v) : v.pocket = u.pocket := by
  obtain ⟨_, _, _, rfl⟩ := h
  rfl

theorem DataMoved.ctx (h : DataMoved s t) (x : Nat) : t.ctx x = s.ctx x := (congrArg (State.ctx · x) h.device :)
theorem DataMoved.xpt (h : DataMoved s t) : t.xpt = s.xpt := (congrArg State.xpt h.device :)
theorem DataMoved.now (h : DataMoved s t) : t.now = s.now := (congrArg State.now h.device :)

end

end Sys2Proof.Machine
end
section
/-! PROOFS. The Pocket (O25): its directory, and the four operations of the stash. -/

namespace Sys2Proof.Machine

/-! ### The Pocket's memory -/

section
variable {s t u : State}

theorem State.pocketRead_moved {x k : Nat} {ls : List (Loc × Nat)} {r : State × List PByte} (runs : s.pocketRead x k ls = .ok r) :
    DataMoved s r.1 := by
  have keep := foldl_keeps (fun acc : Except (Nat × Nat) (State × List PByte) => ∀ r, acc = .ok r → DataMoved s r.1)
    (fun acc (l : Loc × Nat) => match acc with
      | .error e => .error e
      | .ok r => match r.1.readLoc x (16 * k) .pocket l.1 l.2 with
        | .error e => .error e
        | .ok q => .ok (q.1, r.2 ++ q.2)) ls (.ok (s, [])) (fun r h => by cases h; exact .refl s) ?_
  · exact keep r runs
  · intro acc l moved r h
    split at h
    · cases h
    split at h
    · cases h
    next q read =>
      obtain rfl := Except.ok.inj h
      exact DataMoved.trans (moved _ rfl) (State.readLoc_moved read :)

theorem State.pocketWrite_moved {x k : Nat} {ls : List (Loc × Nat)} {bs : List PByte} (runs : s.pocketWrite x k ls bs = .ok t) :
    DataMoved s t := by
  have keep := foldl_keeps (fun acc : Except (Nat × Nat) State × List PByte => ∀ r, acc.1 = .ok r → DataMoved s r)
    (fun (acc : Except (Nat × Nat) State × List PByte) (l : Loc × Nat) =>
      (match acc.1 with
        | .error e => .error e
        | .ok t => t.writeLoc x (16 * k) .pocket l.1 (acc.2.take l.2), acc.2.drop l.2)) ls (.ok s, bs)
    (fun r h => by cases h; exact .refl s) ?_
  · exact keep t runs
  · intro acc l moved r h
    split at h
    · cases h
    next w before => exact (moved w before).trans (State.writeLoc_moved h)

/-! ### The directory (R156, R161, R162, Table 6-4) -/

/-- Lookup by key sees entries through their key and their release alone. -/
theorem PocketEntry.liveFor_none (e : PocketEntry) (key : Word32) : e.liveFor key none = (e.key == key && !e.released) := by
  simp [PocketEntry.liveFor]

theorem PocketEntry.liveFor_of_none {e : PocketEntry} {key : Word32} (h : e.liveFor key none = true) (me : Option (Nat × Nat)) :
    e.liveFor key me = true := by
  rw [PocketEntry.liveFor_none, Bool.and_eq_true] at h
  unfold PocketEntry.liveFor
  rw [h.1, h.2]
  rfl

theorem PocketEntry.key_of_live {e : PocketEntry} {key : Word32} {me : Option (Nat × Nat)} (h : e.liveFor key me = true) : e.key = key := by
  unfold PocketEntry.liveFor at h
  rw [Bool.and_eq_true] at h
  exact eq_of_beq h.1

/-- The entry that a lookup of a key finds in a directory. -/
def Pocket.entry (p : Pocket) (key : Word32) : Option PocketEntry := p.entries.find? (fun e => e.liveFor key none)

theorem Pocket.levelled_entries (p : Pocket) : p.levelled.entries = p.entries := by
  have kept (a b : Word64) : ({ p with level := a, ovfLevel := b } : Pocket).entries = p.entries := rfl
  exact kept _ _

theorem Pocket.levelled_entry (p : Pocket) (key : Word32) : p.levelled.entry key = p.entry key := by
  rw [Pocket.entry, Pocket.levelled_entries, Pocket.entry]

/-- A freed key is no longer found. -/
theorem Pocket.freed_entry (p : Pocket) (key : Word32) (me : Option (Nat × Nat)) : (p.freed key me).entry key = none := by
  rw [Pocket.freed, Pocket.levelled_entry, Pocket.entry, List.find?_eq_none]
  intro e he live
  have kept := (List.mem_filter.1 he).2
  rw [PocketEntry.liveFor_of_none live me] at kept
  exact absurd kept (by decide)

/-- Freeing one key leaves what a lookup of another finds. -/
theorem Pocket.freed_entry_other (p : Pocket) (key : Word32) (me : Option (Nat × Nat)) {d : Word32} (apart : d ≠ key) :
    (p.freed key me).entry d = p.entry d := by
  rw [Pocket.freed, Pocket.levelled_entry, Pocket.entry, Pocket.entry, List.find?_filter]
  refine List.find?_congr fun e _ => ?_
  by_cases live : e.liveFor d none = true
  · have other : e.liveFor key me = false := by
      refine Bool.eq_false_iff.2 fun own => apart ?_
      rw [← PocketEntry.key_of_live live, PocketEntry.key_of_live own]
    rw [live, other]
    rfl
  · simp [live]

/-- An operation that ends leaves a key as free as it was. -/
theorem Pocket.ended_entry_none {p : Pocket} {key : Word32} (free : p.entry key = none) (me : Option (Nat × Nat)) :
    (p.ended me).entry key = none := by
  unfold Pocket.ended
  split
  · next z =>
    rw [Pocket.entry, List.find?_eq_none] at free
    rw [Pocket.levelled_entry, Pocket.entry, List.find?_eq_none]
    intro e he
    obtain ⟨d, hd, rfl⟩ := List.mem_map.1 (List.mem_filter.1 he).1
    have := free d hd
    rw [PocketEntry.liveFor_none] at this ⊢
    exact this
  · exact free

/-- An operation that ends leaves the entries that no release has marked. -/
theorem Pocket.ended_entry_some {p : Pocket} {e : PocketEntry} (held : e ∈ p.entries) (kept : e.released = false)
    (me : Option (Nat × Nat)) : ((p.ended me).entry e.key).isSome = true := by
  unfold Pocket.ended
  split
  · next z =>
    rw [Pocket.levelled_entry, Pocket.entry, List.find?_isSome]
    refine ⟨{ e with users := e.users.filter (fun u => !(u.core == z.1 && u.pos == z.2)) }, List.mem_filter.2 ⟨?_, ?_⟩, ?_⟩
    · exact List.mem_map_of_mem held
    · rw [kept]
      rfl
    · rw [PocketEntry.liveFor_none, kept]
      simp
  · rw [Pocket.entry, List.find?_isSome]
    exact ⟨e, held, by rw [PocketEntry.liveFor_none, kept]; simp⟩

/-- A copy out counts a read of a spilled entry, and leaves the entries to what follows. -/
theorem Pocket.got_keeps {p : Pocket} {e : PocketEntry} (held : e ∈ p.entries) (kept : e.released = false) (me : Option (Nat × Nat)) :
    ((p.got e me false).entry e.key).isSome = true := by
  unfold Pocket.got
  extract_lets q
  rw [if_pos (show (!false) = true from rfl)]
  refine Pocket.ended_entry_some ?_ kept me
  unfold q
  split
  · exact held
  · exact held

/-- A release takes the entry away from every operation that arrives from now on. -/
theorem Pocket.got_releases (p : Pocket) (e : PocketEntry) (me : Option (Nat × Nat)) : (p.got e me true).entry e.key = none := by
  unfold Pocket.got
  extract_lets q
  rw [if_neg (show ¬(!true) = true by decide)]
  split
  · exact Pocket.freed_entry _ _ _
  · refine Pocket.ended_entry_none ?_ me
    rw [Pocket.entry, List.find?_eq_none]
    intro d hd live
    obtain ⟨b, -, rfl⟩ := List.mem_map.1 hd
    split at live
    · rw [PocketEntry.liveFor_none, Bool.not_true, Bool.and_false] at live
      exact absurd live (by decide)
    · next other => exact other (PocketEntry.liveFor_of_none live me)

/-! ### STASH_PUT -/

theorem State.pocketEntry_eq (s : State) (c : Nat) (key : Word32) : s.pocketEntry c key = (s.cluster (clusterOf c)).pocket.entry key := rfl

theorem State.entryFor_some {c : Nat} {o : Op} {key : Word32} {e : PocketEntry} (entry : s.entryFor c o key = some e) :
    e.key = key ∧ e ∈ (s.cluster (clusterOf c)).pocket.entries := by
  unfold State.entryFor at entry
  exact ⟨PocketEntry.key_of_live (List.find?_some entry :), List.mem_of_find?_eq_some entry⟩

variable {x c : Nat}

/-- Room that is there needs no spill. -/
theorem State.makeRoom_fits {k need fuel : Nat}
    (room : (freeGranules ((s.cluster k).pocket.used false) (s.ctx x).pocketGranules need).isSome = true) :
    State.makeRoom x k need fuel s = .fits s := by
  unfold State.makeRoom
  dsimp only
  rw [if_pos room]

/-- The directory with a new resident entry. -/
def Pocket.stored (p : Pocket) (e : PocketEntry) : Pocket :=
  Pocket.levelled { p with entries := p.entries ++ [e] }

theorem State.stashPut_stores {f : StashPutF} {gs : List Nat} {bs : List PByte}
    (count : (s.cluster (clusterOf c)).pocket.entries.length < 4096) (fits : granulesOf f.size ≤ (s.ctx x).pocketGranules)
    (room : freeGranules ((s.cluster (clusterOf c)).pocket.used false) (s.ctx x).pocketGranules (granulesOf f.size) = some gs)
    (read : s.readLoc x c .stash f.src f.size = .ok (t, bs))
    (stored : t.pocketWrite x (clusterOf c) (entryLocs (s.ctx x) (clusterOf c) false f.size gs) bs = .ok u) :
    s.stashPut x c f = (u.modCluster (clusterOf c) (fun v => { v with
      pocket := v.pocket.stored (.mk f.key f.size false gs (u.usersStarted (clusterOf c) f.key) false) })).recordOutcome c (.dma (.stashPut f)) .done := by
  unfold State.stashPut
  dsimp only
  rw [if_neg (by omega), if_neg (by omega), State.makeRoom_fits (by rw [room]; rfl)]
  dsimp only
  rw [room]
  dsimp only
  rw [State.stashStore, read]
  dsimp only
  rw [stored]
  rfl

end

theorem stashPut_act (c : CoreId) (f : StashPutF) (s u v : State) (x : Nat) (gs : List Nat) (bs : List PByte)
    (waits : (s.cluster (clusterOf c)).pocket.waiting.contains (c.val, f) = false) (passes : stashPutCheck s c f = none)
    (runs : s.ctxOfCore c = some x) (count : (s.cluster (clusterOf c)).pocket.entries.length < 4096)
    (fits : granulesOf f.size ≤ (s.ctx x).pocketGranules)
    (room : freeGranules ((s.cluster (clusterOf c)).pocket.used false) (s.ctx x).pocketGranules (granulesOf f.size) = some gs)
    (read : s.readLoc x c .stash f.src f.size = .ok (u, bs))
    (stored : u.pocketWrite x (clusterOf c) (entryLocs (s.ctx x) (clusterOf c) false f.size gs) bs = .ok v) :
    Gives (.stashPut c f) s (fun t => Ended s t c (.dma (.stashPut f)) .done ∧ t.mem = v.mem ∧
      (t.cluster (clusterOf c)).pocket.entries = (s.cluster (clusterOf c)).pocket.entries ++
        [⟨f.key, f.size, false, gs, v.usersStarted (clusterOf c) f.key, false⟩]) := by
  have arm : exec (.stashPut c f) s = execStashPut c f s := rfl
  have moved : DataMoved s v := (State.readLoc_moved read).trans (State.pocketWrite_moved stored)
  rw [Gives, arm, execStashPut]
  rw [if_neg (by rw [waits]; decide), passes, runs]
  dsimp only
  rw [State.stashPut_stores count fits room read stored]
  refine ⟨_, rfl, ?_, rfl, ?_⟩
  · rw [Ended, State.recordOutcome_inFlight, State.modCluster_core, (moved.core c).inFlight]
  · rw [State.recordOutcome_cluster, State.modCluster_cluster_same, Pocket.stored, (moved.cluster _).pocket]
    rfl

theorem stashPutContinue_act (k : ClusterId) (s : State) (x : Nat) (w : Nat × StashPutF) (r : List (Nat × StashPutF))
    (waits : (s.cluster k).pocket.waiting = w :: r) (runs : s.ctxOfCluster k = some x) :
    exec (.stashPutContinue k) s =
      .next ((s.modCluster k (fun u => { u with pocket := { u.pocket with waiting := r } })).stashPut x w.1 w.2) := by
  have arm : exec (.stashPutContinue k) s = execStashPutContinue k s := rfl
  rw [arm, execStashPutContinue, waits, runs]

theorem stashGet_act (c : CoreId) (f : StashGetF) (s u v : State) (x : Nat) (e : PocketEntry) (bs : List PByte)
    (passes : stashGetCheck s c f = none) (runs : s.ctxOfCore c = some x)
    (entry : s.entryFor c (.dma (.stashGet f)) f.key = some e) (turn : f.release = true → s.usersBefore c (.dma (.stashGet f)) e = [])
    (read : s.pocketRead x (clusterOf c) (entryLocs (s.ctx x) (clusterOf c) e.spilled e.size e.granules) = .ok (u, bs))
    (stored : u.writeLoc x c .stash f.dst bs = .ok v) :
    Gives (.stashGet c f) s (fun t => Ended s t c (.dma (.stashGet f)) .done ∧ t.mem = v.mem ∧
      (f.release = true → t.pocketEntry c f.key = none) ∧
      (f.release = false → e.released = false → (t.pocketEntry c f.key).isSome = true)) := by
  have arm : exec (.stashGet c f) s = execStashGet c f s := rfl
  have moved : DataMoved s v := (State.pocketRead_moved read).trans (State.writeLoc_moved stored)
  have go : ¬(f.release && !(s.usersBefore c (.dma (.stashGet f)) e).isEmpty) = true := by
    cases h : f.release
    · simp
    · simp [turn h]
  obtain ⟨key, held⟩ := State.entryFor_some entry
  rw [← (moved.cluster _).pocket] at held
  rw [Gives, arm, execStashGet]
  rw [passes, runs, entry]
  dsimp only
  rw [if_neg go, State.stashGet]
  dsimp only
  rw [read]
  dsimp only
  rw [stored]
  refine ⟨_, rfl, ?_, rfl, fun release => ?_, fun release kept => ?_⟩
  · rw [Ended, State.recordOutcome_inFlight, State.modCluster_core, (moved.core c).inFlight]
  · rw [State.pocketEntry_eq, State.recordOutcome_cluster, State.modCluster_cluster_same, release, ← key]
    exact Pocket.got_releases _ _ _
  · rw [State.pocketEntry_eq, State.recordOutcome_cluster, State.modCluster_cluster_same, release, ← key]
    exact Pocket.got_keeps held kept _

theorem stashDrop_act (c : CoreId) (key : Word32) (s : State) (e : PocketEntry) (passes : stashDropCheck s c key = none)
    (entry : s.entryFor c (.dma (.stashDrop key)) key = some e) (turn : s.usersBefore c (.dma (.stashDrop key)) e = []) :
    Gives (.stashDrop c key) s (fun t => Ended s t c (.dma (.stashDrop key)) .done ∧ t.pocketEntry c key = none ∧
      (∀ d, d ≠ key → t.pocketEntry c d = s.pocketEntry c d) ∧ t.mem = s.mem) := by
  have arm : exec (.stashDrop c key) s = execStashDrop c key s := rfl
  rw [Gives, arm, execStashDrop]
  rw [passes, entry]
  dsimp only
  rw [turn, if_neg (by decide)]
  refine ⟨_, rfl, ?_, ?_, fun d apart => ?_, rfl⟩
  · rw [Ended, State.recordOutcome_inFlight, State.modCluster_core]
  · rw [State.pocketEntry_eq, State.recordOutcome_cluster, State.modCluster_cluster_same]
    exact Pocket.freed_entry _ _ _
  · rw [State.pocketEntry_eq, State.recordOutcome_cluster, State.modCluster_cluster_same]
    exact Pocket.freed_entry_other _ _ _ apart

/-- Settles O25. -/
theorem pocketOperations : Obligations.PocketOperations := by
  unfold Obligations.PocketOperations
  exact ⟨fun c f s u v x gs bs _ => stashPut_act c f s u v x gs bs, stashPutContinue_act,
    fun c f s u v x e bs _ => stashGet_act c f s u v x e bs, fun c key s e _ => stashDrop_act c key s e⟩

end Sys2Proof.Machine
end
section
/-! PROOFS. Buffers (O26): what the manager does to a pool, and the records and counts of BUF_GET, BUF_REF and BUF_PUT. -/

namespace Sys2Proof.Machine

/-! ### What the manager does to a pool (R274, R279, R280) -/

section
variable {s : State} {x c : Nat}

theorem Pool.granted_allocs (p : Pool) (i span req : Nat) : (p.granted i span req).allocs = p.allocs ++ [⟨i, span, 1, req⟩] := by
  have kept (q : List (Nat × Word64)) (st : Word64) (g : Nat) (l : List Alloc) :
      ({ p with quota := q, stat := st, grants := g, allocs := l } : Pool).allocs = l := rfl
  exact kept _ _ _ _

theorem Pool.released_allocs (p : Pool) (a : Alloc) : (p.released a).allocs = p.allocs.filter (fun b => b.index != a.index) := by
  have kept (q : List (Nat × Word64)) (st : Word64) (g : List (Nat × BitVec 7)) (l : List Alloc) :
      ({ p with quota := q, stat := st, gens := g, allocs := l } : Pool).allocs = l := rfl
  exact kept _ _ _ _

theorem Pool.counted_allocs (p : Pool) (a : Alloc) (refs : Nat) :
    (0 < refs → (p.counted a refs).allocs = p.allocs.map (fun b => if b.index = a.index then { b with refs := refs } else b)) ∧
    (refs = 0 → (p.counted a refs).allocs = p.allocs.filter (fun b => b.index != a.index)) := by
  unfold Pool.counted
  refine ⟨fun some => ?_, fun zero => ?_⟩
  · rw [if_neg (by omega)]
  · rw [if_pos zero, Pool.released_allocs]

theorem Pool.failed_allocs (p : Pool) (st : Status) : (p.failed st).allocs = p.allocs := by
  have keeps := p.failed_onlyFail st
  exact (congrArg Pool.allocs keeps :)

/-- A request whose checks pass is granted its block. -/
theorem State.poolGet_granted {pool size req i : Nat} (passes : poolGetCheck s x pool size req = none)
    (block : (s.pool pool).block (spanLog2Of size (s.pool pool).log2) = some i) :
    ((s.poolGet x pool size req).1.pool pool).allocs = (s.pool pool).allocs ++ [⟨i, spanLog2Of size (s.pool pool).log2, 1, req⟩] ∧
    ∃ h, (s.poolGet x pool size req).2 = .ok (h, (s.pool pool).base.toNat + i * 2 ^ (s.pool pool).log2) := by
  unfold State.poolGet
  rw [passes]
  dsimp only
  rw [block]
  refine ⟨?_, _, rfl⟩
  rw [State.setPool_pool_same, Pool.granted_allocs]

theorem State.poolGet_refused_allocs {pool size req : Nat} {st : Status} (refused : poolGetCheck s x pool size req = some st) :
    ((s.poolGet x pool size req).1.pool pool).allocs = (s.pool pool).allocs ∧ (s.poolGet x pool size req).2 = .error st := by
  unfold State.poolGet
  rw [refused]
  refine ⟨?_, rfl⟩
  dsimp only
  split
  · rw [State.modPool_pool_same, Pool.failed_allocs]
  · rfl

/-- The allocations of the pool of a live handle once its count has changed. -/
theorem State.poolCount_allocs {h : Word32} {a : Alloc} (f : Nat → Nat) (live : (s.pool (handlePool h)).live h = some a) :
    (s.poolCount h f).pool (handlePool h) = (s.pool (handlePool h)).counted a (f a.refs) := by
  unfold State.poolCount
  rw [State.modPool_pool_same, live]

/-- What the check of a count establishes of a live handle. -/
theorem poolRefCheck_count {h : Word32} {n : Nat} {put : Bool} {a : Alloc} (passes : poolRefCheck s x h n put = none)
    (live : (s.pool (handlePool h)).live h = some a) : 1 ≤ n ∧ (put = true → n ≤ a.refs) := by
  have count := (firstFail_eq_none _).1 passes (!decide (1 ≤ n ∧ n ≤ 255) || (if put then decide (a.refs < n) else decide (255 < a.refs + n)), bpmStatus 6)
    (by rw [live]; simp)
  simp only [Bool.or_eq_false_iff, Bool.not_eq_false', decide_eq_true_eq] at count
  refine ⟨count.1.1, fun isPut => ?_⟩
  have enough := count.2
  rw [isPut, if_pos rfl, decide_eq_false_iff_not] at enough
  omega

/-! ### The operations (R276) -/

/-- An answered BUF_GET: its record stands in cluster memory, and the pool is as the manager left it. -/
theorem State.bufGet_answers {f : BufGetF} (fly : InFlight s c (.dma (.bufGet f))) (addr : bufAddrCheck s c f = none)
    (cm : f.result.kind = .cm) (hx : s.ctxOfCore c = some x)
    (answered : ∀ st, (s.poolGet x f.pool f.size f.requester).2 = .error st → bufAnswered st = true) :
    Ended s (s.bufGet c f) c (.dma (.bufGet f)) .done ∧
      (s.bufGet c f).pool f.pool = (s.poolGet x f.pool f.size f.requester).1.pool f.pool ∧ (s.bufGet c f).mem = s.mem ∧
      ∀ n, n ≤ 16 → ((s.bufGet c f).cluster (clusterOf c)).cm.read f.result.addr n =
        (bufRecord (s.poolGet x f.pool f.size f.requester).2).take n := by
  obtain ⟨e, he⟩ := Option.isSome_iff_exists.1 fly
  have pools := s.poolGet_onlyPools x f.pool f.size f.requester
  have core : (s.poolGet x f.pool f.size f.requester).1.core c = s.core c := (congrArg (State.core · c) pools :)
  have mem : (s.poolGet x f.pool f.size f.requester).1.mem = s.mem := (congrArg State.mem pools :)
  have length : (bufRecord (s.poolGet x f.pool f.size f.requester).2).length = 16 := by
    cases (s.poolGet x f.pool f.size f.requester).2 <;> simp [bufRecord, leFields]
  rcases s.bufGet_cases he addr cm hx with replied | ⟨st, refused, uncarried, -⟩
  · rw [replied]
    refine ⟨?_, State.bufReplied_pool _ _ _ _ _, (State.bufReplied_mem _ _ _ _).trans mem, fun n small => ?_⟩
    · rw [Ended, State.bufReplied_ended, core]
    · exact State.bufReplied_read _ c f (by rw [length]; exact small)
  · rw [answered st refused] at uncarried
    cases uncarried

/-- Two bytes at offset 4 and eight at offset 8 of what a memory holds. -/
theorem Sram.read_at (m : Sram) (a k n : Nat) : m.read (a + k) n = ((m.read a (k + n)).drop k).take n := by
  refine List.ext_getElem (by simp [Sram.read]) fun i _ _ => ?_
  simp [Sram.read, Nat.add_assoc]

theorem bufRecord_ok_fields (h : Word32) (va : Nat) :
    ((bufRecord (.ok (h, va))).take 6).drop 4 = [0, 0] ∧ ((bufRecord (.ok (h, va))).take 16).drop 8 = leBytes 8 va := by
  have fields : bufRecord (.ok (h, va)) = leBytes 4 h.toNat ++ [0, 0] ++ [0, 0] ++ leBytes 8 va := by
    simp [bufRecord, leFields, leBytes]
  rw [fields]
  refine ⟨by simp [List.take_append], ?_⟩
  rw [List.take_of_length_le (by simp)]
  exact List.drop_left' (by simp)

theorem bufGet_granted (c : CoreId) (s : State) (f : BufGetF) (x i : Nat) (fly : InFlight s c (.dma (.bufGet f)))
    (addr : bufAddrCheck s c f = none) (cm : f.result.kind = .cm) (hx : s.ctxOfCore c = some x)
    (passes : poolGetCheck s x f.pool f.size f.requester = none)
    (block : (s.pool f.pool).block (spanLog2Of f.size (s.pool f.pool).log2) = some i) :
    Gives (.bufGet c f) s (fun t => Ended s t c (.dma (.bufGet f)) .done ∧
      (t.pool f.pool).allocs = (s.pool f.pool).allocs ++ [⟨i, spanLog2Of f.size (s.pool f.pool).log2, 1, f.requester⟩] ∧
      (t.cluster (clusterOf c)).cm.read (f.result.addr + 4) 2 = [0, 0] ∧
      (t.cluster (clusterOf c)).cm.read (f.result.addr + 8) 8 =
        leBytes 8 ((s.pool f.pool).base.toNat + i * 2 ^ (s.pool f.pool).log2) ∧ t.mem = s.mem) := by
  obtain ⟨allocs, h, granted⟩ := State.poolGet_granted passes block
  obtain ⟨ended, pool, mem, record⟩ := State.bufGet_answers fly addr cm hx fun st refused => by
    rw [granted] at refused
    cases refused
  rw [granted] at record
  obtain ⟨status, va⟩ := bufRecord_ok_fields h ((s.pool f.pool).base.toNat + i * 2 ^ (s.pool f.pool).log2)
  refine ⟨s.bufGet c f, rfl, ended, by rw [pool, allocs], ?_, ?_, mem⟩
  · rw [Sram.read_at, record 6 (by omega), status]
    rfl
  · rw [Sram.read_at, record 16 (by omega), va, List.take_of_length_le (by simp)]

theorem bufGet_empty_answer (c : CoreId) (s : State) (f : BufGetF) (x : Nat) (st : Status) (fly : InFlight s c (.dma (.bufGet f)))
    (addr : bufAddrCheck s c f = none) (cm : f.result.kind = .cm) (hx : s.ctxOfCore c = some x)
    (refused : poolGetCheck s x f.pool f.size f.requester = some st) (carried : bufAnswered st = true) :
    Gives (.bufGet c f) s (fun t => Ended s t c (.dma (.bufGet f)) .done ∧ (t.pool f.pool).allocs = (s.pool f.pool).allocs ∧
      (t.cluster (clusterOf c)).cm.read f.result.addr 6 = leBytes 4 0 ++ leBytes 2 st.toNat) := by
  obtain ⟨allocs, answer⟩ := State.poolGet_refused_allocs refused
  obtain ⟨ended, pool, -, record⟩ := State.bufGet_answers fly addr cm hx fun st' h => by
    rw [answer] at h
    cases h
    exact carried
  refine ⟨s.bufGet c f, rfl, ended, by rw [pool, allocs], ?_⟩
  rw [record 6 (by omega), answer, bufRecord_error_take]

theorem bufRef_adds (c : CoreId) (s : State) (f : BufCountF) (x : Nat) (a : Alloc) (hx : s.ctxOfCore c = some x)
    (passes : poolRefCheck s x f.handle f.n false = none) (live : (s.pool (handlePool f.handle)).live f.handle = some a) :
    Gives (.bufRef c f) s (fun t => Ended s t c (.dma (.bufRef f)) .done ∧
      (t.pool (handlePool f.handle)).allocs = (s.pool (handlePool f.handle)).allocs.map (fun b =>
        if b.index = a.index then { b with refs := a.refs + f.n } else b) ∧ t.mem = s.mem) := by
  have arm : exec (.bufRef c f) s = execBufRef c f s := rfl
  obtain ⟨some, -⟩ := poolRefCheck_count passes live
  rw [Gives, arm, execBufRef, hx, Option.getD_some, passes]
  refine ⟨_, rfl, ?_, ?_, rfl⟩
  · rw [Ended, State.recordOutcome_inFlight]
    rfl
  · rw [State.recordOutcome_pool, State.poolCount_allocs _ live]
    exact (Pool.counted_allocs _ a _).1 (by omega)

theorem bufPut_takes (c : CoreId) (s : State) (f : BufCountF) (x : Nat) (a : Alloc) (hx : s.ctxOfCore c = some x)
    (passes : poolRefCheck s x f.handle f.n true = none) (live : (s.pool (handlePool f.handle)).live f.handle = some a) :
    Gives (.bufPut c f) s (fun t => Ended s t c (.dma (.bufPut f)) .done ∧
      (f.n < a.refs → (t.pool (handlePool f.handle)).allocs = (s.pool (handlePool f.handle)).allocs.map (fun b =>
        if b.index = a.index then { b with refs := a.refs - f.n } else b)) ∧
      (f.n = a.refs → (t.pool (handlePool f.handle)).allocs =
        (s.pool (handlePool f.handle)).allocs.filter (fun b => b.index != a.index)) ∧ t.mem = s.mem) := by
  have arm : exec (.bufPut c f) s = execBufPut c f s := rfl
  obtain ⟨left, zero⟩ := Pool.counted_allocs (s.pool (handlePool f.handle)) a (a.refs - f.n)
  rw [Gives, arm, execBufPut, hx, Option.getD_some, passes]
  refine ⟨_, rfl, ?_, fun some => ?_, fun last => ?_, rfl⟩
  · rw [Ended, State.recordOutcome_inFlight]
    rfl
  · rw [State.recordOutcome_pool, State.poolCount_allocs _ live]
    exact left (by omega)
  · rw [State.recordOutcome_pool, State.poolCount_allocs _ live]
    exact zero (by omega)

end

/-- Settles O26. -/
theorem bufferOperations : Obligations.BufferOperations := by
  unfold Obligations.BufferOperations
  exact fun c s => ⟨bufGet_granted c s, bufGet_empty_answer c s, fun f x a _ => bufRef_adds c s f x a, fun f x a _ => bufPut_takes c s f x a⟩

end Sys2Proof.Machine
end
section
/-! PROOFS. The router's operations (O27): what reads and writes of context memory leave, and the ends of ROUTE, ROUTE_GRAD and VISIT_CLEAR. -/

namespace Sys2Proof.Machine

/-! ### Context memory as the router reads and writes it -/

section
variable {s t u : State} {x c : Nat} {agent : Agent}

theorem State.fetchVa_memOnly {va n : Nat} {r : State × List Byte} (runs : s.fetchVa x agent va n = .ok r) : MemOnly s r.1 := by
  unfold State.fetchVa at runs
  split at runs
  · cases runs
  next q read =>
    split at runs
    · cases runs
    · cases runs
      exact State.readVa_memOnly read

theorem State.putVa_memOnly {va : Nat} {bs : List Byte} (runs : s.putVa x agent va bs = .ok t) : MemOnly s t := by
  unfold State.putVa at runs
  split at runs
  · cases runs
  next w stored =>
    cases runs
    exact State.writeVa_memOnly stored

theorem State.putAll_memOnly {ws : List (Nat × List Byte)} (runs : s.putAll x agent ws = .ok t) : MemOnly s t := by
  unfold State.putAll at runs
  refine foldl_keeps (fun acc : Except MemStop State => ∀ r, acc = .ok r → MemOnly s r) _ _ _ ?_ ?_ t runs
  · rintro r ⟨⟩
    exact .refl s
  · intro acc w keep r h
    split at h
    · cases h
    · exact (keep _ rfl).trans (State.putVa_memOnly h)

theorem State.logitRows_moved {l : Loc} {w : Bool} {pitch e : Nat} {is : List Nat}
    {r : State × List (List (Nat × Word32) × Nat)} (runs : s.logitRows x c l w pitch e is = .ok r) : DataMoved s r.1 := by
  unfold State.logitRows at runs
  refine foldl_keeps (fun acc : Except MemStop (State × List (List (Nat × Word32) × Nat)) => ∀ r, acc = .ok r → DataMoved s r.1)
    _ _ _ ?_ ?_ r runs
  · rintro r ⟨⟩
    exact .refl s
  · intro acc w keep r h
    split at h
    · cases h
    split at h
    · cases h
    next q read =>
      cases h
      exact DataMoved.trans (keep _ rfl) (State.readLoc_moved read :)

theorem State.fetchVa_moved {va n : Nat} {r : State × List Byte} (runs : s.fetchVa x agent va n = .ok r) : DataMoved s r.1 :=
  .of_memOnly (State.fetchVa_memOnly runs)

theorem State.putVa_moved {va : Nat} {bs : List Byte} (runs : s.putVa x agent va bs = .ok t) : DataMoved s t :=
  .of_memOnly (State.putVa_memOnly runs)

/-! ### ROUTE and ROUTE_GRAD -/

/-- One of two computations, and what follows either. -/
theorem except_ite_bind_ok {α β ε : Type} (p : Prop) [Decidable p] (x y : Except ε α) (f : α → Except ε β) (b : β) :
    (if p then x >>= f else y >>= f) = .ok b ↔ ∃ a, (if p then x else y) = .ok a ∧ f a = .ok b := by
  split <;> exact except_bind_ok _ f b

/-- The inputs of a ROUTE are read, and nothing else happens. -/
theorem State.routeInputs_moved {r : RouterRec} {f : RouteF} {y : State × List Nat × List Token8}
    (runs : s.routeInputs x c r f = .ok y) : DataMoved s y.1 := by
  unfold State.routeInputs at runs
  simp only [except_ite_bind_ok, except_bind_ok] at runs
  obtain ⟨h, header, m, map, b, bias, rows, logits, rest⟩ := runs
  have first : DataMoved s h.1 := by
    split at header
    · exact State.fetchVa_moved header
    · cases header
      exact .refl s
  have second : DataMoved m.1 b.1 := by
    split at bias
    · cases bias
      exact .refl _
    · exact State.fetchVa_moved bias
  have third : DataMoved s rows.1 :=
    ((first.trans (State.fetchVa_moved map)).trans second).trans (State.logitRows_moved logits)
  split at rest
  · cases rest
    exact third
  · simp only [except_bind_ok] at rest
    obtain ⟨l, ledger, result⟩ := rest
    cases result
    exact third.trans (State.fetchVa_moved ledger)

theorem State.routeGrad_moved {r : RouterRec} {f : RouteGradF} (runs : s.routeGrad x c r f = .ok t) : DataMoved s t := by
  unfold State.routeGrad at runs
  extract_lets w at runs
  simp only [except_bind_ok] at runs
  obtain ⟨rows, logits, l, ledger, g, grads, stored⟩ := runs
  exact (((State.logitRows_moved logits).trans (State.fetchVa_moved ledger)).trans (State.fetchVa_moved grads)).trans
    (State.putVa_moved stored)

/-- Runs are drawn from pools, and nothing else happens. -/
theorem State.drawRuns_cores (s : State) (x : Nat) (r : RouterRec) (counts : Sparse Nat) (ts : List Token8) :
    (s.drawRuns x r counts ts).1.cores = s.cores := by
  refine foldl_keeps (fun acc : State × List (Nat × Nat) × List Token8 => acc.1.cores = s.cores) _ _ _ rfl fun acc p keep => ?_
  have pools := acc.1.poolGet_onlyPools x r.poolId
    (runListBytes p.2 + (if r.policy = policyNone then p.2 * r.rowPitch else 0)) r.requester
  have cores : (acc.1.poolGet x r.poolId _ r.requester).1.cores = acc.1.cores := (congrArg State.cores pools :)
  dsimp only
  split
  · exact cores.trans keep
  · exact cores.trans keep

theorem mem_keepRoute (l : List (Nat × RouteF)) (x : Nat) (f : RouteF) : (x, f) ∈ keepRoute l x f := List.mem_cons_self

variable {s u v : State} {x : Nat} {z : Nat × RouterRec}

theorem route_routes (c : CoreId) (f : RouteF) (map : List Nat) (ts : List Token8) (runs : s.ctxOfCore c = some x)
    (turn : s.routerTurn c (.dma (.route f)) = true) (passes : routeCheck s c f = none) (layer : s.routerRec x f.layerId = some z)
    (inputs : s.routeInputs x c z.2 f = .ok (u, map, ts))
    (stored : let placed := placeAll z.2 f.round ts
      let d := u.drawRuns x z.2 placed.1 placed.2
      d.1.putAll x .routeOp (routeWrites s.node z.2 f map placed.1 d.2.1 (d.2.2.map (gated s.firmwareSet z.2))) = .ok v) :
    Gives (.route c f) s (fun t => Ended s t c (.dma (.route f)) .done ∧ t.mem = v.mem ∧
      (x, f) ∈ (t.cluster (clusterOf c)).routes) := by
  have arm : exec (.route c f) s = execRoute c f s := rfl
  have cores : v.core c = u.core c :=
    State.core_of_cores ((State.putAll_memOnly stored).cores.trans (State.drawRuns_cores _ _ _ _ _)) c
  rw [Gives, arm, execRoute]
  rw [turn, if_neg (by decide), passes, runs]
  dsimp only
  rw [layer]
  dsimp only
  rw [State.route]
  dsimp only
  rw [inputs]
  dsimp only at stored ⊢
  rw [stored]
  refine ⟨_, rfl, ?_, rfl, ?_⟩
  · rw [Ended, State.recordOutcome_inFlight, State.modCluster_core, cores, ((State.routeInputs_moved inputs).core c).inFlight]
  · rw [State.recordOutcome_cluster, State.modCluster_cluster_same]
    exact mem_keepRoute _ _ _

theorem routeGrad_writes (c : CoreId) (f : RouteGradF) (runs : s.ctxOfCore c = some x)
    (turn : s.routerTurn c (.dma (.routeGrad f)) = true) (passes : routeGradCheck s c f = none)
    (layer : s.routerRec x f.layerId = some z) (computed : s.routeGrad x c z.2 f = .ok u) :
    Gives (.routeGrad c f) s (fun t => Ended s t c (.dma (.routeGrad f)) .done ∧ t.mem = u.mem) := by
  have arm : exec (.routeGrad c f) s = execRouteGrad c f s := rfl
  rw [Gives, arm, execRouteGrad]
  rw [turn, if_neg (by decide), passes, runs]
  dsimp only
  rw [layer]
  dsimp only
  rw [computed]
  refine ⟨_, rfl, ?_, rfl⟩
  rw [Ended, State.recordOutcome_inFlight, ((State.routeGrad_moved computed).core c).inFlight]

theorem visitClear_clears (c : CoreId) (id : Word32) (runs : s.ctxOfCore c = some x) (layer : s.routerRec x id = some z)
    (stored : s.putVa x .exchange z.2.visitArray (List.replicate (4 * z.2.nLocal) 0) = .ok u) :
    Gives (.visitClear c id) s (fun t => Ended s t c (.dma (.visitClear id)) .done ∧ t.mem = u.mem) := by
  have arm : exec (.visitClear c id) s = execVisitClear c id s := rfl
  have passes : visitClearCheck s c id = none := by
    rw [visitClearCheck, runs, Option.getD_some, layer]
    rfl
  rw [Gives, arm, execVisitClear]
  rw [passes, runs]
  dsimp only
  rw [layer]
  dsimp only
  rw [stored]
  refine ⟨_, rfl, ?_, rfl⟩
  rw [Ended, State.recordOutcome_inFlight, ((State.putVa_moved stored).core c).inFlight]

end

/-- Settles O27. -/
theorem routerOperationsEndDone : Obligations.RouterOperationsEndDone := by
  unfold Obligations.RouterOperationsEndDone
  exact fun c s x runs => ⟨fun f z u v map ts _ turn passes layer inputs stored => route_routes c f map ts runs turn passes layer inputs stored,
    fun f z u _ turn passes layer computed => routeGrad_writes c f runs turn passes layer computed,
    fun id z u _ layer stored => visitClear_clears c id runs layer stored⟩

end Sys2Proof.Machine
end
section
/-! PROOFS. Exchanges (O28): XSEND, XRECV_ARM and the exchange deadline. -/

namespace Sys2Proof.Machine

section
variable {s t u : State} {x c pos : Nat} {r : RouterRec} {f : XsendF}

/-! ### XSEND reads its record, its rows and its tables, and nothing else happens (R211, R213) -/

theorem DataMoved.foldlM_fst {α β ε : Type} {g : State × β → α → Except ε (State × β)} {l : List α} {v w : State × β}
    (runs : l.foldlM g v = .ok w) (before : DataMoved s v.1) (step : ∀ v a w, g v a = .ok w → DataMoved v.1 w.1) :
    DataMoved s w.1 := by
  induction l generalizing v with
  | nil => cases runs; exact before
  | cons a l ih =>
    rw [List.foldlM_cons, except_bind_ok] at runs
    obtain ⟨q, first, rest⟩ := runs
    exact ih rest (before.trans (step v a q first))

theorem State.sendRuns_moved {map nodes : List Nat} {record : List Byte} {y : State × List SendRun}
    (runs : s.sendRuns x r f map nodes record = .ok y) : DataMoved s y.1 := by
  unfold State.sendRuns at runs
  split at runs
  · refine DataMoved.foldlM_fst runs (.refl s) fun v e w step => ?_
    split at step
    · simp only [State.listRows, except_bind_ok] at step
      obtain ⟨z, ⟨l, list, rows⟩, rest⟩ := step
      cases rows
      cases rest
      exact (State.fetchVa_moved list :)
    · cases step
      exact .refl _
  · cases runs
    exact .refl s

theorem State.runMsgs_moved {owner : MsgOwner} {z : SendRun} {y : State × List Message}
    (runs : s.runMsgs x c pos r f owner z = .ok y) : DataMoved s y.1 := by
  unfold State.runMsgs at runs
  refine DataMoved.foldlM_fst runs (.refl s) fun v p w step => ?_
  rw [except_bind_ok] at step
  obtain ⟨b, rows, rest⟩ := step
  have moved : DataMoved v.1 b.1 := DataMoved.foldlM_fst (s := v.1) rows (.refl _) fun b va q read => by
    split at read
    · cases read
    next row =>
      cases read
      exact (State.readLoc_moved row :)
  cases rest
  exact moved

theorem State.xsendMessages_moved {owner : MsgOwner} {y : State × List Message}
    (runs : s.xsendMessages x c pos r f owner = .ok y) : DataMoved s y.1 := by
  unfold State.xsendMessages at runs
  simp only [except_bind_ok] at runs
  obtain ⟨m, map, n, nodes, b, record, q, sends, data, messages, rest⟩ := runs
  have first : DataMoved s q.1 := (((State.fetchVa_moved map).trans (State.fetchVa_moved nodes)).trans (State.fetchVa_moved record)).trans
    (State.sendRuns_moved sends)
  have last : DataMoved s data.1 := DataMoved.foldlM_fst messages first fun v z w step => by
    rw [except_bind_ok] at step
    obtain ⟨q, run, rest⟩ := step
    cases rest
    exact (State.runMsgs_moved run :)
  cases rest
  exact last

theorem xsend_sends (c : CoreId) (f : XsendF) (s u : State) (x pos : Nat) (r : RouterRec) (ms : List Message)
    (passes : xsendCheck s c f = none) (runs : s.ctxOfCore c = some x) (layer : s.routerRec x f.layerId = some (pos, r))
    (new : (s.cluster (clusterOf c)).xsends.any
      (fun z => z.core == c.val && z.pos == (s.opEnv c (.dma (.xsend f))).pos && z.f == f) = false)
    (sends : s.xsendMessages x c pos r f (.xsend ((s.ctx x).logicalCore c) (s.opEnv c (.dma (.xsend f))).pos) = .ok (u, ms)) :
    Gives (.xsend c f) s (fun t =>
      (ms = [] → Ended s t c (.dma (.xsend f)) .done) ∧
      (ms ≠ [] → t.xpt.toSend = u.xpt.toSend ++ ms ∧
        ∃ z ∈ (t.cluster (clusterOf c)).xsends, z.core = c.val ∧ z.f = f ∧ z.left.length = ms.length)) := by
  have arm : exec (.xsend c f) s = execXsend c f s := rfl
  rw [Gives, arm, execXsend]
  rw [passes, runs]
  dsimp only
  rw [layer]
  dsimp only
  rw [new, if_neg (by decide), sends]
  dsimp only
  split
  next without =>
    refine ⟨_, rfl, fun _ => ?_, fun some => absurd without some⟩
    rw [Ended, State.recordOutcome_inFlight, ((State.xsendMessages_moved sends).core c).inFlight]
  next some =>
    refine ⟨_, rfl, fun without => absurd without some, fun _ => ⟨rfl, ?_⟩⟩
    rw [State.modCluster_cluster_same]
    exact ⟨_, List.mem_append_right _ List.mem_cons_self, rfl, rfl, List.length_map _⟩

/-! ### XRECV_ARM (R212, R214) -/

/-- The receive that an XRECV_ARM arms: its fields, its deadline, and none of its experts ready. -/
theorem State.arm_receive {layer : Nat} {f : XrecvF} {v : XRecv} (runs : s.arm x c layer r f = .ok (u, some v)) :
    v.f = f ∧ v.core = c ∧ v.ready = [] ∧
      v.deadline = (if f.deadlineMs = 0 then none else some (s.now + f.deadlineMs * 1000000)) := by
  unfold State.arm at runs
  generalize (if f.deadlineMs = 0 then none else some (s.now + f.deadlineMs * 1000000)) = due at runs
  simp only [except_bind_ok] at runs
  obtain ⟨a, counts, b, buffers, rest⟩ := runs
  split at rest
  · simp only [except_bind_ok] at rest
    obtain ⟨t, record, rest⟩ := rest
    cases rest
    exact ⟨rfl, rfl, rfl, rfl⟩
  · split at rest
    · split at rest
      · cases rest
      · simp only [except_bind_ok] at rest
        obtain ⟨t, entries, rest⟩ := rest
        cases rest
        exact ⟨rfl, rfl, rfl, rfl⟩
    · cases rest
      exact ⟨rfl, rfl, rfl, rfl⟩
  · cases rest
    exact ⟨rfl, rfl, rfl, rfl⟩

/-- Without an expert that has become ready, a receive stays as it is. -/
theorem State.recvSettle_still {k : Nat} {v : XRecv} (quiet : ∀ i ∈ recvExperts r v.f, v.newlyReady r i = false)
    (waits : recvExperts r v.f ≠ []) (fresh : v.ready = []) : s.recvSettle x k r v = s.modCluster k (fun u => u.putRecv v) := by
  have still : ∀ l : List Nat, (∀ i ∈ l, v.newlyReady r i = false) →
      l.foldlM (fun (a : State × XRecv) i => if a.2.newlyReady r i then a.1.expertReady x k r a.2 i else .ok a) (s, v) = .ok (s, v) := by
    intro l
    induction l with
    | nil => exact fun _ => rfl
    | cons i l ih =>
      intro idle
      rw [List.foldlM_cons, idle i List.mem_cons_self, if_neg (by decide)]
      exact ih fun j hj => idle j (List.mem_cons_of_mem i hj)
  have open_ : ¬(recvExperts r v.f).all (fun i => v.ready.contains i) = true := by
    obtain ⟨i, l, split⟩ := List.exists_cons_of_ne_nil waits
    simp [split, fresh]
  unfold State.recvSettle
  rw [still _ quiet]
  dsimp only
  rw [if_neg open_, if_pos rfl]

theorem xrecvArm_arms (c : CoreId) (f : XrecvF) (s u : State) (x pos : Nat) (r : RouterRec) (v : XRecv)
    (empty : (s.cluster (clusterOf c)).xrecvs = []) (passes : xrecvCheck s c f = none) (runs : s.ctxOfCore c = some x)
    (layer : s.routerRec x f.layerId = some (pos, r)) (armed : s.arm x c pos r f = .ok (u, some v))
    (quiet : ∀ i ∈ recvExperts r f, v.newlyReady r i = false) (waits : recvExperts r f ≠ []) :
    Gives (.xrecvArm c f) s (fun t => ∃ w ∈ (t.cluster (clusterOf c)).xrecvs, w.f = f ∧ w.core = c.val ∧
      w.deadline = (if f.deadlineMs = 0 then none else some (s.now + f.deadlineMs * 1000000)) ∧ t.mem = u.mem) := by
  have arm : exec (.xrecvArm c f) s = execXrecvArm c f s := rfl
  obtain ⟨fields, core, fresh, deadline⟩ := State.arm_receive armed
  rw [← fields] at quiet waits
  rw [Gives, arm, execXrecvArm]
  dsimp only
  rw [empty, List.any_nil, Bool.false_and, if_neg (by decide), passes, runs]
  dsimp only
  rw [layer]
  dsimp only
  rw [armed]
  dsimp only
  rw [State.recvSettle_still quiet waits fresh]
  refine ⟨_, rfl, v, ?_, fields, core, deadline, rfl⟩
  rw [State.modCluster_cluster_same, State.modCluster_cluster_same]
  refine List.mem_map.2 ⟨v, List.mem_append_right _ List.mem_cons_self, if_pos ⟨rfl, rfl, rfl, rfl⟩⟩

/-! ### The exchange deadline (R215) -/

/-- A receive that ends is armed no longer. -/
theorem State.recvStop_leaves (s : State) (k : Nat) (v : XRecv) (o : Outc) : v ∉ ((s.recvStop k v o).cluster k).xrecvs := by
  unfold State.recvStop
  rw [State.recordOutcome_cluster, State.dropRecv, State.modCluster_cluster_same]
  intro kept
  have other := (List.mem_filter.1 kept).2
  simp at other

theorem State.recvStop_rest (s : State) (k : Nat) (v : XRecv) (o : Outc) :
    (s.recvStop k v o).ctxs = s.ctxs ∧ (s.recvStop k v o).ras = s.ras ∧ (s.recvStop k v o).mem = s.mem := ⟨rfl, rfl, rfl⟩

theorem exchangeDeadline_ends (k : ClusterId) (layer : Word32) (phase : Phase) (round : Nat) (s : State) (v : XRecv) (d : Nat)
    (r : Nat × RouterRec)
    (armed : (s.cluster k).xrecvs.find? (fun v => v.f.layerId == layer && v.f.phase == phase && v.f.round == round) = some v)
    (deadline : v.deadline = some d) (record : s.routerRec v.ctx layer = some r) (due : d ≤ s.now) (counts : v.paused = none)
    (running : (s.ctx v.ctx).state = .running) :
    Gives (.exchangeDeadline k layer phase round) s (fun t => (t.ctx v.ctx).state = .stopped ∧
      s.ras.nextSeq < t.ras.nextSeq ∧ v ∉ (t.cluster k).xrecvs ∧ t.mem = s.mem) := by
  have arm : exec (.exchangeDeadline k layer phase round) s = execExchangeDeadline k layer phase round s := rfl
  obtain ⟨_, r⟩ := r
  rw [Gives, arm, execExchangeDeadline, armed]
  dsimp only
  rw [deadline, record]
  dsimp only
  rw [if_neg (by rw [counts, running]; simpa using due)]
  obtain ⟨stopped, number, -⟩ := s.contained_stops v.ctx
    { cls := 2, cause := 0x200D#16, block := 0x02, inst := k.val, detail := ((v.missing r).take 16).flatMap (fun q => leBytes 2 q) }
    running
  refine ⟨_, rfl, ?_⟩
  generalize hu : s.contained _ _ = u at stopped number ⊢
  obtain ⟨ctxs, ras, mem⟩ := u.recvStop_rest k v (.faulted 0x200D#16)
  refine ⟨?_, by rw [ras]; exact number, State.recvStop_leaves _ _ _ _, ?_⟩
  · rw [State.ctx, ctxs]
    exact stopped
  · rw [mem, ← hu, State.contained_mem]

end

/-- Settles O28. -/
theorem exchangeOperations : Obligations.ExchangeOperations := by
  unfold Obligations.ExchangeOperations
  exact ⟨fun c f s u x pos r ms _ => xsend_sends c f s u x pos r ms, xrecvArm_arms, exchangeDeadline_ends⟩

end Sys2Proof.Machine
end
section
/-! PROOFS. UPDATE (O29): what its reads and writes leave, its pieces, its end and its suspension. -/

namespace Sys2Proof.Machine

/-! ### What an update's reads and writes of context memory leave (R291 to R303) -/

/-- From s to t context memory was read or written: cores, clusters, contexts and the rest stayed, and of the groups what their
engines are at. -/
structure UpdMoved (s t : State) : Prop where
  only : MemOnly s t
  pending : ∀ g, (t.group g).updPending = (s.group g).updPending
  updating : ∀ g, (t.group g).updating = (s.group g).updating

namespace UpdMoved
variable {s t u : State}

theorem refl (s : State) : UpdMoved s s := ⟨.refl s, fun _ => rfl, fun _ => rfl⟩

theorem trans (h : UpdMoved s t) (k : UpdMoved t u) : UpdMoved s u :=
  ⟨h.only.trans k.only, fun g => (k.pending g).trans (h.pending g), fun g => (k.updating g).trans (h.updating g)⟩

theorem of_lineOnly (h : LineOnly s t) : UpdMoved s t := by
  have group (g : Nat) : t.group g = s.group g := by rw [State.group, h.groups, State.group]
  exact ⟨h.memOnly, fun g => by rw [group], fun g => by rw [group]⟩

theorem modGroup (s : State) (g : Nat) {f : Group → Group} (pending : ∀ v, (f v).updPending = v.updPending)
    (updating : ∀ v, (f v).updating = v.updating) : UpdMoved s (s.modGroup g f) := by
  refine ⟨rfl, fun j => ?_, fun j => ?_⟩
  all_goals
    by_cases same : j = g
    · subst same
      rw [State.modGroup_group_same]
      simp only [pending, updating]
    · rw [State.modGroup_group_other _ _ same]

theorem touched (s : State) (g : Nat) : UpdMoved s (s.touched g) := by
  rcases s.touched_cases g with h | ⟨d, w, h⟩ <;> rw [h]
  · exact .refl s
  · exact modGroup s g (f := fun v => { v with srDue := d, srStat := w }) (fun _ => rfl) (fun _ => rfl)

theorem srExit (s : State) (g : Nat) : UpdMoved s (s.srExit g) := by
  have first : UpdMoved s (s.modGroup g (fun v => { v with selfRefresh := false })) := modGroup s g (fun _ => rfl) (fun _ => rfl)
  unfold State.srExit
  generalize s.modGroup g _ = u at first ⊢
  exact (first.trans (.of_lineOnly (u.drainGroup_lineOnly g))).trans (touched _ g)

theorem awake (s : State) (l : Nat) : UpdMoved s (s.awake l) := by
  unfold State.awake
  extract_lets g
  split
  · exact srExit s g
  · exact touched s g

theorem fetchLine (h : UpdMoved s t) {l up} : UpdMoved s (State.fetchLine t l up).1 :=
  h.trans ((awake t l).trans (.of_lineOnly (State.readLine_lineOnly _ l up)))

theorem storeLine (h : UpdMoved s t) {l off bs p up} : UpdMoved s (State.storeLine t l off bs p up) :=
  h.trans ((awake t l).trans (.of_lineOnly (State.mergeLine_lineOnly _ _ _ _ _ _)))

theorem deferred (h : UpdMoved s t) {l} : UpdMoved s (State.deferred t l) := h.trans ⟨rfl, fun _ => rfl, fun _ => rfl⟩

theorem ite {c : Prop} {d : Decidable c} (h : UpdMoved s t) (k : UpdMoved s u) : UpdMoved s (if c then t else u) := by
  split
  · exact h
  · exact k

/-- A computation that answers a state: the state that it answers, if any, is one that data moved to. -/
theorem foldl_ok {α ε : Type} {f : Except ε State → α → Except ε State} {l : List α} {b : Except ε State}
    (e : l.foldl f b = .ok u) (h : ∀ v, b = .ok v → UpdMoved s v)
    (k : ∀ r a, (∀ v, r = .ok v → UpdMoved s v) → ∀ v, f r a = .ok v → UpdMoved s v) : UpdMoved s u :=
  foldl_keeps (fun r : Except ε State => ∀ v, r = .ok v → UpdMoved s v) _ _ _ h k u e

theorem foldl_ok_fst {α β ε : Type} {f : Except ε (State × β) → α → Except ε (State × β)} {l : List α}
    {b : Except ε (State × β)} {u : State × β} (e : l.foldl f b = .ok u) (h : ∀ v, b = .ok v → UpdMoved s v.1)
    (k : ∀ r a, (∀ v, r = .ok v → UpdMoved s v.1) → ∀ v, f r a = .ok v → UpdMoved s v.1) : UpdMoved s u.1 :=
  foldl_keeps (fun r : Except ε (State × β) => ∀ v, r = .ok v → UpdMoved s v.1) _ _ _ h k u e

/-! ### Context memory -/

theorem readPa (h : UpdMoved s t) {pa n} : UpdMoved s (State.readPa t pa n).1 :=
  foldl_keeps (fun acc : State × List Byte × Bool => UpdMoved s acc.1) _ _ _ h fun _ _ k => k.fetchLine

theorem writePa (h : UpdMoved s t) {pa bs p} : UpdMoved s (State.writePa t pa bs p) :=
  foldl_keeps (fun acc : State × List Byte => UpdMoved s acc.1) _ _ _ h fun _ _ k => k.storeLine

theorem readVa (h : UpdMoved s t) {x agent va n} {r} (e : State.readVa t x agent va n = .ok r) : UpdMoved s r.1 := by
  unfold State.readVa at e
  split at e
  · cases e
  · cases e
    exact foldl_keeps (fun acc : State × List Byte × Bool => UpdMoved s acc.1) _ _ _ h fun _ _ k => k.readPa

theorem writeVa (h : UpdMoved s t) {x agent va bs poison} (e : State.writeVa t x agent va bs poison = .ok u) : UpdMoved s u := by
  unfold State.writeVa at e
  split at e
  · cases e
  · cases e
    exact foldl_keeps (fun acc : State × List Byte => UpdMoved s acc.1) _ _ _ h fun acc p k => by dsimp only; exact k.writePa

theorem fetchVa (h : UpdMoved s t) {x agent va n} {r} (e : State.fetchVa t x agent va n = .ok r) : UpdMoved s r.1 := by
  grind [State.fetchVa, → UpdMoved.readVa]

theorem putVa (h : UpdMoved s t) {x agent va bs} (e : State.putVa t x agent va bs = .ok u) : UpdMoved s u := by
  grind [State.putVa, → UpdMoved.writeVa]

theorem putProgress (h : UpdMoved s t) {x r w} (e : State.putProgress t x r w = .ok u) : UpdMoved s u := by
  grind [State.putProgress, → UpdMoved.putVa]

theorem putCommit (h : UpdMoved s t) {x r w} (e : State.putCommit t x r w = .ok u) : UpdMoved s u := by
  grind [State.putCommit, → UpdMoved.putVa]

/-! ### Tiles and scales -/

theorem readTile (h : UpdMoved s t) {x agent base size nr nc r} (e : State.readTile t x agent base size nr nc = .ok r) :
    UpdMoved s r.1 := by
  unfold State.readTile at e
  refine foldl_ok_fst e (fun v hv => by cases hv; exact h) fun a i ha v hv => ?_
  dsimp only at hv
  split at hv
  · cases hv
  split at hv
  · cases hv
  next row =>
    cases hv
    exact foldl_ok_fst (u := ‹State × List Nat × Bool›) row (fun w hw => by cases hw; exact ha _ rfl) (by grind [→ UpdMoved.readVa])

theorem writeTile (h : UpdMoved s t) {x agent base size nr nc rows poison}
    (e : State.writeTile t x agent base size nr nc rows poison = .ok u) : UpdMoved s u := by
  unfold State.writeTile at e
  exact foldl_ok e (fun v hv => by cases hv; exact h) (by grind [→ UpdMoved.writeVa])

theorem readScales (h : UpdMoved s t) {x agent k n} {r} (e : State.readScales t x agent k n = .ok r) : UpdMoved s r.1 := by
  grind [State.readScales, → UpdMoved.readVa]

theorem writeScales (h : UpdMoved s t) {x agent base slots poison}
    (e : State.writeScales t x agent base slots poison = .ok u) : UpdMoved s u := by
  unfold State.writeScales at e
  exact foldl_ok e (fun v hv => by cases hv; exact h) (by grind [→ UpdMoved.writeVa])

theorem readWords32 (h : UpdMoved s t) {x a n} {r} (e : State.readWords32 t x a n = .ok r) : UpdMoved s r.1 := by
  grind [State.readWords32, → UpdMoved.readVa]

theorem readFac (h : UpdMoved s t) {x a slot n k} {r} (e : State.readFac t x a slot n k = .ok r) : UpdMoved s r.1 := by
  grind [State.readFac, → UpdMoved.readWords32, except_bind_ok]

theorem readMoments (h : UpdMoved s t) {x a slot n k} {r} (e : State.readMoments t x a slot n k = .ok r) : UpdMoved s r.1 := by
  grind [State.readMoments, → UpdMoved.readTile, → UpdMoved.readFac, except_bind_ok]

theorem readGradient (h : UpdMoved s t) {x a n k} {r} (e : State.readGradient t x a n k = .ok r) : UpdMoved s r.1 := by
  grind [State.readGradient, → UpdMoved.readScales, → UpdMoved.readTile, except_bind_ok]

/-! ### The phases of one chunk (R296 to R301, R309) -/

theorem phase1 (h : UpdMoved s t) {x hyper seed w r old n} {z} (e : State.phase1 t x hyper seed w r old n = .ok z) :
    UpdMoved s z.1 := by
  grind [State.phase1, → UpdMoved.readGradient, → UpdMoved.readMoments, → UpdMoved.writeTile, → UpdMoved.putVa, except_bind_ok]

theorem unshadow (h : UpdMoved s t) {x r e n logged} (run : State.unshadow t x r e n logged = .ok u) : UpdMoved s u := by
  unfold State.unshadow at run
  simp only [except_bind_ok] at run
  obtain ⟨w, master, c, working, run⟩ := run
  have k := (h.readTile master).readTile working
  split at run <;> simp only [except_bind_ok] at run
  · obtain ⟨sc, scales, t1, first, u1, second, run⟩ := run
    cases scales
    have k1 := ((k.deferred.ite k).writeTile first).writeTile second
    grind [→ UpdMoved.writeScales]
  · obtain ⟨sc, scales, t1, first, u1, second, run⟩ := run
    have k0 : UpdMoved s sc.1 := by grind [→ UpdMoved.readVa]
    have k1 := ((k0.deferred.ite k0).writeTile first).writeTile second
    grind [→ UpdMoved.writeScales]

theorem shadow (h : UpdMoved s t) {x w r e n z} (run : State.shadow t x w r e n = .ok z) : UpdMoved s z.1 := by
  unfold State.shadow at run
  simp only [except_bind_ok] at run
  obtain ⟨m, moments, q, master, t1, first, u1, second, v, scales, run⟩ := run
  cases run
  have k := (h.readMoments moments).readTile master
  exact (((k.deferred.ite k).writeTile first).writeTile second).writeScales scales

theorem toShadow (h : UpdMoved s t) {x w r e n z} (run : State.toShadow t x w r e n = .ok z) : UpdMoved s z.1 := by
  grind [State.toShadow, except_bind_ok, held_ok, → UpdMoved.putProgress, → UpdMoved.shadow]

theorem toPlace (h : UpdMoved s t) {x w r e n logged} (run : State.toPlace t x w r e n logged = .ok u) : UpdMoved s u := by
  grind [State.toPlace, except_bind_ok, held_ok, → UpdMoved.putProgress, → UpdMoved.unshadow]

theorem commit (h : UpdMoved s t) {v w} (run : State.commit t v w = .ok u) : UpdMoved s u := by
  grind [State.commit, → UpdMoved.putCommit]

theorem deferChunk (h : UpdMoved s t) {v n} (run : State.deferChunk t v n = .ok u) : UpdMoved s u := by
  grind [State.deferChunk, → UpdMoved.readGradient, → UpdMoved.readTile, → UpdMoved.writeTile, except_bind_ok]

theorem abandon (h : UpdMoved s t) {v k n z} (run : State.abandon t v k n = .ok z) : UpdMoved s z.1 := by
  grind [State.abandon, except_bind_ok, held_ok, → UpdMoved.putProgress, UpdMoved.deferred]

/-! ### An update from its decision to its last piece (R293, Table 12-4) -/

theorem beginMoments (h : UpdMoved s t) {v k z} (run : State.beginMoments t v k = .ok z) : UpdMoved s z.1 := by
  grind [State.beginMoments, except_bind_ok, held_ok, → UpdMoved.putProgress]

theorem recover (h : UpdMoved s t) {v cw k resumed z} (run : State.recover t v cw k resumed = .ok z) : UpdMoved s z.1 := by
  grind [State.recover, → UpdMoved.beginMoments]

theorem updDecide (h : UpdMoved s t) {v f env hyper flag z} (run : State.updDecide t v f env hyper flag = .ok z) :
    UpdMoved s z.1 := by
  unfold State.updDecide at run
  simp only [except_bind_ok, held_ok] at run
  obtain ⟨c, journal, run⟩ := run
  have k := h.fetchVa journal
  grind [except_bind_ok, held_ok, → UpdMoved.fetchVa, → UpdMoved.recover, → UpdMoved.beginMoments]

theorem updStart (h : UpdMoved s t) {v f env k z} (run : State.updStart t v f env k = .ok z) : UpdMoved s z.1 := by
  unfold State.updStart at run
  grind [except_bind_ok, held_ok, → UpdMoved.fetchVa, → UpdMoved.updDecide]

theorem updPiece (h : UpdMoved s t) {v k z} (run : State.updPiece t v k = .ok z) : UpdMoved s z.1 := by
  unfold State.updPiece at run
  grind [except_bind_ok, held_ok, → UpdMoved.putProgress, → UpdMoved.deferChunk, → UpdMoved.phase1, → UpdMoved.abandon,
    → UpdMoved.toShadow, → UpdMoved.toPlace, → UpdMoved.commit]

theorem updPieces (h : UpdMoved s t) {v n k z} (run : State.updPieces v n t k = .ok z) : UpdMoved s z.1 := by
  induction n generalizing t k with
  | zero => cases run; exact h
  | succ n ih => grind [State.updPieces, → UpdMoved.updPiece]

theorem updOn {v n d z} (h : UpdMoved s d.1) (run : updOn v n d = .ok z) : UpdMoved s z.1 := by
  grind [Sys2Proof.Machine.updOn, → UpdMoved.updPieces]

theorem core (h : UpdMoved s t) (c : Nat) : t.core c = s.core c := State.core_of_cores h.only.cores c

end UpdMoved

/-! ### UPDATE (R291, R293, R302, R303) -/

section
variable {s v w : State} {x c n : Nat} {r : ShardRec} {f : UpdateF} {env : OpEnv} {held : Option UpdHold}

/-- An UPDATE that starts, runs its pieces and settles what they left. -/
theorem State.update_runs {d : State × UpdNext} {next : UpdNext}
    (start : (s.modGroup f.engine (fun g => g.leave c env.pos)).updStart ⟨x, c, f.engine, r, env.seed⟩ f env held = .ok d)
    (on : updOn ⟨x, c, f.engine, r, env.seed⟩ n d = .ok (v, next)) (settled : v.updSettle x c r f next = .ok w) :
    s.update x c r f env held n = w := by
  unfold State.update
  extract_lets e u run
  have ran : run = .ok w := by
    unfold run
    rw [start]
    show (updOn u n d >>= fun z => z.1.updSettle x c r f z.2) = _
    rw [on]
    exact settled
  rw [ran]

/-- An UPDATE in flight whose turn it is on its engine runs. -/
theorem execUpdate_runs {core : CoreId} {pieces : Option Nat} (fly : InFlight s core (.dma (.update f)))
    (runs : s.ctxOfCore core = some x) (owned : s.ownedShard x f.shard = some r) (at_ : (s.group f.engine).updating = held)
    (mine : ∀ h, held = some h → h.core = core.val ∧ h.pos = (s.opEnv core (.dma (.update f))).pos)
    (first : held = none → (s.group f.engine).updPending.head? = some (core.val, (s.opEnv core (.dma (.update f))).pos) ∧
      s.mustSuspend x = false) :
    exec (.update core ⟨f, pieces⟩) s =
      .next (s.update x core r f (s.opEnv core (.dma (.update f))) held (pieces.getD r.allPieces)) := by
  have arm : exec (.update core ⟨f, pieces⟩) s = execUpdate core ⟨f, pieces⟩ s := rfl
  rw [arm, execUpdate]
  dsimp only
  rw [if_pos fly, runs]
  dsimp only
  rw [owned]
  dsimp only
  rw [at_]
  cases held with
  | some h =>
    dsimp only
    rw [if_pos (mine h rfl)]
  | none =>
    obtain ⟨head, stays⟩ := first rfl
    dsimp only
    rw [head, stays, if_neg (by simp), if_neg (by decide)]

/-- What the pieces of an update that runs leave of its core and of its engine. -/
theorem State.update_moves {core : CoreId} {d : State × UpdNext} {next : UpdNext}
    (at_ : (s.group f.engine).updating = held) (mine : ∀ h, held = some h → h.core = core.val ∧ h.pos = env.pos)
    (start : (s.modGroup f.engine (fun g => g.leave core env.pos)).updStart ⟨x, core, f.engine, r, env.seed⟩ f env held = .ok d)
    (on : updOn ⟨x, core, f.engine, r, env.seed⟩ n d = .ok (v, next)) :
    v.core core = s.core core ∧ (core.val, env.pos) ∉ (v.group f.engine).updPending ∧ (v.group f.engine).updating = none := by
  have moved := ((UpdMoved.refl _).updStart start).updOn on
  refine ⟨(moved.core core).trans (State.modGroup_core s _ _ _), ?_, ?_⟩
  · rw [moved.pending, State.modGroup_group_same, Group.leave]
    simp
  · rw [moved.updating, State.modGroup_group_same, Group.leave, at_]
    cases held with
    | none => rfl
    | some h =>
      obtain ⟨own, place⟩ := mine h rfl
      simp [own, place]

end

/-- Settles O29. -/
theorem updateEndsDone : Obligations.UpdateEndsDone := by
  unfold Obligations.UpdateEndsDone
  intro c f pieces held s v w x r d o env n u fly runs owned at_ mine first start
  have arm : exec (.update c ⟨f, pieces⟩) s = .next (s.update x c r f env held n) := execUpdate_runs fly runs owned at_ mine first
  refine ⟨fun st rec freed on stored => ?_, fun h on => ?_, fun h on settled => ?_⟩
  · obtain ⟨core, pending, updating⟩ := State.update_moves at_ mine start on
    have moved := (UpdMoved.refl v).putVa stored
    have settled : v.updSettle x c r f (.ended st rec freed) =
        .ok ((w.modGroup f.engine (fun g => { g with updCount := updCounted g.updCount st rec })).recordOutcome c o .done) := by
      unfold State.updSettle State.updFinish
      dsimp only
      rw [stored]
      rfl
    refine ⟨_, arm.trans (congrArg _ (State.update_runs start on settled)), ?_, rfl, ?_, ?_, ?_⟩
    · rw [Ended, State.recordOutcome_inFlight, State.modGroup_core, moved.core, core]
    · rw [State.recordOutcome_group, State.modGroup_group_same]
    · rw [State.recordOutcome_group, State.modGroup_group_same]
      show _ ∉ (w.group f.engine).updPending
      rw [moved.pending]
      exact pending
    · rw [State.recordOutcome_group, State.modGroup_group_same]
      show (w.group f.engine).updating = none
      rw [moved.updating]
      exact updating
  · obtain ⟨core, -, -⟩ := State.update_moves at_ mine start on
    refine ⟨_, arm.trans (congrArg _ (State.update_runs start on rfl)), rfl, ?_, ?_⟩
    · rw [State.modGroup_group_same]
    · rw [State.modGroup_core, core]
  · obtain ⟨core, -, updating⟩ := State.update_moves at_ mine start on
    obtain ⟨e, he⟩ := Option.isSome_iff_exists.1 fly
    obtain ⟨t, moved, rfl⟩ : ∃ t, UpdMoved v t ∧ w = t.suspendEntry c o h.progress := by
      unfold State.updSettle at settled
      dsimp only at settled
      split at settled <;> simp only [except_bind_ok, held_ok] at settled
      · obtain ⟨t, record, settled⟩ := settled
        exact ⟨t, (UpdMoved.refl v).putProgress record, (Except.ok.inj settled).symm⟩
      · obtain ⟨t, same, settled⟩ := settled
        cases same
        exact ⟨v, .refl v, (Except.ok.inj settled).symm⟩
    refine ⟨_, arm.trans (congrArg _ (State.update_runs start on settled)), rfl, ?_, e, he, ?_⟩
    · show (t.group f.engine).updating = none
      rw [moved.updating]
      exact updating
    · rw [State.suspendEntry, State.modCore_core_same, moved.core, core, he]
      rfl

end Sys2Proof.Machine
end
section
/-! PROOFS. Epochs (O30): SHARD_STAGE, the epoch fence with its end and its limit, and EPOCH_SWITCH. -/

namespace Sys2Proof.Machine

section
variable {s t u : State}

theorem State.putEpoch_moved {x : Nat} {e : EpochRec} (runs : s.putEpoch x e = .ok t) : MemOnly s t := by
  unfold State.putEpoch at runs
  split at runs
  · cases runs
    exact .refl s
  · exact State.putVa_memOnly runs

theorem MemOnly.core_eq (h : MemOnly s t) (c : Nat) : t.core c = s.core c := State.core_of_cores h.cores c
theorem MemOnly.ctx_eq (h : MemOnly s t) (x : Nat) : t.ctx x = s.ctx x := by rw [State.ctx, h.ctxs, State.ctx]

/-! ### SHARD_STAGE (R308) -/

theorem shardStage_runs (c : CoreId) (f : ShardStageF) (s : State) (x : Nat) (r : ShardRec) (passes : shardStageCheck s c f = none)
    (runs : s.ctxOfCore c = some x) (owned : s.ownedShard x f.shard = some r) :
    exec (.shardStage c f) s = .next (s.stage x c r f (s.opEnv c (.dma (.shardStage f))).pos
      (s.opEnv c (.dma (.shardStage f))).progress) := by
  have arm : exec (.shardStage c f) s = execShardStage c f s := rfl
  rw [arm, execShardStage]
  rw [passes, runs]
  dsimp only
  rw [owned]

/-! ### The epoch fence (R313) -/

theorem epochFence_fences (c : CoreId) (f : FenceF) (s u : State) (x : Nat) (e : EpochRec) (runs : s.ctxOfCore c = some x)
    (free : (s.ctx x).fence = none) (passes : epochFenceCheck s c f = none) (record : s.epochRec x = some e)
    (stored : s.putEpoch x { e with fenced := !f.cancel } = .ok u) :
    Gives (.epochFence c f) s (fun t => t.mem = u.mem ∧
      (f.cancel = true → Ended s t c (.dma (.epochFence f)) .done ∧ (t.ctx x).heldTable = none) ∧
      (f.cancel = false → (t.ctx x).fence = some (c.val, s.now + f.limitMs * 1000000) ∧ (t.core c).dmaF = (s.core c).dmaF)) := by
  have arm : exec (.epochFence c f) s = execEpochFence c f s := rfl
  have core := (State.putEpoch_moved stored).core_eq c
  rw [Gives, arm, execEpochFence, runs]
  dsimp only
  rw [free, if_neg (by simp), passes, record]
  dsimp only
  rw [stored]
  dsimp only
  cases cancel : f.cancel
  · refine ⟨_, rfl, rfl, nofun, fun _ => ⟨?_, ?_⟩⟩
    · rw [if_neg (by decide), State.modCtx_ctx_same]
    · rw [if_neg (by decide), State.modCtx_core, core]
  · refine ⟨_, rfl, rfl, fun _ => ⟨?_, ?_⟩, nofun⟩
    · rw [if_pos rfl, Ended, State.recordOutcome_inFlight, State.modCtx_core, core]
    · rw [if_pos rfl, State.recordOutcome_ctx, State.modCtx_ctx_same]

/-- The carry buffers of a context are gone from the clusters that dropped them, and nothing but clusters changed. -/
theorem dropCarries_all (x : Nat) (ks : List Nat) (s : State) :
    let t := ks.foldl (fun t k => t.modCluster k (fun u => u.dropCarries x)) s
    { t with clusters := s.clusters } = s ∧
      ∀ k, k ∈ ks ∨ (∀ z ∈ (s.cluster k).carries, z.ctx ≠ x) → ∀ z ∈ (t.cluster k).carries, z.ctx ≠ x := by
  induction ks generalizing s with
  | nil => exact ⟨rfl, fun k h => h.resolve_left nofun⟩
  | cons j ks ih =>
    obtain ⟨only, gone⟩ := ih (s.modCluster j (fun u => u.dropCarries x))
    refine ⟨(congrArg (fun w : State => { w with clusters := s.clusters }) only :), fun k h => gone k ?_⟩
    by_cases same : k = j
    · subst same
      right
      rw [State.modCluster_cluster_same]
      intro z kept
      simpa using (List.mem_filter.1 kept).2
    · rw [State.modCluster_cluster_other _ _ same]
      exact h.imp_left fun named => (List.mem_cons.1 named).resolve_left same

theorem epochFenceDrained_ends (x : CtxId) (s : State) (c : Nat) (o : Op) (waits : s.fenceOp x = some (c, o))
    (quiet : s.noUpdate x = true) (drained : s.stagesDrained x = true) :
    Gives (.epochFenceDrained x) s (fun t => Ended s t c o .done ∧ (t.ctx x).fence = none ∧
      (∀ k ∈ (s.ctx x).clusters, ∀ z ∈ (t.cluster k).carries, z.ctx ≠ x.val) ∧ t.mem = s.mem) := by
  have arm : exec (.epochFenceDrained x) s = execEpochFenceDrained x s := rfl
  obtain ⟨only, gone⟩ := dropCarries_all x (s.ctx x).clusters s
  rw [Gives, arm, execEpochFenceDrained, waits]
  dsimp only
  rw [quiet, drained, if_neg (by decide)]
  generalize (s.ctx x).clusters.foldl _ s = t at only gone ⊢
  have core : t.core c = s.core c := (congrArg (State.core · c) only :)
  refine ⟨_, rfl, ?_, ?_, fun k named => gone k (.inl named), (congrArg State.mem only :)⟩
  · rw [Ended, State.recordOutcome_inFlight, State.modCtx_core, core]
  · rw [State.recordOutcome_ctx, State.modCtx_ctx_same]

theorem epochFenceTimeout_stops (x : CtxId) (s : State) (c d deadline : Nat) (o : Op) (waits : s.fenceOp x = some (c, o))
    (fence : (s.ctx x).fence = some (d, deadline)) (due : deadline ≤ s.now) (running : (s.ctx x).state = .running) :
    Gives (.epochFenceTimeout x) s (fun t => (t.ctx x).state = .stopped ∧ (t.ctx x).fence = none ∧
      Ended s t c o (.faulted 0x200F#16) ∧ t.ras.nextSeq = s.ras.nextSeq + 1 ∧ t.mem = s.mem) := by
  have arm : exec (.epochFenceTimeout x) s = execEpochFenceTimeout x s := rfl
  rw [Gives, arm, execEpochFenceTimeout, waits, fence]
  dsimp only
  rw [if_neg (Nat.not_lt.2 due)]
  refine ⟨_, rfl, ?_, ?_, ?_, ?_, ?_⟩
  · rw [State.recordOutcome_ctx, State.contained_ctx_same, State.modCtx_ctx_same]
    show (if (s.ctx x).state = .running ∨ (s.ctx x).state = .stopped then _ else _) = _
    rw [running]
    rfl
  · rw [State.recordOutcome_ctx, State.contained_ctx_same, State.modCtx_ctx_same]
  · rw [Ended, State.recordOutcome_inFlight, State.contained_core, State.modCtx_core]
  · rw [State.recordOutcome_ras, State.contained_ras, State.log_ras_short _ _ (by simp), Ras.push_nextSeq]
    rfl
  · rw [State.recordOutcome_mem, State.contained_mem, State.modCtx_mem]

/-! ### EPOCH_SWITCH (R314) -/

/-- Counts of clusters cleared: nothing but clusters changed. -/
theorem clearColStats_only (ks : List Nat) (s : State) :
    let t := ks.foldl (fun u k => u.modCluster k (fun z => { z with colStat := 0 })) s
    t.cores = s.cores ∧ t.ctxs = s.ctxs ∧ t.mem = s.mem :=
  foldl_keeps (fun t : State => t.cores = s.cores ∧ t.ctxs = s.ctxs ∧ t.mem = s.mem) _ _ _ ⟨rfl, rfl, rfl⟩ fun _ _ h => h

theorem epochSwitch_switches (c : CoreId) (table : Nat) (s u : State) (x : Nat) (e : EpochRec) (rs : List ShardRec)
    (passes : epochSwitchCheck s c = none) (runs : s.ctxOfCore c = some x) (record : s.epochRec x = some e)
    (held : (s.ctx x).heldTable = some rs)
    (stored : s.putEpoch x ⟨(e.epoch + 1) % 2 ^ 32, false, table, e.epoch, e.table⟩ = .ok u) :
    Gives (.epochSwitch c table) s (fun t => Ended s t c (.dma (.epochSwitch table)) .done ∧ t.mem = u.mem ∧
      (t.ctx x).heldTable = none ∧ (t.ctx x).switched = some (table, rs) ∧
      (∀ p, (t.ctx x).program = some p → p.shards = rs)) := by
  have arm : exec (.epochSwitch c table) s = execEpochSwitch c table s := rfl
  have core := (State.putEpoch_moved stored).core_eq c
  rw [Gives, arm, execEpochSwitch]
  dsimp only
  rw [passes, runs]
  dsimp only
  rw [record, held]
  dsimp only
  rw [stored]
  dsimp only
  generalize hw : u.modCtx x _ = w
  have ctx : w.ctx x = { u.ctx x with
      heldTable := none, program := (u.ctx x).program.map (fun p => { p with shards := rs })
      journaled := ownJournals rs, switched := some (table, rs) } := by rw [← hw, State.modCtx_ctx_same]
  have kept : w.core c = s.core c ∧ w.mem = u.mem := by rw [← hw, State.modCtx_core]; exact ⟨core, rfl⟩
  obtain ⟨cores, ctxs, mem⟩ := clearColStats_only (w.ctx x).clusters w
  generalize (w.ctx x).clusters.foldl _ w = v at cores ctxs mem ⊢
  have last : v.ctx x = w.ctx x := by rw [State.ctx, ctxs, State.ctx]
  refine ⟨_, rfl, ?_, mem.trans kept.2, ?_, ?_, fun p => ?_⟩
  · rw [Ended, State.recordOutcome_inFlight, State.core_of_cores cores, kept.1]
  · rw [State.recordOutcome_ctx, last, ctx]
  · rw [State.recordOutcome_ctx, last, ctx]
  · rw [State.recordOutcome_ctx, last, ctx]
    intro program
    obtain ⟨q, -, rfl⟩ := Option.map_eq_some_iff.1 program
    rfl

end

/-- Settles O30. -/
theorem epochOperations : Obligations.EpochOperations := by
  unfold Obligations.EpochOperations
  exact ⟨shardStage_runs, fun c f s u x e _ => epochFence_fences c f s u x e, epochFenceDrained_ends, epochFenceTimeout_stops,
    fun c table s u x e rs _ => epochSwitch_switches c table s u x e rs⟩

end Sys2Proof.Machine
end
section
/-! PROOFS. Collectives that start (O31): joining those of the cluster, and the first send of a Beacon collective. -/

namespace Sys2Proof.Machine

section
variable {s u : State} {x c : Nat} {f : CollF} {d : CollDesc} {beacon : Bool}

/-! ### A collective joins those of its cluster (R374, R379) -/

/-- The cluster that a collective joined. -/
theorem State.joined_cluster (s : State) (z : Coll) (d : CollDesc) :
    ∃ w, (s.joined z d).cluster (clusterOf z.core) = { s.cluster (clusterOf z.core) with
        colls := (s.cluster (clusterOf z.core)).colls ++ [z], colStat := w } ∧
      fld w 31 0 = (fld (s.cluster (clusterOf z.core)).colStat 31 0 + (z.stages.filter (·.armed)).length) % 2 ^ 32 := by
  have same : ∀ t : State, t.clusters = s.clusters → t.cluster (clusterOf z.core) = s.cluster (clusterOf z.core) := fun t h => by
    rw [State.cluster, h, State.cluster]
  unfold State.joined
  rw [State.modCluster_cluster_same]
  have before : (if d.op = 6 then s.modCtx z.ctx (fun v => { v with nonfinite := false }) else s).cluster (clusterOf z.core) =
      s.cluster (clusterOf z.core) := same _ (by split <;> rfl)
  rw [before]
  refine ⟨_, rfl, ?_⟩
  rw [fld_withFld_same _ _ (by omega) (by omega), Nat.mod_mod]

/-- The context's non-finite bit is cleared by a Beacon collective that joins, and stays with any other. -/
theorem State.joined_ctx (s : State) (z : Coll) (d : CollDesc) :
    (∀ y, (if d.op = 6 then { (s.joined z d).ctx y with nonfinite := (s.ctx y).nonfinite } else (s.joined z d).ctx y) = s.ctx y) ∧
    (d.op = 6 → ((s.joined z d).ctx z.ctx).nonfinite = false) := by
  have joined (y : Nat) : (s.joined z d).ctx y =
      (if d.op = 6 then s.modCtx z.ctx (fun v => { v with nonfinite := false }) else s).ctx y := rfl
  refine ⟨fun y => ?_, fun beacon => ?_⟩
  · rw [joined]
    split
    · by_cases own : y = z.ctx
      · subst own
        rw [State.modCtx_ctx_same]
      · rw [State.modCtx_ctx_other _ _ own]
    · rfl
  · rw [joined, if_pos beacon, State.modCtx_ctx_same]

/-- A collective that starts joins those of its cluster with the stages of its plan. -/
theorem State.newColl_joins (s : State) (x c : Nat) (f : CollF) (beacon : Bool) (d : CollDesc) (n : Word32) :
    JoinsCollectives s (s.joined (s.newColl x c f beacon d n) d) c x d (s.newColl x c f beacon d n) := by
  obtain ⟨w, cluster, count⟩ := s.joined_cluster (s.newColl x c f beacon d n) d
  obtain ⟨ctx, -⟩ := s.joined_ctx (s.newColl x c f beacon d n) d
  have core : (s.newColl x c f beacon d n).core = c := rfl
  rw [core] at cluster count
  refine ⟨by rw [cluster], rfl, rfl, ?_, by rw [cluster]; exact count, by rw [cluster], ctx, ?_⟩
  · show (d.plan.map (newStage d s.now)).map _ = d.plan
    rw [List.map_map]
    exact List.map_id _
  · unfold State.joined
    split <;> rfl

/-! ### COLL_START and BEACON -/

/-- What keeps a start back: the checks, a core that no context holds, and the operation's own collective. -/
theorem State.collOp_starts (s : State) (runs : s.ctxOfCore c = some x) (desc : s.collDesc x f.desc = some d)
    (new : ∀ z ∈ (s.cluster (clusterOf c)).colls, z.op ≠ (if beacon then .dma (.beacon f) else .dma (.collStart f)))
    (passes : collCheck s c f beacon = none) :
    s.collOp c f beacon = s.collStart x c f (beacon || d.op == 6) d
      (s.opEnv c (if beacon then .dma (.beacon f) else .dma (.collStart f))) := by
  have alone : (s.cluster (clusterOf c)).colls.any
      (fun z => z.core == c && z.op == (if beacon then .dma (.beacon f) else .dma (.collStart f))) = false := by
    rw [List.any_eq_false]
    intro z hz
    simp [new z hz]
  unfold State.collOp
  extract_lets o env
  rw [alone, Bool.and_false, if_neg (by decide), passes, runs]
  dsimp only
  rw [desc]

theorem State.collStart_goes {env : OpEnv}
    (first : (s.joined (s.newColl x c f beacon d env.stepNo) d).collFirst (clusterOf c) (s.newColl x c f beacon d env.stepNo) d =
      .ok u) : s.collStart x c f beacon d env = u.collGo x f.desc := by
  unfold State.collStart
  extract_lets z w
  rw [first]

/-- A check that passes: BEACON's descriptor is a Beacon's, and no collective of the descriptor is active. -/
theorem collCheck_passes (desc : s.collDesc x f.desc = some d) (runs : s.ctxOfCore c = some x) (passes : collCheck s c f beacon = none) :
    (beacon = true → d.op = 6) ∧ s.activeColl x f.desc = none := by
  unfold collCheck at passes
  rw [runs, Option.getD_some] at passes
  dsimp only at passes
  rw [desc] at passes
  have pass := (firstFail_eq_none _).1 passes
  have kind := pass (beacon && d.op != 6, colStatus 1) (by simp)
  have active := pass ((s.activeColl x f.desc).isSome, colStatus 5) (by simp)
  refine ⟨fun is => ?_, by simpa using active⟩
  rw [is] at kind
  simpa using kind

/-- Collectives of a cluster are no other's of a context and descriptor without an active one. -/
theorem State.activeColl_none {k : Nat} (free : s.activeColl x f.desc = none) (k16 : k < 16) :
    ∀ z ∈ (s.cluster k).colls, ¬(z.ctx = x ∧ z.f.desc = f.desc) := by
  unfold State.activeColl at free
  rw [List.findSome?_eq_none_iff] at free
  have none := free k (List.mem_range.2 k16)
  rw [Option.map_eq_none_iff, List.find?_eq_none] at none
  intro z hz same
  exact none z hz (by simp [same])

/-- A Beacon collective's first send is its own part, and changes nothing but its cluster's collectives. -/
theorem State.beacon_first (s : State) (k : Nat) (z : Coll) (op : d.op = 6) :
    s.collFirst k z d = .ok (s.modColl k z.ctx z.f.desc (fun y =>
      y.ownPart 0 0 1 y.nonfinite ((d.members + 7) / 8 + 4) (beaconData y) s.now d.deadlineUs)) := by
  unfold State.collFirst
  rw [op] <;> rfl

/-- A change of one collective of a cluster that holds no other of its context and descriptor. -/
theorem modColl_last (l : List Coll) (z : Coll) (g : Coll → Coll) (x desc : Nat) (own : z.ctx = x ∧ z.f.desc = desc)
    (others : ∀ y ∈ l, ¬(y.ctx = x ∧ y.f.desc = desc)) :
    (l ++ [z]).map (fun y => if y.ctx = x ∧ y.f.desc = desc then g y else y) = l ++ [g z] := by
  rw [List.map_append, List.map_cons, List.map_nil, if_pos own]
  congr 1
  exact (List.map_congr_left fun y hy => if_neg (others y hy)).trans (List.map_id _)

/-- A change of the collective that joined, where its cluster held none of its context and descriptor. -/
theorem State.joined_modColl (s : State) (z : Coll) (d : CollDesc) (g : Coll → Coll)
    (others : ∀ y ∈ (s.cluster (clusterOf z.core)).colls, ¬(y.ctx = z.ctx ∧ y.f.desc = z.f.desc)) :
    (((s.joined z d).modColl (clusterOf z.core) z.ctx z.f.desc g).cluster (clusterOf z.core)).colls =
      (s.cluster (clusterOf z.core)).colls ++ [g z] := by
  obtain ⟨w, cluster, -⟩ := s.joined_cluster z d
  rw [State.modColl, State.modCluster_cluster_same, cluster]
  exact modColl_last _ z g z.ctx z.f.desc ⟨rfl, rfl⟩ others

theorem State.joined_rest (s : State) (z : Coll) (d : CollDesc) : (s.joined z d).mem = s.mem ∧ (s.joined z d).now = s.now := by
  unfold State.joined
  split <;> exact ⟨rfl, rfl⟩

theorem State.modColl_mem (s : State) (k y desc : Nat) (g : Coll → Coll) : (s.modColl k y desc g).mem = s.mem := rfl

theorem collStart_joins (c : CoreId) (f : CollF) (s u : State) (x : Nat) (d : CollDesc) (runs : s.ctxOfCore c = some x)
    (desc : s.collDesc x f.desc = some d) (new : ∀ z ∈ (s.cluster (clusterOf c)).colls, z.op ≠ .dma (.collStart f))
    (passes : collCheck s c f false = none) :
    let z := s.newColl x c f (d.op == 6) d (s.opEnv c (.dma (.collStart f))).stepNo
    JoinsCollectives s (s.joined z d) c x d z ∧
    ((s.joined z d).collFirst (clusterOf c) z d = .ok u → exec (.collStart c f) s = .next (u.collGo x f.desc)) := by
  intro z
  refine ⟨s.newColl_joins x c f _ d _, fun first => ?_⟩
  have arm : exec (.collStart c f) s = .next (s.collOp c f false) := rfl
  rw [arm, State.collOp_starts (beacon := false) s runs desc new passes]
  exact congrArg _ (State.collStart_goes first)

theorem beacon_goes (c : CoreId) (f : CollF) (s v : State) (x : Nat) (d : CollDesc) (runs : s.ctxOfCore c = some x)
    (desc : s.collDesc x f.desc = some d) (new : ∀ z ∈ (s.cluster (clusterOf c)).colls, z.op ≠ .dma (.beacon f))
    (passes : collCheck s c f true = none) (first : (s.joined (s.newColl x c f true d (s.opEnv c (.dma (.beacon f))).stepNo) d).collFirst
      (clusterOf c) (s.newColl x c f true d (s.opEnv c (.dma (.beacon f))).stepNo) d = .ok v) :
    exec (.beacon c f) s = .next (v.collGo x f.desc) := by
  have arm : exec (.beacon c f) s = .next (s.collOp c f true) := rfl
  rw [arm, State.collOp_starts (beacon := true) s runs desc new passes]
  exact congrArg _ (State.collStart_goes first)

theorem beacon_joins (c : CoreId) (f : CollF) (s u : State) (x : Nat) (d : CollDesc) (runs : s.ctxOfCore c = some x)
    (desc : s.collDesc x f.desc = some d) (new : ∀ z ∈ (s.cluster (clusterOf c)).colls, z.op ≠ .dma (.beacon f))
    (passes : collCheck s c f true = none) :
    let z := s.newColl x c f true d (s.opEnv c (.dma (.beacon f))).stepNo
    JoinsCollectives s (s.joined z d) c x d z ∧ z.nonfinite = (s.ctx x).nonfinite ∧
    ((s.joined z d).ctx x).nonfinite = false ∧
    ((s.joined z d).collFirst (clusterOf c) z d = .ok u → exec (.beacon c f) s = .next (u.collGo x f.desc)) ∧
    ∃ v, exec (.beacon c f) s = .next (State.collGo v x f.desc) ∧ v.mem = s.mem ∧
      (v.cluster (clusterOf c)).colls = (s.cluster (clusterOf c)).colls ++
        [z.ownPart 0 0 1 z.nonfinite ((d.members + 7) / 8 + 4) (beaconData z) s.now d.deadlineUs] := by
  obtain ⟨isBeacon, free⟩ := collCheck_passes desc runs passes
  have op := isBeacon rfl
  have joins := s.newColl_joins x c f true d (s.opEnv c (.dma (.beacon f))).stepNo
  have goes (v : State) := beacon_goes c f s v x d runs desc new passes
  have core : (s.newColl x c f true d (s.opEnv c (.dma (.beacon f))).stepNo).core = c := rfl
  have ctx : (s.newColl x c f true d (s.opEnv c (.dma (.beacon f))).stepNo).ctx = x := rfl
  have fields : (s.newColl x c f true d (s.opEnv c (.dma (.beacon f))).stepNo).f = f := rfl
  have bit : (s.newColl x c f true d (s.opEnv c (.dma (.beacon f))).stepNo).nonfinite = (s.ctx x).nonfinite := rfl
  generalize s.newColl x c f true d (s.opEnv c (.dma (.beacon f))).stepNo = z at joins goes core ctx fields bit ⊢
  obtain ⟨mem, now⟩ := s.joined_rest z d
  refine ⟨joins, bit, by rw [← ctx]; exact (s.joined_ctx z d).2 op, goes u, _, goes _ (State.beacon_first _ _ _ op), ?_, ?_⟩
  · rw [State.modColl_mem, mem]
  · rw [← core, State.joined_modColl s z d _ (by
      rw [core, ctx, fields]
      exact State.activeColl_none free (by unfold clusterOf; omega)), now]

end

/-- Settles O31. -/
theorem collectivesStart : Obligations.CollectivesStart := by
  unfold Obligations.CollectivesStart
  exact fun c f s u x d runs desc => ⟨fun _ new passes => collStart_joins c f s u x d runs desc new passes,
    fun _ new passes => beacon_joins c f s u x d runs desc new passes⟩

end Sys2Proof.Machine
end
section
/-! PROOFS. Deadlines, member waits and the ring of collectives (O32). -/

namespace Sys2Proof.Machine

/-! ### Records that writes of context memory make (R490) -/

theorem State.writeVa_seqLe {s t : State} {x va : Nat} {agent : Agent} {bs : List Byte} {p : Bool}
    (runs : s.writeVa x agent va bs p = .ok t) : SeqLe s t := by
  have store (u : State) (l off : Nat) (bs : List Byte) (p : Bool) : SeqLe u (u.storeLine l off bs p []) :=
    (u.awake_seqLe l).trans (State.mergeLine_seqLe _ _ _ _ _ _)
  have write (u : State) (pa : Nat) (bs : List Byte) (f : Nat → Bool) : SeqLe u (u.writePa pa bs f) :=
    foldl_keeps (fun acc : State × List Byte => SeqLe u acc.1) _ _ _ (.refl u) fun acc q keep => keep.trans (store acc.1 _ _ _ _)
  unfold State.writeVa at runs
  split at runs
  · cases runs
  · cases runs
    exact foldl_keeps (fun acc : State × List Byte => SeqLe s acc.1) _ _ _ (.refl s) fun acc q keep => keep.trans (write acc.1 _ _ _)

theorem State.putVa_seqLe {s t : State} {x va : Nat} {agent : Agent} {bs : List Byte} (runs : s.putVa x agent va bs = .ok t) :
    SeqLe s t := by
  unfold State.putVa at runs
  split at runs
  · cases runs
  next u stored =>
    cases runs
    exact State.writeVa_seqLe stored

section
variable {s u : State} {k desc stage : Nat} {z : Coll} {st : Stage} {d : CollDesc}

/-! ### Deadlines and member waits (R381, R382) -/

theorem stageDeadline_closes (k : ClusterId) (desc stage : Nat) (s u : State) (z : Coll) (st : Stage) (d : CollDesc) (due : Nat)
    (found : (s.cluster k).colls.find? (fun z => z.f.desc == desc) = some z) (at_ : z.stage stage = some st)
    (named : s.collDesc z.ctx desc = some d) (deadline : st.deadline = some due) (passed : due ≤ s.now) (open_ : st.closed = false)
    (timed : d.timed st = true) (stays : s.mustSuspend z.ctx = false) (running : (s.ctx z.ctx).state = .running)
    (closes : s.closeStage k z d st = .ok u) :
    exec (.stageDeadline k desc stage) s = .next (u.collGo z.ctx desc) := by
  have arm : exec (.stageDeadline k desc stage) s = execStageDeadline k desc stage s := rfl
  rw [arm, execStageDeadline, found]
  dsimp only
  rw [at_, named]
  dsimp only
  rw [deadline]
  dsimp only
  rw [if_neg (by simp [open_, timed, stays, running, passed]), closes]

/-- A collective that faults is dropped, and its running context stops with a record. -/
theorem State.collFault_stops (s : State) (k : Nat) (z : Coll) (running : (s.ctx z.ctx).state = .running) :
    ((s.collFault k z).ctx z.ctx).state = .stopped ∧ s.ras.nextSeq < (s.collFault k z).ras.nextSeq ∧
      ∀ y ∈ ((s.collFault k z).cluster k).colls, y.ctx ≠ z.ctx ∨ y.f.desc ≠ z.f.desc := by
  unfold State.collFault
  extract_lets miss l t
  have before : (t.ctx z.ctx).state = .running ∧ SeqLe s t := by
    unfold t
    split
    next v stored => exact ⟨by rw [(State.putVa_memOnly stored).ctx_eq]; exact running, State.putVa_seqLe stored⟩
    next => exact ⟨running, .refl s⟩
  obtain ⟨stopped, number, -⟩ := t.contained_stops z.ctx l before.1
  clear_value t l
  generalize t.contained (some z.ctx) l = v at stopped number
  have rest : ((v.dropColl k z).recordOutcome z.core z.op (.faulted 0x200E#16)).ctxs = v.ctxs ∧
      ((v.dropColl k z).recordOutcome z.core z.op (.faulted 0x200E#16)).ras = v.ras := ⟨rfl, rfl⟩
  refine ⟨?_, ?_, fun y kept => ?_⟩
  · rw [State.ctx, rest.1]
    exact stopped
  · rw [rest.2]
    exact Nat.lt_of_le_of_lt before.2 number
  · rw [State.recordOutcome_cluster, State.dropColl, State.modCluster_cluster_same] at kept
    have other := (List.mem_filter.1 kept).2
    rw [Bool.not_eq_true', Bool.and_eq_false_iff] at other
    exact other.imp (fun h => by simpa using h) (fun h => by simpa using h)

theorem collWaitTimeout_stops (k : ClusterId) (desc stage : Nat) (s : State) (z : Coll) (st : Stage) (due : Nat)
    (found : (s.cluster k).colls.find? (fun z => z.f.desc == desc) = some z) (at_ : z.stage stage = some st)
    (open_ : st.closed = false) (waits : st.waitUntil = some due) (passed : due ≤ s.now) (stays : s.mustSuspend z.ctx = false)
    (running : (s.ctx z.ctx).state = .running) :
    Gives (.collWaitTimeout k desc stage) s (fun t => (t.ctx z.ctx).state = .stopped ∧ s.ras.nextSeq < t.ras.nextSeq ∧
      (∀ y ∈ (t.cluster k).colls, y.ctx ≠ z.ctx ∨ y.f.desc ≠ z.f.desc)) := by
  have arm : exec (.collWaitTimeout k desc stage) s = execCollWaitTimeout k desc stage s := rfl
  rw [Gives, arm, execCollWaitTimeout, found]
  dsimp only
  rw [at_, Option.bind_some, open_, if_neg (by decide), waits]
  dsimp only
  rw [if_neg (by simp [passed, stays, running])]
  exact ⟨_, rfl, s.collFault_stops k z running⟩

/-! ### The ring (R388) -/

/-- A message to a member: its class, and the member's node as its destination. -/
abbrev ToMember (node : Nat) (m : Message) : Prop := m.cls = clCol ∧ hDest m.hdr = node % 65536

theorem hDest_headerA (dest kind rtag detail : Nat) : hDest (headerA dest kind rtag detail) = dest % 65536 := by
  have steps : headerA dest kind rtag detail =
      setHf (setHf (setHf (setHf 0 94 79 dest) 22 19 kind) 18 15 rtag) 13 0 detail := rfl
  rw [steps, hDest, hf_setHf_other _ _ (by omega) (by omega) (by omega), hf_setHf_other _ _ (by omega) (by omega) (by omega),
    hf_setHf_other _ _ (by omega) (by omega) (by omega), hf_setHf_same _ _ (by omega) (by omega)]
  rfl

theorem piecesOf_ne_nil {α : Type} (n : Nat) (l : List α) (some : l ≠ []) (pos : 0 < n) : piecesOf n l ≠ [] := by
  have length := List.length_pos_iff.2 some
  have : 0 < (l.length + n - 1) / n := Nat.div_pos (by omega) pos
  unfold piecesOf
  rw [Ne, List.map_eq_nil_iff, List.range_eq_nil]
  omega

/-- What a collective sends joins the messages that wait to be sent: one at least, each for the named member. -/
theorem State.collSend_sends (s : State) (k : Nat) (z : Coll) (track code stage dest : Nat) (nonfinite : Bool) (count : Nat)
    (bs : List PByte) :
    ∃ ms, (s.collSend k z track code stage dest nonfinite count bs).xpt.toSend = s.xpt.toSend ++ ms ∧ ms ≠ [] ∧
      (∀ m ∈ ms, ToMember dest m) ∧ (s.collSend k z track code stage dest nonfinite count bs).mem = s.mem ∧
      (bs = [] → ms.length = 1) := by
  unfold State.collSend
  extract_lets lk h ps ms
  have some : ps ≠ [] := by
    unfold ps
    split
    · exact List.cons_ne_nil _ _
    · next more => exact piecesOf_ne_nil _ _ more (by omega)
  refine ⟨ms, rfl, ?_, fun m hm => ?_, rfl, fun empty => ?_⟩
  · unfold ms
    rw [Ne, List.map_eq_nil_iff, List.zipIdx_eq_nil_iff]
    exact some
  · obtain ⟨p, -, rfl⟩ := List.mem_map.1 hm
    exact ⟨rfl, hDest_headerA _ _ _ _⟩
  · unfold ms ps
    rw [if_pos empty]
    rfl

theorem ringStageArm_arms (k : ClusterId) (desc stage : Nat) (s : State) (z : Coll) (st prev : Stage) (d : CollDesc)
    (found : (s.cluster k).colls.find? (fun z => z.f.desc == desc) = some z) (at_ : z.stage stage = some st)
    (before : z.stage (stage - 1) = some prev) (named : s.collDesc z.ctx desc = some d) (ring : st.code = codeRing)
    (stays : s.mustSuspend z.ctx = false) (unarmed : st.armed = false) (turn : stage ≤ (s.flag k d.flagB).toNat + 2)
    (sent : prev.sent = true) (ended : prev.outstanding = 0) :
    Gives (.ringStageArm k desc stage) s (fun t => t.mem = s.mem ∧ ∃ m, t.xpt.toSend = s.xpt.toSend ++ [m] ∧ m.cls = clCol ∧
      hDest m.hdr = (s.members z.ctx d).getD ((s.ownPos z.ctx d + d.members - 1) % d.members) 0 % 65536) := by
  have arm : exec (.ringStageArm k desc stage) s = execRingStageArm k desc stage s := rfl
  rw [Gives, arm, execRingStageArm, found]
  dsimp only
  rw [at_, before, named]
  dsimp only
  rw [if_neg (by simp [ring, stays, unarmed, turn, sent, ended])]
  refine ⟨_, rfl, ?_⟩
  generalize hv : State.modCluster _ _ _ = v
  have rest : v.mem = s.mem ∧ v.xpt = s.xpt := by rw [← hv]; exact ⟨rfl, rfl⟩
  obtain ⟨ms, toSend, -, members, mem, one⟩ := v.collSend_sends k z stage codeCredit stage
    ((s.members z.ctx d).getD ((s.ownPos z.ctx d + d.members - 1) % d.members) 0) false 0 []
  obtain ⟨m, rfl⟩ := List.length_eq_one_iff.1 (one rfl)
  exact ⟨mem.trans rest.1, m, by rw [toSend, rest.2], members m List.mem_cons_self⟩

theorem ringStageSend_sends (k : ClusterId) (desc stage : Nat) (s : State) (z : Coll) (st : Stage) (d : CollDesc)
    (found : (s.cluster k).colls.find? (fun z => z.f.desc == desc) = some z) (at_ : z.stage stage = some st)
    (named : s.collDesc z.ctx desc = some d) (ring : st.code = codeRing)
    (stays : s.mustSuspend z.ctx = false) (later : 2 ≤ stage) (unsent : st.sent = false) (credit : st.credit = true)
    (ready : s.ringReady k z d stage = true) :
    ∃ (u : State) (ms : List Message), u.xpt.toSend = s.xpt.toSend ++ ms ∧ ms ≠ [] ∧
      (∀ m ∈ ms, m.cls = clCol ∧ hDest m.hdr = (s.members z.ctx d).getD ((s.ownPos z.ctx d + 1) % d.members) 0 % 65536) ∧
      exec (.ringStageSend k desc stage) s = .next (u.collGo z.ctx desc) := by
  have arm : exec (.ringStageSend k desc stage) s = execRingStageSend k desc stage s := rfl
  have read := (s.readPlace_moved z.core (.cm (d.ringOffset + (stage - 1) % 2 * d.aux)) d.aux).xpt
  rw [arm, execRingStageSend, found]
  dsimp only
  rw [at_, named]
  dsimp only
  rw [if_neg (by simp [ring, stays, unsent, credit, ready]; omega)]
  generalize s.readPlace z.core (.cm (d.ringOffset + (stage - 1) % 2 * d.aux)) d.aux = b at read
  obtain ⟨ms, toSend, some, members, -, -⟩ := b.1.collSend_sends k z stage codeRing stage
    ((s.members z.ctx d).getD ((s.ownPos z.ctx d + 1) % d.members) 0) z.nonfinite 1 b.2
  refine ⟨_, ms, ?_, some, members, rfl⟩
  exact toSend.trans (by rw [read])

end

/-- Settles O32. -/
theorem collectiveEventsAct : Obligations.CollectiveEventsAct := by
  unfold Obligations.CollectiveEventsAct
  exact ⟨⟨stageDeadline_closes, collWaitTimeout_stops⟩, fun k desc stage s z st prev d found at_ before named ring stays =>
    ⟨ringStageArm_arms k desc stage s z st prev d found at_ before named ring stays,
      ringStageSend_sends k desc stage s z st d found at_ named ring stays⟩⟩

end Sys2Proof.Machine
end
section
/-! PROOFS. Messages sent, resent and backed off (O33), and the replies that end them (O34). -/

namespace Sys2Proof.Machine

/-! ### Outbound contexts (R359) -/

section
variable {s : State} {id : Nat} {m : OutMsg}

theorem State.activeOut_putOut (s : State) (id : Nat) (m : OutMsg) (live : m.ended = false) :
    (s.putOut id (some m)).activeOut id = some m := by
  unfold State.activeOut State.putOut
  dsimp only
  rw [sget_sset_same]
  simp [live]

theorem State.activeOut_live (active : s.activeOut id = some m) : m.ended = false := by
  have live := (Option.filter_eq_some_iff.1 active).2
  simpa using live

/-- A message's cells go out in its generation, and its resend timer starts. -/
theorem State.sendCells_sends (s : State) (id : Nat) (m : OutMsg) (live : m.ended = false) :
    (s.sendCells id m).xpt.injected = s.xpt.injected ++ m.msg.cells s.node id m.gen.toNat ∧
    (s.sendCells id m).activeOut id = some { m with resendAt := some (s.now + s.xpt.resendNs), backoffAt := none } ∧
    (s.sendCells id m).xpt.toSend = s.xpt.toSend ∧ (s.sendCells id m).xpt.msgStat = s.xpt.msgStat ∧ (s.sendCells id m).mem = s.mem :=
  ⟨rfl, State.activeOut_putOut _ _ _ live, rfl, rfl, rfl⟩

/-- A resend raises the generation and counts. -/
theorem State.resend_sends (s : State) (id : Nat) (m : OutMsg) (live : m.ended = false) :
    (s.resend id m).xpt.injected = s.xpt.injected ++ m.msg.cells s.node id (m.gen + 1).toNat ∧
    (s.resend id m).activeOut id =
      some { m with gen := m.gen + 1, resendAt := some (s.now + s.xpt.resendNs), backoffAt := none } ∧
    (s.resend id m).xpt.msgStat = bumpFld s.xpt.msgStat 31 16 1 := by
  have counted (w : Word64) : ∃ t : State, State.sendCells { s with xpt := { s.xpt with msgStat := w } } id { m with gen := m.gen + 1 } =
      t.sendCells id { m with gen := m.gen + 1 } ∧ t.xpt.injected = s.xpt.injected ∧ t.node = s.node ∧ t.now = s.now ∧
      t.xpt.resendNs = s.xpt.resendNs ∧ t.xpt.msgStat = w := ⟨_, rfl, rfl, rfl, rfl, rfl, rfl⟩
  obtain ⟨t, run, before, node, now, wait, count⟩ := counted (bumpFld s.xpt.msgStat 31 16 1)
  obtain ⟨injected, active, -, stat, -⟩ := t.sendCells_sends id { m with gen := m.gen + 1 } live
  unfold State.resend
  dsimp only
  rw [run]
  exact ⟨by rw [injected, before, node], by rw [active, now, wait], by rw [stat, count]⟩

theorem messageSend_sends (i : Nat) (s : State) (m : Message) (id : Nat) (waits : s.xpt.toSend[i]? = some m)
    (topo : s.xpt.topo.isSome = true) (free : s.freeOutbound = some id) (may : s.mayStart m = true) (turn : s.inTurn m = true) :
    Gives (.messageSend i) s (fun t => t.xpt.toSend = s.xpt.toSend.eraseIdx i ∧
      t.xpt.injected = s.xpt.injected ++ m.cells s.node id 0 ∧
      (∃ w, t.activeOut id = some w ∧ w.msg = m ∧ w.gen = 0 ∧ w.resends = 0 ∧ w.backoffUs = 10 ∧
        w.resendAt = some (s.now + s.xpt.resendNs)) ∧ t.mem = s.mem) := by
  have arm : exec (.messageSend i) s = execMessageSend i s := rfl
  obtain ⟨topology, loaded⟩ := Option.isSome_iff_exists.1 topo
  rw [Gives, arm, execMessageSend, waits, loaded, free]
  dsimp only
  rw [may, turn, if_pos (by decide)]
  refine ⟨_, rfl, ?_⟩
  obtain ⟨injected, active, toSend, -, mem⟩ := State.sendCells_sends
    { s with freeCtr := s.freeCtr + 1, xpt := { s.xpt with toSend := s.xpt.toSend.eraseIdx i } } id
    ⟨m, 0, 0, 10, none, none, none, [], 0, false, 0⟩ rfl
  exact ⟨toSend, injected, ⟨_, active, rfl, rfl, rfl, rfl, rfl⟩, mem⟩

theorem resendTimeout_resends (id : Nat) (s : State) (m : OutMsg) (due : Nat) (active : s.activeOut id = some m)
    (timer : m.resendAt = some due) (passed : due ≤ s.now) :
    (m.resends < s.xpt.resendLimit → Gives (.resendTimeout id) s (fun t =>
      t.xpt.injected = s.xpt.injected ++ m.msg.cells s.node id (m.gen + 1).toNat ∧
      t.activeOut id = some { m with gen := m.gen + 1, resends := m.resends + 1, backoffAt := none
                                     resendAt := some (s.now + s.xpt.resendNs) } ∧
      t.xpt.msgStat = bumpFld s.xpt.msgStat 31 16 1)) ∧
    (s.xpt.resendLimit ≤ m.resends → exec (.resendTimeout id) s = .next (s.msgEnd id m .faulted)) := by
  have arm : exec (.resendTimeout id) s = execResendTimeout id s := rfl
  have due' : ¬s.now < due := Nat.not_lt.2 passed
  have live := State.activeOut_live active
  refine ⟨fun more => ?_, fun last => ?_⟩
  · rw [Gives, arm, execResendTimeout, active]
    dsimp only
    rw [timer]
    dsimp only
    rw [if_neg due', if_neg (Nat.not_le.2 more)]
    exact ⟨_, rfl, State.resend_sends s id { m with resends := m.resends + 1 } live⟩
  · rw [arm, execResendTimeout, active]
    dsimp only
    rw [timer]
    dsimp only
    rw [if_neg due', if_pos last]

theorem nakBackoffExpiry_resends (id : Nat) (s : State) (m : OutMsg) (due : Nat) (active : s.activeOut id = some m)
    (timer : m.backoffAt = some due) (passed : due ≤ s.now) :
    Gives (.nakBackoffExpiry id) s (fun t =>
      t.xpt.injected = s.xpt.injected ++ m.msg.cells s.node id (m.gen + 1).toNat ∧
      t.activeOut id = some { m with gen := m.gen + 1, backoffAt := none, resendAt := some (s.now + s.xpt.resendNs) }) := by
  have arm : exec (.nakBackoffExpiry id) s = execNakBackoffExpiry id s := rfl
  rw [Gives, arm, execNakBackoffExpiry, active]
  dsimp only
  rw [timer]
  dsimp only
  rw [if_neg (Nat.not_lt.2 passed)]
  obtain ⟨injected, resent, -⟩ := s.resend_sends id m (State.activeOut_live active)
  exact ⟨_, rfl, injected, resent⟩

theorem nakLimitExpiry_ends (id : Nat) (s : State) (m : OutMsg) (due : Nat) (active : s.activeOut id = some m)
    (timer : m.nakAt = some due) (passed : due ≤ s.now) : exec (.nakLimitExpiry id) s = .next (s.msgEnd id m .faulted) := by
  have arm : exec (.nakLimitExpiry id) s = execNakLimitExpiry id s := rfl
  rw [arm, execNakLimitExpiry, active]
  dsimp only
  rw [timer]
  dsimp only
  rw [if_neg (Nat.not_lt.2 passed)]

/-! ### Reply cells (R351, R353, R362, R365) -/

variable {c : Cell} {x : Bool}

/-- A cell that leaves its buffer leaves ports and what transport has injected, and nothing else. -/
theorem State.takeCell_only (s : State) (c : Cell) :
    { s.takeCell c with ports := s.ports, xpt := { (s.takeCell c).xpt with injected := s.xpt.injected } } = s := by
  unfold State.takeCell
  split
  · rfl
  split
  · rfl
  split <;> rfl

theorem State.takeCell_ctx (s : State) (c : Cell) (x : Nat) : (s.takeCell c).ctx x = s.ctx x := (congrArg (State.ctx · x) (s.takeCell_only c) :)

/-- A good reply cell is used as what its message awaits. -/
theorem State.replyRow_good {ok : Nat → Bool} (good : GoodCell s c x clRsp) (reply : x = true → xReply c.hdr = true)
    (kind : ok (replyKind c.hdr) = true) : s.replyRow c x ok = (s.takeCell c).reply c := by
  obtain ⟨here, whole, format, cls, crc⟩ := good
  have exchange : (!x || xReply c.hdr) = true := by
    cases x with
    | false => rfl
    | true => exact reply rfl
  unfold State.replyRow
  rw [here, format, exchange, kind, cls, if_pos (by simp)]
  dsimp only
  rw [whole, crc, if_neg (by decide), if_pos rfl]

theorem nakRetry_backsOff (c : Cell) (s : State) (id : Nat) (m : OutMsg) (good : GoodCell s c false clRsp)
    (kind : replyKind c.hdr = 1) (named : (s.takeCell c).replyTo c.hdr = some (id, m)) (first : m.backoffAt = none)
    (gen : hGen c.hdr = m.gen.toNat) :
    Gives (.nakRetry c) s (fun t => t.activeOut id = some { m with
      resendAt := none, backoffAt := some (s.now + m.backoffUs * 1000), backoffUs := min (2 * m.backoffUs) 10000
      nakAt := m.nakAt.or (some (s.now + s.xpt.nakNs)) } ∧ t.mem = s.mem) := by
  have arm : exec (.nakRetry c) s = .next (s.replyRow c false (· == 1)) := rfl
  have only := s.takeCell_only c
  have format : hIsX c.hdr = false := good.2.2.1
  rw [Gives, arm, State.replyRow_good good nofun (by simp [kind])]
  generalize s.takeCell c = u at named only
  have now : u.now = s.now := (congrArg State.now only :)
  have limit : u.xpt.nakNs = s.xpt.nakNs := (congrArg (fun w : State => w.xpt.nakNs) only :)
  have mem : u.mem = s.mem := (congrArg State.mem only :)
  have live : m.ended = false := by
    rw [State.replyTo, format, if_neg (by decide)] at named
    obtain ⟨w, active, pair⟩ := Option.map_eq_some_iff.1 named
    obtain ⟨rfl, rfl⟩ := Prod.mk.inj pair
    exact State.activeOut_live (Option.filter_eq_some_iff.1 active).1
  have reply : u.reply c = u.nakRetried id m (hGen c.hdr) := by
    unfold State.reply
    dsimp only
    rw [named]
    simp only [kind]
  rw [reply, State.nakRetried, if_neg (by simp [first, gen])]
  rw [now, limit]
  exact ⟨_, rfl, State.activeOut_putOut _ _ _ live, mem⟩

end

/-- Settles O33. -/
theorem messagesAreSentAndResent : Obligations.MessagesAreSentAndResent := by
  unfold Obligations.MessagesAreSentAndResent
  exact ⟨⟨messageSend_sends, resendTimeout_resends⟩, nakRetry_backsOff, nakBackoffExpiry_resends, nakLimitExpiry_ends⟩

section
variable {s u : State} {id : Nat} {m : OutMsg} {c : Cell}

/-- What a reply of each kind does to the message that it names. -/
theorem State.reply_ends (named : s.replyTo c.hdr = some (id, m)) :
    (replyKind c.hdr = 0 → (hIsX c.hdr = false → m.msg.isKind 1 = false ∧ m.msg.isKind 2 = false) → s.reply c = s.msgEnd id m .done) ∧
    (replyKind c.hdr = 2 → s.reply c = s.msgEnd id m (.refused (replyCode c.hdr))) ∧
    (replyKind c.hdr = 3 → hIsX c.hdr = false → m.msg.isKind 1 = true → s.reply c = s.answer id m c.hdr 48 c.payload) ∧
    (replyKind c.hdr = 4 → hIsX c.hdr = false → m.msg.isKind 2 = true → s.reply c = s.answer id m c.hdr 8 c.payload) := by
  unfold State.reply
  dsimp only
  rw [named]
  dsimp only
  refine ⟨fun kind asks => ?_, fun kind => by simp only [kind], fun kind format get => ?_, fun kind format atomic => ?_⟩
  · simp only [kind]
    refine if_neg ?_
    cases format : hIsX c.hdr with
    | true => simp
    | false => simp [asks format]
  · simp only [kind, format, get]
    rfl
  · simp only [kind, format, atomic]
    rfl

/-- The only answer cell of a message ends it once its data stand at the destination. -/
theorem State.answer_ends {dst : Loc} {len lc pos core w : Nat} {h : BitVec 96} {payload : List Byte}
    (awaits : m.msg.getDst = some (dst, len)) (owner : m.msg.owner = .op lc pos) (some_ : 1 ≤ len) (one : len ≤ w) (last : hLast h = 0)
    (idx : hIdx h = 0) (gen : hGen h = m.getGen.toNat) (fresh : m.gotIdx = []) (at_ : (s.ctx m.msg.ctx).physicalCore lc = some core)
    (lands : s.landData m.msg.ctx core pos dst ((sliceBytes payload 0 len).map (fun b => (b, aPoison h))) = .ok u) :
    s.answer id m h w payload = u.msgEnd id { m with gotIdx := [0] } .done := by
  have cells : (len + w - 1) / w = 1 := by
    rw [show len + w - 1 = w + (len - 1) by omega, Nat.add_div_left _ (by omega), Nat.div_eq_of_lt (by omega)]
  have bytes : min w (len - w * 0) = len := by omega
  have place : (⟨dst.kind, dst.addr + w * 0⟩ : Loc) = dst := rfl
  have same : BitVec.ofNat 3 m.getGen.toNat = m.getGen := BitVec.eq_of_toNat_eq (by simp)
  unfold State.answer
  rw [awaits, owner]
  dsimp only
  rw [last, idx, cells, if_neg (by simp), gen, if_neg (by simp), if_pos rfl, at_]
  dsimp only
  rw [bytes, place, lands]
  dsimp only
  rw [fresh, same, if_pos (show ([] ++ [0] : List Nat).length = 0 + 1 from rfl)]
  rfl

end

/-- Settles O34. -/
theorem repliesEndMessages : Obligations.RepliesEndMessages := by
  unfold Obligations.RepliesEndMessages
  intro c s id m named
  obtain ⟨done, refused, get, atomic⟩ := State.reply_ends named
  refine ⟨fun good reply kind => ?_, fun good kind noGet noAtomic => ?_, fun good kind => ?_,
    fun dst len lc pos core u good awaits owner some_ last idx gen fresh at_ lands => ⟨fun kind small isGet => ?_, fun kind eight isAtomic => ?_⟩⟩
  · have arm : exec (.xchReply c) s = .next (s.replyRow c true (fun _ => true)) := rfl
    have format : hIsX c.hdr = true := good.2.2.1
    rw [arm, State.replyRow_good good (fun _ => reply) rfl, done kind (by simp [format])]
  · have arm : exec (.completion c) s = .next (s.replyRow c false (· == 0)) := rfl
    rw [arm, State.replyRow_good good nofun (by simp [kind]), done kind fun _ => ⟨noGet, noAtomic⟩]
  · have arm : exec (.nakRefuse c) s = .next (s.replyRow c false (· == 2)) := rfl
    rw [arm, State.replyRow_good good nofun (by simp [kind]), refused kind]
  · rw [← s.takeCell_ctx c] at at_
    have arm : exec (.getData c) s = .next (s.replyRow c false (· == 3)) := rfl
    rw [arm, State.replyRow_good good nofun (by simp [kind]), get kind good.2.2.1 isGet,
      State.answer_ends awaits owner some_ small last idx gen fresh at_ lands]
  · rw [← s.takeCell_ctx c] at at_
    have arm : exec (.atomicResult c) s = .next (s.replyRow c false (· == 4)) := rfl
    rw [arm, State.replyRow_good good nofun (by simp [kind]), atomic kind good.2.2.1 isAtomic,
      State.answer_ends awaits owner some_ eight.le last idx gen fresh at_ lands]

end Sys2Proof.Machine
end
section
/-! PROOFS. Outcomes of messages, and the tables of contexts and retire records (O35). -/

namespace Sys2Proof.Machine

/-! ### The outcome of an operation's message (R359) -/

section
variable {s : State} {x id lc pos c : Nat} {m : OutMsg} {r : MsgEnd}

/-- The outcome that an operation's entry takes from its message. -/
def MsgEnd.entryOutcome : MsgEnd → Outc
  | .done => .done
  | .refused code => .refused (nakStatus code)
  | .faulted => .faulted 0

/-- A message's outcome ends its operation's entry, where none of its data still go to far memory. -/
theorem State.opMsgEnd_ends (at_ : (s.ctx x).physicalCore lc = some c) (near : s.hp.chunks = []) :
    s.opMsgEnd x lc pos r = s.modCore c (fun u => { u with
      dmaF := replaceFirst (fun e => e.pos == pos && e.result.isNone) (fun e => { e with result := some r.entryOutcome }) u.dmaF }) := by
  have ends (o : Outc) : s.endEntry x lc pos o = s.modCore c (fun u => { u with
      dmaF := replaceFirst (fun e => e.pos == pos && e.result.isNone) (fun e => { e with result := some o }) u.dmaF }) := by
    unfold State.endEntry
    rw [at_]
  unfold State.opMsgEnd
  extract_lets busy
  have still : busy = false := by
    unfold busy
    rw [at_, near]
    rfl
  cases r with
  | done =>
    dsimp only
    rw [still, if_neg (by decide), ends]
    rfl
  | refused code => exact ends _
  | faulted => exact ends _

/-- The message's context, count and entry once an operation's message has reached its outcome. -/
theorem State.msgEnd_op (owner : m.msg.owner = .op lc pos) (stays : s.mustSuspend m.msg.ctx = false)
    (at_ : (s.ctx m.msg.ctx).physicalCore lc = some c) (near : s.hp.chunks = []) :
    (s.msgEnd id m r).xpt.msgStat = countEnd s.xpt.msgStat r ∧
    (∃ w, sget none (s.msgEnd id m r).xpt.outbound id = some w ∧ w.ended = true ∧ w.reuseAt = s.now + s.xpt.retireNs) ∧
    ((s.msgEnd id m r).core c).dmaF =
      replaceFirst (fun e => e.pos == pos && e.result.isNone) (fun e => { e with result := some r.entryOutcome }) (s.core c).dmaF := by
  have ended (w : Word64) : ∃ t : State, { s.putOut id (some { m with ended := true, reuseAt := s.now + s.xpt.retireNs, resendAt := none
                                                                      backoffAt := none, nakAt := none }) with
      xpt := { (s.putOut id (some { m with ended := true, reuseAt := s.now + s.xpt.retireNs, resendAt := none
                                           backoffAt := none, nakAt := none })).xpt with msgStat := w } } = t ∧
      t.ctxs = s.ctxs ∧ t.hp = s.hp ∧ t.cores = s.cores ∧ t.xpt.msgStat = w ∧ t.xpt.outbound = sset none s.xpt.outbound id
        (some { m with ended := true, reuseAt := s.now + s.xpt.retireNs, resendAt := none, backoffAt := none, nakAt := none }) :=
    ⟨_, rfl, rfl, rfl, rfl, rfl, rfl⟩
  obtain ⟨t, run, ctxs, hp, cores, stat, outbound⟩ := ended (countEnd s.xpt.msgStat r)
  have placed : (t.ctx m.msg.ctx).physicalCore lc = some c := by rw [State.ctx, ctxs]; exact at_
  have whole : s.msgEnd id m r = t.opMsgEnd m.msg.ctx lc pos r := by
    unfold State.msgEnd
    dsimp only
    rw [stays, if_neg (by decide)]
    unfold State.applyEnd
    rw [owner]
    exact congrArg (fun u : State => u.opMsgEnd m.msg.ctx lc pos r) run
  rw [whole, State.opMsgEnd_ends placed (by rw [hp, near])]
  refine ⟨stat, ⟨{ m with ended := true, reuseAt := s.now + s.xpt.retireNs, resendAt := none, backoffAt := none, nakAt := none }, ?_, rfl, rfl⟩, ?_⟩
  · rw [State.modCore_xpt, outbound, sget_sset_same]
  · rw [State.modCore_core_same, State.core_of_cores cores]

theorem outboundContextReuse_frees (id : Nat) (s : State) (m : OutMsg) (held : sget none s.xpt.outbound id = some m)
    (ended : m.ended = true) (due : m.reuseAt ≤ s.now) :
    Gives (.outboundContextReuse id) s (fun t => sget none t.xpt.outbound id = none ∧
      (∀ j, j ≠ id → sget none t.xpt.outbound j = sget none s.xpt.outbound j) ∧ t.mem = s.mem) := by
  have arm : exec (.outboundContextReuse id) s = execOutboundContextReuse id s := rfl
  rw [Gives, arm, execOutboundContextReuse, held]
  dsimp only
  rw [if_pos ⟨ended, due⟩]
  exact ⟨_, rfl, sget_sset_same none s.xpt.outbound id none, fun j other => sget_sset_other none s.xpt.outbound none other, rfl⟩

/-! ### Inbound contexts and retire records (R360, R363) -/

theorem inboundContextTimeout_frees (i : Nat) (s : State) (m : InMsg) (held : sget none s.xpt.inbound i = some m)
    (open_ : m.reply = none) (lapsed : m.lapseAt ≤ s.now) :
    Gives (.inboundContextTimeout i) s (fun t => sget none t.xpt.inbound i = none ∧
      t.xpt.staging = s.xpt.staging - m.reserve ∧ t.mem = s.mem) := by
  have arm : exec (.inboundContextTimeout i) s = execInboundContextTimeout i s := rfl
  rw [Gives, arm, execInboundContextTimeout, held]
  dsimp only
  rw [if_neg (by simp [open_, lapsed])]
  exact ⟨_, rfl, sget_sset_same none s.xpt.inbound i none, rfl, rfl⟩

/-- Where no context waits for a retire record, a free entry stays free. -/
theorem State.retireSettle_quiet (s : State) (quiet : ∀ e ∈ s.xpt.inbound, ∀ m, e.2 = some m → m.reply = none) : s.retireSettle = s := by
  unfold State.retireSettle
  generalize s.xpt.inbound = l at quiet
  induction l with
  | nil => rfl
  | cons e l ih =>
    rw [List.foldl_cons]
    have still := quiet e List.mem_cons_self
    have first : (match e.2 with
        | some m => match m.reply with
          | some r => if s.xpt.retire.length < retireEntries then s.retire e.1 m r else s
          | none => s
        | none => s) = s := by
      cases h : e.2 with
      | none => rfl
      | some m =>
        dsimp only
        rw [still m h]
    exact (congrArg (fun u : State => l.foldl _ u) first).trans (ih fun d hd => quiet d (List.mem_cons_of_mem e hd))

theorem retireExpiry_lapses (i : Nat) (s : State) (r : Retire) (due : Nat) (held : s.xpt.retire[i]? = some r)
    (lapse : r.lapse = some due) (passed : due ≤ s.now) (quiet : ∀ e ∈ s.xpt.inbound, ∀ m, e.2 = some m → m.reply = none) :
    Gives (.retireExpiry i) s (fun t => t.xpt.retire = s.xpt.retire.eraseIdx i ∧ t.xpt.inbound = s.xpt.inbound ∧ t.mem = s.mem) := by
  have arm : exec (.retireExpiry i) s = execRetireExpiry i s := rfl
  rw [Gives, arm, execRetireExpiry, held]
  dsimp only
  rw [lapse]
  dsimp only
  have settled := State.retireSettle_quiet { s with xpt := { s.xpt with retire := s.xpt.retire.eraseIdx i } } quiet
  rw [if_neg (Nat.not_lt.2 passed), settled]
  exact ⟨_, rfl, rfl, rfl, rfl⟩

end

/-- Settles O35. -/
theorem messageTablesAct : Obligations.MessageTablesAct := by
  unfold Obligations.MessageTablesAct
  refine ⟨⟨fun s id lc pos c m owner stays at_ near => ?_, outboundContextReuse_frees⟩, inboundContextTimeout_frees, retireExpiry_lapses⟩
  have ends (r : MsgEnd) := State.msgEnd_op (id := id) (r := r) owner stays at_ near
  exact ⟨(ends .done).1, (ends .faulted).1, fun code => (ends (.refused code)).1, fun r => (ends r).2.1, (ends .done).2.2,
    fun code => (ends (.refused code)).2.2⟩

end Sys2Proof.Machine
end
section
/-! PROOFS. The module's pins: input voltage, thermal trip, reference clocks and rails (O57). -/

namespace Sys2Proof.Machine

/-! ### Input voltage and rails (R508 to R510, R513) -/

theorem beyondRatings_stops (mv us : Nat) (s : State) (high : 66000 < mv) :
    exec (.input48vLoss mv us) s = .fault .beyondRatings ∧ exec (.input48vOutsideRange mv) s = .fault .beyondRatings := by
  have loss : exec (.input48vLoss mv us) s = execInput48vLoss mv us s := rfl
  have outside : exec (.input48vOutsideRange mv) s = execInput48vOutsideRange mv s := rfl
  rw [loss, outside, execInput48vLoss, execInput48vOutsideRange, if_pos high, if_pos high]
  exact ⟨rfl, rfl⟩

theorem input48vOutsideRange_alerts (mv : Nat) (s : State) (rated : mv ≤ 66000) :
    Gives (.input48vOutsideRange mv) s (fun t => t.pins.input48 = mv ∧
      ((mv < 40000 ∨ 60000 < mv) → t.pins.alertLow = true) ∧ t.mem = s.mem) := by
  have arm : exec (.input48vOutsideRange mv) s = execInput48vOutsideRange mv s := rfl
  rw [Gives, arm, execInput48vOutsideRange, if_neg (Nat.not_lt.2 rated)]
  refine ⟨_, rfl, rfl, fun outside => ?_, rfl⟩
  have cause : decide (mv < 40000 ∨ 60000 < mv) = true := decide_eq_true outside
  show (_ || decide (mv < 40000 ∨ 60000 < mv)) = true
  rw [cause, Bool.or_true]

theorem railRegainsRegulation_releases (r : Rail) (s : State) :
    Gives (.railRegainsRegulation r) s (fun t => railNo r ∉ t.pins.railsOut ∧
      (s.power.vsoc = true → (∀ q, q < 4 → (s.rail q).up = true) → (∀ n ∈ s.pins.railsOut, n = railNo r) → t.pins.pwrOk = true)) := by
  refine ⟨_, rfl, ?_, fun soc up only => ?_⟩
  · show railNo r ∉ s.pins.railsOut.filter (· != railNo r)
    simp
  · show (s.power.vsoc && (s.pins.railsOut.filter (· != railNo r)).isEmpty && (List.range 4).all (fun q => (s.rail q).up)) = true
    have out : s.pins.railsOut.filter (· != railNo r) = [] := List.filter_eq_nil_iff.2 fun n h => by simp [only n h]
    have all : (List.range 4).all (fun q => (s.rail q).up) = true := List.all_eq_true.2 fun q h => up q (List.mem_range.1 h)
    rw [soc, out, all]
    rfl

theorem railLeavesRegulation_marks (r : Rail) (s : State) (soc : s.power.vsoc = true) :
    Gives (.railLeavesRegulation r) s (fun t => t.pins.pwrOk = false ∧ railNo r ∈ t.pins.railsOut ∧ t.mem = s.mem) := by
  have arm : exec (.railLeavesRegulation r) s = execRailLeavesRegulation r s := rfl
  rw [Gives, arm, execRailLeavesRegulation, if_pos soc]
  exact ⟨_, rfl, rfl, List.mem_append_right _ List.mem_cons_self, rfl⟩

/-! ### Fatal errors of the module -/

/-- A fatal error leaves the supplies, the clusters and main memory. -/
theorem State.fatalError_supplies (s : State) (l : LogArgs) (fabric : Bool) :
    (s.fatalError l fabric).power = s.power ∧ (s.fatalError l fabric).clusters = s.clusters ∧ (s.fatalError l fabric).mem = s.mem := by
  have step {f : State → Nat → State} (keep : ∀ u x, (f u x).power = u.power ∧ (f u x).clusters = u.clusters ∧ (f u x).mem = u.mem)
      (l : List Nat) (t : State) : (l.foldl f t).power = t.power ∧ (l.foldl f t).clusters = t.clusters ∧ (l.foldl f t).mem = t.mem :=
    foldl_keeps (fun u : State => u.power = t.power ∧ u.clusters = t.clusters ∧ u.mem = t.mem) _ _ _ ⟨rfl, rfl, rfl⟩ fun u x h =>
      ⟨(keep u x).1.trans h.1, (keep u x).2.1.trans h.2.1, (keep u x).2.2.trans h.2.2⟩
  unfold State.fatalError
  extract_lets l' r s1 s2 s3 s4
  have h2 : s2.power = s1.power ∧ s2.clusters = s1.clusters ∧ s2.mem = s1.mem := step (fun u x => by
    split
    · exact ⟨rfl, rfl, rfl⟩
    · exact ⟨State.modCtx_power _ _ _, State.modCtx_clusters _ _ _, State.modCtx_mem _ _ _⟩) _ _
  have h3 : s3.power = s2.power ∧ s3.clusters = s2.clusters ∧ s3.mem = s2.mem := step (fun u x => by
    split
    · exact ⟨rfl, rfl, rfl⟩
    · exact ⟨State.modCore_power _ _ _, State.modCore_clusters _ _ _, State.modCore_mem _ _ _⟩) _ _
  have h4 : s4.power = s3.power ∧ s4.clusters = s3.clusters ∧ s4.mem = s3.mem := by
    unfold s4
    split
    · exact step (f := fun u p => u.modPort p Port.fatalOff) (fun u x =>
        ⟨State.modPort_power _ _ _, State.modPort_clusters _ _ _, State.modPort_mem _ _ _⟩) _ _
    · exact ⟨rfl, rfl, rfl⟩
  obtain ⟨power, clusters, mem⟩ : s4.power = s.power ∧ s4.clusters = s.clusters ∧ s4.mem = s.mem :=
    ⟨h4.1.trans (h3.1.trans (h2.1.trans (State.log_power _ _))), h4.2.1.trans (h3.2.1.trans (h2.2.1.trans (State.log_clusters _ _))),
      h4.2.2.trans (h3.2.2.trans (h2.2.2.trans (State.log_mem _ _)))⟩
  rw [State.noticeDev_power, State.noticeDev_clusters, State.noticeDev_mem]
  exact ⟨power, clusters, mem⟩

/-- An internal error is fatal and takes one record. -/
theorem State.internalError_marks (s : State) (inst : Nat) :
    (s.internalError inst).ras.fatal = true ∧ (s.internalError inst).ras.nextSeq = s.ras.nextSeq + 1 ∧
      (s.internalError inst).pins = { s.pins with alertLow := true } := by
  obtain ⟨ras, pins⟩ := s.drawn.fatalError_marks { cls := 3, cause := 0x201C#16, block := 0x0C, inst := inst
                                                   detail := leBytes 2 (Config.freeNat s.freeCtr) } false
  have one := State.log_one s.drawn (l := { cls := 3, cause := 0x201C#16, block := 0x0C, inst := inst
                                            detail := leBytes 2 (Config.freeNat s.freeCtr) }) (by simp [leBytes])
  exact ⟨congrArg Ras.fatal ras, (congrArg Ras.nextSeq ras).trans one, pins⟩

theorem railOutOfRegulation_marks (r : Rail) (s : State) (soc : s.power.vsoc = true) :
    Gives (.railOutOfRegulation r) s (fun t => t.pins.pwrOk = false ∧ t.ras.fatal = true ∧ t.ras.nextSeq = s.ras.nextSeq + 1) := by
  have arm : exec (.railOutOfRegulation r) s = execRailOutOfRegulation r s := rfl
  rw [Gives, arm, execRailOutOfRegulation, if_pos soc]
  obtain ⟨fatal, seq, pins⟩ := (s.railOut r).internalError_marks (railInst r)
  exact ⟨_, rfl, congrArg Pins.pwrOk pins, fatal, seq⟩

/-! ### Thermal trip (R515) -/

/-- A cluster that is powered down is Off. -/
theorem State.powerDown_cluster (s : State) (k : Nat) : ((s.powerDown k).cluster k).power = .off := by
  unfold State.powerDown
  rw [State.modCluster_cluster_same]

theorem State.powerDown_rest (s : State) (k : Nat) : (∀ j, j ≠ k → (s.powerDown k).cluster j = s.cluster j) ∧
    (s.powerDown k).power = s.power ∧ (s.powerDown k).pins = s.pins ∧ (s.powerDown k).mem = s.mem := by
  have cores (l : List Nat) (t : State) : (l.foldl (fun t c => t.setCore (16 * k + c) {}) t).clusters = t.clusters ∧
      (l.foldl (fun t c => t.setCore (16 * k + c) {}) t).power = t.power ∧ (l.foldl (fun t c => t.setCore (16 * k + c) {}) t).pins = t.pins ∧
      (l.foldl (fun t c => t.setCore (16 * k + c) {}) t).mem = t.mem :=
    foldl_keeps (fun u : State => u.clusters = t.clusters ∧ u.power = t.power ∧ u.pins = t.pins ∧ u.mem = t.mem) _ _ _
      ⟨rfl, rfl, rfl, rfl⟩ fun u c h => h
  obtain ⟨clusters, power, pins, mem⟩ := cores (List.range 16) s
  unfold State.powerDown
  generalize (List.range 16).foldl (fun t c => t.setCore (16 * k + c) {}) s = t at clusters power pins mem ⊢
  exact ⟨fun j other => (State.modCluster_cluster_other _ _ other).trans (State.cluster_of_clusters clusters j), power, pins, mem⟩

/-- Every cluster is Off once all are powered down. -/
theorem State.foldl_powerDown (s : State) : (∀ j, j < 16 → (((List.range 16).foldl State.powerDown s).cluster j).power = .off) ∧
    ((List.range 16).foldl State.powerDown s).power = s.power ∧ ((List.range 16).foldl State.powerDown s).pins = s.pins ∧
    ((List.range 16).foldl State.powerDown s).mem = s.mem := by
  refine ⟨fun j h => ?_, ?_⟩
  · exact foldl_entry_changed (I := fun _ => True) (Q := fun _ v => v.power = .off) (get := State.cluster) (fun _ _ _ => trivial)
      (fun u i _ => u.powerDown_cluster i) (fun u i j _ other => (u.powerDown_rest i).1 j other) _ s trivial (List.mem_range.2 h)
  · generalize List.range 16 = l
    exact foldl_keeps (fun u : State => u.power = s.power ∧ u.pins = s.pins ∧ u.mem = s.mem) _ _ _ ⟨rfl, rfl, rfl⟩ fun u k h =>
      ⟨(u.powerDown_rest k).2.1.trans h.1, (u.powerDown_rest k).2.2.1.trans h.2.1, (u.powerDown_rest k).2.2.2.trans h.2.2⟩

/-- A rail without its supply, at rest. -/
def RailState.down (r : RailState) : RailState := { r with up := false, stepping := false }

theorem State.foldl_railsDown (s : State) :
    (∀ q, q < 4 → (((List.range 4).foldl (fun u i => u.setRail i (u.rail i).down) s).rail q).up = false) ∧
    ((List.range 4).foldl (fun u i => u.setRail i (u.rail i).down) s).pins = s.pins ∧
    ((List.range 4).foldl (fun u i => u.setRail i (u.rail i).down) s).mem = s.mem := by
  refine ⟨fun q h => ?_, ?_⟩
  · exact foldl_entry_changed (I := fun _ => True) (Q := fun _ v => v.up = false) (get := State.rail)
      (f := fun (u : State) i => u.setRail i (u.rail i).down) (fun _ _ _ => trivial)
      (fun u i _ => congrArg RailState.up (sget_sset_same ({} : RailState) u.power.rails i (u.rail i).down))
      (fun u i j _ other => sget_sset_other ({} : RailState) u.power.rails _ other) _ s trivial (List.mem_range.2 h)
  · exact foldl_keeps (fun u : State => u.pins = s.pins ∧ u.mem = s.mem) _ _ _ ⟨rfl, rfl⟩ fun u k h => h

/-- The trip's pin and the sensor's reading, before the supplies go. -/
def State.tripLatched (s : State) (sensor : Nat) (tempDc : Int) : State :=
  ({ s with pins := { s.pins with thermTripLow := true, coolWait := true } }).setRail (railOf sensor)
    { s.rail (railOf sensor) with
      tempDc := max (s.rail (railOf sensor)).tempDc tempDc, sensorDc := max (s.rail (railOf sensor)).sensorDc tempDc }

/-- PWR_OK and the host port's link once the core rails are gone. -/
def State.powerNotOk (s : State) : State :=
  { s with pins := { s.pins with pwrOk := false }, hp := { s.hp with linkUp := false } }

/-- The module without its core rails: clusters Off, ports without their lanes. -/
def State.coreRailsDown (s : State) : State :=
  ((List.range 24).foldl (fun u p => u.modPort p Port.fatalOff)
    ((List.range 16).foldl State.powerDown ((List.range 4).foldl (fun u i => u.setRail i (u.rail i).down) s))).powerNotOk

theorem State.powerNotOk_rest (s : State) : s.powerNotOk.power = s.power ∧ s.powerNotOk.clusters = s.clusters ∧
    s.powerNotOk.pins = { s.pins with pwrOk := false } ∧ s.powerNotOk.mem = s.mem := ⟨rfl, rfl, rfl, rfl⟩

theorem State.thermalTripped_eq (s : State) (sensor : Nat) (tempDc : Int) (soc : s.power.vsoc = true) :
    s.thermalTripped sensor tempDc = (s.tripLatched sensor tempDc).coreRailsDown.fatalError
      { cls := 3, cause := 0x201D#16, block := 0x0C, inst := 520 + railOf sensor
        detail := leFields [(1, sensor), (2, (tempDc % 65536).toNat)] } false := by
  unfold State.thermalTripped
  dsimp only
  rw [soc, if_neg (by decide)]
  rfl

theorem State.foldl_portsOff (s : State) :
    ((List.range 24).foldl (fun u p => u.modPort p Port.fatalOff) s).power = s.power ∧
    ((List.range 24).foldl (fun u p => u.modPort p Port.fatalOff) s).clusters = s.clusters ∧
    ((List.range 24).foldl (fun u p => u.modPort p Port.fatalOff) s).pins = s.pins ∧
    ((List.range 24).foldl (fun u p => u.modPort p Port.fatalOff) s).mem = s.mem :=
  foldl_keeps (fun u : State => u.power = s.power ∧ u.clusters = s.clusters ∧ u.pins = s.pins ∧ u.mem = s.mem) _ _ _
    ⟨rfl, rfl, rfl, rfl⟩ fun _ _ h =>
      ⟨(State.modPort_power _ _ _).trans h.1, (State.modPort_clusters _ _ _).trans h.2.1, (State.modPort_pins _ _ _).trans h.2.2.1,
        (State.modPort_mem _ _ _).trans h.2.2.2⟩

theorem State.coreRailsDown_effect (s : State) : s.coreRailsDown.pins = { s.pins with pwrOk := false } ∧ s.coreRailsDown.mem = s.mem ∧
    (∀ q, q < 4 → (s.coreRailsDown.rail q).up = false) ∧ (∀ j, j < 16 → (s.coreRailsDown.cluster j).power = .off) := by
  rw [State.coreRailsDown]
  obtain ⟨rails, pins2, mem2⟩ := s.foldl_railsDown
  generalize (List.range 4).foldl (fun (u : State) i => u.setRail i (u.rail i).down) s = t2 at rails pins2 mem2 ⊢
  obtain ⟨off, power3, pins3, mem3⟩ := t2.foldl_powerDown
  generalize (List.range 16).foldl State.powerDown t2 = t3 at off power3 pins3 mem3 ⊢
  obtain ⟨power4, clusters4, pins4, mem4⟩ := t3.foldl_portsOff
  generalize (List.range 24).foldl (fun (u : State) p => u.modPort p Port.fatalOff) t3 = t4 at power4 clusters4 pins4 mem4 ⊢
  obtain ⟨power5, clusters5, pins5, mem5⟩ := State.powerNotOk_rest t4
  generalize State.powerNotOk t4 = t5 at power5 clusters5 pins5 mem5 ⊢
  refine ⟨?_, ?_, fun q h => ?_, fun j h => ?_⟩
  · rw [pins5, pins4, pins3, pins2]
  · rw [mem5, mem4, mem3, mem2]
  · rw [State.rail, power5, power4, power3]
    exact rails q h
  · rw [State.cluster_of_clusters clusters5, State.cluster_of_clusters clusters4]
    exact off j h

theorem thermalTrip_takesRailsDown (k : ClusterId) (d : Int) (s : State) (hot : 1100 ≤ d) (soc : s.power.vsoc = true) :
    Gives (.thermalTrip k d) s (fun t => t.pins.thermTripLow = true ∧ t.ras.fatal = true ∧ t.pins.pwrOk = false ∧
      (∀ q, q < 4 → (t.rail q).up = false) ∧ (∀ j, j < 16 → (t.cluster j).power = .off) ∧ t.mem = s.mem) := by
  have arm : exec (.thermalTrip k d) s = execThermalTrip k d s := rfl
  rw [Gives, arm, execThermalTrip, if_neg (Int.not_lt.2 hot), s.thermalTripped_eq k d soc]
  refine ⟨_, rfl, ?_⟩
  have latched : (s.tripLatched k d).pins.thermTripLow = true ∧ (s.tripLatched k d).mem = s.mem := ⟨rfl, rfl⟩
  generalize s.tripLatched k d = t at latched ⊢
  obtain ⟨pins, mem, rails, off⟩ := t.coreRailsDown_effect
  generalize t.coreRailsDown = v at pins mem rails off ⊢
  generalize ({ cls := 3, cause := 0x201D#16, block := 0x0C, inst := 520 + railOf k, detail := _ } : LogArgs) = l
  obtain ⟨fatal, alert⟩ := v.fatalError_marks l false
  obtain ⟨power, clusters, memory⟩ := v.fatalError_supplies l false
  refine ⟨?_, congrArg Ras.fatal fatal, ?_, fun q h => ?_, fun j h => ?_, (memory.trans mem).trans latched.2⟩
  · rw [alert, pins]
    exact latched.1
  · rw [alert, pins]
  · rw [State.rail, power]
    exact rails q h
  · rw [State.cluster_of_clusters clusters]
    exact off j h

/-! ### Reference clocks (R511, R512) -/

/-- An index that a list names once changes its own entry by its own step alone. -/
theorem foldl_entry_once {σ α : Type} {get : σ → Nat → α} {f : σ → Nat → σ} {I : σ → Prop} {R : Nat → α → α → Prop}
    (keeps : ∀ u i, I u → I (f u i)) (own : ∀ u i, I u → R i (get u i) (get (f u i) i))
    (others : ∀ u i j, j ≠ i → get (f u i) j = get u j) {j : Nat} (l : List Nat) (once : l.Nodup) (member : j ∈ l) (s : σ) (hs : I s) :
    R j (get s j) (get (l.foldl f s) j) := by
  induction l generalizing s with
  | nil => cases member
  | cons a l ih =>
    obtain ⟨fresh, once⟩ := List.nodup_cons.1 once
    rw [List.foldl_cons]
    rcases List.mem_cons.1 member with rfl | later
    · rw [foldl_entry_kept (I := fun _ => True) (fun _ _ _ => trivial) l (f s j) trivial
        fun u _ i hi => others u i j (fun eq => fresh (eq ▸ hi))]
      exact own s j hs
    · rw [← others s a j (fun eq => fresh (eq ▸ later))]
      exact ih once later (f s a) (keeps s a hs)

theorem State.linkChange_rest (s : State) (p : Nat) : (s.linkChange p).ports = s.ports ∧ (s.linkChange p).pins = s.pins ∧
    (s.linkChange p).hp.linkUp = s.hp.linkUp ∧ (s.linkChange p).ras = s.ras := ⟨rfl, rfl, rfl, rfl⟩

/-- What the entry of a training action leaves of other ports, the pins and the host port. -/
theorem State.enterEntry_rest (s : State) (p n g : Nat) : (∀ q, q ≠ p → (s.enterEntry p n g).port q = s.port q) ∧
    (s.enterEntry p n g).pins = s.pins ∧ (s.enterEntry p n g).hp = s.hp := by
  refine ⟨fun q other => ?_, (congrArg State.pins (s.enterEntry_frame p n g) :), (congrArg State.hp (s.enterEntry_frame p n g) :)⟩
  unfold State.enterEntry
  split
  · rw [State.linkChange_port, State.modPort_port_other _ _ other]
  · split
    · rw [State.linkChange_port, State.modPort_port_other _ _ other]
    · rw [State.modPort_port_other _ _ other]

/-- What a link reset leaves of other ports, the pins and the host port. -/
theorem State.linkReset_rest (s : State) (p cause : Nat) (notTest : (s.port p).state ≠ lsTest) :
    (∀ q, q ≠ p → (s.linkReset p cause).port q = s.port q) ∧ (s.linkReset p cause).pins = s.pins ∧
      (s.linkReset p cause).hp = s.hp := by
  have test : ((((s.setPort p (s.port p).discarded).inject (s.port p).returned).modPort p
      (fun u => { u with linkState := withFld u.linkState 39 36 cause, linkErr := bumpFld u.linkErr 7 0 1 })).port p).state ≠ lsTest := by
    rw [State.modPort_port_same, State.inject_port, State.setPort_port_same]
    exact fun h => notTest (((s.port p).afterReset_state cause).symm.trans h)
  rw [s.linkReset_eq p cause, State.startTraining_eq, State.testEnds_of_state _ _ test]
  obtain ⟨t, run, ports, pins, hp⟩ : ∃ t : State, (((s.setPort p (s.port p).discarded).inject (s.port p).returned).modPort p
      (fun u => { u with linkState := withFld u.linkState 39 36 cause, linkErr := bumpFld u.linkErr 7 0 1 })).modPort p Port.restarted = t ∧
      (∀ q, q ≠ p → t.port q = s.port q) ∧ t.pins = s.pins ∧ t.hp = s.hp := by
    refine ⟨_, rfl, fun q other => ?_, ?_, ?_⟩
    · rw [State.modPort_port_other _ _ other, State.modPort_port_other _ _ other, State.inject_port, State.setPort_port_other _ _ other]
    · rw [State.modPort_pins, State.modPort_pins]
      rfl
    · rw [State.modPort_hp, State.modPort_hp]
      rfl
  rw [run]
  obtain ⟨ports', pins', hp'⟩ := t.enterEntry_rest p 0 0
  refine ⟨fun q other => ?_, pins'.trans pins, hp'.trans hp⟩
  rw [State.linkChange_port, ports' q other, ports q other]

theorem State.notTest_of_up {s : State} {p : Nat} (up : (s.port p).state = lsActive ∨ (s.port p).state = lsQuiet) :
    (s.port p).state ≠ lsTest := by
  rcases up with h | h <;> rw [h] <;> decide

/-- What loss of lock leaves of other ports, the pins and the host port. -/
theorem State.lossOfLock_rest (s : State) (p : Nat) (lanes : BitVec 4) : (∀ q, q ≠ p → (s.lossOfLock p lanes).port q = s.port q) ∧
    (s.lossOfLock p lanes).pins = s.pins ∧ (s.lossOfLock p lanes).hp = s.hp := by
  unfold State.lossOfLock
  dsimp only
  split
  case isTrue up => exact s.linkReset_rest p _ (State.notTest_of_up up)
  case isFalse =>
    split
    · exact ⟨fun q other => State.modPort_port_other _ _ other, State.modPort_pins _ _ _, State.modPort_hp _ _ _⟩
    · exact ⟨fun _ _ => rfl, rfl, rfl⟩

/-- Loss of lock of an ACTIVE or Quiet port counts a link reset. -/
theorem State.lossOfLock_counts (s : State) (p : Nat) (lanes : BitVec 4) (up : (s.port p).state = lsActive ∨ (s.port p).state = lsQuiet) :
    ((s.lossOfLock p lanes).port p).linkErr = bumpFld (s.port p).linkErr 7 0 1 := by
  unfold State.lossOfLock
  dsimp only
  rw [if_pos up]
  obtain ⟨-, only, -⟩ := s.linkReset_leaves p lcLossOfLock (State.notTest_of_up up)
  exact only.linkErr_eq

theorem refclkLoss_serdes (s : State) :
    Gives (.refclkLoss .serdes) s (fun t => t.pins.refSerdes = false ∧ t.hp.linkUp = false ∧ t.pins.alertLow = true ∧
      (∀ p, p < 24 → ((s.port p).state = lsActive ∨ (s.port p).state = lsQuiet) →
        (t.port p).linkErr = bumpFld (s.port p).linkErr 7 0 1)) := by
  refine ⟨_, rfl, ?_⟩
  extract_lets src src2 t
  have lost : ((List.range 24).foldl (fun u p => u.lossOfLock p 0xF#4) t).pins = t.pins ∧
      ((List.range 24).foldl (fun u p => u.lossOfLock p 0xF#4) t).hp = t.hp :=
    foldl_keeps (fun u : State => u.pins = t.pins ∧ u.hp = t.hp) _ _ _ ⟨rfl, rfl⟩ fun u p h =>
      ⟨(u.lossOfLock_rest p _).2.1.trans h.1, (u.lossOfLock_rest p _).2.2.trans h.2⟩
  have counts (p : Nat) (member : p ∈ List.range 24) : ((t.port p).state = lsActive ∨ (t.port p).state = lsQuiet) →
      (((List.range 24).foldl (fun u p => u.lossOfLock p 0xF#4) t).port p).linkErr = bumpFld (t.port p).linkErr 7 0 1 :=
    foldl_entry_once (get := State.port) (f := fun u p => u.lossOfLock p 0xF#4)
      (I := fun _ => True)
      (R := fun _ v w => (v.state = lsActive ∨ v.state = lsQuiet) → w.linkErr = bumpFld v.linkErr 7 0 1) (fun _ _ _ => trivial)
      (fun u i _ up => u.lossOfLock_counts i _ up) (fun u i j other => (u.lossOfLock_rest i _).1 j other) _ List.nodup_range member t trivial
  generalize (List.range 24).foldl (fun u p => u.lossOfLock p 0xF#4) t = r at lost counts ⊢
  obtain ⟨pins, hp⟩ := lost
  have clock : r.pins.refSerdes = false := congrArg Pins.refSerdes pins
  refine ⟨clock, congrArg HostPort.linkUp hp, ?_, fun p h => counts p (List.mem_range.2 h)⟩
  show r.alertCause = true
  unfold State.alertCause
  rw [clock]
  simp

theorem refclkLoss_sys (s : State) (soc : s.power.vsoc = true) :
    Gives (.refclkLoss .sys) s (fun t => t.pins.refSys = false ∧ t.ras.fatal = true ∧ t.ras.nextSeq = s.ras.nextSeq + 1) := by
  have run : exec (.refclkLoss .sys) s = .next (if s.power.vsoc = true then
      ({ s with pins := { s.pins with refSys := false } }).withAlert.internalError 512
    else ({ s with pins := { s.pins with refSys := false } }).withAlert) := rfl
  rw [if_pos soc] at run
  refine ⟨_, run, ?_⟩
  have clock : ({ s with pins := { s.pins with refSys := false } }).withAlert.pins.refSys = false := rfl
  have seq : ({ s with pins := { s.pins with refSys := false } }).withAlert.ras = s.ras := rfl
  generalize ({ s with pins := { s.pins with refSys := false } }).withAlert = t at clock seq ⊢
  obtain ⟨fatal, next, pins⟩ := t.internalError_marks 512
  exact ⟨(congrArg Pins.refSys pins).trans clock, fatal, by rw [next, seq]⟩

/-- Settles O57. -/
theorem modulePinsAct : Obligations.ModulePinsAct := by
  unfold Obligations.ModulePinsAct
  exact ⟨beyondRatings_stops, input48vOutsideRange_alerts, thermalTrip_takesRailsDown,
    fun s => ⟨refclkLoss_serdes s, refclkLoss_sys s, ⟨_, rfl, rfl, rfl⟩, ⟨_, rfl, rfl, rfl⟩⟩,
    fun r s => ⟨fun soc => ⟨railLeavesRegulation_marks r s soc, railOutOfRegulation_marks r s soc⟩, railRegainsRegulation_releases r s⟩⟩

end Sys2Proof.Machine
end
section
/-! PROOFS. Power states: Doze, wake, Off, rail steps, trim and power samples (O55). -/

namespace Sys2Proof.Machine

/-! ### Doze (R435 to R438) -/

section
variable {s : State} {c : CoreId} {k : ClusterId}

theorem coreDoze_waits (notDue : dueBy (s.core c).dozeDue s.now = false) : exec (.coreDoze c) s = .next s := by
  have arm : exec (.coreDoze c) s = execCoreDoze c s := rfl
  rw [arm, execCoreDoze, if_pos (by simp [notDue])]

/-- The idle time of a core that is due: its refuser, if any, decides. -/
theorem coreDoze_due (idle : (s.core c).power = .idle) (on : (s.cluster (clusterOf c)).power = .on) (rests : s.coreIdle c = true)
    (due : dueBy (s.core c).dozeDue s.now = true) :
    exec (.coreDoze c) s = .next (match s.coreRefuser (clusterOf c) with
      | some r => s.modCore c (fun u => { u with pwrStat := statRefused u.pwrStat r, dozeDue := some (s.now + s.dozeNs) })
      | none => s.modCore c (fun u => { u with power := .doze, dozeDue := none, pwrStat := statEntered u.pwrStat })) := by
  have arm : exec (.coreDoze c) s = execCoreDoze c s := rfl
  rw [arm, execCoreDoze, if_neg (by simp [idle, on, rests, due])] <;> rfl

theorem coreDoze_enters (idle : (s.core c).power = .idle) (on : (s.cluster (clusterOf c)).power = .on) (rests : s.coreIdle c = true)
    (due : dueBy (s.core c).dozeDue s.now = true) (free : s.coreRefuser (clusterOf c) = none) :
    Gives (.coreDoze c) s (fun t => (t.core c).power = .doze ∧ (t.core c).pwrStat = statEntered (s.core c).pwrStat ∧
      (t.core c).dozeDue = none) := by
  rw [Gives, coreDoze_due idle on rests due, free]
  refine ⟨_, rfl, ?_⟩
  rw [State.modCore_core_same]
  exact ⟨rfl, rfl, rfl⟩

theorem coreDoze_refused (idle : (s.core c).power = .idle) (on : (s.cluster (clusterOf c)).power = .on) (rests : s.coreIdle c = true)
    (due : dueBy (s.core c).dozeDue s.now = true) {r : Nat × Nat} (refuser : s.coreRefuser (clusterOf c) = some r) :
    Gives (.coreDoze c) s (fun t => (t.core c).power = .idle ∧ (t.core c).pwrStat = statRefused (s.core c).pwrStat r ∧
      (t.core c).dozeDue = some (s.now + s.dozeNs)) := by
  rw [Gives, coreDoze_due idle on rests due, refuser]
  refine ⟨_, rfl, ?_⟩
  rw [State.modCore_core_same]
  exact ⟨idle, rfl, rfl⟩

/-- A cluster that is not Off wakes without its cores and main memory. -/
theorem State.wakeCluster_powered (s : State) (k : Nat) (powered : (s.cluster k).power ≠ .off) :
    s.wakeCluster k = s.modCluster k (fun u => { u with
      power := .on, offStat := if s.offEntering k then statAborted u.offStat else u.offStat }) := by
  rw [State.wakeCluster, if_neg powered]

/-- The core and its cluster after the wake of a core in a powered cluster. -/
theorem State.wakeCore_powered (s : State) (c : Nat) (powered : (s.cluster (clusterOf c)).power ≠ .off) :
    (s.wakeCore c).core c = (s.core c).awoken (s.dozeEntering c) ∧ ((s.wakeCore c).cluster (clusterOf c)).power = .on ∧
      (s.wakeCore c).mem = s.mem := by
  rw [State.wakeCore, s.wakeCluster_powered _ powered]
  refine ⟨?_, ?_, ?_⟩
  · rw [State.modCore_core_same, State.modCluster_core]
  · rw [State.modCore_cluster, State.modCluster_cluster_same]
  · rw [State.modCore_mem, State.modCluster_mem]

theorem coreWake_dozing (doze : (s.core c).power = .doze) (powered : (s.cluster (clusterOf c)).power ≠ .off) :
    Gives (.coreWake c) s (fun t => (t.core c).power = .idle ∧ (t.cluster (clusterOf c)).power = .on ∧
      { t.core c with power := .doze, dozeDue := (s.core c).dozeDue } = s.core c ∧ t.mem = s.mem) := by
  have arm : exec (.coreWake c) s = execCoreWake c s := rfl
  rw [Gives, arm, execCoreWake, if_pos (.inl ⟨doze, powered⟩)]
  obtain ⟨core, cluster, mem⟩ := s.wakeCore_powered c powered
  have woken : (s.wakeCore c).core c = { s.core c with power := .idle, dozeDue := none } := by rw [core, Core.awoken, if_pos doze]
  refine ⟨_, rfl, congrArg Core.power woken, cluster, ?_, mem⟩
  rw [woken]
  exact (congrArg (fun p => { s.core c with power := p }) doze).symm

theorem coreWake_entering (entering : s.dozeEntering c = true) :
    Gives (.coreWake c) s (fun t => (t.core c).power = .idle ∧ (t.core c).dozeDue = none ∧
      (t.core c).pwrStat = bumpFld (s.core c).pwrStat 31 22 1 ∧ t.mem = s.mem) := by
  have arm : exec (.coreWake c) s = execCoreWake c s := rfl
  have parts := entering
  simp only [State.dozeEntering, Bool.and_eq_true, beq_iff_eq] at parts
  obtain ⟨⟨⟨idle, on⟩, -⟩, -⟩ := parts
  rw [Gives, arm, execCoreWake, if_pos (.inr entering)]
  obtain ⟨core, -, mem⟩ := s.wakeCore_powered c (by rw [on]; decide)
  rw [Core.awoken, if_neg (by rw [idle]; decide), if_pos entering] at core
  refine ⟨_, rfl, ?_, ?_, ?_, mem⟩
  · rw [core, idle]
  · rw [core]
  · rw [core]
    rfl

theorem clusterDoze_waits (notDue : dueBy (s.cluster k).dozeDue s.now = false) : exec (.clusterDoze k) s = .next s := by
  have arm : exec (.clusterDoze k) s = execClusterDoze k s := rfl
  rw [arm, execClusterDoze, if_pos (by simp [notDue])]

/-- The refuser of the Doze of cluster k. -/
def State.clusterRefuser (s : State) (k : Nat) : Option (Nat × Nat) :=
  firstRefuser (!bitOf s.power.cfg.toNat 62) (s.testing k) (s.rail (railOf k)).stepping (s.agentBusy k) false 0x02

/-- The refuser of cluster k's entry into Off. -/
def State.offRefuser (s : State) (k : Nat) : Option (Nat × Nat) :=
  firstRefuser (!bitOf s.power.cfg.toNat 61) (s.testing k) false (s.agentBusy k) (s.ctxOfCluster k).isSome 0x02

/-- The Doze time of a cluster that is due: its refuser, if any, decides. -/
theorem clusterDoze_due (on : (s.cluster k).power = .on) (cores : ∀ c, c < 16 → (s.core (16 * k.val + c)).power = .doze)
    (due : dueBy (s.cluster k).dozeDue s.now = true) :
    exec (.clusterDoze k) s = .next (match s.clusterRefuser k with
      | some r => s.modCluster k (fun u => { u with dozeStat := statRefused u.dozeStat r, dozeDue := some (s.now + s.dozeNs) })
      | none => s.modCluster k (fun u =>
          { u with power := .doze, dozeDue := none, offAt := s.now + s.offNs, dozeStat := statEntered u.dozeStat })) := by
  have arm : exec (.clusterDoze k) s = execClusterDoze k s := rfl
  have rest : s.coresDoze k = true := List.all_eq_true.2 fun c h => beq_iff_eq.2 (cores c (List.mem_range.1 h))
  rw [arm, execClusterDoze, if_neg (by simp [on, rest, due])] <;> rfl

theorem clusterDoze_enters (on : (s.cluster k).power = .on) (cores : ∀ c, c < 16 → (s.core (16 * k.val + c)).power = .doze)
    (due : dueBy (s.cluster k).dozeDue s.now = true) (free : s.clusterRefuser k = none) :
    Gives (.clusterDoze k) s (fun t => (t.cluster k).power = .doze ∧ (t.cluster k).offAt = s.now + s.offNs) := by
  rw [Gives, clusterDoze_due on cores due, free]
  refine ⟨_, rfl, ?_⟩
  rw [State.modCluster_cluster_same]
  exact ⟨rfl, rfl⟩

theorem clusterDoze_refused (on : (s.cluster k).power = .on) (cores : ∀ c, c < 16 → (s.core (16 * k.val + c)).power = .doze)
    (due : dueBy (s.cluster k).dozeDue s.now = true) {r : Nat × Nat} (refuser : s.clusterRefuser k = some r) :
    Gives (.clusterDoze k) s (fun t => (t.cluster k).power = .on ∧ (t.cluster k).dozeStat = statRefused (s.cluster k).dozeStat r ∧
      (t.cluster k).dozeDue = some (s.now + s.dozeNs)) := by
  rw [Gives, clusterDoze_due on cores due, refuser]
  refine ⟨_, rfl, ?_⟩
  rw [State.modCluster_cluster_same]
  exact ⟨on, rfl, rfl⟩

theorem clusterWake_wakes (doze : (s.cluster k).power = .doze) :
    Gives (.clusterWake k) s (fun t => (t.cluster k).power = .on ∧
      { t.cluster k with power := .doze, offStat := (s.cluster k).offStat } = s.cluster k ∧
      (t.cluster k).offStat = if s.offEntering k then bumpFld (s.cluster k).offStat 31 22 1 else (s.cluster k).offStat) := by
  have arm : exec (.clusterWake k) s = execClusterWake k s := rfl
  rw [Gives, arm, execClusterWake, if_pos doze, s.wakeCluster_powered k (by rw [doze]; decide)]
  refine ⟨_, rfl, ?_⟩
  rw [State.modCluster_cluster_same]
  exact ⟨rfl, (congrArg (fun p => { s.cluster k with power := p }) doze).symm, rfl⟩

/-! ### Off (R439 to R442) -/

/-- The timer of a dozing cluster that expires: its refuser, if any, decides. -/
theorem clusterOffEntry_due (doze : (s.cluster k).power = .doze) (due : (s.cluster k).offAt ≤ s.now) :
    exec (.clusterOffEntry k) s = .next (match s.offRefuser k with
      | some r => s.modCluster k (fun u => { u with offStat := statRefused u.offStat r, offAt := s.now + s.offNs })
      | none => (((s.writeSave k).powerDown k)).modCluster k (fun u => { u with offStat := statEntered u.offStat })) := by
  have arm : exec (.clusterOffEntry k) s = execClusterOffEntry k s := rfl
  rw [arm, execClusterOffEntry, if_neg (by simp [doze, due])] <;> rfl

/-- A cluster whose switch opens loses its memories and its cores. -/
theorem State.powerDown_lost (s : State) (k : Nat) : ((s.powerDown k).cluster k).veil = true ∧ ((s.powerDown k).cluster k).cm = {} ∧
    ∀ c, c < 16 → (s.powerDown k).core (16 * k + c) = {} := by
  have lost (c : Nat) (member : c ∈ List.range 16) :
      ((List.range 16).foldl (fun t c => t.setCore (16 * k + c) {}) s).core (16 * k + c) = {} :=
    foldl_entry_changed (I := fun _ => True) (Q := fun _ v => v = {}) (get := fun (t : State) c => t.core (16 * k + c))
      (f := fun (t : State) c => t.setCore (16 * k + c) {}) (fun _ _ _ => trivial) (fun u i _ => State.setCore_core_same _ _ _)
      (fun u i j _ other => State.setCore_core_other _ _ (by omega)) _ s trivial member
  unfold State.powerDown
  rw [State.modCluster_cluster_same]
  refine ⟨rfl, rfl, fun c h => ?_⟩
  rw [State.modCluster_core]
  exact lost c (List.mem_range.2 h)

theorem clusterOffEntry_enters (doze : (s.cluster k).power = .doze) (due : (s.cluster k).offAt ≤ s.now) (free : s.offRefuser k = none) :
    Gives (.clusterOffEntry k) s (fun t => (t.cluster k).power = .off ∧ (t.cluster k).veil = true ∧
      (t.cluster k).cm = {} ∧ (∀ c, c < 16 → t.core (16 * k.val + c) = {})) := by
  rw [Gives, clusterOffEntry_due doze due, free]
  refine ⟨_, rfl, ?_⟩
  have off := (s.writeSave k).powerDown_cluster k
  obtain ⟨veil, cm, cores⟩ := (s.writeSave k).powerDown_lost k
  generalize (s.writeSave k).powerDown k = t at off veil cm cores ⊢
  rw [State.modCluster_cluster_same]
  refine ⟨off, veil, cm, fun c h => ?_⟩
  rw [State.modCluster_core, cores c h]

theorem clusterOffEntry_refused (doze : (s.cluster k).power = .doze) (due : (s.cluster k).offAt ≤ s.now) {r : Nat × Nat}
    (refuser : s.offRefuser k = some r) :
    Gives (.clusterOffEntry k) s (fun t => (t.cluster k).power = .doze ∧ (t.cluster k).offStat = statRefused (s.cluster k).offStat r) := by
  rw [Gives, clusterOffEntry_due doze due, refuser]
  refine ⟨_, rfl, ?_⟩
  rw [State.modCluster_cluster_same]
  exact ⟨doze, rfl⟩

/-- A cluster that comes out of Off dozes with its cores. -/
theorem State.dozing_effect (s : State) (k : Nat) : ((s.dozing k).cluster k).power = .doze ∧ ((s.dozing k).cluster k).veil = false ∧
    (∀ c, c < 16 → ((s.dozing k).core (16 * k + c)).power = .doze) ∧ (s.dozing k).mem = s.mem := by
  have dozes (c : Nat) (member : c ∈ List.range 16) : (((List.range 16).foldl (fun t c => t.modCore (16 * k + c)
      (fun u => { u with power := .doze, dozeDue := none })) s).core (16 * k + c)).power = .doze :=
    foldl_entry_changed (I := fun _ => True) (Q := fun _ v => v.power = .doze) (get := fun (t : State) c => t.core (16 * k + c))
      (f := fun (t : State) c => t.modCore (16 * k + c) (fun u => { u with power := .doze, dozeDue := none })) (fun _ _ _ => trivial)
      (fun u i _ => congrArg Core.power (State.modCore_core_same _ _ _))
      (fun u i j _ other => State.modCore_core_other _ _ (by omega)) _ s trivial member
  have mem : ((List.range 16).foldl (fun t c => t.modCore (16 * k + c) (fun u => { u with power := .doze, dozeDue := none })) s).mem =
      s.mem := foldl_keeps (fun u : State => u.mem = s.mem) _ _ _ rfl fun u c h => (State.modCore_mem _ _ _).trans h
  unfold State.dozing
  generalize (List.range 16).foldl (fun (t : State) c => t.modCore (16 * k + c) (fun u => { u with power := .doze, dozeDue := none })) s = t at *
  rw [State.modCluster_cluster_same, State.modCluster_mem]
  refine ⟨rfl, rfl, fun c h => ?_, mem⟩
  rw [State.modCluster_core]
  exact dozes c (List.mem_range.2 h)

theorem clusterOffExit_dozes (off : (s.cluster k).power = .off) :
    Gives (.clusterOffExit k) s (fun t => (t.cluster k).power = .doze ∧ (t.cluster k).veil = false ∧
      (∀ c, c < 16 → (t.core (16 * k.val + c)).power = .doze) ∧ t.mem = s.mem) := by
  have arm : exec (.clusterOffExit k) s = execClusterOffExit k s := rfl
  rw [Gives, arm, execClusterOffExit, if_pos off]
  obtain ⟨power, veil, cores, mem⟩ := (s.restoreSave k).dozing_effect k
  exact ⟨_, rfl, power, veil, cores, mem.trans (s.restoreSave_wakeOnly k).mem⟩

end

/-! ### Rails (R449, R450) -/

/-- A rail of a state after a write to a rail. -/
theorem State.rail_setRail_same (s : State) (q : Nat) (v : RailState) : (s.setRail q v).rail q = v := sget_sset_same _ _ _ _
theorem State.rail_setRail_other (s : State) {q r : Nat} (v : RailState) (other : r ≠ q) : (s.setRail q v).rail r = s.rail r :=
  sget_sset_other _ _ _ other

/-- A step moves a rail by at most 5 mV, and not up where a quadrant is paced. -/
theorem railStep_bounds (v : RailState) (want : Nat) (paced : Bool) : (railStep v want paced).mv ≤ v.mv + 5 ∧
    v.mv ≤ (railStep v want paced).mv + 5 ∧ (paced = true → (railStep v want paced).mv ≤ v.mv) := by
  unfold railStep
  dsimp only
  split
  case isTrue down => omega
  case isFalse =>
    split
    case isTrue up =>
      refine ⟨by omega, by omega, fun yes => ?_⟩
      rw [yes] at up
      exact absurd up.2 (by decide)
    case isFalse => exact ⟨by omega, by omega, fun _ => le_refl _⟩

/-- One rail's turn in a rail update. -/
def State.railTurn (s : State) (q : Nat) : State :=
  if (s.rail q).up then s.setRail q (railStep (s.rail q) (s.railWant q) s.anyPaced) else s

theorem State.railTurn_other (s : State) (q r : Nat) (other : r ≠ q) : (s.railTurn q).rail r = s.rail r := by
  unfold State.railTurn
  split
  · exact s.rail_setRail_other _ other
  · rfl

/-- A rail's turn leaves what quadrants are paced. -/
theorem State.railTurn_anyPaced (s : State) (q : Nat) : (s.railTurn q).anyPaced = s.anyPaced := by
  have pace (r : Nat) : ((s.railTurn q).rail r).pace = (s.rail r).pace := by
    by_cases own : r = q
    · subst own
      unfold State.railTurn
      split
      · rw [State.rail_setRail_same]
        rfl
      · rfl
    · rw [s.railTurn_other q r own]
  unfold State.anyPaced
  simp only [pace]

theorem State.railTurn_own (s : State) (q : Nat) :
    ((s.rail q).up = true → ((s.railTurn q).rail q).mv ≤ (s.rail q).mv + 5 ∧ (s.rail q).mv ≤ ((s.railTurn q).rail q).mv + 5 ∧
      (s.anyPaced = true → ((s.railTurn q).rail q).mv ≤ (s.rail q).mv)) ∧
    ((s.rail q).up = false → (s.railTurn q).rail q = s.rail q) := by
  unfold State.railTurn
  refine ⟨fun up => ?_, fun down => ?_⟩
  · rw [if_pos up, State.rail_setRail_same]
    exact railStep_bounds _ _ _
  · rw [if_neg (by simp [down])]

theorem railUpdate_moves (s : State) : Gives .railUpdate s (fun t => ∀ q, q < 4 →
    ((s.rail q).up = true → (t.rail q).mv ≤ (s.rail q).mv + 5 ∧ (s.rail q).mv ≤ (t.rail q).mv + 5 ∧
      (s.anyPaced = true → (t.rail q).mv ≤ (s.rail q).mv)) ∧
    ((s.rail q).up = false → t.rail q = s.rail q)) := by
  have run : exec .railUpdate s = .next ((List.range 4).foldl State.railTurn s) := rfl
  refine ⟨_, run, fun q h => ?_⟩
  exact foldl_entry_once (get := State.rail) (f := State.railTurn) (I := fun u => u.anyPaced = s.anyPaced)
    (R := fun _ v w => (v.up = true → w.mv ≤ v.mv + 5 ∧ v.mv ≤ w.mv + 5 ∧ (s.anyPaced = true → w.mv ≤ v.mv)) ∧
      (v.up = false → w = v)) (fun u i keep => (u.railTurn_anyPaced i).trans keep)
    (fun u i keep => keep ▸ u.railTurn_own i) State.railTurn_other _ List.nodup_range (List.mem_range.2 h) s rfl

/-! ### Trim (R449) -/

theorem State.trimRail_rail (s : State) (q rate r : Nat) : (s.trimRail q rate).rail r =
    (s.setRail q ((s.trimRail q rate).rail q)).rail r := by
  have told (t : State) (l : LogArgs) (b : Bool) : (if b then t.corrected l else t).power = t.power := by
    cases b
    · rfl
    · exact State.log_power _ _
  by_cases own : r = q
  · subst own
    rw [State.rail_setRail_same]
  · rw [State.rail_setRail_other _ _ own]
    unfold State.trimRail
    extract_lets
    rw [State.rail, told]
    exact sget_sset_other _ _ _ own

/-- The trim of a rail stays within 30 mV, and its rate is the one measured. -/
theorem State.trimRail_own (s : State) (q rate : Nat) : ((s.trimRail q rate).rail q).rate = rate ∧
    (-30 ≤ (s.rail q).trim → (s.rail q).trim ≤ 30 → -30 ≤ ((s.trimRail q rate).rail q).trim ∧ ((s.trimRail q rate).rail q).trim ≤ 30) := by
  have told (t : State) (l : LogArgs) (b : Bool) : (if b then t.corrected l else t).power = t.power := by
    cases b
    · rfl
    · exact State.log_power _ _
  unfold State.trimRail
  extract_lets old v r low trim rung t
  rw [State.rail, told]
  have own : t.rail q = { v with trim := trim, stood := v.mv == v.vWant, trimLogAt := if rung then s.now + 1000000000 else v.trimLogAt } :=
    s.rail_setRail_same q _
  rw [← State.rail, own]
  refine ⟨rfl, fun low high => ?_⟩
  show -30 ≤ trim ∧ trim ≤ 30
  have kept : v.trim = (s.rail q).trim := rfl
  unfold trim
  split
  · omega
  · split
    · omega
    · split <;> omega

/-- One rail's turn in a trim. -/
def State.trimTurn (rates : List Nat) (s : State) (q : Nat) : State := if (s.rail q).up then s.trimRail q (rates.getD q 0) else s

theorem State.trimTurn_other (rates : List Nat) (s : State) (q r : Nat) (other : r ≠ q) : (s.trimTurn rates q).rail r = s.rail r := by
  unfold State.trimTurn
  split
  · rw [s.trimRail_rail, State.rail_setRail_other _ _ other]
  · rfl

theorem trimAdjust_trims (rates : List Nat) (s : State) (four : rates.length = 4) :
    Gives (.trimAdjust rates) s (fun t => ∀ q, q < 4 → (s.rail q).up = true → (t.rail q).rate = rates.getD q 0 ∧
      (-30 ≤ (s.rail q).trim → (s.rail q).trim ≤ 30 → -30 ≤ (t.rail q).trim ∧ (t.rail q).trim ≤ 30)) := by
  obtain ⟨a, b, c, d, rfl⟩ := List.length_eq_four.1 four
  have run : exec (.trimAdjust [a, b, c, d]) s = .next ((List.range 4).foldl (State.trimTurn [a, b, c, d]) s) := rfl
  refine ⟨_, run, fun q h => ?_⟩
  exact foldl_entry_once (get := State.rail) (f := State.trimTurn [a, b, c, d]) (I := fun _ => True)
    (R := fun q v w => v.up = true → w.rate = [a, b, c, d].getD q 0 ∧ (-30 ≤ v.trim → v.trim ≤ 30 → -30 ≤ w.trim ∧ w.trim ≤ 30))
    (fun _ _ _ => trivial) (fun u i _ up => by rw [State.trimTurn, if_pos up]; exact u.trimRail_own i _)
    (State.trimTurn_other _) _ List.nodup_range (List.mem_range.2 h) s trivial

/-! ### Power samples (R450) -/

/-- Power over the cap with the temperature below its limit lowers a rail's limit by 5 mV, down to 620 mV. -/
theorem railLimit_overCap (v : RailState) (easy paced : Bool) : (railLimit v true false easy paced).vLimit = max 620 (v.vLimit - 5) := rfl

/-- A rail after a power sample. -/
def State.sampledRail (s : State) (mw : Nat) (temps : List Int) (q : Nat) : RailState :=
  { railLimit (s.rail q) (decide (1000 * fld32 s.power.capCfg 9 0 < mw))
      (decide (10 * (fld32 s.power.capCfg 22 16 : Int) < s.quadrantTemp q temps))
      (decide (100 * mw < 98 * (1000 * fld32 s.power.capCfg 9 0) ∧ s.quadrantTemp q temps < 10 * (fld32 s.power.capCfg 22 16 : Int) - 20))
      s.anyPaced with tempDc := s.quadrantTemp q temps, sensorDc := s.quadrantTemp q temps }

theorem State.powerSampled_eq (s : State) (mw : Nat) (temps : List Int) : s.powerSampled mw temps =
    (((List.range 4).foldl (fun (u : State) q => u.setRail q (s.sampledRail mw temps q))
      { s with power := { s.power with inputMw := mw } }).capStatNow).withAlert := rfl

/-- PWR_CAP_STAT and ALERT_N leave the rails and the input power. -/
theorem State.capStatNow_withAlert_rest (s : State) : s.capStatNow.withAlert.power.rails = s.power.rails ∧
    s.capStatNow.withAlert.power.inputMw = s.power.inputMw := by
  obtain ⟨w, a, b, stat⟩ : ∃ w a b, s.capStatNow = { s with power := { s.power with capStat := w, limitUs := a, paceUs := b } } :=
    ⟨_, _, _, rfl⟩
  rw [stat]
  exact ⟨rfl, rfl⟩

theorem State.refreshDrawn_power (s : State) : s.refreshDrawn.power = s.power :=
  foldl_keeps (fun u : State => u.power = s.power) _ _ _ rfl fun u g h => by
    dsimp only
    split
    · exact h
    · exact (State.modGroup_power _ _ _).trans h

theorem powerSample_limits (mw : Nat) (temps : List Int) (s : State) : Gives (.powerSample mw temps) s (fun t => t.power.inputMw = mw ∧
    (∀ q, q < 4 → (t.rail q).tempDc = s.quadrantTemp q temps) ∧
    (1000 * fld32 s.power.capCfg 9 0 < mw → ∀ q, q < 4 → s.quadrantTemp q temps ≤ 10 * (fld32 s.power.capCfg 22 16 : Int) →
      (t.rail q).vLimit = max 620 ((s.rail q).vLimit - 5))) := by
  have arm : exec (.powerSample mw temps) s = execPowerSample mw temps s := rfl
  rw [Gives, arm, execPowerSample, s.powerSampled_eq mw temps]
  refine ⟨_, rfl, ?_⟩
  have input : ({ s with power := { s.power with inputMw := mw } } : State).power.inputMw = mw := rfl
  generalize ({ s with power := { s.power with inputMw := mw } } : State) = s1 at input ⊢
  have rails (q : Nat) (member : q ∈ List.range 4) :
      ((List.range 4).foldl (fun u q => u.setRail q (s.sampledRail mw temps q)) s1).rail q = s.sampledRail mw temps q :=
    foldl_entry_changed (I := fun _ => True) (Q := fun q v => v = s.sampledRail mw temps q) (get := State.rail)
      (f := fun (u : State) q => u.setRail q (s.sampledRail mw temps q)) (fun _ _ _ => trivial)
      (fun u i _ => u.rail_setRail_same i _) (fun u i j _ other => u.rail_setRail_other _ other) _ s1 trivial member
  have input2 : ((List.range 4).foldl (fun u q => u.setRail q (s.sampledRail mw temps q)) s1).power.inputMw = mw :=
    foldl_keeps (fun u : State => u.power.inputMw = mw) _ _ _ input fun _ _ h => h
  generalize (List.range 4).foldl (fun (u : State) q => u.setRail q (s.sampledRail mw temps q)) s1 = s2 at rails input2 ⊢
  obtain ⟨rails3, input3⟩ := s2.capStatNow_withAlert_rest
  generalize s2.capStatNow.withAlert = s3 at rails3 input3 ⊢
  have rail (q : Nat) (h : q < 4) : s3.refreshDrawn.rail q = s.sampledRail mw temps q := by
    rw [State.rail, State.refreshDrawn_power, rails3]
    exact rails q (List.mem_range.2 h)
  refine ⟨?_, fun q h => ?_, fun much q h cool => ?_⟩
  · rw [State.refreshDrawn_power, input3, input2]
  · rw [rail q h]
    rfl
  · have cap : decide (1000 * fld32 s.power.capCfg 9 0 < mw) = true := decide_eq_true much
    have hot : decide (10 * (fld32 s.power.capCfg 22 16 : Int) < s.quadrantTemp q temps) = false := decide_eq_false (by omega)
    rw [rail q h, State.sampledRail, cap, hot]
    exact railLimit_overCap (s.rail q) (decide (100 * mw < 98 * (1000 * fld32 s.power.capCfg 9 0) ∧
      s.quadrantTemp q temps < 10 * (fld32 s.power.capCfg 22 16 : Int) - 20)) s.anyPaced

/-- Settles O55. -/
theorem powerStatesAct : Obligations.PowerStatesAct := by
  unfold Obligations.PowerStatesAct
  exact ⟨fun c s => coreDoze_waits, fun c s idle on rests due => ⟨coreDoze_enters idle on rests due, fun z => coreDoze_refused idle on rests due⟩,
    fun c s => coreWake_dozing, fun c s => coreWake_entering, fun k s => clusterDoze_waits,
    fun k s on cores due => ⟨clusterDoze_enters on cores due, fun z => clusterDoze_refused on cores due⟩,
    fun k s doze => ⟨clusterWake_wakes doze, fun due => ⟨clusterOffEntry_enters doze due, fun z => clusterOffEntry_refused doze due⟩⟩,
    fun k s => clusterOffExit_dozes, railUpdate_moves, trimAdjust_trims, powerSample_limits⟩

end Sys2Proof.Machine
end
section
/-! PROOFS. Starts and resets (O56). -/

namespace Sys2Proof.Machine

/-! ### Resets (R466 to R470) -/

/-- The controllers that complete what they have accepted change lines, channels and the log alone. -/
theorem State.completeAccepted_lineOnly (s : State) : LineOnly s s.completeAccepted := by
  unfold State.completeAccepted
  exact foldl_keeps (LineOnly s) _ _ _ (.withMesh s _) fun u e h => h.trans (State.drain_lineOnly _ _ _)

/-- Whatever a reset leaves, the SoC supply is down, Lantern does not run, and the cause is recorded. -/
theorem State.coldReset_effect (s : State) (cause : Nat) : (s.coldReset cause).power.vsoc = false ∧
    fld (s.coldReset cause).power.rstCause 19 16 = cause % 16 ∧ (s.coldReset cause).lantern.running = false ∧
    (s.coldReset cause).mem = {} ∧ (s.coldReset cause).flash = s.flash ∧ (s.coldReset cause).pins.resetN = s.pins.resetN ∧
    (s.coldReset cause).pins.standby = s.pins.standby ∧ (s.coldReset cause).pins.moduleId = s.pins.moduleId := by
  refine ⟨rfl, ?_, rfl, rfl, rfl, rfl, rfl, rfl⟩
  exact fld_withFld_same 0 cause (by omega) (by omega)

theorem State.warmKept_effect (s : State) (cause : Nat) : (s.warmKept cause).power.vsoc = false ∧
    fld (s.warmKept cause).power.rstCause 19 16 = cause % 16 ∧ (s.warmKept cause).lantern.running = false ∧
    (s.warmKept cause).mem = s.completeAccepted.mem ∧ (s.warmKept cause).pins.resetN = s.pins.resetN := by
  have pins : s.completeAccepted.pins = s.pins := (congrArg State.pins s.completeAccepted_lineOnly.1 :)
  unfold State.warmKept
  generalize s.completeAccepted = r at pins ⊢
  dsimp only
  generalize (if r.power.vsoc then r.saveClusters else r) = v
  refine ⟨rfl, ?_, rfl, rfl, (congrArg Pins.resetN pins :)⟩
  exact fld_withFld_same (bumpFld r.power.rstCause 63 32 1) cause (by omega) (by omega)

theorem State.warmReset_effect (s : State) (cause : Nat) : (s.warmReset cause).power.vsoc = false ∧
    fld (s.warmReset cause).power.rstCause 19 16 = cause % 16 ∧ (s.warmReset cause).lantern.running = false ∧
    (s.warmReset cause).pins.resetN = s.pins.resetN := by
  unfold State.warmReset
  split
  · obtain ⟨soc, recorded, stands, -, pin⟩ := s.warmKept_effect cause
    exact ⟨soc, recorded, stands, pin⟩
  · obtain ⟨soc, recorded, stands, -, -, pin, -⟩ := s.coldReset_effect cause
    exact ⟨soc, recorded, stands, pin⟩

theorem State.completeAccepted_idle (s : State) (idle : s.channels = []) : s.completeAccepted.mem = s.mem := by
  rw [State.completeAccepted, idle]
  rfl

/-- Main memory after a warm reset: what the controllers complete where it is valid, nothing elsewhere. -/
theorem State.warmReset_mem (s : State) (cause : Nat) : (s.clasp.memoryValid = true → (s.warmReset cause).mem = s.completeAccepted.mem) ∧
    (s.clasp.memoryValid = true → s.channels = [] → (s.warmReset cause).mem = s.mem) ∧
    (s.clasp.memoryValid = false → (s.warmReset cause).mem = {}) := by
  have warm (valid : s.clasp.memoryValid = true) : (s.warmReset cause).mem = s.completeAccepted.mem := by
    rw [State.warmReset, if_pos valid]
    exact (s.warmKept_effect cause).2.2.2.1
  refine ⟨warm, fun valid idle => (warm valid).trans (s.completeAccepted_idle idle), fun invalid => ?_⟩
  rw [State.warmReset, if_neg (by simp [invalid])]
  exact (s.coldReset_effect cause).2.2.2.1

theorem warmReset_resets (c : Fin 16) (s : State) (standby : s.pins.standby = true) (cause : c.val = 2 ∨ c.val = 5 ∨ c.val = 6) :
    Gives (.warmReset c) s (fun t => t.power.vsoc = false ∧ fld t.power.rstCause 19 16 = c.val ∧
      (s.clasp.memoryValid = true → t.mem = s.completeAccepted.mem) ∧
      (s.clasp.memoryValid = true → s.channels = [] → t.mem = s.mem) ∧ (s.clasp.memoryValid = false → t.mem = {})) := by
  have arm : exec (.warmReset c) s = execWarmReset c s := rfl
  rw [Gives, arm, execWarmReset, if_neg (by simp [standby]), if_neg (show ¬(c.val = 3 ∨ c.val = 4) by omega), if_pos cause]
  obtain ⟨soc, recorded, -, -⟩ := s.warmReset_effect c
  exact ⟨_, rfl, soc, recorded.trans (Nat.mod_eq_of_lt c.isLt), s.warmReset_mem c⟩

theorem warmReset_due (c : Fin 16) (due : Nat) (s : State) (standby : s.pins.standby = true) (cause : c.val = 3 ∨ c.val = 4)
    (asked : s.lantern.resetAt = some due) (late : due ≤ s.now) (own : s.lantern.resetCause = c.val) :
    Gives (.warmReset c) s (fun t => t.power.vsoc = false ∧ fld t.power.rstCause 19 16 = c.val ∧ t.lantern.running = false) := by
  have arm : exec (.warmReset c) s = execWarmReset c s := rfl
  rw [Gives, arm, execWarmReset, asked]
  dsimp only
  rw [if_neg (by simp [standby]), if_pos cause, if_pos (by simp [late, own])]
  obtain ⟨soc, recorded, stands, -⟩ := s.warmReset_effect c
  exact ⟨_, rfl, soc, recorded.trans (Nat.mod_eq_of_lt c.isLt), stands⟩

/-- RESET_N held low resets; a pulse of less than 100 ns changes the pin alone. -/
theorem resetN_acts (n : Nat) (s : State) (standby : s.pins.standby = true) (high : s.pins.resetN = true) :
    Gives (.resetN n true) s (fun t => t.power.vsoc = false ∧ t.pins.resetN = false ∧ fld t.power.rstCause 19 16 = 2) ∧
    (n < 100 → Gives (.resetN n false) s (fun t => t.power.vsoc = s.power.vsoc ∧ t.cores = s.cores ∧ t.mem = s.mem)) := by
  refine ⟨?_, fun short => ?_⟩
  · have run : exec (.resetN n true) s = .next (({ s with pins := { s.pins with resetN := false } }).warmReset 2) := by
      have arm : exec (.resetN n true) s = execResetN n true s := rfl
      rw [arm, execResetN]
      dsimp only
      rw [if_neg (by simp [standby, high]), if_pos (by simp), if_neg (by simp)]
      rfl
    obtain ⟨soc, recorded, -, pin⟩ := State.warmReset_effect { s with pins := { s.pins with resetN := false } } 2
    exact ⟨_, run, soc, pin, recorded⟩
  · have run : exec (.resetN n false) s = .next { s with pins := { s.pins with resetN := true } } := by
      have arm : exec (.resetN n false) s = execResetN n false s := rfl
      have closed : decide (100 ≤ n ∧ n < 1000) = false := decide_eq_false (by omega)
      have brief : decide (1000 ≤ n) = false := decide_eq_false (by omega)
      rw [arm, execResetN]
      dsimp only
      rw [if_neg (by simp [standby, high]), closed, brief, if_neg (by simp), if_neg (by simp)]
      rfl
    exact ⟨_, run, rfl, rfl, rfl⟩

theorem bootFailure_resets (s : State) (soc : s.power.vsoc = true) (stopped : s.lantern.running = false) (low : 4 ≤ s.bootStage)
    (high : s.bootStage ≤ 8) : Gives .bootFailure s (fun t => t.power.vsoc = false ∧ fld t.power.rstCause 19 16 = 6) := by
  have arm : exec .bootFailure s = execBootFailure s := rfl
  rw [Gives, arm, execBootFailure, State.bootFails]
  dsimp only
  rw [if_neg (by simp [soc, stopped, low, high])]
  generalize (if 1 ≤ fld32 s.power.bootStatus 23 16 ∧ fld32 s.power.bootStatus 23 16 ≤ 3 then s else _) = v
  obtain ⟨down, recorded, -, -⟩ := v.warmReset_effect 6
  exact ⟨_, rfl, down, recorded⟩

theorem watchdog_resets (s : State) (soc : s.power.vsoc = true) (running : s.lantern.running = true) (normal : s.lantern.recovery = false) :
    Gives .watchdog s (fun t => t.power.vsoc = false ∧ fld t.power.rstCause 19 16 = 5) := by
  have arm : exec .watchdog s = execWatchdog s := rfl
  rw [Gives, arm, execWatchdog, State.watchdogReset, if_neg (by simp [soc, running, normal])]
  dsimp only
  generalize ({ s.drawn with flash := _ } : State) = v
  obtain ⟨down, recorded, -, -⟩ := v.warmReset_effect 5
  exact ⟨_, rfl, down, recorded⟩

/-! ### Supplies (R508 to R510, R520) -/

theorem standbyApplied_starts (m : Fin 8) (s : State) : Gives (.standbyApplied m) s (fun t => t.pins.standby = true ∧
    t.pins.moduleId.toNat = m.val ∧ t.power.vsoc = false ∧ t.mem = {}) := by
  obtain ⟨soc, -, -, mem, -, -, standby, moduleId⟩ :=
    State.coldReset_effect { s with pins := { s.pins with standby := true, moduleId := BitVec.ofNat 3 m.val } } 0
  refine ⟨_, rfl, standby, ?_, soc, mem⟩
  rw [moduleId, BitVec.toNat_ofNat]
  exact Nat.mod_eq_of_lt m.isLt

theorem standbyLoss_resets (s : State) : Gives .standbyLoss s (fun t => t.pins.standby = false ∧ t.power.vsoc = false ∧ t.mem = {} ∧
    t.flash = s.flash) := ⟨_, rfl, rfl, rfl, rfl, rfl⟩

theorem input48vLoss_resets (mv us : Nat) (s : State) (rated : mv ≤ 66000) (long : 1000 < us) (outside : mv < 38000 ∨ 62000 < mv) :
    Gives (.input48vLoss mv us) s (fun t => t.power.vsoc = false ∧ fld t.power.rstCause 19 16 = 1 ∧ t.mem = {} ∧ t.flash = s.flash) := by
  have arm : exec (.input48vLoss mv us) s = execInput48vLoss mv us s := rfl
  rw [Gives, arm, execInput48vLoss, if_neg (Nat.not_lt.2 rated), if_neg (by omega)]
  obtain ⟨soc, recorded, -, mem, flash, -⟩ := State.coldReset_effect { s with pins := { s.pins with input48 := mv } } 1
  exact ⟨_, rfl, soc, recorded, mem, flash⟩

/-! ### What the steps of a start leave (R465, R480, R485) -/

/-- From s to t the SoC supply, the straps, the host port's link and what Lantern runs stand. -/
structure StartKept (s t : State) : Prop where
  soc : t.power.vsoc = s.power.vsoc
  strap : t.pins.strap = s.pins.strap
  linkUp : t.hp.linkUp = s.hp.linkUp
  running : t.lantern.running = s.lantern.running
  slot : t.lantern.activeSlot = s.lantern.activeSlot

namespace StartKept
variable {s t u : State}

theorem refl (s : State) : StartKept s s := ⟨rfl, rfl, rfl, rfl, rfl⟩

theorem trans (h : StartKept s t) (k : StartKept t u) : StartKept s u :=
  ⟨k.soc.trans h.soc, k.strap.trans h.strap, k.linkUp.trans h.linkUp, k.running.trans h.running, k.slot.trans h.slot⟩

theorem of_eq (power : t.power = s.power) (pins : t.pins = s.pins) (hp : t.hp = s.hp) (lantern : t.lantern = s.lantern) :
    StartKept s t := by
  refine ⟨?_, ?_, ?_, ?_, ?_⟩ <;> simp only [power, pins, hp, lantern]

theorem foldl {α : Type} {f : State → α → State} (step : ∀ u a, StartKept u (f u a)) (l : List α) (s : State) :
    StartKept s (l.foldl f s) := foldl_keeps (StartKept s) _ _ _ (.refl s) fun u a h => h.trans (step u a)

theorem modCore (s : State) (c : Nat) (f : Core → Core) : StartKept s (s.modCore c f) :=
  .of_eq (State.modCore_power _ _ _) (State.modCore_pins _ _ _) (State.modCore_hp _ _ _) (State.modCore_lantern _ _ _)
theorem modCluster (s : State) (k : Nat) (f : Cluster → Cluster) : StartKept s (s.modCluster k f) :=
  .of_eq (State.modCluster_power _ _ _) (State.modCluster_pins _ _ _) (State.modCluster_hp _ _ _) (State.modCluster_lantern _ _ _)
theorem modGroup (s : State) (k : Nat) (f : Group → Group) : StartKept s (s.modGroup k f) :=
  .of_eq (State.modGroup_power _ _ _) (State.modGroup_pins _ _ _) (State.modGroup_hp _ _ _) (State.modGroup_lantern _ _ _)
theorem modCtx (s : State) (x : Nat) (f : Ctx → Ctx) : StartKept s (s.modCtx x f) :=
  .of_eq (State.modCtx_power _ _ _) (State.modCtx_pins _ _ _) (State.modCtx_hp _ _ _) (State.modCtx_lantern _ _ _)
theorem modPort (s : State) (p : Nat) (f : Port → Port) : StartKept s (s.modPort p f) :=
  .of_eq (State.modPort_power _ _ _) (State.modPort_pins _ _ _) (State.modPort_hp _ _ _) (State.modPort_lantern _ _ _)
theorem log (s : State) (l : LogArgs) : StartKept s (s.log l) :=
  .of_eq (State.log_power _ _) (State.log_pins _ _) (State.log_hp _ _) (State.log_lantern _ _)
theorem memOnly (h : MemOnly s t) : StartKept s t :=
  .of_eq (congrArg State.power h.eq :) (congrArg State.pins h.eq :) (congrArg State.hp h.eq :) (congrArg State.lantern h.eq :)
theorem noticeDev (s : State) (kind : Nat) (body : List Byte) : StartKept s (s.noticeDev kind body) := ⟨rfl, rfl, rfl, rfl, rfl⟩
theorem withClasp (s : State) (c : Clasp) : StartKept s { s with clasp := c } := ⟨rfl, rfl, rfl, rfl, rfl⟩
theorem withPower (s : State) (p : Power) (soc : p.vsoc = s.power.vsoc) : StartKept s { s with power := p } := ⟨soc, rfl, rfl, rfl, rfl⟩
theorem drawn (s : State) : StartKept s s.drawn := ⟨rfl, rfl, rfl, rfl, rfl⟩

theorem ite {c : Prop} {d : Decidable c} (h : StartKept s t) (k : StartKept s u) : StartKept s (if c then t else u) := by
  split
  · exact h
  · exact k

theorem fatalError (s : State) (l : LogArgs) (fabric : Bool) : StartKept s (s.fatalError l fabric) := by
  unfold State.fatalError
  extract_lets l' r s1 s2 s3 s4
  have h1 : StartKept s s1 := .log _ _
  have h2 : StartKept s1 s2 := by
    unfold s2
    exact .foldl (fun u x => .ite (.refl u) (.modCtx u x _)) _ _
  have h3 : StartKept s2 s3 := by
    unfold s3
    exact .foldl (fun u c => .ite (.refl u) (.modCore u c _)) _ _
  have h4 : StartKept s3 s4 := by
    unfold s4
    exact .ite (.foldl (fun u p => .modPort u p _) _ _) (.refl s3)
  have h : StartKept s s4 := ((h1.trans h2).trans h3).trans h4
  clear_value s4
  refine .trans h (.trans ?_ (.noticeDev _ _ _))
  exact ⟨rfl, rfl, rfl, rfl, rfl⟩

theorem wardrobeSettle (s : State) (ranges : List (Nat × Nat)) : StartKept s (s.wardrobeSettle ranges) := by
  unfold State.wardrobeSettle
  dsimp only
  split
  · exact .refl s
  · split
    · exact .withPower s _ rfl
    · refine .trans ?_ (.fatalError _ _ _)
      exact .withPower s _ rfl

theorem offExit (s : State) (k : Nat) : StartKept s (s.offExit k) := by
  have dozing (v : State) : StartKept v (v.dozing k) := (StartKept.foldl (fun u c => .modCore u _ _) _ _).trans (.modCluster _ _ _)
  refine .trans ?_ (dozing _)
  unfold State.restoreSave
  exact .ite ((StartKept.wardrobeSettle s _).trans ((StartKept.modCluster _ _ _).trans (.foldl (fun u c => .modCore u _ _) _ _)))
    (.wardrobeSettle s _)

theorem measure (s : State) (item slot : Nat) (version : Word32) (svn : Nat) (digest : List Byte) :
    StartKept s (s.measure item slot version svn digest) := .withClasp s _

theorem measureImage (s : State) (item slot : Nat) (i : Option Image) : StartKept s (s.measureImage item slot i) := by
  cases i with
  | none => exact .refl s
  | some m => exact .measure _ _ _ _ _ _

theorem enrol (s : State) : StartKept s s.enrol := by
  unfold State.enrol
  refine .trans (.foldl (fun u k => ?_) _ _) (.withClasp _ _)
  exact .ite (.withClasp u _) (.ite (.withClasp u _) (.refl u))

theorem newBoot (s : State) : StartKept s s.newBoot :=
  ((StartKept.drawn s).trans (.withClasp _ _)).trans (.measure _ _ _ _ _ _)

theorem measureSet (s : State) (b : BootChoice) (config : Option Image) : StartKept s (s.measureSet b config) := by
  unfold State.measureSet
  extract_lets t1 t2 t3
  have h1 : StartKept s t1 := .measureImage _ _ _ _
  have h2 : StartKept t1 t2 := StartKept.foldl (fun u cls => (StartKept.withClasp u _).trans (.measureImage _ _ _ _)) _ _
  have h3 : StartKept s t3 := (h1.trans h2).trans (.measureImage _ _ _ _)
  split
  · exact h3.trans (.measure _ _ _ _ _ _)
  · exact h3

/-! ### Retained contexts (R469) -/

theorem eachSome {s u : State} {α : Type} {f : State → α → Option State} {l : List α} (step : ∀ v a w, f v a = some w → StartKept v w)
    (e : Machine.eachSome f l s = some u) : StartKept s u := by
  induction l generalizing s with
  | nil => cases e; exact .refl _
  | cons a l ih =>
    rw [Machine.eachSome] at e
    split at e
    · cases e
    next v run => exact (step _ _ _ run).trans (ih e)

theorem writePaClean (s : State) (pa : Nat) (bs : List Byte) : StartKept s (s.writePaClean pa bs) :=
  .memOnly (State.writePa_memOnly _ _ _ _)

theorem newTable {x : Nat} {r : Nat × State} (e : s.newTable x = some r) : StartKept s r.2 := by
  unfold State.newTable at e
  obtain ⟨y, -, rfl⟩ := Option.map_eq_some_iff.1 e
  generalize List.replicate 65536 (0 : Byte) = zeros
  dsimp only
  exact ((StartKept.drawn s).trans (.writePaClean _ _ _)).trans (.modCtx _ _ _)

theorem subTable {x table i : Nat} {r : Nat × State} (e : s.subTable x table i = some r) : StartKept s r.2 := by
  unfold State.subTable at e
  dsimp only at e
  split at e
  · cases e
    exact .refl s
  · obtain ⟨y, made, rfl⟩ := Option.map_eq_some_iff.1 e
    exact ((StartKept.newTable made).trans (.ite (.writePaClean _ _ _) (.refl _))).trans (.writePaClean _ _ _)

theorem putBlock {x va : Nat} {w : Word64} (e : s.putBlock x va w = some u) : StartKept s u := by
  unfold State.putBlock at e
  obtain ⟨a, table, run⟩ := (option_bind_some _ _ _).1 e
  obtain rfl := Option.some.inj run
  exact (StartKept.subTable table).trans (.writePaClean _ _ _)

theorem putPage {x va : Nat} {w : Word64} (e : s.putPage x va w = some u) : StartKept s u := by
  unfold State.putPage at e
  obtain ⟨a, table, e⟩ := (option_bind_some _ _ _).1 e
  obtain ⟨b, lower, run⟩ := (option_bind_some _ _ _).1 e
  obtain rfl := Option.some.inj run
  exact ((StartKept.subTable table).trans (.subTable lower)).trans (.writePaClean _ _ _)

/-- Pages of a context rewritten in its tables. -/
theorem rewrite {x va n : Nat} {g : Word64 → Word64} (e : s.rewrite x va n g = some u) : StartKept s u := by
  have pages {l : List Nat} {v w : State} (run : Machine.eachSome (fun u p => match u.pageLeaf x p with
      | some e => u.putPage x p (g e)
      | none => some u) l v = some w) : StartKept v w := by
    refine .eachSome (fun v a w hw => ?_) run
    split at hw
    · exact .putPage hw
    · obtain rfl := Option.some.inj hw
      exact .refl v
  refine .eachSome (fun v a w hw => ?_) e
  split at hw
  · split at hw
    · exact .putBlock hw
    · exact pages hw
  · exact pages hw

theorem dropTlb (s : State) (x : Nat) (p : Nat → Bool) : StartKept s (s.dropTlb x p) := by
  unfold State.dropTlb
  extract_lets s1 s2 s3
  have h1 : StartKept s s1 := by
    unfold s1
    exact .foldl (fun u c => .modCore u c _) _ _
  have h2 : StartKept s1 s2 := by
    unfold s2
    exact .foldl (fun u c => .modCluster u c _) _ _
  have h3 : StartKept s2 s3 := by
    unfold s3
    exact .foldl (fun u c => .modGroup u c _) _ _
  have h : StartKept s s3 := (h1.trans h2).trans h3
  clear_value s3
  exact h.trans ⟨rfl, rfl, rfl, rfl, rfl⟩

theorem retainCtxs (s : State) : StartKept s s.retainCtxs := by
  unfold State.retainCtxs State.unmapAll
  refine .foldl (fun u e => ?_) _ _
  have entry : StartKept u (u.setCtx e.1 e.2) := .of_eq (State.setCtx_power _ _ _) (State.setCtx_pins _ _ _) (State.setCtx_hp _ _ _)
    (State.setCtx_lantern _ _ _)
  refine entry.trans (.foldl (fun v m => ?_) _ _)
  cases cut : v.unmapRange e.1 m.1 m.2.1 with
  | none => exact .refl v
  | some w =>
    unfold State.unmapRange at cut
    obtain ⟨y, run, rfl⟩ := Option.map_eq_some_iff.1 cut
    exact ((StartKept.rewrite run).trans (.modCtx _ _ _)).trans (.dropTlb _ _ _)

theorem memoryStart (s : State) (ok : Bool) (stage : Nat) : StartKept s (s.memoryStart ok stage) := by
  have written (m : MainMem) (c : Clasp) (g : Sparse Group) (w : Word64) (r : List (Nat × Ctx)) :
      StartKept s { s with mem := m, clasp := c, groups := g, power := { s.power with rstCause := w, retained := r } } :=
    ⟨rfl, rfl, rfl, rfl, rfl⟩
  exact written _ _ _ _ _

/-! ### Lantern's first steps (R337, R478, R492) -/

theorem linkChange (s : State) (p : Nat) : StartKept s (s.linkChange p) := .noticeDev _ _ _

theorem startTraining (s : State) (p : Nat) : StartKept s (s.startTraining p) := by
  have enters (v : State) : StartKept v (v.enterEntry p 0 0) := by
    unfold State.enterEntry
    split
    · exact (StartKept.modPort _ _ _).trans (.linkChange _ _)
    · split
      · exact (StartKept.modPort _ _ _).trans (.linkChange _ _)
      · exact .modPort _ _ _
  have tests : StartKept s (s.testEnds p) := by
    obtain ⟨rest, -, -⟩ := s.testEnds_only p
    exact .of_eq (congrArg State.power rest :) (congrArg State.pins rest :) (congrArg State.hp rest :) (congrArg State.lantern rest :)
  exact (tests.trans (.modPort _ _ _)).trans (enters _)

theorem raiseRollback (s : State) (z : Nat) : StartKept s (s.raiseRollback z) := by
  unfold State.raiseRollback
  refine .foldl (fun u cls => ?_) _ _
  dsimp only
  generalize (if cls = 4 then s.power.configUsed else s.imageAt z cls) = image
  cases image with
  | none => exact .refl u
  | some i => exact .withClasp _ _

theorem copyCrash (s : State) : StartKept s s.copyCrash := by
  unfold State.copyCrash
  split
  · exact .refl s
  · exact ⟨rfl, rfl, rfl, rfl, rfl⟩

theorem hpSend (s : State) (pcp kind : Nat) (bs : List Byte) : StartKept s (s.hpSend pcp kind bs) := by
  unfold State.hpSend
  exact .ite (.refl s) (.ite ⟨rfl, rfl, rfl, rfl, rfl⟩ ⟨rfl, rfl, rfl, rfl, rfl⟩)

theorem announce (s : State) : StartKept s s.announce := by
  unfold State.announce
  extract_lets l t
  have timed : StartKept s t := ⟨rfl, rfl, rfl, rfl, rfl⟩
  exact timed.trans (.foldl (fun u a => .hpSend u _ _ _) _ _)

theorem withAlert (s : State) : StartKept s s.withAlert := ⟨rfl, rfl, rfl, rfl, rfl⟩

end StartKept

/-! ### Starts (R460, R463, R465, R516) -/

/-- Step 2 brings the SoC supply up. -/
theorem State.rampUp_effect (s : State) : s.rampUp.power.vsoc = true ∧ s.rampUp.pins.strap = s.pins.strap ∧
    s.rampUp.lantern.running = s.lantern.running := by
  unfold State.rampUp
  extract_lets rails power pins t
  have up : t.power.vsoc = true ∧ t.pins.strap = s.pins.strap ∧ t.lantern.running = s.lantern.running := ⟨rfl, rfl, rfl⟩
  clear_value t
  have exits := StartKept.foldl (f := State.offExit) (fun u k => .offExit u k) (List.range 16) t
  exact ⟨exits.soc.trans up.1, exits.strap.trans up.2.1, exits.running.trans up.2.2⟩

/-- The state in which the boot ROM chooses, after a start that is not a recovery. -/
theorem State.chosen_effect (s : State) : s.rampUp.enrol.newBoot.power.vsoc = true ∧ s.rampUp.enrol.newBoot.pins.strap = s.pins.strap ∧
    s.rampUp.enrol.newBoot.lantern.running = s.lantern.running := by
  obtain ⟨soc, strap, running⟩ := s.rampUp_effect
  have kept : StartKept s.rampUp s.rampUp.enrol.newBoot := (StartKept.enrol _).trans (.newBoot _)
  exact ⟨kept.soc.trans soc, kept.strap.trans strap, kept.running.trans running⟩

theorem State.recoveryStart_effect (s : State) : s.recoveryStart.withAlert.lantern.recovery = true ∧
    s.recoveryStart.withAlert.power.vsoc = s.power.vsoc := by
  obtain ⟨h, l, w, run, recovery⟩ : ∃ h l w, s.recoveryStart = { s with hp := h, lantern := l, power := { s.power with bootStatus := w } } ∧
    l.recovery = true := ⟨_, _, _, rfl, rfl⟩
  rw [run]
  exact ⟨recovery, rfl⟩

theorem State.bootHold_effect (s : State) : s.bootHold.pins.holding = true ∧ s.bootHold.lantern.running = s.lantern.running := by
  have held (w : Word32) : ({ s with pins := { s.pins with holding := true }, power := { s.power with bootStatus := w } } : State).withAlert.pins.holding =
      true ∧ ({ s with pins := { s.pins with holding := true }, power := { s.power with bootStatus := w } } : State).withAlert.lantern.running =
        s.lantern.running := ⟨rfl, rfl⟩
  exact held _

theorem startUp_recovers (f : StartF) (s : State) (ready : s.startReady = true) (strapped : bitOf s.pins.strap.toNat 0 = true) :
    Gives (.startUp f) s (fun t => t.lantern.recovery = true ∧ t.power.vsoc = true) := by
  have run : exec (.startUp f) s = .next s.rampUp.newBoot.recoveryStart.withAlert := by
    have arm : exec (.startUp f) s = execStartUp f s := rfl
    have before : bitOf s.rampUp.pins.strap.toNat 0 = true := by rw [s.rampUp_effect.2.1, strapped]
    have after : bitOf s.rampUp.newBoot.pins.strap.toNat 0 = true := by rw [(StartKept.newBoot s.rampUp).strap, before]
    rw [arm, execStartUp, State.startUp, if_neg (by simp [ready])]
    dsimp only
    rw [if_pos before, if_pos after]
  obtain ⟨recovery, soc⟩ := s.rampUp.newBoot.recoveryStart_effect
  exact ⟨_, run, recovery, by rw [soc, (StartKept.newBoot s.rampUp).soc, s.rampUp_effect.1]⟩

section
variable {f : StartF} {s : State} (ready : s.startReady = true) (plain : bitOf s.pins.strap.toNat 0 = false)
include ready plain

theorem startUp_holds (unfit : s.rampUp.enrol.newBoot.bootChoice = .hold) :
    Gives (.startUp f) s (fun t => t.pins.holding = true ∧ t.lantern.running = s.lantern.running) := by
  have run : exec (.startUp f) s = .next s.rampUp.enrol.newBoot.bootHold := by
    have arm : exec (.startUp f) s = execStartUp f s := rfl
    have before : ¬bitOf s.rampUp.pins.strap.toNat 0 = true := by simp [s.rampUp_effect.2.1, plain]
    have after : ¬bitOf s.rampUp.enrol.newBoot.pins.strap.toNat 0 = true := by simp [s.chosen_effect.2.1, plain]
    rw [arm, execStartUp, State.startUp, if_neg (by simp [ready])]
    dsimp only
    rw [if_neg before, if_neg after]
    simp only [unfit]
  obtain ⟨holding, running⟩ := s.rampUp.enrol.newBoot.bootHold_effect
  exact ⟨_, run, holding, running.trans s.chosen_effect.2.2⟩

theorem startUp_slot {z : Nat} {p : Bool} (choice : s.rampUp.enrol.newBoot.bootChoice = .slot z p) :
    exec (.startUp f) s = .next (s.rampUp.enrol.newBoot.startSet (.slot z p) f).withAlert := by
  have arm : exec (.startUp f) s = execStartUp f s := rfl
  have before : ¬bitOf s.rampUp.pins.strap.toNat 0 = true := by simp [s.rampUp_effect.2.1, plain]
  have after : ¬bitOf s.rampUp.enrol.newBoot.pins.strap.toNat 0 = true := by simp [s.chosen_effect.2.1, plain]
  rw [arm, execStartUp, State.startUp, if_neg (by simp [ready])]
  dsimp only
  rw [if_neg before, if_neg after]
  simp only [choice]

end

/-- Steps 8 and 9 run Lantern from the chosen slot, with the host port's link up. -/
theorem State.lanternUp_effect (s : State) (b : BootChoice) (cold : Bool) (reason : Nat) :
    (s.lanternUp b cold reason).lantern.running = true ∧ (s.lanternUp b cold reason).lantern.activeSlot = s.runSlot b 1 ∧
    (s.lanternUp b cold reason).power.vsoc = s.power.vsoc ∧ (s.lanternUp b cold reason).hp.linkUp = true := by
  unfold State.lanternUp
  extract_lets limited z hp t1 t2 clasp t3
  obtain ⟨running, slot, soc, linkUp⟩ : t1.lantern.running = true ∧ t1.lantern.activeSlot = s.runSlot b 1 ∧ t1.power.vsoc = s.power.vsoc ∧
    t1.hp.linkUp = true := ⟨rfl, rfl, rfl, rfl⟩
  have ports : StartKept t1 t2 := by
    unfold t2
    exact .foldl (fun u p => .ite (.startTraining u p) (.modPort u p _)) _ _
  have counts : StartKept t2 t3 := by
    unfold t3
    cases b with
    | slot w p => exact (StartKept.withClasp t2 _).trans (.ite (.raiseRollback _ _) (.refl _))
    | limited r => exact .refl t2
    | hold => exact .refl t2
  have kept : StartKept t1 t3.copyCrash.announce := ((ports.trans counts).trans (.copyCrash t3)).trans (.announce _)
  exact ⟨kept.running.trans running, kept.slot.trans slot, kept.soc.trans soc, kept.linkUp.trans linkUp⟩

/-- A start of a slot that reaches step 9. -/
theorem State.startSet_effect (s : State) (f : StartF) (z : Nat) (p : Bool) (reaches : f.reachesNine = true) :
    (s.startSet (.slot z p) f).lantern.running = true ∧ (s.startSet (.slot z p) f).lantern.activeSlot = z ∧
    (s.startSet (.slot z p) f).power.vsoc = s.power.vsoc ∧ (s.startSet (.slot z p) f).hp.linkUp = true := by
  unfold State.startSet
  extract_lets cold config stage reason slot permit s1 power1 s2 s3 s4 s5 power5 s6
  have h1 : StartKept s s1 := (StartKept.drawn s).trans (.measureSet _ _ _)
  have h2 : StartKept s1 s2 := .ite (.withPower s1 _ rfl) (.refl s1)
  have h3 : StartKept s2 s3 := .memoryStart _ _ _
  have h4 : StartKept s3 s4 := by
    unfold s4
    cases f.selfTestFail with
    | none => exact .refl s3
    | some e => exact .ite (.log _ _) (.refl s3)
  have h5 : StartKept s4 s5 := .ite (.retainCtxs s4) (.refl s4)
  have h6 : StartKept s5 s6 := .withPower s5 _ rfl
  have nine : stage = 9 := if_pos reaches
  rw [if_pos nine]
  obtain ⟨running, active, soc, linkUp⟩ := s6.lanternUp_effect (.slot z p) cold reason
  exact ⟨running, active, soc.trans (((((h1.trans h2).trans h3).trans h4).trans h5).trans h6).soc, linkUp⟩

theorem startUp_runs {f : StartF} {s : State} (ready : s.startReady = true) (plain : bitOf s.pins.strap.toNat 0 = false) (z : Nat)
    (p : Bool) (choice : s.rampUp.enrol.newBoot.bootChoice = .slot z p) (reaches : f.reachesNine = true) :
    Gives (.startUp f) s (fun t => t.lantern.running = true ∧ t.lantern.activeSlot = z ∧ t.power.vsoc = true ∧ t.hp.linkUp = true) := by
  obtain ⟨running, slot, soc, linkUp⟩ := s.rampUp.enrol.newBoot.startSet_effect f z p reaches
  have alert := StartKept.withAlert (s.rampUp.enrol.newBoot.startSet (.slot z p) f)
  exact ⟨_, startUp_slot ready plain choice, alert.running.trans running, alert.slot.trans slot,
    alert.soc.trans (soc.trans s.chosen_effect.1), alert.linkUp.trans linkUp⟩

/-- Settles O56. -/
theorem startsAndResetsAct : Obligations.StartsAndResetsAct := by
  unfold Obligations.StartsAndResetsAct
  exact ⟨fun f s ready => ⟨startUp_recovers f s ready, fun plain => ⟨startUp_holds ready plain, startUp_runs ready plain⟩⟩,
    warmReset_resets, warmReset_due, resetN_acts, bootFailure_resets, watchdog_resets, standbyApplied_starts, standbyLoss_resets,
    input48vLoss_resets⟩

end Sys2Proof.Machine
end
section
/-! PROOFS. Exchange cells that arrive, and cells that are forwarded (O37). -/

namespace Sys2Proof.Machine

/-! ### Arriving cells (R360) -/

/-- A kept message of an inbound context with one more cell. -/
def InMsg.counted (m : InMsg) (s : State) (c : Cell) : InMsg :=
  { m with got := m.got ++ [hIdx c.hdr], lapseAt := s.now + 2 * s.xpt.resendNs }

section
variable {s t w : State} {key : MsgKey} {c : Cell} {i : Nat} {letIn : State → Admit} {m n : InMsg}

/-- The first cell of a new message that its target admits is the first that its context counts. -/
theorem State.arrive_new (new : NewMessage s key c i)
    (whole : hIsX c.hdr = true ∨ ¬((c.cls = clReq ∨ c.cls = clBlk) ∧ 1 ≤ aKind c.hdr ∧ aKind c.hdr ≤ 3 ∧ hLast c.hdr ≠ 0))
    (admitted : letIn s = .go t m) : s.arrive key c none letIn = t.countCell i m c := by
  obtain ⟨unheard, unknown, free, -, inside⟩ := new
  have good : ¬(hLast c.hdr < hIdx c.hdr ∨
      ((!hIsX c.hdr) = true ∧ (c.cls = clReq ∨ c.cls = clBlk) ∧ 1 ≤ aKind c.hdr ∧ aKind c.hdr ≤ 3 ∧ hLast c.hdr ≠ 0)) := by
    rintro (beyond | ⟨format, rest⟩)
    · omega
    · rcases whole with x | short
      · rw [x] at format
        cases format
      · exact short rest
  unfold State.arrive State.firstCell
  dsimp only
  rw [unheard]
  dsimp only
  rw [unknown]
  dsimp only
  rw [if_neg (by simp), if_neg good, free]
  dsimp only
  rw [admitted]

/-- A further cell of a message that its context holds, in the message's generation. -/
theorem State.arrive_known (unheard : s.xpt.retire.find? (fun r => r.key == key) = none) (known : s.findIn key = some (i, m))
    (pending : m.reply = none) (wanted : m.nak = none) (last : m.last = hLast c.hdr) (inside : hIdx c.hdr ≤ m.last)
    (gen : hGen c.hdr = m.gen.toNat) : s.arrive key c none letIn = s.countCell i m c := by
  unfold State.arrive
  dsimp only
  rw [unheard]
  dsimp only
  rw [known]
  dsimp only
  rw [if_neg (by simp), pending]
  dsimp only
  rw [if_neg (by omega), if_pos gen, wanted]

/-- A cell that does not complete its message is counted by its context. -/
theorem State.countCell_more (placed : s.placeCell m c = .ok (w, n)) (more : n.got.length ≠ n.last) :
    s.countCell i m c = w.putIn i (some (n.counted s c)) := by
  unfold State.countCell
  rw [placed]
  dsimp only
  rw [if_neg (by rw [List.length_append, List.length_singleton]; omega)] <;> rfl

/-- The last cell of a message completes it. -/
theorem State.countCell_last (placed : s.placeCell m c = .ok (w, n)) (full : n.got.length = n.last) :
    s.countCell i m c = w.finish i (n.counted s c) c := by
  unfold State.countCell
  rw [placed]
  dsimp only
  rw [if_pos (by rw [List.length_append, List.length_singleton]; omega)] <;> rfl

theorem State.putIn_inbound (s : State) (i : Nat) (m : Option InMsg) : sget none (s.putIn i m).xpt.inbound i = m := sget_sset_same _ _ _ _

end

/-! ### Exchange cells (R360, R367) -/

section
variable {s : State} {c : Cell} {x : Nat}

/-- A good exchange cell whose target node is known goes to its context. -/
theorem xchCell_run (good : GoodCell s c true clXch) (first : xReply c.hdr = false) :
    exec (.xchCell c) s = .next (match (s.atRequest c).xDest c.hdr, (s.atRequest c).ctxOfTag (xRtag c.hdr) with
      | some _, some x =>
        (s.atRequest c).arrive (xKey c.hdr) c (if (s.atRequest c).naksAll x then some (1, ncSuspended) else none)
          (fun u => u.admitXch (xKey c.hdr) c)
      | _, _ => (s.atRequest c).orphan) := by
  obtain ⟨here, kept, format, cls, crc⟩ := good
  have arm : exec (.xchCell c) s = execXchCell c s := rfl
  rw [arm, execXchCell]
  dsimp only
  rw [if_pos (by simp [here, format, first, cls]), if_neg (by simp [kept]), if_neg (by simp [crc])]
  rfl

theorem xchCell_orphan (good : GoodCell s c true clXch) (first : xReply c.hdr = false) (lost : (s.atRequest c).xDest c.hdr = none) :
    exec (.xchCell c) s = .next (s.atRequest c).orphan := by
  rw [xchCell_run good first, lost]

/-- The first cell of a message that an armed receive takes. -/
theorem xchCell_armed {y i d : Nat} {r : RouterRec} {v : XRecv} {map nodes : List Nat} (good : GoodCell s c true clXch)
    (first : xReply c.hdr = false) (dest : (s.atRequest c).xDest c.hdr = some d) (tag : (s.atRequest c).ctxOfTag (xRtag c.hdr) = some x)
    (runs : (s.atRequest c).naksAll x = false) (new : NewMessage (s.atRequest c) (xKey c.hdr) c i)
    (fine : (s.atRequest c).xchAdmit c.hdr = .fine x y r v) (data : xK c.hdr ≠ 511)
    (tables : (s.atRequest c).layerTables x r = some (map, nodes))
    (mapped : (s.atRequest c).translateMsg x .inboundPinned .write (v.base r map c.hdr + xK c.hdr * rowsPerMessage r * r.rowPitch)
      (msgRows r (xLast c.hdr) * r.rowPitch) = .ok ()) :
    exec (.xchCell c) s = .next ((s.atRequest c).countCell i (newIn (s.atRequest c) (xKey c.hdr) x c.hdr
      (v.base r map c.hdr + xK c.hdr * rowsPerMessage r * r.rowPitch) (msgRows r (xLast c.hdr) * r.rowPitch) 0) c) := by
  obtain ⟨-, -, format, -⟩ := id good
  rw [xchCell_run good first, dest, tag]
  dsimp only
  rw [runs, if_neg Bool.false_ne_true]
  generalize s.atRequest c = u at *
  refine congrArg Host.Outcome.next (State.arrive_new new (.inl format) ?_)
  unfold State.admitXch
  dsimp only
  rw [fine]
  dsimp only
  rw [if_neg data, tables]
  dsimp only
  rw [mapped]

end

/-- A cell that is counted in XPT_DROP_STAT changes nothing beside. -/
theorem State.countDrop_effect (s : State) (hi lo : Nat) : (s.countDrop hi lo).xpt.dropStat = bumpFld s.xpt.dropStat hi lo 1 ∧
    (s.countDrop hi lo).mem = s.mem ∧ (s.countDrop hi lo).ports = s.ports ∧ (s.countDrop hi lo).xpt.mgtRing = s.xpt.mgtRing := by
  have counted (w : Word64) : ({ s with xpt := { s.xpt with dropStat := w } } : State).xpt.dropStat = w ∧
      ({ s with xpt := { s.xpt with dropStat := w } } : State).mem = s.mem ∧
      ({ s with xpt := { s.xpt with dropStat := w } } : State).ports = s.ports ∧
      ({ s with xpt := { s.xpt with dropStat := w } } : State).xpt.mgtRing = s.xpt.mgtRing := ⟨rfl, rfl, rfl, rfl⟩
  exact counted (bumpFld s.xpt.dropStat hi lo 1)

/-! ### Forwarded cells (R222, R355 to R357) -/

section
variable {src : Option (PortId × Nat)} {c : Cell} {s u : State} {t : Topology} (topo : s.xpt.topo = some t)
  (left : s.leave src c = some u) (other : hDest c.hdr ≠ t.node.toNat)
include topo left other

theorem cellForward_lost (lost : s.lostAt src c = true) : exec (.cellForward src c) s = .next u := by
  have arm : exec (.cellForward src c) s = execCellForward src c s := rfl
  rw [arm, execCellForward, topo, left]
  dsimp only
  rw [if_neg other, if_pos lost]

theorem cellForward_unroutable (kept : s.lostAt src c = false) (nowhere : t.nodes ≤ hDest c.hdr ∨ s.candidates t (hDest c.hdr) = []) :
    Gives (.cellForward src c) s (fun v => v.xpt.dropStat = bumpFld s.xpt.dropStat 47 32 1 ∧ v.mem = s.mem ∧
      (∀ p, (v.port p).waiting = (s.port p).waiting)) := by
  have run : exec (.cellForward src c) s = .next u.unroutable := by
    have arm : exec (.cellForward src c) s = execCellForward src c s := rfl
    rw [arm, execCellForward, topo, left]
    dsimp only
    rw [if_neg other, if_neg (by simp [kept]), if_pos nowhere]
  have stat : u.xpt.dropStat = s.xpt.dropStat := by
    unfold State.leave at left
    split at left
    · split at left
      · obtain rfl := Option.some.inj left
        rfl
      · split at left
        · obtain rfl := Option.some.inj left
          rfl
        · cases left
    · dsimp only at left
      split at left
      · obtain rfl := Option.some.inj left
        rfl
      · cases left
  obtain ⟨counted, mem, ports, -⟩ := u.countDrop_effect 47 32
  refine ⟨_, run, counted.trans (by rw [stat]), mem.trans (State.leave_mem left), fun p => ?_⟩
  have same : u.unroutable.port p = u.port p := by rw [State.port, State.port, State.unroutable, ports]
  rw [same]
  exact State.leave_waiting left p

theorem cellForward_joins {p vc : Nat} (kept : s.lostAt src c = false) (inside : hDest c.hdr < t.nodes)
    (candidate : s.candidates t (hDest c.hdr) ≠ []) (chosen : s.chooseLink t c = some (p, vc)) :
    Gives (.cellForward src c) s (fun v => (v.port p).waiting = (s.port p).waiting ++ [⟨vc, c⟩] ∧ v.mem = s.mem ∧
      (∀ q, q ≠ p → (v.port q).waiting = (s.port q).waiting)) := by
  refine ⟨_, exec_cellForward_chosen topo left other kept inside candidate chosen, ?_, ?_, fun q apart => ?_⟩
  · rw [State.modPort_port_same, Port.enqueue_waiting, State.leave_waiting left]
  · rw [State.modPort_mem, State.leave_mem left]
  · rw [State.modPort_port_other _ _ apart, State.leave_waiting left]

end

/-- Settles O37. -/
theorem exchangeAndForwardedCellsAct : Obligations.ExchangeAndForwardedCellsAct := by
  unfold Obligations.ExchangeAndForwardedCellsAct
  refine ⟨fun c s => ⟨xchCell_orphan, fun x y i d r v map nodes w m good first dest tag runs new fine data tables mapped placed empty last => ?_⟩,
    fun src c s u t topo left other => ⟨cellForward_lost topo left other, cellForward_unroutable topo left other,
      fun p vc => cellForward_joins topo left other⟩⟩
  have run := xchCell_armed good first dest tag runs new fine data tables mapped
  have counted : m.counted (s.atRequest c) c = { m with
      got := [hIdx c.hdr], lapseAt := (s.atRequest c).now + 2 * (s.atRequest c).xpt.resendNs } := by
    rw [InMsg.counted, empty]
    rfl
  refine ⟨fun more => ?_, fun single => ?_⟩
  · rw [State.countCell_more placed (by rw [empty, last]; exact Nat.ne_of_lt more), counted] at run
    exact ⟨_, run, rfl, State.putIn_inbound _ _ _⟩
  · rw [State.countCell_last placed (by rw [empty, last, single]; rfl), counted] at run
    exact run

end Sys2Proof.Machine
end
section
/-! PROOFS. Request cells at their target (O36). -/

namespace Sys2Proof.Machine

/-! ### Cells that meet no request (R351, R358) -/

/-- The settled retire records leave the counts, main memory and the ring. -/
theorem State.retireSettle_rest (s : State) : s.retireSettle.mem = s.mem ∧ s.retireSettle.xpt.dropStat = s.xpt.dropStat ∧
    s.retireSettle.xpt.injected = s.xpt.injected := by
  unfold State.retireSettle
  refine foldl_keeps (fun u : State => u.mem = s.mem ∧ u.xpt.dropStat = s.xpt.dropStat ∧ u.xpt.injected = s.xpt.injected) _ _ _
    ⟨rfl, rfl, rfl⟩ fun u e h => ?_
  have moved (i : Nat) (m : InMsg) (r : Cell) : (u.retire i m r).mem = u.mem ∧ (u.retire i m r).xpt.dropStat = u.xpt.dropStat ∧
      (u.retire i m r).xpt.injected = u.xpt.injected := by
    unfold State.retire
    split <;> exact ⟨rfl, rfl, rfl⟩
  split
  · split
    · split
      · exact ⟨(moved _ _ _).1.trans h.1, (moved _ _ _).2.1.trans h.2.1, (moved _ _ _).2.2.trans h.2.2⟩
      · exact h
    · exact h
  · exact h

theorem State.atRequest_rest (s : State) (c : Cell) : (s.atRequest c).mem = s.mem ∧ (s.atRequest c).xpt.dropStat = s.xpt.dropStat := by
  obtain ⟨mem, stat, -⟩ := (s.takeCell c).retireSettle_rest
  exact ⟨mem.trans (congrArg State.mem (s.takeCell_only c) :), stat.trans (congrArg (fun u : State => u.xpt.dropStat) (s.takeCell_only c) :)⟩

section
variable {s : State} {c : Cell}

theorem cellArrival_lost (here : s.isHere c = true) (format : hIsX c.hdr = false) (cls : c.cls < 6) (lost : s.cellLost c = true) :
    exec (.cellArrival c) s = .next (s.atRequest c) := by
  have arm : exec (.cellArrival c) s = execCellArrival c s := rfl
  rw [arm, execCellArrival]
  dsimp only
  rw [if_pos (by simp [here, format, cls]), if_pos lost] <;> rfl

theorem cellArrival_badCrc (here : s.isHere c = true) (format : hIsX c.hdr = false) (cls : c.cls < 6) (kept : s.cellLost c = false)
    (bad : Cell.crcOk c = false) :
    Gives (.cellArrival c) s (fun t => t.xpt.dropStat = bumpFld s.xpt.dropStat 63 48 1 ∧ t.mem = s.mem) := by
  have run : exec (.cellArrival c) s = .next (s.atRequest c).crcError := by
    have arm : exec (.cellArrival c) s = execCellArrival c s := rfl
    rw [arm, execCellArrival]
    dsimp only
    rw [if_pos (by simp [here, format, cls]), if_neg (by simp [kept]), if_pos (by simp [bad])] <;> rfl
  obtain ⟨mem, stat⟩ := s.atRequest_rest c
  obtain ⟨counted, still, -⟩ := (s.atRequest c).countDrop_effect 63 48
  exact ⟨_, run, counted.trans (by rw [stat]), still.trans mem⟩

/-- A good cell of format A goes the way of its class. -/
theorem cellArrival_good {cls : Nat} (good : GoodCell s c false cls) (few : cls < 6) :
    exec (.cellArrival c) s = .next (if cls = clRsp then (s.atRequest c).reply c
      else if cls = clMgt then (s.atRequest c).mgtCell c
      else if cls = clXch then (s.atRequest c).malformed
      else (s.atRequest c).request c) := by
  obtain ⟨here, kept, format, rfl, crc⟩ := good
  have arm : exec (.cellArrival c) s = execCellArrival c s := rfl
  rw [arm, execCellArrival]
  dsimp only
  rw [if_pos (by simp [here, format, few]), if_neg (by simp [kept]), if_neg (by simp [crc])] <;> rfl

theorem cellArrival_reply (good : GoodCell s c false clRsp) : exec (.cellArrival c) s = .next ((s.atRequest c).reply c) := by
  rw [cellArrival_good good (by decide), if_pos rfl]

theorem cellArrival_management (good : GoodCell s c false clMgt) : Gives (.cellArrival c) s (fun t => t.mem = s.mem ∧
    t.xpt.mgtRing = (if (s.atRequest c).xpt.mgtRing.length < mgtRingCells then (s.atRequest c).xpt.mgtRing ++ [c]
      else (s.atRequest c).xpt.mgtRing)) := by
  have run := cellArrival_good good (by decide)
  rw [if_neg (by decide), if_pos rfl] at run
  obtain ⟨mem, -⟩ := s.atRequest_rest c
  refine ⟨_, run, ?_⟩
  unfold State.mgtCell
  split
  · exact ⟨mem, rfl⟩
  · obtain ⟨-, still, -, ring⟩ := (s.atRequest c).countDrop_effect 11 4
    exact ⟨still.trans mem, ring⟩

theorem cellArrival_request (good : GoodCell s c false c.cls) (cls : c.cls = clReq ∨ c.cls = clBlk ∨ c.cls = clCol) :
    exec (.cellArrival c) s = .next ((s.atRequest c).request c) := by
  have few : c.cls < 6 := by rcases cls with h | h | h <;> rw [h] <;> decide
  rw [cellArrival_good good few]
  rcases cls with h | h | h <;> rw [h] <;> rfl

end

/-! ### Requests at their target (R360, R365) -/

section
variable {u t : State} {c : Cell} {x i : Nat} {m : InMsg}

/-- The identity of a message of format A (R360). -/
def keyA (h : BitVec 96) : MsgKey := .a (BitVec.ofNat 16 (aSrc h)) (aMsg h)

theorem State.nak_formatA (format : hIsX c.hdr = false) (kind code : Nat) : u.nak c kind code = u.nakA c kind code := by
  rw [State.nak, if_neg (by simp [format])]

theorem State.request_unknownTag (format : hIsX c.hdr = false) (tag : u.ctxOfTag (aRtag c.hdr) = none)
    (unheard : u.xpt.retire.find? (fun r => r.key == keyA c.hdr) = none) : u.request c = u.nakA c 2 ncNoTag := by
  have key : MsgKey.a (BitVec.ofNat 16 (aSrc c.hdr)) (aMsg c.hdr) = keyA c.hdr := rfl
  unfold State.request
  dsimp only
  rw [tag, key]
  dsimp only
  unfold State.arrive
  dsimp only
  rw [if_neg (by simp), unheard]
  exact State.nak_formatA format _ _

theorem State.request_suspended (format : hIsX c.hdr = false) (tag : u.ctxOfTag (aRtag c.hdr) = some x) (naks : u.naksAll x = true) :
    u.request c = u.nakA c 1 ncSuspended := by
  unfold State.request
  dsimp only
  rw [tag]
  dsimp only
  unfold State.arrive
  dsimp only
  rw [naks, if_pos (by simp)]
  exact State.nak_formatA format _ _

/-- A request that its context takes meets the records and contexts of its identity. -/
theorem State.request_arrives (tag : u.ctxOfTag (aRtag c.hdr) = some x) (runs : u.naksAll x = false) : u.request c =
    u.arrive (keyA c.hdr) c none (fun t => if c.cls = clCol then t.admitCol x (keyA c.hdr) c else t.admitReq x (keyA c.hdr) c) := by
  unfold State.request
  dsimp only
  rw [tag]
  dsimp only
  rw [runs] <;> rfl

section
variable (tag : u.ctxOfTag (aRtag c.hdr) = some x) (runs : u.naksAll x = false)
include tag runs

theorem State.request_newReq (cls : c.cls = clReq ∨ c.cls = clBlk) (new : NewMessage u (keyA c.hdr) c i)
    (whole : ¬(1 ≤ aKind c.hdr ∧ aKind c.hdr ≤ 3 ∧ hLast c.hdr ≠ 0)) (admitted : u.admitReq x (keyA c.hdr) c = .go t m) :
    u.request c = t.countCell i m c := by
  have notCol : ¬c.cls = clCol := by rcases cls with h | h <;> rw [h] <;> decide
  rw [State.request_arrives tag runs]
  refine State.arrive_new new (.inr fun h => whole h.2) ?_
  rw [if_neg notCol, admitted]

theorem State.request_newCol (cls : c.cls = clCol) (new : NewMessage u (keyA c.hdr) c i)
    (admitted : u.admitCol x (keyA c.hdr) c = .go t m) : u.request c = t.countCell i m c := by
  rw [State.request_arrives tag runs]
  refine State.arrive_new new (.inr fun h => ?_) ?_
  · rw [cls] at h
    exact absurd h.1 (by decide)
  · rw [if_pos cls, admitted]

end

/-! ### Complete messages (R360, R363) -/

theorem State.retire_rest (s : State) (i : Nat) (m : InMsg) (r : Cell) : (s.retire i m r).xpt.injected = s.xpt.injected ∧
    (s.retire i m r).mem = s.mem ∧ (s.retire i m r).clusters = s.clusters ∧ (s.retire i m r).cores = s.cores := by
  unfold State.retire
  split <;> exact ⟨rfl, rfl, rfl, rfl⟩

/-- With a free entry a complete message leaves its record and frees its context. -/
theorem State.retire_records {s : State} (free : s.xpt.retire.length < retireEntries) (i : Nat) (m : InMsg) (r : Cell) :
    (∃ e ∈ (s.retire i m r).xpt.retire, e.key = m.key ∧ e.reply = r) ∧ sget none (s.retire i m r).xpt.inbound i = none := by
  rw [State.retire, if_pos free]
  exact ⟨⟨s.retireOf m r, List.mem_append_right _ List.mem_cons_self, rfl, rfl⟩, (sget_sset_same (none : Option InMsg) s.xpt.inbound i none :)⟩

/-- A message of format A with a reply cell ends with the reply handed to transport and its record. -/
theorem State.finish_replies {s : State} {reply : Cell} (format : hIsX c.hdr = false) (effect : s.complete m c = (t, some reply))
    (cls : reply.cls = clRsp) : s.finish i m c = (t.inject [reply]).retire i m reply := by
  unfold State.finish
  rw [effect]
  dsimp only
  rw [if_pos cls, if_neg (by simp [format])]

/-- What a message of format A that is answered with one reply leaves. -/
theorem State.finish_effect {s : State} {reply : Cell} (format : hIsX c.hdr = false) (effect : s.complete m c = (t, some reply))
    (cls : reply.cls = clRsp) : reply ∈ (s.finish i m c).xpt.injected ∧ (s.finish i m c).mem = t.mem ∧
      (∀ k id, (s.finish i m c).flag k id = t.flag k id) := by
  rw [State.finish_replies format effect cls]
  obtain ⟨injected, mem, clusters, cores⟩ := (t.inject [reply]).retire_rest i m reply
  refine ⟨?_, mem, fun k id => ?_⟩
  · rw [injected]
    exact List.mem_append_right _ List.mem_cons_self
  · unfold State.flag
    rw [State.cluster_of_clusters clusters, State.core_of_cores cores]
    rfl

/-! ### FLAG_SET, GET and ATOMIC (R352, R366) -/

/-- The COMPLETION that answers a request of format A. -/
def doneReply (s : State) (h : BitVec 96) : Cell := replyA s.node h 0 0 0 0 [] false

/-- A request of one cell that places no bytes. -/
theorem State.placeCell_request (format : hIsX c.hdr = false) (cls : c.cls ≠ clCol) (kind : aKind c.hdr = 1 ∨ aKind c.hdr = 2 ∨ aKind c.hdr = 3) :
    u.placeCell m c = .ok (u, m) := by
  unfold State.placeCell
  dsimp only
  rw [if_neg (by simp [format]), if_neg cls]
  rcases kind with h | h | h <;> simp only [h]

theorem State.flagsMoved_idle {s : State} {k : Nat} (idle : (s.cluster k).colls = []) : s.flagsMoved k = s := by
  rw [State.flagsMoved, idle]
  rfl

theorem FlagsOnly.colls {s t : State} (h : FlagsOnly s t) (k : Nat) : (t.cluster k).colls = (s.cluster k).colls := by
  obtain ⟨_, _, eq⟩ := h.cluster k
  rw [eq]

section
variable (format : hIsX c.hdr = false) (cls : c.cls ≠ clCol)
include format cls

/-- A FLAG_SET acts on the flag that it names, where no collective waits for one. -/
theorem State.complete_flagSet {k : Nat} (kind : aKind c.hdr = 3) (core : (u.ctx m.ctx).physical (leAt c.payload 0 1) = some k)
    (idle : (u.cluster k).colls = []) :
    u.complete m c = (if leAt c.payload 3 1 = 0
        then u.setFlag k (BitVec.ofNat 16 (leAt c.payload 1 2)) (BitVec.ofNat 32 (leAt c.payload 4 4))
        else u.addFlag k (BitVec.ofNat 16 (leAt c.payload 1 2)) (leAt c.payload 4 4), some (doneReply u c.hdr)) := by
  have still : ((if leAt c.payload 3 1 = 0
      then u.setFlag k (BitVec.ofNat 16 (leAt c.payload 1 2)) (BitVec.ofNat 32 (leAt c.payload 4 4))
      else u.addFlag k (BitVec.ofNat 16 (leAt c.payload 1 2)) (leAt c.payload 4 4)).cluster k).colls = [] := by
    split
    · exact ((u.setFlag_flagsOnly k _ _).colls k).trans idle
    · exact ((u.addFlag_flagsOnly k _ _).colls k).trans idle
  unfold State.complete
  dsimp only
  rw [if_neg (by simp [format]), if_neg cls]
  simp only [kind]
  rw [core]
  dsimp only
  rw [State.flagsMoved_idle still] <;> rfl

theorem State.complete_get {r : State × List PByte} (kind : aKind c.hdr = 1)
    (read : u.readLoc m.ctx 0 .inbound ⟨.va, leAt c.payload 0 8⟩ (leAt c.payload 8 4) = .ok r) :
    u.complete m c = (r.1.inject ((payloads48 r.2).zipIdx.map fun p =>
      replyA u.node c.hdr 3 0 p.2 ((payloads48 r.2).length - 1) p.1.1 p.1.2), some c) := by
  unfold State.complete
  dsimp only
  rw [if_neg (by simp [format]), if_neg cls]
  simp only [kind]
  unfold State.serveGet
  dsimp only
  rw [read]

theorem State.complete_atomic {pa : Nat} {v : State} {old : Word64} (kind : aKind c.hdr = 2)
    (mapped : u.translate m.ctx .inbound .atomic (leAt c.payload 0 8) = .ok pa)
    (run : u.atomicPa pa (leAt c.payload 8 1) (BitVec.ofNat 64 (leAt c.payload 16 8)) (BitVec.ofNat 64 (leAt c.payload 24 8)) [] =
      (v, some old)) :
    u.complete m c = (v, some (replyA u.node c.hdr 4 0 0 0 (leBytes 8 old.toNat) false)) := by
  unfold State.complete
  dsimp only
  rw [if_neg (by simp [format]), if_neg cls]
  simp only [kind]
  rw [mapped]
  dsimp only
  rw [run]

theorem State.complete_reduce {v : State} (kind : aKind c.hdr = 4)
    (run : u.reduceInto m (bitsOf (leAt c.payload 0 8) 55 54) = .ok v) : u.complete m c = (v, some (doneReply u c.hdr)) := by
  unfold State.complete
  dsimp only
  rw [if_neg (by simp [format]), if_neg cls]
  simp only [kind]
  rw [run] <;> rfl

theorem State.complete_put (kind : aKind c.hdr = 0) : u.complete m c = (u, some (doneReply u c.hdr)) := by
  unfold State.complete
  dsimp only
  rw [if_neg (by simp [format]), if_neg cls]
  simp only [kind]
  rfl

end

/-! ### What a request is admitted with (R261, R366) -/

section
variable {key : MsgKey}

theorem State.admitReq_flagSet (kind : aKind c.hdr = 3) (clean : aPoison c.hdr = false)
    (id : flagIdOk (BitVec.ofNat 16 (leAt c.payload 1 2)) = true) {k : Nat} (core : (u.ctx x).physical (leAt c.payload 0 1) = some k)
    (mode : leAt c.payload 3 1 = 0 ∨ leAt c.payload 3 1 = 1 ∧ 1 ≤ leAt c.payload 4 4 ∧ leAt c.payload 4 4 ≤ 65535) :
    u.admitReq x key c = .go u (newIn u key x c.hdr 0 0 0) := by
  have good : ¬((!flagIdOk (BitVec.ofNat 16 (leAt c.payload 1 2))) = true ∨ ((u.ctx x).physical (leAt c.payload 0 1)).isNone = true ∨
      1 < leAt c.payload 3 1 ∨ (leAt c.payload 3 1 = 1 ∧ (leAt c.payload 4 4 = 0 ∨ 65535 < leAt c.payload 4 4))) := by
    rw [id, core]
    rintro (h | h | h | h)
    · cases h
    · cases h
    · omega
    · omega
  unfold State.admitReq
  dsimp only
  simp only [kind]
  rw [if_neg (by simp [clean]), if_neg good]

theorem State.admitReq_get (kind : aKind c.hdr = 1) (some_ : 1 ≤ leAt c.payload 8 4) (fits : leAt c.payload 8 4 ≤ 196608)
    (mapped : u.translateMsg x .inbound .read (leAt c.payload 0 8) (leAt c.payload 8 4) = .ok ()) :
    u.admitReq x key c = .go u (newIn u key x c.hdr (leAt c.payload 0 8) (leAt c.payload 8 4) 0) := by
  unfold State.admitReq
  dsimp only
  simp only [kind]
  rw [if_neg (by omega), mapped]

theorem State.admitReq_atomic (kind : aKind c.hdr = 2) (clean : aPoison c.hdr = false) (aligned : leAt c.payload 0 8 % 8 = 0)
    (op : leAt c.payload 8 1 ≤ 2) (mapped : u.translateMsg x .inbound .atomic (leAt c.payload 0 8) 8 = .ok ()) :
    u.admitReq x key c = .go u (newIn u key x c.hdr (leAt c.payload 0 8) 8 0) := by
  unfold State.admitReq
  dsimp only
  simp only [kind]
  rw [if_neg (by simp [clean]), if_neg (by omega), mapped]

theorem State.admitReq_put (kind : aKind c.hdr = 0) (some_ : 1 ≤ bitsOf (leAt c.payload 0 8) 53 48)
    (fits : bitsOf (leAt c.payload 0 8) 53 48 ≤ 40)
    (mapped : u.translateMsg x .inbound .write ((bitsOf (leAt c.payload 0 8) 47 0 + 2 ^ 48 - 40 * aIdx c.hdr) % 2 ^ 48)
      (bytes40 c.hdr (bitsOf (leAt c.payload 0 8) 53 48)) = .ok ()) :
    u.admitReq x key c = .go u (newIn u key x c.hdr ((bitsOf (leAt c.payload 0 8) 47 0 + 2 ^ 48 - 40 * aIdx c.hdr) % 2 ^ 48)
      (bytes40 c.hdr (bitsOf (leAt c.payload 0 8) 53 48)) (bitsOf (leAt c.payload 0 8) 53 48)) := by
  unfold State.admitReq
  dsimp only
  simp only [kind]
  rw [if_neg (by simp; omega), mapped]
  rfl

theorem State.admitReq_reduce (kind : aKind c.hdr = 4) (some_ : 1 ≤ bitsOf (leAt c.payload 0 8) 53 48)
    (fits : bitsOf (leAt c.payload 0 8) 53 48 ≤ 40) (first : aIdx c.hdr = 0) (single : hLast c.hdr = 0)
    (fmt : bitsOf (leAt c.payload 0 8) 55 54 ≠ 3)
    (aligned : bitsOf (leAt c.payload 0 8) 47 0 % reduceBytes (bitsOf (leAt c.payload 0 8) 55 54) = 0)
    (whole : bitsOf (leAt c.payload 0 8) 53 48 % reduceBytes (bitsOf (leAt c.payload 0 8) 55 54) = 0)
    (room : u.xpt.staging + bitsOf (leAt c.payload 0 8) 53 48 ≤ reduceStaging)
    (mapped : u.translateMsg x .inbound .write (bitsOf (leAt c.payload 0 8) 47 0) (bitsOf (leAt c.payload 0 8) 53 48) = .ok ()) :
    u.admitReq x key c = .go { u with xpt := { u.xpt with staging := u.xpt.staging + bitsOf (leAt c.payload 0 8) 53 48 } }
      { newIn u key x c.hdr (bitsOf (leAt c.payload 0 8) 47 0) (bitsOf (leAt c.payload 0 8) 53 48) (bitsOf (leAt c.payload 0 8) 53 48) with
        reserve := bitsOf (leAt c.payload 0 8) 53 48 } := by
  have base : (bitsOf (leAt c.payload 0 8) 47 0 + 2 ^ 48 - 40 * aIdx c.hdr) % 2 ^ 48 = bitsOf (leAt c.payload 0 8) 47 0 := by
    have low : bitsOf (leAt c.payload 0 8) 47 0 < 2 ^ 48 := Nat.mod_lt _ (by decide)
    rw [first]
    omega
  have bytes : bytes40 c.hdr (bitsOf (leAt c.payload 0 8) 53 48) = bitsOf (leAt c.payload 0 8) 53 48 := by rw [bytes40, single, Nat.mul_zero, Nat.zero_add]
  unfold State.admitReq
  dsimp only
  simp only [kind]
  rw [base, bytes, if_neg (by simp [fmt, aligned, whole]; omega), mapped]
  dsimp only
  rw [if_neg (by decide), if_neg (Nat.not_lt.2 room)]

end

/-! ### Requests of one cell (R352, R366) -/

/-- A cell of a REDUCE_PUT waits in staging for the message's end (R366). -/
theorem State.placeCell_reduce (format : hIsX c.hdr = false) (cls : c.cls ≠ clCol) (kind : aKind c.hdr = 4) :
    u.placeCell m c = .ok (u, { m with
      staged := m.staged ++ [(aIdx c.hdr, sliceBytes c.payload 8 (if aIdx c.hdr = aLast c.hdr then m.validLast else 40))]
      stagedPoison := m.stagedPoison || aPoison c.hdr }) := by
  unfold State.placeCell
  dsimp only
  rw [if_neg (by simp [format]), if_neg cls]
  simp only [kind]

/-- A cell that leaves its place in a context of a new message: its index in format A is the cell's. -/
theorem hIdx_formatA (format : hIsX c.hdr = false) : hIdx c.hdr = aIdx c.hdr := by rw [hIdx, if_neg (by simp [format])]

/-- A new message of one cell is complete with that cell. -/
theorem newIn_full {key : MsgKey} (single : hLast c.hdr = 0) (base n valid : Nat) :
    (newIn u key x c.hdr base n valid).got.length = (newIn u key x c.hdr base n valid).last := single.symm

section
variable (format : hIsX c.hdr = false) (cls : c.cls = clReq ∨ c.cls = clBlk) (tag : u.ctxOfTag (aRtag c.hdr) = some x)
  (runs : u.naksAll x = false) (new : NewMessage u (keyA c.hdr) c i) (single : hLast c.hdr = 0)
include format cls tag runs new single

theorem State.request_flagSet {k : Nat} (kind : aKind c.hdr = 3) (clean : aPoison c.hdr = false)
    (id : flagIdOk (BitVec.ofNat 16 (leAt c.payload 1 2)) = true) (core : (u.ctx x).physical (leAt c.payload 0 1) = some k)
    (idle : (u.cluster k).colls = [])
    (mode : leAt c.payload 3 1 = 0 ∨ leAt c.payload 3 1 = 1 ∧ 1 ≤ leAt c.payload 4 4 ∧ leAt c.payload 4 4 ≤ 65535) :
    doneReply u c.hdr ∈ (u.request c).xpt.injected ∧ (u.request c).mem = u.mem ∧
      (u.request c).flag k (BitVec.ofNat 16 (leAt c.payload 1 2)) = (if leAt c.payload 3 1 = 0
        then u.setFlag k (BitVec.ofNat 16 (leAt c.payload 1 2)) (BitVec.ofNat 32 (leAt c.payload 4 4))
        else u.addFlag k (BitVec.ofNat 16 (leAt c.payload 1 2)) (leAt c.payload 4 4)).flag k (BitVec.ofNat 16 (leAt c.payload 1 2)) := by
  have notCol : c.cls ≠ clCol := by rcases cls with h | h <;> rw [h] <;> decide
  rw [State.request_newReq tag runs cls new (fun h => h.2.2 single) (State.admitReq_flagSet kind clean id core mode),
    State.countCell_last (State.placeCell_request format notCol (.inr (.inr kind))) (newIn_full single _ _ _)]
  obtain ⟨replied, mem, flag⟩ := State.finish_effect (i := i) format
    (State.complete_flagSet (m := (newIn u (keyA c.hdr) x c.hdr 0 0 0).counted u c) format notCol kind core idle) rfl
  refine ⟨replied, mem.trans ?_, flag _ _⟩
  split
  · exact (u.setFlag_flagsOnly _ _ _).mem
  · exact (u.addFlag_flagsOnly _ _ _).mem

theorem State.request_get {r : State × List PByte} (kind : aKind c.hdr = 1) (some_ : 1 ≤ leAt c.payload 8 4)
    (fits : leAt c.payload 8 4 ≤ 196608)
    (mapped : u.translateMsg x .inbound .read (leAt c.payload 0 8) (leAt c.payload 8 4) = .ok ())
    (read : u.readLoc x 0 .inbound ⟨.va, leAt c.payload 0 8⟩ (leAt c.payload 8 4) = .ok r) :
    (u.request c).mem = r.1.mem ∧ (∃ e ∈ (u.request c).xpt.retire, e.key = keyA c.hdr ∧ e.reply = c) ∧
      (u.request c).xpt.injected = r.1.xpt.injected ++ (payloads48 r.2).zipIdx.map (fun q =>
        replyA u.node c.hdr 3 0 q.2 ((payloads48 r.2).length - 1) q.1.1 q.1.2) := by
  have notCol : c.cls ≠ clCol := by rcases cls with h | h <;> rw [h] <;> decide
  have notReply : ¬c.cls = clRsp := by rcases cls with h | h <;> rw [h] <;> decide
  rw [State.request_newReq tag runs cls new (fun h => h.2.2 single) (State.admitReq_get kind some_ fits mapped),
    State.countCell_last (State.placeCell_request format notCol (.inl kind)) (newIn_full single _ _ _)]
  unfold State.finish
  rw [State.complete_get format notCol kind read]
  dsimp only
  rw [if_neg notReply, if_neg (by simp [format])]
  have room : (r.1.inject ((payloads48 r.2).zipIdx.map fun p =>
      replyA u.node c.hdr 3 0 p.2 ((payloads48 r.2).length - 1) p.1.1 p.1.2)).xpt.retire.length < retireEntries := by
    have same : r.1.xpt = u.xpt := (State.readLoc_moved read).xpt
    obtain ⟨-, -, -, free, -⟩ := new
    show r.1.xpt.retire.length < retireEntries
    rw [same]
    exact free
  generalize sent : (r.1.inject ((payloads48 r.2).zipIdx.map fun p =>
      replyA u.node c.hdr 3 0 p.2 ((payloads48 r.2).length - 1) p.1.1 p.1.2)) = v at room ⊢
  obtain ⟨injected, mem, -⟩ := v.retire_rest i ((newIn u (keyA c.hdr) x c.hdr (leAt c.payload 0 8) (leAt c.payload 8 4) 0).counted u c) c
  refine ⟨mem.trans (by rw [← sent]; rfl), (State.retire_records room i _ c).1, injected.trans (by rw [← sent]; rfl)⟩

theorem State.request_atomic {pa : Nat} {v : State} {old : Word64} (kind : aKind c.hdr = 2) (clean : aPoison c.hdr = false)
    (aligned : leAt c.payload 0 8 % 8 = 0) (op : leAt c.payload 8 1 ≤ 2)
    (mapped : u.translateMsg x .inbound .atomic (leAt c.payload 0 8) 8 = .ok ())
    (place : u.translate x .inbound .atomic (leAt c.payload 0 8) = .ok pa)
    (run : u.atomicPa pa (leAt c.payload 8 1) (BitVec.ofNat 64 (leAt c.payload 16 8)) (BitVec.ofNat 64 (leAt c.payload 24 8)) [] =
      (v, some old)) :
    (u.request c).mem = v.mem ∧ replyA u.node c.hdr 4 0 0 0 (leBytes 8 old.toNat) false ∈ (u.request c).xpt.injected := by
  have notCol : c.cls ≠ clCol := by rcases cls with h | h <;> rw [h] <;> decide
  rw [State.request_newReq tag runs cls new (fun h => h.2.2 single) (State.admitReq_atomic kind clean aligned op mapped),
    State.countCell_last (State.placeCell_request format notCol (.inr (.inl kind))) (newIn_full single _ _ _)]
  obtain ⟨replied, mem, -⟩ := State.finish_effect (i := i) format (State.complete_atomic
    (m := (newIn u (keyA c.hdr) x c.hdr (leAt c.payload 0 8) 8 0).counted u c) format notCol kind place run) rfl
  exact ⟨mem, replied⟩

/-- A REDUCE_PUT of one cell whose bytes staging takes: its elements are added as the message completes. -/
theorem State.request_reduce {v : State} (kind : aKind c.hdr = 4) (some_ : 1 ≤ bitsOf (leAt c.payload 0 8) 53 48)
    (fits : bitsOf (leAt c.payload 0 8) 53 48 ≤ 40) (fmt : bitsOf (leAt c.payload 0 8) 55 54 ≠ 3)
    (aligned : bitsOf (leAt c.payload 0 8) 47 0 % reduceBytes (bitsOf (leAt c.payload 0 8) 55 54) = 0)
    (elements : bitsOf (leAt c.payload 0 8) 53 48 % reduceBytes (bitsOf (leAt c.payload 0 8) 55 54) = 0)
    (room : u.xpt.staging + bitsOf (leAt c.payload 0 8) 53 48 ≤ reduceStaging)
    (mapped : u.translateMsg x .inbound .write (bitsOf (leAt c.payload 0 8) 47 0) (bitsOf (leAt c.payload 0 8) 53 48) = .ok ())
    (run : ({ u with xpt := { u.xpt with staging := u.xpt.staging + bitsOf (leAt c.payload 0 8) 53 48 } } : State).reduceInto
      { newIn u (keyA c.hdr) x c.hdr (bitsOf (leAt c.payload 0 8) 47 0) (bitsOf (leAt c.payload 0 8) 53 48)
          (bitsOf (leAt c.payload 0 8) 53 48) with
        got := [hIdx c.hdr], lapseAt := u.now + 2 * u.xpt.resendNs, reserve := bitsOf (leAt c.payload 0 8) 53 48
        staged := [(aIdx c.hdr, sliceBytes c.payload 8 (if aIdx c.hdr = aLast c.hdr then bitsOf (leAt c.payload 0 8) 53 48 else 40))]
        stagedPoison := aPoison c.hdr }
      (bitsOf (leAt c.payload 0 8) 55 54) = .ok v) :
    doneReply u c.hdr ∈ (u.request c).xpt.injected ∧ (u.request c).mem = v.mem := by
  have notCol : c.cls ≠ clCol := by rcases cls with h | h <;> rw [h] <;> decide
  have first : aIdx c.hdr = 0 := by
    obtain ⟨-, -, -, -, inside⟩ := new
    rw [hIdx_formatA format] at inside
    omega
  have admitted := State.admitReq_reduce (u := u) (x := x) (key := keyA c.hdr) kind some_ fits first single fmt aligned elements room mapped
  rw [State.request_newReq tag runs cls new (fun h => absurd h.2.1 (by omega)) admitted]
  obtain ⟨w, hw, node, now, resend⟩ : ∃ w : State,
      ({ u with xpt := { u.xpt with staging := u.xpt.staging + bitsOf (leAt c.payload 0 8) 53 48 } } : State) = w ∧
        w.node = u.node ∧ w.now = u.now ∧ w.xpt.resendNs = u.xpt.resendNs := ⟨_, rfl, rfl, rfl, rfl⟩
  rw [hw] at run ⊢
  rw [← now, ← resend] at run
  have placed := State.placeCell_reduce (u := w)
    (m := { newIn u (keyA c.hdr) x c.hdr (bitsOf (leAt c.payload 0 8) 47 0) (bitsOf (leAt c.payload 0 8) 53 48)
              (bitsOf (leAt c.payload 0 8) 53 48) with reserve := bitsOf (leAt c.payload 0 8) 53 48 }) format notCol kind
  rw [State.countCell_last placed (show 0 = hLast c.hdr from single.symm)]
  have effect := State.complete_reduce (c := c) format notCol kind run
  have reply : doneReply w c.hdr = doneReply u c.hdr := by rw [doneReply, doneReply, node]
  rw [reply] at effect
  obtain ⟨replied, mem, -⟩ := State.finish_effect (i := i) format effect rfl
  exact ⟨replied, mem⟩

end

/-! ### PUT (R360, R365) -/

theorem State.placeCell_put {v : State} (format : hIsX c.hdr = false) (cls : c.cls ≠ clCol) (kind : aKind c.hdr = 0)
    (written : u.writeVa m.ctx .inbound (bitsOf (leAt c.payload 0 8) 47 0)
      (sliceBytes c.payload 8 (if aIdx c.hdr = aLast c.hdr then m.validLast else 40)) (aPoison c.hdr) = .ok v) :
    u.placeCell m c = .ok (v, m) := by
  unfold State.placeCell
  dsimp only
  rw [if_neg (by simp [format]), if_neg cls]
  simp only [kind]
  rw [written]

theorem State.node_of_xpt {s t : State} (h : t.xpt = s.xpt) : t.node = s.node := by rw [State.node, State.node, h]

/-- The last cell of a PUT: its reply, its record, and a free context. -/
theorem State.countCell_putLast {v : State} (format : hIsX c.hdr = false) (cls : c.cls ≠ clCol) (kind : aKind c.hdr = 0)
    (written : u.writeVa m.ctx .inbound (bitsOf (leAt c.payload 0 8) 47 0)
      (sliceBytes c.payload 8 (if aIdx c.hdr = aLast c.hdr then m.validLast else 40)) (aPoison c.hdr) = .ok v)
    (full : m.got.length = m.last) (room : u.xpt.retire.length < retireEntries) :
    (u.countCell i m c).mem = v.mem ∧ doneReply u c.hdr ∈ (u.countCell i m c).xpt.injected ∧
      sget none (u.countCell i m c).xpt.inbound i = none ∧ ∃ e ∈ (u.countCell i m c).xpt.retire, e.key = m.key := by
  have xpt : v.xpt = u.xpt := (congrArg State.xpt (State.writeVa_memOnly written).eq :)
  have reply : doneReply v c.hdr = doneReply u c.hdr := by rw [doneReply, doneReply, State.node_of_xpt xpt]
  have effect := State.complete_put (u := v) (m := m.counted u c) format cls kind
  rw [reply] at effect
  rw [State.countCell_last (State.placeCell_put format cls kind written) full]
  obtain ⟨replied, mem, -⟩ := State.finish_effect (i := i) format effect rfl
  have free : (v.inject [doneReply u c.hdr]).xpt.retire.length < retireEntries := by
    show v.xpt.retire.length < retireEntries
    rw [xpt]
    exact room
  refine ⟨mem, replied, ?_, ?_⟩
  · rw [State.finish_replies format effect rfl]
    exact (State.retire_records free i (m.counted u c) _).2
  · rw [State.finish_replies format effect rfl]
    obtain ⟨e, member, key, -⟩ := (State.retire_records free i (m.counted u c) (doneReply u c.hdr)).1
    exact ⟨e, member, key⟩

/-- A cell of a PUT that does not complete it. -/
theorem State.countCell_putMore {v : State} (format : hIsX c.hdr = false) (cls : c.cls ≠ clCol) (kind : aKind c.hdr = 0)
    (written : u.writeVa m.ctx .inbound (bitsOf (leAt c.payload 0 8) 47 0)
      (sliceBytes c.payload 8 (if aIdx c.hdr = aLast c.hdr then m.validLast else 40)) (aPoison c.hdr) = .ok v)
    (more : m.got.length ≠ m.last) :
    (u.countCell i m c).mem = v.mem ∧ sget none (u.countCell i m c).xpt.inbound i = some (m.counted u c) := by
  rw [State.countCell_more (State.placeCell_put format cls kind written) more]
  exact ⟨rfl, State.putIn_inbound _ _ _⟩

/-! ### Cells of collectives (R368, R388) -/

theorem State.colPlace_moved {s v : State} {k : ColSink} {beacon : Bool} {word : Nat} {bytes : List Byte} {poison : Bool}
    (run : s.colPlace x k beacon word bytes poison = .ok v) : DataMoved s v := by
  unfold State.colPlace at run
  split at run
  · obtain rfl := Except.ok.inj run
    exact .refl _
  · split at run
    · split at run
      · obtain rfl := Except.ok.inj run
        exact .refl _
      · obtain rfl := Except.ok.inj run
        exact State.writePlace_moved _ _ _ _
    · split at run
      · cases run
      · next t written =>
        obtain rfl := Except.ok.inj run
        exact State.writeLoc_moved written

section
variable (format : hIsX c.hdr = false) (cls : c.cls = clCol) (tag : u.ctxOfTag (aRtag c.hdr) = some x)
  (runs : u.naksAll x = false) (new : NewMessage u (keyA c.hdr) c i) (single : hLast c.hdr = 0) (epoch : u.epochNak x (aKind c.hdr / 8) = none)
include format cls tag runs new single epoch

theorem State.request_credit {y k desc stage : Nat} (credit : u.colAdmit x c.hdr (leAt c.payload 0 8) = .credit y k desc stage) :
    u.request c = ((u.ringCredit y k desc stage).inject [doneReply u c.hdr]).retire i
      ((newIn u (keyA c.hdr) x c.hdr 0 0 0).counted u c) (doneReply u c.hdr) := by
  have admitted : u.admitCol x (keyA c.hdr) c = .go u (newIn u (keyA c.hdr) x c.hdr 0 0 0) := by
    unfold State.admitCol
    dsimp only
    rw [epoch]
    dsimp only
    rw [credit]
  have placed : u.placeCell (newIn u (keyA c.hdr) x c.hdr 0 0 0) c = .ok (u, newIn u (keyA c.hdr) x c.hdr 0 0 0) := by
    unfold State.placeCell
    dsimp only
    rw [if_neg (by simp [format]), if_pos cls] <;> rfl
  have effect : u.complete ((newIn u (keyA c.hdr) x c.hdr 0 0 0).counted u c) c =
      (u.ringCredit y k desc stage, some (doneReply u c.hdr)) := by
    have none_ : ((newIn u (keyA c.hdr) x c.hdr 0 0 0).counted u c).col = none := rfl
    have ctx : ((newIn u (keyA c.hdr) x c.hdr 0 0 0).counted u c).ctx = x := rfl
    unfold State.complete
    dsimp only
    rw [if_neg (by simp [format]), if_pos cls, none_, ctx]
    dsimp only
    rw [credit] <;> rfl
  rw [State.request_newCol tag runs cls new admitted, State.countCell_last placed (newIn_full single _ _ _), State.finish_replies format effect rfl]

theorem State.request_contribution {y : Nat} {k : ColSink} {v : State} (sink : u.colAdmit x c.hdr (leAt c.payload 0 8) = .sink y k)
    (near : k.fate = 2 ∨ k.inCm = true) (plain : aKind c.hdr % 8 ≠ codeBeacon) (whole : aIdx c.hdr = aLast c.hdr)
    (placed : u.colPlace x k false (leAt c.payload 0 8) (sliceBytes c.payload 8 (landValid (leAt c.payload 0 8))) (aPoison c.hdr) = .ok v) :
    u.request c = ((v.colComplete x (aSrc c.hdr) k (landOffset (leAt c.payload 0 8) - 40 * aIdx c.hdr)
        (bytes40 c.hdr (landValid (leAt c.payload 0 8)))
        (stagedBytes ({ newIn u (keyA c.hdr) x c.hdr 0 0 (landValid (leAt c.payload 0 8)) with col := some k }.counted u c))).inject
          [doneReply u c.hdr]).retire i ({ newIn u (keyA c.hdr) x c.hdr 0 0 (landValid (leAt c.payload 0 8)) with col := some k }.counted u c)
        (doneReply u c.hdr) := by
  have admitted : u.admitCol x (keyA c.hdr) c =
      .go u { newIn u (keyA c.hdr) x c.hdr 0 0 (landValid (leAt c.payload 0 8)) with col := some k } := by
    unfold State.admitCol
    dsimp only
    rw [epoch]
    dsimp only
    rw [sink]
    dsimp only
    rw [if_pos (near.elim .inl fun h => .inr (.inl h))]
  generalize kept : ({ newIn u (keyA c.hdr) x c.hdr 0 0 (landValid (leAt c.payload 0 8)) with col := some k } : InMsg) = m at *
  have col : m.col = some k := by rw [← kept]
  have ctx : m.ctx = x := by rw [← kept]; rfl
  have valid : m.validLast = landValid (leAt c.payload 0 8) := by rw [← kept]; rfl
  have full : m.got.length = m.last := by rw [← kept]; exact single.symm
  have beacon : (aKind c.hdr % 8 == codeBeacon) = false := beq_eq_false_iff_ne.2 plain
  have place : u.placeCell m c = .ok (v, m) := by
    unfold State.placeCell
    dsimp only
    rw [if_neg (by simp [format]), if_pos cls, col]
    dsimp only
    rw [beacon, if_pos whole, valid, ctx, placed] <;> rfl
  have reply : doneReply v c.hdr = doneReply u c.hdr := by
    rw [doneReply, doneReply, State.node_of_xpt (State.colPlace_moved placed).xpt]
  have effect : v.complete (m.counted u c) c = (v.colComplete x (aSrc c.hdr) k (landOffset (leAt c.payload 0 8) - 40 * aIdx c.hdr)
      (bytes40 c.hdr (landValid (leAt c.payload 0 8))) (stagedBytes (m.counted u c)), some (doneReply u c.hdr)) := by
    have col' : (m.counted u c).col = some k := col
    have ctx' : (m.counted u c).ctx = x := ctx
    have valid' : (m.counted u c).validLast = landValid (leAt c.payload 0 8) := valid
    rw [← reply]
    unfold State.complete
    dsimp only
    rw [if_neg (by simp [format]), if_pos cls, col']
    dsimp only
    rw [ctx', valid'] <;> rfl
  rw [State.request_newCol tag runs cls new admitted, State.countCell_last place full, State.finish_replies format effect rfl]

end

end

/-- Settles O36: a cell that its class brings to the request side is the first or a further one of its message, and the message's
effect follows when all of it has come. -/
theorem requestCellsAct : Obligations.RequestCellsAct := by
  unfold Obligations.RequestCellsAct
  intro c s x i
  dsimp only
  have mem : (s.atRequest c).mem = s.mem := (s.atRequest_rest c).1
  refine ⟨fun here format cls => ⟨cellArrival_lost here format cls, cellArrival_badCrc here format cls⟩, cellArrival_reply,
    cellArrival_management, fun good cls => ?_, fun good cls tag runs => ?_, fun good tag runs new single epoch => ?_⟩
  · have run := cellArrival_request good cls
    obtain ⟨-, -, format, -⟩ := good
    exact ⟨fun tag unheard => run.trans (congrArg _ (State.request_unknownTag format tag unheard)),
      fun tag naks => run.trans (congrArg _ (State.request_suspended format tag naks))⟩
  · have run := cellArrival_request good (cls.elim .inl fun b => .inr (.inl b))
    have notCol : c.cls ≠ clCol := by rcases cls with h | h <;> rw [h] <;> decide
    obtain ⟨-, -, format, -⟩ := good
    refine ⟨fun new single => ⟨fun k kind clean id core idle => ⟨fun mode => ?_, fun mode low high => ?_⟩,
      fun r kind some_ fits mapped read => ⟨_, run, State.request_get format cls tag runs new single kind some_ fits mapped read⟩,
      fun pa v old kind clean aligned op mapped place ran =>
        ⟨_, run, State.request_atomic format cls tag runs new single kind clean aligned op mapped place ran⟩,
      fun v kind some_ fits fmt _ aligned elements room mapped ran =>
        ⟨_, run, State.request_reduce format cls tag runs new single kind some_ fits fmt aligned elements room mapped ran⟩⟩,
      fun v kind new some_ fits mapped written => ?_, fun v m kind unheard known ctx pending wanted last inside gen room written => ?_⟩
    · obtain ⟨replied, still, flag⟩ := State.request_flagSet format cls tag runs new single kind clean id core idle (.inl mode)
      rw [if_pos mode, State.flag_setFlag_same] at flag
      exact ⟨_, run, replied, still.trans mem, flag⟩
    · obtain ⟨replied, still, flag⟩ := State.request_flagSet format cls tag runs new single kind clean id core idle (.inr ⟨mode, low, high⟩)
      rw [if_neg (by omega)] at flag
      exact ⟨_, run, replied, still.trans mem, flag⟩
    · rw [State.request_newReq tag runs cls new (fun h => absurd h.1 (by omega)) (State.admitReq_put kind some_ fits mapped)] at run
      refine ⟨_, run, ?_⟩
      obtain ⟨-, -, -, room, -⟩ := new
      generalize made : newIn (s.atRequest c) (keyA c.hdr) x c.hdr _ _ _ = m
      have written' : (s.atRequest c).writeVa m.ctx .inbound (bitsOf (leAt c.payload 0 8) 47 0)
          (sliceBytes c.payload 8 (if aIdx c.hdr = aLast c.hdr then m.validLast else 40)) (aPoison c.hdr) = .ok v := by
        rw [← made]
        exact written
      by_cases single : hLast c.hdr = 0
      · obtain ⟨put, replied, -, -⟩ := State.countCell_putLast (i := i) format notCol kind written'
          (by rw [← made]; exact newIn_full single _ _ _) room
        exact ⟨put, fun _ => replied, fun more => absurd single (by omega)⟩
      · obtain ⟨put, kept⟩ := State.countCell_putMore (i := i) format notCol kind written'
          (by rw [← made]; exact fun full => single full.symm)
        refine ⟨put, fun one => absurd one single, fun _ => ?_⟩
        rw [kept, ← made]
        rfl
    · rw [State.request_arrives tag runs, State.arrive_known (key := keyA c.hdr) unheard known pending wanted last inside gen] at run
      refine ⟨_, run, ?_⟩
      subst ctx
      by_cases full : m.got.length = m.last
      · obtain ⟨put, replied, free, record⟩ := State.countCell_putLast (i := i) format notCol kind written full room
        exact ⟨put, fun more => absurd full (by omega), fun _ => ⟨replied, free, record⟩⟩
      · obtain ⟨put, kept⟩ := State.countCell_putMore (i := i) format notCol kind written full
        exact ⟨put, fun _ => kept, fun whole => absurd whole full⟩
  · obtain ⟨here, kept, format, cls, crc⟩ := good
    have run := cellArrival_request ⟨here, kept, format, rfl, crc⟩ (.inr (.inr cls))
    refine ⟨fun y k desc stage credit => ?_, fun y k v sink near plain whole placed => ?_⟩
    · exact run.trans (congrArg _ (State.request_credit format cls tag runs new single epoch credit))
    · exact run.trans (congrArg _ (State.request_contribution format cls tag runs new single epoch sink near plain whole placed))

end Sys2Proof.Machine
end
